-- ==== Sys2Proof/Word.lean ====
section
/-! DEFINITION. The word types and the type of sparse tables. -/

namespace Sys2Proof

/-- R12: every register is 64 bits wide. -/
abbrev Word := BitVec 64
/-- One byte of a memory or of a packet's data. -/
abbrev Byte := BitVec 8
/-- R35: a status code is 8 bits wide; it is carried as its number. -/
abbrev Status := Nat

/-- A sparse table from numbers to values, sorted by key, holding no entry equal to its default. -/
abbrev SMap (α : Type) := List (Nat × α)

end Sys2Proof
end

