-- ==== Sys2Proof/Syntax.lean ====
section
/-! DEFINITION. The commands the block takes, one constructor per row of opcode_table.json, and the
plain data their operands are made of. The table gives no bits and no operands: the operands here are what
the rules name (log 3, log 13). -/

namespace Sys2Proof

/-- A logical tile of a Basalt die, by its scratch-window slot: M-tile n is slot n, V-tile n is slot 64 + n (R29). -/
structure TileId where
  die  : Fin 4
  slot : Fin 96
  deriving DecidableEq, Repr

/-- A logic region Ln of a Basalt die (R22). -/
structure RegionId where
  die : Fin 4
  n   : Fin 16
  deriving DecidableEq, Repr

/-- A fabric port Pn of a Shale die (R22). -/
structure PortId where
  shale : Fin 4
  port  : Fin 8
  deriving DecidableEq, Repr

/-- A fabric lane of a Shale die; lanes 32-35 are the spares (R22). -/
structure LaneId where
  shale : Fin 4
  lane  : Fin 36
  deriving DecidableEq, Repr

/-- A check-value unit: on a Basalt die 0-3 (64 units) or, as die 4, on S0 (32 units) (R415). -/
structure CvId where
  die  : Fin 5
  unit : Fin 64
  deriving DecidableEq, Repr

/-- What an ECC decoder finds when a word or burst is read: a physical outcome, so an operand of the command. -/
inductive Ecc where
  | good | corrected | uncorrectable
  deriving DecidableEq, Repr

/-- The opcode data of a fabric operation (R348). -/
structure OpData where
  seq    : BitVec 32 := 0
  ctx    : BitVec 13 := 0
  ord    : BitVec 2 := 0
  aop    : BitVec 4 := 0
  width  : Bool := false
  retry  : Bool := false
  redir  : Bool := false
  reqdev : BitVec 20 := 0
  inc    : BitVec 32 := 0
  deriving DecidableEq, Repr

/-- What the packets of a queue stream carry (R184-R186, R196): who produces, who consumes, credits, check values.
The spec names these facts and gives no layout for them (log 13). -/
structure QueueData where
  producer : Word := 0
  consumer : Word := 0
  credits  : Nat := 0
  bufsz    : Nat := 0
  crcOn    : Bool := false
  crc      : Option (BitVec 32) := none
  deriving DecidableEq, Repr

/-- A packet of the on-package network: the fields of the header flit and the payload bytes (R300).
`rsvd` is nonzero when any RSVD field of the header is. -/
structure Packet where
  op       : BitVec 8
  vc       : BitVec 2 := 0
  nflit    : BitVec 3 := 0
  len      : Nat := 0
  poison   : BitVec 4 := 0
  fab      : Bool := false
  dlv      : Bool := false
  dclass   : Bool := false
  rsvd     : Nat := 0
  dest     : BitVec 12 := 0
  src      : BitVec 12 := 0
  tag      : BitVec 10 := 0
  gen      : BitVec 16 := 0
  status   : BitVec 8 := 0
  snum     : BitVec 11 := 0
  addr     : BitVec 64 := 0
  deadline : BitVec 64 := 0
  od       : OpData := {}
  qd       : QueueData := {}
  data     : List Byte := []
  deriving DecidableEq, Repr

/-- A flit as an on-die link's receiver takes it from the 35 groups in use: 512 data bits, the sideband, the CRC (R305). -/
structure WireFlit where
  data : List Byte
  side : BitVec 32
  crc  : BitVec 16
  deriving DecidableEq, Repr

/-- What an on-die link's receiver takes, with the signal groups that fail where it is the eighth failure in a row (R305,
R306). -/
structure WireTry where
  flit    : WireFlit
  failing : List (Fin 36) := []
  deriving DecidableEq, Repr

/-- A kernel instruction of a V-tile that retires; `fault` where a register or a checked unit it uses is at fault (R160). -/
structure KernelStep where
  tile  : TileId
  fault : Bool
  deriving DecidableEq, Repr

/-- The key of a deduplication record: requester, incarnation, peer context, sequence number (R358). -/
structure DedupKey where
  dev : BitVec 20
  inc : BitVec 32
  ctx : BitVec 13
  seq : BitVec 32
  deriving DecidableEq, Repr

/-- A deduplication record (R358): its key, the status and any returned value. -/
structure DedupRec where
  key    : DedupKey
  status : BitVec 8
  data   : List Byte
  deriving DecidableEq, Repr

/-- What comes beside a mirrored write: its deduplication record, or a lease in place of a write (R358, R365). -/
structure MirrorNote where
  dedup : Option DedupRec := none
  lease : Option (BitVec 20 × BitVec 32) := none
  deriving DecidableEq, Repr

/-- What a refresh finds: the stack hot, and the bursts of the bank that the time since the last one has upset (R332). -/
structure RefreshSeen where
  hot    : Bool
  upsets : List (Nat × Ecc) := []
  deriving DecidableEq, Repr

/-- One access of a block-memory port at its clock edge (R249-R252): the port's width in bits, the write-enable
lanes, and whether the other port's edge falls within 0.30 ns on the same lanes. -/
structure BramAccess where
  width : Nat
  addr  : Nat
  en    : Bool
  we    : BitVec 8
  din   : BitVec 72
  /-- 0 WRITE_FIRST, 1 READ_FIRST, 2 NO_CHANGE (R251). -/
  wmode : Fin 3
  /-- Lanes that the other port writes within 0.30 ns of this edge (R252), with the value it writes. -/
  clash : List (Nat × BitVec 9)
  /-- The regional tree that clocks the port, and whether its output register is used (R249, R250). -/
  tree  : Fin 8 := 0
  oreg  : Bool := false
  deriving DecidableEq, Repr

/-- What the partner tells when the twin link becomes active (R374, R378). -/
structure TwinInfo where
  part  : Fin 3
  state : Fin 6
  epoch : BitVec 32
  table : List Word
  deriving DecidableEq, Repr

/-- One change of the mirror table (R363, R364): OP 1 adds, 2 removes; `here` is true when it was written on
this device; `result` is the status it got once it has been applied by the even twin. -/
structure MirrorChange where
  op     : BitVec 8
  owner  : BitVec 8
  base   : BitVec 64
  len    : BitVec 64
  here   : Bool
  result : BitVec 8
  /-- 0 the change as written; 1 the even twin writes it to the odd twin's copy; 2 that copy has it; 3 its RESULT (R364). -/
  phase  : Fin 4 := 0
  deriving DecidableEq, Repr

/-- One slot of a link flit (R387): its kind (0 empty, 1 header, 2 payload, 3 capability), class and content. -/
structure LinkSlot where
  stype : Fin 4
  vc    : Fin 4
  cls   : Fin 2
  body  : List Byte
  deriving DecidableEq, Repr

/-- A link flit (R387). -/
structure LinkFlit where
  slot0  : LinkSlot
  slot1  : LinkSlot
  seq    : BitVec 12
  ackSeq : BitVec 12
  ackV   : Bool
  nak    : Bool
  limits : List (BitVec 16)
  ready  : Bool
  amber  : Bool
  amberPair : Bool
  amberHops : Fin 8
  deriving DecidableEq, Repr

/-- A capability record (R393). -/
structure CapRecord where
  version : BitVec 8
  devset  : Bool
  device  : BitVec 20
  part    : Fin 4
  port    : Fin 8
  shale   : Fin 4
  switch  : Bool
  ready   : Bool
  twin    : Fin 8
  incarn  : BitVec 32
  rings   : BitVec 16
  tier    : Fin 4
  plane   : BitVec 5
  deriving DecidableEq, Repr

/-- What one read of the SRAM scrub meets (R429). -/
inductive SramTarget where
  | scratch (t : TileId) (offset : Nat)
  | accum (t : TileId) (offset : Nat)
  | kernelMem (t : TileId) (offset : Nat)
  | blockMem (n word : Nat)
  | queueMem (n entry : Nat)
  deriving DecidableEq, Repr

/-- An object named by index and subindex (R440). -/
structure DictRef where
  index : BitVec 16
  sub   : BitVec 8
  deriving DecidableEq, Repr

/-- How a dictionary request came (R447, R462): outside a session, in a segment session, or by a mailbox channel. -/
inductive DictVia where
  | bare
  | session (n : Nat)
  | mailbox (ch : Fin 2)
  deriving DecidableEq, Repr

/-- The physical outcome of a boot step (R476-R478, R486): what was read from flash and found good, which channels
trained, which tiles failed their self-test. -/
structure BootOutcome where
  /-- tiles (die × 256 + endpoint number) that fail the self-test of step 8. -/
  failedTiles : List Nat := []
  /-- fitted channels (64 × die + local channel) that fail training in step 6. -/
  untrained   : List Nat := []
  /-- the channels' contents are kept in step 6; else they are zeroed. -/
  keepHbm     : Bool := false
  deriving DecidableEq, Repr

/-- A request arriving at the PCIe port (R470). `bar` is 0 or 2 in endpoint mode. -/
structure PcieRequest where
  fromBoard : Bool
  bar       : Nat
  isWrite   : Bool
  offset    : Nat
  len       : Nat
  data      : List Byte
  /-- root-port mode: the IOMMU is enabled and translates to this device-local address. -/
  iommu     : Option Nat
  deriving DecidableEq, Repr

/-- The commands: one constructor per row of the spec's table of operations and events, in its order. -/
inductive Instr where
  /-- CSR_WRITE (R12). A write request to CSR space for registers that have no row of their own is served as whole 8-byte accesses in ascending order, or refused with NOC_SIZE or under R33. -/
  | csrWrite (p : Packet)
  /-- READ (R301). A network READ request is taken at its target endpoint (HBM port, scratch window, accumulator memory, configuration window), checked against R33 and R107, and answered with READ_RESP. -/
  | read (p : Packet)
  /-- WRITE (R301). A network WRITE request is taken at its target, checked, applied and acknowledged with WRITE_ACK once the bytes are visible to later reads. -/
  | write (p : Packet)
  /-- READ_RESP (R311). A read response arrives at its initiator; it is discarded when its GEN differs from the tag's generation, otherwise delivered and the tag freed. -/
  | readResp (p : Packet)
  /-- WRITE_ACK (R311). A write acknowledgement arrives at its initiator and completes the request, or is discarded on a stale generation. -/
  | writeAck (p : Packet)
  /-- PUSH (R185). A 256-byte push from a QOUT stream or FROMFAB controller lands in the QIN ring or TOFAB queue in order and is acknowledged. -/
  | push (p : Packet)
  /-- PUSH_ACK (R185). A push acknowledgement reaches the producer, which may then commit once every push is credited. -/
  | pushAck (p : Packet)
  /-- CREDIT (R185). Returned credits reach a QOUT stream or FROMFAB controller and let it send further pushes. -/
  | credit (p : Packet)
  /-- RESERVE (R184). A reservation request reaches a QIN context or TOFAB controller, which grants RESV credits at once, holds it, or ends the producer with PEER_MISMATCH. -/
  | reserve (p : Packet)
  /-- RESERVE_ACK (R184). The acknowledgement of a held reservation reaches the QOUT stream, so the fabric timeout does not run while it waits. -/
  | reserveAck (p : Packet)
  /-- GRANT (R184). A grant of reserved credits reaches the QOUT stream, which may then push. -/
  | grant (p : Packet)
  /-- ENDMARK (R185). An end marker reaches the QIN stream or TOFAB controller, which closes its current buffer as FLUSH does or writes an END entry. -/
  | endmark (p : Packet)
  /-- SIGNAL_PACKET (R223). A SIGNAL packet reaches the target tile's counter and applies ADD or MAX to it, then is acknowledged. -/
  | signalPacket (p : Packet)
  /-- SIGNAL_ACK (R223). A signal acknowledgement reaches the issuing sequencer and ends the SIGNAL unit with its status. -/
  | signalAck (p : Packet)
  /-- MIRROR_WR (R365). A mirrored write and its deduplication record reach the twin, which applies it in order and sends MIRROR_ACK when it enters the controller queue. -/
  | mirrorWr (p : Packet) (note : MirrorNote)
  /-- MIRROR_ACK (R365). A mirror acknowledgement reaches the owner, which then acknowledges the original write. -/
  | mirrorAck (p : Packet)
  /-- MGMT (R462). A management packet carrying a mailbox message reaches S0 and is queued for the dictionary controller. -/
  | mgmt (p : Packet)
  /-- IRQ (R467). An IRQ packet reaches the Granite interrupt controller, which delivers the vector to the hart named in GR_IRQ or discards it. -/
  | irq (p : Packet)
  /-- FENCE_DONE (R313). A fencing endpoint's FENCE_DONE reaches its router, which then discards packets for it and sets FSTATE fenced. -/
  | fenceDone (d : Fin 4) (ep : Fin 256)
  /-- ROUTER_HOP (R307). A router takes a packet, checks its header, and forwards it by its active table, answers NOC_FENCED for an unreachable entry, or discards a malformed header. -/
  | routerHop (d : Fin 4) (router : Fin 128) (p : Packet)
  /-- LINK_REPLAY (R305). An on-die link receiver finds a flit CRC mismatch, discards it and asks for a replay from the sender's replay buffer. -/
  | linkReplay (d : Fin 4) (link : Fin 266) (got : WireTry)
  /-- UCIE_MODULE (R299). A UCIe module exhausts lane repair and leaves service; the bridge withholds credits until sent packets are delivered or lost, then continues on the remaining modules. -/
  | ucieModule (d : Fin 4) (bridge : Fin 5) (module : Fin 4) (lost : List Packet)
  /-- INITIATOR_TIMEOUT (R311). An initiator's request timer expires; it synthesises NOC_TIMEOUT, advances the tag's generation and frees the tag. -/
  | initiatorTimeout (node : Fin 4096) (tag : Fin 1024)
  /-- NOC_RTW (R315). A write to NOC_RTW sets one shadow route-table entry, or is ignored while draining. -/
  | nocRtw (d : Fin 4) (v : Word)
  /-- SWAP (R309). A SWAP write to NOC_RTCTL starts a route change: credits are withheld at local ports and bridge express links while routers drain. -/
  | swap (d : Fin 4)
  /-- ROUTE_SWAP_DONE (R309). When every router and replay buffer of the die is empty, all shadow tables become active in one cycle and credits return. -/
  | routeSwapDone (d : Fin 4)
  /-- NOC_ROUTE_FAIL (R309). The 4 microsecond fence cap expires before the drain ends; the active tables stay, credits return and RESULT is NOC_ROUTE_FAIL. -/
  | nocRouteFail (d : Fin 4)
  /-- FENCE_DRAIN (R313). A DRAIN fence command on NOC_EP starts fencing an endpoint: new requests are answered NOC_FENCED and the endpoint waits for every response. -/
  | fenceDrain (d : Fin 4) (ep : Fin 256)
  /-- FENCE_ABANDON (R313). An ABANDON fence command fences an endpoint and advances the generation of every outstanding tag at once. -/
  | fenceAbandon (d : Fin 4) (ep : Fin 256)
  /-- UNFENCE (R313). An unfence command on a fenced, powered endpoint reopens it in one cycle. -/
  | unfence (d : Fin 4) (ep : Fin 256)
  /-- TP_DB (R204). A write to TP_DBq sets TAIL of a submission queue, or is ignored with DB_ERR when the count exceeds the ring or the queue is disabled. -/
  | tpDb (t : TileId) (q : Fin 2) (v : Word)
  /-- TP_GDB (R206). A write to TP_GDB0 or TP_GDB1 advances TAIL of queue 0 on every named tile of the die, acknowledged after every tile has taken it. -/
  | tpGdb (d : Fin 4) (half : Fin 2) (v : Word)
  /-- TP_SQ_WRITE (R229). A write to TP_SQq sets the ring, or is ignored whole with DB_ERR for an illegal LOG2N or while the queue is busy. -/
  | tpSqWrite (t : TileId) (q : Fin 2) (v : Word)
  /-- LAUNCH_FETCH (R208). The sequencer fetches the launch record at HEAD when the queue may run, advances HEAD, and checks the record or finds ABORT set. -/
  | launchFetch (t : TileId) (q : Fin 2) (net : BitVec 8)
  /-- SSTART (R166). The SSTART instruction starts a stream program on a context: the header is checked, the program copied, and every ring buffer allocated at once or the start refused. -/
  | sstart (t : TileId) (q : Fin 2)
  /-- SWAIT (R210). SWAIT issues when the context's stream has committed or ended (MODE 0) or the context is IDLE (MODE 1). -/
  | swait (t : TileId) (q : Fin 2)
  /-- SREL (R170). SREL issues when the COUNT oldest unreleased buffers are FULL and held by no started pass, and releases them, returning credits for a QIN stream. -/
  | srel (t : TileId) (q : Fin 2)
  /-- SWRT (R210). SWRT issues when every earlier unit writing the COUNT oldest RESERVED buffers has committed, and marks them WRITTEN. -/
  | swrt (t : TileId) (q : Fin 2)
  /-- SCAN (R191). SCAN cancels the context's current stream without waiting for its report. -/
  | scan (t : TileId) (q : Fin 2)
  /-- PASS (R114). A PASS instruction is checked under R100 and R101 and waits until ready; it ends refused or proceeds to start. -/
  | pass (t : TileId) (q : Fin 2)
  /-- PASS_START (R115). A ready pass starts in the cycle R115 gives, receiving a sequence number, loading weights as WMODE fixes and holding its buffers and rows. -/
  | passStart (t : TileId)
  /-- PASS_CYCLE (R116). Each array cycle advances the pass pipeline: an operand vector is read, terms aligned and summed, and an output row leaves the drain. -/
  | passCycle (t : TileId) (fault : Option (BitVec 32))
  /-- PASS_ABORT_REPORT (R121). Once no stage holds a row of an aborted pass it reports ABORTED with flags 0x0000. -/
  | passAbortReport (t : TileId) (seq : BitVec 32)
  /-- XWAIT (R210). XWAIT issues when every pass or kernel issued earlier has ended. -/
  | xwait (t : TileId) (q : Fin 2)
  /-- KERNEL_LAUNCH (R135). A KERN instruction launches a kernel when the V-tile is free and its output ranges are ready: a sequence number is assigned, the header and words checked, and registers initialised. -/
  | kernelLaunch (t : TileId) (q : Fin 2)
  /-- KERNEL_END (R138). The kernel END instruction retires: the kernel commits COMPLETE and reports sequence number, status, flags and s12-s15. -/
  | kernelEnd (t : TileId) (fault : Bool)
  /-- SLI (R142). SLI loads an immediate into a scalar register. -/
  | sli (t : KernelStep)
  /-- SADDI (R142). SADDI adds an immediate to a scalar register. -/
  | saddi (t : KernelStep)
  /-- BNZD (R142). BNZD decrements a scalar register and branches when the result is nonzero. -/
  | bnzd (t : KernelStep)
  /-- BR (R142). BR branches unconditionally. -/
  | br (t : KernelStep)
  /-- SLD (R142). SLD loads 8 bytes of scratch into a scalar register. -/
  | sld (t : KernelStep)
  /-- SST (R142). SST stores a scalar register to 8 bytes of scratch. -/
  | sst (t : KernelStep)
  /-- VLD (R143). VLD loads 128 elements of a format into a register, choosing its scale by SMODE and aligning each element. -/
  | vld (t : KernelStep)
  /-- VST (R145). VST stores 128 elements from a register, converting and normalising blocks. -/
  | vst (t : TileId) (fault : Bool)
  /-- VCVT (R146). VCVT converts 1-128 elements from scratch to scratch between any pair of formats. -/
  | vcvt (t : TileId) (fault : Bool)
  /-- VSCL (R144). VSCL aligns an I64 register to the scale held in a scalar register. -/
  | vscl (t : KernelStep)
  /-- VTAG (R142). VTAG copies register bits and sets KIND and SCALE from the immediate. -/
  | vtag (t : KernelStep)
  /-- VIOTA (R142). VIOTA fills each lane with a base plus its lane index. -/
  | viota (t : KernelStep)
  /-- VADD (R147). VADD adds two I64 registers lanewise with saturation. -/
  | vadd (t : KernelStep)
  /-- VSUB (R147). VSUB subtracts two I64 registers lanewise with saturation. -/
  | vsub (t : KernelStep)
  /-- VMUL (R147). VMUL multiplies two I64 registers lanewise with a rounding right shift. -/
  | vmul (t : KernelStep)
  /-- VNEG (R147). VNEG negates an I64 register lanewise. -/
  | vneg (t : KernelStep)
  /-- VABS (R147). VABS takes the absolute value of an I64 register lanewise. -/
  | vabs (t : KernelStep)
  /-- VCMP (R147). VCMP writes a mask from a lanewise comparison predicate. -/
  | vcmp (t : KernelStep)
  /-- VSEL (R142). VSEL selects lanes from two registers under a mask. -/
  | vsel (t : KernelStep)
  /-- VROT (R142). VROT rotates the lanes of a register. -/
  | vrot (t : KernelStep)
  /-- VAND (R142). VAND computes a lanewise bitwise AND. -/
  | vand (t : KernelStep)
  /-- VOR (R142). VOR computes a lanewise bitwise OR. -/
  | vor (t : KernelStep)
  /-- VXOR (R142). VXOR computes a lanewise bitwise XOR. -/
  | vxor (t : KernelStep)
  /-- VSHL (R142). VSHL shifts each lane left. -/
  | vshl (t : KernelStep)
  /-- VSHR (R142). VSHR shifts each lane right arithmetically. -/
  | vshr (t : KernelStep)
  /-- MLOG (R142). MLOG combines two mask registers by AND, OR, XOR or AND-NOT. -/
  | mlog (t : KernelStep)
  /-- VMIN (R148). VMIN takes the lanewise minimum of two I64 registers, NaR yielding the other operand. -/
  | vmin (t : KernelStep)
  /-- VMAX (R148). VMAX takes the lanewise maximum of two I64 registers, NaR yielding the other operand. -/
  | vmax (t : KernelStep)
  /-- VRMIN (R149). VRMIN searches the masked lanes for the minimum value and its lowest index. -/
  | vrmin (t : KernelStep)
  /-- VRMAX (R149). VRMAX searches the masked lanes for the maximum value and its lowest index. -/
  | vrmax (t : KernelStep)
  /-- VPOLY (R151). VPOLY evaluates a piecewise polynomial from a table in scratch for each lane. -/
  | vpoly (t : KernelStep)
  /-- VCRC (R161). VCRC computes a CRC-32C or CRC-64 check value over scratch bytes from a seed. -/
  | vcrc (t : KernelStep)
  /-- VMSUM (R161). VMSUM adds masked lanes into a scalar register modulo 2^64 - 1. -/
  | vmsum (t : KernelStep)
  /-- FADD (R153). FADD performs IEEE addition lanewise with one rounding. -/
  | fadd (t : KernelStep)
  /-- FSUB (R153). FSUB performs IEEE subtraction lanewise with one rounding. -/
  | fsub (t : KernelStep)
  /-- FMUL (R153). FMUL performs IEEE multiplication lanewise with one rounding. -/
  | fmul (t : KernelStep)
  /-- FFMA (R153). FFMA performs IEEE fusedMultiplyAdd lanewise. -/
  | ffma (t : KernelStep)
  /-- FDIV (R153). FDIV performs IEEE division lanewise on the divide unit. -/
  | fdiv (t : KernelStep)
  /-- FSQRT (R153). FSQRT performs IEEE squareRoot lanewise on the divide unit. -/
  | fsqrt (t : KernelStep)
  /-- FCVT (R153). FCVT performs IEEE convertFormat among binary16, binary32 and binary64. -/
  | fcvt (t : KernelStep)
  /-- FCMP (R153). FCMP writes a mask from a quiet or signalling IEEE comparison. -/
  | fcmp (t : KernelStep)
  /-- FMIN (R153). FMIN performs IEEE minimum lanewise. -/
  | fmin (t : KernelStep)
  /-- FMAX (R153). FMAX performs IEEE maximum lanewise. -/
  | fmax (t : KernelStep)
  /-- FMINNUM (R153). FMINNUM performs IEEE minimumNumber lanewise. -/
  | fminnum (t : KernelStep)
  /-- FMAXNUM (R153). FMAXNUM performs IEEE maximumNumber lanewise. -/
  | fmaxnum (t : KernelStep)
  /-- LCLR (R158). LCLR clears a long accumulator and its INVALID mark. -/
  | lclr (t : KernelStep)
  /-- LDOT (R155). LDOT inserts exact products of two IEEE vectors into a long accumulator. -/
  | ldot (t : TileId) (fault : Bool)
  /-- LSUM (R155). LSUM inserts IEEE values into a long accumulator. -/
  | lsum (t : TileId) (fault : Bool)
  /-- LSSQ (R155). LSSQ inserts exact squares of IEEE values into a long accumulator. -/
  | lssq (t : TileId) (fault : Bool)
  /-- LSABS (R155). LSABS inserts absolute IEEE values into a long accumulator. -/
  | lsabs (t : TileId) (fault : Bool)
  /-- LRND (R156). LRND waits for earlier insertions and rounds a long accumulator once into a scalar register. -/
  | lrnd (t : KernelStep)
  /-- LSAVE (R157). LSAVE writes the 576-byte image of a long accumulator to scratch. -/
  | lsave (t : KernelStep)
  /-- LADD (R157). LADD merges an accumulator image from scratch into a long accumulator exactly. -/
  | ladd (t : TileId) (fault : Bool)
  /-- KERNEL_LIMIT (R140). The kernel's cycle limit CYCLIM x 256 is reached without commit and the kernel ends KERNEL_LIMIT. -/
  | kernelLimit (t : TileId)
  /-- KERNEL_ABORT_REPORT (R139). An aborted or failed kernel reports its status with flags 0x0000 within 40 cycles. -/
  | kernelAbortReport (t : TileId)
  /-- KERNEL_MEMORY_APPLY (R133). A kernel-memory write held while a kernel ran is applied and acknowledged after the kernel ends. -/
  | kernelMemoryApply (t : TileId)
  /-- MT_ACCSET_WRITE (R110). A write to MT_ACCSETn is checked and applied, clearing INVALID, or held until every started pass naming the set has ended, or ignored with ACCSET_ERR. -/
  | mtAccsetWrite (t : TileId) (n : Fin 16) (v : Word)
  /-- MT_ACCSET_APPLY (R110). A held MT_ACCSET write is applied and acknowledged once every pass naming the set has ended. -/
  | mtAccsetApply (t : TileId) (n : Fin 16)
  /-- ABORT_UNIT (R218). A TP_ABORT write with KIND 0 aborts a pass or kernel by sequence number, deciding the reply by R120 or R139. -/
  | abortUnit (t : TileId) (id : BitVec 32)
  /-- ABORT_LAUNCH (R219). A TP_ABORT write with KIND 1 aborts a launch by queue and position, aborting its units or setting ABORT in an unfetched record. -/
  | abortLaunch (t : TileId) (q : Fin 2) (pos : BitVec 32) (net : BitVec 8)
  /-- END (R214). The tile-program END waits until every unit has ended and every signal is acknowledged, then lets the launch commit. -/
  | tpEnd (t : TileId) (q : Fin 2)
  /-- SIGNAL (R223). The SIGNAL instruction issues once its RELEASE condition holds and sends a counter operation to a tile. -/
  | signal (t : TileId) (q : Fin 2)
  /-- WAIT (R224). WAIT issues when the counter has reached VALUE modulo 2^32, acting as an acquire. -/
  | wait (t : TileId) (q : Fin 2)
  /-- CHKPT (R225). CHKPT issues when all earlier units have ended, the queue's contexts are IDLE and signals acknowledged, writes TP_CKPTq and resets the replay allowance. -/
  | chkpt (t : TileId) (q : Fin 2)
  /-- HINT (R228). HINT sets the tile's power level for the rest of the launch. -/
  | hint (t : TileId) (q : Fin 2)
  /-- WAIT_LIMIT (R211). An instruction has waited WAITLIM microseconds to issue and the program ends WAIT_LIMIT. -/
  | waitLimit (t : TileId) (q : Fin 2)
  /-- LAUNCH_COMMIT (R214). When END has retired or every unit of a failed or aborted program has ended, the sequencer decides the launch status once. -/
  | launchCommit (t : TileId) (q : Fin 2) (net : BitVec 8)
  /-- COMPLETION_RECORD_HEAD (R217). After the first write is acknowledged the sequencer writes bytes 0-63, advances TAIL and raises the queue's interrupt, or on failure disables the queue and sets WERR. -/
  | completionRecordHead (d : Fin 4) (cq : Fin 64) (net : BitVec 8)
  /-- TP_CQD_WRITE (R230). A write to TP_CQDq sets a completion queue and, on enabling it, lets held records be written; an illegal LOG2N is ignored with CFG_ERR. -/
  | tpCqdWrite (d : Fin 4) (cq : Fin 64) (v : Word)
  /-- TP_CQH_WRITE (R217). A write to TP_CQHq consumes records and lets records held on a full queue be written. -/
  | tpCqhWrite (d : Fin 4) (cq : Fin 64) (v : Word)
  /-- PREEMPT (R220). Queue 1 holds an unfetched launch while a queue-0 launch runs; new starts stop at once. -/
  | preempt (t : TileId)
  /-- SUSPEND (R220). Once started passes or the running kernel have ended, the sequencer records the queue-0 program state and fetches from queue 1. -/
  | suspend (t : TileId)
  /-- PROGRAM_RESUME (R220). When queue 1 holds no launch the suspended queue-0 program resumes at its saved PC. -/
  | programResume (t : TileId)
  /-- PROGRAM_RESTART (R226). The wardens restart a held program at TP_CKPTq on the same tile or on a spare. -/
  | programRestart (t : TileId) (q : Fin 2)
  /-- POWER_DOMAIN_OFF (R228). After a launch ends at SLEEP and both queues are empty, the tile's compute domain is switched off. -/
  | powerDomainOff (t : TileId)
  /-- POWER_DOMAIN_WAKE (R496). A doorbell or launch wakes a tile's compute domain from SLEEP or NAP before its first pass or kernel. -/
  | powerDomainWake (t : TileId)
  /-- STREAM_REQUEST_ISSUE (R181). In each cycle the stream engine issues one request from the eligible stream with the smallest run-dry deadline. -/
  | streamRequestIssue (t : TileId)
  /-- SETA (R174). SETA sets a device-local address register. -/
  | seta (t : TileId) (c : Fin 16)
  /-- SETAH (R174). SETAH sets the high bits of an address register and marks it a fabric address. -/
  | setah (t : TileId) (c : Fin 16)
  /-- SETT (R174). SETT sets a stride register. -/
  | sett (t : TileId) (c : Fin 16)
  /-- ADDA (R174). ADDA adds a stride register to an address register. -/
  | adda (t : TileId) (c : Fin 16)
  /-- FOR (R174). FOR opens a loop level with a count and stride. -/
  | seFor (t : TileId) (c : Fin 16)
  /-- NEXT (R174). NEXT ends a loop body, stepping its address and repeating or leaving the loop. -/
  | seNext (t : TileId) (c : Fin 16)
  /-- MOVE (R175). MOVE moves a run of bytes between memory and the stream position, split into requests. -/
  | move (t : TileId) (c : Fin 16)
  /-- GATHER (R177). GATHER reads indices from scratch and moves one element per index, as a scatter in OUT streams. -/
  | gather (t : TileId) (c : Fin 16)
  /-- FLUSH (R176). FLUSH closes the current buffer, zero-padding an IN buffer and draining only the written part of an OUT buffer. -/
  | flush (t : TileId) (c : Fin 16)
  /-- STREAM_FENCE (R174). The stream FENCE instruction holds further issue until every earlier request of the stream has completed. -/
  | streamFence (t : TileId) (c : Fin 16)
  /-- STREAM_END (R176). The stream END instruction ends the program with an implicit FLUSH. -/
  | streamEnd (t : TileId) (c : Fin 16)
  /-- STREAM_RESPONSE (R175). A response reaches a stream: data are placed, poison counted, check values compared, buffers change state, and an error status ends the stream. -/
  | streamResponse (p : Packet)
  /-- SE_CANCEL (R191). A write to SE_CANCEL cancels a stream by context and sequence number, deciding the reply. -/
  | seCancel (t : TileId) (v : Word)
  /-- STREAM_CANCEL_REPORT (R192). After the last tag of a cancelled stream returns it reports ABORTED and its context becomes IDLE. -/
  | streamCancelReport (t : TileId) (c : Fin 16)
  /-- SE_CLEAR (R171). A write to SE_CLEAR clears the INVALID marks of a range of granules outside running streams. -/
  | seClear (t : TileId) (v : Word)
  /-- STALL (R195). The progress monitor finds a stall candidate after TIMEOUT and aborts the one with the latest deadline with STALL. -/
  | stall (d : Fin 4)
  /-- QC_WRITE (R258). User logic writes an entry at a queue controller's write port, storing it or, in lossy mode, dropping it or writing a gap marker. -/
  | qcWrite (d : Fin 4) (qc : Fin 512) (valid : Bool) (data : BitVec 72)
  /-- QC_READ (R254). User logic takes the head entry at a queue controller's read port with RTAKE. -/
  | qcRead (d : Fin 4) (qc : Fin 512) (ecc : Ecc)
  /-- QC_ENABLE (R264). Setting EN in QC_CFG empties the queue, arms the threshold and, in FROMFAB mode, requests RESV credits; an illegal setting is ignored with CFG_ERR. -/
  | qcEnable (d : Fin 4) (qc : Fin 512) (v : Word)
  /-- QC_DISABLE (R264). Clearing EN discards the queue's contents and ends any network connection with NOC_FENCED. -/
  | qcDisable (d : Fin 4) (qc : Fin 512)
  /-- QC_PUSH (R262). A FROMFAB controller holding a credit sends a push of up to 32 entries when 32 are waiting or an END entry reaches the head. -/
  | qcPush (d : Fin 4) (qc : Fin 512)
  /-- PUSHWAIT (R262). The oldest waiting entry of a FROMFAB controller has waited PUSHWAIT ns and a partial push is sent. -/
  | pushwait (d : Fin 4) (qc : Fin 512)
  /-- ENDPOINT_REQUEST (R271). User logic issues a read or write at its region's network endpoint with a free tag. -/
  | endpointRequest (r : RegionId) (isWrite fab : Bool) (addr : BitVec 64) (len : Nat) (ord : Fin 4) (data : List Byte) (tag : Fin 256)
  /-- BRAM_ACCESS (R252). A block-memory port performs a read or write on its clock edge, with ECC correction and collision rules. -/
  | bramAccess (r : RegionId) (m : Fin 64) (portB : Bool) (a : BramAccess) (ecc : Ecc)
  /-- LR_PLL_WRITE (R243). A write to LR_PLLu sets or enables a user PLL, or is ignored with PLL_ERR. -/
  | lrPllWrite (d : Fin 4) (u : Fin 4) (v : Word)
  /-- PLL_LOCK (R243). An enabled user PLL locks and its output starts. -/
  | pllLock (d : Fin 4) (u : Fin 4)
  /-- LOCKLOST (R243). A user PLL loses lock: its output is held low, LOCKLOST is set and an event raised. -/
  | locklost (d : Fin 4) (u : Fin 4)
  /-- CLOCK_SELECT (R245). A write changing SEL of LR_CLK starts a glitch-free source switch. -/
  | clockSelect (r : RegionId) (k : Fin 8) (v : Word)
  /-- CLOCK_SWITCH_DONE (R245). After two falling edges of the new source the tree follows it and SWITCHING clears. -/
  | clockSwitchDone (r : RegionId) (k : Fin 8)
  /-- FORCED (R245). The old source makes no falling edge within 2 microseconds and the switch completes with FORCED set. -/
  | forced (r : RegionId) (k : Fin 8)
  /-- CLOCK_DIVIDE (R246). A write of a new divisor takes effect at the next rising output edge. -/
  | clockDivide (r : RegionId) (k : Fin 8) (v : Word)
  /-- CLOCK_ENABLE (R247). Setting EN of LR_CLK starts the tree at its next rising edge. -/
  | clockEnable (r : RegionId) (k : Fin 8)
  /-- CLOCK_DISABLE (R247). Clearing EN of LR_CLK stops the tree after its next falling edge. -/
  | clockDisable (r : RegionId) (k : Fin 8)
  /-- OVERSPEED (R247). A tree counts more than 1,020 rising edges in 1 microsecond and stops with OVERSPEED set and an event raised. -/
  | overspeed (r : RegionId) (k : Fin 8) (edges : Nat)
  /-- IO_BANK (R266). A bank's measured supply disagrees with VSEL: VMATCH is 0, its pins park and an event is raised. -/
  | ioBank (d : Fin 4) (supply18 : Bool)
  /-- IO_BANK_LOCK (R270). Setting LOCK in IO_BANK locks PARK and VSEL until reset. -/
  | ioBankLock (d : Fin 4)
  /-- IO_DELAY_STEP (R269). Every 8 ns a pin delay moves one tap towards its newly written value. -/
  | ioDelayStep (d : Fin 4) (pin : Fin 24) (output : Bool)
  /-- BEGIN (R273). BEGIN withdraws the region, clears its configuration memory to the null design and enters LOADING. -/
  | cfgBegin (r : RegionId)
  /-- FETCH (R273). FETCH appends LEN bytes from user HBM to the region's load stream. -/
  | cfgFetch (r : RegionId)
  /-- COMMIT (R280). COMMIT checks the frame count and digest and starts the read-back of configuration memory. -/
  | cfgCommit (r : RegionId)
  /-- COMMIT_READBACK_DONE (R280). The configuration read-back completes and REGION_CRC decides COMMITTED or FAILED. -/
  | commitReadbackDone (r : RegionId)
  /-- RELEASE (R282). RELEASE starts the trees, releases queue controllers, endpoint, pins and reset nets in order. -/
  | cfgRelease (r : RegionId)
  /-- HALT (R273). HALT stops the region's eight trees after their next falling edges. -/
  | cfgHalt (r : RegionId)
  /-- RESUME (R273). RESUME restarts the region's eight trees at their next rising edges. -/
  | cfgResume (r : RegionId)
  /-- CLEAR (R274). CLEAR withdraws the region and clears its configuration memory, leaving it EMPTY. -/
  | cfgClear (r : RegionId)
  /-- CFG_CLEAR_DONE (R284). The clearing of a region's configuration memory under BEGIN or CLEAR completes and BUSY falls. -/
  | cfgClearDone (r : RegionId)
  /-- CFG_FETCH_DONE (R284). A FETCH has delivered all its bytes and BUSY falls. -/
  | cfgFetchDone (r : RegionId)
  /-- CFG_FRAME (R280). A bitstream frame or the header, taken whole from the load stream, is checked for CRC, legality and structure and written, or ends the load FAILED. -/
  | cfgFrame (r : RegionId)
  /-- LOAD_PORT_WRITE (R285). A write to the load port appends its bytes to the load stream, or is ignored while a FETCH runs. -/
  | loadPortWrite (r : RegionId) (data : List Byte)
  /-- CFG_SCRUB_READ (R286). The configuration scrub engine reads a word, corrects single-bit errors, records hard faults and withdraws the region on an uncorrectable word. -/
  | cfgScrubRead (r : RegionId) (word : Nat) (ecc : Ecc) (again : Bool)
  /-- AMBER_N (R288). AMBER_N held low for 40 ns triggers a single or pair freeze and runs the stop sequence. -/
  | amberN (low : Bool)
  /-- FREEZE (R288). A write to 0xF010.01 triggers a single or pair freeze and runs the stop sequence. -/
  | freeze (v : BitVec 8)
  /-- FREEZE_MESSAGE (R404). A link flit with AMBER set reaches a device, which triggers a freeze when ACCEPT allows. -/
  | freezeMessage (port : PortId) (pair : Bool) (hops : Fin 8)
  /-- THAW (R292). A write to 0xF010.02 with AMBER_N high thaws the device, or is held until FROZEN. -/
  | thaw (v : BitVec 8)
  /-- READOUT (R293). A read of 0xF020.04 while FROZEN returns LENGTH bytes from the named read-out space and sets the status. -/
  | readout
  /-- HBM_ACCEPT (R323). A memory port accepts a request into its admission queue, withholding credits while full. -/
  | hbmAccept (p : Packet)
  /-- HBM_ADMIT (R323). A pseudo-channel queue has a free entry and the port admits the aged or smallest-deadline waiting request. -/
  | hbmAdmit (d : Fin 4) (ch : Fin 48) (pc : Fin 2)
  /-- HBM_COMMAND_SLOT (R324). A controller serves one command slot: refresh, check window, aged request, row hit or oldest request, correcting or poisoning on read. -/
  | hbmCommandSlot (d : Fin 4) (ch : Fin 48) (pc : Fin 2) (errs : List (Nat × Ecc))
  /-- REFRESH (R332). A per-bank refresh falls due and is issued, at double rate while the stack is hot. -/
  | refresh (d : Fin 4) (ch : Fin 48) (pc : Fin 2) (bank : Fin 32) (seen : RefreshSeen)
  /-- REFRESH_MANAGEMENT (R333). A bank's rolling activation count reaches the stack's threshold and a refresh-management command is issued. -/
  | refreshManagement (d : Fin 4) (ch : Fin 48) (pc : Fin 2) (bank : Fin 32) (threshold : Nat)
  /-- SENTINEL_READ (R411). Every 10 microseconds a controller reads the training-pattern register and fails the channel when it fails. -/
  | sentinelRead (d : Fin 4) (ch : Fin 48) (pc : Fin 2) (ok : Bool)
  /-- PATROL_SCRUB (R337). The patrol scrub reads a burst in a free slot, correcting or poisoning it. -/
  | patrolScrub (d : Fin 4) (ch : Fin 48) (pc : Fin 2) (burst : Nat) (ecc : Ecc)
  /-- HBM_CHECK (R330). GO in HBM_CHECK requests a margin check of one pseudo-channel at its next refresh window. -/
  | hbmCheck (d : Fin 4) (v : Word)
  /-- CHECK_WINDOW (R330). At the refresh window the controller holds the pseudo-channel, tests each lane at plus and minus MARGIN and records FAILMASK. -/
  | checkWindow (d : Fin 4) (failmask : BitVec 36)
  /-- RECHECK_DUE (R331). A pseudo-channel has completed no check for 1 s, RECHECK_DUE is set and an event raised. -/
  | recheckDue (d : Fin 4) (ch : Fin 48)
  /-- HBM_REPAIR (R338). GO in HBM_REPAIR soft-repairs one row: the bank is held, the row moved to a spare, and RESULT set. -/
  | hbmRepair (d : Fin 4) (v : Word)
  /-- HBM_DLYDAT (R329). A write to HBM_DLYDAT sets a shadow delay, or is ignored with DLY_ERR. -/
  | hbmDlydat (d : Fin 4) (v : Word)
  /-- APPLY (R329). Setting APPLY in HBM_CHx makes the shadow delays active, at once when untrained. -/
  | apply (d : Fin 4) (ch : Fin 48)
  /-- APPLY_AT_REFRESH (R329). At each pseudo-channel's next refresh window the shadow delays become active and APPLY clears. -/
  | applyAtRefresh (d : Fin 4) (ch : Fin 48) (pc : Fin 2)
  /-- TRAINED (R328). A write of TRAINED in HBM_CHx lets the channel serve requests. -/
  | trained (d : Fin 4) (ch : Fin 48) (on : Bool)
  /-- ZERO (R328). Setting ZERO on a trained channel starts zeroing every burst with good check bytes. -/
  | zero (d : Fin 4) (ch : Fin 48)
  /-- ZERO_DONE (R328). Zeroing of a channel completes and waiting requests proceed. -/
  | zeroDone (d : Fin 4) (ch : Fin 48)
  /-- LOCK (R322). Setting LOCK in HBM_MAP of C0 fixes the map and opens HBM to initiators other than the wardens. -/
  | lock
  /-- FREAD (R349). A fabric read reaches its home and is served at the memory ports without a record. -/
  | fread (p : Packet)
  /-- FWRITE (R349). A fabric write reaches its home, is deduplicated, applied and mirrored, and acknowledged. -/
  | fwrite (p : Packet)
  /-- FATOMIC (R350). A fabric atomic performs one merge at the home and returns the old value, deduplicated. -/
  | fatomic (p : Packet)
  /-- FCOPY (R351). A fabric copy at the source's home reads the source and writes the destination with relaxed FWRITEs. -/
  | fcopy (p : Packet)
  /-- FSIGNAL (R352). A fabric signal applies a counter operation on a tile of the home, deduplicated. -/
  | fsignal (p : Packet)
  /-- FPUSH (R352). A fabric push carries a queue-stream push between devices, deduplicated. -/
  | fpush (p : Packet)
  /-- FRESERVE (R352). A fabric reservation carries a queue-stream reservation between devices. -/
  | freserve (p : Packet)
  /-- FCREDIT (R352). A fabric credit carries returned queue credits between devices. -/
  | fcredit (p : Packet)
  /-- FGRANT (R352). A fabric grant carries a reservation grant between devices. -/
  | fgrant (p : Packet)
  /-- FENDMARK (R352). A fabric end marker carries a queue-stream end between devices. -/
  | fendmark (p : Packet)
  /-- FABRIC_RESPONSE (R359). A fabric response reaches the requester's Shale and completes the request with its status and data. -/
  | fabricResponse (p : Packet)
  /-- ADMIT_WAIT (R396). An ADMIT_WAIT reaches the requester; a recent one restarts FTIMEOUT and schedules a resend, an old one is discarded. -/
  | admitWait (p : Packet) (age : Nat)
  /-- FABRIC_RETRY (R359). No response has arrived RETRY microseconds after a send and the request is resent with the same key. -/
  | fabricRetry (id : Nat)
  /-- FABRIC_TIMEOUT (R359). FTIMEOUT expires and the requester completes the request with FABRIC_TIMEOUT. -/
  | fabricTimeout (id : Nat)
  /-- HOLD_LIMIT (R396). A fabric request has not completed 10 ms after its first send and completes with FABRIC_TIMEOUT. -/
  | holdLimit (id : Nat)
  /-- RECORD_EXPIRY (R358). A deduplication record expires, freeing room for requests held for want of a record. -/
  | recordExpiry (key : DedupKey)
  /-- TOKEN_GAIN (R396). Every 250 ns the admission bucket on S0 gains a token up to 96, letting a waiting context be admitted. -/
  | tokenGain
  /-- FX_CQDB (R353). A write of TAIL to FX_CQDBr submits fabric command descriptors to a ring. -/
  | fxCqdb (ring : Fin 16) (v : Word)
  /-- DESCRIPTOR (R353). A command ring fetches a descriptor, checks it and issues its fabric operation or fence, writing RESULT and DONE on completion. -/
  | descriptor (ring : Fin 16)
  /-- HEARTBEAT_SEND (R368). Every 1 microsecond the twin-mirror logic sends HEARTBEAT on the direct and witness paths. -/
  | heartbeatSend
  /-- HEARTBEAT (R368). A heartbeat from the partner arrives on one path. -/
  | heartbeat (direct : Bool)
  /-- HEARTBEAT_LOSS (R368). No heartbeat has arrived on either path for HB_MISS and the partner is declared failed. -/
  | heartbeatLoss
  /-- FAIL_NOTICE (R368). A FAIL_NOTICE from the partner arrives and the partner is declared failed. -/
  | failNotice
  /-- LEASE_SEND (R369). Every 2 microseconds after a declaration the device sends LEASE to the witness. -/
  | leaseSend
  /-- LEASE (R369). A lease request reaches the witness, which grants epoch E+1 to the first request of the pair and denies others. -/
  | lease (dev : BitVec 20) (epoch : BitVec 32)
  /-- LEASE_RESPONSE (R369). A lease grant or denial reaches the device, which enters COVERING and takes over or enters STALE. -/
  | leaseResponse (granted : Bool) (epoch : BitVec 32)
  /-- LEASE_TIMEOUT (R369). No lease answer arrives within 20 microseconds of the declaration and the device enters ISOLATED. -/
  | leaseTimeout
  /-- YIELD (R373). A write of 1 to 0x0A02.03 makes a PAIRED device stop accepting fabric requests for its addresses. -/
  | yield (v : BitVec 8)
  /-- YIELD_COMPLETE (R373). The yielding device has completed accepted requests and received pending MIRROR_ACKs, sends FAIL_NOTICE and enters STALE. -/
  | yieldComplete
  /-- TWIN_LINK_ACTIVE (R374). The twin link becomes active and the devices exchange state, epoch and mirror table, entering STALE or PAIRED. -/
  | twinLinkActive (info : TwinInfo)
  /-- TWIN_SYNC (R375). The covering device reads and sends one 64 KiB chunk of a mirrored range to the STALE device at the paced rate. -/
  | twinSync (rx : Option (Nat × List Byte × List Nat))
  /-- CUTOVER_START (R376). Every chunk is copied and 1 ms has passed, so the covering device obtains a new epoch and completes accepted requests. -/
  | cutoverStart
  /-- CUTOVER (R376). The CUTOVER message reaches the STALE device and both become PAIRED with every entry MIRRORED. -/
  | cutover (epoch : BitVec 32)
  /-- RESTORE (R377). A write of 1 to 0x0A20.01 after cutover returns the single ranges to service. -/
  | restore (v : BitVec 8)
  /-- MIRROR_ADD (R363). A mirror change with OP 1 adds an entry, forwarded to the even twin. -/
  | mirrorAdd
  /-- MIRROR_REMOVE (R363). A mirror change with OP 2 removes an entry, forwarded to the even twin. -/
  | mirrorRemove
  /-- MIRROR_CHANGE_APPLY (R364). The even twin applies a queued mirror change, writes both copies of the table and sets RESULT. -/
  | mirrorChangeApply (rx : Option MirrorChange)
  /-- MIRROR_SYNC_DONE (R363). The copy of a SYNCING entry completes and the entry becomes MIRRORED. -/
  | mirrorSyncDone (entry : Fin 64)
  /-- DEVNUM (R345). A write to 0x0A01.01 sets the device number, taking effect at once when unset or at the next reset. -/
  | devnum (v : BitVec 32)
  /-- PORT_BRING_UP (R389). The bring-up command starts a port in DETECT. -/
  | portBringUp (port : PortId)
  /-- PORT_TAKE_DOWN (R389). The take-down command puts a port DOWN. -/
  | portTakeDown (port : PortId)
  /-- PORT_RETRAIN (R389). The retrain command returns a port to LOCK. -/
  | portRetrain (port : PortId)
  /-- PORT_TEST (R398). The TEST command puts a port in TEST for pattern generation. -/
  | portTest (port : PortId)
  /-- PORT_STAGE_COMPLETE (R389). A bring-up stage of a port completes and the port moves to its next stage. -/
  | portStageComplete (port : PortId)
  /-- STAGE_TIMEOUT (R389). A bring-up stage overruns its limit and the port returns to DETECT, advancing RETRAINS. -/
  | stageTimeout (port : PortId)
  /-- SLIP (R390). A write of SLIP moves a lane's word boundary by one bit. -/
  | slip (lane : LaneId)
  /-- CDR_LOCK_LOSS (R389). A lane loses CDR lock, failing the lane or sending the port back to LOCK. -/
  | cdrLockLoss (lanes : List LaneId)
  /-- LINK_FLIT (R392). A link flit arrives: FEC and CRC are checked, slots accepted in order or NAK sent, credits and ACKs applied. -/
  | linkFlit (port : PortId) (message parity : List (BitVec 10)) (k : Fin 4)
  /-- REPLAY_TIMEOUT (R392). No ACK progress arrives within 2 microseconds and the sender replays. -/
  | replayTimeout (port : PortId)
  /-- CAPABILITY_RECORD (R394). A capability record arrives and the port passes CAPEX, fails with CAP_MISMATCH or repeats. -/
  | capabilityRecord (port : PortId) (r : CapRecord)
  /-- READY_TIMEOUT (R395). A partner has not set READY 1,000 ms after ACTIVE and the port is treated as down for routing. -/
  | readyTimeout (port : PortId)
  /-- LANE_ERROR_WINDOW (R397). A 1 ms window ends with a lane's symbol errors above SPARE_THR and the lane is failed and spared. -/
  | laneErrorWindow (lane : LaneId) (errors : Nat)
  /-- TRANSIT_PACKET (R401). A packet for another device crosses the S0 crossbar and is routed by dimension order, aged, detoured or redirected. -/
  | transitPacket (arrival : Option PortId) (dst : BitVec 20) (age : Nat) (longway : Bool) (spent : Nat) (p : Packet)
  /-- UPLINK_ROUTE (R400). A request for another pod is placed on the uplink of its plane, or discarded when no plane is usable. -/
  | uplinkRoute (p : Packet)
  /-- CV_FEED (R417). On an edge with DV set a check-value unit feeds its bytes, closing the block when LAST is set. -/
  | cvFeed (u : CvId) (data : BitVec 64) (nb : Fin 8) (last : Bool)
  /-- CV_CLEAR (R417). On an edge with CLR set a unit discards the block in progress and restarts from SEED. -/
  | cvClear (u : CvId)
  /-- CV_BLOCK_DONE (R417). At the third edge after a block closes VALUE takes the value, DONE pulses and BLOCKS advances. -/
  | cvBlockDone (u : CvId)
  /-- CV_COMPARE (R418). At the fourth edge after a close the unit compares with CV_EXP or its partner and pulses MATCH or MISMATCH. -/
  | cvCompare (u : CvId)
  /-- CV_GO (R419). GO on an S0 unit starts a run over user HBM, or a twin compare under CMP 3. -/
  | cvGo (u : CvId) (v : Word)
  /-- CV_RUN_DONE (R419). An S0 run reaches its end, sets CV_VAL, compares and sets LAST_STATUS. -/
  | cvRunDone (u : CvId)
  /-- CV_TWIN_CHUNK (R420). A twin compare holds one 16 KiB chunk, compares its value with the twin's copy and releases it. -/
  | cvTwinChunk (u : CvId) (twinValue : BitVec 64)
  /-- TILE_MOVE_FAULT (R423). GO in RL_TMOVE with MODE FAULT fences the tile, aborts its work and maps the logical tile to a spare. -/
  | tileMoveFault (d : Fin 4) (v : Word)
  /-- TILE_MOVE_ROTATE (R424). GO in RL_TMOVE with MODE ROTATE copies a quiesced tile to a spare and exchanges them. -/
  | tileMoveRotate (d : Fin 4) (v : Word) (readback : Bool)
  /-- TILE_MOVED (R423). Once aborted work has reported, the map points to the spare, the fence lifts and TILE_MOVED is logged. -/
  | tileMoved (d : Fin 4)
  /-- CLUSTER_SPARED (R426). GO in RL_CSPARE moves a logical cluster onto a spare cluster while the region's trees pause. -/
  | clusterSpared (d : Fin 4) (v : Word)
  /-- SRAM_SCRUB (R429). The SRAM scrub reads a word of tile or fabric memory, writing back corrections and poisoning uncorrectable scratch. -/
  | sramScrub (d : Fin 4) (target : SramTarget) (ecc : Ecc)
  /-- TELEMETRY_SAMPLE (R430). Every 1 ms each die samples temperature and current and publishes them. -/
  | telemetrySample (die : Fin 9) (tempMilli : BitVec 32) (powerMilli : BitVec 32) (amps : BitVec 11) (stackTemps : List (BitVec 32))
  /-- BEAT (R411). A write of BEAT to RL_WDOG restarts the Granite watchdog. -/
  | beat
  /-- WATCHDOG_EXPIRY (R411). BEAT has not been written for 16 microseconds while armed and Granite is declared failed. -/
  | watchdogExpiry
  /-- LOCKSTEP_MISMATCH (R465). The two cores of a Granite pair disagree and the device fails. -/
  | lockstepMismatch
  /-- ROUTER_FAULT (R408). A router's duplicated logic disagrees: the router stops and its links go down. -/
  | routerFault (d : Fin 4) (router : Fin 128)
  /-- DICT_READ (R449). A Thauno or mailbox READ message is served whole, entry by entry. -/
  | dictRead (via : DictVia) (es : List DictRef)
  /-- DICT_WRITE (R450). A Thauno or mailbox WRITE message applies its entries in order until one fails. -/
  | dictWrite (via : DictVia) (es : List (DictRef × List Byte))
  /-- DESCRIBE (R458). A DESCRIBE message returns the type, access, serving point and default of each named object. -/
  | describe (via : DictVia) (es : List DictRef)
  /-- THAUNO_FRAGMENT (R460). A datagram's fragment arrives, is checked for header and TAG, and reassembled into a message. -/
  | thaunoFragment (src : BitVec 128) (srcPort : BitVec 16) (dg : List Byte)
  /-- OPEN (R459). An OPEN message starts a session handshake and is answered with CHALLENGE or DICT_BUSY. -/
  | sessionOpen (src : BitVec 128) (srcPort : BitVec 16) (level : BitVec 8) (x25519 : List Byte) (kem : List Byte) (nonce : List Byte)
  /-- PROVE (R459). A PROVE message is verified against the level's key set and answered with SESSION. -/
  | prove (sess : Nat) (sigEd : List Byte) (sigMl : List Byte) (late : Bool)
  /-- CLOSE (R459). A CLOSE message ends a session and is answered with CLOSE_ACK. -/
  | sessionClose (sess : Nat)
  /-- SUBSCRIBE (R461). SUBSCRIBE ties an event feed of log entries to the session. -/
  | subscribe (sess : Nat)
  /-- EVENT_ACK (R461). An EVENT_ACK acknowledges an EVENT and lets the feed send the next entries. -/
  | eventAck (sess : Nat) (lsn : BitVec 64)
  /-- EVENT_RESEND (R461). An unacknowledged EVENT is resent every 100 ms, and skipped after the twentieth resend. -/
  | eventResend (sess : Nat)
  /-- SESSION_TIMEOUT (R459). A session ends after 60 s without a valid message. -/
  | sessionTimeout (sess : Nat)
  /-- REASSEMBLY_TIMEOUT (R460). A message whose fragments are not all present 100 ms after the first is discarded. -/
  | reassemblyTimeout (sess : Nat)
  /-- FLASH_WRITE_DONE (R451). The flash write of a kept object completes, the request is acknowledged and the controller serves the next request. -/
  | flashWriteDone
  /-- POLICY_APPLY (R455). The firmware writes an acknowledged policy object into its hardware field within 1 ms. -/
  | policyApply (obj : DictRef)
  /-- MB_GO (R463). GO in MB_CTL sends a mailbox request from the carve-out buffer to the dictionary. -/
  | mbGo (ch : Fin 2) (v : Word)
  /-- REGION_LOAD (R454). OP 1 of 0x0C20 verifies the bitstream signatures and issues BEGIN, FETCH, COMMIT and RELEASE in turn. -/
  | regionLoad
  /-- REGION_CLEAR (R454). OP 2 of 0x0C20 issues CLEAR for the named region. -/
  | regionClear
  /-- REGION_HALT (R454). OP 3 of 0x0C20 issues HALT for the named region. -/
  | regionHalt
  /-- REGION_RESUME (R454). OP 4 of 0x0C20 issues RESUME for the named region. -/
  | regionResume
  /-- OWNER_KEY_WRITE (R446). An Operator write of an Owner key ends Owner sessions, uninstalls bitstream keys and resets Owner objects. -/
  | ownerKeyWrite (mldsa : Bool) (key : List Byte)
  /-- MANIFEST (R481). A write of a manifest to 0x0220.02 or 0x0232.02 is checked and begins an update of its slot. -/
  | manifest (host : Bool) (m : List Byte)
  /-- DATA (R481). A write to the DATA object programs image bytes at OFFSET and advances it. -/
  | updData (host : Bool) (data : List Byte)
  /-- UPD_COMMIT (R481). UPD_OP 2 reads the slot back and checks both digests, setting UPD_STATE 3 or 4. -/
  | updCommit (host : Bool)
  /-- UPD_ABORT (R481). UPD_OP 3 sets UPD_STATE to failed. -/
  | updAbort (host : Bool)
  /-- UPD_RESET (R481). UPD_OP 5 sends FAIL_NOTICE when paired and resets the device with standby rails kept. -/
  | updReset
  /-- NONCE (R485). A write to 0x0231.01 stores the attestation nonce. -/
  | nonce (v : List Byte)
  /-- REPORT (R485). A read of 0x0231.02 returns a signed attestation report bound to the nonce and clears it. -/
  | report
  /-- STBY_GOOD (R491). STBY_GOOD rises and the always-on domain starts. -/
  | stbyGood
  /-- PWR_GOOD_RISE (R476). PWR_GOOD rises, GMODE is sampled and the boot timeline starts in the boot ROM. -/
  | pwrGoodRise (gmode : Bool)
  /-- BOOT_STAGE (R476). A boot step completes and the next starts, or a failed check sends the device to RECOVERY or HOLD. -/
  | bootStage (outcome : BootOutcome)
  /-- FABRIC_READY (R478). Step 8, a device number and trained channels all hold, so READY is set, R objects served and admission begins. -/
  | fabricReady
  /-- RECOVERY_FETCH (R480). In recovery with AUTO_TWIN set the device fetches and writes its twin's firmware slot and resets. -/
  | recoveryFetch (twinServes : Bool) (m : List Byte) (image : List Byte)
  /-- RECOVERY_RETRY (R480). A refused recovery fetch is retried after 1 s, up to three times. -/
  | recoveryRetry
  /-- PWR_GOOD_FALL (R492). PWR_GOOD falls: FAIL_NOTICE is sent, HBM enters self-refresh and POWER is logged. -/
  | pwrGoodFall
  /-- RST_N (R503). RST_N held low while PWR_GOOD is high resets every part except the always-on domain, log, OTP and flash. -/
  | rstN
  /-- RAIL_FAULT (R493). A main rail leaves tolerance while PWR_GOOD is high and the device fails. -/
  | railFault (die : Fin 9)
  /-- REFCLK_LOSS (R501). The reference in use shows no edge for 1 microsecond and every die switches to the other, or fails when both are lost. -/
  | refclkLoss (both : Bool)
  /-- CURRENT_SAMPLE (R497). Every 50 ns a Basalt die measures its current and sets, raises, holds or lowers its stretch level. -/
  | currentSample (d : Fin 4) (amps : Nat) (overFor : Nat) (dieTemp : Int) (stackTemps : List Int)
  /-- TEMPERATURE_LIMIT (R499). A junction crosses 95, 105 or 115 degrees C, raising stretch, asserting THERM_N or failing the device. -/
  | temperatureLimit (die : Fin 9) (temp : Int)
  /-- POWER_CAP_UPDATE (R498). Every 1 ms the firmware compares package power with POWER_CAP and sets LIMIT_A on each Basalt die. -/
  | powerCapUpdate (pkgPower : Nat)
  /-- MSIX (R469). A write of MSIX in GR_PCIE sends an MSI-X entry to the board host in endpoint mode. -/
  | msix (entry : Fin 64)
  /-- PCIE_LINK_DOWN (R487). The PCIe link goes down and LINK_ERR is set. -/
  | pcieLinkDown
  /-- MARKER_LOCK (R390). A lane receiver sets MARKER_LOCK after finding the lane marker at its current boundary in 16 consecutive frames, and clears it after 4 consecutive misses. -/
  | markerLock (lane : LaneId) (marker : Option (BitVec 40)) (frames : Nat)
  /-- CDR_LOCK (R389). A lane's clock recovery acquires lock during the LOCK stage and CDR_LOCK is set. -/
  | cdrLock (lane : LaneId)
  /-- PRBS_LOCK (R398). A lane's pattern checker locks to the received pattern by itself and starts counting bit errors. -/
  | prbsLock (lane : LaneId) (errors : Nat)
  /-- CONTEXT_REUSE (R361). A peer context that has had no outstanding request for 1 ms becomes free for reuse, letting a request to a new peer that waits for a context proceed. -/
  | contextReuse (peer : BitVec 20)
  /-- CLUSTER_SPARE_DONE (R426). Cluster sparing completes at 40 microseconds: the crossbar serves the cluster from the spare (or the spare is retired on read-back failure), the trees restart and STATE becomes done. -/
  | clusterSpareDone (d : Fin 4) (readback : Bool)
  /-- HBM_REPAIR_DONE (R338). A soft repair finishes writing the spare row, releases the held bank so that waiting requests proceed, and sets STATE done with its RESULT. -/
  | hbmRepairDone (d : Fin 4) (spare : Bool) (bad : List (Fin 32))
  /-- NEIGHBOR_SOLICITATION (R456). A Neighbor Solicitation for the device's link-local address arrives on the segment and the device answers it. -/
  | neighborSolicitation (target : BitVec 128) (src : BitVec 128)
  /-- PCIE_LINK_UP (R469). The Granite PCIe port trains and its link comes up at some rate and width, shown in SPEED and WIDTH. -/
  | pcieLinkUp (speed : Fin 6) (width : Fin 5)
  /-- PCIE_REQUEST (R470). A request arrives at the PCIe port from a downstream device, which is translated by the IOMMU or completed as Unsupported Request, or from the board host into BAR0 or BAR2. -/
  | pcieRequest (r : PcieRequest)
  /-- STBY_GOOD_FALL (R491). STBY_GOOD falls and the always-on domain, including the event log, loses power. -/
  | stbyGoodFall
  /-- UCIE_LANE_REPAIR (R299). A UCIe lane fails and the module repairs it onto a redundant lane as UCIe 2.0 defines it, masking the fault. -/
  | ucieLaneRepair (d : Fin 4) (bridge : Fin 5) (module : Fin 4)
  /-- CONTROL_COMPARE_MISMATCH (R408). The duplicated sequencer or stream-engine control of a tile disagrees, and the tile faults with its program held. -/
  | controlCompareMismatch (t : TileId)
  /-- SHALE_COMPARE_MISMATCH (R408). The duplicated control of a Shale engine, crossbar or twin-mirror logic disagrees, and the device fails. -/
  | shaleCompareMismatch (shale : Fin 4)
  deriving DecidableEq, Repr

end Sys2Proof
end

