-- ==== Sys2Proof/Machine/Crc.lean ====
section
/-! DEFINITION. Reflected cyclic redundancy checks with initial and final inversion (R161, R196, R276, R415). -/

namespace Sys2Proof.Machine
open Sys2Proof

/-- One bit of a reflected CRC register. -/
def crcBit (poly r : Nat) : Nat := if r % 2 = 1 then (r / 2) ^^^ poly else r / 2
/-- One byte, least significant bit first. -/
def crcByte (poly r : Nat) (b : Byte) : Nat :=
  crcBit poly (crcBit poly (crcBit poly (crcBit poly (crcBit poly (crcBit poly (crcBit poly (crcBit poly (r ^^^ b.toNat))))))))
/-- R161: the check value of bytes from a seed that is a previous check value. -/
def crcRun (poly ones seed : Nat) (d : List Byte) : Nat := d.foldl (crcByte poly) (seed ^^^ ones) ^^^ ones

/-- CRC-32C: polynomial 0x1EDC_6F41, reflected. -/
def crc32c (seed : Nat) (d : List Byte) : Nat := crcRun 0x82F63B78 0xFFFFFFFF (seed % 2 ^ 32) d
/-- CRC-64 with the ECMA-182 polynomial 0x42F0_E1EB_A9EA_3693, reflected. -/
def crc64 (seed : Nat) (d : List Byte) : Nat := crcRun 0xC96C5795D7870F42 0xFFFFFFFFFFFFFFFF (seed % 2 ^ 64) d

/-- One bit of a CRC-16 register, most significant bit first. -/
def crc16Bit (r : Nat) : Nat := if 0x8000 ≤ r then (2 * r % 0x10000) ^^^ 0x8BB7 else 2 * r
/-- One byte, most significant bit first. -/
def crc16Byte (r : Nat) (b : Byte) : Nat :=
  crc16Bit (crc16Bit (crc16Bit (crc16Bit (crc16Bit (crc16Bit (crc16Bit (crc16Bit (r ^^^ (b.toNat * 256)))))))))
/-- R305: the CRC-16 with polynomial 0x8BB7 over a flit's data and its sideband (log 95). -/
def linkCrc (data : List Byte) (side : BitVec 32) : Nat := (data ++ leBytes 4 side.toNat).foldl crc16Byte 0

end Sys2Proof.Machine
end

