-- ==== Sys2Proof/Config.lean ====
section
/-! DEFINITION. What the spec leaves open or takes by reference: constants with no body, so that every claim holds
whatever they are (log 8, log 10, log 11, log 14). -/

namespace Sys2Proof

/-- A fresh value for a result that the spec leaves open, by the count of the draw (log 10). -/
opaque Config.free : Nat → BitVec 64
/-- What a lane of a vector register holds after the compute domain was switched off, by the count of the draw, the
register and the lane (R495, log 10). -/
opaque Config.lostLane : Nat → Nat → Nat → BitVec 64
/-- The router and the local port of a Basalt endpoint: fixed in hardware, not given (R297, log 11). -/
opaque Config.router : Nat → Nat → BitVec 7
opaque Config.lport : Nat → Nat → BitVec 1
/-- What a register of an unpopulated stack position reads as (R5, log 14). -/
opaque Config.absent : Nat → BitVec 64

/-- HBM3's figures that the spec takes by reference (R332): the time between two refreshes of a bank of a 24 Gb die at the
normal rate, in ns, and how many may be postponed. -/
opaque Config.refreshNs : Nat
opaque Config.refreshPostpone : Nat

/-- What a flip-flop of user logic captures where the spec leaves it open (R240, R241, log 25), by the count of the draw and
its place. -/
opaque Config.loose : Nat → Nat → Bool
/-- Rising and falling edges that a tree on IOCLK0 or IOCLK1 makes in a nanosecond, and the level outside at a user pin
(R244, R267, log 25): die, clock or pin, divisor, time. -/
opaque Config.ioEdge : Nat → Nat → Nat → Nat → Bool
opaque Config.ioFall : Nat → Nat → Nat → Nat → Bool
opaque Config.pinLevel : Nat → Nat → Nat → Bool
/-- Which of O6 and the second output "O6/O5/S" names as the source of a reset net (R278, log 25). -/
opaque Config.rstOut0 : Bool
/-- Signals of a network endpoint towards user logic, for which no list is given (R271, R279, log 25): region, signal, time. -/
opaque Config.endpointSignal : Nat → Nat → Nat → Bool

/-- SHA-512 (R276, R459, R472), by reference. -/
opaque Config.sha512 : List Byte → BitVec 512
/-- HMAC-SHA-512 (R460): key, message. -/
opaque Config.hmac : List Byte → List Byte → BitVec 512
/-- Ed25519 verification (R473): public key, message, signature. -/
opaque Config.edVerify : List Byte → List Byte → List Byte → Bool
/-- ML-DSA-65 verification (R473): public key, message, signature. -/
opaque Config.mlVerify : List Byte → List Byte → List Byte → Bool
/-- A signature by the identity keys of the package (R474, R483): 64 bytes and 3,309 bytes. -/
opaque Config.edSign : List Byte → BitVec 512
opaque Config.mlSign : List Byte → BitVec 26472
/-- The device's X25519 key of a session, by session count, and the shared secret (R459). -/
opaque Config.x25519Pub : Nat → BitVec 256
opaque Config.x25519 : Nat → List Byte → BitVec 256
/-- ML-KEM-768 encapsulation, by session count: ciphertext and shared secret (R459). -/
opaque Config.kemCipher : Nat → List Byte → BitVec 8704
opaque Config.kemSecret : Nat → List Byte → BitVec 256
/-- The device's session nonce (R458). -/
opaque Config.nonce : Nat → BitVec 256

/-- Values written at manufacture (R475, R482-R484): serial number, identity record of each die, identity keys,
certificates, the four key-set digests, the Operator key set of the order. -/
opaque Config.serial : BitVec 128
opaque Config.dieRecord : Nat → BitVec 96
opaque Config.idEd : BitVec 256
opaque Config.idMl : BitVec 15616
opaque Config.certPkg : BitVec 44096
opaque Config.certIssuer : BitVec 44096
opaque Config.otpKey : Nat → BitVec 512
opaque Config.operatorEd : BitVec 256
opaque Config.operatorMl : BitVec 15616
/-- What the two image slots of the flash hold when the package is delivered (R471, log 29). -/
opaque Config.fwManifest : List Byte
opaque Config.fwImage : List Byte
opaque Config.hostManifest : List Byte
opaque Config.hostImage : List Byte
/-- The MAC address of the segment port (R453). -/
opaque Config.mac : BitVec 48

end Sys2Proof
end

