-- ==== Sys2Proof/Machine/Regs.lean ====
section
/-! DEFINITION. The control registers: names, field access masks and reset values (the register tables of
chapters 04-17), and where each register lies in the CSR window of its die (R30). -/

namespace Sys2Proof.Machine
open Sys2Proof

/-- The three part numbers (R3, R4). -/
inductive Part where
  | m8x2 | m12x2 | m12x4
  deriving DecidableEq, Repr

/-- What the register tables give for one register: which bits have each access code (R12), and the reset word. -/
structure RegInfo where
  rw    : Nat := 0
  w1c   : Nat := 0
  w1s   : Nat := 0
  rwl   : Nat := 0
  wo    : Nat := 0
  reset : Nat := 0
  deriving DecidableEq, Repr

/-- The registers by name. -/
inductive RegName where
  | mtState | mtSeq | mtCount | mtAccset | vtState | vtSeq | vtCount | seLimit | seCancel | seClear | seStat
  | seBytes | seStall | seForeign | seStallcnt | tpSq | tpDb | tpHead | tpState | tpAbort | tpAbortreply
  | tpCkpt | tpCtr | tpCqd | tpCqh | tpCqt | tpGdb | qcCfg | qcStat | qcThr | lrClk | lrPll | ioPin | ioBank
  | cfgCtl | cfgStat | cfgFetch | cfgFetchlen | cfgScrub | nocCtl | nocRtctl | nocRtw | nocRtr | nocEp
  | nocLink | hbmMap | hbmHash | hbmAge | hbmScrub | hbmDlysel | hbmDlydat | hbmCheck | hbmRepair | hbmCh
  | fxCtl | fxTwin | fxCtx | fxMir | fxCq | fxCqdb | lkPctl | lkPstat | lkPerr | lkPinj | lkLctl | lkLstat
  | lkLerr | lkAdmit | cvCfg | cvSeed | cvExp | cvVal | cvStat | cvsAddr | cvsLen | rlTmove | rlCspare
  | rlSram | rlWdog | rlLognew | rlLogovr | mbAddr | mbCtl | grBoot | grPcie | grIrq | pwCtl | pwStat
  | qcPeer
  deriving DecidableEq, Repr

/-- The access masks and the reset word of each register, from its table. -/
def regInfo : RegName → RegInfo
  | .mtState => { w1c := 0x200000000000 }
  | .mtSeq => { reset := 0xFFFFFFFF }
  | .mtCount => {}
  | .mtAccset => { rw := 0xBFFFFFFFFC000000 }
  | .vtState => {}
  | .vtSeq => { reset := 0xFFFFFFFF }
  | .vtCount => {}
  | .seLimit => { rw := 0xFFFFFFFC00, w1c := 0x8000000000000000, reset := 0x1004060000 }
  | .seCancel => { wo := 0xFFFFFFFFF }
  | .seClear => { wo := 0x3FFFFFFFF800 }
  | .seStat => {}
  | .seBytes => {}
  | .seStall => { rw := 0x3FFF, reset := 0x32 }
  | .seForeign => { rw := 0xFFFF, reset := 0xFA0 }
  | .seStallcnt => {}
  | .tpSq => { rw := 0xFC00FFFFFFFFFFC0, reset := 0x1000000000000000 }
  | .tpDb => { rw := 0xFFFFFFFF }
  | .tpHead => {}
  | .tpState => { w1c := 0x800000000000000, reset := 0x100000000000000 }
  | .tpAbort => { wo := 0xE0000000FFFFFFFF }
  | .tpAbortreply => {}
  | .tpCkpt => {}
  | .tpCtr => { rw := 0xFFFFFFFF }
  | .tpCqd => { rw := 0xFFFFFFFFFFFFFF80, reset := 0x1000000000000000 }
  | .tpCqh => { rw := 0xFFFFFFFF }
  | .tpCqt => { w1c := 0xE000000000000000 }
  | .tpGdb => { wo := 0xFFFFFFFFFFFFFFFF }
  | .qcCfg => { rw := 0xFFFFFFFFFFFFFFC0, w1c := 0x20, reset := 0x802000200000000 }
  | .qcStat => { w1c := 0x2C00000000000000, reset := 0x4000000000000000 }
  | .qcThr => { rw := 0x1FFF }
  | .lrClk => { rw := 0xFFF0000000000000, w1c := 0x6000000000000, reset := 0x7000000000000000 }
  | .lrPll => { rw := 0xFFFF000000000000, w1c := 0x600000000000, reset := 0x1404000000000000 }
  | .ioPin => { rw := 0xFFFFFFF000000000, rwl := 0xC00000000, reset := 0x900000000000000 }
  | .ioBank => { w1s := 0x8000000000000000, rwl := 0x4000000000000000 }
  | .cfgCtl => { wo := 0xF000000000000000 }
  | .cfgStat => {}
  | .cfgFetch => { rw := 0xFFFFFFFFFFFF }
  | .cfgFetchlen => { rw := 0xFFFFFFFF }
  | .cfgScrub => { rw := 0xF000000000000000, w1c := 0x800000000, reset := 0x8000000000000000 }
  | .nocCtl => { rw := 0x3FF00000000000, reset := 0x1000000000000 }
  | .nocRtctl => { wo := 0x8000000000000000 }
  | .nocRtw => { wo := 0xFFFFE00000000000 }
  | .nocRtr => { rw := 0xFFFF800000000000 }
  | .nocEp => { wo := 0x30000000000000 }
  | .nocLink => {}
  | .hbmMap => { w1s := 0x8000000000000000, rwl := 0x7800000000000000, reset := 0x2000000000000000 }
  | .hbmHash => { rwl := 0xFFFFFFFFFFFFFF }
  | .hbmAge => { rw := 0xFFF, reset := 0xFA0 }
  | .hbmScrub => { rw := 0xF800000000000000, reset := 0x4000000000000000 }
  | .hbmDlysel => { rw := 0xFFFE000000000000 }
  | .hbmDlydat => { rw := 0xFF, w1c := 0x8000000000000000 }
  | .hbmCheck => { rw := 0x7FFC000000000000, wo := 0x8000000000000000, reset := 0x20000000000000 }
  | .hbmRepair => { rw := 0x7FFFFFF000000000, wo := 0x8000000000000000 }
  | .hbmCh => { rw := 0x8000000000000000, w1s := 0x6000000000000000 }
  | .fxCtl => { rw := 0xFFFFFFF000000000, w1c := 0x800000000, reset := 0x6428432000000000 }
  | .fxTwin => {}
  | .fxCtx => {}
  | .fxMir => {}
  | .fxCq => { rw := 0xFFFFFFFFFFFFFFC0, reset := 0x1000000000000000 }
  | .fxCqdb => { rw := 0xFFFFFFFF }
  | .lkPctl => { rw := 0x1FFFFE0000000000, wo := 0xE000000000000000, reset := 0x80000000000000 }
  | .lkPstat => { reset := 0x7000000000000 }
  | .lkPerr => {}
  | .lkPinj => { rw := 0xFFFFF00000000000 }
  | .lkLctl => { rw := 0x7FF0000000000000, wo := 0x8000000000000000, reset := 0xA0000000000000 }
  | .lkLstat => {}
  | .lkLerr => { w1c := 0xFFFFFFFF00000000 }
  | .lkAdmit => {}
  | .cvCfg => { rw := 0xFFFFF00000000000, wo := 0x80000000000 }
  | .cvSeed => { rw := 0xFFFFFFFFFFFFFFFF }
  | .cvExp => { rw := 0xFFFFFFFFFFFFFFFF }
  | .cvVal => {}
  | .cvStat => { w1c := 0xE000000000000000 }
  | .cvsAddr => { rw := 0xFFFFFFFFFFFF }
  | .cvsLen => { rw := 0x1FFFFFFFF }
  | .rlTmove => { rw := 0x7FFF000000000000, wo := 0x8000000000000000 }
  | .rlCspare => { rw := 0x7FF8000000000000, wo := 0x8000000000000000 }
  | .rlSram => { rw := 0xFC00000000000000, reset := 0x2800000000000000 }
  | .rlWdog => { wo := 0x8000000000000000 }
  | .rlLognew => {}
  | .rlLogovr => {}
  | .mbAddr => { rw := 0xFFFFFFFFFFFF }
  | .mbCtl => { rw := 0x3FFF800000FFC000, wo := 0x8000000000000000 }
  | .grBoot => {}
  | .grPcie => { rw := 0x3FFFF000000000, w1c := 0x40000000000000, wo := 0xFC0000000 }
  | .grIrq => { rw := 0xF800000000000000 }
  | .pwCtl => { rw := 0xFFE0000000000000, reset := 0x7080000000000000 }
  | .pwStat => {}
  | .qcPeer => { rw := 0xFFFFFFFFE0000000 }

/-! ### Where the registers lie -/

/-- R30: the CSR window of die n (0-3 C0-C3, 4-7 S0-S3, 8 G). -/
def csrBase (die : Nat) : Nat := 0x200000000000 + die * 0x100000000

/-- A register at an offset of a die's window. -/
def csrAt (die off : Nat) : Nat := csrBase die + off

/-- Which fitted dies a part number has (R3, R4). -/
def Part.shales : Part → Nat | .m8x2 => 2 | .m12x2 => 2 | .m12x4 => 4
/-- HBM stacks fitted (R3). -/
def Part.stacks : Part → Nat | .m8x2 => 8 | .m12x2 => 12 | .m12x4 => 12
/-- Stack positions per Basalt die (R317). -/
def Part.positions : Part → Nat | .m8x2 => 2 | .m12x2 => 3 | .m12x4 => 3
/-- Whether die n (numbered as in R30) is fitted. -/
def Part.dieFitted (p : Part) (n : Nat) : Bool := n < 4 || n == 8 || (4 ≤ n && n < 4 + p.shales)

/-- The M-tile block (R112). -/
def mtAt (die n off : Nat) : Nat := csrAt die (0x100000 + n * 0x1000 + off)
/-- The V-tile block (R162). -/
def vtAt (die n off : Nat) : Nat := csrAt die (0x200000 + n * 0x1000 + off)
/-- The stream-engine tile block (R199). -/
def seAt (die slot off : Nat) : Nat := csrAt die (0x300000 + slot * 0x1000 + off)
/-- The sequencer tile block (R229). -/
def tpAt (die slot off : Nat) : Nat := csrAt die (0x400000 + slot * 0x1000 + off)
/-- The sequencer die block (R229). -/
def cqAt (die q off : Nat) : Nat := csrAt die (0x480000 + 0x20 * q + off)
/-- The queue-controller block (R272). -/
def qcAt (die q off : Nat) : Nat := csrAt die (0x500000 + 0x40 * q + off)
/-- A regional tree's register (R272). -/
def lrClkAt (die n k : Nat) : Nat := csrAt die (0x580000 + 0x100 * n + 8 * k)
/-- A user PLL's register (R272). -/
def lrPllAt (die u : Nat) : Nat := csrAt die (0x590000 + 8 * u)
/-- A user pin's register (R272). -/
def ioPinAt (die p : Nat) : Nat := csrAt die (0x5A0000 + 8 * p)
/-- The bank register (R272). -/
def ioBankAt (die : Nat) : Nat := csrAt die 0x5A0100
/-- The network block (R315). -/
def nocAt (die off : Nat) : Nat := csrAt die (0x600000 + off)
/-- An endpoint's fence register (R315). -/
def nocEpAt (die e : Nat) : Nat := nocAt die (0x100 + 8 * e)
/-- An on-die link's register (R315). -/
def nocLinkAt (die l : Nat) : Nat := nocAt die (0x1000 + 8 * l)
/-- The HBM block (R341). -/
def hbmAt (die off : Nat) : Nat := csrAt die (0x700000 + off)
/-- A channel's register (R341). -/
def hbmChAt (die ch : Nat) : Nat := hbmAt die (0x100 + 8 * ch)
/-- The fabric block (R380) of Shale die Sn. -/
def fxAt (shale off : Nat) : Nat := csrAt (4 + shale) (0x800000 + off)
/-- The link block (R405) of Shale die Sn. -/
def lkAt (shale off : Nat) : Nat := csrAt (4 + shale) (0x900000 + off)
/-- A port's registers (R405). -/
def lkPortAt (shale p off : Nat) : Nat := lkAt shale (0x40 * p + off)
/-- A lane's registers (R405). -/
def lkLaneAt (shale l off : Nat) : Nat := lkAt shale (0x400 + 0x20 * l + off)
/-- A check-value unit's registers (R437); die 4 is S0. -/
def cvAt (die u off : Nat) : Nat := csrAt die (0xA00000 + 0x40 * u + off)
/-- The reliability block (R438). -/
def rlAt (die off : Nat) : Nat := csrAt die (0xB00000 + off)
/-- A mailbox channel (R463). -/
def mbAt (ch off : Nat) : Nat := csrAt 8 (0xC00000 + 0x10 * ch + off)
/-- The Granite block (R487). -/
def grAt (off : Nat) : Nat := csrAt 8 (0xD00000 + off)
/-- The power block (R506). -/
def pwAt (die off : Nat) : Nat := csrAt die (0xE00000 + off)

/-- The configuration-port window of region Ln of Cd (R31); its registers are held beside the CSR registers. -/
def cfgAt (die n off : Nat) : Nat := 0x300000000000 + die * 0x40000000 + n * 0x4000000 + off

/-- The registers of a Basalt die's window, by offset; the number tells the instance (R112, R162, R199, R229, R272,
R315, R341, R437, R438, R506). -/
def locateBasalt (o : Nat) : Option (RegName × Nat) :=
  if o % 8 ≠ 0 then none
  else if o < 0x100000 then none
  else if o < 0x140000 then
    let n := (o - 0x100000) / 0x1000; let r := o % 0x1000
    if r = 0 then some (.mtState, n) else if r = 8 then some (.mtSeq, n) else if r = 0x10 then some (.mtCount, n)
    else if 0x100 ≤ r ∧ r < 0x180 then some (.mtAccset, n) else none
  else if o < 0x200000 then none
  else if o < 0x220000 then
    let n := (o - 0x200000) / 0x1000; let r := o % 0x1000
    if r = 0 then some (.vtState, n) else if r = 8 then some (.vtSeq, n) else if r = 0x10 then some (.vtCount, n) else none
  else if o < 0x300000 then none
  else if o < 0x360000 then
    let n := (o - 0x300000) / 0x1000; let r := o % 0x1000
    if r = 0 then some (.seLimit, n) else if r = 8 then some (.seCancel, n) else if r = 0x10 then some (.seClear, n)
    else if 0x100 ≤ r ∧ r < 0x200 then (if r % 16 = 0 then some (.seStat, n) else some (.seBytes, n)) else none
  else if o < 0x380000 then none
  else if o = 0x380000 then some (.seStall, 0) else if o = 0x380008 then some (.seForeign, 0)
  else if o = 0x380010 then some (.seStallcnt, 0)
  else if o < 0x400000 then none
  else if o < 0x460000 then
    let n := (o - 0x400000) / 0x1000; let r := o % 0x1000
    if r < 0x10 then some (.tpSq, n) else if r < 0x20 then some (.tpDb, n) else if r = 0x20 then some (.tpHead, n)
    else if r = 0x28 then some (.tpState, n) else if r = 0x30 then some (.tpAbort, n)
    else if r = 0x38 then some (.tpAbortreply, n) else if r < 0x50 then some (.tpCkpt, n)
    else if 0x100 ≤ r ∧ r < 0x300 then some (.tpCtr, n) else none
  else if o < 0x480000 then none
  else if o < 0x480800 then
    let q := (o - 0x480000) / 0x20; let r := o % 0x20
    if r = 0 then some (.tpCqd, q) else if r = 8 then some (.tpCqh, q) else if r = 0x10 then some (.tpCqt, q) else none
  else if o = 0x480800 then some (.tpGdb, 0) else if o = 0x480808 then some (.tpGdb, 1)
  else if o < 0x500000 then none
  else if o < 0x508000 then
    let q := (o - 0x500000) / 0x40; let r := o % 0x40
    if r = 0 then some (.qcCfg, q) else if r = 8 then some (.qcPeer, q) else if r = 0x10 then some (.qcStat, q)
    else if r = 0x18 then some (.qcThr, q) else none
  else if o < 0x580000 then none
  else if o < 0x581000 then (if o % 0x100 < 0x40 then some (.lrClk, (o - 0x580000) / 0x100) else none)
  else if o < 0x590000 then none
  else if o < 0x590020 then some (.lrPll, (o - 0x590000) / 8)
  else if o < 0x5A0000 then none
  else if o < 0x5A00C0 then some (.ioPin, (o - 0x5A0000) / 8)
  else if o = 0x5A0100 then some (.ioBank, 0)
  else if o < 0x600000 then none
  else if o < 0x610000 then
    let r := o - 0x600000
    if r = 0 then some (.nocCtl, 0) else if r = 8 then some (.nocRtctl, 0) else if r = 0x10 then some (.nocRtw, 0)
    else if r = 0x18 then some (.nocRtr, 0)
    else if 0x100 ≤ r ∧ r < 0x900 then some (.nocEp, (r - 0x100) / 8)
    else if 0x1000 ≤ r ∧ r < 0x1000 + 8 * 266 then some (.nocLink, (r - 0x1000) / 8) else none
  else if o < 0x700000 then none
  else if o < 0x700280 then
    let r := o - 0x700000
    if r = 0 then some (.hbmMap, 0) else if r < 0x20 then some (.hbmHash, (r - 8) / 8) else if r = 0x20 then some (.hbmAge, 0)
    else if r = 0x28 then some (.hbmScrub, 0) else if r = 0x30 then some (.hbmDlysel, 0)
    else if r = 0x38 then some (.hbmDlydat, 0) else if r = 0x40 then some (.hbmCheck, 0)
    else if r = 0x48 then some (.hbmRepair, 0)
    else if 0x100 ≤ r then some (.hbmCh, (r - 0x100) / 8) else none
  else if o < 0xA00000 then none
  else if o < 0xA01000 then
    let u := (o - 0xA00000) / 0x40; let r := o % 0x40
    if r = 0 then some (.cvCfg, u) else if r = 8 then some (.cvSeed, u) else if r = 0x10 then some (.cvExp, u)
    else if r = 0x18 then some (.cvVal, u) else if r = 0x20 then some (.cvStat, u) else none
  else if o = 0xB00000 then some (.rlTmove, 0) else if o = 0xB00008 then some (.rlCspare, 0)
  else if o = 0xB00010 then some (.rlSram, 0)
  else if o = 0xE00000 then some (.pwCtl, 0) else if o = 0xE00008 then some (.pwStat, 0)
  else none

/-- The registers of a Shale die's window (R315, R380, R405, R437, R438); `n` is the Shale number. -/
def locateShale (n o : Nat) : Option (RegName × Nat) :=
  if o % 8 ≠ 0 then none
  else if o = 0x600000 then some (.nocCtl, 0)
  else if o < 0x800000 then none
  else if o < 0x800500 then
    let r := o - 0x800000
    if r = 0 then some (.fxCtl, 0) else if r = 8 then some (.fxTwin, 0) else if r = 0x10 then some (.fxCtx, 0)
    else if 0x100 ≤ r ∧ r < 0x300 then some (.fxMir, (r - 0x100) / 8)
    else if 0x400 ≤ r ∧ n = 0 then (if r % 16 = 0 then some (.fxCq, (r - 0x400) / 16) else some (.fxCqdb, (r - 0x400) / 16))
    else none
  else if o < 0x900000 then none
  else if o < 0x900200 then
    let p := (o - 0x900000) / 0x40; let r := o % 0x40
    if r = 0 then some (.lkPctl, p) else if r = 8 then some (.lkPstat, p) else if r = 0x10 then some (.lkPerr, p)
    else if r = 0x18 then some (.lkPinj, p) else none
  else if o < 0x900400 then none
  else if o < 0x900880 then
    let l := (o - 0x900400) / 0x20; let r := o % 0x20
    if r = 0 then some (.lkLctl, l) else if r = 8 then some (.lkLstat, l) else if r = 0x10 then some (.lkLerr, l) else none
  else if o = 0x900900 then some (.lkAdmit, 0)
  else if n ≠ 0 then none
  else if o < 0xA00000 then none
  else if o < 0xA00800 then
    let u := (o - 0xA00000) / 0x40; let r := o % 0x40
    if r = 0 then some (.cvCfg, u) else if r = 8 then some (.cvSeed, u) else if r = 0x10 then some (.cvExp, u)
    else if r = 0x18 then some (.cvVal, u) else if r = 0x20 then some (.cvStat, u)
    else if r = 0x28 then some (.cvsAddr, u) else if r = 0x30 then some (.cvsLen, u) else none
  else if o = 0xB00000 then some (.rlWdog, 0) else if o = 0xB00008 then some (.rlLognew, 0)
  else if o = 0xB00010 then some (.rlLogovr, 0)
  else none

/-- The registers of Granite's window (R315, R463, R487). -/
def locateGranite (o : Nat) : Option (RegName × Nat) :=
  if o % 8 ≠ 0 then none
  else if o = 0x600000 then some (.nocCtl, 0)
  else if o = 0xC00000 then some (.mbAddr, 0) else if o = 0xC00008 then some (.mbCtl, 0)
  else if o = 0xC00010 then some (.mbAddr, 1) else if o = 0xC00018 then some (.mbCtl, 1)
  else if o = 0xD00000 then some (.grBoot, 0) else if o = 0xD00008 then some (.grPcie, 0)
  else if 0xD01000 ≤ o ∧ o < 0xD03000 then some (.grIrq, (o - 0xD01000) / 8)
  else none

/-- The register at a device-local address, if there is one (R12, R30, R33): its name, the die and the instance.
Registers of the configuration-port windows (R287) are located too. -/
def locate (p : Part) (a : Nat) : Option (RegName × Nat × Nat) :=
  if a < 0x200000000000 then none
  else if a < 0x200900000000 then
    let die := (a - 0x200000000000) / 0x100000000
    let o := a % 0x100000000
    if !p.dieFitted die then none
    else if die < 4 then (locateBasalt o).map (fun r => (r.1, die, r.2))
    else if die < 8 then (locateShale (die - 4) o).map (fun r => (r.1, die, r.2))
    else (locateGranite o).map (fun r => (r.1, die, r.2))
  else if 0x300000000000 ≤ a ∧ a < 0x300100000000 then
    let die := (a - 0x300000000000) / 0x40000000
    let n := a % 0x40000000 / 0x4000000
    let o := a % 0x4000000
    if o = 0 then some (.cfgCtl, die, n) else if o = 8 then some (.cfgStat, die, n)
    else if o = 0x10 then some (.cfgFetch, die, n) else if o = 0x18 then some (.cfgFetchlen, die, n)
    else if o = 0x20 then some (.cfgScrub, die, n) else none
  else none

/-- The reset word of the register at an address. PHYS of MT_STATE and VT_STATE resets to the tile's own number
(R112, R162); M12 of HBM_MAP tells the part (R341). Unmapped addresses give 0. -/
def resetOf (p : Part) (a : Nat) : Word :=
  match locate p a with
  | none => 0
  | some (.mtState, _, n) => BitVec.ofNat 64 (n * 2 ^ 57)
  | some (.vtState, _, n) => BitVec.ofNat 64 (n * 2 ^ 58)
  | some (.hbmMap, _, _) => BitVec.ofNat 64 ((regInfo .hbmMap).reset + (if p.positions = 3 then 2 ^ 58 else 0))
  | some (n, _, _) => BitVec.ofNat 64 (regInfo n).reset

end Sys2Proof.Machine
end

