-- ==== Sys2Proof/Machine/Objects.lean ====
section
/-! DEFINITION. The object dictionary's tables: types, access, serving points, ranges and defaults (R440-R455, R294,
R381, R406, R439, R488, R507). -/

namespace Sys2Proof.Machine
open Sys2Proof

/-- One row of an object table. `ty` is the type code and `n` the length bound (R441); `op`, `ow`, `wa` are the
accesses of the Operator, the Owner and the Warden (R458: 0 none, 1 RO, 2 RW, 3 WO); `serve` is 0 H, 1 F, 2 R (R448);
`lo` and `hi` bound the value of an integer object; `kept` is set for objects kept in flash (R451). -/
structure ObjInfo where
  ty    : Nat
  n     : Nat := 0
  op    : Nat
  ow    : Nat
  wa    : Nat
  serve : Nat
  dflt  : List Byte := []
  lo    : Nat := 0
  hi    : Nat := 2 ^ 64
  kept  : Bool := false
  deriving DecidableEq, Repr

/-- Bytes of an integer type (R441). -/
def tyBytes (ty : Nat) : Nat :=
  if ty ≤ 1 then 1 else if ty = 2 then 2 else if ty = 3 then 4 else if ty = 4 then 8 else if ty = 5 then 4
  else if ty = 6 then 8 else 0

/-- An integer object of given accesses, serving point and default. -/
def objInt (ty op ow wa serve d : Nat) (lo : Nat := 0) (hi : Nat := 2 ^ 64) (kept : Bool := false) : Option ObjInfo :=
  some { ty, op, ow, wa, serve, dflt := leBytes (tyBytes ty) d, lo, hi, kept }

/-- An object that all levels may only read. -/
def objRO (ty serve : Nat) (d : Nat := 0) : Option ObjInfo := objInt ty 1 1 1 serve d

/-- A STR or BLOB object (R441). -/
def objBlob (ty n op ow wa serve : Nat) (d : List Byte := []) (kept : Bool := false) : Option ObjInfo :=
  some { ty, n, op, ow, wa, serve, dflt := d, kept }

/-- The characters of an ASCII string. -/
def ascii (s : List Nat) : List Byte := s.map (BitVec.ofNat 8)

/-- Bytes of a text with its trailing zero bytes dropped: SERIAL is zero-padded (R482), STR has no terminator. -/
def dropZeros (l : List Byte) : List Byte := (l.reverse.dropWhile (· == 0)).reverse

/-- PART (R3, R453). -/
def partName : Part → List Byte
  | .m8x2  => ascii [76, 90, 45, 57, 54, 48, 45, 77, 56, 88, 50]
  | .m12x2 => ascii [76, 90, 45, 57, 54, 48, 45, 77, 49, 50, 88, 50]
  | .m12x4 => ascii [76, 90, 45, 57, 54, 48, 45, 77, 49, 50, 88, 52]

/-- TDP in W (R4). -/
def tdp : Part → Nat | .m8x2 => 3200 | .m12x2 => 3300 | .m12x4 => 3500

/-- User HBM in bytes (R28). -/
def userHbm : Part → Nat | .m8x2 => 0x2B80000000 | _ => 0x4380000000

/-- LOT, WAFER, X, Y, TYPE, PRESENT of die n (R453, R482). -/
def objDie (n sub : Nat) : Option ObjInfo :=
  let r := leBytes 12 (Config.dieRecord n).toNat
  let w (i : Nat) : Nat := (r.getD i 0).toNat
  match sub with
  | 1 => objBlob 7 6 1 1 1 0 (r.take 6)
  | 2 => objRO 1 0 (w 6)
  | 3 => objRO 5 0 (codeN 32 (sextN 8 (w 7)))
  | 4 => objRO 5 0 (codeN 32 (sextN 8 (w 8)))
  | 5 => objRO 1 0 (if n < 4 then 0 else if n < 8 then 1 else 2)
  | 6 => objRO 0 0 1
  | _ => none

/-- LINK_LOCAL: fe80::/64 with the modified EUI-64 interface identifier of MAC (R456). -/
def linkLocal : List Byte :=
  let m := (leBytes 6 Config.mac.toNat)
  ascii [0xFE, 0x80, 0, 0, 0, 0, 0, 0] ++ [(m.getD 0 0) ^^^ 2, m.getD 1 0, m.getD 2 0, 0xFF, 0xFE, m.getD 3 0, m.getD 4 0, m.getD 5 0]

/-- The identity range 0x0100-0x01FF (R453). -/
def objIdentity (p : Part) (idx sub : Nat) : Option ObjInfo :=
  if idx = 0x0100 then
    match sub with
    | 1 => objBlob 7 16 1 1 1 0 (partName p)
    | 2 => objRO 1 0 p.stacks
    | 3 => objRO 1 0 p.shales
    | 4 => objBlob 7 16 1 1 1 0 (dropZeros (leBytes 16 Config.serial.toNat))
    | 5 => objRO 2 0 1
    | _ => none
  else if 0x0110 ≤ idx ∧ idx ≤ 0x0118 then objDie (idx - 0x0110) sub
  else if idx = 0x0120 then
    match sub with
    | 1 => objBlob 8 32 1 1 1 0 (leBytes 32 Config.idEd.toNat)
    | 2 => objBlob 8 1952 1 1 1 0 (leBytes 1952 Config.idMl.toNat)
    | _ => none
  else if idx = 0x0150 then
    match sub with
    | 1 => objInt 1 2 0 2 0 255 0 255 true
    | 2 => objInt 1 2 0 2 0 8 1 255 true
    | 3 => objInt 2 2 0 2 0 39548 1024 65535 true
    | 4 => objBlob 8 6 1 1 1 0 (leBytes 6 Config.mac.toNat)
    | 5 => objBlob 8 16 1 1 1 0 linkLocal
    | 6 => objRO 1 0
    | _ => none
  else none

/-- Firmware and trust, 0x0200-0x02FF (R453, R488). -/
def objTrust (idx sub : Nat) : Option ObjInfo :=
  if idx = 0x0200 then
    match sub with
    | 1 => objRO 3 1
    | 2 => objRO 1 1
    | 3 => objBlob 8 64 1 1 1 1
    | _ => none
  else if idx = 0x0210 then
    match sub with
    | 1 => objBlob 8 32 2 0 2 0 (leBytes 32 Config.operatorEd.toNat) true
    | 2 => objBlob 8 1952 2 0 2 0 (leBytes 1952 Config.operatorMl.toNat) true
    | _ => none
  else if idx = 0x0212 then
    match sub with
    | 1 => objBlob 8 32 2 1 2 0 [] true
    | 2 => objBlob 8 1952 2 1 2 0 [] true
    | _ => none
  else if idx = 0x0220 then
    match sub with
    | 1 => objInt 1 3 0 3 0 0 2 5
    | 2 => objBlob 8 5512 3 0 3 0
    | 3 => objInt 3 1 0 1 0 0
    | 4 => objBlob 8 16384 3 0 3 0
    | 5 => objRO 1 0
    | 6 => objRO 1 0
    | _ => none
  else if idx = 0x0221 then
    match sub with
    | 1 => objInt 0 2 0 2 0 1 0 1 true
    | _ => none
  else if idx = 0x0230 then
    match sub with
    | 1 => objBlob 8 5512 1 1 1 1 (leBytes 5512 Config.certPkg.toNat)
    | 2 => objBlob 8 5512 1 1 1 1 (leBytes 5512 Config.certIssuer.toNat)
    | _ => none
  else if idx = 0x0231 then
    match sub with
    | 1 => objBlob 8 32 2 2 2 1
    | 2 => objBlob 8 7808 1 1 1 1
    | _ => none
  else if idx = 0x0232 then
    match sub with
    | 1 => objInt 1 0 3 3 1 0 2 5
    | 2 => objBlob 8 5512 0 3 3 1
    | 3 => objInt 3 0 1 1 1 0
    | 4 => objBlob 8 16384 0 3 3 1
    | 5 => objRO 1 1
    | 6 => objBlob 8 64 1 1 1 1 (leBytes 64 0)
    | 7 => objInt 1 0 1 1 1 0
    | _ => none
  else none

/-- Power, tiles and memory, 0x0400-0x08FF (R439, R453, R507). -/
def objMachine (p : Part) (idx sub : Nat) : Option ObjInfo :=
  if idx = 0x0400 then (if sub = 1 then objRO 1 1 else none)
  else if idx = 0x0401 then (if sub = 1 then objRO 2 1 (tdp p) else none)
  else if idx = 0x0403 then
    match sub with
    | 1 => objRO 2 1 1000
    | 2 => objRO 2 1 1200
    | 3 => objRO 1 1 95
    | 4 => objRO 1 1 105
    | 5 => objRO 1 1 115
    | _ => none
  else if 0x0610 ≤ idx ∧ idx ≤ 0x0613 then (if 1 ≤ sub ∧ sub ≤ 0x44 then objRO 4 1 else none)
  else if 0x0620 ≤ idx ∧ idx ≤ 0x0623 then (if 1 ≤ sub ∧ sub ≤ 0x22 then objRO 4 1 else none)
  else if idx = 0x0800 then
    match sub with
    | 1 => objRO 4 1 (userHbm p)
    | 2 => objRO 1 1
    | _ => none
  else if 0x0810 ≤ idx ∧ idx ≤ 0x0813 then (if 1 ≤ sub ∧ sub ≤ 0x30 then objRO 4 1 else none)
  else none

/-- Fabric and twin, logic and configuration, 0x0A00-0x0CFF (R381, R406, R439, R453). -/
def objFabric (idx sub : Nat) : Option ObjInfo :=
  if idx = 0x0A01 then
    match sub with
    | 1 => objInt 3 2 0 2 1 0xFFFFFFFF 0 0xFFFFF true
    | 2 => objRO 3 1
    | 3 => objRO 3 1
    | _ => none
  else if idx = 0x0A02 then
    match sub with
    | 1 => objRO 1 1
    | 2 => objRO 3 1
    | 3 => objInt 1 3 0 3 1 0 1 1
    | 4 => objRO 3 1
    | _ => none
  else if idx = 0x0A10 then
    match sub with
    | 1 => objInt 1 0 2 2 2 0 1 2
    | 2 => objInt 1 0 2 2 2 0 0 1
    | 3 => objInt 4 0 2 2 2 0
    | 4 => objInt 4 0 2 2 2 0
    | 5 => objInt 1 0 1 1 2 0
    | _ => none
  else if idx = 0x0A11 then (if 1 ≤ sub ∧ sub ≤ 0x40 then objInt 4 0 1 1 1 0 else none)
  else if idx = 0x0A20 then (if sub = 1 then objInt 1 0 3 3 2 0 1 1 else none)
  else if idx = 0x0A30 then
    match sub with
    | 1 | 2 | 3 | 4 => objInt 1 2 0 2 1 8 1 8 true
    | 5 => objInt 1 2 0 2 1 8 8 24
    | 6 => objRO 3 1
    | _ => none
  else if idx = 0x0A31 then (if 1 ≤ sub ∧ sub ≤ 0x20 then objRO 4 1 else none)
  else if idx = 0x0C10 then (if sub = 1 then objBlob 8 32 0 2 2 1 else none)
  else if idx = 0x0C11 then (if sub = 1 then objBlob 8 1952 0 2 2 1 else none)
  else if idx = 0x0C20 then
    match sub with
    | 1 => objInt 1 0 2 2 1 0 0 63
    | 2 => objInt 4 0 2 2 1 0
    | 3 => objInt 3 0 2 2 1 0
    | 4 => objInt 1 0 3 3 1 0 1 4
    | 5 => objInt 1 0 1 1 1 0
    | 6 => objInt 0 0 1 1 1 0
    | _ => none
  else if idx = 0x0C21 then (if 1 ≤ sub ∧ sub ≤ 0x40 then objRO 4 1 else none)
  else if 0x0C30 ≤ idx ∧ idx ≤ 0x0C33 then (if 1 ≤ sub ∧ sub ≤ 0x10 then objRO 1 1 else none)
  else none

/-- Reliability, telemetry, policy and Amber, 0x0E00-0xFFFF (R294, R439, R453, R455, R507). -/
def objPolicy (p : Part) (idx sub : Nat) : Option ObjInfo :=
  if idx = 0x0E01 then
    match sub with
    | 1 => objRO 4 1
    | 2 | 3 => objRO 3 1
    | _ => none
  else if idx = 0x0E10 then (if 1 ≤ sub ∧ sub ≤ 9 then objRO 5 1 else none)
  else if idx = 0x0E11 then (if 1 ≤ sub ∧ sub ≤ 9 then objRO 3 1 else none)
  else if idx = 0x0E12 then (if 1 ≤ sub ∧ sub ≤ 0x0C then objRO 5 1 else none)
  else if idx = 0x0E13 then (if sub = 1 then objRO 3 1 else none)
  else if idx = 0x0E14 then (if 1 ≤ sub ∧ sub ≤ 4 then objRO 1 1 else none)
  else if idx = 0x0E40 then
    match sub with
    | 1 => objRO 4 0
    | 2 => objInt 4 2 2 2 0 0
    | 3 => objBlob 8 32 1 1 1 0 (leBytes 32 0)
    | 4 => objRO 3 0
    | _ => none
  else if idx = 0x0E41 then (if sub = 1 then objInt 1 2 2 2 0 2 0 3 else none)
  else if idx = 0x1010 then (if sub = 1 then objInt 2 2 0 2 1 (tdp p) 1000 (tdp p) true else none)
  else if idx = 0x1030 then
    match sub with
    | 1 => objInt 2 2 0 2 1 4000 250 4000 true
    | 2 => objInt 2 2 0 2 1 16 1 1000 true
    | _ => none
  else if idx = 0x1040 then
    match sub with
    | 1 => objInt 1 2 0 2 1 4 1 255 true
    | 2 => objInt 0 2 0 2 1 1 0 1 true
    | 3 => objInt 2 2 0 2 1 720 0 65535 true
    | 4 => objInt 1 2 0 2 1 10 1 60 true
    | 5 => objInt 1 2 0 2 1 8 1 24 true
    | 6 => objInt 1 2 0 2 1 8 2 11 true
    | 7 => objInt 2 2 0 2 1 500 100 1000 true
    | _ => none
  else if idx = 0x10A0 then
    match sub with
    | 1 => objInt 2 2 0 2 1 200 50 400 true
    | 2 => objInt 1 2 0 2 1 40 10 100 true
    | 3 => objInt 1 2 0 2 1 8 4 16 true
    | 4 => objInt 1 2 0 2 1 50 1 64 true
    | _ => none
  else if idx = 0xF010 then
    match sub with
    | 1 => objInt 1 3 3 3 0 0 1 2
    | 2 => objInt 1 3 3 3 0 0 1 1
    | 3 => objInt 1 2 2 2 0 0 0 7
    | _ => none
  else if idx = 0xF011 then
    match sub with
    | 1 => objInt 1 2 0 2 0 1 0 2
    | 2 => objInt 0 2 0 2 0 0 0 1
    | 3 => objInt 1 2 0 2 0 0 0 7
    | 4 => objInt 1 2 0 2 0 1 0 1
    | _ => none
  else if idx = 0xF012 then
    match sub with
    | 1 | 2 => objRO 1 0
    | 3 => objRO 0 0
    | 4 => objRO 3 0
    | _ => none
  else if idx = 0xF020 then
    match sub with
    | 1 => objInt 1 0 2 2 0 0
    | 2 => objInt 4 0 2 2 0 0
    | 3 => objInt 2 0 2 2 0 0
    | 4 => objBlob 8 1024 0 1 1 0
    | 5 => objInt 1 0 1 1 0 0
    | _ => none
  else none

/-- The row of an object, none for an index or subindex that the manual does not define (R443). -/
def objInfo (p : Part) (idx sub : Nat) : Option ObjInfo :=
  if sub = 0 then none
  else if idx < 0x0200 then objIdentity p idx sub
  else if idx < 0x0300 then objTrust idx sub
  else if idx < 0x0900 then objMachine p idx sub
  else if idx < 0x0D00 then objFabric idx sub
  else objPolicy p idx sub

/-- The highest subindex of an index (R440): subindices are dense from 1. -/
def objMaxSub (p : Part) (idx : Nat) : Nat :=
  ((List.range 0x45).filter (fun s => (objInfo p idx s).isSome)).foldl max 0

/-- R443: the object describes a die, stack or port that the variant does not fit. -/
def objAbsent (p : Part) (idx sub : Nat) : Bool :=
  (0x0110 ≤ idx && idx ≤ 0x0118 && !p.dieFitted (idx - 0x0110))
  || (0x0810 ≤ idx && idx ≤ 0x0813 && 16 * p.positions < sub)
  || (idx == 0x0A31 && 8 * p.shales < sub)
  || ((idx == 0x0E10 || idx == 0x0E11) && 1 ≤ sub && !p.dieFitted (sub - 1))
  || (idx == 0x0E12 && p.stacks < sub)

end Sys2Proof.Machine
end

