-- ==== Sys2Proof/Machine/State.lean ====
section
/-! DEFINITION. The state of the block as plain data, the reasons a step can stop, and the state after reset. -/

namespace Sys2Proof.Machine
open Sys2Proof

/-- A byte-addressed memory with the poison mark of each 64-byte granule (R126, R159, R336). An unlisted byte is 0
(log 9), an unlisted granule is not poisoned. -/
structure Mem where
  bytes  : List Host.Cell := []
  poison : SMap Bool := []
  deriving DecidableEq, Repr

/-- A long accumulator: the 4,352-bit integer and the state beside it (R88, R89). -/
structure LongAcc where
  val     : BitVec 4352 := 0
  nan     : Bool := false
  pinf    : Bool := false
  ninf    : Bool := false
  pzero   : Bool := false
  nzero   : Bool := false
  nonzero : Bool := false
  count   : BitVec 64 := 0
  deriving DecidableEq, Repr

/-- An operand element in the array: a NaR tag, or an exact code with its scale (R71, R78, R82). -/
structure Elem where
  nar : Bool := false
  c   : Int := 0
  e   : Int := 0
  deriving DecidableEq, Repr

/-- The pass instruction (R99), its fields as numbers. `rsvd` is nonzero when any RSVD field is. -/
structure PassInstr where
  mode : Nat := 0
  dir : Bool := false
  wmode : Nat := 0
  init : Nat := 0
  dscr : Bool := false
  dacc : Bool := false
  accset : Nat := 0
  accrow : Nat := 0
  slice : Nat := 0
  ofmt : Nat := 0
  oscale : Int := 0
  m : Nat := 1
  k : Nat := 0
  n : Nat := 1
  wbase : Nat := 0
  wscl : Nat := 0
  xbase : Nat := 0
  xscl : Nat := 0
  bbase : Nat := 0
  obase : Nat := 0
  oscl : Nat := 0
  rsvd : Nat := 0
  deriving DecidableEq, Repr

/-- The weight tag of an array (R114). -/
structure WTag where
  wbase : Nat
  wscl  : Nat
  mode  : Nat
  k     : Nat
  n     : Nat
  digit : Nat
  /-- mode 4: the INX that the rounding of R82 raised for the loaded weights. -/
  inx   : Bool
  deriving DecidableEq, Repr

/-- A started pass (R115, R116, R119, R121). -/
structure Pass where
  seq    : Nat
  ins    : PassInstr
  q      : Nat
  pc     : Nat
  start  : Nat
  /-- it loaded its weights, so its weight range is one of its input ranges (R100). -/
  loadW  : Bool
  flags  : Nat := 0
  /-- rows whose terms have been summed and that have not left the drain: row number, and for each output the sum of
  its aligned terms (none is NaR) with the flags they raised. -/
  rows   : List (Nat × List (Option Int × Nat)) := []
  /-- rows whose initial values the drain has read and that have not left it (R116): row number and the values. -/
  inits  : List (Nat × List (Option Int)) := []
  /-- the status an early-ended pass will report once no stage holds a row of it (R121). -/
  ending : Option Status := none
  /-- the cycle in which it ended early (R122). -/
  endAt  : Nat := 0
  /-- it does not enter its program's fold (R226). -/
  nofold : Bool := false
  deriving DecidableEq, Repr

/-- The previous pass of the array, for R115. -/
structure PrevPass where
  start  : Nat
  c      : Nat
  m      : Nat
  commit : Nat
  dir    : Bool
  k0     : Bool
  deriving DecidableEq, Repr

/-- A pass that is ready and has not started (R114). -/
structure ReadyPass where
  ins   : PassInstr
  q     : Nat
  pc    : Nat
  cycle : Nat
  /-- FRONT: its weights stand in the shadow registers; a poisoned byte was read among them (R126). -/
  poisoned : Bool := false
  /-- mode 4: INX raised for the weights in the shadow registers (R114). -/
  inx   : Bool := false
  deriving DecidableEq, Repr

/-- A register of the vector file: kind and scale (R130); the lanes are held apart. -/
structure VTagR where
  kind  : Nat := 0
  scale : Int := 0
  deriving DecidableEq, Repr

/-- A running kernel (R134-R139). -/
structure Kernel where
  seq    : Nat
  q      : Nat
  tpc    : Nat
  hofs   : Nat
  len    : Nat
  cyclim : Nat
  strict : Bool
  lamask : Nat
  out0b  : Nat
  out0l  : Nat
  out1b  : Nat
  out1l  : Nat
  pc     : Nat := 0
  flags  : Nat := 0
  /-- set when the kernel was ended before commit: the status it reports within 40 cycles (R139, R140). -/
  ending : Option Status := none
  deriving DecidableEq, Repr

/-- One outstanding move of a stream program: what is left to issue as requests (R175, R178). -/
structure Move where
  addr : Nat
  fab  : Bool
  pos  : Nat
  left : Nat
  /-- an element whose index carries poison: no request is issued for it (R177). -/
  skip : Bool := false
  deriving DecidableEq, Repr

/-- The states of a buffer (R168): 0 EMPTY, 1 FILLING, 2 FULL for IN and QIN; 3 RESERVED, 4 WRITTEN, 5 DRAINING for
OUT and QOUT. -/
structure Buf where
  entry   : Nat
  gen     : Nat
  state   : Nat
  /-- buffer sequence index that occupies the ring position now (R168). -/
  idx     : Nat
  /-- bytes arrived (IN, QIN) or acknowledged (OUT, QOUT). -/
  got     : Nat := 0
  /-- bytes issued. -/
  issued  : Nat := 0
  /-- bytes this buffer will hold: BUFSZ, or fewer when it was closed early (R176). -/
  size    : Nat
  poisoned : Bool := false
  /-- the expected check value, once read (R196). -/
  crc     : Option Nat := none
  /-- of its entry in the check-value table: bytes read or written by requests issued, bytes that have been answered, and what
  has been read of it (R196). -/
  crcIss  : Nat := 0
  crcGot  : Nat := 0
  crcAcc  : Nat := 0
  /-- at least one pass has held it (R170). -/
  held    : Bool := false
  deriving DecidableEq, Repr

/-- A loop level that is open (R174). -/
structure Loop where
  level : Nat
  areg  : Nat
  treg  : Nat
  left  : Nat
  body  : Nat
  deriving DecidableEq, Repr

/-- A stream context's stream (R164-R200): header fields, program copy, registers and progress. -/
structure Stream where
  seq     : Nat
  q       : Nat
  tpc     : Nat
  kind    : Nat
  release : Nat
  crc     : Nat
  nbuf    : Nat
  bufsz   : Nat
  base    : Nat
  period  : Nat
  outmax  : Nat
  resv    : Nat
  nblk    : Nat
  crcaddr : Nat
  crcfab  : Bool
  peer    : Word
  prog    : List Word
  pc      : Nat := 0
  areg    : List Nat := [0, 0, 0, 0, 0, 0, 0, 0]
  fab     : List Bool := [false, false, false, false, false, false, false, false]
  treg    : List Int := [0, 0, 0, 0, 0, 0, 0, 0]
  loops   : List Loop := []
  pos     : Nat := 0
  moves   : List Move := []
  bufs    : List Buf := []
  /-- program ended (END executed). -/
  ended   : Bool := false
  /-- elements that the GATHER at the PC has moved (R177). -/
  gk      : Nat := 0
  /-- requests outstanding. -/
  outst   : Nat := 0
  /-- t_ref, and the deadline computed at the latest start, release or WRITTEN event (R180). -/
  tref    : Nat := 0
  dline   : Nat := 0
  bytes   : Nat := 0
  poisoned : Nat := 0
  /-- the first of POISON and TWIN_TAKEOVER that it met, else 0 (R189, R190, R37). -/
  soft    : Status := 0
  /-- status it will report after its last tag has returned (R192). -/
  ending  : Option Status := none
  /-- committed, still holding buffers (R187). -/
  committed : Bool := false
  /-- QOUT: credits held; QIN: credits reserved by the producer. -/
  credits : Nat := 0
  /-- QOUT: the reservation has been granted; QIN: the producer's grant has been given. -/
  granted : Bool := false
  /-- QOUT: the end marker has been sent; QIN: it has arrived. -/
  endmark : Bool := false
  /-- QOUT: cancelled without a limit, it still has its end marker to send (R185, R192). -/
  endOwed : Bool := false
  /-- QOUT: pushes not yet credited. -/
  uncredited : Nat := 0
  /-- QOUT: the reservation request has been sent. -/
  asked   : Bool := false
  /-- QOUT: buffers sent. -/
  sent    : Nat := 0
  /-- time of its latest progress (R194). -/
  last    : Nat := 0
  deriving DecidableEq, Repr

/-- A launch record as fetched (R207). -/
structure LaunchRec where
  format   : Nat := 0
  abort    : Bool := false
  cq       : Nat := 0
  irq      : Bool := false
  waitlim  : Nat := 0
  launchId : Nat := 0
  prog     : Nat := 0
  start    : Nat := 0
  plen     : Nat := 0
  rsvd     : Nat := 0
  user     : List Word := []
  deriving DecidableEq, Repr

/-- A unit of a program (R212): 1 pass, 2 kernel, 3 stream, 4 signal. -/
structure UnitRec where
  kind : Nat
  seq  : Nat
  ctx  : Nat
  pc   : Nat
  /-- ended by a fault's handling or a tile move: it does not enter the fold (R226, R423). -/
  nofold : Bool := false
  deriving DecidableEq, Repr

/-- The first failure of a program (R212, R215). -/
structure Failure where
  code : Status
  kind : Nat
  ctx  : Nat
  pc   : Nat
  seq  : Nat
  /-- of a pass: the array cycle in which it ended (R37, R121). -/
  cycle : Option Nat := none
  deriving DecidableEq, Repr

/-- A fetched launch before its commit point (R207-R226). -/
structure Launch where
  lrec     : LaunchRec
  pos      : Nat
  tStart   : Nat
  pc       : Nat
  fail     : Option Failure := none
  aborted  : Bool := false
  takeover : Bool := false
  flags    : Nat := 0
  units    : Nat := 0
  streams  : Nat := 0
  bytes    : Nat := 0
  poisoned : Nat := 0
  kout     : List Word := [0, 0, 0, 0]
  replays  : Nat := 0
  faults   : Nat := 0
  /-- units issued that have not ended. -/
  live     : List UnitRec := []
  /-- earlier units ended; END has retired. -/
  ended    : Bool := false
  suspended : Bool := false
  held     : Bool := false
  /-- what it was held for last (R226), and whether its tile has moved since (R423). -/
  heldBy   : Option Failure := none
  moved    : Bool := false
  /-- instruction waiting: it has issued once already in this attempt. -/
  waiting  : Bool := false
  /-- the power level of its tile: 0 AWAKE, 1 NAP, 2 SLEEP (R228). -/
  level    : Nat := 1
  deriving DecidableEq, Repr

/-- A completion record on its way (R215-R217): sixteen words with PHASE clear, and whether its first write
(bytes 64-127) has been acknowledged. -/
structure CRec where
  slot  : Nat
  q     : Nat
  irq   : Bool
  words : List Word
  first : Bool := false
  /-- a write of it is stored in a mirrored range and not acknowledged yet (R365). -/
  waits : Bool := false
  /-- it found its queue disabled or full, or a write of it failed: it is held until it is written (R208, R217). -/
  held  : Bool := false
  deriving DecidableEq, Repr

/-- A logical tile: its scratch window, array or vector unit, stream engine and sequencer. -/
structure Tile where
  /-- the scratch window by window offset (R29): operand scratch and accumulator memory, or scratch and kernel memory. -/
  mem      : Mem := {}
  /-- granules marked INVALID (R171). -/
  invalid  : SMap Bool := []
  /-- words of accumulator memory or kernel memory (window offset / 8) that are uncorrectable (R111, R159). -/
  accUe    : SMap Bool := []
  -- M-tile
  cycle    : Nat := 0
  wtag     : Option WTag := none
  /-- weight registers and FRONT shadow registers: key 128 × row + column (R97, R115); and the stored block scales,
  key 16 × column + block. -/
  weights  : SMap Elem := []
  shadow   : SMap Elem := []
  wscales  : SMap Nat := []
  sscales  : SMap Nat := []
  /-- the modes of the weights held and of those in the shadow registers (R97, R293). -/
  wmode    : Nat := 0
  smode    : Nat := 0
  /-- the weights, block scales and mode of a FRONT pass that started in this cycle: they follow the last vector of the
  pass before it, so the array holds them from the next cycle on (R115). -/
  front    : Option (SMap Elem × SMap Nat × Nat) := none
  passes   : List Pass := []
  ready    : Option ReadyPass := none
  prev     : Option PrevPass := none
  /-- held MT_ACCSET writes (R110): set, word, and the request to acknowledge. -/
  heldAcc  : List (Nat × Word × Option Packet) := []
  /-- outcomes of the most recent 256 sequence numbers: number and status (R120, R218). -/
  outcomes : List (Nat × Status) := []
  -- V-tile
  vlanes   : SMap (BitVec 64) := []
  vtags    : SMap VTagR := []
  /-- some when the lanes not written since were lost with the compute domain (R495): their value is free (log 10). -/
  vlost    : Option Nat := none
  sregs    : SMap (BitVec 64) := []
  masks    : SMap (BitVec 128) := []
  la       : SMap LongAcc := []
  kernel   : Option Kernel := none
  /-- kernel-memory writes held while a kernel runs (R133). -/
  heldKm   : List Packet := []
  -- stream engine
  streams  : SMap (Option Stream) := []
  /-- generation of each of the 256 buffer entries (R192). -/
  entryGen : SMap Nat := []
  /-- entries in use (R166). -/
  entryUse : SMap Bool := []
  streamSeq : Nat := 0
  /-- a reservation request that a context holds (R184). -/
  heldResv : SMap (Option Packet) := []
  /-- contexts that have had a stream, started or refused, since reset (R191). -/
  ctxUsed  : SMap Bool := []
  -- sequencer
  run      : SMap (Option Launch) := []
  /-- a launch has ended at SLEEP, and none has been fetched since (R228, R496). -/
  sleepEnd : Bool := false
  preempted : Bool := false
  computeOn : Bool := false
  deriving DecidableEq, Repr

/-- A physical tile (R20, R421-R424, R439): 0 active, 1 spare, 2 failed, 3 moving. -/
structure PhysTile where
  status  : Nat := 0
  logical : Nat := 255
  faults  : Nat := 0
  hours   : Nat := 0
  deriving DecidableEq, Repr

/-- What a request of a stream engine is for: its context and the sequence number of its stream, the buffer entry with the
generation it was issued for (R192), ring position, buffer sequence index and offset, its length, and its queue (R179). Entry 256,
which is none, stands for a request that no buffer is named in. -/
structure StreamUse where
  t     : TileId
  c     : Nat
  seq   : Nat
  entry : Nat := 256
  egen  : Nat := 0
  ring  : Nat := 0
  idx   : Nat := 0
  off   : Nat := 0
  len   : Nat := 0
  write : Bool := false
  table : Bool := false
  queue : Nat := 0
  deriving DecidableEq, Repr

/-- What a request tag is held for. -/
inductive TagUse where
  | stream (u : StreamUse)
  | endpoint (r : RegionId)
  | qc (d : Fin 4) (q : Fin 512)
  | signal (t : TileId) (q : Nat) (pc : Nat)
  | pcie
  /-- a piece of a mailbox message (R462). -/
  | mailbox (c : Fin 2)
  | other
  deriving DecidableEq, Repr

/-- One initiator tag (R300, R311, R312). -/
structure TagRec where
  gen : BitVec 16 := 0
  use : Option TagUse := none
  deriving DecidableEq, Repr

/-- A queue controller (R254-R264): the entries it holds, oldest first, and its network connection. -/
structure QCtl where
  entries : List (BitVec 72) := []
  wp      : BitVec 13 := 0
  rp      : BitVec 13 := 0
  /-- the pointers in Gray code as registered in their own clock domains, and the synchroniser flip-flops through which they
  cross, first stage first (R255). -/
  wGray   : BitVec 13 := 0
  rGray   : BitVec 13 := 0
  wSync   : List (BitVec 13) := [0, 0, 0]
  rSync   : List (BitVec 13) := [0, 0, 0]
  /-- QIRQ (R259). -/
  qirq    : Bool := false
  /-- entries of the queue memory that are uncorrectable, by entry address (R254, R272). -/
  ue      : SMap Bool := []
  /-- FROMFAB: the reservation request has been sent (R262). -/
  asked   : Bool := false
  pending : Nat := 0
  peer    : Option Word := none
  credits : Nat := 0
  /-- entries read since the last credit was returned (R261). -/
  readCnt : Nat := 0
  uncredited : Nat := 0
  granted : Bool := false
  /-- FROMFAB: the end marker has been sent; nothing further until EN is cleared and set again (R262). -/
  done    : Bool := false
  /-- bytes of the current check-value buffer (R263). -/
  bufBytes : List Byte := []
  /-- TOFAB with CRC: entries received whose buffer has not been checked yet (R263). -/
  hidden  : List (BitVec 72) := []
  /-- TOFAB: whose pushes the entries belong to, oldest first, with their counts (R261). -/
  owed    : List (Word × Nat) := []
  /-- TOFAB: a reservation request that is held (R184). -/
  heldResv : Option Packet := none
  deriving DecidableEq, Repr

/-- The bitstream header (R276). -/
structure BitHeader where
  frames : Nat
  crc    : Nat
  digest : List Byte
  deriving DecidableEq, Repr

/-- A logic region (R232, R273-R287). -/
structure Region where
  /-- configuration memory: byte of frame payload f at 1,024 f + offset (R277, R285). -/
  cfg      : SMap Byte := []
  /-- user flip-flops that differ from their configured initial value: key 512 × cluster + 2 × cell (+ 1 for QB) (R235, R285). -/
  ffs      : SMap Bool := []
  /-- trunk flip-flops: those of the out-ports at 0-255, of the in-ports at 256-511 (R242). -/
  trunkFf  : SMap Bool := []
  /-- when each of them changed last: keys of `ffs`, then 102,400 + the key of `trunkFf` (R240, R241). -/
  movedAt  : SMap Nat := []
  /-- rising edges of its tree until each reset net deasserts, 0 when it is not asserted (R248). -/
  rstLeft  : SMap Nat := []
  /-- rising edges of each tree until the clock enables of its flip-flops are released (R282). -/
  ceLeft   : SMap Nat := []
  /-- block memories: key 8,192 × memory + lane (R249). -/
  bram     : SMap (BitVec 9) := []
  /-- data outputs and ERR of the block-memory ports: key 2 × memory + port (R251, R253). -/
  dout     : SMap (BitVec 72) := []
  derr     : SMap Bool := []
  /-- data and ERR that the output register of a port shows after its next edge (R250), and 1 + 2 × tree (+ 1 with the output
  register) of the port's latest access: the same keys. -/
  dlat     : SMap (Option (BitVec 72 × Bool)) := []
  dclk     : SMap Nat := []
  /-- physical words that are uncorrectable: key 1,024 × memory + word (R253). -/
  bramUe   : SMap Bool := []
  /-- the two staging registers of the direct lane (R265). -/
  stage1   : BitVec 72 := 0
  stage2   : BitVec 72 := 0
  /-- trees stopped for overspeed until EN is cleared (R247). -/
  stopped  : SMap Bool := []
  /-- bytes of the load stream not yet taken (R280). -/
  load     : List Byte := []
  header   : Option BitHeader := none
  /-- linear numbers of the frames seen (R280). -/
  seen     : List Nat := []
  /-- the frames taken, whole, in stream order (R276: DIGEST). -/
  frames   : List Byte := []
  /-- bytes a FETCH has still to deliver. -/
  fetching : Nat := 0
  /-- the command that holds BUSY: 0 none, else the CMD code. -/
  busy     : Nat := 0
  /-- spare clusters used up: the logical cluster that each serves, 255 for a retired one (R426). -/
  spares   : List Nat := []
  /-- the trees are stopped while a cluster is being spared (R426). -/
  paused   : Bool := false
  /-- hard faults recorded at configuration words (R286). -/
  hardWords : List Nat := []
  deriving DecidableEq, Repr

/-- The registers of a user pin (R267, R268): D0, D1 and the enable as the output registers hold them, the level presented,
what the input register captured at its latest rising and falling edges, and Q0 and Q1. -/
structure IoPin where
  d0   : Bool := false
  d1   : Bool := false
  oe   : Bool := false
  out  : Bool := false
  rise : Bool := false
  fall : Bool := false
  q0   : Bool := false
  q1   : Bool := false
  deriving DecidableEq, Repr

/-- A check-value unit (R415-R420). -/
structure CvUnit where
  /-- running register or sum of the block in progress. -/
  acc     : BitVec 64 := 0
  started : Bool := false
  /-- values of closed blocks not yet shown (R417: third edge). -/
  closing : List (BitVec 64) := []
  /-- values shown and not yet compared (R418: fourth edge). -/
  toCompare : List (BitVec 64) := []
  /-- the outputs that pulse until the next edge: DONE 1, MATCH 2, MISMATCH 4 (R417, R418). -/
  pulse   : Nat := 0
  /-- blocks closed since EN was set. -/
  closed  : Nat := 0
  /-- S0: next address of the run in progress, and its end. -/
  runAddr : Nat := 0
  runEnd  : Nat := 0
  deriving DecidableEq, Repr

/-- A descriptor of a command ring that has completed: its ring, its address, IRQ, STATUS and RESULT (R353). -/
structure RingJob where
  r      : Nat
  entry  : Nat
  irq    : Bool
  status : Nat
  result : Nat
  deriving DecidableEq, Repr

/-- What an acknowledgement that waits for MIRROR_ACK is for (R365): a request, one of the two writes of the oldest record of a
completion queue, the ABORT bit of a record (with the position that the reply names), or a write of a command ring: 0 FREAD data, 1 RESULT,
2 DONE; or a lease record, after which the device is granted the epoch (R369). -/
inductive AckFor where
  | packet (p : Packet)
  | record (d : Fin 4) (q : Nat) (head : Bool)
  | abortBit (t : TileId) (pos : Nat)
  | ring (j : RingJob) (stage : Nat)
  | lease (dev : BitVec 20) (epoch : BitVec 32)
  deriving DecidableEq, Repr

/-- A request in a memory port or controller queue, with the time its port accepted it (R323). -/
structure HReq where
  p  : Packet
  ts : Nat
  deriving DecidableEq, Repr

/-- A pseudo-channel's controller (R323-R337). -/
structure PcState where
  queue    : List HReq := []
  /-- refreshes made, per bank; the time from which the refresh rate in force counts, and what was due by bank until then
  (R332). -/
  refreshed : SMap Nat := []
  rateFrom : Nat := 0
  carried  : SMap Nat := []
  /-- rolling activation counts, per bank (R333). -/
  acts     : SMap Nat := []
  /-- open row of each bank. -/
  openRow  : SMap Nat := []
  /-- bank held by a repair. -/
  holdBank : Option Nat := none
  checked  : Bool := false
  /-- the time of its latest check window (R330). -/
  checkAt  : Option Nat := none
  applied  : Bool := false
  scrubPos : Nat := 0
  deriving DecidableEq, Repr

/-- A peer context (R357, R361). -/
structure PeerCtx where
  peer    : BitVec 20
  idx     : Nat
  nextSeq : BitVec 32 := 0
  deriving DecidableEq, Repr

/-- Who a remote request answers to. -/
inductive FabOrigin where
  | packet (p : Packet)
  /-- a descriptor at an address, with its local buffer for FREAD data. -/
  | ring (r : Nat) (entry : Nat) (irq : Bool) (laddr : Nat)
  | copy (id : Nat)
  deriving DecidableEq, Repr

/-- An outstanding remote request of this device (R357-R361, R396). -/
structure FabReq where
  id     : Nat
  origin : FabOrigin
  pkt    : Packet
  dev    : BitVec 20
  /-- it has a peer context and has been sent at least once. -/
  sent   : Bool := false
  /-- the time, on S0, from which FTIMEOUT counts: its first send or the last ADMIT_WAIT acted on (R359). -/
  since  : Nat := 0
  deriving DecidableEq, Repr

/-- A copy in execution at the source's home (R351). -/
structure Copy where
  id   : Nat
  key  : DedupKey
  req  : Packet
  src  : Nat
  dst  : Nat
  len  : Nat
  /-- bytes issued, bytes acknowledged, the lowest failure met. -/
  done : Nat
  acked : Nat
  err  : Status := 0
  deriving DecidableEq, Repr

/-- Descriptors of a command ring in progress (R353): how many are outstanding, and a fence that waits. -/
structure Ring where
  outst : Nat := 0
  deriving DecidableEq, Repr

/-- The fabric memory space of the device (R342-R366, R396). -/
structure Fabric where
  ctxs    : List PeerCtx := []
  outst   : List FabReq := []
  recs    : List DedupRec := []
  incs    : SMap (BitVec 32) := []
  /-- requests held for want of a record (R358), in arrival order. -/
  heldReq : List Packet := []
  copies  : List Copy := []
  rings   : SMap Ring := []
  nextId  : Nat := 0
  /-- the device number in force (R345); none before the boot takes it from 0x0A01.01. -/
  dev     : Option (BitVec 20) := none
  deriving DecidableEq, Repr

/-- The twin protocol (R362-R378). -/
structure Twin where
  /-- the partner has been declared failed: 1 heartbeat loss, 2 FAIL_NOTICE; 0 not. -/
  declared  : Nat := 0
  leaseSent : Bool := false
  /-- writes applied here and sent to the twin that wait for MIRROR_ACK (R365), oldest first, and what their acknowledgement is
  for. -/
  waitAck   : List (Packet × AckFor) := []
  /-- mirror changes in the order in which they reached the even twin (R364). -/
  changes   : List MirrorChange := []
  /-- a change written here has no RESULT yet (R364). -/
  changeOpen : Bool := false
  yielding  : Bool := false
  /-- while COVERING a returning twin: the address from which chunks are still to be copied (R375). -/
  syncPos   : Option Nat := none
  /-- the time on S0 at which the copy began, that an epoch has been asked of the witness, and the epoch granted (R376). -/
  syncAt    : Nat := 0
  cutover   : Bool := false
  cutEpoch  : Option Nat := none
  /-- this device's single ranges are lost until RESTORE (R372, R377). -/
  lost      : Bool := false
  /-- lease records held as a witness, by pair number: the epoch granted, and to which device (R369). -/
  leases    : SMap (Nat × Nat) := []
  /-- requests held in PAIRED while neither path is up, or during takeover (R370, R371). -/
  held      : List Packet := []
  /-- what the partner told when the twin link became active. -/
  partner : Option TwinInfo := none
  /-- the time on S0 of the last heartbeat on the direct path, and through the witness (R368). -/
  hbAt    : List Nat := [0, 0]
  /-- chunks copied of each SYNCING entry (R363). -/
  entrySync : SMap Nat := []
  deriving DecidableEq, Repr

/-- A fabric port (R386-R397). -/
structure Port where
  partner : Option CapRecord := none
  txSeq   : BitVec 12 := 0
  rxNext  : BitVec 12 := 0
  /-- flits sent and not acknowledged (R392), oldest first. -/
  replay  : List LinkFlit := []
  replays : Nat := 0
  /-- slots sent, by 2 × VC + CLASS, and the partner's limits (R391). -/
  sent    : List (BitVec 16) := [0, 0, 0, 0, 0, 0, 0, 0]
  limit   : List (BitVec 16) := [0, 0, 0, 0, 0, 0, 0, 0]
  /-- slots received and freed. -/
  freed   : List (BitVec 16) := [0, 0, 0, 0, 0, 0, 0, 0]
  /-- uncorrectable codewords in a row; symbol errors of each logical lane in the present 1 ms window (R397). -/
  uncorr  : Nat := 0
  window  : List Nat := [0, 0, 0, 0]
  /-- a NAK has been sent for a gap, and the flit that it asks for has not come (R392). -/
  nakked  : Bool := false
  /-- the logical lane being spared, and whether the retrain uses the spare. -/
  sparing : Option Nat := none
  readyLate : Bool := false
  amberSeen : Bool := false
  deriving DecidableEq, Repr

/-- A message sent on a fabric port outside the packet stream: freeze, notices, heartbeats, leases, twin copies. -/
inductive LinkMsg where
  | amber (port : PortId) (pair : Bool) (hops : Nat)
  | heartbeat (direct : Bool)
  | failNotice
  | lease (epoch : BitVec 32)
  | leaseAnswer (dev : BitVec 20) (granted : Bool) (epoch : BitVec 32)
  /-- a chunk with the granules of it that are poisoned. -/
  | sync (addr : Nat) (data : List Byte) (poison : List Nat)
  | cutover (epoch : BitVec 32)
  | mirror (p : Packet) (rec : Option DedupRec) (lease : Option (BitVec 20 × BitVec 32) := none)
  | mirrorChange (c : MirrorChange)
  /-- a codeword of four flits, and a lane marker (R386, R390). -/
  | codeword (port : PortId) (symbols : List (BitVec 10))
  | marker (port : PortId) (bits : BitVec 40)
  | forward (port : PortId) (dst : BitVec 20) (age : Nat) (longway : Bool) (cls : Bool) (p : Packet)
  | fabric (dst : BitVec 20) (p : Packet)
  /-- the responses 0xD2 and 0xD3 (R347). -/
  | syncAnswer (addr : Nat)
  | cutoverAnswer
  /-- a device's part, state, epoch and mirror table for its twin (R374). -/
  | twinInfo (i : TwinInfo)
  /-- the twin is asked for its firmware slot (R480). -/
  | fetchAsk
  deriving DecidableEq, Repr

/-- An entry of the event log (R434). -/
structure LogEntry where
  code   : Nat
  die    : Nat
  unit   : Nat
  sev    : Nat
  count  : Nat
  time   : Nat
  detail : Nat
  lsn    : Nat
  deriving DecidableEq, Repr

/-- A request in reassembly (R460): its message type, counter and fragment count, and the payloads by index. -/
structure FragSet where
  mtype : Nat
  ctr   : Nat
  count : Nat
  parts : SMap (List Byte) := []
  deriving DecidableEq, Repr

/-- A Thauno session (R459-R461). `opened` is false until PROVE has been verified. -/
structure Session where
  id      : Nat
  level   : Nat
  opened  : Bool
  key     : List Byte
  transcript : List Byte
  addr    : BitVec 128
  port    : BitVec 16
  rx      : Nat := 0
  tx      : Nat := 0
  lastResp : List (List Byte) := []
  frags   : Option FragSet := none
  feed    : Bool := false
  /-- next LSN to send; the newest LSN and the fragment of the EVENT that is not acknowledged, with its resends. -/
  feedNext : Nat := 0
  unacked : Option (Nat × List Byte) := none
  resends : Nat := 0
  deriving DecidableEq, Repr

/-- A mailbox exchange in progress (R462, R463): its buffer, the bytes of the request, those sent and those that S0 has received,
whether any came poisoned, and the response that waits for the buffer with its status. -/
structure MbMsg where
  addr  : Nat
  len   : Nat := 0
  sent  : Nat := 0
  got   : List Byte := []
  bad   : Bool := false
  reply : Option (List Byte × Nat) := none
  deriving DecidableEq, Repr

/-- A request that waits for the dictionary controller (R449): how it came, READ 1, WRITE 2 or DESCRIBE 3, its sender outside
a session, and its entries (with the values of a WRITE). -/
structure MgmtReq where
  via   : DictVia
  mtype : Nat
  addr  : BitVec 128 := 0
  port  : BitVec 16 := 0
  es    : List (DictRef × List Byte) := []
  deriving DecidableEq, Repr

/-- A datagram or response that the device has sent on the segment or written to a mailbox buffer. -/
structure Datagram where
  addr : BitVec 128
  port : BitVec 16
  data : List Byte
  deriving DecidableEq, Repr

/-- A firmware or host image slot of the flash (R471, R481). -/
structure ImageSlot where
  manifest : List Byte := []
  image    : List Byte := []
  deriving DecidableEq, Repr

/-- The dictionary controller, sessions and image slots (R440-R464, R471-R488). -/
structure Mgmt where
  /-- objects whose value is held as bytes; an unlisted object has its default (log 12). -/
  objs     : SMap (List Byte) := []
  sessions : List Session := []
  nextSess : Nat := 1
  /-- a flash write is in progress: requests wait (R451). -/
  flashBusy : Bool := false
  /-- the slots once written; none while they hold what was programmed before delivery (log 29). -/
  fw       : Option ImageSlot := none
  host     : Option ImageSlot := none
  /-- the manifest of the running image (R476, R481). -/
  running  : List Byte := []
  /-- policy objects written and not yet applied (R455). -/
  unapplied : List DictRef := []
  /-- region operation of 0x0C20 in progress (R454): the operation and how many of its commands have been issued. -/
  regionOp : Option (Nat × Nat) := none
  /-- requests queued for the controller, oldest first (R449, R462). -/
  queue    : List MgmtReq := []
  /-- the response that waits for a flash write, with its request (R451). -/
  heldReply : Option (MgmtReq × List Byte) := none
  /-- messages outside a session in reassembly, by sender (R459, R460). -/
  frags0   : List (BitVec 128 × BitVec 16 × FragSet) := []
  /-- failed recovery fetches, and whether the next waits for its second (R480). -/
  fetchTries : Nat := 0
  retryWait : Bool := false
  /-- a fetch from the twin is under way (R480). -/
  fetching  : Bool := false
  /-- mailbox exchanges in progress, by channel (R462). -/
  mbox     : SMap MbMsg := []
  /-- an Owner key has been written: the requests still to complete before the Owner's sessions and objects go (R446). -/
  ownerEnds : Option Nat := none
  /-- the segment link is up (R448, R476). -/
  segUp    : Bool := false
  deriving DecidableEq, Repr

/-- The control pins (R502). -/
structure Pins where
  stbyGood : Bool := true
  pwrGood  : Bool := true
  rstN     : Bool := true
  amberN   : Bool := true
  gmode    : Bool := false
  devReady : Bool := false
  thermN   : Bool := true
  /-- THERM_N is held low until PWR_GOOD falls (R499). -/
  thermHold : Bool := false
  /-- reference input in use (R501). -/
  refSel   : Nat := 0
  deriving DecidableEq, Repr

/-- The HBM of the package (R317-R340). -/
structure Hbm where
  mem     : Mem := {}
  /-- bursts written since power-up (R328): an unwritten burst reads as uncorrectable. -/
  written : SMap Bool := []
  /-- bursts whose stored symbols are in error and have not been read since (R334, R335): key place / 32. -/
  weak    : SMap Ecc := []
  /-- channels zeroed since power-up: key 64 × die + local channel. -/
  zeroed  : SMap Bool := []
  /-- admission queues of the memory ports: key 32 × die + port (R323). -/
  ports   : SMap (List HReq) := []
  /-- pseudo-channel controllers: key 128 × die + 2 × channel + pc. -/
  pcs     : SMap PcState := []
  /-- lane delays, shadow and active: key as HBM_DLYSEL's fields spell it (R329). -/
  shadow  : SMap Nat := []
  active  : SMap Nat := []
  /-- rows repaired softly since the stacks were powered, the repairs that firmware has recorded, and those that it has
  programmed as hard repairs (R338, R339): key as HBM_REPAIR's fields spell it. -/
  repaired : SMap Bool := []
  recorded : SMap Bool := []
  hard     : SMap Bool := []
  /-- HBM_CHECK and HBM_REPAIR of a die as they stood when the check or repair that runs was started (R330, R338). -/
  checking : SMap Word := []
  repairing : SMap Word := []
  /-- times of the corrections in each row in the last 24 hours, and the rows that wait for a soft repair, oldest first (R428): keys as
  of `repaired`. -/
  rowCe    : SMap (List Nat) := []
  due      : List Nat := []
  deriving DecidableEq, Repr

/-- Where a packet on its way stands (R296, R299, R303, R305): in an input buffer of a router; on the link into that buffer,
held in the sender's replay buffer; or on module m of the UCIe link behind bridge 142 + b of a die. Input ports: 0 X+, 1 X−, 2 Y+, 3 Y−, 4 and 5 local, 6 express. -/
inductive Place where
  | buffer (die router port : Nat)
  | link (die router port : Nat)
  | bridge (die b m : Nat)
  deriving DecidableEq, Repr

/-- A packet that has left its source for a router. -/
structure Flight where
  p     : Packet
  place : Place
  deriving DecidableEq, Repr

/-- The on-package network beside its registers (R296-R313). -/
structure Noc where
  /-- packets inside the network, in the order in which they came to their places. -/
  flights : List Flight := []
  /-- grants that each virtual channel of an output port has waited for with a flit ready (R303): key
  ((128 × die + router) × 8 + port) × 4 + VC. -/
  waits  : SMap Nat := []
  /-- 1 + the input port served last for a virtual channel of an output port (R303). -/
  served : SMap Nat := []
  /-- UCIe links whose bridges withhold credits until what was sent before a module left is delivered or lost (R299). -/
  bridgeHold : SMap Bool := []
  /-- endpoints whose fence is an ABANDON (R313): key 256 × die + endpoint. -/
  abandoned : SMap Bool := []
  /-- route tables: active and shadow entries that differ from reset (R307); value 8 + port code, 0 as at reset. -/
  active : SMap Nat := []
  shadow : SMap Nat := []
  /-- failures of the flit at the head of a link, in a row (R306): key 512 × die + link. -/
  fails  : SMap Nat := []
  /-- routers stopped (R408): key 128 × die + router. -/
  stopped : SMap Bool := []
  /-- UCIe modules out of service (R299), one key for both ends of a link: (16 × die + bridge) × 4 + module. -/
  ucieOut : SMap Bool := []
  /-- lanes repaired of a module (R299). -/
  ucieRepaired : SMap Nat := []
  /-- initiator tags: key 1,024 × node + tag (R300, R311). -/
  tags   : SMap TagRec := []
  deriving DecidableEq, Repr

/-- What the PCIe port has sent: a completion with a device status and data, an Unsupported Request, or a message-signalled
interrupt (R469, R470). -/
inductive PcieMsg where
  | completion (status : Status) (data : List Byte)
  | unsupported
  | msi (addr : Nat) (data : List Byte)
  deriving DecidableEq, Repr

/-- The state of the block. -/
structure State where
  part    : Part := .m8x2
  csr     : SMap Word := []
  tiles   : SMap Tile := []
  phys    : SMap PhysTile := []
  cqs     : SMap (List CRec) := []
  qcs     : SMap QCtl := []
  regions : SMap Region := []
  cvs     : SMap CvUnit := []
  /-- delay taps in force at each user pin: key 64 × die + 2 × pin (+ 1 for output) (R269). -/
  taps    : SMap Nat := []
  /-- the registers of the user pins: key 32 × die + pin (R267, R268). -/
  iopins  : SMap IoPin := []
  /-- the supply of each bank as measured last, by die: true 1.8 V (R266). -/
  supply  : SMap (Option Bool) := []
  noc     : Noc := {}
  hbm     : Hbm := {}
  fabric  : Fabric := {}
  twin    : Twin := {}
  ports   : SMap Port := []
  /-- RL_TMOVE and RL_CSPARE of a die as they stood when the move or sparing that runs was started (R422, R426). -/
  moving  : SMap Word := []
  sparing : SMap Word := []
  log     : List LogEntry := []
  mgmt    : Mgmt := {}
  pins    : Pins := {}
  /-- completed boot steps (R476). -/
  bootStep : Nat := 0
  /-- the device has failed under R410. -/
  failed  : Bool := false
  /-- the nine die timestamp counters (R14), by die number. -/
  ts      : SMap (BitVec 64) := []
  /-- the time on S0 from which the watchdog counts (R411). -/
  beat    : Nat := 0
  /-- interrupt files of the host harts (R467): key 2,048 × hart + identity. -/
  imsic   : SMap Bool := []
  /-- the MSI-X table in BAR2 (R469), by byte offset. -/
  bar2    : SMap Byte := []
  /-- dies that have reached 105 degrees and have not been below 100 since (R499). -/
  hot     : SMap Bool := []
  /-- by Basalt die: the time of the last change of the stretch level and of the last trip sample (R497). -/
  levelAt : SMap Nat := []
  tripAt  : SMap Nat := []
  out     : List Packet := []
  linkOut : List LinkMsg := []
  dgrams  : List Datagram := []
  pcieOut : List PcieMsg := []
  /-- the model's own counter, from which free values are drawn (log 10). -/
  freeCtr : Nat := 0
  pending : List Instr := []
  deriving DecidableEq, Repr

/-- Why a step stops with a fault. The device reports every failure as a status, an event or a device failure (R26,
R36, R410), all of them next states: no step of the model faults, so there is no reason to name. -/
inductive Fault where
  deriving DecidableEq, Repr

/-- Why a command has no meaning. -/
inductive Refusal where
  /-- Raised by a dispatch arm of a command that has no meaning yet; safe: nothing is claimed of it. -/
  | notModelled (mnemonic : String)
  deriving DecidableEq, Repr

/-- The device right after the power-good edge of its first power-up: every register at its reset value, nothing
stored, queues empty, boot step 1 running (log 5, log 6, log 7, log 9). -/
def State.reset : State := {}

end Sys2Proof.Machine
end

