-- ==== Sys2Proof/Machine/Ops.lean ====
section
/-! DEFINITION. The named operations over registers, tiles, objects, the event log, packets and the address map that
every meaning uses. -/

namespace Sys2Proof.Machine
open Sys2Proof

/-- The outcome of a command. -/
abbrev Out := Host.Outcome State Fault Refusal

/-! ### Status codes (R36, R128, R163, R202, R231, R295, R316, R382, R407, R464, R489) -/
abbrev stOk : Nat := 0x00
abbrev stAborted : Nat := 0x01
abbrev stAlready : Nat := 0x02
abbrev stInvalidDest : Nat := 0x03
abbrev stTileFault : Nat := 0x04
abbrev stPassRefused : Nat := 0x05
abbrev stKernelRefused : Nat := 0x06
abbrev stKernelFault : Nat := 0x07
abbrev stKernelLimit : Nat := 0x08
abbrev stStreamRefused : Nat := 0x09
abbrev stPeerMismatch : Nat := 0x0A
abbrev stProgramFault : Nat := 0x0B
abbrev stWaitLimit : Nat := 0x0C
abbrev stNocTimeout : Nat := 0x10
abbrev stNocFenced : Nat := 0x11
abbrev stNocUnmapped : Nat := 0x12
abbrev stNocDenied : Nat := 0x13
abbrev stNocRouteFail : Nat := 0x14
abbrev stNocSize : Nat := 0x15
abbrev stPoison : Nat := 0x20
abbrev stStall : Nat := 0x21
abbrev stCheckMismatch : Nat := 0x22
abbrev stFabricTimeout : Nat := 0x30
abbrev stTwinTakeover : Nat := 0x31
abbrev stHomeLost : Nat := 0x32
abbrev stMirrorState : Nat := 0x33
abbrev stFabricRefused : Nat := 0x34
abbrev stCapMismatch : Nat := 0x35
abbrev stAdmitWait : Nat := 0x36
abbrev stCfgSelect : Nat := 0x40
abbrev stCfgCrc : Nat := 0x41
abbrev stCfgState : Nat := 0x42
abbrev stCfgFrame : Nat := 0x43
abbrev stAuthFail : Nat := 0x50
abbrev stAuthRollback : Nat := 0x51
abbrev stAuthRevoked : Nat := 0x52
abbrev stImageFormat : Nat := 0x53
abbrev stBooting : Nat := 0x60
abbrev stDictNoObject : Nat := 0x61
abbrev stDictAccess : Nat := 0x62
abbrev stDictType : Nat := 0x63
abbrev stDictRange : Nat := 0x64
abbrev stDictSession : Nat := 0x65
abbrev stDictBusy : Nat := 0x66
abbrev stDictAbsent : Nat := 0x67
abbrev stHbmUntrained : Nat := 0x68

/-! ### Registers -/

/-- The word of the register at a device-local address. -/
def rd (s : State) (a : Nat) : Word := mget (resetOf s.part a) s.csr a
/-- Store a whole register word. -/
def wr (s : State) (a : Nat) (v : Word) : State := { s with csr := mset (resetOf s.part a) s.csr a v }
/-- A field of a register. -/
def fld (s : State) (a hi lo : Nat) : Nat := bits (rd s a) hi lo
/-- One bit of a register. -/
def flag (s : State) (a i : Nat) : Bool := bit (rd s a) i
/-- Set a field of a register. -/
def setFld (s : State) (a hi lo v : Nat) : State := wr s a (setBits (rd s a) hi lo v)
/-- Set one bit of a register. -/
def setFlag (s : State) (a i : Nat) (b : Bool) : State := wr s a (setBit (rd s a) i b)
/-- Advance a wrapping counter field. -/
def incFld (s : State) (a hi lo : Nat) : State := setFld s a hi lo (fld s a hi lo + 1)
/-- Advance a saturating counter field. -/
def satFld (s : State) (a hi lo : Nat) : State :=
  setFld s a hi lo (if fld s a hi lo + 1 = 2 ^ (hi + 1 - lo) then fld s a hi lo else fld s a hi lo + 1)

/-- R12: what a register holds after a write of `v`, by its access codes; `locked` is the block's LOCK bit. WO bits
hold nothing. -/
def maskWrite (i : RegInfo) (locked : Bool) (old v : Word) : Word :=
  let rw : Word := BitVec.ofNat 64 (i.rw ||| (if locked then 0 else i.rwl))
  let w1c : Word := BitVec.ofNat 64 i.w1c
  let w1s : Word := BitVec.ofNat 64 i.w1s
  (old &&& ~~~(rw ||| w1c)) ||| (v &&& rw) ||| (old &&& w1c &&& ~~~v) ||| (v &&& w1s)

/-- A plain register write: the access codes and nothing else. -/
def plainWrite (s : State) (n : RegName) (a : Nat) (v : Word) : State := wr s a (maskWrite (regInfo n) false (rd s a) v)

/-! ### Dictionary objects -/

/-- The bytes an object holds: what was stored, else its default. -/
def objGet (s : State) (idx sub : Nat) : List Byte :=
  (mfind s.mgmt.objs (idx * 256 + sub)).getD (((objInfo s.part idx sub).map (·.dflt)).getD [])
/-- An integer object's value. -/
def objN (s : State) (idx sub : Nat) : Nat := leNat (objGet s idx sub)
/-- Store an object's bytes; storing the default removes the entry. -/
def objSet (s : State) (idx sub : Nat) (b : List Byte) : State :=
  let d := ((objInfo s.part idx sub).map (·.dflt)).getD []
  { s with mgmt := { s.mgmt with objs := mset d s.mgmt.objs (idx * 256 + sub) b } }
/-- Store an integer object. -/
def objSetN (s : State) (idx sub v : Nat) : State :=
  objSet s idx sub (leBytes (tyBytes (((objInfo s.part idx sub).map (·.ty)).getD 1)) v)

/-- AMBER_STATE (R290, R292, R294): 0 RUNNING, 1 STOPPING, 2 FROZEN, 3 THAWING. -/
def amberState (s : State) : Nat := objN s 0xF012 1
/-- The dies are powered and their clocks run: PWR_GOOD is high and no freeze holds them (R290, R491). -/
def running (s : State) : Bool := s.pins.pwrGood && s.pins.rstN && amberState s == 0
/-- STAGE of GR_BOOT is READY: Fabric Ready has been reached (R476, R478). -/
def fabricReadyNow (s : State) : Bool := fld s (grAt 0) 63 60 == 3

/-- A command to clocked parts: nothing happens while they are stopped (R290: every clock stops; log 2). -/
def whenRunning (s : State) (f : State → State) : Out := .next (if running s then f s else s)
/-- A command that takes effect only when its condition holds; else the state is unchanged (log 2). -/
def whenIf (c : Bool) (s : State) (f : State → State) : State := if c then f s else s

/-! ### Tiles -/

def tileKey (t : TileId) : Nat := t.die.val * 128 + t.slot.val
/-- The tile is a V-tile (R29). -/
def isV (t : TileId) : Bool := 64 ≤ t.slot.val
/-- The logical index within its kind. -/
def tileIdx (t : TileId) : Nat := if isV t then t.slot.val - 64 else t.slot.val
def getTile (s : State) (t : TileId) : Tile := mget {} s.tiles (tileKey t)
def setTile (s : State) (t : TileId) (x : Tile) : State := { s with tiles := mset {} s.tiles (tileKey t) x }
def modTile (s : State) (t : TileId) (f : Tile → Tile) : State := setTile s t (f (getTile s t))

/-- The control block of a tile: MT_STATE or VT_STATE (R112, R162). -/
def stAt (t : TileId) : Nat := if isV t then vtAt t.die (tileIdx t) 0 else mtAt t.die (tileIdx t) 0
/-- MT_SEQ or VT_SEQ. -/
def seqAt (t : TileId) : Nat := stAt t + 8
/-- MT_COUNT or VT_COUNT. -/
def cntAt (t : TileId) : Nat := stAt t + 16
/-- MT_ACCSETn. -/
def accAt (t : TileId) (n : Nat) : Nat := mtAt t.die (tileIdx t) (0x100 + 8 * n)
def seTileAt (t : TileId) (off : Nat) : Nat := seAt t.die t.slot off
def tpTileAt (t : TileId) (off : Nat) : Nat := tpAt t.die t.slot off

/-- The endpoint number of the physical tile that serves a logical tile: PHYS (R20, R297). -/
def epOf (s : State) (t : TileId) : Nat := if isV t then 68 + fld s (stAt t) 63 58 else fld s (stAt t) 63 57
/-- The node of a tile (R297). -/
def tileNode (s : State) (t : TileId) : Nat := t.die.val * 256 + epOf s t

/-- R21: before the self-test, logical n is served by physical n and the rest are spares. -/
def physDef (e : Nat) : PhysTile :=
  if e < 64 then { status := 0, logical := e } else if e < 68 then { status := 1 }
  else if e < 100 then { status := 0, logical := e - 68 } else { status := 1 }
def getPhys (s : State) (d e : Nat) : PhysTile := mget (physDef e) s.phys (d * 256 + e)
def setPhys (s : State) (d e : Nat) (x : PhysTile) : State :=
  { s with phys := mset (physDef e) s.phys (d * 256 + e) x }
/-- The logical tile is served by a physical tile (R21, R477). -/
def mapped (s : State) (t : TileId) : Bool :=
  (getPhys s t.die (epOf s t)).logical == tileIdx t
/-- The tile is fenced (R21, R112, R162). FENCED is bit 46 of MT_STATE and bit 56 of VT_STATE. -/
def fencedBit (t : TileId) : Nat := if isV t then 56 else 46
/-- FSTATE of an endpoint (R315). -/
def fstate (s : State) (d e : Nat) : Nat := fld s (nocEpAt d e) 55 54
/-- The tile's endpoint answers (R21, R313, R477). -/
def tileOpen (s : State) (t : TileId) : Bool :=
  mapped s t && fstate s t.die (epOf s t) == 0 && !flag s (stAt t) (fencedBit t)

/-- The M-tile or V-tile that a physical endpoint serves, if any. -/
def tileOfEp (s : State) (d e : Nat) : Option TileId :=
  let l := (getPhys s d e).logical
  if h : d < 4 then
    if e < 68 then (if h2 : l < 64 then some ⟨⟨d, h⟩, ⟨l, by omega⟩⟩ else none)
    else if e < 102 then (if h2 : l < 32 then some ⟨⟨d, h⟩, ⟨64 + l, by omega⟩⟩ else none)
    else none
  else none

/-- Every tile of a die. -/
def tilesOf (d : Fin 4) : List TileId := (List.finRange 96).map (fun n => ⟨d, n⟩)

/-! ### Time and the event log -/

/-- The timestamp counter of a die (R14). -/
def nowNs (s : State) (die : Nat) : Nat := (mget 0 s.ts die).toNat

/-- Word 0 of a log entry (R434). -/
def logWord0 (e : LogEntry) : Word :=
  BitVec.ofNat 64 (e.code * 2 ^ 48 + e.die * 2 ^ 44 + e.unit % 2 ^ 12 * 2 ^ 32 + e.sev * 2 ^ 30 + e.count)
/-- The 32 bytes of a log entry (R434). -/
def logBytes (e : LogEntry) : List Byte :=
  leBytes 8 (logWord0 e).toNat ++ leBytes 8 e.time ++ leBytes 8 e.detail ++ leBytes 8 e.lsn

/-- R435: an entry of severity 1 with the same CODE, DIE and UNIT written within the last 1 ms takes the event. -/
def mergeable (s : State) (code die unit sev : Nat) (e : LogEntry) : Bool :=
  sev == 1 && e.sev == 1 && e.code == code && e.die == die && e.unit == unit && nowNs s die ≤ e.time + 1000000

/-- RL_LOGNEW and RL_LOGOVR (R438). -/
def logNewAt : Nat := csrAt 4 0xB00008
def logOvrAt : Nat := csrAt 4 0xB00010

/-- R433-R435, R439: the hardware writes an event. -/
def logEvent (s : State) (code die unit sev detail : Nat) : State :=
  let s := if sev = 0 then s else objSetN s 0x0E01 sev (objN s 0x0E01 sev + 1)
  if s.log.any (mergeable s code die unit sev) then
    { s with log := s.log.map (fun e =>
        if mergeable s code die unit sev e then { e with count := min (e.count + 1) (2 ^ 24 - 1) } else e) }
  else
    let lsn := (rd s logNewAt).toNat + 1
    let e : LogEntry := { code, die, unit, sev, count := 1, time := nowNs s die, detail, lsn }
    let s := wr s logNewAt (BitVec.ofNat 64 lsn)
    if 4096 ≤ s.log.length then
      incFld { s with log := s.log.drop 1 ++ [e] } logOvrAt 31 0
    else { s with log := s.log ++ [e] }

/-! ### Packets -/

/-- A packet leaves an endpoint (log 3). -/
def sendPkt (s : State) (p : Packet) : State := { s with out := s.out ++ [p] }
/-- A packet arrives: it is no longer on its way (log 3). -/
def takePkt (s : State) (p : Packet) : State :=
  { s with out := s.out.erase p, noc := { s.noc with flights := s.noc.flights.eraseP (fun f => f.p == p) } }
/-- A packet through the management segment (log 3). -/
def sendLink (s : State) (m : LinkMsg) : State := { s with linkOut := s.linkOut ++ [m] }

/-- The node of an endpoint (R297). -/
def nodeOf (die ep : Nat) : BitVec 12 := BitVec.ofNat 12 (die * 256 + ep)
def nodeDie (n : BitVec 12) : Nat := n.toNat / 256
def nodeEp (n : BitVec 12) : Nat := n.toNat % 256

/-- R301: the response to a request: opcode with bit 7 set, response virtual channel, the request's tag and
generation. -/
def response (p : Packet) (status : Nat) (data : List Byte) (poison : Nat) : Packet :=
  { op := p.op ||| 0x80, vc := 1, nflit := BitVec.ofNat 3 (cdiv data.length 64), len := data.length,
    poison := BitVec.ofNat 4 poison, dest := p.src, src := p.dest, tag := p.tag, gen := p.gen, snum := p.snum,
    status := BitVec.ofNat 8 status, fab := p.fab, addr := p.addr, od := p.od, qd := p.qd, data := data }

/-- Take a request and answer it with a status and no data. -/
def answer (s : State) (p : Packet) (status : Nat) : State := sendPkt (takePkt s p) (response p status [] 0)

/-- R467: an IRQ packet to the interrupt controller of Granite; the vector rides in ADDR (log 13). -/
def sendIrq (s : State) (src : BitVec 12) (vec : Nat) : State :=
  sendPkt s { op := 0x61, vc := 3, dest := nodeOf 8 1, src := src, addr := BitVec.ofNat 64 (vec % 1024) }

/-! ### Tags (R300, R311, R312) -/

def getTag (s : State) (node tag : Nat) : TagRec := mget {} s.noc.tags (node * 1024 + tag)
def setTag (s : State) (node tag : Nat) (r : TagRec) : State :=
  { s with noc := { s.noc with tags := mset {} s.noc.tags (node * 1024 + tag) r } }
/-- Hold a tag for a request. -/
def holdTag (s : State) (node tag : Nat) (u : TagUse) : State :=
  setTag s node tag { getTag s node tag with use := some u }
/-- Free a tag on its response. -/
def freeTag (s : State) (node tag : Nat) : State := setTag s node tag { getTag s node tag with use := none }
/-- R311, R313: advance the generation of a tag and free it. -/
def expireTag (s : State) (node tag : Nat) : State :=
  setTag s node tag { gen := (getTag s node tag).gen + 1, use := none }
/-- The lowest free tag among the first `n` of a node. -/
def firstFree (s : State) (node n : Nat) : Option Nat :=
  (List.range n).find? (fun t => (getTag s node t).use.isNone)
/-- Outstanding tags of a node, with their uses. -/
def tagsOf (s : State) (node : Nat) : List (Nat × TagRec) :=
  (s.noc.tags.filter (fun x => x.1 / 1024 = node ∧ x.2.use.isSome)).map (fun x => (x.1 % 1024, x.2))

/-! ### Device failure (R410) -/

/-- STATE of FX_TWIN (R367, R380): 0 UNPAIRED, 1 SOLO, 2 PAIRED, 3 COVERING, 4 STALE, 5 ISOLATED. -/
def twinState (s : State) : Nat := fld s (fxAt 0 8) 63 61
def setTwinState (s : State) (v : Nat) : State := setFld s (fxAt 0 8) 63 61 v
/-- EPOCH of FX_TWIN. -/
def epoch (s : State) : Nat := fld s (fxAt 0 8) 60 29

/-- R410, R502: FAIL_NOTICE to the twin, the event, ISOLATED until reset, DEV_READY low. `code` is the event code of
the cause (R436). A device that has failed already stays failed. -/
def devFail (s : State) (code die : Nat) : State :=
  if s.failed then s else
  let s := if 2 ≤ twinState s ∧ twinState s ≤ 4 then sendLink s .failNotice else s
  let s := logEvent s 0x0051 die 0 3 code
  let s := setTwinState s 5
  { s with failed := true, pins := { s.pins with devReady := false } }

/-- R125, R160, R408: the tile-fault event; the tile's own fault count advances (R439). -/
def tileFaultEvent (s : State) (t : TileId) (seq status : Nat) : State :=
  let e := epOf s t
  let ph := getPhys s t.die e
  logEvent (setPhys s t.die e { ph with faults := min (ph.faults + 1) 65535 }) 0x0001 t.die e 2 (status * 2 ^ 32 + seq)

/-! ### The device-local address map (R27-R34) -/

/-- What a device-local address lies in. -/
inductive AddrClass where
  | userHbm | firmware | carveOut | scratch (t : TileId) (off : Nat) | csr (die off : Nat) | cfg (die n off : Nat)
  | unmapped
  deriving DecidableEq, Repr

/-- R28: end of user HBM, of the firmware tables, of the carve-out. -/
def userEnd : Part → Nat | .m8x2 => 0x2B80000000 | _ => 0x4380000000
def fwEnd : Part → Nat | .m8x2 => 0x2C00000000 | _ => 0x4400000000
def carveEnd : Part → Nat | .m8x2 => 0x3000000000 | _ => 0x4800000000

/-- R29: whether an offset of a tile's window is mapped. -/
def windowMapped (v : Bool) (off : Nat) : Bool := if v then off < 0x110000 else off < 0x700000

/-- R285: the configuration-port window's mapped offsets. -/
def cfgMapped (off : Nat) : Bool :=
  off < 0x28 || (0x100000 ≤ off && off < 0x200000) || (0x1000000 ≤ off && off < 0x11B0800)
  || (0x2000000 ≤ off && off < 0x2003200) || (0x3000000 ≤ off && off < 0x3100000)

/-- R438: the log entries of S0. -/
def isLogEntry (die off : Nat) : Bool := die == 4 && 0xB01000 ≤ off && off < 0xB01000 + 0x20 * 4096

/-- R27-R31. -/
def classify (p : Part) (a : Nat) : AddrClass :=
  if a < userEnd p then .userHbm
  else if a < fwEnd p then .firmware
  else if a < carveEnd p then .carveOut
  else if 0x100000000000 ≤ a ∧ a < 0x100100000000 then
    let d := (a - 0x100000000000) / 0x40000000
    let sl := a % 0x40000000 / 0x800000
    if hs : sl < 96 then
      if hd : d < 4 then
        if windowMapped (64 ≤ sl) (a % 0x800000) then .scratch ⟨⟨d, hd⟩, ⟨sl, hs⟩⟩ (a % 0x800000) else .unmapped
      else .unmapped
    else .unmapped
  else if 0x200000000000 ≤ a ∧ a < 0x200900000000 then
    let d := (a - 0x200000000000) / 0x100000000
    let o := a % 0x100000000
    if (locate p (a / 8 * 8)).isSome ∨ (p.dieFitted d ∧ isLogEntry d o) then .csr d o else .unmapped
  else if 0x300000000000 ≤ a ∧ a < 0x300100000000 then
    let d := (a - 0x300000000000) / 0x40000000
    let n := a % 0x40000000 / 0x4000000
    if cfgMapped (a % 0x4000000) then .cfg d n (a % 0x4000000) else .unmapped
  else .unmapped

/-- The initiators of R32. -/
inductive Initiator where
  | host | warden | sequencer (t : Option TileId) | stream | region | remote | none
  deriving DecidableEq, Repr

/-- Which initiator a packet's source is (R297): a tile's sequencer and stream engine share one endpoint, where the stream
engine has the first 512 tags (R179, R300); the Shale engines and the twin-mirror logic act for remote requesters. A
sequencer comes with the logical tile that its physical tile serves (R20). -/
def initiatorOf (s : State) (p : Packet) : Initiator :=
  let d := nodeDie p.src; let e := nodeEp p.src
  if d < 4 then (if e < 102 then (if p.tag.toNat < 512 then .stream else .sequencer (tileOfEp s d e)) else if e < 118 then .region else .none)
  else if d < 8 then (if e = 1 ∨ e = 2 then .remote else .none)
  else if d = 8 then (if e = 2 then .host else if e = 3 then .warden else .none)
  else .none

/-- R32: the CSR blocks that their chapters open to the Owner (R112, R162, R199, R229, R272, R380, R437, R462, R487). -/
def ownerBlock (die off : Nat) : Bool :=
  if die < 4 then (0x100000 ≤ off && off < 0x600000) || (0xA00000 ≤ off && off < 0xB00000)
  else if die = 4 then (0x800400 ≤ off && off < 0x800500) || (0xA00000 ≤ off && off < 0xB00000)
  else if die = 8 then (0xC00010 ≤ off && off < 0xC00020) || (0xD00000 ≤ off && off < 0xD00008)
    || (0xD01000 ≤ off && off < 0xD03000)
  else false

/-- R112, R162: an M-tile's or V-tile's block is open to the sequencer of that tile. -/
def ownTileBlock (t : TileId) (die off : Nat) : Bool :=
  die == t.die.val && off / 0x1000 == (if isV t then 0x200 else 0x100) + tileIdx t
/-- R112, R162, R199: the tile blocks that a sequencer may reach: its own tile's control block, and the stream-engine
blocks, which are open to the tile sequencers. -/
def seqBlock (t : Option TileId) (die off : Nat) : Bool :=
  (0x300000 ≤ off && off < 0x400000) || (match t with | some t => ownTileBlock t die off | none => false)

/-- R32: whether an initiator may reach an address; a write of GR_PCIE by a host hart reaches MSIX (R487). -/
def mayReach (i : Initiator) (r : AddrClass) : Bool :=
  match r with
  | .userHbm => i != .none
  | .firmware => i == .warden
  | .carveOut => i == .warden || i == .host
  | .scratch _ _ => i != .remote && i != .none
  | .csr die off => i == .warden || (i == .host && (ownerBlock die off || (die == 8 && off / 8 * 8 == 0xD00008)))
      || (match i with | .sequencer t => die < 4 && seqBlock t die off | _ => false)
  | .cfg _ _ _ => i == .warden
  | .unmapped => false

/-- R33: the status of a request by the map alone, every byte checked (all boundaries are multiples of 8): 0, NOC_UNMAPPED or NOC_DENIED; when both apply
the lower code is reported (R37). -/
def mapStatus (part : Part) (i : Initiator) (a len : Nat) : Nat :=
  let rs := (List.range (if len = 0 then 0 else (a + len - 1) / 8 + 1 - a / 8)).map (fun k => classify part (a / 8 * 8 + 8 * k))
  if rs.any (· == .unmapped) then stNocUnmapped
  else if rs.all (mayReach i) then 0 else stNocDenied

end Sys2Proof.Machine
end

