-- ==== Sys2Proof/Machine/NocRoute.lean ====
section
/-! DEFINITION. The paths of the on-package network: routers, links, bridges, route tables, and when a packet has reached
its endpoint (R296-R299, R304, R307, R308). -/

namespace Sys2Proof.Machine
open Sys2Proof

/-! ### Routers and tables (R296, R299, R307) -/

/-- R299: the router at which express link `second` of bridge 142 + b attaches. -/
def bridgeRouter (b : Nat) (second : Bool) : Nat :=
  if second then 16 * ((b + 4) % 8) + (3 * b + 8) % 16 else 16 * (b % 8) + 3 * b % 16

/-- The bridge whose express link attaches at a router, with the link (R299). -/
def expressLink (router : Nat) : Option Nat :=
  (List.range 10).find? (fun k => bridgeRouter (k / 2) (k % 2 == 1) == router) |>.map (256 + ·)

/-- Hops around a ring of n, the shorter way (R307). -/
def ringDist (n a b : Nat) : Nat := min ((b + n - a) % n) ((a + n - b) % n)
/-- Router hops between two routers in dimension order. -/
def routerDist (a b : Nat) : Nat := ringDist 16 (a % 16) (b % 16) + ringDist 8 (a / 16) (b / 16)

/-- R307: the dimension-order port from a router to another; `here` at the router itself. Ties go to X+ or Y+. -/
def dimPort (a b here : Nat) : Nat :=
  if a % 16 ≠ b % 16 then (if (b % 16 + 16 - a % 16) % 16 ≤ 8 then 0 else 1)
  else if a / 16 ≠ b / 16 then (if (b / 16 + 8 - a / 16) % 8 ≤ 4 then 2 else 3)
  else here

/-- R16, R307: the bridge by which die d sends traffic for die e under the reset tables: 0 X, 1 Y, 2 to S0 or S1, 3 to S2
or S3, 4 to G. A Shale die that d does not attach is reached over the Y neighbour, which attaches it (DEDUCED, log 27). -/
def resetBridge (d e : Nat) : Nat :=
  if e < 4 then
    (if d ^^^ e = 1 then 0 else if d ^^^ e = 2 then 1 else if d = 0 ∨ d = 3 then 0 else 1)
  else if e < 8 then (if (e - 4) % 2 = d / 2 then (if e < 6 then 2 else 3) else 1)
  else 4

/-- R299, R307: the reset die entry: towards the nearer of the bridge's two routers, ties to the first. -/
def resetDieEntry (d router e : Nat) : Nat :=
  let b := resetBridge d e
  let near := if routerDist router (bridgeRouter b true) < routerDist router (bridgeRouter b false)
    then bridgeRouter b true else bridgeRouter b false
  dimPort router near 6

/-- R307: the reset endpoint entry. -/
def resetEpEntry (d router e : Nat) : Nat :=
  dimPort router (Config.router d e).toNat (4 + (Config.lport d e).toNat)

/-- The key of a route-table entry. -/
def routeKey (d router : Nat) (kind : Bool) (index : Nat) : Nat :=
  ((d * 128 + router) * 2 + (if kind then 1 else 0)) * 256 + index

/-- R307: what a table holds: a written entry, else the reset entry. -/
def routeEntry (m : SMap Nat) (d router : Nat) (kind : Bool) (index : Nat) : Nat :=
  match mfind m (routeKey d router kind index) with
  | some v => v - 8
  | none => if kind then resetDieEntry d router index else resetEpEntry d router index

/-- The part of the tables of die d that a packet's destination selects (R307). -/
def routeKind (d : Nat) (p : Packet) : Bool × Nat :=
  if nodeDie p.dest = d then (false, nodeEp p.dest) else (true, nodeDie p.dest)

/-- R307: the port of a packet at a router, by the active table. -/
def portFor (s : State) (d router : Nat) (p : Packet) : Nat :=
  routeEntry s.noc.active d router (routeKind d p).1 (routeKind d p).2

/-! ### Links and bridges (R16, R296, R299) -/

/-- The link of a router's torus or express port: X− and Y− are the links of the neighbour. -/
def linkOf (router port : Nat) : Option Nat :=
  let x := router % 16; let y := router / 16
  match port with
  | 0 => some (2 * router)
  | 1 => some (2 * (16 * y + (x + 15) % 16))
  | 2 => some (2 * router + 1)
  | 3 => some (2 * (16 * ((y + 7) % 8) + x) + 1)
  | 6 => expressLink router
  | _ => none

/-- The router behind a torus port. -/
def neighbour (router port : Nat) : Nat :=
  let x := router % 16; let y := router / 16
  match port with
  | 0 => 16 * y + (x + 1) % 16
  | 1 => 16 * y + (x + 15) % 16
  | 2 => 16 * ((y + 1) % 8) + x
  | _ => 16 * ((y + 7) % 8) + x

/-- STATE of NOC_LINK: 0 up, 1 up on the spare group, 2 down. -/
def linkState (s : State) (d l : Nat) : Nat := fld s (nocLinkAt d l) 63 62

/-- The die at the far side of bridge 142 + b of die d (R297). -/
def farDie (d b : Nat) : Nat :=
  if b = 0 then d ^^^ 1 else if b = 1 then d ^^^ 2 else if b = 2 then 4 + d / 2 else if b = 3 then 6 + d / 2 else 8
/-- The bridge of die d to an attached die e. -/
def bridgeTo (d e : Nat) : Option Nat := (List.range 5).find? (fun b => farDie d b == e)
/-- The routers of die d at which packets from an attached die e enter. -/
def enterRouters (d e : Nat) : List Nat :=
  match bridgeTo d e with
  | some b => [bridgeRouter b false, bridgeRouter b true]
  | none => []

def bridgeModules (b : Nat) : Nat := if b < 2 then 4 else if b < 4 then 2 else 1
/-- A UCIe link between two Basalt dies is named by its lower die. -/
def linkDie (d b : Nat) : Nat := if b = 0 then d / 2 * 2 else if b = 1 then d % 2 else d
def bridgeKey (d b : Nat) : Nat := 16 * linkDie d b + b
def moduleKey (d b m : Nat) : Nat := bridgeKey d b * 4 + m
/-- Bridge 145 is fitted on M12X4 only (R297). -/
def bridgeFitted (s : State) (b : Nat) : Bool := b != 3 || s.part.shales == 4
def moduleUp (s : State) (d b m : Nat) : Bool :=
  bridgeFitted s b && m < bridgeModules b && !mget false s.noc.ucieOut (moduleKey d b m)
/-- R299: the module of a packet: (SRC XOR DEST) mod m among the m modules in service; none when none is. -/
def moduleFor (s : State) (d b : Nat) (p : Packet) : Option Nat :=
  let ms := (List.range (bridgeModules b)).filter (moduleUp s d b)
  ms[(p.src.toNat ^^^ p.dest.toNat) % ms.length]?

/-! ### Route changes (R309) -/

def rtctl (d : Nat) : Nat := nocAt d 8
/-- RT_STATE: 0 idle, 1 draining, 2 done. -/
def rtState (s : State) (d : Nat) : Nat := fld s (rtctl d) 62 61
/-- Local ports of the die and its express links from bridges withhold credits (R309). -/
def draining (s : State) (d : Nat) : Bool := rtState s d == 1

/-! ### Packets that have reached their endpoint (R304, R307-R309) -/

/-- The register of an on-die link is at this address. -/
def isLinkReg (a : Nat) : Bool :=
  0x200000000000 ≤ a && a < 0x200400000000 && 0x601000 ≤ a % 0x100000000 && a % 0x100000000 < 0x602000

/-- Every table is as at reset, every router, link and module works and no route change drains: every endpoint is reachable. -/
def netQuiet (s : State) : Bool :=
  s.noc.active.isEmpty && s.noc.stopped.isEmpty && s.noc.ucieOut.isEmpty && !(List.range 4).any (draining s)
    && !s.csr.any (fun e => isLinkReg e.1 && bits e.2 63 62 == 2)

/-- An endpoint's router and local port (R298). -/
def attachedAt (d ep router lport : Nat) : Bool :=
  (Config.router d ep).toNat == router && (Config.lport d ep).toNat == lport

/-- A die of a Basalt die's bridges is reached: a module of the link is in service (R299). -/
def bridgeUp (s : State) (d e : Nat) : Bool :=
  match bridgeTo d e with | some b => (List.range (bridgeModules b)).any (moduleUp s d b) | none => false

/-- R462, R468: the Basalt dies over which Granite sends a packet: the die of its destination while its module is in service,
else a neighbouring die; for a Shale die, any; for a mailbox message C0, or C1 while the module to C0 is out of service. -/
def graniteDies (s : State) (p : Packet) : List Nat :=
  let up := (List.range 4).filter (fun x => bridgeUp s x 8)
  let e := nodeDie p.dest
  if p.op = 0x60 then (up.filter (· < 2)).take 1
  else if e < 4 then (if up.contains e then [e] else up.filter (fun x => x ^^^ e != 3))
  else up
/-- The Basalt dies at which a packet from a Shale die or Granite enters. -/
def entryDies (s : State) (p : Packet) : List Nat :=
  if nodeDie p.src = 8 then graniteDies s p else (List.range 4).filter (fun x => bridgeUp s x (nodeDie p.src))

/-- The tables lead a packet from a router to its endpoint over routers and links that work, across bridges to dies that do
not drain; `n` bounds the hops. -/
def walk (s : State) (p : Packet) : Nat → Nat → Nat → Bool
  | 0, _, _ => false
  | n + 1, d, r =>
    let k := portFor s d r p
    if mget false s.noc.stopped (128 * d + r) then false
    else if k = 4 ∨ k = 5 then nodeDie p.dest == d && attachedAt d (nodeEp p.dest) r (k - 4)
    else match linkOf r k with
    | none => false
    | some l =>
      if linkState s d l = 2 then false
      else if k < 4 then walk s p n d (neighbour r k)
      else
        let e := farDie d ((l - 256) / 2)
        if !bridgeUp s d e then false
        else if 4 ≤ e then nodeDie p.dest == e
        else !draining s e && (enterRouters e d).any (fun x => walk s p n e x)

/-- The network leads a packet from its source to its endpoint (R307). -/
def pathClear (s : State) (p : Packet) : Bool :=
  let d := nodeDie p.src
  if p.src = p.dest ∨ netQuiet s = true then true
  else if d < 4 then !draining s d && walk s p 64 d (Config.router d (nodeEp p.src)).toNat
  else d == nodeDie p.dest
    || (entryDies s p).any (fun x => !draining s x && (enterRouters x d).any (fun r => walk s p 64 x r))

def flightOf (s : State) (p : Packet) : Option Flight := s.noc.flights.find? (fun f => f.p == p)

/-- No flit stands before a packet in its buffer, for its virtual channel and dateline class (R303). -/
def atHead (s : State) (f : Flight) : Bool :=
  match s.noc.flights.find? (fun g => g.place == f.place && g.p.vc == f.p.vc && g.p.dclass == f.p.dclass) with
  | some g => g == f
  | none => false

/-- A packet inside the network stands at the local port of its endpoint, or has crossed the bridge to the Shale or Granite die of its endpoint. -/
def atEndpoint (s : State) (f : Flight) : Bool :=
  match f.place with
  | .buffer d r _ =>
    nodeDie f.p.dest == d && portFor s d r f.p == 4 + (Config.lport d (nodeEp f.p.dest)).toNat
      && (Config.router d (nodeEp f.p.dest)).toNat == r && atHead s f
  | .bridge d b _ => 4 ≤ farDie d b && nodeDie f.p.dest == farDie d b
  | .link _ _ _ => false

/-- R304: of the packets of one virtual channel from one source to one destination, the first sent comes first. -/
def inOrder (s : State) (p : Packet) : Bool :=
  match s.out.find? (fun q => q.vc == p.vc && q.src == p.src && q.dest == p.dest) with
  | some q => q == p
  | none => true

/-- A packet has reached its endpoint: its hops have brought it there, or, while no hop of it has been commanded, the network
leads it there (log 94). -/
def arrived (s : State) (p : Packet) : Bool :=
  inOrder s p && (match flightOf s p with | some f => atEndpoint s f | none => pathClear s p)

/-! ### Injection (R298, R308) -/

/-- R308: the injecting router's entry for the destination is 7: only a written entry can be. -/
def unreachable (s : State) (p : Packet) : Bool :=
  let d := nodeDie p.src
  d < 4 && s.noc.active.any (fun e => e.2 == 15 &&
    e.1 == routeKey d (Config.router d (nodeEp p.src)).toNat (routeKind d p).1 (routeKind d p).2)

/-- A request that does not enter the network completes at once at its source (R33, R308). -/
def refuseAtOnce (s : State) (p : Packet) (status : Nat) : State :=
  sendPkt s (response { p with dest := p.src } status [] 0)

/-- A request enters the network, or completes with NOC_FENCED at once (R308). -/
def inject (s : State) (p : Packet) : State := if unreachable s p then refuseAtOnce s p stNocFenced else sendPkt s p

end Sys2Proof.Machine
end

