-- ==== Sys2Proof/Machine/Flags.lean ====
section
/-! DEFINITION. The arithmetic flag field, convergent rounding, saturation and alignment of integer codes (R54-R57,
R63, R70-R74, R85, R131, R144). Values are dyadic: m × 2^e. -/

namespace Sys2Proof.Machine
open Sys2Proof

/-! ### The flag field (R56) -/
abbrev fOvf : Nat := 0x0001
abbrev fNar : Nat := 0x0002
abbrev fInx : Nat := 0x0004
abbrev fSat : Nat := 0x0008
abbrev fInvalid : Nat := 0x0100
abbrev fDivZero : Nat := 0x0200
abbrev fOverflow : Nat := 0x0400
abbrev fUnderflow : Nat := 0x0800
abbrev fInexact : Nat := 0x1000

/-- A flag raised when a condition holds. -/
def fl (c : Bool) (f : Nat) : Nat := if c then f else 0

/-! ### Convergent rounding (R54, R55) -/

/-- conv_round(x / 2^k): the nearest integer, a tie to the even one; and whether a nonzero part was discarded. -/
def convRound (x : Int) (k : Nat) : Int × Bool :=
  let d : Int := ((2 ^ k : Nat) : Int)
  let q := x / d
  let r := x % d
  (if d < 2 * r ∨ (2 * r = d ∧ q % 2 ≠ 0) then q + 1 else q, r ≠ 0)

/-- x × 2^k, exact, for k ≥ 0. -/
def shl (x : Int) (k : Nat) : Int := x * ((2 ^ k : Nat) : Int)

/-- conv_round(m × 2^e / 2^E). -/
def roundTo (m e scale : Int) : Int × Bool :=
  if scale ≤ e then (shl m (e - scale).toNat, false) else convRound m (scale - e).toNat

/-- The value clipped to ±lim, and whether it lay beyond (R63, R73, R131). -/
def clip (lim x : Int) : Int × Bool :=
  if lim < x then (lim, true) else if x < -lim then (-lim, true) else (x, false)

abbrev a48Max : Int := 2 ^ 47 - 1
abbrev a48Nar : Int := -(2 ^ 47)
abbrev i64Max : Int := 2 ^ 63 - 1
abbrev i64Nar : Int := -(2 ^ 63)

/-- R63: a finite value into A48 at a context scale: code and flags. -/
def toA48 (m e scale : Int) : Int × Nat :=
  let r := roundTo m e scale
  let c := clip a48Max r.1
  (c.1, fl c.2 fOvf ||| fl r.2 fInx)

/-- R131, R144: a finite value into an I64 lane at a SCALE: code and flags. -/
def toI64 (m e scale : Int) : Int × Nat :=
  let r := roundTo m e scale
  let c := clip i64Max r.1
  (c.1, fl c.2 fOvf ||| fl r.2 fInx)

/-! ### Pairs (R40, R82, R144) -/

/-- The exact integer H = hi × 2^63 + lo of a pair, at weight 2^(E − 63). -/
def pairInt (hi lo : Int) : Int := shl hi 63 + lo

/-- The pair of an exact integer, with |lo| ≤ 2^62; beyond the largest pair it is that pair and `true` is returned. -/
def formPair (h : Int) : Int × Int × Bool :=
  let top : Int := shl i64Max 63 + 2 ^ 62
  if top < h then (i64Max, 2 ^ 62, true)
  else if h < -top then (-i64Max, -(2 ^ 62), true)
  else
    let c := (clip i64Max (convRound h 63).1).1
    (c, h - shl c 63, false)

/-- R144: a pair's exact integer, weighing 2^(E − 63) each unit, brought to another scale: hi, lo, flags. -/
def alignPair (h e scale : Int) : Int × Int × Nat :=
  let r := roundTo h e scale
  let p := formPair r.1
  (p.1, p.2.1, fl p.2.2 fOvf ||| fl r.2 fInx)

/-! ### The native rule (R70-R74) -/

/-- R72: one aligned term of an exact nonzero or zero product at its scale; `lim` is the bound of the accumulator. -/
def alignTerm (lim p pscale eacc : Int) : Int × Nat :=
  if p = 0 then (0, 0)
  else if eacc ≤ pscale then
    let c := clip lim (shl p (pscale - eacc).toNat)
    (c.1, fl c.2 fOvf)
  else
    let r := convRound p (eacc - pscale).toNat
    (r.1, fl r.2 fInx)

/-- R72, R74: the sum of aligned terms; `none` once a term is NaR. Every term's flags stand. -/
def sumTerms : List (Option Int × Nat) → Option Int × Nat
  | [] => (some 0, 0)
  | t :: r =>
    let s := sumTerms r
    (match t.1, s.1 with | some a, some b => some (a + b) | _, _ => none, t.2 ||| s.2)

/-- R73, R74: a column from init and the terms, saturated once. `none` is NaR. -/
def column (init : Option Int) (terms : Option Int × Nat) : Option Int × Nat :=
  match init, terms.1 with
  | some i, some t =>
    let c := clip a48Max (i + t)
    (some c.1, terms.2 ||| fl c.2 fOvf)
  | none, _ => (none, terms.2 ||| fNar)
  | some _, none => (none, terms.2)

/-- R85: the bound of a pair accumulator, (2^47 − 1) × 2^47. -/
abbrev pairLim : Int := a48Max * 2 ^ 47

/-- R85: the pair written from the exact T: hi, lo, flags. -/
def writePair (t : Int) : Int × Int × Nat :=
  if pairLim < t then (a48Max, 0, fOvf)
  else if t < -pairLim then (-a48Max, 0, fOvf)
  else
    let h := (convRound t 47).1
    (h, t - shl h 47, 0)

/-- R85: a pair column; `none` is the NaR pair. -/
def pairColumn (init : Option Int) (terms : Option Int × Nat) : Option (Int × Int) × Nat :=
  match init, terms.1 with
  | some i, some t =>
    let p := writePair (i + t)
    (some (p.1, p.2.1), terms.2 ||| p.2.2)
  | none, _ => (none, terms.2 ||| fNar)
  | some _, none => (none, terms.2)

/-! ### Digits (R79, R82, R83) -/

/-- R79: the low and high digits of a Q16 code. -/
def q16Digit (c : Int) (i : Nat) : Int :=
  let l := sextN 8 (codeN 16 c)
  if i = 0 then l else (c - l) / 256

/-- R82: the significand, element scale and inexactness of a QP16 element. -/
def qpNormal (h e : Int) : Int × Int × Bool :=
  if h = 0 then (0, 0, false)
  else
    let n := Nat.log2 h.natAbs
    -- |h| lies in [2^n, 2^(n+1)); t brings it into [2^62, 2^63)
    let t : Int := (n : Int) - 62
    let r := if t ≤ 0 then (shl h (-t).toNat, false) else convRound h t.toNat
    if r.1 = 2 ^ 63 then (2 ^ 62, e - 63 + t + 1, r.2)
    else if r.1 = -(2 ^ 63) then (-(2 ^ 62), e - 63 + t + 1, r.2)
    else (r.1, e - 63 + t, r.2)

/-- R83: digit i of a significand. -/
def qpDigit : Int → Nat → Int
  | r, 0 => sextN 8 (codeN 8 r)
  | r, i + 1 => qpDigit ((r - sextN 8 (codeN 8 r)) / 256) i

/-- R83: digit i, 0..7; digit 7 is what is left, not sign-extended from 8 bits. -/
def qpDigits (m : Int) (i : Nat) : Int :=
  if i < 7 then qpDigit m i
  else (List.range 7).foldl (fun r _ => (r - sextN 8 (codeN 8 r)) / 256) m

end Sys2Proof.Machine
end

