-- ==== Sys2Proof/Machine/Ieee.lean ====
section
/-! DEFINITION. IEEE 754 encodings, rounding and operations in integers (R62, R64, R65, R67-R69, R88-R94). -/

namespace Sys2Proof.Machine
open Sys2Proof

/-- A source value: a native NaR, an IEEE NaN (signalling or not), an infinity, or a finite value m × 2^e; `nz` marks
an IEEE negative zero. -/
inductive Src where
  | nar
  | nan (sig : Bool)
  | inf (neg : Bool)
  | fin (m e : Int) (nz : Bool)
  deriving DecidableEq, Repr

/-- The IEEE formats: 0 binary16, 1 binary32, 2 binary64. Exponent bits, fraction bits, width. -/
def ieeeEb (f : Nat) : Nat := if f = 0 then 5 else if f = 1 then 8 else 11
def ieeeMb (f : Nat) : Nat := if f = 0 then 10 else if f = 1 then 23 else 52
def ieeeW (f : Nat) : Nat := if f = 0 then 16 else if f = 1 then 32 else 64
def ieeeBias (f : Nat) : Nat := 2 ^ (ieeeEb f - 1) - 1

/-- Assemble an encoding. -/
def ieeePack (f : Nat) (neg : Bool) (ex fr : Nat) : Nat :=
  (if neg then 2 ^ (ieeeW f - 1) else 0) + ex * 2 ^ ieeeMb f + fr

/-- R68: the canonical quiet NaN. -/
def ieeeNan (f : Nat) : Nat := ieeePack f false (2 ^ ieeeEb f - 1) (2 ^ (ieeeMb f - 1))
def ieeeInf (f : Nat) (neg : Bool) : Nat := ieeePack f neg (2 ^ ieeeEb f - 1) 0
def ieeeZero (f : Nat) (neg : Bool) : Nat := ieeePack f neg 0 0
def ieeeMax (f : Nat) (neg : Bool) : Nat := ieeePack f neg (2 ^ ieeeEb f - 2) (2 ^ ieeeMb f - 1)

/-- The sign bit of an encoding. -/
def ieeeNeg (f w : Nat) : Bool := w / 2 ^ (ieeeW f - 1) % 2 = 1

/-- Decode an encoding. -/
def ieeeDec (f w : Nat) : Src :=
  let neg := ieeeNeg f w
  let ex := w / 2 ^ ieeeMb f % 2 ^ ieeeEb f
  let fr := w % 2 ^ ieeeMb f
  if ex = 2 ^ ieeeEb f - 1 then (if fr = 0 then .inf neg else .nan (fr < 2 ^ (ieeeMb f - 1)))
  else
    let m : Nat := if ex = 0 then fr else 2 ^ ieeeMb f + fr
    let e : Int := (max ex 1 : Nat) - (ieeeBias f : Int) - (ieeeMb f : Int)
    .fin (if neg then -(m : Int) else m) e (neg && m = 0)

/-- Round n / 2^k by a direction (R64), for a value of the given sign: the integer and whether it is inexact. -/
def roundDir (dir : Nat) (neg : Bool) (n k : Nat) : Nat × Bool :=
  let q := n / 2 ^ k
  let r := n % 2 ^ k
  let up : Bool :=
    if dir = 0 then decide (2 ^ k < 2 * r) || (decide (2 * r = 2 ^ k) && decide (k ≠ 0) && q % 2 == 1)
    else if dir = 1 then false
    else if dir = 2 then neg && decide (r ≠ 0)
    else if dir = 3 then !neg && decide (r ≠ 0)
    else decide (k ≠ 0) && decide (2 ^ k ≤ 2 * r)
  (if up then q + 1 else q, decide (r ≠ 0))

/-- Round mag × 2^e to a multiple of 2^q. -/
def roundAt (dir : Nat) (neg : Bool) (mag : Nat) (e q : Int) : Nat × Bool :=
  if q ≤ e then (mag * 2 ^ (e - q).toNat, false) else roundDir dir neg mag (q - e).toNat

/-- R65: a finite nonzero magnitude into an IEEE format: encoding and flags; in strict mode the IEEE flags as well. -/
def ieeeRound (f dir : Nat) (strict neg : Bool) (mag : Nat) (e : Int) : Nat × Nat :=
  let mb : Int := ieeeMb f
  let bias : Int := ieeeBias f
  let emin : Int := 1 - bias
  let top : Int := e + (Nat.log2 mag : Int)
  let q := max (top - mb) (emin - mb)
  let r := roundAt dir neg mag e q
  let carry : Bool := decide (r.1 = 2 ^ (ieeeMb f + 1))
  let m := if carry then 2 ^ ieeeMb f else r.1
  let q := if carry then q + 1 else q
  if decide (2 ^ ieeeMb f ≤ m) && decide (bias < q + mb) then
    let toMax : Bool := dir = 1 || (dir = 2 && !neg) || (dir = 3 && neg)
    (if toMax then ieeeMax f neg else ieeeInf f neg, fSat ||| fl strict (fOverflow ||| fInexact))
  else
    -- tininess after rounding: rounded to full precision with an unbounded exponent, below 2^emin
    let u := roundAt dir neg mag e (top - mb)
    let tiny : Bool := decide (top < emin) && !(decide (top = emin - 1) && decide (u.1 = 2 ^ (ieeeMb f + 1)))
    let w := if m < 2 ^ ieeeMb f then ieeePack f neg 0 m
      else ieeePack f neg (q + mb + bias).toNat (m - 2 ^ ieeeMb f)
    (w, fl r.2 fInx ||| fl (strict && r.2) fInexact ||| fl (strict && r.2 && tiny) fUnderflow)

/-- R62, R65, R67: a source value into an IEEE format. -/
def toIeee (f dir : Nat) (strict : Bool) (x : Src) : Nat × Nat :=
  match x with
  | .nar => (ieeeNan f, fNar)
  | .nan sig => (ieeeNan f, fl (strict && sig) fInvalid)
  | .inf neg => (ieeeInf f neg, 0)
  | .fin m e nz => if m = 0 then (ieeeZero f nz, 0) else ieeeRound f dir strict (decide (m < 0)) m.natAbs e

/-! ### Operations (R94, R153): encodings in, encoding and flags out -/

def isNanSrc : Src → Bool | .nan _ => true | .nar => true | _ => false
def isSigSrc : Src → Bool | .nan s => s | _ => false
/-- The sign of a source value, −0 negative. -/
def srcNeg : Src → Bool | .inf n => n | .fin m _ nz => decide (m < 0) || nz | _ => false
def srcZero : Src → Bool | .fin m _ _ => decide (m = 0) | _ => false
def srcInf : Src → Bool | .inf _ => true | _ => false

/-- The zero that IEEE addition gives for an exact zero of unlike signs: −0 under RDN, else +0. -/
def zeroSign (dir : Nat) : Bool := dir = 2

/-- The exact sum of two finite values, rounded once; a zero takes its sign from the operands' signs. -/
def addFin (f dir : Nat) (m1 e1 : Int) (n1 : Bool) (m2 e2 : Int) (n2 : Bool) : Nat × Nat :=
  let e := min e1 e2
  let s := shl m1 (e1 - e).toNat + shl m2 (e2 - e).toNat
  if s = 0 then (ieeeZero f (if m1 = 0 ∧ m2 = 0 ∧ n1 = n2 then n1 else zeroSign dir), 0)
  else ieeeRound f dir true (decide (s < 0)) s.natAbs e

/-- addition (subtraction flips the sign of b before). -/
def ieeeAdd (f dir : Nat) (a b : Src) : Nat × Nat :=
  if isNanSrc a || isNanSrc b then (ieeeNan f, fl (isSigSrc a || isSigSrc b) fInvalid)
  else match a, b with
  | .inf x, .inf y => if x = y then (ieeeInf f x, 0) else (ieeeNan f, fInvalid)
  | .inf x, _ => (ieeeInf f x, 0)
  | _, .inf y => (ieeeInf f y, 0)
  | .fin m1 e1 z1, .fin m2 e2 z2 => addFin f dir m1 e1 (decide (m1 < 0) || z1) m2 e2 (decide (m2 < 0) || z2)
  | _, _ => (ieeeNan f, 0)

/-- The value with its sign flipped. -/
def srcFlip : Src → Src
  | .inf n => .inf (!n)
  | .fin m e nz => .fin (-m) e (if m = 0 then !nz else false)
  | x => x

/-- The absolute value. -/
def srcAbs : Src → Src
  | .inf _ => .inf false
  | .fin m e _ => .fin (m.natAbs : Int) e false
  | x => x

/-- multiplication. -/
def ieeeMul (f dir : Nat) (a b : Src) : Nat × Nat :=
  let neg := srcNeg a != srcNeg b
  if isNanSrc a || isNanSrc b then (ieeeNan f, fl (isSigSrc a || isSigSrc b) fInvalid)
  else if (srcInf a && srcZero b) || (srcZero a && srcInf b) then (ieeeNan f, fInvalid)
  else if srcInf a || srcInf b then (ieeeInf f neg, 0)
  else match a, b with
  | .fin m1 e1 _, .fin m2 e2 _ =>
    if m1 * m2 = 0 then (ieeeZero f neg, 0) else ieeeRound f dir true neg (m1 * m2).natAbs (e1 + e2)
  | _, _ => (ieeeNan f, 0)

/-- fusedMultiplyAdd a × b + c (R94: ∞ × 0 is INVALID whatever the addend). -/
def ieeeFma (f dir : Nat) (a b c : Src) : Nat × Nat :=
  let neg := srcNeg a != srcNeg b
  let sig := isSigSrc a || isSigSrc b || isSigSrc c
  if (srcInf a && srcZero b) || (srcZero a && srcInf b) then (ieeeNan f, fInvalid)
  else if isNanSrc a || isNanSrc b || isNanSrc c then (ieeeNan f, fl sig fInvalid)
  else if srcInf a || srcInf b then
    (match c with
    | .inf y => if y = neg then (ieeeInf f neg, 0) else (ieeeNan f, fInvalid)
    | _ => (ieeeInf f neg, 0))
  else match a, b, c with
  | .fin _ _ _, .fin _ _ _, .inf y => (ieeeInf f y, 0)
  | .fin m1 e1 _, .fin m2 e2 _, .fin m3 e3 z3 => addFin f dir (m1 * m2) (e1 + e2) neg m3 e3 (decide (m3 < 0) || z3)
  | _, _, _ => (ieeeNan f, 0)

/-- division: a quotient of 2 bits beyond the precision, with a sticky bit, rounded once. -/
def ieeeDiv (f dir : Nat) (a b : Src) : Nat × Nat :=
  let neg := srcNeg a != srcNeg b
  if isNanSrc a || isNanSrc b then (ieeeNan f, fl (isSigSrc a || isSigSrc b) fInvalid)
  else if (srcInf a && srcInf b) || (srcZero a && srcZero b) then (ieeeNan f, fInvalid)
  else if srcInf a then (ieeeInf f neg, 0)
  else if srcInf b then (ieeeZero f neg, 0)
  else if srcZero b then (ieeeInf f neg, fDivZero)
  else match a, b with
  | .fin m1 e1 _, .fin m2 e2 _ =>
    if m1 = 0 then (ieeeZero f neg, 0)
    else
      let k := ieeeMb f + 4 + Nat.log2 m2.natAbs
      let n := m1.natAbs * 2 ^ k
      let q := n / m2.natAbs
      let st := if n % m2.natAbs = 0 then 0 else 1
      ieeeRound f dir true neg (2 * q + st) (e1 - e2 - (k : Int) - 1)
  | _, _ => (ieeeNan f, 0)

/-- The integer square root by bisection on bits: the largest r with r² ≤ n, r below 2^k. -/
def isqrtAux (n : Nat) : Nat → Nat → Nat
  | 0, r => r
  | k + 1, r => if (r + 2 ^ k) * (r + 2 ^ k) ≤ n then isqrtAux n k (r + 2 ^ k) else isqrtAux n k r
def isqrt (n : Nat) : Nat := isqrtAux n (Nat.log2 n / 2 + 1) 0

/-- squareRoot. -/
def ieeeSqrt (f dir : Nat) (a : Src) : Nat × Nat :=
  match a with
  | .nar => (ieeeNan f, 0)
  | .nan sig => (ieeeNan f, fl sig fInvalid)
  | .inf neg => if neg then (ieeeNan f, fInvalid) else (ieeeInf f false, 0)
  | .fin m e nz =>
    if m = 0 then (ieeeZero f nz, 0)
    else if m < 0 then (ieeeNan f, fInvalid)
    else
      -- an even exponent, and enough bits for 2 beyond the precision
      let k := 2 * (ieeeMb f + 4) + (if e % 2 = 0 then 0 else 1)
      let n := m.natAbs * 2 ^ k
      let r := isqrt n
      let st := if r * r = n then 0 else 1
      ieeeRound f dir true false (2 * r + st) ((e - (k : Int)) / 2 - 1)

/-- convertFormat (R153). -/
def ieeeCvt (fs ft dir w : Nat) : Nat × Nat := toIeee ft dir true (ieeeDec fs w)

/-- Three-way comparison of two values that are not NaN: −1, 0, 1; zeros are equal. -/
def srcCmp (a b : Src) : Int :=
  match a, b with
  | .inf x, .inf y => if x = y then 0 else if x then -1 else 1
  | .inf x, _ => if x then -1 else 1
  | _, .inf y => if y then 1 else -1
  | .fin m1 e1 _, .fin m2 e2 _ =>
    let e := min e1 e2
    let p := shl m1 (e1 - e).toNat
    let q := shl m2 (e2 - e).toNat
    if p < q then -1 else if p = q then 0 else 1
  | _, _ => 0

/-- The predicates of VCMP and FCMP: EQ NE LT LE GT GE UN. -/
def predOf (p : Nat) (un : Bool) (c : Int) : Bool :=
  if un then p = 1 || p = 6
  else if p = 0 then decide (c = 0) else if p = 1 then decide (c ≠ 0) else if p = 2 then decide (c < 0)
  else if p = 3 then decide (c ≤ 0) else if p = 4 then decide (0 < c) else if p = 5 then decide (0 ≤ c) else false

/-- R153: comparison predicate and its flags. -/
def ieeeCmp (p : Nat) (signalling : Bool) (a b : Src) : Bool × Nat :=
  let un := isNanSrc a || isNanSrc b
  (predOf p un (if un then 0 else srcCmp a b), fl (if signalling then un else isSigSrc a || isSigSrc b) fInvalid)

/-- minimum (max = false) and maximum (max = true), −0 below +0; `number` for minimumNumber and maximumNumber. -/
def ieeeMinMax (f : Nat) (mx number : Bool) (wa wb : Nat) : Nat × Nat :=
  let a := ieeeDec f wa
  let b := ieeeDec f wb
  let fg := fl (isSigSrc a || isSigSrc b) fInvalid
  if isNanSrc a || isNanSrc b then
    if number && !(isNanSrc a) then (wa, fg) else if number && !(isNanSrc b) then (wb, fg) else (ieeeNan f, fg)
  else
    let c := srcCmp a b
    let aLess : Bool := decide (c < 0) || (decide (c = 0) && srcNeg a && !srcNeg b)
    (if aLess != mx then wa else wb, fg)

end Sys2Proof.Machine
end

