-- ==== Sys2Proof/Machine/Operands.lean ====
section
/-! DEFINITION. Tensor formats in memory: reading an element, choosing a block scale, writing elements (R39-R69,
R143). Format codes are those of R143: 0 Q4, 1 Q8, 2 Q16, 3 A48, 4 QP16, 5 binary16, 6 binary32, 7 binary64, 8 RAW64,
9 RAW32. -/

namespace Sys2Proof.Machine
open Sys2Proof

/-- A way to read one byte of a memory. -/
abbrev ByteAt := Nat → Byte

/-- n bytes from an address. -/
def bytesAt (rdb : ByteAt) (a n : Nat) : List Byte := (List.range n).map (fun i => rdb (a + i))
/-- The little-endian number of n bytes (R50). -/
def numAt (rdb : ByteAt) (a n : Nat) : Nat := leNat (bytesAt rdb a n)

/-- Formats with a block scale. -/
def isBlock (f : Nat) : Bool := f ≤ 2 || f == 4
/-- The IEEE format number of a format code. -/
def ieeeOf (f : Nat) : Nat := f - 5

/-- Bytes of the element plane for n elements: whole blocks for block formats (R52), else exactly the elements. -/
def planeBytes (f n : Nat) : Nat :=
  let b := cdiv n 32
  if f = 0 then 16 * b else if f = 1 then 32 * b else if f = 2 then 64 * b else if f = 4 then 512 * b
  else if f = 3 then 6 * n else if f = 5 then 2 * n else if f = 6 then 4 * n else if f = 7 then 8 * n
  else if f = 8 then 8 * n else 4 * n
/-- Bytes of the scale plane for n elements. -/
def scaleBytes (f n : Nat) : Nat := if f ≤ 2 then cdiv n 32 else if f = 4 then 2 * cdiv n 32 else 0
/-- R51, R143: the alignment of an element plane. -/
def planeAlign (f : Nat) : Nat := if f ≤ 4 then 64 else if f = 5 then 2 else if f = 6 then 4 else if f = 7 then 8 else if f = 8 then 8 else 4
/-- Clear the address bits below an alignment (R51). -/
def alignDown (a n : Nat) : Nat := a / n * n

/-- The code of element i of a block format whose plane begins at `base`; hi for QP16. -/
def codeAt (rdb : ByteAt) (f base i : Nat) : Int :=
  if f = 0 then sextN 4 ((rdb (base + i / 2)).toNat / (if i % 2 = 0 then 1 else 16))
  else if f = 1 then sextN 8 (rdb (base + i)).toNat
  else if f = 2 then sextN 16 (numAt rdb (base + 2 * i) 2)
  else if f = 3 then sextN 48 (numAt rdb (base + 6 * i) 6)
  else sextN 64 (numAt rdb (base + 16 * i) 8)

/-- The lo word of a QP16 element. -/
def loAt (rdb : ByteAt) (base i : Nat) : Int := sextN 64 (numAt rdb (base + 16 * i + 8) 8)

/-- The NaR element code (R39). -/
def narCode (f : Nat) : Int := if f = 0 then -8 else if f = 1 then -128 else if f = 2 then -32768 else if f = 3 then a48Nar else i64Nar

/-- The scale of block b, none for a NaR block (R41, R46). -/
def blockScale (rdb : ByteAt) (f sbase b : Nat) : Option Int :=
  if f = 4 then (let v := sextN 16 (numAt rdb (sbase + 2 * b) 2); if v = -32768 then none else some v)
  else (let v := sextN 8 (rdb (sbase + b)).toNat; if v = -128 then none else some v)

/-- R40, R42, R47: element i as a source value; `ctx` is the context scale of an A48 array. -/
def srcAt (rdb : ByteAt) (f base sbase : Nat) (ctx : Int) (i : Nat) : Src :=
  if isBlock f then
    match blockScale rdb f sbase (i / 32) with
    | none => .nar
    | some e =>
      let c := codeAt rdb f base i
      if c = narCode f then .nar
      else if f = 4 then .fin (pairInt c (loAt rdb base i)) (e - 63) false
      else .fin c e false
  else if f = 3 then
    (let c := codeAt rdb 3 base i; if c = a48Nar then .nar else .fin c ctx false)
  else
    let w := ieeeW (ieeeOf f) / 8
    ieeeDec (ieeeOf f) (numAt rdb (base + w * i) w)

/-! ### Block normalisation (R58-R60) -/

/-- cmax = 2^b − 1. -/
def cmaxBits (f : Nat) : Nat := if f = 0 then 3 else if f = 1 then 7 else if f = 2 then 15 else 63
def cmaxOf (f : Nat) : Int := 2 ^ cmaxBits f - 1
def eMax (f : Nat) : Int := if f = 4 then 32767 else 127
def eMin (f : Nat) : Int := -(eMax f)

/-- R59: the smallest scale in range at which |m| × 2^e rounds to a code no greater than cmax: one of the two scales
that bring |m| to the width of cmax. -/
def bestScale (f : Nat) (m e : Int) : Int :=
  let s0 : Int := e + (Nat.log2 m.natAbs : Int) + 1 - (cmaxBits f : Int)
  let s := if (roundTo m.natAbs e s0).1 ≤ cmaxOf f then s0 else s0 + 1
  max (eMin f) (min (eMax f) s)

/-- The largest magnitude among finite values, as a value; 0 when none. -/
def maxMag : List Src → Int × Int
  | [] => (0, 0)
  | .fin m e _ :: r =>
    let q := maxMag r
    let k := min e q.2
    if m = 0 then q else if q.1 = 0 then (m.natAbs, e)
    else if shl q.1 (q.2 - k).toNat < shl m.natAbs (e - k).toNat then (m.natAbs, e) else q
  | _ :: r => maxMag r

/-- The block scale (R58). -/
def chooseScale (f : Nat) (l : List Src) : Int :=
  if l.any srcInf then eMax f
  else
    let m := maxMag l
    if m.1 = 0 then 0 else bestScale f m.1 m.2

/-- A NaR or a NaN. -/
def srcIsNar (x : Src) : Bool := isNanSrc x

/-- R58, R60, R67: one element at a chosen scale: code (hi), lo, flags. A finite value exactly equal to the largest QP16 value
ties to 2^63 under R58's listing and raises SAT_OUT there, though R56 and R60 name only a value that exceeds it: the
listing is followed (DEDUCED, log 98). -/
def putElem (f : Nat) (strict : Bool) (s : Int) (x : Src) : Int × Int × Nat :=
  match x with
  | .nar => (narCode f, 0, fNar)
  | .nan sig => (narCode f, 0, fNar ||| fl (strict && sig) fInvalid)
  | .inf n => if n then (-(cmaxOf f), -(2 ^ 62), fSat) else (cmaxOf f, 2 ^ 62, fSat)
  | .fin m e _ =>
    let r := roundTo m e s
    let c := clip (cmaxOf f) r.1
    if f = 4 then
      if c.2 then (c.1, if m < 0 then -(2 ^ 62) else 2 ^ 62, fSat)
      else
        -- v − hi × 2^s, exact at the smaller weight
        let k := min e s
        let rest := shl m (e - k).toNat - shl c.1 (s - k).toNat
        let lo := roundTo rest k (s - 63)
        (c.1, lo.1, fl lo.2 fInx)
    else (c.1, 0, fl r.2 fInx ||| fl c.2 fSat)

/-- The codes of a block: scale code, and hi, lo of 32 elements with padding; and the flags (R43, R52, R58). `l` holds
the 1..32 elements of the block that the tensor has. -/
def putBlock (f : Nat) (strict : Bool) (l : List Src) : Nat × List (Int × Int) × Nat :=
  let sw := if f = 4 then 16 else 8
  if l.length = 32 ∧ l.all srcIsNar then
    (2 ^ (sw - 1), l.map (fun _ => (narCode f, 0)),
      fNar ||| fl (strict && l.any isSigSrc) fInvalid)
  else
    let s := chooseScale f l
    let es := l.map (putElem f strict s)
    (codeN sw s, es.map (fun x => (x.1, x.2.1)) ++ List.replicate (32 - l.length) (0, 0),
      es.foldl (fun a x => a ||| x.2.2) 0)

/-- The element bytes of a block's codes (R50). -/
def packCodes (f : Nat) : List (Int × Int) → List Byte
  | [] => []
  | a :: r =>
    if f = 0 then
      match r with
      | [] => [BitVec.ofNat 8 (codeN 4 a.1)]
      | b :: r' => BitVec.ofNat 8 (codeN 4 a.1 + 16 * codeN 4 b.1) :: packCodes f r'
    else if f = 1 then leBytes 1 (codeN 8 a.1) ++ packCodes f r
    else if f = 2 then leBytes 2 (codeN 16 a.1) ++ packCodes f r
    else leBytes 8 (codeN 64 a.1) ++ leBytes 8 (codeN 64 a.2) ++ packCodes f r

/-- Cut a list into pieces of n; `k` bounds the number of pieces. -/
def chunks {α : Type} (n : Nat) : Nat → List α → List (List α)
  | 0, _ => []
  | k + 1, l => if l.isEmpty then [] else l.take n :: chunks n k (l.drop n)

/-- Elements into a block format: element-plane bytes, scale-plane bytes, flags. -/
def putBlocks (f : Nat) (strict : Bool) (l : List Src) : List Byte × List Byte × Nat :=
  let bs := (chunks 32 l.length l).map (putBlock f strict)
  (bs.flatMap (fun b => packCodes f b.2.1), bs.flatMap (fun b => leBytes (if f = 4 then 2 else 1) b.1),
    bs.foldl (fun a b => a ||| b.2.2) 0)

/-- R63, R67: a source value into A48 at a context scale: code and flags. -/
def srcToA48 (strict : Bool) (scale : Int) (x : Src) : Int × Nat :=
  match x with
  | .nar => (a48Nar, fNar)
  | .nan sig => (a48Nar, fNar ||| fl (strict && sig) fInvalid)
  | .inf n => (if n then -a48Max else a48Max, fSat)
  | .fin m e _ => toA48 m e scale

/-- Elements into a format other than RAW: element-plane bytes, scale-plane bytes, flags (R62, R65, R67). -/
def putElems (f : Nat) (strict : Bool) (ctx : Int) (dir : Nat) (l : List Src) : List Byte × List Byte × Nat :=
  if isBlock f then putBlocks f strict l
  else if f = 3 then
    let es := l.map (srcToA48 strict ctx)
    (es.flatMap (fun x => leBytes 6 (codeN 48 x.1)), [], es.foldl (fun a x => a ||| x.2) 0)
  else
    let es := l.map (toIeee (ieeeOf f) dir strict)
    (es.flatMap (fun x => leBytes (ieeeW (ieeeOf f) / 8) x.1), [], es.foldl (fun a x => a ||| x.2) 0)

/-- A source read by a conversion raises NAR when it is a native NaR (R56); writing a NaR raises it as well. -/
def readFlags (l : List Src) : Nat := fl (l.any (fun x => match x with | .nar => true | _ => false)) fNar

end Sys2Proof.Machine
end

