-- ==== Sys2Proof/Machine/Mem.lean ====
section
/-! DEFINITION. Memories: bytes with granule poison, the tile windows with their INVALID marks, and HBM with its
address map, unwritten bursts and mirrored ranges. -/

namespace Sys2Proof.Machine
open Sys2Proof

/-! ### Bytes and poison (R336; the same rule for scratch, log 15) -/

def memByte (m : Mem) (a : Nat) : Byte := mget 0 m.bytes a
def memBytes (m : Mem) (a n : Nat) : List Byte := bytesAt (memByte m) a n

/-- Store bytes; storing 0 removes the entry. -/
def putBytes (l : List Host.Cell) (a : Nat) : List Byte → List Host.Cell
  | [] => l
  | b :: r => putBytes (mset 0 l a b) (a + 1) r

/-- The 64-byte granules that n bytes at a touch. -/
def granules (a n : Nat) : List Nat :=
  if n = 0 then [] else (List.range ((a + n - 1) / 64 + 1 - a / 64)).map (fun i => a / 64 + i)

/-- R336: poison of a granule after a write of n bytes at a; `pg` tells the granules the write carries poisoned. -/
def poisonAfter (a n : Nat) (pg : Nat → Bool) (m : SMap Bool) (g : Nat) : SMap Bool :=
  if pg g then mset false m g true
  else if a ≤ 64 * g ∧ 64 * g + 64 ≤ a + n then mset false m g false
  else m

/-- Store bytes with their poison. -/
def memWrite (m : Mem) (a : Nat) (d : List Byte) (pg : Nat → Bool) : Mem :=
  { bytes := putBytes m.bytes a d, poison := (granules a d.length).foldl (poisonAfter a d.length pg) m.poison }

def granPoison (m : Mem) (g : Nat) : Bool := mget false m.poison g
/-- A byte of the range carries poison. -/
def anyPoison (m : Mem) (a n : Nat) : Bool := (granules a n).any (granPoison m)

/-- R300, R302: bit i of POISON: payload flit i holds bytes of a poisoned granule. -/
def flitMask (pg : Nat → Bool) (a n : Nat) : Nat :=
  (List.range (cdiv n 64)).foldl (fun k i => if (granules (a + 64 * i) (min 64 (n - 64 * i))).any pg then k + 2 ^ i else k) 0
/-- The granules that a request's POISON bits mark. -/
def maskGran (mask a n : Nat) (g : Nat) : Bool :=
  (List.range (cdiv n 64)).any (fun i => mask / 2 ^ i % 2 == 1 && (granules (a + 64 * i) (min 64 (n - 64 * i))).contains g)

/-! ### Tile windows -/

def tBytes (x : Tile) (a n : Nat) : List Byte := memBytes x.mem a n
def tWord (x : Tile) (a : Nat) : Nat := numAt (memByte x.mem) a 8

/-- A whole word written is good again (R111). -/
def healAcc (a n : Nat) (m : SMap Bool) : SMap Bool :=
  m.filter (fun e => !(a ≤ 8 * e.1 && 8 * e.1 + 8 ≤ a + n))

/-- Store into a tile's window. -/
def tWrite (x : Tile) (a : Nat) (d : List Byte) (pg : Nat → Bool) : Tile :=
  { x with mem := memWrite x.mem a d pg, accUe := healAcc a d.length x.accUe }
/-- Store clean bytes. -/
def tStore (x : Tile) (a : Nat) (d : List Byte) : Tile := tWrite x a d (fun _ => false)

/-- A word of accumulator memory or kernel memory in the range is uncorrectable (R111, R159). -/
def anyAccUe (x : Tile) (a n : Nat) : Bool := x.accUe.any (fun e => e.2 && 8 * e.1 < a + n && a < 8 * e.1 + 8)

/-- A granule of the range is marked INVALID (R171). -/
def anyInvalid (x : Tile) (a n : Nat) : Bool := (granules a n).any (mget false x.invalid)

/-- An allocated buffer: context, ring position, first offset, length, the stream and the buffer (R166, R168). -/
structure BufRef where
  ctx : Nat
  pos : Nat
  off : Nat
  len : Nat
  st  : Stream
  buf : Buf

/-- The buffers of a stream. -/
def streamBufs (c : Nat) (st : Stream) : List BufRef :=
  (List.range st.bufs.length).filterMap (fun p =>
    (st.bufs[p]?).map (fun b => { ctx := c, pos := p, off := st.base + p * st.bufsz, len := st.bufsz, st, buf := b }))

def getStream (x : Tile) (c : Nat) : Option Stream := mget none x.streams c
def setStream (x : Tile) (c : Nat) (st : Option Stream) : Tile := { x with streams := mset none x.streams c st }

/-- Every allocated buffer of a tile. -/
def allBufs (x : Tile) : List BufRef :=
  (List.range 16).flatMap (fun c => match getStream x c with | some st => streamBufs c st | none => [])

def overlaps (a n b m : Nat) : Bool := decide (a < b + m) && decide (b < a + n) && decide (0 < n) && decide (0 < m)

/-- The buffers that hold a byte of a range. -/
def bufsOver (x : Tile) (a n : Nat) : List BufRef := (allBufs x).filter (fun b => overlaps a n b.off b.len)

/-- R114, R168: the byte range lies in static scratch or FULL buffers. Buffers are whole granules. -/
def residentIn (x : Tile) (a n : Nat) : Bool :=
  (bufsOver x a n).all (fun b => (b.st.kind == 0 || b.st.kind == 2) && b.buf.state == 2)
/-- R114, R168: the byte range lies in static scratch or RESERVED buffers. -/
def reservedOut (x : Tile) (a n : Nat) : Bool :=
  (bufsOver x a n).all (fun b => (b.st.kind == 1 || b.st.kind == 3) && b.buf.state == 3)

/-- The granules that an invalidation of a range marks: every buffer it touches whole, and its static part (R171). -/
def spread (x : Tile) (a n : Nat) : List Nat :=
  granules a n ++ (bufsOver x a n).flatMap (fun b => granules b.off b.len)

def markGran (x : Tile) (gs : List Nat) : Tile := { x with invalid := gs.foldl (fun m g => mset false m g true) x.invalid }

/-! ### Ranges of a pass (R96, R99, R100, R102) -/

/-- Format codes (R143) of the weights and the activations of a mode (R96). -/
def modeW (m : Nat) : Nat := if m = 0 then 1 else if m = 1 then 0 else if m = 2 then 0 else if m = 3 then 2 else 4
def modeX (m : Nat) : Nat := if m = 0 then 1 else if m = 1 then 1 else if m = 2 then 0 else if m = 3 then 2 else 4
/-- Largest K (R96). -/
def modeK (m : Nat) : Nat := if m = 1 then 256 else if m = 2 then 512 else 128
/-- The format code of OFMT (R99). -/
def ofmtCode (o : Nat) : Nat := if o ≤ 2 then o else if o = 3 then 4 else 3

/-- Reduction length, output length, cycles per vector (R99). -/
def redLen (i : PassInstr) : Nat := if i.dir then i.n else i.k
def outLen (i : PassInstr) : Nat := if i.dir then i.k else i.n
def cyc (i : PassInstr) : Nat := if i.dir && (i.mode == 1 || i.mode == 2) then cdiv i.k 128 else 1
/-- Output rows that leave the drain: c for each vector, or one for each vector when K = 0 (R116, R118). -/
def rowCount (i : PassInstr) : Nat := if i.k = 0 then i.m else cyc i * i.m

/-- Weight, activation, bias and output ranges: offset and length (R102). -/
def wRanges (i : PassInstr) : List (Nat × Nat) :=
  let nb := i.n * cdiv i.k 32 * 32
  [(i.wbase * 64, planeBytes (modeW i.mode) nb), (i.wscl * 8, scaleBytes (modeW i.mode) nb)]
def xRanges (i : PassInstr) : List (Nat × Nat) :=
  let nb := i.m * cdiv (redLen i) 32 * 32
  [(i.xbase * 64, planeBytes (modeX i.mode) nb), (i.xscl * 8, scaleBytes (modeX i.mode) nb)]
def bRange (i : PassInstr) : Nat × Nat := (i.bbase * 64, 6 * outLen i)
/-- Stride of an output vector in bytes of the element plane, and of the scale plane. -/
def oStride (i : PassInstr) : Nat :=
  let f := ofmtCode i.ofmt
  if f = 3 then cdiv (6 * outLen i) 64 * 64 else planeBytes f (outLen i)
def oSStride (i : PassInstr) : Nat := scaleBytes (ofmtCode i.ofmt) (outLen i)
def oRanges (i : PassInstr) : List (Nat × Nat) :=
  if i.dscr then [(i.obase * 64, i.m * oStride i), (i.oscl * 8, i.m * oSStride i)] else []

/-- R100: the input ranges; `loadW` when weights are to be loaded. -/
def inRanges (i : PassInstr) (loadW : Bool) : List (Nat × Nat) :=
  (if i.k = 0 then [] else (if loadW then wRanges i else []) ++ xRanges i) ++ (if i.init = 1 then [bRange i] else [])

/-- R121, R122: the granules that a pass's end marks, and the set. -/
def passDest (x : Tile) (i : PassInstr) : List Nat := (oRanges i).flatMap (fun r => spread x r.1 r.2)

/-- R122: the pass names a set through ACCSET when DACC = 1 or INIT = KEEP. -/
def namesSet (i : PassInstr) : Bool := i.dacc || i.init == 2

/-- R122: a started pass touches a marked set or buffer. -/
def touchesInvalid (s : State) (t : TileId) (x : Tile) (p : Pass) : Bool :=
  (namesSet p.ins && flag s (accAt t p.ins.accset) 62)
  || (inRanges p.ins p.loadW ++ oRanges p.ins).any (fun r => anyInvalid x r.1 r.2)

/-- R121: a pass ends early with a status in this cycle and marks its destinations. -/
def endPass (s : State) (t : TileId) (seq : Nat) (status : Status) (nofold : Bool) : State :=
  let x := getTile s t
  match x.passes.find? (fun p => p.seq == seq && p.ending.isNone) with
  | none => s
  | some p =>
    let x := { x with passes := x.passes.map (fun r => if r.seq = seq then
      { r with ending := some status, endAt := x.cycle, rows := [], inits := [], nofold := r.nofold || nofold } else r) }
    let s := setTile s t (markGran x (passDest x p.ins))
    if p.ins.dacc then setFlag s (accAt t p.ins.accset) 62 true else s

/-- R122: every started pass that names a marked set or buffer ends with INVALID_DEST; `k` bounds the chain. -/
def chainInvalid (t : TileId) : Nat → State → State
  | 0, s => s
  | k + 1, s =>
    let x := getTile s t
    match x.passes.find? (fun p => p.ending.isNone && touchesInvalid s t x p) with
    | none => s
    | some p => chainInvalid t k (endPass s t p.seq stInvalidDest false)

/-- Mark granules INVALID and end what names them (R121, R122, R171). -/
def invalidate (s : State) (t : TileId) (gs : List Nat) : State :=
  let s := modTile s t (fun x => markGran x gs)
  chainInvalid t (getTile s t).passes.length s

/-- End a pass early and everything that its marks end (R121, R122). -/
def abortPass (s : State) (t : TileId) (seq : Nat) (status : Status) (nofold : Bool) : State :=
  let s := endPass s t seq status nofold
  chainInvalid t (getTile s t).passes.length s

/-! ### Window accesses (R29, R107, R111, R133, R159, R171) -/

/-- Sets marked INVALID whose rows a range of the window touches (R107). -/
def invalidSet (s : State) (t : TileId) (a n : Nat) : Bool :=
  !isV t && (List.range 16).any (fun k =>
    flag s (accAt t k) 62 &&
      overlaps a n (0x400000 + fld s (accAt t k) 50 39 * 768) (fld s (accAt t k) 38 26 * 768))

/-- The status that refuses a window access whole: 0 when it is served. -/
def windowRefusal (s : State) (t : TileId) (a n : Nat) : Nat :=
  if !tileOpen s t then stNocFenced
  else if anyInvalid (getTile s t) a n || invalidSet s t a n then stInvalidDest
  else 0

/-- The poison of a window granule for a reader: kept poison, or an uncorrectable accumulator word (R111). -/
def winPoison (x : Tile) (g : Nat) : Bool := granPoison x.mem g || anyAccUe x (64 * g) 64

/-- Reads of kernel memory and scratch return their bytes, with POISON when a granule is poisoned. -/
def windowRead (s : State) (t : TileId) (a n : Nat) : Nat × List Byte × Nat :=
  let x := getTile s t
  let st := windowRefusal s t a n
  if st ≠ 0 then (st, [], 0)
  else
    let m := flitMask (winPoison x) a n
    (if m = 0 then stOk else stPoison, tBytes x a n, m)

/-- A window write: its status and the state. -/
def windowWrite (s : State) (t : TileId) (a : Nat) (d : List Byte) (mask : Nat) : Nat × State :=
  let st := windowRefusal s t a d.length
  if st ≠ 0 then (st, s)
  else (stOk, modTile s t (fun x => tWrite x a d (maskGran mask a d.length)))

/-! ### HBM: the address map (R317-R322) -/

def hbmMap : Nat := hbmAt 0 0
/-- Package channels. -/
def hbmChannels (p : Part) : Nat := p.stacks * 16
/-- g: the grain is 2^g bytes. -/
def hbmG (s : State) : Nat := fld s hbmMap 62 59 + 8
/-- Package channel and channel-local address of an HBM byte address (R319). -/
def hbmCh (s : State) (a : Nat) : Nat := a / 2 ^ hbmG s % hbmChannels s.part
def hbmL (s : State) (a : Nat) : Nat := a / 2 ^ hbmG s / hbmChannels s.part * 2 ^ hbmG s + a % 2 ^ hbmG s
def hbmDie (s : State) (a : Nat) : Nat := hbmCh s a % 4
def hbmJ (s : State) (a : Nat) : Nat := hbmCh s a / 4

/-- R321: hashed bit i of a channel-local address. -/
def hashBit (s : State) (l i : Nat) : Nat :=
  let h := fld s (hbmAt 0 (8 + 8 * (i / 2))) (if i % 2 = 0 then 27 else 55) (if i % 2 = 0 then 0 else 28)
  (List.range 7).foldl (fun b t =>
    let c := h / 16 ^ t % 16
    if c = 0 then b else (b + l / 2 ^ (15 + c)) % 2) (l / 2 ^ (10 + i) % 2)

/-- Pseudo-channel, bank, row and column actually used (R320, R321). -/
def hbmPc (s : State) (a : Nat) : Nat := hashBit s (hbmL s a) 0
def hbmBank (s : State) (a : Nat) : Nat := (List.range 5).foldl (fun b i => b + hashBit s (hbmL s a) (i + 1) * 2 ^ i) 0
def hbmRow (s : State) (a : Nat) : Nat := hbmL s a / 2 ^ 16
/-- The place of a byte in the stacks: channel, row, bank and pseudo-channel, column, byte. -/
def hbmKey (s : State) (a : Nat) : Nat :=
  let l := hbmL s a
  (hbmDie s a * 64 + hbmJ s a) * 2 ^ 31 + l / 2 ^ 16 * 2 ^ 16 + hbmBank s a * 2 ^ 11 + hbmPc s a * 2 ^ 10 + l % 2 ^ 10

/-- The memory port endpoint of a channel (R297, R318). -/
def hbmPortEp (p : Part) (j : Nat) : Nat := 118 + 8 * (j % p.positions) + j / p.positions / 2
/-- The node that serves an HBM address (R298). -/
def hbmNode (s : State) (a : Nat) : BitVec 12 := nodeOf (hbmDie s a) (hbmPortEp s.part (hbmJ s a))

/-! ### Mirror entries (R362, R380) -/

def mirAt (m : Nat) : Nat := fxAt 0 (0x100 + 8 * m)
/-- This device's parity in its pair: 0 the even twin. -/
def parity (s : State) : Nat := match s.fabric.dev with | some d => d.toNat % 2 | none => 0
/-- The valid mirror entry that holds an address. -/
def mirOf (s : State) (a : Nat) : Option Nat :=
  (List.range 64).find? (fun m => flag s (mirAt m) 63 &&
    fld s (mirAt m) 59 42 * 2 ^ 21 ≤ a && a < (fld s (mirAt m) 59 42 + fld s (mirAt m) 41 24) * 2 ^ 21)
def mirOwner (s : State) (m : Nat) : Nat := fld s (mirAt m) 62 62
/-- The address lies in the copy that this device holds for its twin (R362). -/
def isCopy (s : State) (a : Nat) : Bool := match mirOf s a with | some m => mirOwner s m != parity s | none => false
/-- The address lies in a mirrored range that this device owns. -/
def isOwned (s : State) (a : Nat) : Bool := match mirOf s a with | some m => mirOwner s m == parity s | none => false

/-! ### HBM accesses -/

def hbmByte (s : State) (a : Nat) : Byte := memByte s.hbm.mem (hbmKey s a)
def hbmBytes (s : State) (a n : Nat) : List Byte := bytesAt (hbmByte s) a n

/-- The channel at a key has been zeroed since power-up (R328). -/
def keyZeroed (s : State) (k : Nat) : Bool := mget false s.hbm.zeroed (k / 2 ^ 31)
/-- R328: a burst that has not been written reads as uncorrectable. -/
def burstBad (s : State) (k : Nat) : Bool := !mget false s.hbm.written (k / 32) && !keyZeroed s k

def setHbm (s : State) (h : Hbm) : State := { s with hbm := h }

/-- The key of a row of the stacks: die, channel, pseudo-channel, bank, row, as HBM_REPAIR spells them (R338). -/
def repairKey (d ch pc bank row : Nat) : Nat := d * 2 ^ 27 + ch * 2 ^ 21 + pc * 2 ^ 20 + bank * 2 ^ 15 + row
/-- That of the row that a place lies in. -/
def rowKey (k : Nat) : Nat :=
  repairKey (k / 2 ^ 37) (k / 2 ^ 31 % 64) (k / 2 ^ 10 % 2) (k / 2 ^ 11 % 32) (k / 2 ^ 16 % 2 ^ 15)
/-- R428: the wardens will repair a row. -/
def repairDue (s : State) (row : Nat) : State :=
  if s.hbm.due.contains row then s else setHbm s { s.hbm with due := s.hbm.due ++ [row] }

/-- R335, R428: the burst at a key reads uncorrectable: its row waits for a repair; it is written back poisoned, UE advances, the event names the address. -/
def meetUe (s : State) (k a : Nat) : State :=
  let d := k / 2 ^ 37; let j := k / 2 ^ 31 % 64
  let h := s.hbm
  let s := setHbm s { h with mem := { h.mem with poison := mset false h.mem.poison (k / 64) true },
                             written := mset false h.written (k / 32) true, weak := mset .good h.weak (k / 32) .good }
  logEvent (satFld (repairDue s (rowKey k)) (hbmChAt d j) 42 35) 0x0011 d j 2 a

/-- R334, R428: a corrected burst is written back; CE advances; the event names the location; a row that has reached ROW_CE corrections
within 24 hours waits for a repair. -/
def meetCe (s : State) (k a : Nat) : State :=
  let d := k / 2 ^ 37; let j := k / 2 ^ 31 % 64
  let row := rowKey k
  let seen := (mget [] s.hbm.rowCe row).filter (fun t => nowNs s d < t + 86400000000000) ++ [nowNs s d]
  let s := setHbm s { s.hbm with weak := mset .good s.hbm.weak (k / 32) .good, rowCe := mset [] s.hbm.rowCe row seen }
  let s := if objN s 0x1040 1 ≤ seen.length then repairDue s row else s
  logEvent (incFld s (hbmChAt d j) 58 43) 0x0010 d j 1 a

/-- The 32-byte-aligned addresses of the bursts that n bytes at a touch. -/
def bursts (a n : Nat) : List Nat :=
  if n = 0 then [] else (List.range ((a + n - 1) / 32 + 1 - a / 32)).map (fun i => (a / 32 + i) * 32)

/-- What an ECC decoder finds at the burst at a place: one never written is uncorrectable (R328). -/
def burstEcc (s : State) (k : Nat) : Ecc := if burstBad s k then .uncorrectable else mget .good s.hbm.weak (k / 32)
/-- The symbols stored at a place come to be in error. -/
def upset (s : State) (k : Nat) (e : Ecc) : State :=
  if e = .good then s else setHbm s { s.hbm with weak := mset .good s.hbm.weak (k / 32) e }

/-- A burst is read (R334, R335). -/
def readBurst (s : State) (b : Nat) : State :=
  match burstEcc s (hbmKey s b) with
  | .uncorrectable => meetUe s (hbmKey s b) b
  | .corrected => meetCe s (hbmKey s b) b
  | .good => s

/-! Pseudo-channels and port queues (R323) -/

def pcKey (d ch pc : Nat) : Nat := 128 * d + 2 * ch + pc
def getPc (s : State) (d ch pc : Nat) : PcState := mget {} s.hbm.pcs (pcKey d ch pc)
def setPc (s : State) (d ch pc : Nat) (x : PcState) : State :=
  setHbm s { s.hbm with pcs := mset {} s.hbm.pcs (pcKey d ch pc) x }
def portQueue (s : State) (d ep : Nat) : List HReq := mget [] s.hbm.ports (32 * d + (ep - 118))
def setPortQueue (s : State) (d ep : Nat) (l : List HReq) : State :=
  setHbm s { s.hbm with ports := mset [] s.hbm.ports (32 * d + (ep - 118)) l }

/-- R320, R333: the row is open after the access; opening it is an activation. -/
def openRowOf (x : PcState) (bank row : Nat) : PcState :=
  if mfind x.openRow bank = some row then x
  else { x with openRow := mput x.openRow bank row, acts := mset 0 x.acts bank (mget 0 x.acts bank + 1) }
/-- The row of a burst is open after an access to it. -/
def touchRow (s : State) (b : Nat) : State :=
  setPc s (hbmDie s b) (hbmJ s b) (hbmPc s b) (openRowOf (getPc s (hbmDie s b) (hbmJ s b) (hbmPc s b)) (hbmBank s b) (hbmRow s b))
def touchRows (s : State) (a n : Nat) : State := (bursts a n).foldl touchRow s

def chZeroing (s : State) (d ch : Nat) : Bool := flag s (hbmChAt d ch) 62
/-- An access to a burst is served at once: its channel is not being zeroed, its bank is not held, and no request waits for
its pseudo-channel, at the port or in the controller (R323-R325, R328, R338). -/
def burstFree (s : State) (b : Nat) : Bool :=
  let d := hbmDie s b; let j := hbmJ s b
  let x := getPc s d j (hbmPc s b)
  !chZeroing s d j && x.holdBank != some (hbmBank s b) && x.queue.isEmpty && (portQueue s d (hbmPortEp s.part j)).isEmpty
/-- An access to n bytes at a is served at once; one that is not waits. -/
def hbmFree (s : State) (a n : Nat) : Bool := (bursts a n).all (burstFree s)

/-- Read n bytes: the state with its corrections and poison, then data and the flits' POISON bits (R334-R336). -/
def hbmRead (s : State) (a n : Nat) : State × List Byte × Nat :=
  let s := (bursts a n).foldl readBurst (touchRows s a n)
  (s, hbmBytes s a n, flitMask (fun g => granPoison s.hbm.mem (hbmKey s (64 * g) / 64)) a n)

/-- R326, R336: a burst that a write covers only in part is read first. -/
def mergeBurst (a n : Nat) (s : State) (b : Nat) : State :=
  if a ≤ b ∧ b + 32 ≤ a + n then s else readBurst s b

/-- Store the bytes at their places, with the written marks, good check bytes and poison (R336). -/
def hbmPut (s : State) (a : Nat) (d : List Byte) (pg : Nat → Bool) : State :=
  let n := d.length
  let bytes := (List.range n).foldl (fun l i => mset 0 l (hbmKey s (a + i)) (d.getD i 0)) s.hbm.mem.bytes
  let written := (bursts a n).foldl (fun w b => mset false w (hbmKey s b / 32) true) s.hbm.written
  let weak := (bursts a n).foldl (fun w b => mset .good w (hbmKey s b / 32) .good) s.hbm.weak
  let poison := (granules a n).foldl (fun m g =>
    let k := hbmKey s (64 * g) / 64
    if pg g then mset false m k true
    else if a ≤ 64 * g ∧ 64 * g + 64 ≤ a + n then mset false m k false else m) s.hbm.mem.poison
  setHbm s { s.hbm with mem := { bytes, poison }, written, weak }

/-- R326, R336: a write at the controller: merges of partial bursts, then the bytes. -/
def hbmWrite (s : State) (a : Nat) (d : List Byte) (pg : Nat → Bool) : State :=
  hbmPut ((bursts a d.length).foldl (mergeBurst a d.length) (touchRows s a d.length)) a d pg

/-- R365: every write into a mirrored range that this device owns goes to the twin with its deduplication record: in
PAIRED until the partner is declared failed (R371), and in COVERING while a copy is under way (R375), then for its own and
its partner's ranges. -/
def mirrorsNow (s : State) (a : Nat) : Bool :=
  (twinState s == 2 && s.twin.declared == 0 && isOwned s a) || (twinState s == 3 && s.twin.syncPos.isSome && (mirOf s a).isSome)

/-- R301: the MIRROR_WR packet of a write, on the mirror virtual channel. It names the write that its MIRROR_ACK answers
(log 94). -/
def mirrorPacket (p : Packet) : Packet := { p with op := 0x30, vc := 2, nflit := BitVec.ofNat 3 (cdiv p.data.length 64) }

/-- A write applied at the owner's memory port and sent to the twin when the range is mirrored. -/
def hbmStore (s : State) (p : Packet) (key : Option DedupRec) : State :=
  let a := p.addr.toNat % 2 ^ 44
  let s := hbmWrite s a p.data (maskGran p.poison.toNat a p.data.length)
  if mirrorsNow s a then sendLink s (.mirror (mirrorPacket p) key) else s

/-- R365: the acknowledgement of a write waits for MIRROR_ACK. -/
def ackWaits (s : State) (a : Nat) : Bool := twinState s == 2 && isOwned s a
/-- R365: a write that has been sent to the twin waits, with what its acknowledgement is for. -/
def awaitAck (s : State) (w : Packet) (x : AckFor) : State :=
  { s with twin := { s.twin with waitAck := s.twin.waitAck ++ [(w, x)] } }
/-- A write that the device makes of itself. -/
def ownWrite (a : Nat) (d : List Byte) : Packet := { op := 0x02, len := d.length, addr := BitVec.ofNat 64 a, data := d }

/-- The status that refuses a local HBM request by the state of its memory port, of its channel and of the device, 0 when it
is served (R313, R322, R328, R367). Wardens reach HBM before LOCK. -/
def portRefusal (s : State) (i : Initiator) (a : Nat) : Nat :=
  if !flag s (hbmChAt (hbmDie s a) (hbmJ s a)) 63 then stNocFenced
  else if fstate s (hbmDie s a) (hbmPortEp s.part (hbmJ s a)) ≠ 0 then stNocFenced
  else if !flag s hbmMap 63 && i != .warden then stNocFenced
  else if twinState s = 5 then stNocFenced
  else 0

/-- The same with the copy held for the twin (R362) and lost single ranges (R377). -/
def hbmRefusal (s : State) (i : Initiator) (a : Nat) : Nat :=
  if isCopy s a then stNocDenied
  else if portRefusal s i a ≠ 0 then portRefusal s i a
  else if s.twin.lost && (mirOf s a).isNone && a < userEnd s.part then stHomeLost
  else 0

/-- The lowest of the nonzero codes of a list, 0 when there is none (R37). -/
def lowestOf (l : List Nat) : Nat := l.foldl (fun m e => if e = 0 then m else if m = 0 then e else min m e) 0

/-- The status that refuses n bytes at a: every byte is checked, and the lowest code counts (R33, R37). A channel serves at
least 256 bytes in a row. -/
def rangeRefusal (s : State) (i : Initiator) (a n : Nat) : Nat :=
  lowestOf ((List.range (if n = 0 then 0 else (a + n - 1) / 256 + 1 - a / 256)).map
    (fun k => hbmRefusal s i (if k = 0 then a else (a / 256 + k) * 256)))

/-- R301, R308, R310: a request that an endpoint makes of the memory port of an address: 0, or the status that the network
ends it with: an unreachable entry, or a path that loses it until its timer expires. -/
def netStatus (s : State) (src : BitVec 12) (a n : Nat) : Nat :=
  lowestOf ((List.range (if n = 0 then 0 else (a + n - 1) / 256 + 1 - a / 256)).map (fun k =>
    let p : Packet := { op := 0x01, src, dest := hbmNode s ((a / 256 + k) * 256) }
    if unreachable s p then stNocFenced else if pathClear s p then 0 else stNocTimeout))

end Sys2Proof.Machine
end

