-- ==== Sys2Proof/Machine/StreamCore.lean ====
section
/-! DEFINITION. Streams and kernels as the other parts see them: marking a kernel's destinations, what serves an address,
peers and their packets, and cancelling a stream (R139, R166, R180, R183-R185, R192, R298). -/

namespace Sys2Proof.Machine
open Sys2Proof

/-! ### Kernels that meet an INVALID mark -/

/-- The output ranges of a kernel (R134). -/
def kernelRanges (k : Kernel) : List (Nat × Nat) := [(k.out0b, k.out0l), (k.out1b, k.out1l)]
/-- The granules that a kernel's early end marks (R139, R171). -/
def kernelDest (x : Tile) (k : Kernel) : List Nat := (kernelRanges k).flatMap (fun r => spread x r.1 r.2)

/-- R139, R140: the running kernel ends before commit with a status; its destinations are marked in this cycle. -/
def endKernel (s : State) (t : TileId) (status : Status) : State :=
  let x := getTile s t
  match x.kernel with
  | none => s
  | some k =>
    if k.ending.isSome then s else
    let y := markGran x (kernelDest x k)
    let s := setTile s t { y with kernel := some { k with ending := some status } }
    setFld s (stAt t) 55 48 (fld s (stAt t) 55 48 ||| k.lamask)

/-- Mark granules INVALID and end every pass and kernel that names them (R121, R122, R171, R192). -/
def invalidateAll (s : State) (t : TileId) (gs : List Nat) : State :=
  let s := invalidate s t gs
  let x := getTile s t
  match x.kernel with
  | some k => if k.ending.isNone && (kernelRanges k).any (fun r => anyInvalid x r.1 r.2) then endKernel s t stInvalidDest else s
  | none => s

/-! ### Where requests go (R297, R298) -/

/-- The number of Shale dies fitted. -/
def shaleCount (s : State) : Nat := s.part.shales
/-- The Shale die that keeps the contexts of a peer device (R357). -/
def shaleOf (s : State) (dev : Nat) : Nat := dev % shaleCount s
/-- The remote-access engine of that die. -/
def engineNode (s : State) (dev : Nat) : BitVec 12 := nodeOf (4 + shaleOf s dev) 1
/-- The CSR endpoint of a die. -/
def csrNode (die : Nat) : BitVec 12 := nodeOf die (if die < 4 then 147 else 0)

/-- R298: the node that serves a device-local address. The configuration-port windows are served at the CSR endpoint of
their die (log 16). -/
def serveNode (s : State) (a : Nat) : BitVec 12 :=
  match classify s.part a with
  | .scratch t _ => BitVec.ofNat 12 (tileNode s t)
  | .csr die _ => csrNode die
  | .cfg die _ _ => csrNode die
  | .unmapped => 0
  | _ => hbmNode s a

/-! ### Peers (R183, R344) -/

/-- The device number in force, or the value that names this device. -/
def ownDev (s : State) : Nat := match s.fabric.dev with | some d => d.toNat | none => 0xFFFFF
/-- DEVICE of a PEER word, 0xF_FFFF resolved to this device. -/
def peerDev (s : State) (w : Word) : Nat := if bits w 63 44 = 0xFFFFF then ownDev s else bits w 63 44
/-- A PEER word with its device resolved. -/
def normPeer (s : State) (w : Word) : Word := setBits w 63 44 (peerDev s w)
/-- The PEER word that names a stream context of this device. -/
def ctxPeer (s : State) (t : TileId) (c : Nat) : Word :=
  BitVec.ofNat 64 (ownDev s * 2 ^ 44 + t.die.val * 2 ^ 40 + t.slot.val * 2 ^ 33 + c * 2 ^ 29)
/-- The PEER word that names a queue controller of this device. -/
def qcPeerWord (s : State) (d : Fin 4) (q : Nat) : Word :=
  BitVec.ofNat 64 (ownDev s * 2 ^ 44 + 2 ^ 42 + d.val * 2 ^ 40 + q * 2 ^ 31)
/-- The stream context that a PEER word names. -/
def peerCtx (w : Word) : Option (TileId × Nat) :=
  if bits w 43 42 = 0 then
    if h : bits w 39 33 < 96 then some (⟨⟨bits w 41 40, by unfold bits bitsN; exact Nat.mod_lt _ (by decide)⟩, ⟨bits w 39 33, h⟩⟩, bits w 32 29)
    else none
  else none
/-- The queue controller that a PEER word names. -/
def peerQc (w : Word) : Option (Fin 4 × Fin 512) :=
  if bits w 43 42 = 1 then some (⟨bits w 41 40, by unfold bits bitsN; exact Nat.mod_lt _ (by decide)⟩, ⟨bits w 39 31, by unfold bits bitsN; exact Nat.mod_lt _ (by decide)⟩) else none

/-- The node of a peer on this device; a queue controller is reached through its region's endpoint (log 16). -/
def peerNode (s : State) (w : Word) : BitVec 12 :=
  match peerCtx w, peerQc w with
  | some (t, _), _ => BitVec.ofNat 12 (tileNode s t)
  | none, some (d, q) => nodeOf d (102 + q.val / 32)
  | none, none => 0

/-- Address a packet of a queue exchange to a peer: on this device to its node, else to the Shale engine that keeps the
peer device's contexts, as a fabric operation (R352). -/
def toPeer (s : State) (w : Word) (p : Packet) : Packet :=
  if peerDev s w = ownDev s then { p with dest := peerNode s w }
  else { p with dest := engineNode s (peerDev s w), fab := true, addr := BitVec.ofNat 64 (peerDev s w * 2 ^ 44) }

/-! ### Streams -/

def seStatAt (t : TileId) (c : Nat) : Nat := seTileAt t (0x100 + 16 * c)
def seBytesAt (t : TileId) (c : Nat) : Nat := seTileAt t (0x108 + 16 * c)

/-- R164. -/
def streamNum (t : TileId) (c : Nat) : Nat := t.slot.val * 16 + c

/-- Keep a stream with its visible counts (R199). -/
def putStream (s : State) (t : TileId) (c : Nat) (st : Stream) : State :=
  let s := modTile s t (fun x => setStream x c (some st))
  let s := setFld s (seStatAt t c) 9 0 st.outst
  wr s (seBytesAt t c) (BitVec.ofNat 64 (min st.poisoned 0xFFFF * 2 ^ 48 + st.bytes % 2 ^ 48))

/-- The stream is running: started, neither committed nor ending. -/
def isRunning (st : Stream) : Bool := st.ending.isNone && !st.committed

/-- Note progress (R194). -/
def progress (s : State) (t : TileId) (st : Stream) : Stream := { st with last := nowNs s t.die }

def isIn (st : Stream) : Bool := st.kind == 0 || st.kind == 2

/-- R180: the run-dry deadline is computed at a start, a release or a WRITTEN event, which is the new t_ref. -/
def setDeadline (st : Stream) (now : Nat) : Stream :=
  { st with tref := now, dline := now + st.bufs.countP (fun b => b.state == (if isIn st then 2 else 3)) * st.period }

/-- Credits of the whole ring (R184). -/
def ringCredits (st : Stream) : Nat := st.nbuf * st.bufsz / 256

/-- R192: a buffer entry is freed and its generation advances. -/
def freeEntry (x : Tile) (e : Nat) : Tile :=
  { x with entryUse := mset false x.entryUse e false, entryGen := mset 0 x.entryGen e ((mget 0 x.entryGen e + 1) % 256) }

/-- Free every buffer entry of a stream. -/
def freeEntries (s : State) (t : TileId) (st : Stream) : State :=
  modTile s t (fun x => st.bufs.foldl (fun x b => freeEntry x b.entry) x)

/-- The free entries of a tile (R166). -/
def freeList (x : Tile) : List Nat := (List.range 256).filter (fun e => !mget false x.entryUse e)

/-- A request packet of a stream engine (R300, R302). -/
def streamPkt (s : State) (t : TileId) (c : Nat) (st : Stream) (tag : Nat) (p : Packet) : Packet :=
  { p with src := BitVec.ofNat 12 (tileNode s t), tag := BitVec.ofNat 10 tag, gen := (getTag s (tileNode s t) tag).gen,
           dlv := true, snum := BitVec.ofNat 11 (streamNum t c), deadline := BitVec.ofNat 64 st.dline }

/-- R184, R185: a packet to the stream's peer: credits, a grant, an end marker. -/
def tellPeer (s : State) (t : TileId) (c : Nat) (st : Stream) (op : Nat) (status credits tag : Nat) : State :=
  let q : QueueData := { producer := if st.kind = 2 then normPeer s st.peer else ctxPeer s t c,
                         consumer := if st.kind = 2 then ctxPeer s t c else normPeer s st.peer,
                         credits := credits, bufsz := st.bufsz, crcOn := st.crc == 1 }
  sendPkt s (toPeer s st.peer (streamPkt s t c st tag
    { op := BitVec.ofNat 8 op, vc := if op = 0x15 then 0 else 1, status := BitVec.ofNat 8 status, qd := q }))

/-- R185: a QOUT stream without a limit that is cancelled after its grant has an end marker to send (log 50). -/
def owesEnd (st : Stream) : Bool := st.kind == 3 && st.nblk == 0 && st.granted && !st.endmark

/-- R192: what a cancelled queue stream tells its peer: a QOUT stream returns its credits; a QIN stream withdraws its grant,
telling the status it ended with (log 18). -/
def cancelPeer (s : State) (t : TileId) (c : Nat) (st : Stream) (status : Status) : State :=
  if st.kind = 3 then (if st.credits = 0 then s else tellPeer s t c st 0x11 stAborted st.credits 0)
  else if st.kind = 2 && st.granted && !st.endmark then tellPeer s t c st 0x13 status 0 0
  else s

/-- R192: a running stream ends with a status: it issues nothing further, its ring is marked INVALID, its entries are
freed, its peer is told. It reports after its last tag has returned, an end marker that it owes included. -/
def cancelStream (s : State) (t : TileId) (c : Nat) (status : Status) : State :=
  match getStream (getTile s t) c with
  | none => s
  | some st =>
    if !isRunning st then s else
    let s := putStream s t c { st with ending := some status, moves := [], endOwed := owesEnd st }
    let s := setFld s (seStatAt t c) 31 29 3
    let s := invalidateAll s t (granules st.base (st.nbuf * st.bufsz))
    let s := freeEntries s t st
    let s := modTile s t (fun x => match getStream x c with
      | some st => setStream x c (some { st with bufs := [] }) | none => x)
    cancelPeer s t c st status

/-- The contexts that a queue's programs may use (R210). -/
def queueCtxs (q : Nat) : List Nat := if q = 0 then List.range 12 else [12, 13, 14, 15]

/-- Every running stream of the program of a queue is cancelled (R212, R219, R226). -/
def cancelQueue (s : State) (t : TileId) (q : Nat) (status : Status) : State :=
  (queueCtxs q).foldl (fun s c => cancelStream s t c status) s

/-! ### Launches -/

def getRun (x : Tile) (q : Nat) : Option Launch := mget none x.run q
def setRun (s : State) (t : TileId) (q : Nat) (l : Option Launch) : State :=
  modTile s t (fun x => { x with run := mset none x.run q l })
def modRun (s : State) (t : TileId) (q : Nat) (f : Launch → Launch) : State :=
  match getRun (getTile s t) q with | some l => setRun s t q (some (f l)) | none => s

/-- The unit does not enter its program's fold (R213, R226, R423). -/
def noFold (s : State) (t : TileId) (q kind seq : Nat) : State :=
  modRun s t q (fun l => { l with live := l.live.map (fun u => if u.kind = kind ∧ u.seq = seq then { u with nofold := true } else u) })

end Sys2Proof.Machine
end

