-- ==== Sys2Proof/Machine/SeqCore.lean ====
section
/-! DEFINITION. The program of a queue as its units and instructions see it: fetching and checking words, the program
counter, units that end, failures and holding (R205, R209, R210, R212, R226). -/

namespace Sys2Proof.Machine
open Sys2Proof

/-! ### Program words (R205, R208-R210) -/

/-- R205: rings, programs and completion queues lie in user HBM or in the carve-out. -/
def inSeqRange (p : Part) (a n : Nat) : Bool :=
  a + n ≤ userEnd p || (fwEnd p ≤ a && a + n ≤ carveEnd p)

/-- The status that refuses a sequencer's access, 0 when it is served: the map (R33, R205), what the network made of it
(`net`, and the paths of R307-R311), the memory ports and channels. -/
def seqStatus (s : State) (t : TileId) (net : Status) (a n : Nat) : Status :=
  if !inSeqRange s.part a n then mapStatus s.part .none a n
  else if net ≠ 0 then net
  else if netStatus s (BitVec.ofNat 12 (tileNode s t)) a n ≠ 0 then netStatus s (BitVec.ofNat 12 (tileNode s t)) a n
  else rangeRefusal s (.sequencer (some t)) a n
/-- The access is served, but not before requests that wait in its place (R323, R325, R328, R338). -/
def seqBusy (s : State) (t : TileId) (net : Status) (a n : Nat) : Bool := seqStatus s t net a n = 0 && !hbmFree s a n

/-- A sequencer's read of 8-byte words: the state with what ECC met, and the words; none when the read completed with a
status other than OK. -/
def seqRead (s : State) (t : TileId) (net : Status) (a n : Nat) : State × Option (List Word) :=
  if seqStatus s t net a (8 * n) ≠ 0 then (s, none)
  else
    let r := hbmRead s a (8 * n)
    if r.2.2 ≠ 0 then (r.1, none)
    else (r.1, some ((List.range n).map (fun i => BitVec.ofNat 64 (leNat ((r.2.1.drop (8 * i)).take 8)))))

/-- Words of an instruction by its opcode (R210). -/
def tpWords (op : Nat) : Nat := if op = 0x21 then 4 else if op = 0x30 then 9 else if op = 0x40 then 2 else 1

/-- A context that a program of the queue may name (R210). -/
def ctxLegal (q c : Nat) : Bool := (c < 12) == (q == 0)

/-- R209: the first word of an instruction, and the second of a SIGNAL, hold no reserved code and no nonzero RSVD field.
The fields of PASS are R100's to check (log 17). -/
def tpLegal (v : Bool) (q : Nat) (ws : List Word) : Bool :=
  let w := ws.headD 0
  let op := bits w 63 56
  let c := ctxLegal q (bits w 55 52)
  if op = 0x10 then c && bits w 51 20 == 0
  else if op = 0x11 then c && bits w 51 49 == 0 && bits w 47 0 == 0
  else if op = 0x12 || op = 0x13 then c && bits w 51 16 == 0
  else if op = 0x14 then c && bits w 51 0 == 0
  else if op = 0x21 then !v
  else if op = 0x22 || op = 0x3F || op = 0x50 then bits w 55 0 == 0
  else if op = 0x30 then v && bits w 55 16 == 0
  else if op = 0x40 then bits w 54 53 ≤ 1 && bits w 52 32 == 0 && bits (ws.getD 1 0) 43 42 == 0 && bits (ws.getD 1 0) 26 0 == 0
  else if op = 0x41 then bits w 55 38 == 0
  else if op = 0x60 then bits w 55 50 == 0 && bits w 49 48 != 3 && bits w 47 0 == 0
  else false

/-- The word at an index of the program is fetched (R209). -/
def tpWord (s : State) (t : TileId) (l : Launch) (i : Nat) : State × Option (List Word) :=
  if l.lrec.plen ≤ i then (s, none) else seqRead s t 0 (l.lrec.prog + 8 * i) 1

/-- Words of the instruction at a program's PC, 1 while its first word cannot be fetched. -/
def tpLen (s : State) (t : TileId) (l : Launch) : Nat :=
  match (tpWord s t l l.pc).2 with | some ws => tpWords (bits (ws.headD 0) 63 56) | none => 1

/-- R209: a word of the instruction at the PC waits for its fetch. -/
def tpBusy (s : State) (t : TileId) (l : Launch) : Bool :=
  (List.range (tpLen s t l)).any (fun i => l.pc + i < l.lrec.plen && seqBusy s t 0 (l.lrec.prog + 8 * (l.pc + i)) 8)

/-- One more word of an instruction, unless an earlier one could not be fetched. -/
def tpMore (t : TileId) (l : Launch) (r : State × Option (List Word)) (i : Nat) : State × Option (List Word) :=
  match r with
  | (s, none) => (s, none)
  | (s, some ws) => match tpWord s t l (l.pc + i) with
    | (s, none) => (s, none)
    | (s, some w) => (s, some (ws ++ w))

/-- The whole instruction at a program's PC, none when R209 ends the program there. -/
def tpFetch (s : State) (t : TileId) (q : Nat) (l : Launch) : State × Option (List Word) :=
  match (List.range (tpLen s t l)).foldl (tpMore t l) (s, some []) with
  | (s, none) => (s, none)
  | (s, some ws) => (s, if tpLegal (isV t) q ws then some ws else none)

/-- R209, R215: the word at which the program ends: the first of the instruction at the PC that lies past PLEN, cannot be
fetched or is not legal. -/
def tpFaultPc (s : State) (t : TileId) (q : Nat) (l : Launch) : Nat :=
  match (List.range (tpLen s t l)).find? (fun i =>
    match (tpWord s t l (l.pc + i)).2 with
    | none => true
    | some ws => i == 0 && !tpLegal (isV t) q (ws ++ [0])) with
  | some i => l.pc + i
  | none => l.pc + (tpLen s t l - 1)

/-! ### Failure (R212) -/

/-- R37, R212: a failure was detected before another, or in the same cycle with a lower code: told of passes by the cycles in
which they ended. -/
def detectedBefore (f g : Failure) : Bool :=
  match f.cycle, g.cycle with
  | some a, some b => a < b || (a == b && f.code < g.code)
  | _, _ => false

/-- R212: the program fails once: it issues nothing further, its running streams are cancelled, a pass that has not
started is withdrawn. -/
def failProgram (s : State) (t : TileId) (q : Nat) (f : Failure) : State :=
  match getRun (getTile s t) q with
  | none => s
  | some l =>
    if l.aborted then s
    else if l.fail.isSome then
      (if l.fail.any (detectedBefore f) then setRun s t q (some { l with fail := some f }) else s)
    else
    let s := setRun s t q (some { l with fail := some f, waiting := false })
    let s := modTile s t (fun x => match x.ready with
      | some r => if r.q = q then { x with ready := none } else x | none => x)
    cancelQueue s t q stAborted

/-- R209: the program ends with PROGRAM_FAULT at a word. -/
def programFault (s : State) (t : TileId) (q pc : Nat) : State :=
  failProgram s t q { code := stProgramFault, kind := 4, ctx := 0, pc, seq := 0 }

/-- The program may issue: fetched, neither ended, failed, aborted, suspended nor held. -/
def canIssue (l : Launch) : Bool := !l.ended && l.fail.isNone && !l.aborted && !l.suspended && !l.held

/-- Set TP_STATE's Qq field: 0 IDLE, 1 RUNNING, 2 SUSPENDED, 3 HELD (R229). -/
def setQState (s : State) (t : TileId) (q v : Nat) : State :=
  if q = 0 then setFld s (tpTileAt t 0x28) 63 62 v else setFld s (tpTileAt t 0x28) 61 60 v

/-- PCq of TP_STATE. -/
def showPc (s : State) (t : TileId) (q pc : Nat) : State :=
  if q = 0 then setFld s (tpTileAt t 0x28) 47 24 pc else setFld s (tpTileAt t 0x28) 23 0 pc

/-- R209: execution reaches a word; the program ends there when the word has a fault. -/
def reach (s : State) (t : TileId) (q : Nat) : State :=
  match getRun (getTile s t) q with
  | none => s
  | some l =>
    if !canIssue l || tpBusy s t l then s else
    match tpFetch s t q l with
    | (s', none) => programFault s' t q (tpFaultPc s t q l)
    | (s, some _) => s

/-- The instruction at the PC has issued: n words further. -/
def advance (s : State) (t : TileId) (q n : Nat) : State :=
  let s := modRun s t q (fun l => { l with pc := l.pc + n, waiting := false })
  match getRun (getTile s t) q with
  | none => s
  | some l => reach (showPc s t q l.pc) t q

/-- R209, R210: when the program of the queue may issue and the word at its PC has the opcode, `f` is done with the
instruction's words; a word with a fault ends the program; else, and while the fetch of a word waits, nothing happens
(log 2). -/
def tpIssue (s : State) (t : TileId) (q : Nat) (op : Nat) (f : State → Launch → List Word → State) : State :=
  match getRun (getTile s t) q with
  | none => s
  | some l =>
    if !canIssue l || tpBusy s t l then s else
    match tpFetch s t q l with
    | (s', none) => programFault s' t q (tpFaultPc s t q l)
    | (s', some ws) => if bits (ws.headD 0) 63 56 = op then f s' l ws else s

/-- The instruction waits (R211). -/
def waitHere (s : State) (t : TileId) (q : Nat) : State := modRun s t q (fun l => { l with waiting := true })
/-- Issue when the condition holds, else wait. -/
def issueWhen (c : Bool) (s : State) (t : TileId) (q : Nat) (f : State → State) : State := if c then f s else waitHere s t q

/-! ### Units (R212) -/

/-- A unit has been issued. -/
def addUnit (s : State) (t : TileId) (q : Nat) (u : UnitRec) : State :=
  modRun s t q (fun l => { l with live := l.live ++ [u] })

/-- What a unit reports: status, flags, whether it committed, and for a stream its bytes and poisoned granules, for a
kernel s12-s15. -/
structure Report where
  status    : Status
  flags     : Nat := 0
  committed : Bool := false
  bytes     : Nat := 0
  poisoned  : Nat := 0
  kout      : Option (List Word) := none
  /-- of a pass: the cycle in which it ended. -/
  cycle     : Option Nat := none
  deriving DecidableEq, Repr

/-- R212, R213, R215: a unit's report enters its program's fold; a failing status fails the program. TILE_FAULT follows
R226 instead. -/
def unitEnded (s : State) (t : TileId) (q kind seq : Nat) (r : Report) : State :=
  match getRun (getTile s t) q with
  | none => s
  | some l =>
    match l.live.find? (fun u => u.kind == kind && u.seq == seq) with
    | none => s
    | some u =>
      let l := { l with
        live := l.live.filter (fun u => !(u.kind == kind && u.seq == seq)),
        bytes := l.bytes + (if kind = 3 then r.bytes else 0),
        poisoned := min 0xFFFF (l.poisoned + (if kind = 3 then r.poisoned else 0)),
        streams := l.streams + (if kind = 3 ∧ r.committed then 1 else 0),
        units := l.units + (if kind ≤ 2 ∧ r.committed then 1 else 0),
        flags := l.flags ||| (if r.committed then r.flags else 0),
        kout := r.kout.getD l.kout,
        takeover := l.takeover || (!u.nofold && r.status == stTwinTakeover) }
      let s := setRun s t q (some l)
      if u.nofold || r.status == stOk || r.status == stTwinTakeover || r.status == stTileFault then s
      else failProgram s t q { code := r.status, kind := if kind = 4 then 4 else kind, ctx := u.ctx, pc := u.pc,
                               seq := if kind = 4 then 0 else seq, cycle := r.cycle }

/-! ### Tile faults (R125, R160, R226) -/

/-- R226: steps 1 to 3 for the program of a queue: every other started pass aborted, every running stream cancelled,
neither entering the fold, and the program held. A third fault of a checkpoint interval makes the launch commit with
TILE_FAULT. -/
def holdProgram (s : State) (t : TileId) (q kind seq : Nat) : State :=
  match getRun (getTile s t) q with
  | none => s
  | some l =>
    let x := getTile s t
    let pc := ((l.live.find? (fun u => u.kind == kind && u.seq == seq)).map (·.pc)).getD l.pc
    let f : Failure := { code := stTileFault, kind, ctx := 0, pc, seq }
    let s := modRun s t q (fun l => { l with live := l.live.map (fun u => if u.kind = 4 then u else { u with nofold := true }),
                                             faults := l.faults + 1, held := true, moved := false, heldBy := some f, waiting := false })
    let s := (x.passes.filter (fun p => p.q == q && p.ending.isNone)).foldl
      (fun s p => abortPass s t p.seq stAborted true) s
    let s := cancelQueue s t q stAborted
    let s := modTile s t (fun x => match x.ready with
      | some r => if r.q = q then { x with ready := none } else x | none => x)
    if 2 ≤ l.faults then
      failProgram (modRun s t q (fun l => { l with held := false })) t q f
    else setQState s t q 3

/-- R125, R160: a fault ends a pass or kernel with TILE_FAULT (`endIt` marks its destinations): the weight tag is
cleared, the program held, the event raised. -/
def tileFault (s : State) (t : TileId) (q kind seq : Nat) (endIt : State → State) : State :=
  let s := endIt s
  let s := modTile s t (fun x => { x with wtag := none })
  let s := if isV t then s else setFlag s (stAt t) 56 false
  let s := holdProgram s t q kind seq
  tileFaultEvent s t seq stTileFault

/-- Remember the outcome of a sequence number (R120, R218): the most recent 256. -/
def noteOutcome (x : Tile) (seq : Nat) (status : Status) : Tile :=
  { x with outcomes := ((seq, status) :: x.outcomes).take 256 }

end Sys2Proof.Machine
end

