-- ==== Sys2Proof/Machine/StreamRun.lean ====
section
/-! DEFINITION. The life of a stream: the start checks, buffers that fill, drain and are released, check values, the
commit point, grants (R166-R173, R180, R184, R185, R187-R190, R196, R197). -/

namespace Sys2Proof.Machine
open Sys2Proof

/-! ### Start checks (R167, R172, R173, R200) -/

/-- R29: the mapped ranges of a window. -/
def windowRanges (v : Bool) : List (Nat × Nat) :=
  if v then [(0, 0x100000), (0x100000, 0x110000)] else [(0, 0x400000), (0x400000, 0x700000)]
/-- n bytes at a lie wholly within one mapped range. -/
def inWindow (v : Bool) (a n : Nat) : Bool := (windowRanges v).any (fun r => r.1 ≤ a && a + n ≤ r.2)

/-- R167: where the ring of a stream may lie. -/
def ringOk (v : Bool) (kind release base n : Nat) : Bool :=
  if v then base + n ≤ 0x100000 || (kind == 0 && 0x100000 ≤ base && base + n ≤ 0x110000)
  else base + n ≤ 0x400000 || (kind == 1 && release == 1 && 0x400000 ≤ base && base + n ≤ 0x700000)

/-- R173, R174: an instruction word with a known opcode, no reserved code and zero RSVD fields. -/
def seWordOk (w : Word) : Bool :=
  let op := bits w 63 56
  if op = 0x01 || op = 0x03 then bits w 52 48 == 0
  else if op = 0x02 then bits w 52 16 == 0
  else if op = 0x04 then bits w 49 0 == 0
  else if op = 0x08 then bits w 23 0 == 0
  else if op = 0x09 then bits w 53 0 == 0
  else if op = 0x10 then bits w 39 0 == 0
  else if op = 0x11 then bits w 7 0 == 0 && bits w 49 48 != 3
  else if op = 0x20 || op = 0x21 || op = 0x3F then bits w 55 0 == 0
  else false

/-- R173: FOR and NEXT matched, at most four deep, each NEXT naming the innermost open level, no level opened twice. -/
def loopsOk : List Nat → List Word → Bool
  | [], [] => true
  | _ :: _, [] => false
  | op, w :: r =>
    if bits w 63 56 = 0x08 then !op.contains (bits w 55 54) && op.length < 4 && loopsOk (bits w 55 54 :: op) r
    else if bits w 63 56 = 0x09 then
      match op with
      | [] => false
      | l :: o => l == bits w 55 54 && loopsOk o r
    else loopsOk op r

/-- R173: the last word is END and END appears only there. -/
def endOk (ws : List Word) : Bool :=
  (ws.getLast?.map (fun w => bits w 63 56)) == some 0x3F && ws.dropLast.all (fun w => bits w 63 56 != 0x3F)

/-- R183: a PEER word with no reserved TYPE, no nonzero RSVD field, and a slot that exists. -/
def peerOk (w : Word) : Bool :=
  (bits w 43 42 == 0 && bits w 28 0 == 0 && bits w 39 33 < 96) || (bits w 43 42 == 1 && bits w 30 0 == 0)

/-- The window word at an offset. -/
def tWordAt (x : Tile) (a : Nat) : Word := BitVec.ofNat 64 (tWord x a)

/-- A stream from its header and program in the window at an offset, none when R167, R172, R173 or R200 refuses it. -/
def parseStream (x : Tile) (v : Bool) (q pc off : Nat) : Option Stream :=
  if !inWindow v off 32 then none else
  let w0 := tWordAt x off; let w1 := tWordAt x (off + 8); let w2 := tWordAt x (off + 16); let w3 := tWordAt x (off + 24)
  let kind := bits w0 63 60; let release := bits w0 59 58; let crc := bits w0 57 56
  let nbuf := bits w0 55 50 + 1; let bs := bits w0 49 35; let base := bits w0 34 18 * 64; let period := bits w0 17 0
  let len := bits w1 63 58; let outmax := bits w1 57 48; let resv := bits w1 47 32; let nblk := bits w1 31 0
  let queue := kind = 2 ∨ kind = 3
  let prog := (List.range len).map (fun i => tWordAt x (off + 32 + 8 * i))
  let ok : Bool :=
    decide (kind ≤ 3) && decide (release ≤ 1) && decide (crc ≤ 1) && decide (1 ≤ bs ∧ bs ≤ 16384) && decide (1 ≤ period)
    && decide (1 ≤ len ∧ len ≤ 60) && decide (1 ≤ outmax ∧ outmax ≤ 512)
    && (if kind = 3 then decide (1 ≤ resv ∧ resv ≤ 4096) else resv == 0 && nblk == 0)
    && (if queue then w2 == 0 && peerOk w3
        else if crc = 1 then bits w3 62 0 == 0 && (bit w3 63 || bits w2 63 48 == 0) else w2 == 0 && w3 == 0)
    && inWindow v off (32 + 8 * len) && prog.all seWordOk && loopsOk [] prog && endOk prog
    && ringOk v kind release base (nbuf * bs * 64)
    && (!decide queue || (len == 1 && bs % 4 == 0))
  if ok then some {
    seq := x.streamSeq, q, tpc := pc, kind, release, crc, nbuf, bufsz := bs * 64, base, period, outmax, resv, nblk,
    crcaddr := w2.toNat, crcfab := bit w3 63, peer := if queue then w3 else 0, prog }
  else none

/-- R166: the ring overlaps a buffer of another stream. -/
def ringTaken (x : Tile) (base n : Nat) : Bool := !(bufsOver x base n).isEmpty

/-- R166: the ring's buffers, one entry each. -/
def makeBufs (x : Tile) (st : Stream) : List Buf :=
  ((freeList x).take st.nbuf).zipIdx.map (fun e =>
    { entry := e.1, gen := mget 0 x.entryGen e.1, state := if isIn st then 0 else 3, idx := e.2, size := st.bufsz })

/-- R171: a stream start clears the marks of its ring. -/
def clearMarks (x : Tile) (gs : List Nat) : Tile := { x with invalid := gs.foldl (fun m g => mset false m g false) x.invalid }

/-! ### Grants (R184) -/

/-- R184: what a reservation request meets at a running stream: a status that ends the producer, `some` credits granted,
or a hold. -/
def resvVerdict (s : State) (st : Stream) (q : QueueData) : Status × Option Nat :=
  if st.kind ≠ 2 || normPeer s q.producer ≠ normPeer s st.peer || ringCredits st < q.credits
      || q.crcOn ≠ (st.crc == 1) || (q.crcOn && q.bufsz ≠ st.bufsz) then (stPeerMismatch, none)
  else if st.credits + q.credits ≤ ringCredits st then (stOk, some q.credits)
  else (stOk, none)

/-- R184: a request that a context holds is granted, or its producer ends with PEER_MISMATCH, once the stream that runs
there decides it. -/
def tryGrant (s : State) (t : TileId) (c : Nat) : State :=
  let x := getTile s t
  match mget none x.heldResv c, getStream x c with
  | some p, some st =>
    if !isRunning st then s else
    let drop (s : State) : State := modTile s t (fun x => { x with heldResv := mset none x.heldResv c none })
    match resvVerdict s st p.qd with
    | (0, some n) =>
      let st := progress s t { st with credits := st.credits + n, granted := true }
      tellPeer (putStream (drop s) t c st) t c st 0x13 stOk n 0
    | (0, none) => s
    | (e, _) => tellPeer (drop s) t c { st with peer := p.qd.producer, kind := 2 } 0x13 e 0 0
  | _, _ => s

/-! ### Buffers (R168, R170) -/

def setBuf (st : Stream) (p : Nat) (b : Buf) : Stream := { st with bufs := st.bufs.set p b }

/-- The buffer that byte position n of the stream lies in: ring position and buffer, when the ring position is now that
buffer sequence index (R175). -/
def bufOf (st : Stream) (n : Nat) : Option (Nat × Buf) :=
  let i := n / st.bufsz
  match st.bufs[i % st.nbuf]? with
  | some b => if b.idx = i then some (i % st.nbuf, b) else none
  | none => none

/-- First window offset of a ring position. -/
def bufOff (st : Stream) (p : Nat) : Nat := st.base + p * st.bufsz

/-- A released buffer (R168, R170). -/
def emptied (st : Stream) (b : Buf) : Buf :=
  { entry := b.entry, gen := b.gen, state := 0, idx := b.idx + st.nbuf, size := st.bufsz }
/-- A drained buffer (R168). -/
def drained (st : Stream) (b : Buf) : Buf :=
  { entry := b.entry, gen := b.gen, state := 3, idx := b.idx + st.nbuf, size := st.bufsz }

/-- The context's stream has gone: it is IDLE and its entries are free (R187). -/
def dropStream (s : State) (t : TileId) (c : Nat) (st : Stream) : State :=
  let s := freeEntries s t st
  let s := modTile s t (fun x => setStream x c none)
  setFld (setFld s (seStatAt t c) 31 29 0) (seStatAt t c) 9 0 0

/-- R168, R170, R180, R185: release the buffers at ring positions; a QIN stream returns their credits; a committed
stream that holds no buffer any more leaves its context IDLE. -/
def releaseBufs (s : State) (t : TileId) (c : Nat) (ps : List Nat) : State :=
  match getStream (getTile s t) c with
  | none => s
  | some st =>
    if ps.isEmpty then s else
    let st := progress s t (setDeadline { st with
      bufs := st.bufs.zipIdx.map (fun e => if ps.contains e.2 then emptied st e.1 else e.1) } (nowNs s t.die))
    let s := putStream s t c st
    let s := if st.kind = 2 then tellPeer s t c st 0x11 stOk (ps.length * (st.bufsz / 256)) 0 else s
    if st.committed && st.bufs.all (fun b => b.state != 2) then dropStream s t c st else s

/-- R168, R170: RESERVED buffers at ring positions become WRITTEN. -/
def markWritten (s : State) (t : TileId) (c : Nat) (ps : List Nat) : State :=
  match getStream (getTile s t) c with
  | none => s
  | some st =>
    if ps.isEmpty then s else
    putStream s t c (progress s t (setDeadline { st with
      bufs := st.bufs.zipIdx.map (fun e => if ps.contains e.2 && e.1.state == 3 then { e.1 with state := 4 } else e.1) }
      (nowNs s t.die)))

/-- A started pass holds a byte of a range (R114, R168). -/
def passHolds (x : Tile) (a n : Nat) : Bool :=
  x.passes.any (fun p => (inRanges p.ins p.loadW).any (fun r => overlaps r.1 r.2 a n))

/-- R170 (AUTO): ring positions of FULL buffers that a pass has held and none holds any longer. -/
def autoFree (x : Tile) (st : Stream) : List Nat :=
  if st.release ≠ 0 || !isIn st then [] else
  (List.range st.bufs.length).filter (fun p => match st.bufs[p]? with
    | some b => b.state == 2 && b.held && !passHolds x (bufOff st p) st.bufsz
    | none => false)

/-- R170: after a pass has ended, AUTO buffers that nothing holds are released. -/
def autoRelease (s : State) (t : TileId) : State :=
  (List.range 16).foldl (fun s c => match getStream (getTile s t) c with
    | some st => releaseBufs s t c (autoFree (getTile s t) st)
    | none => s) s

/-- R170: when a pass or kernel commits, AUTO output buffers that it names become WRITTEN. -/
def autoWritten (s : State) (t : TileId) (rs : List (Nat × Nat)) : State :=
  (List.range 16).foldl (fun s c => match getStream (getTile s t) c with
    | some st =>
      if st.release = 0 && !isIn st then
        markWritten s t c ((List.range st.bufs.length).filter (fun p => match st.bufs[p]? with
          | some b => b.state == 3 && rs.any (fun r => overlaps r.1 r.2 (bufOff st p) st.bufsz)
          | none => false))
      else s
    | none => s) s

/-- R168: a started pass holds the FULL buffers that it names. -/
def holdBufs (x : Tile) (rs : List (Nat × Nat)) : Tile :=
  (bufsOver0 rs x).foldl (fun x b => match getStream x b.ctx with
    | some st => setStream x b.ctx (some (setBuf st b.pos { b.buf with held := true }))
    | none => x) x
where
  /-- FULL buffers that the ranges touch. -/
  bufsOver0 (rs : List (Nat × Nat)) (x : Tile) : List BufRef :=
    (allBufs x).filter (fun b => b.buf.state == 2 && isIn b.st && rs.any (fun r => overlaps r.1 r.2 b.off b.len))

/-! ### The commit point (R187) -/

/-- R189, R190, R37: the first of the two conditions that a stream carries on with. -/
def soft (st : Stream) (e : Status) : Stream := { st with soft := if st.soft = 0 then e else st.soft }

/-- R187: the last obligation has been met: every buffer FULL, every write acknowledged, every push credited. -/
def obligationsMet (st : Stream) : Bool :=
  isRunning st &&
  (if st.kind = 0 then st.ended && st.moves.isEmpty && st.bufs.all (fun b => b.state != 1)
   else if st.kind = 1 then st.ended && st.moves.isEmpty && st.outst == 0 && st.bufs.all (fun b => b.state != 5)
   else if st.kind = 2 then st.endmark && st.bufs.all (fun b => b.state != 1)
   else st.endmark && st.uncredited == 0)

/-- R187: commit: decide the outcome, report it once, keep the FULL buffers of an IN or QIN stream. -/
def tryCommit (s : State) (t : TileId) (c : Nat) : State :=
  match getStream (getTile s t) c with
  | none => s
  | some st =>
    if !obligationsMet st then s else
    let s := setFld s (seStatAt t c) 20 13 st.soft
    let s := if isIn st && st.bufs.any (fun b => b.state == 2) then
        setFld (putStream s t c { st with committed := true }) (seStatAt t c) 31 29 2
      else dropStream s t c st
    unitEnded s t st.q 3 st.seq { status := st.soft, committed := true, bytes := st.bytes, poisoned := st.poisoned }

/-! ### Check values (R196, R197) -/

/-- R196: the check value of a buffer: the bytes past its size count as zero. -/
def bufCheck (x : Tile) (st : Stream) (p : Nat) (b : Buf) : Nat :=
  crc32c 0 (tBytes x (bufOff st p) b.size ++ List.replicate (st.bufsz - b.size) 0)

/-- R168, R196, R197: an IN or QIN buffer whose bytes are all in place becomes FULL; with CRC on it waits for its value,
and a mismatch ends the stream; a poisoned buffer is not compared. -/
def fillCheck (s : State) (t : TileId) (c p : Nat) : State :=
  let x := getTile s t
  match getStream x c with
  | none => s
  | some st =>
    match st.bufs[p]? with
    | none => s
    | some b =>
      if b.state ≠ 1 || b.got < st.bufsz then s
      else if st.crc = 1 && !b.poisoned then
        match b.crc with
        | none => s
        | some v =>
          if v = bufCheck x st p b then
            tryCommit (putStream s t c (progress s t (setBuf st p { b with state := 2 }))) t c
          else cancelStream s t c stCheckMismatch
      else tryCommit (putStream s t c (progress s t (setBuf st p { b with state := 2 }))) t c

/-- R168, R196: an OUT buffer all of whose writes have been acknowledged, that of its check value included, is RESERVED
again. -/
def drainCheck (s : State) (t : TileId) (c p : Nat) : State :=
  match getStream (getTile s t) c with
  | none => s
  | some st =>
    match st.bufs[p]? with
    | none => s
    | some b =>
      if b.state = 5 && b.size ≤ b.got && (st.crc = 0 || b.crcGot = 4) then
        tryCommit (putStream s t c (progress s t (setBuf st p (drained st b)))) t c
      else tryCommit s t c

/-- R168: the QOUT buffers every push of which has been credited are RESERVED again; credits return in the order of the
pushes. -/
def drainCredited (st : Stream) : Stream :=
  { st with bufs := st.bufs.map (fun b =>
      if b.state = 5 ∧ (b.idx + 1) * st.bufsz + 256 * st.uncredited ≤ st.pos then drained st b else b) }

/-- R176: close the current buffer at a position that is not a boundary: an IN or QIN buffer is filled with zero bytes,
an OUT buffer is drained only up to the position. -/
def closeBuf (s : State) (t : TileId) (c n : Nat) : State :=
  match getStream (getTile s t) c with
  | none => s
  | some st =>
    if n % st.bufsz = 0 then s else
    match bufOf st n with
    | none => s
    | some (p, b) =>
      let k := n % st.bufsz
      if isIn st then
        let s := modTile s t (fun x => tStore x (bufOff st p + k) (List.replicate (st.bufsz - k) 0))
        let s := putStream s t c (setBuf st p { b with got := b.got + (st.bufsz - k) })
        fillCheck s t c p
      else drainCheck (putStream s t c (setBuf st p { b with size := k })) t c p

end Sys2Proof.Machine
end

