-- ==== Sys2Proof/Machine/Pass.lean ====
section
/-! DEFINITION. Matrix tiles: the pass instruction, its checks and readiness, weights, the array cycle by cycle, commit,
abort and the accumulator-set registers (R70-R87, R96-R127). -/

namespace Sys2Proof.Machine
open Sys2Proof

/-! ### The instruction (R99-R101) -/

/-- R99: the fields of the four words. -/
def parsePass (ws : List Word) : PassInstr :=
  let w0 := ws.getD 0 0; let w1 := ws.getD 1 0; let w2 := ws.getD 2 0; let w3 := ws.getD 3 0
  { mode := bits w0 55 53, dir := bit w0 52, wmode := bits w0 51 50, init := bits w0 49 48, dscr := bit w0 47, dacc := bit w0 46,
    accset := bits w0 45 42, accrow := bits w0 41 30, slice := bits w0 29 24, ofmt := bits w0 23 21,
    oscale := sextN 10 (bits w0 20 11), m := bits w1 63 52 + 1, k := bits w1 51 42, n := bits w1 41 35 + 1,
    wbase := bits w1 34 19, wscl := bits w1 18 0, xbase := bits w2 63 48, xscl := bits w2 47 29, bbase := bits w2 28 13,
    obase := bits w3 63 48, oscl := bits w3 47 29, rsvd := bits w0 10 0 + bits w2 12 0 + bits w3 28 0 }

/-- R98: the digits that SLICE selects. -/
def sliceW (i : PassInstr) : Nat := i.slice / 8
def sliceX (i : PassInstr) : Nat := i.slice % 8

/-- R114: the weight tag of a pass. -/
def tagOf (i : PassInstr) (inx : Bool) : WTag :=
  { wbase := i.wbase, wscl := i.wscl, mode := i.mode, k := i.k, n := i.n, digit := sliceW i, inx }
/-- R114: WMODE is KEEP and the array holds these weights. -/
def keeps (x : Tile) (i : PassInstr) : Bool :=
  i.wmode == 2 && (match x.wtag with | some g => decide (g = tagOf i g.inx) | none => false)
/-- The pass is to load weights (R100, R114, R115). -/
def loadsW (x : Tile) (i : PassInstr) : Bool := i.k != 0 && !keeps x i

/-- R100: the pass is refused. -/
def passRefused (i : PassInstr) (loadW : Bool) : Bool :=
  5 ≤ i.mode || i.wmode == 3 || i.init == 3 || (i.dscr && 5 ≤ i.ofmt) || (!i.dscr && !i.dacc) || modeK i.mode < i.k
  || (i.mode ≤ 2 && i.slice != 0) || (i.mode == 3 && (1 < sliceW i || 1 < sliceX i))
  || (i.mode == 4 && sliceW i + sliceX i < 7) || (i.mode == 4 && i.init == 1)
  || (i.dir && 4096 < cyc i * i.m) || i.rsvd != 0
  || (inRanges i loadW ++ oRanges i).any (fun r => r.2 != 0 && 0x400000 < r.1 + r.2)
  || (oRanges i).any (fun o => (inRanges i loadW).any (fun r => overlaps o.1 o.2 r.1 r.2))

/-- Rows per vector (R99, R109). -/
def rowsPer (i : PassInstr) (pair : Bool) : Nat := if pair then 2 else cyc i

/-- R101: the pass ends with INVALID_DEST without starting. -/
def passInvalid (s : State) (t : TileId) (i : PassInstr) (loadW : Bool) : Bool :=
  let a := accAt t i.accset
  let pair := flag s a 61
  !flag s a 63 || (pair && i.mode ≤ 3) || (!pair && i.mode == 4)
  || (namesSet i && (flag s a 62 || (pair && i.accrow % 2 == 1) || fld s a 38 26 < i.accrow + i.m * rowsPer i pair))
  || (inRanges i loadW ++ oRanges i).any (fun r => anyInvalid (getTile s t) r.1 r.2)

/-- The status that ends a pass before it starts: 0 when none does; the lower code when both rules end it (R37). -/
def passVerdict (s : State) (t : TileId) (i : PassInstr) : Status :=
  let l := loadsW (getTile s t) i
  if passInvalid s t i l then stInvalidDest else if passRefused i l then stPassRefused else 0

/-- R114: every byte that the pass names is resident or reserved. -/
def passResident (x : Tile) (i : PassInstr) : Bool :=
  (inRanges i (loadsW x i)).all (fun r => residentIn x r.1 r.2) && (oRanges i).all (fun r => reservedOut x r.1 r.2)

/-! ### Sequence numbers and reports (R113, R119-R121) -/

/-- NEXT of MT_SEQ or VT_SEQ. -/
def nextSeq (s : State) (t : TileId) : Nat := fld s (seqAt t) 63 32
def takeSeq (s : State) (t : TileId) : State := incFld s (seqAt t) 63 32

/-- The tile's record of a unit that ended with a status: LAST_STATUS and the counts of MT_COUNT or VT_COUNT. -/
def countEnd (s : State) (t : TileId) (seq : Nat) (status : Status) (committed : Bool) : State :=
  let s := modTile s t (fun x => noteOutcome x seq status)
  let s := setFld s (stAt t) 7 0 status
  if committed then incFld (setFld s (seqAt t) 31 0 seq) (cntAt t) 63 32
  else if status = stAborted then incFld s (cntAt t) 31 16
  else if status = stTileFault then incFld s (cntAt t) 15 0
  else s

/-- R100, R101, R122: a pass that never starts receives a number and reports once. -/
def refusePass (s : State) (t : TileId) (q pc : Nat) (status : Status) : State :=
  let seq := nextSeq s t
  let s := takeSeq s t
  let s := modTile s t (fun x => { x with ready := none })
  let s := addUnit s t q { kind := 1, seq, ctx := 0, pc }
  let s := countEnd s t seq status false
  advance (unitEnded s t q 1 seq { status, cycle := some (getTile s t).cycle }) t q 4

/-! ### Weights and operands (R78-R83, R97, R102, R103) -/

/-- R78, R79, R82, R83: an operand element as the array takes it: a NaR tag, or its digit with the scale of a product
of it; and whether R82 rounded. -/
def operandElem (f digit : Nat) (rdb : ByteAt) (base sbase i : Nat) : Elem × Bool :=
  match blockScale rdb f sbase (i / 32) with
  | none => ({ nar := true }, false)
  | some e =>
    let c := codeAt rdb f base i
    if c = narCode f then ({ nar := true }, false)
    else if f = 4 then
      let m := qpNormal (pairInt c (loAt rdb base i)) e
      ({ c := qpDigits m.1 digit, e := m.2.1 }, m.2.2)
    else if f = 2 then ({ c := q16Digit c digit, e }, false)
    else ({ c, e }, false)

/-- Element (k, n) of the weights (R102). -/
def weightAt (rdb : ByteAt) (i : PassInstr) (k n : Nat) : Elem × Bool :=
  operandElem (modeW i.mode) (sliceW i) rdb (i.wbase * 64) (i.wscl * 8) ((n * cdiv i.k 32) * 32 + k)

/-- R114: the weights a pass loads: elements, block scales as stored, and whether R82 rounded one. -/
def loadWeights (rdb : ByteAt) (i : PassInstr) : SMap Elem × SMap Nat × Bool :=
  let sw := if modeW i.mode = 4 then 2 else 1
  let ks := (List.range i.n).flatMap (fun n => (List.range i.k).map (fun k => (k, n)))
  let ws := ks.foldl (fun m e => mset {} m (128 * e.1 + e.2) (weightAt rdb i e.1 e.2).1) []
  let sc := (List.range i.n).foldl (fun m n => (List.range (cdiv i.k 32)).foldl (fun m b =>
    mset 0 m (16 * n + b) (numAt rdb (i.wscl * 8 + sw * (n * cdiv i.k 32 + b)) sw)) m) []
  (ws, sc, ks.any (fun e => (weightAt rdb i e.1 e.2).2))

/-- R126: a byte of the weights or their scales carries poison. -/
def weightPoison (x : Tile) (i : PassInstr) : Bool := (wRanges i).any (fun r => anyPoison x.mem r.1 r.2)

/-- Element r of activation vector j (R102). -/
def actAt (rdb : ByteAt) (i : PassInstr) (j r : Nat) : Elem × Bool :=
  operandElem (modeX i.mode) (sliceX i) rdb (i.xbase * 64) (i.xscl * 8) ((j * cdiv (redLen i) 32) * 32 + r)

/-- The bytes of vector j with its block scales (R126). -/
def vectorRanges (i : PassInstr) (j : Nat) : List (Nat × Nat) :=
  let f := modeX i.mode; let nb := cdiv (redLen i) 32 * 32
  [(i.xbase * 64 + planeBytes f (j * nb), planeBytes f nb), (i.xscl * 8 + scaleBytes f (j * nb), scaleBytes f nb)]

/-! ### Terms and columns (R70-R74, R85, R117) -/

/-- The scale that terms are aligned to, and the bound of an aligned term (R72, R85). -/
def termScale (mode : Nat) (ctx : Int) : Int := if mode = 4 then ctx - 47 else ctx
def termLim (mode : Nat) : Int := if mode = 4 then pairLim else a48Max

/-- R71, R72: one aligned term. -/
def term (i : PassInstr) (ctx : Int) (w a : Elem) : Option Int × Nat :=
  if w.nar || a.nar then (none, fNar)
  else
    let r := alignTerm (termLim i.mode) (w.c * a.c)
      (w.e + a.e + (if 3 ≤ i.mode then 8 * ((sliceW i + sliceX i : Nat) : Int) else 0)) (termScale i.mode ctx)
    (some r.1, r.2)

/-- The summed terms of output l from a vector's elements (R70, R117). -/
def outputTerms (x : Tile) (i : PassInstr) (ctx : Int) (v : List Elem) (l : Nat) : Option Int × Nat :=
  sumTerms (v.zipIdx.map (fun a =>
    term i ctx (mget {} x.weights (if i.dir then 128 * l + a.2 else 128 * a.2 + l)) a.1))

/-- Outputs of row r of a vector: first output and how many (R105). -/
def rowOuts (i : PassInstr) (r : Nat) : Nat × Nat := (128 * r, min 128 (outLen i - 128 * r))

/-- Context scale of the set that a pass names. -/
def ctxScale (s : State) (t : TileId) (i : PassInstr) : Int := sextN 10 (fld s (accAt t i.accset) 60 51)

/-- R116: vector j is read: its rows of summed terms, and the INX that R82 raised for it. -/
def readVector (s : State) (t : TileId) (i : PassInstr) (j : Nat) : List (Nat × List (Option Int × Nat)) × Nat :=
  let x := getTile s t
  let es := (List.range (redLen i)).map (actAt (memByte x.mem) i j)
  let v := es.map (·.1)
  let ctx := ctxScale s t i
  ((List.range (cyc i)).map (fun r =>
      let o := rowOuts i r
      (cyc i * j + r, (List.range o.2).map (fun n => outputTerms x i ctx v (o.1 + n)))),
    fl (es.any (·.2)) fInx)

/-- Window offset of column c of row r of a set (R104). -/
def accCell (s : State) (t : TileId) (set r c : Nat) : Nat := 0x400000 + (fld s (accAt t set) 50 39 + r) * 768 + c * 6
/-- The A48 code at a window offset; none is NaR. -/
def a48At (x : Tile) (a : Nat) : Option Int :=
  let c := sextN 48 (numAt (memByte x.mem) a 6)
  if c = a48Nar then none else some c

/-- First accumulator row of output row ri (R105). -/
def accRow (i : PassInstr) (ri : Nat) : Nat := i.accrow + (if i.mode = 4 then 2 * ri else ri)

/-- R70, R85: the initial value of output l (column c of its row); a pair's is T. -/
def initOf (s : State) (t : TileId) (i : PassInstr) (ri l c : Nat) : Option Int :=
  let x := getTile s t
  if i.init = 0 then some 0
  else if i.init = 1 then a48At x (i.bbase * 64 + 6 * l)
  else if i.mode = 4 then
    match a48At x (accCell s t i.accset (accRow i ri) c) with
    | none => none
    | some hi => some (shl hi 47 + sextN 48 (numAt (memByte x.mem) (accCell s t i.accset (accRow i ri + 1) c) 6))
  else a48At x (accCell s t i.accset (accRow i ri) c)

/-- The bytes that the drain reads for a row: bias values or kept rows (R126). -/
def initRanges (s : State) (t : TileId) (i : PassInstr) (ri : Nat) : List (Nat × Nat) :=
  let o := rowOuts i (ri % cyc i)
  if i.init = 1 then [(i.bbase * 64 + 6 * o.1, 6 * o.2)]
  else if i.init = 2 then
    (accCell s t i.accset (accRow i ri) 0, 6 * o.2) ::
      (if i.mode = 4 then [(accCell s t i.accset (accRow i ri + 1) 0, 6 * o.2)] else [])
  else []

/-- R126, R111: a byte of the ranges carries poison, or lies in an uncorrectable accumulator word. -/
def rangesPoison (x : Tile) (rs : List (Nat × Nat)) : Bool := rs.any (fun r => anyPoison x.mem r.1 r.2 || anyAccUe x r.1 r.2)

/-- A drained column: the accumulator words (one, or hi and lo), the value for conversion, flags (R73, R74, R85). -/
def drainColumn (i : PassInstr) (ctx : Int) (init : Option Int) (ts : Option Int × Nat) : List Int × Src × Nat :=
  if i.mode = 4 then
    let r := pairColumn init ts
    match r.1 with
    | none => ([a48Nar, 0], .nar, r.2)
    | some p => ([p.1, p.2], .fin (shl p.1 47 + p.2) (ctx - 47) false, r.2)
  else
    let r := column init ts
    match r.1 with
    | none => ([a48Nar], .nar, r.2)
    | some c => ([c], .fin c ctx false, r.2)

/-- R102, R105: store the accumulator row or rows of an output row. -/
def storeAcc (s : State) (t : TileId) (i : PassInstr) (ri : Nat) (cols : List (List Int)) : State :=
  let row (s : State) (k : Nat) : State := modTile s t (fun x =>
    tStore x (accCell s t i.accset (accRow i ri + k) 0) (cols.flatMap (fun c => leBytes 6 (codeN 48 (c.getD k 0)))))
  if i.mode = 4 then row (row s 0) 1 else row s 0

/-- R58-R63, R76, R102: convert and store a row's outputs to scratch; the flags of the conversion. -/
def storeScr (s : State) (t : TileId) (i : PassInstr) (ri : Nat) (vals : List Src) : State × Nat :=
  let f := ofmtCode i.ofmt
  let v := ri / cyc i; let o := (rowOuts i (ri % cyc i)).1
  let r := putElems f false i.oscale 0 vals
  let e := i.obase * 64 + v * oStride i + planeBytes f o
  let pad := if f = 3 && o + vals.length = outLen i then List.replicate (oStride i - 6 * outLen i) 0 else []
  let s := modTile s t (fun x =>
    tStore (tStore x e (r.1 ++ pad)) (i.oscl * 8 + v * oSStride i + scaleBytes f o) r.2.1)
  (s, r.2.2 ||| readFlags vals)

/-- R116: the initial values of a row as the drain reads them, in the cycle before its conversion. -/
def readInits (s : State) (t : TileId) (i : PassInstr) (ri : Nat) : List (Option Int) :=
  let o := rowOuts i (ri % cyc i)
  (List.range o.2).map (fun n => initOf s t i ri (o.1 + n) n)

/-- R106: what the later passes have read of the accumulator rows that a pass has just written is the value written: a row
leaves two cycles after a row of the next pass is read. -/
def forwardRow (s : State) (t : TileId) (p : Pass) (ri : Nat) : State :=
  let rows (i : PassInstr) (r : Nat) : List Nat :=
    (List.range (if i.mode = 4 then 2 else 1)).map (fun k => fld s (accAt t i.accset) 50 39 + accRow i r + k)
  modTile s t (fun x => { x with passes := x.passes.map (fun r =>
    if r.ins.init = 2 ∧ r.ending.isNone ∧ r.start > p.start then
      { r with inits := r.inits.map (fun e =>
          if (rows r.ins e.1).any (rows p.ins ri).contains then (e.1, readInits s t r.ins e.1) else e) }
    else r) })

/-- R116, R119: an output row leaves the drain: accumulator row and scratch bytes written; the row's flags. -/
def leaveRow (s : State) (t : TileId) (i : PassInstr) (ri : Nat) (inits : List (Option Int)) (ts : List (Option Int × Nat)) :
    State × Nat :=
  let ctx := ctxScale s t i
  let cols := ts.zipIdx.map (fun e => drainColumn i ctx (inits.getD e.2 none) e.1)
  let fl := cols.foldl (fun a c => a ||| c.2.2) 0
  if ts.isEmpty then (s, 0) else
  let s1 := if i.dacc then storeAcc s t i ri (cols.map (·.1)) else s
  if i.dscr then
    let r := storeScr s1 t i ri (cols.map (·.2.1))
    (r.1, fl ||| r.2)
  else (s1, fl)

/-! ### Readiness and start (R114, R115) -/

/-- R115: the cycle in which a ready pass starts. -/
def startCycle (x : Tile) (r : ReadyPass) : Nat :=
  let i := r.ins; let ic := r.cycle
  let p := x.prev
  let idle := x.passes.isEmpty
  let e := match p with | some p => if idle then ic else p.start + p.c * p.m | none => ic
  let c1 := match p with | some p => if idle then ic else p.commit + 1 | none => ic
  let tp := match p with | some p => p.start | none => ic
  let turn := match p with | some p => !idle && (p.dir != i.dir || p.k0) | none => false
  if i.k = 0 then max c1 ic
  else if keeps x i then (if turn then max c1 ic else max e ic)
  else if i.wmode = 0 then (if turn then max c1 (max ic tp + 128) else max e (max ic tp + 128))
  else (if turn then max c1 (max e ic + 128) else max e ic + 128)

/-- Cycles from start to the commit cycle (R119). -/
def commitAfter (i : PassInstr) : Nat := if i.k = 0 then i.m + 3 else rowCount i + 259

/-- The pass becomes ready in this cycle; FRONT shifts its weights into the shadow registers (R114, R115). -/
def makeReady (x : Tile) (i : PassInstr) (q pc : Nat) : Tile :=
  if i.wmode = 0 && i.k ≠ 0 then
    let w := loadWeights (memByte x.mem) i
    { x with shadow := w.1, sscales := w.2.1, smode := i.mode,
             ready := some { ins := i, q, pc, cycle := x.cycle, poisoned := weightPoison x i, inx := w.2.2 } }
  else { x with ready := some { ins := i, q, pc, cycle := x.cycle } }

/-- PASS (R114): checked under R100 and R101, then ready once its bytes are resident and its output reserved. -/
def execPass (t : TileId) (q : Fin 2) (s : State) : Out := whenRunning s fun s =>
  tpIssue s t q 0x21 fun s l ws =>
    let i := parsePass ws
    let x := getTile s t
    let v := passVerdict s t i
    if x.ready.isSome || (q.val == 0 && x.preempted) then waitHere s t q
    else if v ≠ 0 then refusePass s t q l.pc v
    else issueWhen (passResident x i && x.computeOn && tileOpen s t) s t q fun s =>
      modTile s t (fun x => makeReady x i q l.pc)

/-- The weights that a starting pass uses: the array with them, and whether a poisoned byte was read (R114, R115,
R126). Those of FRONT reach the array behind the vector that the pass before it reads in this same cycle. -/
def takeWeights (x : Tile) (r : ReadyPass) : Tile × Bool :=
  let i := r.ins
  if i.k = 0 || keeps x i then (x, false)
  else if i.wmode = 0 then
    ({ x with front := some (x.shadow, x.sscales, i.mode), wtag := some (tagOf i r.inx) }, r.poisoned)
  else
    let w := loadWeights (memByte x.mem) i
    ({ x with weights := w.1, wscales := w.2.1, wmode := i.mode, front := none, wtag := some (tagOf i w.2.2) }, weightPoison x i)

/-- R82, R114: the INX of the weights that a mode-4 pass uses. -/
def weightInx (x : Tile) (i : PassInstr) : Nat :=
  match x.wtag with | some g => fl (i.mode == 4 && i.k != 0 && g.inx) fInx | none => 0

/-- A pass starts in the tile's current cycle (R115, R116). -/
def startPass (s : State) (t : TileId) (r : ReadyPass) : State :=
  let seq := nextSeq s t
  let s := takeSeq s t
  let x := getTile s t
  let i := r.ins
  let lw := loadsW x i
  let w := takeWeights x r
  let x := { w.1 with ready := none }
  let p : Pass := { seq, ins := i, q := r.q, pc := r.pc, start := x.cycle, loadW := lw, flags := weightInx x i }
  let x := holdBufs { x with passes := x.passes ++ [p], prev := some { start := x.cycle, c := cyc i, m := i.m, commit := x.cycle + commitAfter i, dir := i.dir, k0 := i.k == 0 } } (inRanges i lw)
  let s := setTile s t x
  let s := setFld s (stAt t) 55 47 x.passes.length
  let s := setFlag s (stAt t) 56 x.wtag.isSome
  let s := addUnit s t r.q { kind := 1, seq, ctx := 0, pc := r.pc }
  let s := if w.2 then abortPass s t seq stPoison false else s
  advance s t r.q 4

/-- PASS_START (R115). -/
def execPassStart (t : TileId) (s : State) : Out := whenRunning s fun s =>
  let x := getTile s t
  match x.ready with
  | none => s
  | some r =>
    if passInvalid s t r.ins (loadsW x r.ins) then refusePass s t r.q r.pc stInvalidDest
    else if startCycle x r ≤ x.cycle then startPass s t r else s

/-! ### One array cycle (R116) -/

/-- R119: the pass commits and reports once. -/
def commitPass (s : State) (t : TileId) (p : Pass) (flags : Nat) : State :=
  let s := modTile s t (fun x => { x with passes := x.passes.filter (fun r => r.seq != p.seq) })
  let s := setFld s (stAt t) 55 47 (getTile s t).passes.length
  let s := countEnd s t p.seq stOk true
  let s := autoRelease (autoWritten s t (oRanges p.ins)) t
  unitEnded s t p.q 1 p.seq { status := stOk, flags, committed := true }

/-- Keep a pass's progress. -/
def putPass (s : State) (t : TileId) (p : Pass) : State :=
  modTile s t (fun x => { x with passes := x.passes.map (fun r => if r.seq = p.seq then p else r) })

/-- The row whose values the drain reads, and the row that leaves, in cycle rel of a pass (R116, R126). -/
def drainRead (i : PassInstr) (rel : Nat) : Option Nat :=
  let d := if i.k = 0 then 2 else 258
  if d ≤ rel ∧ rel - d < rowCount i then some (rel - d) else none
def leaves (i : PassInstr) (rel : Nat) : Option Nat :=
  let d := if i.k = 0 then 4 else 260
  if d ≤ rel ∧ rel - d < rowCount i then some (rel - d) else none
/-- The vector read in cycle rel. -/
def reads (i : PassInstr) (rel : Nat) : Option Nat :=
  if i.k ≠ 0 ∧ 1 ≤ rel ∧ (rel - 1) % cyc i = 0 ∧ (rel - 1) / cyc i < i.m then some ((rel - 1) / cyc i) else none

/-- R126: the pass reads a poisoned byte in this cycle. -/
def cyclePoison (s : State) (t : TileId) (i : PassInstr) (rel : Nat) : Bool :=
  let x := getTile s t
  (match reads i rel with | some j => rangesPoison x (vectorRanges i j) | none => false)
  || (match drainRead i rel with | some ri => rangesPoison x (initRanges s t i ri) | none => false)

/-- The terms of a row, taken from the pass or, with K = 0, none. -/
def rowTerms (p : Pass) (ri : Nat) : List (Option Int × Nat) :=
  if p.ins.k = 0 then List.replicate (outLen p.ins) (some 0, 0)
  else ((p.rows.find? (fun r => r.1 == ri)).map (·.2)).getD []
/-- The initial values that the drain has read for a row. -/
def rowInits (p : Pass) (ri : Nat) : List (Option Int) := ((p.inits.find? (fun r => r.1 == ri)).map (·.2)).getD []

/-- R116: what a started pass does in the tile's current cycle. -/
def passStep (t : TileId) (s : State) (seq : Nat) : State :=
  let x := getTile s t
  match x.passes.find? (fun p => p.seq == seq && p.ending.isNone) with
  | none => s
  | some p =>
    let rel := x.cycle - p.start
    if cyclePoison s t p.ins rel then abortPass s t seq stPoison false
    else
      let p := match reads p.ins rel with
        | some j => let r := readVector s t p.ins j; { p with rows := p.rows ++ r.1, flags := p.flags ||| r.2 }
        | none => p
      let p := match drainRead p.ins rel with
        | some ri => { p with inits := p.inits ++ [(ri, readInits s t p.ins ri)] }
        | none => p
      match leaves p.ins rel with
      | none => putPass s t p
      | some ri =>
        let r := leaveRow s t p.ins ri (rowInits p ri) (rowTerms p ri)
        let s := if p.ins.dacc then forwardRow r.1 t p ri else r.1
        let p := { p with rows := p.rows.filter (fun e => e.1 != ri), inits := p.inits.filter (fun e => e.1 != ri),
                          flags := p.flags ||| r.2 }
        if ri + 1 = rowCount p.ins then commitPass s t p p.flags else putPass s t p

/-- R125: the fault of a started pass, detected in this cycle; of a pass that an abort ended in this same cycle too, whose
status stays (R122). -/
def passFault (s : State) (t : TileId) (seq : Nat) : State :=
  let x := getTile s t
  match x.passes.find? (fun p => p.seq == seq && (p.ending.isNone || p.endAt == x.cycle)) with
  | none => s
  | some p => tileFault s t p.q 1 seq (fun s => abortPass s t seq stTileFault true)

/-- R115: the weights of a FRONT pass that has started stand in the array, behind the last vector of the pass before it. -/
def frontArrives (x : Tile) : Tile :=
  match x.front with
  | some w => { x with weights := w.1, wscales := w.2.1, wmode := w.2.2, front := none }
  | none => x

/-- A ready pass is due to start (R115). -/
def startDue (x : Tile) : Bool := match x.ready with | some r => decide (startCycle x r ≤ x.cycle) | none => false

/-- PASS_CYCLE: one array cycle: a fault that is detected in it, then every started pass in start order; the array does
not run past the start of a ready pass (R115, R116, R119, R125, R126). -/
def execPassCycle (t : TileId) (fault : Option (BitVec 32)) (s : State) : Out := whenRunning s fun s =>
  let x := getTile s t
  if startDue x then s
  else
    let s := match fault with | some f => passFault s t f.toNat | none => s
    let s := ((getTile s t).passes.map (·.seq)).foldl (passStep t) s
    modTile s t (fun x => frontArrives { x with cycle := x.cycle + 1 })

/-- PASS_ABORT_REPORT: an early-ended pass reports, with flags 0x0000 (R121). Until then it counts as started: INFLIGHT, the
hold of R110, its buffers, LAST_STATUS and MT_COUNT follow the report (DEDUCED, log 99). -/
def execPassAbortReport (t : TileId) (seq : BitVec 32) (s : State) : Out := whenRunning s fun s =>
  match (getTile s t).passes.find? (fun p => p.seq == seq.toNat) with
  | none => s
  | some p =>
    match p.ending with
    | none => s
    | some e =>
      let s := if p.nofold then noFold s t p.q 1 p.seq else s
      let s := modTile s t (fun x => { x with passes := x.passes.filter (fun r => r.seq != p.seq) })
      let s := setFld s (stAt t) 55 47 (getTile s t).passes.length
      let s := autoRelease (countEnd s t p.seq e false) t
      unitEnded s t p.q 1 p.seq { status := e, cycle := some p.endAt }

/-! ### Accumulator sets (R108-R110) -/

/-- R110: the write describes a set that breaks a rule. -/
def accsetBad (s : State) (t : TileId) (n : Nat) (v : Word) : Bool :=
  let b := bits v 50 39; let c := bits v 38 26
  c == 0 || 4096 < b + c || (bit v 61 && (b % 2 == 1 || c % 2 == 1))
  || (bit v 63 && (List.range 16).any (fun k => k != n && flag s (accAt t k) 63 &&
       overlaps b c (fld s (accAt t k) 50 39) (fld s (accAt t k) 38 26)))

/-- R108, R110: an MT_ACCSET write takes effect, clearing INVALID, or is ignored. -/
def applyAccset (s : State) (t : TileId) (n : Nat) (v : Word) : State :=
  if accsetBad s t n v then setFlag s (stAt t) 45 true
  else wr s (accAt t n) (setBit (maskWrite (regInfo .mtAccset) false (rd s (accAt t n)) v) 62 false)

/-- A started pass names the set (R110). -/
def accsetNamed (x : Tile) (n : Nat) : Bool := x.passes.any (fun p => p.ins.accset == n)

/-- A write to MT_ACCSETn (R110): held, with the request that waits for its acknowledgement, while a started pass names the
set, or while an earlier write of it is still held. -/
def writeAccset (s : State) (t : TileId) (n : Nat) (v : Word) (p : Option Packet) : State :=
  if accsetNamed (getTile s t) n || (getTile s t).heldAcc.any (fun e => e.1 == n) then modTile s t (fun x => { x with heldAcc := x.heldAcc ++ [(n, v, p)] })
  else applyAccset s t n v
/-- MT_ACCSET_WRITE (R110). -/
def execMtAccsetWrite (t : TileId) (n : Fin 16) (v : Word) (s : State) : Out := whenRunning s fun s =>
  if isV t then s else writeAccset s t n v none

/-- MT_ACCSET_APPLY: the oldest held write of a set that no started pass names any longer; its request is acknowledged with the
last of its held words (R110). -/
def execMtAccsetApply (t : TileId) (n : Fin 16) (s : State) : Out := whenRunning s fun s =>
  let x := getTile s t
  match x.heldAcc.find? (fun e => e.1 == n.val) with
  | none => s
  | some e =>
    if accsetNamed x n then s
    else
      let l := x.heldAcc.erase e
      let s := applyAccset (setTile s t { x with heldAcc := l }) t n e.2.1
      match e.2.2 with
      | some p => if l.any (fun h => h.2.2 == some p) then s else sendPkt s (response p stOk [] 0)
      | none => s

end Sys2Proof.Machine
end

