-- ==== Sys2Proof/Machine/Stream.lean ====
section
/-! DEFINITION. Stream engines: the meanings of the stream-program instructions, of request issue, responses,
cancellation and the progress monitor (R174-R181, R187-R197, R201). -/

namespace Sys2Proof.Machine
open Sys2Proof

/-! ### Instructions of a stream program (R174-R177) -/

/-- When a stream runs in the context and the word at its PC has the opcode, `f` is done with the word. -/
def seInstr (s : State) (t : TileId) (c : Nat) (op : Nat) (f : State → Stream → Word → State) : State :=
  match getStream (getTile s t) c with
  | none => s
  | some st =>
    if !isRunning st || st.ended then s else
    match st.prog[st.pc]? with
    | none => s
    | some w => if bits w 63 56 = op then f s st w else s

def aOf (st : Stream) (i : Nat) : Nat := st.areg.getD i 0
def setA (st : Stream) (i v : Nat) : Stream := { st with areg := st.areg.set i (v % 2 ^ 64) }
def fabOf (st : Stream) (i : Nat) : Bool := st.fab.getD i false
/-- a + t modulo 2^64. -/
def addT (a : Nat) (t : Int) : Nat := codeN 64 ((a : Int) + t)
def nextPc (st : Stream) : Stream := { st with pc := st.pc + 1 }

/-- SETA: a device-local address (R174). -/
def execSeta (t : TileId) (c : Fin 16) (s : State) : Out := whenRunning s fun s =>
  seInstr s t c 0x01 fun s st w =>
    putStream s t c (nextPc { setA st (bits w 55 53) (bits w 47 0) with fab := st.fab.set (bits w 55 53) false })

/-- SETAH: bits [63:48], and the address becomes a fabric address (R174). -/
def execSetah (t : TileId) (c : Fin 16) (s : State) : Out := whenRunning s fun s =>
  seInstr s t c 0x02 fun s st w =>
    let i := bits w 55 53
    putStream s t c (nextPc { setA st i (aOf st i % 2 ^ 48 + bits w 15 0 * 2 ^ 48) with fab := st.fab.set i true })

/-- SETT: a stride, sign-extended (R174). -/
def execSett (t : TileId) (c : Fin 16) (s : State) : Out := whenRunning s fun s =>
  seInstr s t c 0x03 fun s st w =>
    putStream s t c (nextPc { st with treg := st.treg.set (bits w 55 53) (sextN 48 (bits w 47 0)) })

/-- ADDA (R174). -/
def execAdda (t : TileId) (c : Fin 16) (s : State) : Out := whenRunning s fun s =>
  seInstr s t c 0x04 fun s st w =>
    let i := bits w 55 53
    putStream s t c (nextPc (setA st i (addT (aOf st i) (st.treg.getD (bits w 52 50) 0))))

/-- FOR opens a loop level (R174). -/
def execSeFor (t : TileId) (c : Fin 16) (s : State) : Out := whenRunning s fun s =>
  seInstr s t c 0x08 fun s st w =>
    putStream s t c (nextPc { st with loops :=
      { level := bits w 55 54, areg := bits w 53 51, treg := bits w 50 48, left := bits w 47 24, body := st.pc + 1 } :: st.loops })

/-- NEXT ends a run of the innermost body: its address steps, and the body repeats or the level closes (R174). -/
def execSeNext (t : TileId) (c : Fin 16) (s : State) : Out := whenRunning s fun s =>
  seInstr s t c 0x09 fun s st _ =>
    match st.loops with
    | [] => s
    | l :: r =>
      let st := setA st l.areg (addT (aOf st l.areg) (st.treg.getD l.treg 0))
      if l.left = 0 then putStream s t c (nextPc { st with loops := r })
      else putStream s t c { st with loops := { l with left := l.left - 1 } :: r, pc := l.body }

/-- MOVE: a run of bytes between an address and the stream position, once earlier moves have been issued (R174, R175,
R178). -/
def execMove (t : TileId) (c : Fin 16) (s : State) : Out := whenRunning s fun s =>
  seInstr s t c 0x10 fun s st w =>
    if !st.moves.isEmpty then s else
    let i := bits w 55 53
    let n := bits w 52 41 + 1
    let st1 := { st with moves := [{ addr := aOf st i, fab := fabOf st i, pos := st.pos, left := n }], pos := st.pos + n }
    putStream s t c (nextPc (if bit w 40 then setA st1 i (aOf st i + n) else st1))

/-- R177: the index width in bytes. -/
def indexWidth (iw : Nat) : Nat := if iw = 1 then 8 else 4
/-- R177: the value of an index. -/
def indexValue (iw raw : Nat) : Int := if iw = 2 then sextN 32 raw else (raw : Int)

/-- GATHER moves one element, its index read from the window: the index must lie in static scratch or a FULL buffer of
another stream; a marked granule or an unmapped index ends the stream; a poisoned index skips the element (R177). -/
def execGather (t : TileId) (c : Fin 16) (s : State) : Out := whenRunning s fun s =>
  seInstr s t c 0x11 fun s st w =>
    if !st.moves.isEmpty then s else
    let i := bits w 55 53; let xr := bits w 52 50; let iw := bits w 49 48; let k := indexWidth iw
    let esz := bits w 43 32 + 1; let n := bits w 31 8 + 1
    let a := (aOf st xr + st.gk * k) % 2 ^ 64
    let x := getTile s t
    if !inWindow (isV t) a k then cancelStream s t c stNocUnmapped
    else if anyInvalid x a k || invalidSet s t a k then cancelStream s t c stInvalidDest
    else if (bufsOver x a k).any (fun b => b.ctx == c.val || !isIn b.st || b.buf.state != 2) then s
    else
      let v := indexValue iw (numAt (memByte x.mem) a k)
      let m : Move := { addr := codeN 64 ((aOf st i : Int) + shl v (bits w 47 44)), fab := fabOf st i, pos := st.pos,
                        left := esz, skip := anyPoison x.mem a k || anyAccUe x a k }
      let st1 := { st with moves := [m], pos := st.pos + esz, gk := st.gk + 1 }
      putStream s t c (if st1.gk = n then nextPc { setA st1 xr (aOf st xr + n * k) with gk := 0 } else st1)

/-- A kernel-memory ring is not written while a kernel runs (R133). -/
def ringBusy (x : Tile) (st : Stream) : Bool := x.kernel.isSome && 0x100000 ≤ st.base

/-- R176: the position moves to the next buffer boundary. -/
def toBoundary (st : Stream) : Stream := { st with pos := cdiv st.pos st.bufsz * st.bufsz }

/-- Close the current buffer and move on, keeping `st` as the stream. -/
def flushStream (s : State) (t : TileId) (c : Nat) (st : Stream) (n : Nat) : State :=
  closeBuf (putStream s t c (toBoundary st)) t c n

/-- FLUSH closes the current buffer (R176). -/
def execFlush (t : TileId) (c : Fin 16) (s : State) : Out := whenRunning s fun s =>
  seInstr s t c 0x20 fun s st _ =>
    if !st.moves.isEmpty || ringBusy (getTile s t) st then s else flushStream s t c (nextPc st) st.pos

/-- FENCE issues when every earlier request of the stream has completed (R174). -/
def execStreamFence (t : TileId) (c : Fin 16) (s : State) : Out := whenRunning s fun s =>
  seInstr s t c 0x21 fun s st _ =>
    if !st.moves.isEmpty || st.outst ≠ 0 then s else putStream s t c (nextPc st)

/-- END with its implicit FLUSH (R174, R176); a stream that has met its obligations commits (R187). The program of a queue
stream is this END alone (R173): its buffers close at the end marker (R185). -/
def execStreamEnd (t : TileId) (c : Fin 16) (s : State) : Out := whenRunning s fun s =>
  seInstr s t c 0x3F fun s st _ =>
    if 2 ≤ st.kind then putStream s t c { st with ended := true }
    else if !st.moves.isEmpty || ringBusy (getTile s t) st then s
    else tryCommit (flushStream s t c { st with ended := true } st.pos) t c

/-! ### Issuing a request (R178-R181) -/

/-- What a stream issues next. -/
structure SReq where
  op     : Nat
  fab    : Bool
  addr   : Nat
  len    : Nat
  ring   : Nat
  off    : Nat
  write  : Bool
  table  : Bool
  /-- 0 LOCAL, 1 FABRIC, 2 Q2Q (R179). -/
  queue  : Nat
  skip   : Bool := false
  deriving DecidableEq, Repr

/-- Bytes of the next piece of a move: no 256-byte address boundary and no buffer boundary is crossed (R178). -/
def pieceLen (st : Stream) (m : Move) : Nat :=
  let b := min m.left (st.bufsz - m.pos % st.bufsz)
  if m.skip then b else min b (256 - m.addr % 256)

/-- R178, R196: the piece of a buffer's check value that is read or written next: it crosses no 256-byte boundary either. -/
def tablePiece (st : Stream) (p : Nat) (b : Buf) : SReq :=
  let a := (st.crcaddr + 4 * b.idx + b.crcIss) % 2 ^ 64
  { op := if st.kind = 0 then 1 else 2, fab := st.crcfab, addr := a, len := min (4 - b.crcIss) (256 - a % 256), ring := p,
    off := b.crcIss, write := st.kind == 1, table := true, queue := if st.crcfab then 1 else 0 }
/-- R196: a buffer whose check value is to be read or written now. -/
def tableReq (st : Stream) : Option SReq :=
  if st.crc ≠ 1 then none else
  ((List.range st.bufs.length).find? (fun p => match st.bufs[p]? with
    | some b => b.crcIss < 4 && (if st.kind = 0 then b.state == 1 else b.state == 5 && b.issued == b.size)
    | none => false)).bind (fun p => (st.bufs[p]?).map (tablePiece st p))

/-- The next piece of the current move, when its buffer can take it (R168, R175, R178). -/
def moveReq (st : Stream) : Option SReq :=
  match st.moves with
  | [] => none
  | m :: _ =>
    match bufOf st m.pos with
    | none => none
    | some (p, b) =>
      if (if st.kind = 0 then b.state ≤ 1 else 4 ≤ b.state) then
        some { op := if st.kind = 0 then 1 else 2, fab := m.fab, addr := m.addr, len := pieceLen st m, ring := p,
               off := m.pos % st.bufsz, write := st.kind == 1, table := false, queue := if m.fab then 1 else 0, skip := m.skip }
      else none

/-- The end marker of a QOUT stream (R185). -/
def endReq : SReq :=
  { op := 0x15, fab := false, addr := 0, len := 0, ring := 0, off := 0, write := false, table := false, queue := 2 }
/-- R184, R185: what a QOUT stream sends next: its reservation, a push for a credit, the end marker. -/
def queueReq (st : Stream) : Option SReq :=
  if !st.asked then some { op := 0x12, fab := false, addr := 0, len := 0, ring := 0, off := 0, write := false, table := false, queue := 2 }
  else if !st.granted then none
  else if st.nblk ≠ 0 && st.pos = st.nblk * st.bufsz then
    (if st.endmark then none else some endReq)
  else if st.credits = 0 then none
  else
    match bufOf st st.pos with
    | none => none
    | some (p, b) =>
      if 4 ≤ b.state then
        some { op := 0x10, fab := false, addr := 0, len := 256, ring := p, off := st.pos % st.bufsz, write := true, table := false, queue := 2 }
      else none

/-- The next request of a stream; one that has been cancelled has at most its end marker to send. -/
def nextReq (st : Stream) : Option SReq :=
  if st.endOwed then some endReq
  else if !isRunning st then none
  else if st.kind = 3 then queueReq st
  else if st.kind = 2 then none
  else match tableReq st with | some r => some r | none => moveReq st

/-- Requests outstanding in a queue of the tile (R179). -/
def queueCount (s : State) (t : TileId) (k : Nat) : Nat :=
  (tagsOf s (tileNode s t)).countP (fun x => match x.2.use with
    | some (.stream u) => u.queue == k
    | _ => false)
/-- A queue's limit in SE_LIMIT. -/
def queueLimit (s : State) (t : TileId) (k : Nat) : Nat :=
  if k = 2 then fld s (seTileAt t 0) 39 30 else if k = 1 then fld s (seTileAt t 0) 29 20 else fld s (seTileAt t 0) 19 10

/-- R179: the stream can issue the request now. -/
def canSend (s : State) (t : TileId) (st : Stream) (r : SReq) : Bool :=
  (firstFree s (tileNode s t) 512).isSome && st.outst < st.outmax && queueCount s t r.queue < queueLimit s t r.queue

/-- R181: the running stream that can issue with the smallest deadline, ties to the lower context. -/
def chooseStream (s : State) (t : TileId) : Option (Nat × Stream × SReq) :=
  (List.range 16).foldl (fun best c =>
    match getStream (getTile s t) c with
    | none => best
    | some st =>
      match nextReq st with
      | none => best
      | some r =>
        if !r.skip && !canSend s t st r then best else
        match best with
        | none => some (c, st, r)
        | some (_, bst, _) => if st.dline < bst.dline then some (c, st, r) else best) none

/-- The move's piece has been issued. -/
def stepMove (st : Stream) (n : Nat) : Stream :=
  match st.moves with
  | [] => st
  | m :: r =>
    if m.left ≤ n then { st with moves := r }
    else { st with moves := { m with addr := (if m.skip then m.addr else (m.addr + n) % 2 ^ 64), pos := m.pos + n, left := m.left - n } :: r }

/-- R168: the buffer's state once a byte of it has been issued. -/
def touched (b : Buf) (n : Nat) : Buf :=
  { b with state := if b.state = 0 then 1 else if b.state = 4 then 5 else b.state, issued := b.issued + n }

/-- R177: an element whose index carries poison: no request; its bytes are marked poisoned (IN) or nothing is written
(OUT); its granules are counted. -/
def skipPiece (s : State) (t : TileId) (c : Nat) (st : Stream) (r : SReq) : State :=
  match st.bufs[r.ring]? with
  | none => s
  | some b =>
    let a := bufOff st r.ring + r.off
    let gs := granules a r.len
    let b1 := touched { b with got := b.got + r.len, poisoned := true } r.len
    let st1 := soft { stepMove (setBuf st r.ring b1) r.len with poisoned := st.poisoned + gs.length } stPoison
    let s := if st.kind = 0 then modTile s t (fun x => { x with mem := { x.mem with
        poison := gs.foldl (fun m g => mset false m g true) x.mem.poison } }) else s
    let s := putStream s t c (progress s t st1)
    if st.kind = 0 then fillCheck s t c r.ring else drainCheck s t c r.ring

/-- R167, R171: an OUT piece reads rows of an INVALID set, or marked granules. -/
def pieceInvalid (s : State) (t : TileId) (a n : Nat) : Bool := anyInvalid (getTile s t) a n || invalidSet s t a n

/-- The packet of a request, its data read from the window (R175, R189, R196, R300). -/
def reqPacket (s : State) (t : TileId) (c : Nat) (st : Stream) (r : SReq) (tag : Nat) : Packet :=
  let x := getTile s t
  let a := bufOff st r.ring + r.off
  let chk := match st.bufs[r.ring]? with | some b => bufCheck x st r.ring b | none => 0
  let data := if !r.write then [] else if r.table then ((leBytes 4 chk).drop r.off).take r.len else tBytes x a r.len
  let poison := if r.write && !r.table then flitMask (winPoison x) a r.len else 0
  let closing := r.op = 0x10 ∧ r.off + r.len = st.bufsz ∧ st.crc = 1
  let q : QueueData := { producer := ctxPeer s t c, consumer := normPeer s st.peer, credits := if r.op = 0x12 then st.resv else 0,
                         bufsz := st.bufsz, crcOn := st.crc == 1, crc := if closing then some (BitVec.ofNat 32 chk) else none }
  let h : Packet := { op := BitVec.ofNat 8 r.op, nflit := BitVec.ofNat 3 (cdiv data.length 64), len := r.len,
                      poison := BitVec.ofNat 4 poison, data }
  let p := streamPkt s t c st tag h
  if r.queue = 2 then toPeer s st.peer { p with qd := q }
  else { p with fab := r.fab, addr := BitVec.ofNat 64 r.addr,
                dest := if r.fab then engineNode s (r.addr / 2 ^ 44) else serveNode s r.addr }

/-- The stream after the request has left. -/
def afterIssue (s : State) (t : TileId) (st : Stream) (r : SReq) : Stream :=
  let st := { st with outst := st.outst + 1 }
  if r.op = 0x12 then { st with asked := true }
  else if r.op = 0x15 then { st with endmark := true, endOwed := false }
  else
    match st.bufs[r.ring]? with
    | none => st
    | some b =>
      if r.table then setBuf st r.ring { b with crcIss := b.crcIss + r.len }
      else
        let a := bufOff st r.ring + r.off
        let pn := if r.write then ((granules a r.len).filter (winPoison (getTile s t))).length else 0
        let b1 := touched { b with poisoned := b.poisoned || pn ≠ 0 } r.len
        let st := setBuf { st with poisoned := st.poisoned + pn } r.ring b1
        let st := if pn ≠ 0 then soft st stPoison else st
        let st := if b.state ≠ b1.state then progress s t st else st
        if r.op = 0x10 then { st with pos := st.pos + r.len, credits := st.credits - 1, uncredited := st.uncredited + 1 }
        else stepMove st r.len

/-- What the tag of a request is held for. -/
def useOf (t : TileId) (c : Nat) (st : Stream) (r : SReq) : StreamUse :=
  if r.op = 0x12 ∨ r.op = 0x15 then { t, c, seq := st.seq, queue := r.queue }
  else match st.bufs[r.ring]? with
    | some b => { t, c, seq := st.seq, entry := b.entry, egen := b.gen, ring := r.ring, idx := b.idx, off := r.off, len := r.len,
                  write := r.write, table := r.table, queue := r.queue }
    | none => { t, c, seq := st.seq, queue := r.queue }

/-- Issue a request: what R178 or R167 refuses ends the stream instead (R188). An end marker can be the last obligation of its
stream (R185, R187). -/
def sendReq (s : State) (t : TileId) (c : Nat) (st : Stream) (r : SReq) : State :=
  let a := bufOff st r.ring + r.off
  let map := if r.queue = 0 then mapStatus s.part .stream r.addr r.len else 0
  if map ≠ 0 then cancelStream s t c map
  else if r.write && !r.table && pieceInvalid s t a r.len then cancelStream s t c stInvalidDest
  else
    match firstFree s (tileNode s t) 512 with
    | some tag =>
      let s1 := holdTag (inject s (reqPacket s t c st r tag)) (tileNode s t) tag (.stream (useOf t c st r))
      let s2 := putStream s1 t c (afterIssue s t st r)
      if r.op = 0x15 then tryCommit s2 t c else s2
    | none => s

/-- STREAM_REQUEST_ISSUE: one request of the tile's chosen stream (R179, R181). -/
def execStreamRequestIssue (t : TileId) (s : State) : Out := whenRunning s fun s =>
  match chooseStream s t with
  | none => s
  | some (c, st, r) => if r.skip then skipPiece s t c st r else sendReq s t c st r

/-! ### Responses (R175, R188-R190) -/

/-- Poisoned granules of bytes placed at an offset, by the POISON bits of the flits that carry them; the bytes are
those from `k` on of the packet's payload. -/
def flitGran (mask k off n : Nat) (g : Nat) : Bool :=
  (List.range 4).any (fun i => mask / 2 ^ i % 2 == 1 &&
    overlaps (64 * g) 64 (off + (64 * i - k)) (64 * i + 64 - max k (64 * i)) && overlaps (64 * g) 64 off n)

/-- R175, R189: bytes land in a buffer, poisoned where their flits are. -/
def placeBytes (s : State) (t : TileId) (c p off k : Nat) (d : List Byte) (mask : Nat) : State :=
  match getStream (getTile s t) c with
  | none => s
  | some st =>
    match st.bufs[p]? with
    | none => s
    | some b =>
      let a := bufOff st p + off
      let pg := flitGran mask k a d.length
      let pn := ((granules a d.length).filter pg).length
      let s := modTile s t (fun x => tWrite x a d pg)
      let st := { setBuf st p { b with got := b.got + d.length, poisoned := b.poisoned || pn ≠ 0, state := 1 } with
                  bytes := st.bytes + d.length, poisoned := st.poisoned + pn }
      putStream s t c (if pn ≠ 0 then soft st stPoison else st)

/-- R196: a piece of a buffer's check value has been answered: read, it counts once it is whole; written, the buffer may be
drained. -/
def tableAnswered (s : State) (u : StreamUse) (st : Stream) (b : Buf) (r : Packet) : State :=
  let got := b.crcGot + u.len
  if u.write then drainCheck (putStream s u.t u.c (setBuf st u.ring { b with crcGot := got })) u.t u.c u.ring
  else
    let acc := b.crcAcc + leNat r.data * 256 ^ u.off
    let b := { b with crcGot := got, crcAcc := acc, crc := if got = 4 then some acc else none,
                      poisoned := b.poisoned || r.poison ≠ 0 }
    fillCheck (putStream s u.t u.c (setBuf st u.ring b)) u.t u.c u.ring

/-- What a good response does to its stream: data, a piece of a check value, an acknowledgement. A check value that arrives
after its buffer has gone on to another index (a poisoned buffer is not compared, R197) is not used. -/
def applyResponse (s : State) (u : StreamUse) (r : Packet) : State :=
  match getStream (getTile s u.t) u.c with
  | none => s
  | some st =>
    match st.bufs[u.ring]? with
    | none => s
    | some b =>
      if b.idx ≠ u.idx then s
      else if u.table then tableAnswered s u st b r
      else if !u.write && r.op = 0x81 then fillCheck (placeBytes s u.t u.c u.ring u.off 0 r.data r.poison.toNat) u.t u.c u.ring
      else if u.write && r.op = 0x82 then
        drainCheck (putStream s u.t u.c (setBuf st u.ring { b with got := b.got + u.len })) u.t u.c u.ring
      else tryCommit s u.t u.c

/-- R187, R192: bytes that memory has acknowledged, before or after a cancellation. -/
def ackedBytes (u : StreamUse) (r : Packet) : Nat := if u.write && !u.table && r.op = 0x82 && r.status = 0 then u.len else 0

/-- A status that a stream carries on with (R188-R190). -/
def carriesOn (e : Status) : Bool := e == stOk || e == stPoison || e == stTwinTakeover

/-- R33, R188-R190, R192: a response at its stream: its tag returns; a stale buffer generation discards it; an error status
ends the stream; POISON and TWIN_TAKEOVER are carried on with. A stream that has gone from its context takes nothing. -/
def streamAnswered (s : State) (r : Packet) (u : TagUse) : State :=
  match u with
  | .stream u =>
    match getStream (getTile s u.t) u.c with
    | none => s
    | some st =>
      if st.seq ≠ u.seq then s else
      let st := progress s u.t { st with outst := st.outst - 1, bytes := st.bytes + ackedBytes u r }
      let s := putStream s u.t u.c st
      if mget 0 (getTile s u.t).entryGen u.entry ≠ u.egen then s
      else
        let e := r.status.toNat
        if !carriesOn e then cancelStream s u.t u.c e
        else
          let st := if r.poison ≠ 0 then soft st stPoison else st
          applyResponse (putStream s u.t u.c (if e = 0 then st else soft st e)) u r
  | _ => s

/-- R133: the response would write kernel memory while a kernel runs. One that ends its stream, or that is discarded, writes
nothing (R188, R192). -/
def responseHeld (s : State) (r : Packet) (u : TagUse) : Bool :=
  match u with
  | .stream u =>
    match getStream (getTile s u.t) u.c with
    | some st => isV u.t && !u.write && !u.table && 0x100000 ≤ bufOff st u.ring && (getTile s u.t).kernel.isSome
        && st.seq == u.seq && st.ending.isNone && carriesOn r.status.toNat
    | none => false
  | _ => false

/-- The tile that a use belongs to. -/
def useTile : TagUse → Option TileId
  | .stream u => some u.t
  | .signal t _ _ => some t
  | _ => none

/-- R311: a response at a stream engine: discarded when its generation is stale, held while it would write the memory of
a running kernel, else delivered and its tag freed. -/
def streamResponseAt (s : State) (r : Packet) : State :=
  let node := r.dest.toNat
  let g := getTag s node r.tag.toNat
  match g.use with
  | none => takePkt s r
  | some u =>
    if g.gen ≠ r.gen then takePkt s r
    else if responseHeld s r u then
      match useTile u with
      | some t => modTile (takePkt s r) t (fun x => { x with heldKm := x.heldKm ++ [r] })
      | none => s
    else streamAnswered (freeTag (takePkt s r) node r.tag.toNat) r u

/-- STREAM_RESPONSE (R175). -/
def execStreamResponse (p : Packet) (s : State) : Out := whenRunning s fun s =>
  match (getTag s p.dest.toNat p.tag.toNat).use with
  | some (.stream ..) => streamResponseAt s p
  | _ => takePkt s p

/-! ### Cancellation and marks (R171, R191, R192) -/

/-- The outcome of a stream that has ended: ALREADY_COMPLETE for one that committed, else its status (R191). -/
def endedReply (status : Status) : Status :=
  if status = stOk ∨ status = stPoison ∨ status = stTwinTakeover then stAlready else status

/-- R191: the outcome and reply of a cancellation by context and sequence number. -/
def cancelBySeq (s : State) (t : TileId) (c seq : Nat) : Status × State :=
  let x := getTile s t
  match getStream x c with
  | some st =>
    if st.seq ≠ seq then (stInvalidDest, s)
    else match st.ending with
      | some e => (e, s)
      | none => if st.committed then (stAlready, s) else (stAborted, cancelStream s t c stAborted)
  | none =>
    if mget false x.ctxUsed c && fld s (seStatAt t c) 63 32 = seq then (endedReply (fld s (seStatAt t c) 20 13), s)
    else (stInvalidDest, s)

/-- R191, R199: a cancellation of a context's stream, with its reply in CANCEL_REPLY. -/
def cancelCtx (s : State) (t : TileId) (c seq : Nat) : State :=
  let r := cancelBySeq s t c seq
  setFld r.2 (seStatAt t c) 28 21 r.1
/-- SE_CANCEL (R191). -/
def writeSeCancel (s : State) (t : TileId) (v : Word) : State := cancelCtx s t (bits v 35 32) (bits v 31 0)
def execSeCancel (t : TileId) (v : Word) (s : State) : Out := whenRunning s fun s => writeSeCancel s t v

/-- STREAM_CANCEL_REPORT: after the last tag has returned the stream reports, and its context is IDLE (R192). -/
def execStreamCancelReport (t : TileId) (c : Fin 16) (s : State) : Out := whenRunning s fun s =>
  match getStream (getTile s t) c with
  | none => s
  | some st =>
    match st.ending with
    | none => s
    | some e =>
      if st.outst ≠ 0 || st.endOwed then s else
      let s := dropStream (setFld s (seStatAt t c) 20 13 e) t c st
      unitEnded s t st.q 3 st.seq { status := e, bytes := st.bytes, poisoned := st.poisoned }

/-- SE_CLEAR: the INVALID marks of a run of granules, outside the buffers of running streams (R171, R199). -/
def clearRange (x : Tile) (base count : Nat) : Tile :=
  { x with invalid := x.invalid.filter (fun e => !(base ≤ e.1 && e.1 < base + count) ||
      (allBufs x).any (fun b => isRunning b.st && overlaps (64 * e.1) 64 b.off b.len)) }

def writeSeClear (s : State) (t : TileId) (v : Word) : State :=
  let n := bits v 28 11
  if n = 0 ∨ 131072 < n then s else modTile s t (fun x => clearRange x (bits v 45 29) n)
def execSeClear (t : TileId) (v : Word) (s : State) : Out := whenRunning s fun s => writeSeClear s t v

/-! ### The progress monitor (R194, R195) -/

/-- The program of the stream is suspended (R221). -/
def suspendedStream (x : Tile) (st : Stream) : Bool :=
  match getRun x st.q with | some l => l.suspended | none => false

/-- R194: the stall candidates of a die, by tile and context. -/
def stallCandidates (s : State) (d : Fin 4) : List (TileId × Nat × Stream) :=
  (tilesOf d).flatMap (fun t => (List.range 16).filterMap (fun c =>
    match getStream (getTile s t) c with
    | some st =>
      if isRunning st && st.outst == 0 && !suspendedStream (getTile s t) st
          && st.last + fld s (csrAt d 0x380000) 13 0 * 1000 ≤ nowNs s d then some (t, c, st) else none
    | none => none))

/-- R195: the candidate with the latest deadline, ties to the higher stream number. -/
def stallVictim (l : List (TileId × Nat × Stream)) : Option (TileId × Nat × Stream) :=
  l.foldl (fun best x => match best with
    | none => some x
    | some b => if b.2.2.dline ≤ x.2.2.dline then some x else best) none

/-- STALL: the progress monitor of a die ends one candidate and restarts the timers of the others (R195). -/
def execStall (d : Fin 4) (s : State) : Out := whenRunning s fun s =>
  let cs := stallCandidates s d
  match stallVictim cs with
  | none => s
  | some (t, c, _) =>
    let s := cs.foldl (fun s e => match getStream (getTile s e.1) e.2.1 with
      | some st => putStream s e.1 e.2.1 (progress s e.1 st)
      | none => s) s
    incFld (cancelStream s t c stStall) (csrAt d 0x380010) 31 0

/-- R193: when a tile is fenced, its running streams are cancelled and its committed streams let their buffers go. -/
def fenceStreams (s : State) (t : TileId) : State :=
  (List.range 16).foldl (fun s c => match getStream (getTile s t) c with
    | some st => if st.committed then dropStream s t c st else cancelStream s t c stAborted
    | none => s) s

end Sys2Proof.Machine
end

