-- ==== Sys2Proof/Machine/KernelCore.lean ====
section
/-! DEFINITION. Vector tiles: registers, launch and its checks, running an instruction, how a kernel ends, scratch accesses
and long accumulators (R88-R92, R129-R142, R155-R159). -/

namespace Sys2Proof.Machine
open Sys2Proof

/-! ### Registers (R129, R130, R136) -/

/-- What a lane that has not been written holds: zero after reset, free once the domain has been off (log 10). -/
def laneDflt (x : Tile) (v i : Nat) : BitVec 64 := match x.vlost with | none => 0 | some n => Config.lostLane n v i
def lane (x : Tile) (v i : Nat) : BitVec 64 := mget (laneDflt x v i) x.vlanes (128 * v + i)
def setLane (x : Tile) (v i : Nat) (b : BitVec 64) : Tile :=
  { x with vlanes := mset (laneDflt x v i) x.vlanes (128 * v + i) b }
def vtag (x : Tile) (v : Nat) : VTagR := mget {} x.vtags v
def setVtag (x : Tile) (v : Nat) (kind : Nat) (scale : Int) : Tile :=
  { x with vtags := mset {} x.vtags v { kind, scale } }

/-- s0 reads 0 (R129). -/
def sreg (x : Tile) (i : Nat) : BitVec 64 := if i = 0 then 0 else mget 0 x.sregs i
/-- Writes to s0 are ignored (R129). -/
def setSreg (x : Tile) (i : Nat) (v : BitVec 64) : Tile := if i = 0 then x else { x with sregs := mset 0 x.sregs i v }
/-- m0 reads all ones (R129). -/
def mreg (x : Tile) (i : Nat) : BitVec 128 := if i = 0 then BitVec.allOnes 128 else mget 0 x.masks i
def setMreg (x : Tile) (i : Nat) (v : BitVec 128) : Tile := if i = 0 then x else { x with masks := mset 0 x.masks i v }

/-- Write the lanes that are on in a mask, with KIND and SCALE (R142). -/
def writeVec (x : Tile) (v : Nat) (m : BitVec 128) (f : Nat → BitVec 64) (kind : Nat) (scale : Int) : Tile :=
  setVtag ((List.range 128).foldl (fun x i => if m.getLsbD i then setLane x v i (f i) else x) x) v kind scale

/-- Write a mask register's bits that are on in a mask (R142). -/
def writeMask (x : Tile) (d : Nat) (m : BitVec 128) (f : Nat → Bool) : Tile :=
  let b := (List.range 128).foldl (fun n i => if f i then n + 2 ^ i else n) 0
  setMreg x d ((BitVec.ofNat 128 b &&& m) ||| (mreg x d &&& ~~~m))

/-- The I64 code of a lane; none is NaR (R130). -/
def laneCode (x : Tile) (v i : Nat) : Option Int :=
  let c := (lane x v i).toInt
  if c = i64Nar then none else some c
/-- The lane bits of a code. -/
def codeLane : Option Int → BitVec 64
  | none => BitVec.ofInt 64 i64Nar
  | some c => BitVec.ofInt 64 c

/-- The signed value of a scalar register. -/
def sInt (x : Tile) (i : Nat) : Int := (sreg x i).toInt
def sNat (x : Tile) (i : Nat) : Nat := (sreg x i).toNat

/-! ### Fields of the instruction forms (R142) -/

def fSD (w : Word) : Nat := bits w 55 52
def fSS (w : Word) : Nat := bits w 51 48
def fImm48 (w : Word) : Int := sextN 48 (bits w 47 0)
def fVD (w : Word) : Nat := bits w 55 50
def fVS (w : Word) : Nat := bits w 49 44
def fVT (w : Word) : Nat := bits w 43 38
def fMask (w : Word) : Nat := bits w 37 35
def fRnd (w : Word) : Nat := bits w 34 32

/-! ### Launch checks (R134, R135) -/

/-- First byte of kernel memory in the window (R29). -/
abbrev kmBase : Nat := 0x100000

/-- Opcodes of the V form (R142). -/
def vForm (op : Nat) : Bool :=
  (0x13 ≤ op && op ≤ 0x15) || (0x20 ≤ op && op ≤ 0x2D) || (0x30 ≤ op && op ≤ 0x33) || op == 0x40 || op == 0x51
    || (0x60 ≤ op && op ≤ 0x6B)
/-- The RND field of a word, by its form (R142); 0 where the form has none. -/
def rndField (w : Word) : Nat :=
  let op := bits w 63 56
  if op = 0x12 then bits w 47 45 else if vForm op then bits w 34 32 else if 0x70 ≤ op ∧ op ≤ 0x77 then bits w 31 29 else 0

/-- R64, R135, R142, R149, R161: a kernel word without a reserved code, a nonzero RSVD field or a fault of R135. A word of a
form with RND is refused under a direction of 5-7 whatever its operation makes of the field, a VCVT into a native target too
(DEDUCED, log 55). -/
def kWordOk (strict : Bool) (lamask len : Nat) (w : Word) : Bool :=
  let op := bits w 63 56
  if 4 < rndField w then false else
  let vdm := bits w 52 50
  if op = 0x00 || op = 0x01 || op = 0x02 || op = 0x05 || op = 0x06 then true
  else if op = 0x03 || op = 0x04 then bits w 12 0 < len
  else if op = 0x10 || op = 0x11 then bits w 1 0 == 0 && bits w 49 46 ≤ 9 && !(bits w 49 46 == 4 && bits w 55 50 % 2 == 1)
  else if op = 0x12 then bits w 13 0 == 0 && bits w 55 52 ≤ 7 && bits w 51 48 ≤ 7
  else if op = 0x14 then bits w 2 0 != 7 && bits w 31 16 != 0x8000
  else if op = 0x13 || op = 0x15 then true
  else if 0x20 ≤ op && op ≤ 0x24 then true
  else if op = 0x25 then bits w 2 0 != 7 && vdm != 0
  else if 0x26 ≤ op && op ≤ 0x2C then true
  else if op = 0x2D then vdm != 0
  else if op = 0x30 || op = 0x31 then true
  else if op = 0x32 || op = 0x33 then bits w 53 50 % 2 == 0 && 2 ≤ bits w 53 50
  else if op = 0x40 || op = 0x51 then true
  else if op = 0x50 then bits w 47 22 == 0 && 1 ≤ bits w 20 0 && bits w 20 0 ≤ 1048576
  else if 0x60 ≤ op && op ≤ 0x65 then strict
  else if op = 0x66 then strict && bits w 2 1 != 3 && bits w 4 3 != 3
  else if op = 0x67 then strict && bits w 3 1 != 7 && vdm != 0
  else if 0x68 ≤ op && op ≤ 0x6B then strict
  else if 0x70 ≤ op && op ≤ 0x77 then
    strict && bits w 23 0 == 0 && lamask / 2 ^ bits w 55 53 % 2 == 1
  else false

/-- The kernel that a header describes (R134), before its checks. -/
def parseKernel (x : Tile) (seq q tpc hofs : Nat) : Kernel :=
  let w (i : Nat) : Word := tWordAt x (kmBase + hofs + 8 * i)
  { seq, q, tpc, hofs, len := bits (w 0) 42 30, cyclim := bits (w 0) 54 43, strict := bit (w 0) 63, lamask := bits (w 0) 62 55,
    out0b := bits (w 1) 63 44, out0l := bits (w 1) 43 23, out1b := bits (w 2) 63 44, out1l := bits (w 2) 43 23 }

/-- R135: the header is refused. An output range of length 0 is unused (R134), and its base is not looked at (DEDUCED,
log 55). -/
def headerRefused (x : Tile) (k : Kernel) : Bool :=
  let w (i : Nat) : Word := tWordAt x (kmBase + k.hofs + 8 * i)
  k.hofs % 8 != 0 || 65536 < k.hofs + 32 || k.cyclim == 0 || k.len == 0 || 65536 < k.hofs + 32 + 8 * k.len
  || (kernelRanges k).any (fun r => r.2 != 0 && (r.1 % 64 != 0 || 0x100000 < r.1 + r.2))
  || bits (w 0) 29 0 != 0 || bits (w 1) 22 0 != 0 || bits (w 2) 22 0 != 0 || w 3 != 0

/-- The instruction word at an index of the kernel. -/
def kWord (x : Tile) (k : Kernel) (i : Nat) : Word := tWordAt x (kmBase + k.hofs + 32 + 8 * i)

/-- R135: a word of the kernel is refused. -/
def wordsRefused (x : Tile) (k : Kernel) : Bool :=
  (List.range k.len).any (fun i => !kWordOk k.strict k.lamask k.len (kWord x k i))

/-- R135: the status that the launch checks give: 0 when the kernel runs. -/
def launchVerdict (x : Tile) (k : Kernel) : Status :=
  if headerRefused x k || wordsRefused x k then stKernelRefused
  else if (kernelRanges k).any (fun r => anyInvalid x r.1 r.2) then stInvalidDest
  else 0

/-- LAST_FLAGS of VT_STATE. -/
def setLastFlags (s : State) (t : TileId) (f : Nat) : State := setFld s (stAt t) 23 8 f
def setRunning (s : State) (t : TileId) (b : Bool) : State := setFlag s (stAt t) 57 b

/-- A word of kernel memory in the range is uncorrectable (R159); one that poisoned data was written into counts as such
(log 96). -/
def kmBad (x : Tile) (a n : Nat) : Bool := anyPoison x.mem (kmBase + a) n || anyAccUe x (kmBase + a) n

/-- R160: a fault of the running kernel. -/
def kernelFault (s : State) (t : TileId) (k : Kernel) : State := tileFault s t k.q 2 k.seq (fun s => endKernel s t stTileFault)

/-- R136: the registers of a kernel at launch. -/
def initRegs (x : Tile) (args : List Word) : Tile :=
  { x with sregs := args.zipIdx.foldl (fun m a => mset 0 m (a.2 + 1) a.1) [], masks := [], vtags := [] }

/-- R135, R136: launch: a sequence number, the checks, and a kernel that runs or reports its refusal. A kernel that the checks
end writes nothing: the accumulators of its LAMASK keep their marks, R135 over R158 (DEDUCED, log 97). -/
def launchKernel (s : State) (t : TileId) (q : Nat) (l : Launch) (ws : List Word) : State :=
  let seq := nextSeq s t
  let s := takeSeq s t
  let x := getTile s t
  let k := parseKernel x seq q l.pc (bits (ws.getD 0 0) 15 0)
  let s := addUnit s t q { kind := 2, seq, ctx := 0, pc := l.pc }
  let v := launchVerdict x k
  if v ≠ 0 then
    let s := setLastFlags (countEnd s t seq v false) t 0
    advance (unitEnded s t q 2 seq { status := v }) t q 9
  else
    let s := modTile s t (fun x => { initRegs x (ws.drop 1) with kernel := some k })
    let s := advance (setRunning s t true) t q 9
    if kmBad x k.hofs (32 + 8 * k.len) then kernelFault s t k else s

/-! ### Running an instruction (R137, R140) -/

/-- What an instruction does: end the kernel with a status, writing nothing; or a new tile with the flags it raised and
the accumulators whose INVALID mark it clears; or a branch. -/
inductive KOut where
  | stop (e : Status)
  | done (x : Tile) (flags : Nat) (clr : Nat)
  | jump (x : Tile) (pc : Nat)

/-- R140: execution reaches the word after the last. -/
def kAdvance (s : State) (t : TileId) (k : Kernel) (pc : Nat) : State :=
  let s := modTile s t (fun x => { x with kernel := some { k with pc } })
  if k.len ≤ pc then endKernel s t stKernelFault else s

/-- R159, R160: the instruction word at the PC is uncorrectable. -/
def kWordBad (x : Tile) (k : Kernel) : Bool := kmBad x (k.hofs + 32 + 8 * k.pc) 8

/-- The running kernel's instruction at its PC, when it has the opcode. With `fault`, a register that it reads is
uncorrectable or its checked unit fails: it writes nothing, and the kernel ends TILE_FAULT (R160). -/
def kRun (s : State) (t : TileId) (op : Nat) (fault : Bool) (f : Tile → Kernel → Word → KOut) : State :=
  let x := getTile s t
  match x.kernel with
  | none => s
  | some k =>
    if k.ending.isSome || k.len ≤ k.pc then s
    else
      let w := kWord x k k.pc
      if bits w 63 56 ≠ op then s
      else if fault || kWordBad x k then kernelFault s t k
      else match f x k w with
      | .stop e => endKernel s t e
      | .done y fl clr =>
        let s := setTile s t y
        let s := if clr = 0 then s else setFld s (stAt t) 55 48 (fld s (stAt t) 55 48 &&& (255 - clr))
        kAdvance s t { k with flags := k.flags ||| fl } (k.pc + 1)
      | .jump y pc => kAdvance (setTile s t y) t k pc

/-- LAk is marked INVALID (R158). -/
def laInvalid (s : State) (t : TileId) (k : Nat) : Bool := flag s (stAt t) (48 + k)

/-- A vector operation: the source registers must have the kinds given, else KERNEL_FAULT (R140). -/
def needKind (x : Tile) (vs : List Nat) (kind : Nat) : Bool := vs.all (fun v => (vtag x v).kind == kind)

/-! ### Scratch accesses (R137, R140, R159) -/

/-- The lowest status that a read of n bytes of scratch meets: 0 when none (R37, R140). -/
def readStop (x : Tile) (a n : Nat) : Status :=
  if a < 0x100000 ∧ anyInvalid x a (min n (0x100000 - a)) then stInvalidDest
  else if 0x100000 < a + n then stKernelFault
  else if anyPoison x.mem a n then stPoison
  else 0

/-- Of two statuses met in one cycle the lowest nonzero one (R37). -/
def lowest (a b : Status) : Status := if a = 0 then b else if b = 0 then a else min a b

/-- R140: a write not wholly inside one output range. -/
def writeStop (k : Kernel) (a n : Nat) : Status :=
  if n = 0 ∨ (kernelRanges k).any (fun r => r.1 ≤ a && a + n ≤ r.1 + r.2) then 0 else stKernelFault

/-- s[i] + offset, a 64-bit address aligned down (R51, R143). -/
def sAddr (x : Tile) (i : Nat) (off : Int) (al : Nat) : Nat := alignDown (codeN 64 ((sNat x i : Int) + off)) al

/-- Bytes that n elements occupy exactly, without padding. -/
def elemBytes (f n : Nat) : Nat :=
  if f = 0 then cdiv n 2 else if f = 1 then n else if f = 2 then 2 * n else if f = 4 then 16 * n else planeBytes f n

/-- A scale read from a scalar register, in range (R140). -/
def regScale (x : Tile) (i : Nat) : Option Int := let v := sInt x i; if -32767 ≤ v ∧ v ≤ 32767 then some v else none
/-- An A48 context scale read from a scalar register, in range (R140). -/
def ctxOf (x : Tile) (i : Nat) : Option Int := let v := sInt x i; if -512 ≤ v ∧ v ≤ 511 then some v else none

/-! ### Long accumulators (R88-R92, R157) -/

def getLa (x : Tile) (k : Nat) : LongAcc := mget {} x.la k
def setLa (x : Tile) (k : Nat) (l : LongAcc) : Tile := { x with la := mset {} x.la k l }

/-- R91: NAN and INVALID when both infinities are now held and were not before. -/
def bothInf (old new : LongAcc) : LongAcc × Nat :=
  if new.pinf && new.ninf && !(old.pinf && old.ninf) then ({ new with nan := true }, fInvalid) else (new, 0)

/-- R89-R91: insert a product. -/
def laInsert (l : LongAcc) (a b : Src) : LongAcc × Nat :=
  let n := { l with count := l.count + 1 }
  let neg := srcNeg a != srcNeg b
  if isNanSrc a || isNanSrc b then ({ n with nan := true }, fl (isSigSrc a || isSigSrc b) fInvalid)
  else if (srcInf a && srcZero b) || (srcZero a && srcInf b) then ({ n with nan := true }, fInvalid)
  else if srcInf a || srcInf b then bothInf l (if neg then { n with ninf := true } else { n with pinf := true })
  else match a, b with
  | .fin m1 e1 _, .fin m2 e2 _ =>
    let p := m1 * m2
    if p = 0 then (if neg then { n with nzero := true } else { n with pzero := true }, 0)
    else ({ n with nonzero := true, val := n.val + BitVec.ofInt 4352 (shl p (e1 + e2 + 2148).toNat) }, 0)
  | _, _ => (n, 0)

/-- Insert the products of two lists of operands. -/
def laInserts (l : LongAcc) (ps : List (Src × Src)) : LongAcc × Nat :=
  ps.foldl (fun r p => let i := laInsert r.1 p.1 p.2; (i.1, r.2 ||| i.2)) (l, 0)

/-- R92: round into binary32 (1) or binary64 (2). -/
def laRound (l : LongAcc) (f dir : Nat) : Nat × Nat :=
  if l.nan then (ieeeNan f, 0)
  else if l.pinf then (ieeeInf f false, 0)
  else if l.ninf then (ieeeInf f true, 0)
  else if l.val ≠ 0 then ieeeRound f dir true l.val.msb l.val.toInt.natAbs (-2148)
  else if l.count = 0 then (ieeeZero f false, 0)
  else if dir = 2 then (ieeeZero f (!(l.pzero && !l.nzero && !l.nonzero)), 0)
  else (ieeeZero f (l.nzero && !l.pzero && !l.nonzero), 0)

/-- R157: the state bits of an image. -/
def laState (l : LongAcc) : Nat :=
  fl l.nan 1 + fl l.pinf 2 + fl l.ninf 4 + fl l.pzero 8 + fl l.nzero 16 + fl l.nonzero 32
/-- R157: the image of an accumulator. -/
def laImage (l : LongAcc) : List Byte :=
  leBytes 544 l.val.toNat ++ leBytes 8 (laState l) ++ leBytes 8 l.count.toNat ++ leBytes 16 0
/-- R157: the accumulator that an image holds. -/
def laOfImage (d : List Byte) : LongAcc :=
  let st := leNat ((d.drop 544).take 8)
  { val := BitVec.ofNat 4352 (leNat (d.take 544)), nan := st % 2 == 1, pinf := st / 2 % 2 == 1, ninf := st / 4 % 2 == 1,
    pzero := st / 8 % 2 == 1, nzero := st / 16 % 2 == 1, nonzero := st / 32 % 2 == 1,
    count := BitVec.ofNat 64 (leNat ((d.drop 552).take 8)) }
/-- R91, R157: an exact merge. -/
def laMerge (l i : LongAcc) : LongAcc × Nat :=
  let m : LongAcc := { val := l.val + i.val, nan := l.nan || i.nan, pinf := l.pinf || i.pinf, ninf := l.ninf || i.ninf,
                       pzero := l.pzero || i.pzero, nzero := l.nzero || i.nzero, nonzero := l.nonzero || i.nonzero, count := l.count + i.count }
  if m.pinf && m.ninf && !(l.pinf && l.ninf) && !(i.pinf && i.ninf) then ({ m with nan := true }, fInvalid) else (m, 0)

end Sys2Proof.Machine
end

