-- ==== Sys2Proof/Machine/Kernel.lean ====
section
/-! DEFINITION. The kernel instructions and the events of a kernel (R133-R161). -/

namespace Sys2Proof.Machine
open Sys2Proof

/-! ### Launch and ends -/

/-- The kernel may be launched: none runs, its outputs are static or reserved; a refused header is launched at once
(R210). -/
def kernelReady (s : State) (x : Tile) (q hofs : Nat) : Bool :=
  let k := parseKernel x 0 q 0 hofs
  headerRefused x k || (x.kernel.isNone && x.computeOn && s.pins.pwrGood && (kernelRanges k).all (fun r => reservedOut x r.1 r.2))

/-- KERNEL_LAUNCH (R135, R136, R210). -/
def execKernelLaunch (t : TileId) (q : Fin 2) (s : State) : Out := whenRunning s fun s =>
  tpIssue s t q 0x30 fun s l ws =>
    let x := getTile s t
    issueWhen (kernelReady s x q (bits (ws.getD 0 0) 15 0) && !(q.val == 0 && x.preempted) && tileOpen s t) s t q fun s =>
      launchKernel s t q l ws

/-- R138: the kernel commits and reports its number, status, flags and s12-s15. -/
def commitKernel (s : State) (t : TileId) (k : Kernel) : State :=
  let x := getTile s t
  let kout := [sreg x 12, sreg x 13, sreg x 14, sreg x 15]
  let s := setRunning (setTile s t { x with kernel := none }) t false
  let s := setLastFlags (countEnd s t k.seq stOk true) t k.flags
  let s := autoWritten s t (kernelRanges k)
  unitEnded s t k.q 2 k.seq { status := stOk, flags := k.flags, committed := true, kout := some kout }

/-- KERNEL_END: the kernel's END retires (R138); a fault of R160 ends it with TILE_FAULT instead. -/
def execKernelEnd (t : TileId) (fault : Bool) (s : State) : Out := whenRunning s fun s =>
  let x := getTile s t
  match x.kernel with
  | none => s
  | some k =>
    if k.ending.isSome || k.len ≤ k.pc || bits (kWord x k k.pc) 63 56 ≠ 0x00 then s
    else if fault || kWordBad x k then kernelFault s t k else commitKernel s t k

/-- KERNEL_LIMIT: the cycle limit is reached without commit (R140). -/
def execKernelLimit (t : TileId) (s : State) : Out := whenRunning s fun s =>
  if isV t then endKernel s t stKernelLimit else s

/-- KERNEL_ABORT_REPORT: a kernel that ended before commit reports, with flags 0x0000 (R139, R140). -/
def execKernelAbortReport (t : TileId) (s : State) : Out := whenRunning s fun s =>
  let x := getTile s t
  match x.kernel with
  | none => s
  | some k =>
    match k.ending with
    | none => s
    | some e =>
      let s := setRunning (setTile s t { x with kernel := none }) t false
      let s := setLastFlags (countEnd s t k.seq e false) t 0
      unitEnded s t k.q 2 k.seq { status := e }

/-- KERNEL_MEMORY_APPLY: the oldest write held while a kernel ran is applied and acknowledged (R133); so is a read that came
behind it (R304). -/
def execKernelMemoryApply (t : TileId) (s : State) : Out := whenRunning s fun s =>
  let x := getTile s t
  match x.heldKm with
  | [] => s
  | p :: r =>
    if x.kernel.isSome then s else
    let s := setTile s t { x with heldKm := r }
    if p.op = 0x02 then
      let w := windowWrite s t (p.addr.toNat % 0x800000) p.data p.poison.toNat
      sendPkt w.2 (response p w.1 [] 0)
    else if p.op = 0x01 then
      let w := windowRead s t (p.addr.toNat % 0x800000) p.len
      sendPkt s (response p w.1 w.2.1 w.2.2)
    else streamResponseAt s p

/-! ### Scalar instructions (R142) -/

/-- SLI. -/
def execSli (i : KernelStep) (s : State) : Out := whenRunning s fun s =>
  kRun s i.tile 0x01 i.fault fun x _ w => .done (setSreg x (fSD w) (BitVec.ofInt 64 (fImm48 w))) 0 0

/-- SADDI. -/
def execSaddi (i : KernelStep) (s : State) : Out := whenRunning s fun s =>
  kRun s i.tile 0x02 i.fault fun x _ w => .done (setSreg x (fSD w) (sreg x (fSS w) + BitVec.ofInt 64 (fImm48 w))) 0 0

/-- BNZD. -/
def execBnzd (i : KernelStep) (s : State) : Out := whenRunning s fun s =>
  kRun s i.tile 0x03 i.fault fun x k w =>
    let r := sreg x (fSD w) - 1
    .jump (setSreg x (fSD w) r) (if r ≠ 0 then bits w 12 0 else k.pc + 1)

/-- BR. -/
def execBr (i : KernelStep) (s : State) : Out := whenRunning s fun s =>
  kRun s i.tile 0x04 i.fault fun x _ w => .jump x (bits w 12 0)

/-- SLD. -/
def execSld (i : KernelStep) (s : State) : Out := whenRunning s fun s =>
  kRun s i.tile 0x05 i.fault fun x _ w =>
    let a := sAddr x (fSS w) (fImm48 w) 1
    let e := readStop x a 8
    if e ≠ 0 then .stop e else .done (setSreg x (fSD w) (BitVec.ofNat 64 (numAt (memByte x.mem) a 8))) 0 0

/-- SST. -/
def execSst (i : KernelStep) (s : State) : Out := whenRunning s fun s =>
  kRun s i.tile 0x06 i.fault fun x k w =>
    let a := sAddr x (fSS w) (fImm48 w) 1
    let e := writeStop k a 8
    if e ≠ 0 then .stop e else .done (tStore x a (leBytes 8 (sNat x (fSD w)))) 0 0

/-! ### Loads, stores and conversions (R143-R146) -/

/-- Addresses of an element plane and a scale plane of the M form (R143). -/
def mElem (x : Tile) (w : Word) : Nat := sAddr x (bits w 45 42) (64 * (bits w 41 28 : Nat)) (planeAlign (bits w 49 46))
def mScale (x : Tile) (w : Word) : Nat := sAddr x (bits w 27 24) (8 * (bits w 23 7 : Nat)) 8

/-- R144 (AUTO): the scale that a register takes from the four blocks. -/
def autoScale (x : Tile) (f sb : Nat) : Int :=
  let es := (List.range 4).filterMap (blockScale (memByte x.mem) f sb)
  match es with
  | [] => 0
  | e :: r =>
    let m := r.foldl max e
    if f = 4 then m else m - 63 + (if f = 0 then 4 else if f = 1 then 8 else 16)

/-- R144: a source value in an I64 lane at a scale; NaR raises NAR. -/
def laneOf (scale : Int) (v : Src) : Option Int × Nat :=
  match v with
  | .fin m e _ => let r := toI64 m e scale; (some r.1, r.2)
  | _ => (none, fNar)

/-- R144: a source value as a pair at a scale. -/
def pairOf (scale : Int) (v : Src) : (Int × Int) × Nat :=
  match v with
  | .fin m e _ => let r := alignPair m (e + 63) scale; ((r.1, r.2.1), r.2.2)
  | _ => ((i64Nar, 0), fNar)

/-- The element values that VLD reads. -/
def vldSrcs (x : Tile) (f a sb : Nat) (ctx : Int) : List Src :=
  (List.range 128).map (srcAt (memByte x.mem) f a sb ctx)

/-- OR of flags. -/
def orAll (l : List Nat) : Nat := l.foldl (· ||| ·) 0

/-- VLD into a register or a pair (R143, R144). -/
def vldDo (x : Tile) (w : Word) (f a sb : Nat) (sc : Int) : Tile × Nat :=
  let v := bits w 55 50
  let all := BitVec.allOnes 128
  if f = 4 then
    let ps := (vldSrcs x f a sb 0).map (pairOf sc)
    let x := writeVec x v all (fun i => BitVec.ofInt 64 (ps.getD i ((0, 0), 0)).1.1) 2 sc
    (writeVec x (v + 1) all (fun i => BitVec.ofInt 64 (ps.getD i ((0, 0), 0)).1.2) 3 0, orAll (ps.map (·.2)))
  else if f ≤ 3 then
    let ls := (vldSrcs x f a sb sc).map (laneOf sc)
    (writeVec x v all (fun i => codeLane (ls.getD i (none, 0)).1) 1 sc, orAll (ls.map (·.2)))
  else
    let n := planeBytes f 128 / 128
    (writeVec x v all (fun i => BitVec.ofNat 64 (numAt (memByte x.mem) (a + n * i) n)) (if f ≤ 7 then f - 1 else 0) 0, 0)

/-- VLD. -/
def execVld (i : KernelStep) (s : State) : Out := whenRunning s fun s =>
  kRun s i.tile 0x10 i.fault fun x _ w =>
    let f := bits w 49 46
    let a := mElem x w
    let sb := mScale x w
    let e := lowest (readStop x a (planeBytes f 128)) (if isBlock f then readStop x sb (scaleBytes f 128) else 0)
    let fixed := f = 3 ∨ (isBlock f ∧ bit w 6)
    let sc := if fixed then regScale x (bits w 5 2) else some (if isBlock f then autoScale x f sb else 0)
    match sc with
    | none => .stop (lowest e stKernelFault)
    | some sc => if e ≠ 0 then .stop e else let r := vldDo x w f a sb sc; .done r.1 r.2 0

/-- The exact values of a register's lanes (R130); none when its kind has none: a PAIR register that is odd, or whose odd
partner is not PAIRLO, holds no pair (DEDUCED, log 97). -/
def regSrcs (x : Tile) (v : Nat) : Option (List Src) :=
  let g := vtag x v
  if g.kind = 1 then
    some ((List.range 128).map (fun i => match laneCode x v i with | none => .nar | some c => .fin c g.scale false))
  else if g.kind = 2 ∧ v % 2 = 0 ∧ (vtag x (v + 1)).kind = 3 then
    some ((List.range 128).map (fun i => match laneCode x v i with
      | none => .nar
      | some c => .fin (pairInt c (lane x (v + 1) i).toInt) (g.scale - 63) false))
  else if 4 ≤ g.kind ∧ g.kind ≤ 6 then
    some ((List.range 128).map (fun i => ieeeDec (g.kind - 4) ((lane x v i).toNat % 2 ^ ieeeW (g.kind - 4))))
  else none

/-- R145: what a VST writes: element bytes, scale bytes, flags; none for a pairing it does not accept or a scale or
direction out of range. -/
def vstData (x : Tile) (strict : Bool) (v f sc : Nat) : Option (List Byte × List Byte × Nat) :=
  let g := vtag x v
  let raw (n : Nat) : List Byte := (List.range 128).flatMap (fun i => leBytes n (lane x v i).toNat)
  if g.kind = 0 then (if f = 8 then some (raw 8, [], 0) else if f = 9 then some (raw 4, [], 0) else none)
  else if 8 ≤ f then none
  else if 4 ≤ g.kind ∧ g.kind ≤ 6 ∧ 5 ≤ f then
    (if g.kind = f - 1 then some (raw (ieeeW (f - 5) / 8), [], 0) else none)
  else
    match regSrcs x v with
    | none => none
    | some l =>
      if f = 3 then (ctxOf x sc).map (fun c => putElems 3 strict c 0 l)
      else if 5 ≤ f then (if 5 ≤ sNat x sc % 8 then none else some (putElems f strict 0 (sNat x sc % 8) l))
      else some (putElems f strict 0 0 l)

/-- VST (R145, R160). -/
def execVst (t : TileId) (fault : Bool) (s : State) : Out := whenRunning s fun s =>
  kRun s t 0x11 fault fun x k w =>
    match vstData x k.strict (bits w 55 50) (bits w 49 46) (bits w 5 2) with
    | none => .stop stKernelFault
    | some r =>
      let a := mElem x w
      let sb := mScale x w
      let e := lowest (writeStop k a r.1.length) (writeStop k sb r.2.1.length)
      if e ≠ 0 then .stop e
      else .done (tStore (tStore x a r.1) sb r.2.1) r.2.2 0

/-- VCVT (R146, R160). -/
def execVcvt (t : TileId) (fault : Bool) (s : State) : Out := whenRunning s fun s =>
  kRun s t 0x12 fault fun x k w =>
    let sf := bits w 55 52; let df := bits w 51 48; let n := bits w 20 14 + 1
    let sa := sAddr x (bits w 44 41) 0 (planeAlign sf)
    let sb := sAddr x (bits w 40 37) 0 8
    let da := sAddr x (bits w 36 33) 0 (planeAlign df)
    let db := sAddr x (bits w 32 29) 0 8
    let e := lowest (readStop x sa (elemBytes sf n)) (if isBlock sf then readStop x sb (scaleBytes sf n) else 0)
    let sctx := if sf = 3 then ctxOf x (bits w 28 25) else some 0
    let dctx := if df = 3 then ctxOf x (bits w 24 21) else some 0
    match sctx, dctx with
    | some sc, some dc =>
      let l := (List.range n).map (srcAt (memByte x.mem) sf sa sb sc)
      let r := putElems df k.strict dc (bits w 47 45) l
      let e := lowest e (lowest (writeStop k da r.1.length) (writeStop k db r.2.1.length))
      if e ≠ 0 then .stop e
      else .done (tStore (tStore x da r.1) db r.2.1) (r.2.2 ||| readFlags l) 0
    | _, _ => .stop (lowest e stKernelFault)

/-- VSCL: an I64 register at another scale (R144). -/
def execVscl (i : KernelStep) (s : State) : Out := whenRunning s fun s =>
  kRun s i.tile 0x13 i.fault fun x _ w =>
    match regScale x (fVT w % 16) with
    | none => .stop stKernelFault
    | some sc =>
      if !needKind x [fVS w] 1 then .stop stKernelFault
      else
        let m := mreg x (fMask w)
        let g := vtag x (fVS w)
        let r (i : Nat) : Option Int × Nat := match laneCode x (fVS w) i with
          | none => (none, fNar) | some c => let q := toI64 c g.scale sc; (some q.1, q.2)
        .done (writeVec x (fVD w) m (fun i => codeLane (r i).1) 1 sc)
          (orAll ((List.range 128).map (fun i => if m.getLsbD i then (r i).2 else 0))) 0

/-! ### Moves and bitwise operations (R142) -/

/-- An instruction that fills lanes under its mask with bits of a kind. -/
def laneOp (x : Tile) (w : Word) (kind : Nat) (scale : Int) (f : Nat → BitVec 64) : KOut :=
  .done (writeVec x (fVD w) (mreg x (fMask w)) f kind scale) 0 0

/-- VTAG. -/
def execVtag (i : KernelStep) (s : State) : Out := whenRunning s fun s =>
  kRun s i.tile 0x14 i.fault fun x _ w => laneOp x w (bits w 2 0) (sextN 16 (bits w 31 16)) (lane x (fVS w))

/-- VIOTA. -/
def execViota (i : KernelStep) (s : State) : Out := whenRunning s fun s =>
  kRun s i.tile 0x15 i.fault fun x _ w => laneOp x w 0 0 (fun i => sreg x (fVT w % 16) + BitVec.ofNat 64 i)

/-- VSEL: its mask selects between the two sources. -/
def execVsel (i : KernelStep) (s : State) : Out := whenRunning s fun s =>
  kRun s i.tile 0x26 i.fault fun x _ w =>
    let m := mreg x (fMask w)
    let g := vtag x (fVS w)
    let g := if g = vtag x (fVT w) then g else {}
    .done (writeVec x (fVD w) (BitVec.allOnes 128) (fun i => if m.getLsbD i then lane x (fVS w) i else lane x (fVT w) i)
      g.kind g.scale) 0 0

/-- VROT. -/
def execVrot (i : KernelStep) (s : State) : Out := whenRunning s fun s =>
  kRun s i.tile 0x27 i.fault fun x _ w =>
    let g := vtag x (fVS w)
    laneOp x w g.kind g.scale (fun i => lane x (fVS w) ((i + bits w 6 0) % 128))

/-- VAND. -/
def execVand (i : KernelStep) (s : State) : Out := whenRunning s fun s =>
  kRun s i.tile 0x28 i.fault fun x _ w => laneOp x w 0 0 (fun i => lane x (fVS w) i &&& lane x (fVT w) i)

/-- VOR. -/
def execVor (i : KernelStep) (s : State) : Out := whenRunning s fun s =>
  kRun s i.tile 0x29 i.fault fun x _ w => laneOp x w 0 0 (fun i => lane x (fVS w) i ||| lane x (fVT w) i)

/-- VXOR. -/
def execVxor (i : KernelStep) (s : State) : Out := whenRunning s fun s =>
  kRun s i.tile 0x2A i.fault fun x _ w => laneOp x w 0 0 (fun i => lane x (fVS w) i ^^^ lane x (fVT w) i)

/-- VSHL. -/
def execVshl (i : KernelStep) (s : State) : Out := whenRunning s fun s =>
  kRun s i.tile 0x2B i.fault fun x _ w => laneOp x w 0 0 (fun i => lane x (fVS w) i <<< bits w 5 0)

/-- VSHR, arithmetic. -/
def execVshr (i : KernelStep) (s : State) : Out := whenRunning s fun s =>
  kRun s i.tile 0x2C i.fault fun x _ w => laneOp x w 0 0 (fun i => (lane x (fVS w) i).sshiftRight (bits w 5 0))

/-- MLOG. -/
def execMlog (i : KernelStep) (s : State) : Out := whenRunning s fun s =>
  kRun s i.tile 0x2D i.fault fun x _ w =>
    let a := mreg x (fVS w % 8); let b := mreg x (fVT w % 8); let o := bits w 1 0
    let r := if o = 0 then a &&& b else if o = 1 then a ||| b else if o = 2 then a ^^^ b else a &&& ~~~b
    .done (writeMask x (fVD w % 8) (mreg x (fMask w)) r.getLsbD) 0 0

/-! ### Lane integer arithmetic (R147, R148) -/

/-- R131, R147: a lane's code brought to a scale no larger than its register's: code, and OVF when it saturated; none is
NaR. -/
def codeAtScale (x : Tile) (v i : Nat) (sc : Int) : Option Int × Nat :=
  match laneCode x v i with
  | none => (none, 0)
  | some c => let r := clip i64Max (shl c ((vtag x v).scale - sc).toNat); (some r.1, fl r.2 fOvf)

/-- The smaller source scale. -/
def minScale (x : Tile) (w : Word) : Int := min (vtag x (fVS w)).scale (vtag x (fVT w)).scale

/-- An I64 operation lane by lane under the mask: codes (none is NaR) and flags. -/
def i64Op (x : Tile) (w : Word) (srcs : List Nat) (scale : Int) (f : Nat → Option Int × Nat) : KOut :=
  if !needKind x srcs 1 then .stop stKernelFault
  else
    let m := mreg x (fMask w)
    .done (writeVec x (fVD w) m (fun i => codeLane (f i).1) 1 scale)
      (orAll ((List.range 128).map (fun i => if m.getLsbD i then (f i).2 else 0))) 0

/-- R74, R131: a two-operand result: NaR absorbs, else the exact result saturated. -/
def satOp (a b : Option Int × Nat) (f : Int → Int → Int) : Option Int × Nat :=
  match a.1, b.1 with
  | some p, some q => let r := clip i64Max (f p q); (some r.1, a.2 ||| b.2 ||| fl r.2 fOvf)
  | _, _ => (none, a.2 ||| b.2 ||| fNar)

/-- VADD. -/
def execVadd (i : KernelStep) (s : State) : Out := whenRunning s fun s =>
  kRun s i.tile 0x20 i.fault fun x _ w =>
    let sc := minScale x w
    i64Op x w [fVS w, fVT w] sc (fun i => satOp (codeAtScale x (fVS w) i sc) (codeAtScale x (fVT w) i sc) (· + ·))

/-- VSUB. -/
def execVsub (i : KernelStep) (s : State) : Out := whenRunning s fun s =>
  kRun s i.tile 0x21 i.fault fun x _ w =>
    let sc := minScale x w
    i64Op x w [fVS w, fVT w] sc (fun i => satOp (codeAtScale x (fVS w) i sc) (codeAtScale x (fVT w) i sc) (· - ·))

/-- VMUL: a rounding right shift of the exact product. -/
def execVmul (i : KernelStep) (s : State) : Out := whenRunning s fun s =>
  kRun s i.tile 0x22 i.fault fun x _ w =>
    let n := bits w 5 0
    let sc := (vtag x (fVS w)).scale + (vtag x (fVT w)).scale + n
    if sc < -32767 ∨ 32767 < sc then .stop stKernelFault
    else i64Op x w [fVS w, fVT w] sc (fun i =>
      match laneCode x (fVS w) i, laneCode x (fVT w) i with
      | some a, some b =>
        let r := convRound (a * b) n
        let c := clip i64Max r.1
        (some c.1, fl r.2 fInx ||| fl c.2 fOvf)
      | _, _ => (none, fNar))

/-- A one-operand exact operation. -/
def exactOp (x : Tile) (w : Word) (f : Int → Int) : KOut :=
  i64Op x w [fVS w] (vtag x (fVS w)).scale (fun i => match laneCode x (fVS w) i with
    | none => (none, fNar) | some c => (some (f c), 0))

/-- VNEG. -/
def execVneg (i : KernelStep) (s : State) : Out := whenRunning s fun s =>
  kRun s i.tile 0x23 i.fault fun x _ w => exactOp x w (fun c => -c)

/-- VABS. -/
def execVabs (i : KernelStep) (s : State) : Out := whenRunning s fun s =>
  kRun s i.tile 0x24 i.fault fun x _ w => exactOp x w (fun c => (c.natAbs : Int))

/-- VCMP: a predicate of the codes at the smaller scale, a NaR lane unordered (log 19). -/
def execVcmp (i : KernelStep) (s : State) : Out := whenRunning s fun s =>
  kRun s i.tile 0x25 i.fault fun x _ w =>
    if !needKind x [fVS w, fVT w] 1 then .stop stKernelFault
    else
      let sc := minScale x w
      let m := mreg x (fMask w)
      let r (i : Nat) : Bool × Nat :=
        match (codeAtScale x (fVS w) i sc).1, (codeAtScale x (fVT w) i sc).1 with
        | some a, some b => (predOf (bits w 2 0) false (if a < b then -1 else if a = b then 0 else 1), 0)
        | _, _ => (predOf (bits w 2 0) true 0, fNar)
      .done (writeMask x (fVD w % 8) m (fun i => (r i).1))
        (orAll ((List.range 128).map (fun i => if m.getLsbD i then (r i).2 else 0))) 0

/-- R148: the smaller or larger code; a NaR yields the other operand and raises NAR. -/
def minMaxOp (a b : Option Int × Nat) (mx : Bool) : Option Int × Nat :=
  let fg := a.2 ||| b.2
  match a.1, b.1 with
  | some p, some q => (some (if mx then max p q else min p q), fg)
  | some p, none => (some p, fg ||| fNar)
  | none, some q => (some q, fg ||| fNar)
  | none, none => (none, fg ||| fNar)

/-- VMIN. -/
def execVmin (i : KernelStep) (s : State) : Out := whenRunning s fun s =>
  kRun s i.tile 0x30 i.fault fun x _ w =>
    let sc := minScale x w
    i64Op x w [fVS w, fVT w] sc (fun i => minMaxOp (codeAtScale x (fVS w) i sc) (codeAtScale x (fVT w) i sc) false)

/-- VMAX. -/
def execVmax (i : KernelStep) (s : State) : Out := whenRunning s fun s =>
  kRun s i.tile 0x31 i.fault fun x _ w =>
    let sc := minScale x w
    i64Op x w [fVS w, fVT w] sc (fun i => minMaxOp (codeAtScale x (fVS w) i sc) (codeAtScale x (fVT w) i sc) true)

/-! ### Searches (R149) -/

/-- The better of two candidates: by code, then by the lower index. -/
def betterOf (mx : Bool) (a b : Int × Nat) : Int × Nat :=
  if a.1 = b.1 then (if b.2 < a.2 then b else a) else if (b.1 < a.1) != mx then b else a

/-- R149: the search: code and index to s[SD] and s[SD + 1]; the carried pair is a candidate under IMM[0]. A carried code of
NaR with a lesser index is ignored as NaR lanes are, and raises NAR (DEDUCED, log 97). -/
def searchOp (x : Tile) (w : Word) (mx : Bool) : KOut :=
  if !needKind x [fVS w] 1 then .stop stKernelFault
  else
    let m := mreg x (fMask w)
    let sd := fVD w % 16
    let base := sNat x (fVT w % 16)
    let on := (List.range 128).filter m.getLsbD
    let cs := on.filterMap (fun i => (laneCode x (fVS w) i).map (fun c => (c, (base + i) % 2 ^ 64)))
    let carried := bit w 0 && sNat x (sd + 1) != 2 ^ 64 - 1
    let cc := sInt x sd
    let cs := if carried && cc != i64Nar then (cc, sNat x (sd + 1)) :: cs else cs
    let nar := on.any (fun i => (laneCode x (fVS w) i).isNone) || (carried && cc == i64Nar)
    match cs with
    | [] => .done (setSreg (setSreg x sd (codeLane none)) (sd + 1) (BitVec.allOnes 64)) fNar 0
    | c :: r =>
      let b := r.foldl (betterOf mx) c
      .done (setSreg (setSreg x sd (codeLane (some b.1))) (sd + 1) (BitVec.ofNat 64 b.2)) (fl nar fNar) 0

/-- VRMIN. -/
def execVrmin (i : KernelStep) (s : State) : Out := whenRunning s fun s =>
  kRun s i.tile 0x32 i.fault fun x _ w => searchOp x w false

/-- VRMAX. -/
def execVrmax (i : KernelStep) (s : State) : Out := whenRunning s fun s =>
  kRun s i.tile 0x33 i.fault fun x _ w => searchOp x w true

/-! ### Polynomials (R150, R151) -/

/-- A table header (R150). -/
structure PolyTab where
  lo : Int
  xs : Int
  ys : Int
  cs : Int
  w  : Nat
  k  : Nat
  d  : Nat
  oor : Nat
  rsvd : Bool
  deriving DecidableEq, Repr

def polyTab (x : Tile) (a : Nat) : PolyTab :=
  let b (i : Nat) : Nat := (memByte x.mem (a + i)).toNat
  let h (i : Nat) : Int := sextN 16 (numAt (memByte x.mem) (a + i) 2)
  { lo := sextN 64 (numAt (memByte x.mem) a 8), xs := h 8, ys := h 10, cs := h 12, w := b 14, k := b 15, d := b 16, oor := b 17,
    rsvd := (List.range 46).any (fun i => b (18 + i) != 0) }

/-- R150: the header is invalid. A YS of −32768 is not among R150's faults: the table is accepted, and the result takes that
SCALE (DEDUCED, log 97). -/
def polyBad (p : PolyTab) : Bool := 8 < p.k || p.d < 1 || 5 < p.d || 1 < p.oor || 63 < p.w || p.rsvd

/-- Coefficient i of segment j. -/
def polyCoef (x : Tile) (a : Nat) (p : PolyTab) (j i : Nat) : Int :=
  sextN 64 (numAt (memByte x.mem) (a + 64 + 8 * (j * (p.d + 1) + i)) 8)

/-- floor(z × 2^k) of an integer for any k. -/
def scaleFloor (z k : Int) : Int := if 0 ≤ k then shl z k.toNat else z / ((2 ^ (-k).toNat : Nat) : Int)

/-- Horner's rule with rounding and saturation (R151). -/
def polyHorner (c : Nat → Int) (u : Int) : Nat → Int × Nat → Int × Nat
  | 0, p => p
  | i + 1, p =>
    let r := convRound (p.1 * u) 32
    let q := clip i64Max (r.1 + c i)
    polyHorner c u i (q.1, p.2 ||| fl r.2 fInx ||| fl q.2 fOvf)

/-- R151: one lane: t × 2^(K + 32), floored, tells the segment and u. A NaR LO absorbs (log 20). -/
def polyLane (x : Tile) (a : Nat) (p : PolyTab) (v : Option Int) (xe : Int) : Option Int × Nat :=
  match v with
  | none => (none, fNar)
  | some c =>
    if p.lo = i64Nar then (none, fNar) else
    let e := min xe p.xs
    let n := shl c (xe - e).toNat - shl p.lo (p.xs - e).toNat
    let z := scaleFloor n (e - p.xs - p.w + p.k + 32)
    let top : Int := 2 ^ (p.k + 32)
    let out : Bool := z < 0 || top ≤ z
    if out && p.oor == 1 then (none, fNar)
    else
      let z := if z < 0 then 0 else if top ≤ z then top - 1 else z
      let j := (z / 2 ^ 32).toNat
      let u := z % 2 ^ 32
      if (List.range (p.d + 1)).any (fun i => polyCoef x a p j i == i64Nar) then (none, fNar)
      else
        let r := polyHorner (polyCoef x a p j) u p.d (polyCoef x a p j p.d, 0)
        let q := toI64 r.1 p.cs p.ys
        (some q.1, r.2 ||| q.2)

/-- VPOLY. -/
def execVpoly (i : KernelStep) (s : State) : Out := whenRunning s fun s =>
  kRun s i.tile 0x40 i.fault fun x _ w =>
    let a := sAddr x (fVT w % 16) 0 64
    let e := readStop x a 64
    if e ≠ 0 then .stop e
    else
      let p := polyTab x a
      if polyBad p then .stop stKernelFault
      else
        let e := readStop x (a + 64) (8 * 2 ^ p.k * (p.d + 1))
        if e ≠ 0 then .stop e
        else i64Op x w [fVS w] p.ys (fun i => polyLane x a p (laneCode x (fVS w) i) (vtag x (fVS w)).scale)

/-! ### Checks (R161) -/

/-- VCRC. -/
def execVcrc (i : KernelStep) (s : State) : Out := whenRunning s fun s =>
  kRun s i.tile 0x50 i.fault fun x _ w =>
    let n := bits w 20 0
    let a := sNat x (fSS w)
    let e := readStop x a n
    if e ≠ 0 then .stop e
    else
      let d := tBytes x a n
      let seed := sNat x (fSD w)
      .done (setSreg x (fSD w) (BitVec.ofNat 64 (if bit w 21 then crc64 seed d else crc32c seed d))) 0 0

/-- End-around addition modulo 2^64 − 1. -/
def eacAdd (a b : Nat) : Nat := let s := a + b; if 2 ^ 64 ≤ s then s - 2 ^ 64 + 1 else s

/-- VMSUM: the lanes are added into the old s[VD] (R161; DEDUCED, log 97). -/
def execVmsum (i : KernelStep) (s : State) : Out := whenRunning s fun s =>
  kRun s i.tile 0x51 i.fault fun x _ w =>
    let m := mreg x (fMask w)
    let d := fVD w % 16
    let r := (List.range 128).foldl (fun a i => if m.getLsbD i then eacAdd a (lane x (fVS w) i).toNat else a) (sNat x d)
    .done (setSreg x d (BitVec.ofNat 64 r)) 0 0

/-! ### IEEE lane operations (R152, R153) -/

/-- The IEEE format that IMM[0] selects: 1 binary32, 2 binary64. -/
def fFmt (w : Word) : Nat := if bit w 0 then 2 else 1

/-- An F-class operation lane by lane under the mask, into a format: encodings and flags. -/
def fOp (x : Tile) (w : Word) (srcs : List Nat) (sf tf : Nat) (f : Nat → Nat × Nat) : KOut :=
  if !needKind x srcs (4 + sf) then .stop stKernelFault
  else
    let m := mreg x (fMask w)
    .done (writeVec x (fVD w) m (fun i => BitVec.ofNat 64 (f i).1) (4 + tf) 0)
      (orAll ((List.range 128).map (fun i => if m.getLsbD i then (f i).2 else 0))) 0

/-- A lane as an IEEE encoding, and its value. -/
def fBits (x : Tile) (v i f : Nat) : Nat := (lane x v i).toNat % 2 ^ ieeeW f
def fSrc (x : Tile) (v i f : Nat) : Src := ieeeDec f (fBits x v i f)

/-- FADD. -/
def execFadd (i : KernelStep) (s : State) : Out := whenRunning s fun s =>
  kRun s i.tile 0x60 i.fault fun x _ w =>
    let f := fFmt w
    fOp x w [fVS w, fVT w] f f (fun i => ieeeAdd f (fRnd w) (fSrc x (fVS w) i f) (fSrc x (fVT w) i f))

/-- FSUB. -/
def execFsub (i : KernelStep) (s : State) : Out := whenRunning s fun s =>
  kRun s i.tile 0x61 i.fault fun x _ w =>
    let f := fFmt w
    fOp x w [fVS w, fVT w] f f (fun i => ieeeAdd f (fRnd w) (fSrc x (fVS w) i f) (srcFlip (fSrc x (fVT w) i f)))

/-- FMUL. -/
def execFmul (i : KernelStep) (s : State) : Out := whenRunning s fun s =>
  kRun s i.tile 0x62 i.fault fun x _ w =>
    let f := fFmt w
    fOp x w [fVS w, fVT w] f f (fun i => ieeeMul f (fRnd w) (fSrc x (fVS w) i f) (fSrc x (fVT w) i f))

/-- FFMA: vs × vt + vd. -/
def execFfma (i : KernelStep) (s : State) : Out := whenRunning s fun s =>
  kRun s i.tile 0x63 i.fault fun x _ w =>
    let f := fFmt w
    fOp x w [fVS w, fVT w, fVD w] f f (fun i =>
      ieeeFma f (fRnd w) (fSrc x (fVS w) i f) (fSrc x (fVT w) i f) (fSrc x (fVD w) i f))

/-- FDIV. -/
def execFdiv (i : KernelStep) (s : State) : Out := whenRunning s fun s =>
  kRun s i.tile 0x64 i.fault fun x _ w =>
    let f := fFmt w
    fOp x w [fVS w, fVT w] f f (fun i => ieeeDiv f (fRnd w) (fSrc x (fVS w) i f) (fSrc x (fVT w) i f))

/-- FSQRT. -/
def execFsqrt (i : KernelStep) (s : State) : Out := whenRunning s fun s =>
  kRun s i.tile 0x65 i.fault fun x _ w =>
    let f := fFmt w
    fOp x w [fVS w] f f (fun i => ieeeSqrt f (fRnd w) (fSrc x (fVS w) i f))

/-- FCVT: source IMM[2:1], target IMM[4:3]. -/
def execFcvt (i : KernelStep) (s : State) : Out := whenRunning s fun s =>
  kRun s i.tile 0x66 i.fault fun x _ w =>
    let a := bits w 2 1; let b := bits w 4 3
    fOp x w [fVS w] a b (fun i => ieeeCvt a b (fRnd w) (fBits x (fVS w) i a))

/-- FCMP. -/
def execFcmp (i : KernelStep) (s : State) : Out := whenRunning s fun s =>
  kRun s i.tile 0x67 i.fault fun x _ w =>
    let f := fFmt w
    if !needKind x [fVS w, fVT w] (4 + f) then .stop stKernelFault
    else
      let m := mreg x (fMask w)
      let r (i : Nat) : Bool × Nat := ieeeCmp (bits w 3 1) (bit w 4) (fSrc x (fVS w) i f) (fSrc x (fVT w) i f)
      .done (writeMask x (fVD w % 8) m (fun i => (r i).1))
        (orAll ((List.range 128).map (fun i => if m.getLsbD i then (r i).2 else 0))) 0

/-- FMIN. -/
def execFmin (i : KernelStep) (s : State) : Out := whenRunning s fun s =>
  kRun s i.tile 0x68 i.fault fun x _ w =>
    let f := fFmt w
    fOp x w [fVS w, fVT w] f f (fun i => ieeeMinMax f false false (fBits x (fVS w) i f) (fBits x (fVT w) i f))

/-- FMAX. -/
def execFmax (i : KernelStep) (s : State) : Out := whenRunning s fun s =>
  kRun s i.tile 0x69 i.fault fun x _ w =>
    let f := fFmt w
    fOp x w [fVS w, fVT w] f f (fun i => ieeeMinMax f true false (fBits x (fVS w) i f) (fBits x (fVT w) i f))

/-- FMINNUM. -/
def execFminnum (i : KernelStep) (s : State) : Out := whenRunning s fun s =>
  kRun s i.tile 0x6A i.fault fun x _ w =>
    let f := fFmt w
    fOp x w [fVS w, fVT w] f f (fun i => ieeeMinMax f false true (fBits x (fVS w) i f) (fBits x (fVT w) i f))

/-- FMAXNUM. -/
def execFmaxnum (i : KernelStep) (s : State) : Out := whenRunning s fun s =>
  kRun s i.tile 0x6B i.fault fun x _ w =>
    let f := fFmt w
    fOp x w [fVS w, fVT w] f f (fun i => ieeeMinMax f true true (fBits x (fVS w) i f) (fBits x (fVT w) i f))

/-! ### Long accumulators (R155-R158) -/

/-- The accumulator that an L-form word names. -/
def fLA (w : Word) : Nat := bits w 55 53

/-- LCLR clears the accumulator and its INVALID mark (R158). -/
def execLclr (i : KernelStep) (s : State) : Out := whenRunning s fun s =>
  kRun s i.tile 0x70 i.fault fun x _ w => .done (setLa x (fLA w) {}) 0 (2 ^ fLA w)

/-- R155: the operands of an insertion: x from s[SA] and, for LDOT, y from s[SB]. -/
def insOp (s : State) (t : TileId) (x : Tile) (w : Word) (two : Bool) (f : Src → Src → Src × Src) : KOut :=
  let fm := if bit w 28 then 2 else 1
  let k := ieeeW fm / 8
  let n := bits w 44 32 + 1
  let a := sAddr x (bits w 52 49) 0 k
  let b := sAddr x (bits w 48 45) 0 k
  let e := lowest (if laInvalid s t (fLA w) then stInvalidDest else 0)
    (lowest (readStop x a (k * n)) (if two then readStop x b (k * n) else 0))
  if e ≠ 0 then .stop e
  else
    let v (p i : Nat) : Src := ieeeDec fm (numAt (memByte x.mem) (p + k * i) k)
    let r := laInserts (getLa x (fLA w)) ((List.range n).map (fun i => f (v a i) (v b i)))
    .done (setLa x (fLA w) r.1) r.2 0

/-- The value 1. -/
def srcOne : Src := .fin 1 0 false

/-- LDOT. -/
def execLdot (t : TileId) (fault : Bool) (s : State) : Out := whenRunning s fun s =>
  kRun s t 0x71 fault fun x _ w => insOp s t x w true (fun a b => (a, b))

/-- LSUM. -/
def execLsum (t : TileId) (fault : Bool) (s : State) : Out := whenRunning s fun s =>
  kRun s t 0x72 fault fun x _ w => insOp s t x w false (fun a _ => (a, srcOne))

/-- LSSQ. -/
def execLssq (t : TileId) (fault : Bool) (s : State) : Out := whenRunning s fun s =>
  kRun s t 0x73 fault fun x _ w => insOp s t x w false (fun a _ => (a, a))

/-- LSABS. -/
def execLsabs (t : TileId) (fault : Bool) (s : State) : Out := whenRunning s fun s =>
  kRun s t 0x74 fault fun x _ w => insOp s t x w false (fun a _ => (srcAbs a, srcOne))

/-- LRND (R92, R156). -/
def execLrnd (i : KernelStep) (s : State) : Out := whenRunning s fun s =>
  kRun s i.tile 0x75 i.fault fun x _ w =>
    if laInvalid s i.tile (fLA w) then .stop stInvalidDest
    else
      let r := laRound (getLa x (fLA w)) (if bit w 28 then 2 else 1) (bits w 31 29)
      .done (setSreg x (bits w 27 24) (BitVec.ofNat 64 r.1)) r.2 0

/-- LSAVE (R157). -/
def execLsave (i : KernelStep) (s : State) : Out := whenRunning s fun s =>
  kRun s i.tile 0x76 i.fault fun x k w =>
    let a := sAddr x (bits w 52 49) 0 64
    let e := lowest (if laInvalid s i.tile (fLA w) then stInvalidDest else 0) (writeStop k a 576)
    if e ≠ 0 then .stop e else .done (tStore x a (laImage (getLa x (fLA w)))) 0 0

/-- LADD (R157). -/
def execLadd (t : TileId) (fault : Bool) (s : State) : Out := whenRunning s fun s =>
  kRun s t 0x77 fault fun x _ w =>
    let a := sAddr x (bits w 52 49) 0 64
    let e := lowest (if laInvalid s t (fLA w) then stInvalidDest else 0) (readStop x a 576)
    if e ≠ 0 then .stop e
    else
      let r := laMerge (getLa x (fLA w)) (laOfImage (tBytes x a 576))
      .done (setLa x (fLA w) r.1) r.2 0

end Sys2Proof.Machine
end

