-- ==== Sys2Proof/Machine/Seq.lean ====
section
/-! DEFINITION. The tile sequencers: submission queues, launches, the tile-program instructions, completion records,
aborts, preemption, replay and the compute domain (R203-R231, R495, R496). -/

namespace Sys2Proof.Machine
open Sys2Proof

/-! ### Submission queues (R203, R204, R206, R229) -/

def sqAt (t : TileId) (q : Nat) : Nat := tpTileAt t (8 * q)
def dbAt (t : TileId) (q : Nat) : Nat := tpTileAt t (0x10 + 8 * q)
def tpStAt (t : TileId) : Nat := tpTileAt t 0x28
def ckptAt (t : TileId) (q : Nat) : Nat := tpTileAt t (0x40 + 8 * q)
def ctrAt (t : TileId) (k : Nat) : Nat := tpTileAt t (0x100 + 8 * k)

def sqTail (s : State) (t : TileId) (q : Nat) : Nat := fld s (dbAt t q) 31 0
def sqHead (s : State) (t : TileId) (q : Nat) : Nat :=
  if q = 0 then fld s (tpTileAt t 0x20) 31 0 else fld s (tpTileAt t 0x20) 63 32
def setHead (s : State) (t : TileId) (q v : Nat) : State :=
  if q = 0 then setFld s (tpTileAt t 0x20) 31 0 v else setFld s (tpTileAt t 0x20) 63 32 v
def sqLog2 (s : State) (t : TileId) (q : Nat) : Nat := fld s (sqAt t q) 62 58
def sqOn (s : State) (t : TileId) (q : Nat) : Bool := flag s (sqAt t q) 63
/-- a − b modulo 2^32. -/
def sub32 (a b : Nat) : Nat := (a + 2 ^ 32 - b % 2 ^ 32) % 2 ^ 32

/-- R204: TAIL is set, or the write is ignored and DB_ERR set. -/
def setTail (s : State) (t : TileId) (q v : Nat) : State :=
  if 2 ^ sqLog2 s t q < sub32 v (sqHead s t q) || !sqOn s t q then setFlag s (tpStAt t) 59 true
  else setFld s (dbAt t q) 31 0 v

/-- TP_DB (R204). -/
def execTpDb (t : TileId) (q : Fin 2) (v : Word) (s : State) : Out := whenRunning s fun s => setTail s t q (bits v 31 0)

/-- The tiles that a group doorbell names (R206, R230). -/
def gdbTiles (d : Fin 4) (half : Nat) (v : Word) : List TileId :=
  (tilesOf d).filter (fun t => t.slot.val / 64 == half && bit v (t.slot.val % 64))

/-- TP_GDB (R206). -/
def writeGdb (s : State) (d : Fin 4) (half : Nat) (v : Word) : State :=
  (gdbTiles d half v).foldl (fun s t => setTail s t 0 (sqTail s t 0 + 1)) s
def execTpGdb (d : Fin 4) (half : Fin 2) (v : Word) (s : State) : Out := whenRunning s fun s => writeGdb s d half v

/-- R229: a write to TP_SQq: ignored whole for its LOG2N; while the queue is enabled and holds a launch only EN is
written. -/
def writeSq (s : State) (t : TileId) (q : Nat) (v : Word) : State :=
  let a := sqAt t q
  if bits v 62 58 < 4 || 16 < bits v 62 58 then setFlag s (tpStAt t) 59 true
  else if sqOn s t q && sqHead s t q != sqTail s t q then setFlag s a 63 (bit v 63)
  else plainWrite s .tpSq a v
def execTpSqWrite (t : TileId) (q : Fin 2) (v : Word) (s : State) : Out := whenRunning s fun s => writeSq s t q v

/-! ### Completion queues (R208, R215-R217, R230) -/

def cqdAt (d : Fin 4) (q : Nat) : Nat := cqAt d q 0
def cqhAt (d : Fin 4) (q : Nat) : Nat := cqAt d q 8
def cqtAt (d : Fin 4) (q : Nat) : Nat := cqAt d q 0x10
def cqOn (s : State) (d : Fin 4) (q : Nat) : Bool := flag s (cqdAt d q) 63
def cqTail (s : State) (d : Fin 4) (q : Nat) : Nat := fld s (cqtAt d q) 31 0
def cqFull (s : State) (d : Fin 4) (q : Nat) : Bool :=
  sub32 (cqTail s d q) (fld s (cqhAt d q) 31 0) == 2 ^ fld s (cqdAt d q) 62 58
def cqRecs (s : State) (d : Fin 4) (q : Nat) : List CRec := mget [] s.cqs (d.val * 64 + q)
def setCqRecs (s : State) (d : Fin 4) (q : Nat) (l : List CRec) : State := { s with cqs := mset [] s.cqs (d.val * 64 + q) l }
/-- The completion queue's records are held: it is disabled or full. -/
def cqBlocked (s : State) (d : Fin 4) (q : Nat) : Bool := !cqOn s d q || cqFull s d q

/-- A record of a slot waits for a disabled or full queue (CQ_WAIT). -/
def slotWaits (s : State) (d : Fin 4) (slot : Nat) : Bool :=
  s.cqs.any (fun e => e.1 / 64 == d.val && cqBlocked s d (e.1 % 64) && e.2.any (fun r => r.slot == slot))
/-- A record of a submission queue was held by a disabled or full queue and is not written yet (R217). -/
def queueWaits (s : State) (t : TileId) (q : Nat) : Bool :=
  s.cqs.any (fun e => e.1 / 64 == t.die.val &&
    e.2.any (fun r => r.slot == t.slot.val && r.q == q && (r.held || cqBlocked s t.die (e.1 % 64))))

def showWait (d : Fin 4) (s : State) (slot : Nat) : State :=
  setFlag s (tpAt d slot 0x28) 58 (slotWaits s d slot)

/-- Bring the holding of the records there, CQ_WAIT of their tiles, and FULL, up to date (R217, R229, R230). -/
def refreshCq (s : State) (d : Fin 4) (q : Nat) (more : List Nat) : State :=
  let s := if cqBlocked s d q then setCqRecs s d q ((cqRecs s d q).map (fun r => { r with held := true })) else s
  let rs := cqRecs s d q
  let s := if cqFull s d q && !rs.isEmpty then setFlag s (cqtAt d q) 63 true else s
  (rs.map (·.slot) ++ more).foldl (showWait d) s

/-- R205, R217: a sequencer's write of bytes; none when it completes with a status other than OK. -/
def seqWrite (s : State) (t : TileId) (net : Status) (a : Nat) (d : List Byte) : Option State :=
  if seqStatus s t net a d.length ≠ 0 then none
  else some (hbmStore s (ownWrite a d) none)

/-- The tile of a slot. -/
def slotTile (d : Fin 4) (slot : Nat) : TileId := ⟨d, ⟨slot % 96, Nat.mod_lt _ (by decide)⟩⟩

/-- Words as bytes. -/
def wordBytes (ws : List Word) : List Byte := ws.flatMap (fun w => leBytes 8 w.toNat)

/-- Address of the entry that the next record takes. -/
def cqEntry (s : State) (d : Fin 4) (q : Nat) : Nat :=
  fld s (cqdAt d q) 47 7 * 128 + cqTail s d q % 2 ^ fld s (cqdAt d q) 62 58 * 128
/-- R217: PHASE of that record. -/
def cqPhase (s : State) (d : Fin 4) (q : Nat) : Bool := cqTail s d q / 2 ^ fld s (cqdAt d q) 62 58 % 2 == 0

/-- R217: a record write failed: the queue is disabled, WERR set, its records held and written again whole. -/
def cqFail (s : State) (d : Fin 4) (q : Nat) : State :=
  let s := setFlag (setFlag s (cqdAt d q) 63 false) (cqtAt d q) 62 true
  refreshCq (setCqRecs s d q ((cqRecs s d q).map (fun r => { r with first := false, waits := false }))) d q []

/-- R216: bytes 64-127 of the oldest record are written, unless it is held. -/
def writeFirst (s : State) (d : Fin 4) (q : Nat) (net : Status) : State :=
  match cqRecs s d q with
  | [] => s
  | r :: rest =>
    let a := cqEntry s d q + 64; let t := slotTile d r.slot
    if r.first || r.waits || cqBlocked s d q || seqBusy s t net a 64 then s else
    match seqWrite s t net a (wordBytes (r.words.drop 8)) with
    | none => cqFail s d q
    | some s' =>
      if ackWaits s a then awaitAck (setCqRecs s' d q ({ r with waits := true } :: rest)) (ownWrite a (wordBytes (r.words.drop 8))) (.record d q false)
      else setCqRecs s' d q ({ r with first := true } :: rest)

/-- R217: the second write of the oldest record is acknowledged: TAIL advances and the interrupt is raised. -/
def recordDone (s : State) (d : Fin 4) (q : Nat) : State :=
  match cqRecs s d q with
  | [] => s
  | r :: rest =>
    let s := incFld (setCqRecs s d q rest) (cqtAt d q) 31 0
    let s := if r.irq then sendIrq s (nodeOf d 147) (fld s (cqdAt d q) 57 48) else s
    refreshCq s d q [r.slot]

/-- R216, R217: bytes 0-63 of a record whose first write has been acknowledged; TAIL advances, the interrupt is
raised. -/
def writeSecond (s : State) (d : Fin 4) (q : Nat) (net : Status) : State :=
  match cqRecs s d q with
  | [] => s
  | r :: rest =>
    let a := cqEntry s d q; let t := slotTile d r.slot
    if !r.first || r.waits || cqBlocked s d q || seqBusy s t net a 64 then s else
    let w0 := setBit (r.words.headD 0) 63 (cqPhase s d q)
    match seqWrite s t net a (wordBytes (w0 :: (r.words.take 8).drop 1)) with
    | none => cqFail s d q
    | some s' =>
      if ackWaits s a then awaitAck (setCqRecs s' d q ({ r with waits := true } :: rest)) (ownWrite a (wordBytes (w0 :: (r.words.take 8).drop 1))) (.record d q true)
      else recordDone s' d q

/-- COMPLETION_RECORD_HEAD: the oldest record of a queue is written: its first part when that has not been written yet,
then its head (R216, R217). -/
def execCompletionRecordHead (d : Fin 4) (cq : Fin 64) (net : BitVec 8) (s : State) : Out := whenRunning s fun s =>
  writeSecond (writeFirst s d cq net.toNat) d cq net.toNat

/-- TP_CQD_WRITE (R230). -/
def writeCqd (s : State) (d : Fin 4) (cq : Nat) (v : Word) : State :=
  if bits v 62 58 < 4 || 16 < bits v 62 58 then setFlag s (cqtAt d cq) 61 true
  else refreshCq (plainWrite s .tpCqd (cqdAt d cq) v) d cq []
def execTpCqdWrite (d : Fin 4) (cq : Fin 64) (v : Word) (s : State) : Out := whenRunning s fun s => writeCqd s d cq v

/-- TP_CQH_WRITE (R217). -/
def writeCqh (s : State) (d : Fin 4) (cq : Nat) (v : Word) : State := refreshCq (plainWrite s .tpCqh (cqhAt d cq) v) d cq []
def execTpCqhWrite (d : Fin 4) (cq : Fin 64) (v : Word) (s : State) : Out := whenRunning s fun s => writeCqh s d cq v

/-! ### Fetching a launch (R205, R207, R208) -/

/-- R207: the fields of a launch record. -/
def parseLaunch (ws : List Word) : LaunchRec :=
  let w0 := ws.getD 0 0; let w1 := ws.getD 1 0; let w2 := ws.getD 2 0
  { format := bits w0 63 56, abort := bit w0 55, cq := bits w0 54 49, irq := bit w0 48, waitlim := bits w0 47 32,
    launchId := bits w0 31 0, prog := bits w1 47 0, start := bits w2 47 24, plen := bits w2 23 0,
    rsvd := bits w1 63 48 + bits w2 63 48 + (ws.getD 3 0).toNat, user := (ws.drop 4).take 4 }

/-- R208: the launch executes nothing. -/
def launchBad (p : Part) (r : LaunchRec) : Bool :=
  r.format != 1 || r.rsvd != 0 || r.waitlim == 0 || r.plen == 0 || decide (r.plen ≤ r.start) || r.prog % 8 != 0
  || !inSeqRange p r.prog (8 * r.plen)

/-- The queue holds no launch, fetched or not (R220). -/
def queueIdle (s : State) (t : TileId) (q : Nat) : Bool :=
  sqHead s t q == sqTail s t q && (getRun (getTile s t) q).isNone

/-- R204, R217, R220, R424: the queue may run. -/
def mayFetch (s : State) (t : TileId) (q : Nat) : Bool :=
  sqOn s t q && sqHead s t q != sqTail s t q && (getRun (getTile s t) q).isNone && !queueWaits s t q && tileOpen s t
  && (if q = 0 then queueIdle s t 1
      else match getRun (getTile s t) 0 with | some l => l.suspended | none => true)

/-- Words whose values the spec leaves open (log 10). -/
def drawWords (s : State) (n : Nat) : State × List Word :=
  ({ s with freeCtr := s.freeCtr + n }, (List.range n).map (fun i => Config.free (s.freeCtr + i)))

/-- Address of the record at a position. -/
def recAt (s : State) (t : TileId) (q pos : Nat) : Nat := fld s (sqAt t q) 47 6 * 64 + pos % 2 ^ sqLog2 s t q * 64

/-- A fetched launch enters its queue: TP_CKPT, LEVEL, TP_STATE, and execution reaches START (R208, R219, R225,
R228). -/
def startLaunch (s : State) (t : TileId) (q pos : Nat) (r : LaunchRec) (failed : Bool) : State :=
  let fail : Option Failure := if failed || (!r.abort && launchBad s.part r) then
    some { code := stProgramFault, kind := 5, ctx := 0, pc := 0, seq := 0 } else none
  let l : Launch := { lrec := r, pos, tStart := nowNs s t.die, pc := r.start, fail, aborted := r.abort && !failed }
  let s := wr s (ckptAt t q) (BitVec.ofNat 64 (r.launchId * 2 ^ 32 + 2 ^ 24 + r.start))
  let s := setFld s (tpStAt t) 57 56 1
  let s := modTile s t (fun x => { x with sleepEnd := false })
  let s := showPc (setQState (setRun s t q (some l)) t q 1) t q r.start
  reach s t q

/-- LAUNCH_FETCH (R204, R208). The record of a fetch that failed is not known: its fields are free (log 10). -/
def execLaunchFetch (t : TileId) (q : Fin 2) (net : BitVec 8) (s : State) : Out := whenRunning s fun s =>
  let h := sqHead s t q
  if !mayFetch s t q || seqBusy s t net.toNat (recAt s t q h) 64 then s else
  let r := seqRead s t net.toNat (recAt s t q h) 8
  let s := setHead r.1 t q (h + 1)
  match r.2 with
  | some ws => startLaunch s t q h (parseLaunch ws) false
  | none =>
    let d := drawWords s 8
    startLaunch d.1 t q h (parseLaunch d.2) true

/-! ### Stream instructions (R166, R170, R191, R210) -/

/-- R166, R173: a start that is refused is a failure of the program. -/
def refuseStream (s : State) (t : TileId) (q c pc : Nat) : State :=
  let x := getTile s t
  let seq := x.streamSeq
  let s := setTile s t { x with streamSeq := (seq + 1) % 2 ^ 32 }
  let s := if (getStream x c).isSome then s else
    let s := modTile s t (fun x => { x with ctxUsed := mset false x.ctxUsed c true })
    setFld (setFld s (seStatAt t c) 63 32 seq) (seStatAt t c) 20 13 stStreamRefused
  let s := addUnit s t q { kind := 3, seq, ctx := c, pc }
  unitEnded s t q 3 seq { status := stStreamRefused }

/-- R166, R171: the stream starts with its ring. -/
def startStream (s : State) (t : TileId) (c : Nat) (st : Stream) : State :=
  let x := getTile s t
  let bufs := makeBufs x st
  let x := clearMarks x (granules st.base (st.nbuf * st.bufsz))
  let x := { x with streamSeq := (x.streamSeq + 1) % 2 ^ 32, ctxUsed := mset false x.ctxUsed c true,
                    entryUse := bufs.foldl (fun m b => mset false m b.entry true) x.entryUse }
  let s := setTile s t x
  let s := setFld (setFld s (seStatAt t c) 63 32 st.seq) (seStatAt t c) 31 29 1
  let s := putStream s t c { setDeadline { st with bufs } (nowNs s t.die) with last := nowNs s t.die }
  let s := addUnit s t st.q { kind := 3, seq := st.seq, ctx := c, pc := st.tpc }
  tryGrant s t c

/-- SSTART (R166, R172, R210). -/
def execSstart (t : TileId) (q : Fin 2) (s : State) : Out := whenRunning s fun s =>
  tpIssue s t q 0x10 fun s l ws =>
    let c := bits (ws.getD 0 0) 55 52
    let x := getTile s t
    let s := match parseStream x (isV t) q l.pc (bits (ws.getD 0 0) 19 0 * 8) with
      | none => refuseStream s t q c l.pc
      | some st =>
        if (getStream x c).isSome || (freeList x).length < st.nbuf || ringTaken x st.base (st.nbuf * st.bufsz)
        then refuseStream s t q c l.pc
        else startStream s t c st
    advance s t q 1

/-- SWAIT (R210). -/
def execSwait (t : TileId) (q : Fin 2) (s : State) : Out := whenRunning s fun s =>
  tpIssue s t q 0x11 fun s _ ws =>
    let w := ws.getD 0 0
    let ok := match getStream (getTile s t) (bits w 55 52) with
      | none => true
      | some st => !bit w 48 && st.committed
    issueWhen ok s t q fun s => advance s t q 1

/-- The `n` oldest buffers of a stream that a test admits, as ring positions; none when there are fewer. -/
def oldest (st : Stream) (n : Nat) (f : Nat → Buf → Bool) : Option (List Nat) :=
  let l := st.bufs.zipIdx.filter (fun e => f e.2 e.1)
  let o := l.mergeSort (fun a b => decide (a.1.idx ≤ b.1.idx))
  if o.length < n then none else some ((o.take n).map (·.2))

/-- R170, R210: the ring positions that SREL releases, none while it waits. -/
def srelTargets (x : Tile) (c n : Nat) : Option (List Nat) :=
  match getStream x c with
  | none => none
  | some st =>
    if !isIn st || st.release ≠ 1 then none else
    match oldest st n (fun _ _ => true) with
    | none => none
    | some ps => if ps.all (fun p => match st.bufs[p]? with
        | some b => b.state == 2 && !passHolds x (bufOff st p) st.bufsz
        | none => false) then some ps else none

/-- SREL (R170, R210). -/
def execSrel (t : TileId) (q : Fin 2) (s : State) : Out := whenRunning s fun s =>
  tpIssue s t q 0x12 fun s _ ws =>
    let c := bits (ws.getD 0 0) 55 52
    let ps := srelTargets (getTile s t) c (bits (ws.getD 0 0) 15 0)
    issueWhen ps.isSome s t q fun s => advance (releaseBufs s t c (ps.getD [])) t q 1

/-- The accumulator rows that a pass with DACC = 1 writes, as a range of the window (R104, R105). -/
def accRange (s : State) (t : TileId) (i : PassInstr) : Nat × Nat :=
  (accCell s t i.accset i.accrow 0, 768 * (i.m * rowsPer i (i.mode == 4)))

/-- An earlier pass or kernel of the tile that has not ended writes n bytes at a: its output range, or its accumulator
rows. -/
def outputOver (s : State) (t : TileId) (x : Tile) (a n : Nat) : Bool :=
  x.passes.any (fun p => (oRanges p.ins).any (fun r => overlaps r.1 r.2 a n)
    || (p.ins.dacc && overlaps (accRange s t p.ins).1 (accRange s t p.ins).2 a n))
  || (match x.kernel with | some k => (kernelRanges k).any (fun r => overlaps r.1 r.2 a n) | none => false)

/-- R170, R210: the ring positions that SWRT marks, none while it waits. -/
def swrtTargets (s : State) (t : TileId) (x : Tile) (c n : Nat) : Option (List Nat) :=
  match getStream x c with
  | none => none
  | some st =>
    if isIn st || st.release ≠ 1 || !isRunning st then none else
    match oldest st n (fun _ b => b.state == 3) with
    | none => none
    | some ps => if ps.any (fun p => outputOver s t x (bufOff st p) st.bufsz) then none else some ps

/-- SWRT (R170, R210). -/
def execSwrt (t : TileId) (q : Fin 2) (s : State) : Out := whenRunning s fun s =>
  tpIssue s t q 0x13 fun s _ ws =>
    let c := bits (ws.getD 0 0) 55 52
    let ps := swrtTargets s t (getTile s t) c (bits (ws.getD 0 0) 15 0)
    issueWhen ps.isSome s t q fun s => advance (markWritten s t c (ps.getD [])) t q 1

/-- SCAN (R191, R213): it names the context's current or most recent stream, whose ABORTED does not enter the fold. -/
def execScan (t : TileId) (q : Fin 2) (s : State) : Out := whenRunning s fun s =>
  tpIssue s t q 0x14 fun s _ ws =>
    let c := bits (ws.getD 0 0) 55 52
    let seq := fld s (seStatAt t c) 63 32
    let live := match getStream (getTile s t) c with | some st => isRunning st | none => false
    advance (cancelCtx (if live then noFold s t q 3 seq else s) t c seq) t q 1

/-! ### Waiting, counters, checkpoints (R210, R211, R222-R228) -/

/-- XWAIT (R210). -/
def execXwait (t : TileId) (q : Fin 2) (s : State) : Out := whenRunning s fun s =>
  tpIssue s t q 0x22 fun s l _ => issueWhen (l.live.all (fun u => 3 ≤ u.kind)) s t q fun s => advance s t q 1

/-- END (R210, R214). -/
def execTpEnd (t : TileId) (q : Fin 2) (s : State) : Out := whenRunning s fun s =>
  tpIssue s t q 0x3F fun s l _ => issueWhen l.live.isEmpty s t q fun s =>
    showPc (modRun s t q (fun l => { l with pc := l.pc + 1, ended := true, waiting := false })) t q (l.pc + 1)

/-- The lowest free tag of a tile's sequencer; the stream engine has the first 512 (R179, R300). -/
def seqTag (s : State) (node : Nat) : Option Nat :=
  (List.range 512).map (· + 512) |>.find? (fun g => (getTag s node g).use.isNone)

/-- R222, R223: the SIGNAL packet, to the CSR block of the target's die, which holds its counters and serves them while the
tile is fenced (log 51); OP and VALUE ride beside the address word (log 13). RELEASE makes it a release (R354). -/
def signalPkt (s : State) (t : TileId) (tag : Nat) (w0 w1 : Word) : Packet :=
  let node := tileNode s t
  let dev := peerDev s w1
  let here := dev = ownDev s
  { op := 0x20, dest := if here then csrNode (bits w1 41 40) else engineNode s dev, src := BitVec.ofNat 12 node,
    tag := BitVec.ofNat 10 tag, gen := (getTag s node tag).gen, fab := !here, addr := normPeer s w1,
    od := { seq := BitVec.ofNat 32 (bits w0 31 0), aop := BitVec.ofNat 4 (bits w0 54 53), ord := if bit w0 55 then 2 else 0 } }

/-- SIGNAL (R223). A slot that no tile has is not mapped (R33). -/
def execSignal (t : TileId) (q : Fin 2) (s : State) : Out := whenRunning s fun s =>
  tpIssue s t q 0x40 fun s l ws =>
    let w0 := ws.getD 0 0; let w1 := ws.getD 1 0
    let node := tileNode s t
    let free := seqTag s node
    issueWhen ((!bit w0 55 || l.live.all (fun u => u.kind == 4)) && free.isSome) s t q fun s =>
      let tag := free.getD 0
      let s := addUnit s t q { kind := 4, seq := tag, ctx := 0, pc := l.pc }
      let s := if peerDev s w1 = ownDev s ∧ 96 ≤ bits w1 39 33 then unitEnded s t q 4 tag { status := stNocUnmapped }
        else holdTag (inject s (signalPkt s t tag w0 w1)) node tag (.signal t q tag)
      advance s t q 2

/-- WAIT (R224). -/
def execWait (t : TileId) (q : Fin 2) (s : State) : Out := whenRunning s fun s =>
  tpIssue s t q 0x41 fun s _ ws =>
    let w := ws.getD 0 0
    issueWhen (sub32 (fld s (ctrAt t (bits w 37 32)) 31 0) (bits w 31 0) < 2 ^ 31) s t q fun s => advance s t q 1

/-- CHKPT (R225). -/
def execChkpt (t : TileId) (q : Fin 2) (s : State) : Out := whenRunning s fun s =>
  tpIssue s t q 0x50 fun s l _ =>
    let x := getTile s t
    issueWhen (l.live.isEmpty && (queueCtxs q).all (fun c => (getStream x c).isNone)) s t q fun s =>
      let s := wr s (ckptAt t q) (BitVec.ofNat 64 (l.lrec.launchId * 2 ^ 32 + 2 ^ 24 + (l.pc + 1)))
      advance (modRun s t q (fun l => { l with faults := 0 })) t q 1

/-- HINT (R228). -/
def execHint (t : TileId) (q : Fin 2) (s : State) : Out := whenRunning s fun s =>
  tpIssue s t q 0x60 fun s _ ws =>
    let k := bits (ws.getD 0 0) 49 48
    advance (setFld (modRun s t q (fun l => { l with level := k })) (tpStAt t) 57 56 k) t q 1

/-- WAIT_LIMIT: the instruction at the PC has waited too long (R211). -/
def execWaitLimit (t : TileId) (q : Fin 2) (s : State) : Out := whenRunning s fun s =>
  let x := getTile s t
  match getRun x q with
  | none => s
  | some l =>
    let ready := match x.ready with | some r => r.q == q.val | none => false
    if canIssue l && (l.waiting || ready) then
      failProgram s t q { code := stWaitLimit, kind := 4, ctx := 0, pc := l.pc, seq := 0 }
    else s

/-! ### The commit point (R212-R215) -/

/-- R212: the status of a launch. -/
def foldStatus (l : Launch) : Status :=
  if l.aborted then stAborted
  else match l.fail with
    | some f => f.code
    | none => if l.takeover then stTwinTakeover else stOk

/-- R214: the launch is at its commit point: END has retired, or the failed or aborted program has no unit left. -/
def canCommit (l : Launch) : Bool := l.live.isEmpty && (l.ended || l.fail.isSome || l.aborted) && !l.held

/-- R215: the sixteen words of the record, PHASE clear. -/
def recordWords (s : State) (t : TileId) (q : Nat) (l : Launch) : List Word :=
  let f : Failure := if l.aborted then { code := 0, kind := 6, ctx := 0, pc := 0, seq := 0 }
    else l.fail.getD { code := 0, kind := 0, ctx := 0, pc := 0, seq := 0 }
  let w (n : Nat) : Word := BitVec.ofNat 64 n
  [w (foldStatus l * 2 ^ 48 + l.flags % 2 ^ 16 * 2 ^ 32 + l.lrec.launchId),
   w (f.kind * 2 ^ 61 + f.ctx * 2 ^ 56 + f.pc % 2 ^ 24 * 2 ^ 32 + f.seq % 2 ^ 32),
   w (t.die.val * 2 ^ 62 + t.slot.val * 2 ^ 55 + q * 2 ^ 54 + min l.replays 7 * 2 ^ 51 + l.pos),
   w l.tStart, w (nowNs s t.die),
   w (min l.poisoned 0xFFFF * 2 ^ 48 + l.bytes % 2 ^ 48),
   w (l.streams % 2 ^ 32 * 2 ^ 32 + l.units % 2 ^ 32), 0,
   l.lrec.user.getD 0 0, l.lrec.user.getD 1 0, l.lrec.user.getD 2 0, l.lrec.user.getD 3 0,
   l.kout.getD 0 0, l.kout.getD 1 0, l.kout.getD 2 0, l.kout.getD 3 0]

/-- LAUNCH_COMMIT (R214-R216): the status is decided once; the record takes its place in its completion queue, and its
first part is written unless the queue holds it. -/
def execLaunchCommit (t : TileId) (q : Fin 2) (net : BitVec 8) (s : State) : Out := whenRunning s fun s =>
  match getRun (getTile s t) q with
  | none => s
  | some l =>
    if !canCommit l then s else
    let r : CRec := { slot := t.slot.val, q, irq := l.lrec.irq, words := recordWords s t q l }
    let s := setQState (setRun s t q none) t q 0
    let s := modTile s t (fun x => { x with sleepEnd := x.sleepEnd || (l.ended && l.level == 2),
                                            preempted := x.preempted && q.val == 1 })
    let s := setFld s (tpStAt t) 57 56 1
    let s := setCqRecs s t.die l.lrec.cq (cqRecs s t.die l.lrec.cq ++ [r])
    let s := if (cqRecs s t.die l.lrec.cq).length = 1 then writeFirst s t.die l.lrec.cq net.toNat else s
    refreshCq s t.die l.lrec.cq []

/-! ### Aborts (R218, R219) -/

/-- TP_ABORTREPLY: the ID and its reply. -/
def abortReply (s : State) (t : TileId) (id : Nat) (r : Status) : State :=
  wr s (tpTileAt t 0x38) (BitVec.ofNat 64 (id % 2 ^ 32 * 2 ^ 32 + r % 256))

/-- R120, R139, R218: the reply for a unit that has ended. -/
def endedUnitReply (status : Status) : Status := if status = stOk then stAlready else status

/-- R120, R218: the outcome and reply of an abort of a pass or kernel. -/
def abortNumber (s : State) (t : TileId) (id : Nat) : Status × State :=
  let x := getTile s t
  let back := sub32 (nextSeq s t) id
  if back = 0 || 2 ^ 31 ≤ back || 256 < back then (stInvalidDest, s)
  else
    match x.passes.find? (fun p => p.seq == id), x.kernel with
    | some p, _ =>
      match p.ending with
      | some e => (e, s)
      | none =>
        if p.start + commitAfter p.ins ≤ x.cycle then (stAlready, s) else (stAborted, abortPass s t id stAborted false)
    | none, some k =>
      if k.seq = id then (match k.ending with | some e => (e, s) | none => (stAborted, endKernel s t stAborted))
      else (((x.outcomes.find? (fun o => o.1 == id)).map (fun o => endedUnitReply o.2)).getD stInvalidDest, s)
    | none, none => (((x.outcomes.find? (fun o => o.1 == id)).map (fun o => endedUnitReply o.2)).getD stInvalidDest, s)

/-- ABORT_UNIT (R218). -/
def abortUnitWrite (s : State) (t : TileId) (id : Nat) : State :=
  let r := abortNumber s t id
  abortReply r.2 t id r.1
def execAbortUnit (t : TileId) (id : BitVec 32) (s : State) : Out := whenRunning s fun s => abortUnitWrite s t id.toNat

/-- R219: a fetched launch is aborted: every started pass and kernel of its program, and its streams. -/
def abortProgram (s : State) (t : TileId) (q : Nat) (l : Launch) : State :=
  let s := setRun s t q (some { l with aborted := true, held := false, suspended := false, waiting := false })
  let s := modTile s t (fun x => match x.ready with
    | some r => if r.q = q then { x with ready := none } else x | none => x)
  let s := ((getTile s t).passes.filter (fun p => p.q == q && p.ending.isNone)).foldl
    (fun s p => abortPass s t p.seq stAborted false) s
  let s := match (getTile s t).kernel with
    | some k => if k.q = q then endKernel s t stAborted else s
    | none => s
  cancelQueue s t q stAborted

/-- R219: ABORT is set in the record of a launch that has not been fetched: the status of that write. -/
def abortQueued (s : State) (t : TileId) (q pos : Nat) (net : Status) : Status × State :=
  let a := recAt s t q pos + 6
  let b := hbmByte s a
  match seqWrite s t net a [b ||| 0x80] with
  | some s => (stAborted, s)
  | none => (seqStatus s t net a 1, s)

/-- R219: the position names a launch that has not been fetched. -/
def abortUnfetched (s : State) (t : TileId) (q pos : Nat) : Bool :=
  let d := sub32 (sqTail s t q) pos
  d != 0 && d < 2 ^ 31 && sub32 pos (sqHead s t q) < sub32 (sqTail s t q) (sqHead s t q)

/-- R219: outcome and reply. -/
def abortPosition (s : State) (t : TileId) (q pos : Nat) (net : Status) : Status × State :=
  let d := sub32 (sqTail s t q) pos
  if d = 0 || 2 ^ 31 ≤ d then (stInvalidDest, s)
  else if abortUnfetched s t q pos then abortQueued s t q pos net
  else match getRun (getTile s t) q with
    | some l => if l.pos = pos then (stAborted, abortProgram s t q l) else (stAlready, s)
    | none => (stAlready, s)

/-- R323, R325: the ABORT write waits behind the requests for its place. -/
def abortWaits (s : State) (t : TileId) (q pos : Nat) (net : Status) : Bool :=
  abortUnfetched s t q pos && seqBusy s t net (recAt s t q pos + 6) 1

/-- A TP_ABORT write with KIND 1 (R219); the reply to the setting of ABORT comes once that write is acknowledged. -/
def abortLaunchWrite (s : State) (t : TileId) (q pos : Nat) (net : Status) : State :=
  let r := abortPosition s t q pos net
  if abortUnfetched s t q pos && r.1 == stAborted && ackWaits s (recAt s t q pos + 6) then awaitAck r.2 (ownWrite (recAt s t q pos + 6) [hbmByte s (recAt s t q pos + 6) ||| 0x80]) (.abortBit t pos)
  else abortReply r.2 t pos r.1
/-- ABORT_LAUNCH (R219). -/
def execAbortLaunch (t : TileId) (q : Fin 2) (pos : BitVec 32) (net : BitVec 8) (s : State) : Out := whenRunning s fun s =>
  if abortWaits s t q pos.toNat net.toNat then s else abortLaunchWrite s t q pos.toNat net.toNat

/-! ### Preemption (R124, R220, R221) -/

/-- PREEMPT (R220): new starts of queue 0 stop; a ready pass returns to its program; the weight tag is cleared
(R124). -/
def execPreempt (t : TileId) (s : State) : Out := whenRunning s fun s =>
  match getRun (getTile s t) 0 with
  | none => s
  | some l =>
    if sqHead s t 1 == sqTail s t 1 || l.suspended || l.held then s else
    let keepReady (r : Option ReadyPass) : Option ReadyPass := match r with
      | some p => if p.q = 0 then none else some p
      | none => none
    let s := modTile s t (fun x => { x with preempted := true, wtag := none, ready := keepReady x.ready })
    if isV t then s else setFlag s (stAt t) 56 false

/-- SUSPEND (R220): once the started passes or the kernel of queue 0 have ended. -/
def execSuspend (t : TileId) (s : State) : Out := whenRunning s fun s =>
  let x := getTile s t
  match getRun x 0 with
  | none => s
  | some l =>
    if !x.preempted || l.held || x.passes.any (fun p => p.q == 0) || (match x.kernel with | some k => k.q == 0 | none => false) then s
    else
      let s := setTile s t { x with preempted := false }
      setQState (setRun s t 0 (some { l with suspended := true })) t 0 2

/-- R221: the progress timers of a queue's streams start again. -/
def restartTimers (s : State) (t : TileId) (q : Nat) : State :=
  (queueCtxs q).foldl (fun s c => match getStream (getTile s t) c with
    | some st => putStream s t c (progress s t st)
    | none => s) s

/-- PROGRAM_RESUME (R220, R221). -/
def execProgramResume (t : TileId) (s : State) : Out := whenRunning s fun s =>
  match getRun (getTile s t) 0 with
  | none => s
  | some l =>
    if !l.suspended || !queueIdle s t 1 then s else
    let s := setFld (setRun s t 0 (some { l with suspended := false })) (tpStAt t) 57 56 l.level
    restartTimers (setQState s t 0 (if l.held then 3 else 1)) t 0

/-! ### Replay (R226, R425) -/

/-- A spare of the tile's kind on its die (R421, R422). -/
def hasSpare (s : State) (t : TileId) : Bool :=
  ((List.range (if isV t then 34 else 68)).map (fun k => if isV t then 68 + k else k)).any
    (fun e => (getPhys s t.die e).status == 1)

/-- R425: before a restart the wardens clear the marks of the tile's sets and scratch. -/
def clearForRestart (s : State) (t : TileId) : State :=
  let s := if isV t then s else (List.range 16).foldl (fun s n =>
    if flag s (accAt t n) 62 && !accsetNamed (getTile s t) n then setFlag s (accAt t n) 62 false else s) s
  modTile s t (fun x => clearRange x 0 131072)

/-- The held program runs again from its checkpoint. -/
def restartAt (s : State) (t : TileId) (q : Nat) (f : Launch → Launch) : State :=
  let s := clearForRestart s t
  let pc := fld s (ckptAt t q) 23 0
  let s := modRun s t q (fun l => f { l with pc, held := false, moved := false, ended := false, waiting := false })
  let sus := match getRun (getTile s t) q with | some l => l.suspended | none => false
  reach (showPc (setQState s t q (if sus then 2 else 1)) t q pc) t q

/-- PROGRAM_RESTART (R226): on the same tile while the allowance is set; else on the spare once the tile has moved; with
no spare the launch ends TILE_FAULT. A restart waits for the units that the hold ended. -/
def execProgramRestart (t : TileId) (q : Fin 2) (s : State) : Out := whenRunning s fun s =>
  match getRun (getTile s t) q with
  | none => s
  | some l =>
    if !l.held || !tileOpen s t || l.live.any (fun u => u.kind != 4) then s
    else if l.moved then restartAt s t q (fun l => { l with replays := l.replays + 1 })
    else if flag s (ckptAt t q) 24 then restartAt (setFlag s (ckptAt t q) 24 false) t q id
    else if hasSpare s t then s
    else failProgram (setRun s t q (some { l with held := false })) t q
      (l.heldBy.getD { code := stTileFault, kind := 1, ctx := 0, pc := l.pc, seq := 0 })

/-! ### The compute domain (R228, R495, R496) -/

/-- R495: what the compute domain loses when it is switched off; the lanes hold free values (log 10). -/
def loseCompute (s : State) (t : TileId) : State :=
  let s := modTile s t (fun x =>
    { x with computeOn := false, wtag := none, weights := [], shadow := [], wscales := [], sscales := [], front := none, vlanes := [],
             vtags := [], vlost := if isV t then some s.freeCtr else none, sregs := [], masks := [] })
  let s := { s with freeCtr := s.freeCtr + 1 }
  if isV t then s else setFlag s (stAt t) 56 false

/-- POWER_DOMAIN_OFF (R228, R496). -/
def execPowerDomainOff (t : TileId) (s : State) : Out := whenRunning s fun s =>
  let x := getTile s t
  if x.sleepEnd && x.computeOn && queueIdle s t 0 && queueIdle s t 1 then
    setFld (loseCompute s t) (tpStAt t) 57 56 2
  else s

/-- POWER_DOMAIN_WAKE (R228, R495, R496). -/
def execPowerDomainWake (t : TileId) (s : State) : Out := whenRunning s fun s =>
  let x := getTile s t
  if !x.computeOn && !(queueIdle s t 0 && queueIdle s t 1) && mapped s t then
    let s := setTile s t { x with computeOn := true, sleepEnd := false }
    if fld s (tpStAt t) 57 56 == 2 && (getRun x 0).isNone && (getRun x 1).isNone then setFld s (tpStAt t) 57 56 1 else s
  else s

end Sys2Proof.Machine
end

