-- ==== Sys2Proof/Machine/Region.lean ====
section
/-! DEFINITION. Logic regions as the hard blocks see them: their state and trees (R232, R243-R247, R273, R275). -/

namespace Sys2Proof.Machine
open Sys2Proof

def regKey (r : RegionId) : Nat := r.die.val * 16 + r.n.val
def getRegion (s : State) (r : RegionId) : Region := mget {} s.regions (regKey r)
def setRegion (s : State) (r : RegionId) (x : Region) : State := { s with regions := mset {} s.regions (regKey r) x }
def modRegion (s : State) (r : RegionId) (f : Region → Region) : State := setRegion s r (f (getRegion s r))

/-- A register of a region's window (R287): CFG_CTL 0, CFG_STAT 8, CFG_FETCH 0x10, CFG_FETCHLEN 0x18, CFG_SCRUB 0x20. -/
def cfgReg (r : RegionId) (off : Nat) : Nat := cfgAt r.die r.n off
/-- STATE of CFG_STAT: 0 EMPTY, 1 LOADING, 2 COMMITTED, 3 RELEASED, 4 HALTED, 5 FAILED. -/
def regState (s : State) (r : RegionId) : Nat := fld s (cfgReg r 8) 63 60
def setRegState (s : State) (r : RegionId) (v : Nat) : State := setFld s (cfgReg r 8) 63 60 v
def regBusy (s : State) (r : RegionId) : Bool := flag s (cfgReg r 8) 59
def setBusy (s : State) (r : RegionId) (b : Bool) : State := setFlag s (cfgReg r 8) 59 b
/-- LAST_STATUS of CFG_STAT. -/
def setCfgStatus (s : State) (r : RegionId) (e : Status) : State := setFld s (cfgReg r 8) 58 51 e

/-- R275: the region's controllers and endpoint are out of reset. -/
def regionLive (s : State) (r : RegionId) : Bool := regState s r == 3 || regState s r == 4

/-- R266, R275: a user pin is held in its park state: VMATCH is 0 or its region is not released. -/
def pinParked (s : State) (d : Fin 4) (p : Nat) : Bool :=
  !flag s (ioBankAt d) 61 || !regionLive s ⟨d, ⟨(12 + p / 6) % 16, Nat.mod_lt _ (by decide)⟩⟩
/-- R244, R267: a clock pin of the bank is a clock. -/
def ioClkOn (s : State) (d : Fin 4) (p : Nat) : Bool := fld s (ioPinAt d p) 63 62 == 3 && !pinParked s d p

/-- R243, R244: a source of a tree makes edges. -/
def sourceRuns (s : State) (d : Fin 4) (sel : Nat) : Bool :=
  if sel < 4 then flag s (lrPllAt d sel) 63 && flag s (lrPllAt d sel) 47
  else if sel = 4 then true
  else if sel = 5 then ioClkOn s d 0
  else if sel = 6 then ioClkOn s d 12
  else false

/-- R245, R247, R273: the tree makes rising edges. -/
def treeRuns (s : State) (r : RegionId) (k : Nat) : Bool :=
  let a := lrClkAt r.die r.n k
  regState s r == 3 && flag s a 63 && !flag s a 51 && !(getRegion s r).paused && !mget false (getRegion s r).stopped k && sourceRuns s r.die (fld s a 62 60)

/-- SEL and the divisor of a tree. -/
def treeSel (s : State) (r : RegionId) (k : Nat) : Nat := fld s (lrClkAt r.die r.n k) 62 60
def treeDiv (s : State) (r : RegionId) (k : Nat) : Nat := fld s (lrClkAt r.die r.n k) 59 52 + 1

/-- R243, R244: half cycles of a PLL or reference source in the first `t` ns of its die, at 100 MHz × FB / OUTDIV or 100 MHz. -/
def halfCycles (s : State) (d : Fin 4) (sel t : Nat) : Nat :=
  if sel < 4 then 2 * t * fld s (lrPllAt d sel) 61 56 / (10 * max 1 (fld s (lrPllAt d sel) 55 48)) else 2 * t / 10

/-- R244: rising and falling edges of the divided clock in the first `h` half cycles of the source: the high phase lasts half of
the divisor, rounded up, in source cycles. -/
def risesBy (div h : Nat) : Nat := h / 2 / div
def fallsBy (div h : Nat) : Nat := if div = 1 then (h + 1) / 2 else (h / 2 + div - (div + 1) / 2) / div

/-- A running tree makes a rising edge in the coming nanosecond (R244; phase: log 25). -/
def treeEdge (s : State) (r : RegionId) (k : Nat) : Bool :=
  let t := nowNs s r.die; let sel := treeSel s r k; let div := treeDiv s r k
  treeRuns s r k && (if sel < 5 then risesBy div (halfCycles s r.die sel t) < risesBy div (halfCycles s r.die sel (t + 1))
    else Config.ioEdge r.die sel div t)

/-- A running tree makes a falling edge in the coming nanosecond. -/
def treeFall (s : State) (r : RegionId) (k : Nat) : Bool :=
  let t := nowNs s r.die; let sel := treeSel s r k; let div := treeDiv s r k
  treeRuns s r k && (if sel < 5 then fallsBy div (halfCycles s r.die sel t) < fallsBy div (halfCycles s r.die sel (t + 1))
    else Config.ioFall r.die sel div t)

/-- The network endpoint of a region (R297). -/
def regNode (r : RegionId) : Nat := r.die.val * 256 + 102 + r.n.val

/-- The region of a queue controller (R232). -/
def qcRegion (d : Fin 4) (q : Fin 512) : RegionId := ⟨d, ⟨q.val / 32, by omega⟩⟩

/-- An IRQ from a Basalt die (R467). -/
def raiseIrq (s : State) (die vec : Nat) : State := sendIrq s (csrNode die) vec

end Sys2Proof.Machine
end

