-- ==== Sys2Proof/Machine/Queue.lean ====
section
/-! DEFINITION. Queue controllers, and the exchanges between producers and consumers of queue streams at either kind of
peer (R183-R186, R254-R264). -/

namespace Sys2Proof.Machine
open Sys2Proof

/-! ### A controller's state and flags (R254-R259, R272) -/

def qcKey (d : Fin 4) (q : Nat) : Nat := d.val * 512 + q
def getQc (s : State) (d : Fin 4) (q : Nat) : QCtl := mget {} s.qcs (qcKey d q)
def qcCfg (d : Fin 4) (q : Nat) : Nat := qcAt d q 0
def qcStat (d : Fin 4) (q : Nat) : Nat := qcAt d q 0x10
def qcOn (s : State) (d : Fin 4) (q : Nat) : Bool := flag s (qcCfg d q) 63
/-- QMODE: 0 FABRIC, 1 TOFAB, 2 FROMFAB. -/
def qcMode (s : State) (d : Fin 4) (q : Nat) : Nat := fld s (qcCfg d q) 62 61
def qcCrc (s : State) (d : Fin 4) (q : Nat) : Bool := flag s (qcCfg d q) 57
/-- Bytes of a check-value buffer. -/
def qcBuf (s : State) (d : Fin 4) (q : Nat) : Nat := fld s (qcCfg d q) 56 47 * 64

/-- The entries that occupy the queue memory: the true level of R255, and entries that are not visible yet (R263). -/
def level (x : QCtl) : Nat := x.entries.length + x.hidden.length

/-- R255: a pointer in Gray code, and back. -/
def gray (b : BitVec 13) : BitVec 13 := b ^^^ (b >>> 1)
def ungray (g : BitVec 13) : BitVec 13 :=
  let a := g ^^^ (g >>> 1)
  let a := a ^^^ (a >>> 2)
  let a := a ^^^ (a >>> 4)
  a ^^^ (a >>> 8)

/-- SAMECLK, and the flip-flops of a synchroniser (R255). -/
def qcSame (s : State) (d : Fin 4) (q : Nat) : Bool := flag s (qcCfg d q) 58
def qcSync (s : State) (d : Fin 4) (q : Nat) : Nat := if flag s (qcCfg d q) 59 then 3 else 2

/-- R255, R256: the copy of the read pointer that the write side has, and of the write pointer that the read side has. -/
def seenRp (s : State) (d : Fin 4) (q : Nat) (x : QCtl) : BitVec 13 :=
  if qcSame s d q then x.rp else ungray (x.rSync.getD (qcSync s d q - 1) 0)
def seenWp (s : State) (d : Fin 4) (q : Nat) (x : QCtl) : BitVec 13 :=
  if qcSame s d q then x.wp else ungray (x.wSync.getD (qcSync s d q - 1) 0)

/-- R256: WLEVEL, counting entries that are stored and not visible yet (R263); RLEVEL; and the free entries of the write side. -/
def qcWlevel (s : State) (d : Fin 4) (q : Nat) (x : QCtl) : Nat :=
  (x.wp + BitVec.ofNat 13 x.hidden.length - seenRp s d q x).toNat
def qcRlevel (s : State) (d : Fin 4) (q : Nat) (x : QCtl) : Nat := (seenWp s d q x - x.rp).toNat
def freeOf (s : State) (d : Fin 4) (q : Nat) (x : QCtl) : Nat := 4096 - qcWlevel s d q x

/-- R255: what one edge of the write clock, and one of the read clock, does to the crossing pointers. -/
def wEdge (x : QCtl) : QCtl := { x with wGray := gray x.wp, rSync := x.rGray :: x.rSync.take 2 }
def rEdge (x : QCtl) : QCtl := { x with rGray := gray x.rp, wSync := x.wGray :: x.wSync.take 2 }

/-- Keep a controller's state with its levels and flags. -/
def putQc (s : State) (d : Fin 4) (q : Nat) (x : QCtl) : State :=
  let s := { s with qcs := mset {} s.qcs (qcKey d q) x }
  let a := qcStat d q
  let s := setFld (setFld s a 56 44 (qcWlevel s d q x)) a 43 31 (qcRlevel s d q x)
  setFlag (setFlag s a 63 (qcWlevel s d q x == 4096)) a 62 (qcRlevel s d q x == 0)

/-- THR of QC_THR. -/
def qcThr (s : State) (d : Fin 4) (q : Nat) : Nat := fld s (qcAt d q 0x18) 12 0

/-- R259: the threshold at a write-side edge at which the level goes from `old` to `new`. -/
def thrStep (s : State) (d : Fin 4) (q : Nat) (old new : Nat) : State :=
  let a := qcStat d q; let t := qcThr s d q
  if t = 0 then s else
  let s := if old < t then setFlag s a 60 true else s
  if flag s a 60 && old < t && t ≤ new then
    let s := setFlag (setFlag s a 60 false) a 61 true
    if flag s (qcCfg d q) 16 then raiseIrq s d (fld s (qcCfg d q) 15 6) else s
  else if new < t then setFlag s a 60 true
  else s

/-- Keep a controller whose write side has seen an edge; QIRQ pulses when the threshold fires (R259). -/
def putWrite (s : State) (d : Fin 4) (q : Nat) (x : QCtl) : State :=
  let old := qcWlevel s d q (getQc s d q); let new := qcWlevel s d q x
  thrStep (putQc s d q { x with qirq := qcThr s d q != 0 && old < qcThr s d q && qcThr s d q ≤ new }) d q old new

/-- An entry is stored, which ends what its place of the queue memory held. -/
def pushEntry (x : QCtl) (e : BitVec 72) : QCtl :=
  { x with entries := x.entries ++ [e], wp := x.wp + 1, ue := mset false x.ue (x.wp.toNat % 4096) false }

/-- R258: a data entry of lossy mode, and a gap marker. -/
def lossyEntry (e : BitVec 72) : BitVec 72 := e &&& BitVec.ofNat 72 (2 ^ 71 - 1)
def gapMarker (n : Nat) : BitVec 72 := BitVec.ofNat 72 (2 ^ 71 + min n 0xFFFFFFFF)

/-! ### Entries of the network modes (R260) -/

def sideEnd (e : BitVec 72) : Bool := e.getLsbD 69
def sidePoison (e : BitVec 72) : Bool := e.getLsbD 70
/-- The valid bytes of an entry. -/
def entryBytes (e : BitVec 72) : List Byte := (leBytes 8 e.toNat).take (bitsN e.toNat 66 64 + 1)
/-- An entry of up to 8 bytes. -/
def makeEntry (b : List Byte) (poison : Bool) : BitVec 72 :=
  BitVec.ofNat 72 (leNat b + (b.length - 1) * 2 ^ 64 + (if poison then 2 ^ 70 else 0))
/-- R261: the END entry. -/
def endEntry : BitVec 72 := BitVec.ofNat 72 (2 ^ 69)

/-- R261: each 8-byte group of a push becomes one entry; those of a poisoned flit carry POISON. -/
def pushEntries (d : List Byte) (mask : Nat) : List (BitVec 72) :=
  (List.range (cdiv d.length 8)).map (fun i => makeEntry ((d.drop (8 * i)).take 8) (mask / 2 ^ (8 * i / 64) % 2 == 1))

/-! ### What a controller tells its peer -/

/-- A packet from a controller to the peer that a PEER word names. -/
def qcTell (s : State) (d : Fin 4) (q : Fin 512) (peer : Word) (p : Packet) : State :=
  sendPkt s (toPeer s peer { p with src := BitVec.ofNat 12 (regNode (qcRegion d q)) })

/-- The facts of a controller's exchange (log 13): it is the consumer in TOFAB mode, the producer in FROMFAB mode. -/
def qcData (s : State) (d : Fin 4) (q : Fin 512) (peer : Word) (credits : Nat) : QueueData :=
  let me := qcPeerWord s d q
  let cons := qcMode s d q == 1
  { producer := if cons then peer else me, consumer := if cons then me else peer, credits, bufsz := qcBuf s d q,
    crcOn := qcCrc s d q }

/-- R185, R264: a connection ends with a status: PEER_STATUS, PEER_LIVE. -/
def qcClose (s : State) (d : Fin 4) (q : Nat) (status : Status) : State :=
  setFlag (setFld s (qcStat d q) 30 23 status) (qcStat d q) 57 false

/-- R262: the free tags of a region's endpoint that its controllers use; user logic has the first 256 (R271). -/
def qcTag (s : State) (r : RegionId) : Option Nat :=
  (List.range 768).map (· + 256) |>.find? (fun g => (getTag s (regNode r) g).use.isNone)

/-! ### Reservations and grants (R184, R186) -/

/-- R186, R261: credits that a TOFAB controller can offer. -/
def qcCredits (s : State) (d : Fin 4) (q : Nat) (x : QCtl) : Nat := (freeOf s d q x - 1) / 32

/-- R184, R261, R263: what a reservation request meets at an enabled TOFAB controller: a status that ends the producer,
`some` credits, or a hold. -/
def qcVerdict (s : State) (d : Fin 4) (q : Nat) (r : QueueData) : Status × Option Nat :=
  let x := getQc s d q
  if 127 < r.credits || r.crcOn != qcCrc s d q || (r.crcOn && r.bufsz != qcBuf s d q) then (stPeerMismatch, none)
  else if x.peer.isNone && r.credits ≤ qcCredits s d q x then (stOk, some r.credits)
  else (stOk, none)

/-- R184: a held request is granted or ends its producer, once it can be decided. -/
def qcTryGrant (s : State) (d : Fin 4) (q : Fin 512) : State :=
  let x := getQc s d q
  match x.heldResv with
  | none => s
  | some p =>
    let w := p.qd.producer
    match qcVerdict s d q p.qd with
    | (0, some n) =>
      let s := putQc s d q { x with heldResv := none, peer := some w, granted := true, credits := n }
      let s := setFlag s (qcStat d q) 57 true
      qcTell s d q w { op := 0x13, vc := 1, qd := qcData s d q w n }
    | (0, none) => s
    | (e, _) =>
      let s := putQc s d q { x with heldResv := none }
      qcTell s d q w { op := 0x13, vc := 1, status := BitVec.ofNat 8 e, qd := qcData s d q w 0 }

/-! ### Disabling (R264) -/

/-- R264: what the peers of a controller that is disabled are told: each producer, or the consumer, ends with
NOC_FENCED (log 13). -/
def qcHangUp (s : State) (d : Fin 4) (q : Fin 512) : State :=
  let x := getQc s d q
  let s := match x.heldResv with
    | some p => qcTell s d q p.qd.producer
        { op := 0x13, vc := 1, status := BitVec.ofNat 8 stNocFenced, qd := qcData s d q p.qd.producer 0 }
    | none => s
  match x.peer with
  | none => s
  | some w =>
    if x.done && qcMode s d q == 2 && !flag s (qcStat d q) 57 then s else
    let op : BitVec 8 := if qcMode s d q = 1 then 0x13 else 0x11
    qcClose (qcTell s d q w { op, vc := 1, status := BitVec.ofNat 8 stNocFenced, qd := qcData s d q w 0 }) d q stNocFenced

/-- R264: clearing EN discards the contents and ends any connection. -/
def qcOff (s : State) (d : Fin 4) (q : Fin 512) : State :=
  let s := putQc (qcHangUp s d q) d q {}
  setFlag (setFlag s (qcStat d q) 60 false) (qcCfg d q) 63 false

/-- R184, R262: the reservation request of a FROMFAB controller that has not sent it, when its peer word names a context and a
tag is free; else it waits for a tag. -/
def qcAsk (s : State) (d : Fin 4) (q : Fin 512) : State :=
  let r := qcRegion d q
  let w := normPeer s (rd s (qcAt d q 8))
  if !qcOn s d q || qcMode s d q != 2 || (getQc s d q).asked then s else
  match peerCtx w, qcTag s r with
  | some _, some g =>
    let s := putQc s d q { getQc s d q with peer := some w, asked := true }
    qcTell (holdTag s (regNode r) g (.qc d q)) d q w
      { op := 0x12, tag := BitVec.ofNat 10 g, gen := (getTag s (regNode r) g).gen,
        qd := qcData s d q w (fld s (qcCfg d q) 40 33) }
  | none, _ => qcClose (putQc s d q { getQc s d q with asked := true, done := true }) d q stPeerMismatch
  | _, none => s

/-- R262, R264: setting EN empties the queue and arms the threshold; a FROMFAB controller asks for its credits. -/
def qcStart (s : State) (d : Fin 4) (q : Fin 512) : State :=
  qcAsk (setFlag (putQc s d q {}) (qcStat d q) 60 true) d q

/-- Fields of QC_CFG that a write may not change while EN = 1: all but EN and IRQEN (R264). -/
def qcFixed (w : Word) : Nat := bits w 62 17 * 1024 + bits w 15 6

/-- R264: a write that sets EN with an illegal setting. -/
def qcIllegal (v : Word) : Bool :=
  (bits v 62 61 != 0 && (bit v 60 || bit v 58)) || (bits v 62 61 == 0 && bit v 57)
  || (bit v 57 && (bits v 56 47 < 4 || 512 < bits v 56 47 || bits v 56 47 % 4 != 0))

/-- A write to QC_CFG (R264, R272). A controller of a region that is not released is held in reset (R275): its
registers do not change (log 22). -/
def writeQcCfg (s : State) (d : Fin 4) (q : Fin 512) (v : Word) : State :=
  let a := qcCfg d q
  let old := rd s a
  if !regionLive s (qcRegion d q) then s
  else if bit old 63 then
    if qcFixed v ≠ qcFixed old then setFlag s a 5 true
    else
      let s := plainWrite s .qcCfg a v
      if bit v 63 then s else qcOff (setFlag s a 63 true) d q
  else if bits v 62 61 = 3 then s
  else if bit v 63 && qcIllegal v then setFlag s a 5 true
  else
    let s := plainWrite s .qcCfg a v
    if bit v 63 then qcStart s d q else s

/-- A write to QC_PEER or QC_THR, which a controller held in reset does not take (R275, log 22). -/
def writeQcReg (s : State) (n : RegName) (d : Fin 4) (q : Fin 512) (off : Nat) (v : Word) : State :=
  if regionLive s (qcRegion d q) then plainWrite s n (qcAt d q off) v else s

/-- QC_ENABLE (R264). -/
def execQcEnable (d : Fin 4) (qc : Fin 512) (v : Word) (s : State) : Out := whenRunning s fun s =>
  writeQcCfg s d qc (setBit v 63 true)

/-- QC_DISABLE (R264): EN cleared, nothing else written. -/
def execQcDisable (d : Fin 4) (qc : Fin 512) (s : State) : Out := whenRunning s fun s =>
  if regionLive s (qcRegion d qc) && qcOn s d qc then qcOff s d qc else s

/-! ### The fabric ports (R254, R257, R258) -/

/-- One edge of a fabric write end's clock, with WVALID and WDATA (R254-R259). -/
def qcWriteEdge (s : State) (d : Fin 4) (q : Fin 512) (valid : Bool) (data : BitVec 72) : State :=
  let x := getQc s d q
  let y := wEdge x
  let free := freeOf s d q x
  let thr := qcAt d q 0x18
  if flag s (qcCfg d q) 60 then
    if x.pending ≠ 0 && 2 ≤ free then
      let n := x.pending + (if valid then 1 else 0)
      let s := if valid then satFld s thr 63 32 else s
      putWrite (incFld s thr 31 16) d q { pushEntry y (gapMarker n) with pending := 0 }
    else if !valid then putWrite s d q y
    else if 2 ≤ free then putWrite s d q (pushEntry y (lossyEntry data))
    else putWrite (satFld s thr 63 32) d q { y with pending := x.pending + 1 }
  else if valid && 1 ≤ free then putWrite s d q (pushEntry y data)
  else putWrite s d q y

/-- A fabric write end of an enabled controller, and a fabric read end, and their trees (R254, R272). -/
def qcWriteEnd (s : State) (d : Fin 4) (q : Nat) : Bool := qcOn s d q && qcMode s d q != 1
def qcReadEnd (s : State) (d : Fin 4) (q : Nat) : Bool := qcOn s d q && qcMode s d q != 2
def qcWtree (s : State) (d : Fin 4) (q : Nat) : Nat := fld s (qcCfg d q) 46 44
def qcRtree (s : State) (d : Fin 4) (q : Nat) : Nat := fld s (qcCfg d q) 43 41

/-- QC_WRITE: an edge of the write clock (R254, R257-R259). -/
def execQcWrite (d : Fin 4) (qc : Fin 512) (valid : Bool) (data : BitVec 72) (s : State) : Out := whenRunning s fun s =>
  if qcWriteEnd s d qc && treeRuns s (qcRegion d qc) (qcWtree s d qc) then qcWriteEdge s d qc valid data else s

/-- R261: the owner of the oldest entry, and the list once that entry has been read. -/
def takeOwed : List (Word × Nat) → Option Word × List (Word × Nat)
  | [] => (none, [])
  | (w, n) :: r => (some w, if n ≤ 1 then r else (w, n - 1) :: r)

/-- R261: an entry of TOFAB mode has been read: one credit for each 32. -/
def qcCredit (s : State) (d : Fin 4) (q : Fin 512) (x : QCtl) : State :=
  let o := takeOwed x.owed
  let n := x.readCnt + 1
  let s := putQc s d q { x with owed := o.2, readCnt := n % 32 }
  match o.1 with
  | some w => if n = 32 then qcTell s d q w { op := 0x11, vc := 1, qd := qcData s d q w 1 } else s
  | none => s

/-- R254: the entry at the head of the queue memory is uncorrectable. -/
def headBad (x : QCtl) : Bool := mget false x.ue (x.rp.toNat % 4096)

/-- What a read of an entry meets: an uncorrectable one sets ECC_ERR (R254, R272). -/
def qcEcc (s : State) (d : Fin 4) (q : Fin 512) (bad corrected : Bool) : State :=
  if bad then logEvent (setFlag s (qcStat d q) 58 true) 0x0004 d 0xFFF 2 q
  else if corrected then logEvent s 0x0003 d 0xFFF 1 q else s

/-- One edge of a fabric read end's clock, with RTAKE (R254-R257, R261). -/
def qcReadEdge (s : State) (d : Fin 4) (q : Fin 512) (take : Bool) (ecc : Ecc) : State :=
  let x := getQc s d q
  match x.entries with
  | [] => putQc s d q (rEdge x)
  | e :: rest =>
    if !take || qcRlevel s d q x = 0 then putQc s d q (rEdge x) else
    let y := { rEdge x with entries := rest, rp := x.rp + 1 }
    let s := qcEcc s d q (headBad x || ecc == .uncorrectable) (ecc == .corrected)
    qcTryGrant (if qcMode s d q = 1 && !sideEnd e then qcCredit s d q y else putQc s d q y) d q

/-- QC_READ: an edge of the read clock with RTAKE = 1 (R254, R257, R261). -/
def execQcRead (d : Fin 4) (qc : Fin 512) (ecc : Ecc) (s : State) : Out := whenRunning s fun s =>
  if qcReadEnd s d qc && treeRuns s (qcRegion d qc) (qcRtree s d qc) then qcReadEdge s d qc true ecc else s

/-! ### Entries that a FROMFAB controller sends (R262, R263) -/

/-- The entries that the network end sees (R256). -/
def pushable (s : State) (d : Fin 4) (q : Nat) : List (BitVec 72) := (getQc s d q).entries.take (qcRlevel s d q (getQc s d q))
/-- The entries that the next push would carry: up to 32, stopping before an END entry. -/
def pushRun (s : State) (d : Fin 4) (q : Nat) : List (BitVec 72) := ((pushable s d q).take 32).takeWhile (fun e => !sideEnd e)
/-- Those of the next `n` entries that are uncorrectable: they go on with POISON set (R272, R408, log 21). -/
def runUe (x : QCtl) (n : Nat) : List Bool := (List.range n).map (fun i => mget false x.ue ((x.rp.toNat + i) % 4096))
def withUe (es : List (BitVec 72)) (bad : List Bool) : List (BitVec 72) :=
  (es.zip bad).map (fun e => if e.2 then e.1 ||| BitVec.ofNat 72 (2 ^ 70) else e.1)

/-- R262: flits of the payload that hold a byte of an entry with POISON set. -/
def runMask (es : List (BitVec 72)) : Nat :=
  let fs := es.foldl (fun (a : Nat × List Nat) e =>
    let n := (entryBytes e).length
    (a.1 + n, if sidePoison e then a.2 ++ [a.1 / 64, (a.1 + n - 1) / 64] else a.2)) (0, [])
  (List.range 4).foldl (fun k i => if fs.2.contains i then k + 2 ^ i else k) 0

/-! ### What reaches a peer (R175, R184-R186, R261-R264) -/

/-- Bytes land at the end of a QIN stream's data, buffer by buffer; `k` bounds the buffers. -/
def qinPlace (t : TileId) (c : Nat) (crc : Option (BitVec 32)) (mask : Nat) : Nat → Nat → List Byte → State → State
  | 0, _, _, s => s
  | k + 1, off, d, s =>
    match getStream (getTile s t) c with
    | none => s
    | some st =>
      match bufOf st st.pos with
      | none => s
      | some (p, b) =>
        let o := st.pos % st.bufsz
        let here := d.take (st.bufsz - o)
        if here.isEmpty || 1 < b.state then s else
        let s := putStream s t c { st with pos := st.pos + here.length }
        let s := placeBytes s t c p o off here mask
        let full := o + here.length = st.bufsz
        let s := if full then
            match getStream (getTile s t) c with
            | some st => match st.bufs[p]? with
              | some b => putStream s t c (setBuf st p { b with crc := crc.map (·.toNat) })
              | none => s
            | none => s
          else s
        let s := if full then fillCheck s t c p else s
        qinPlace t c crc mask k (off + here.length) (d.drop here.length) s

/-- The connected QIN stream of a context, when a packet comes from its producer. -/
def qinOf (s : State) (t : TileId) (c : Nat) (producer : Word) : Option Stream :=
  match getStream (getTile s t) c with
  | some st =>
    if isRunning st && st.kind == 2 && st.granted && !st.endmark && normPeer s st.peer == normPeer s producer then some st else none
  | none => none

/-- R263: entries of a buffer whose check value has been compared become visible. -/
def reveal (x : QCtl) : QCtl := { x.hidden.foldl pushEntry x with hidden := [], bufBytes := [] }

/-- Own `n` more entries. -/
def owe (l : List (Word × Nat)) (w : Word) (n : Nat) : List (Word × Nat) :=
  match l.reverse with
  | [] => [(w, n)]
  | (v, k) :: r => if v = w then (r.reverse ++ [(v, k + n)]) else l ++ [(w, n)]

/-- R263: a check value fails: the buffer's entries are discarded, CHECK_ERR set, the producer ends with
CHECK_MISMATCH, the connection ends. -/
def qcCheckFail (s : State) (d : Fin 4) (q : Fin 512) (w : Word) : State :=
  let x := getQc s d q
  let s := setFlag (putQc s d q { x with hidden := [], bufBytes := [], peer := none, granted := false }) (qcStat d q) 59 true
  qcClose (qcTell s d q w { op := 0x13, vc := 1, status := BitVec.ofNat 8 stCheckMismatch, qd := qcData s d q w 0 }) d q stCheckMismatch

/-- R261, R263: entries reach a TOFAB controller; with CRC they stay hidden until their buffer has been compared. -/
def tofabPush (s : State) (d : Fin 4) (q : Fin 512) (w : Word) (p : Packet) : State :=
  let x := getQc s d q
  let es := pushEntries p.data p.poison.toNat
  if !qcCrc s d q then
    putWrite s d q { es.foldl pushEntry (wEdge x) with owed := owe x.owed w es.length }
  else
    let y := { wEdge x with hidden := x.hidden ++ es, bufBytes := x.bufBytes ++ p.data }
    if y.bufBytes.length < qcBuf s d q then putWrite s d q y
    else if y.hidden.any sidePoison || p.qd.crc = some (BitVec.ofNat 32 (crc32c 0 y.bufBytes)) then
      putWrite s d q { reveal y with owed := owe x.owed w y.hidden.length }
    else qcCheckFail (putWrite s d q y) d q w

/-- R264: a push or reservation that a controller's region or EN keeps out. -/
def qcShut (s : State) (d : Fin 4) (q : Fin 512) : Bool := !regionLive s (qcRegion d q) || !qcOn s d q

/-- PUSH at its consumer (R185, R261): the status and the state. -/
def pushAt (s : State) (p : Packet) : Status × State :=
  match peerCtx p.qd.consumer, peerQc p.qd.consumer with
  | some (t, c), _ =>
    if !tileOpen s t then (stNocFenced, s)
    else match qinOf s t c p.qd.producer with
      | some st => (stOk, qinPlace t c p.qd.crc p.poison.toNat 3 0 p.data (putStream s t c (progress s t st)))
      | none => (stPeerMismatch, s)
  | none, some (d, q) =>
    let x := getQc s d q
    if qcShut s d q then (stNocFenced, s)
    else if qcMode s d q = 1 && x.granted && x.peer == some p.qd.producer && level x + cdiv p.data.length 8 < 4096 then
      (stOk, tofabPush s d q p.qd.producer p)
    else (stPeerMismatch, s)
  | none, none => (stNocUnmapped, s)

/-- RESERVE at its consumer (R184, R186): held, and granted or turned down as soon as it can be decided. A second request
while one is held ends its producer. -/
def reserveAt (s : State) (p : Packet) : Status × State :=
  match peerCtx p.qd.consumer, peerQc p.qd.consumer with
  | some (t, c), _ =>
    if !tileOpen s t then (stNocFenced, s)
    else if (mget none (getTile s t).heldResv c).isSome then (stPeerMismatch, s)
    else (stOk, tryGrant (modTile s t (fun x => { x with heldResv := mset none x.heldResv c (some p) })) t c)
  | none, some (d, q) =>
    let x := getQc s d q
    if qcShut s d q then (stNocFenced, s)
    else if qcMode s d q ≠ 1 || x.heldResv.isSome then (stPeerMismatch, s)
    else (stOk, qcTryGrant (putQc s d q { x with heldResv := some p }) d q)
  | none, none => (stNocUnmapped, s)

/-- The current buffer of a QIN stream takes its expected value from the end marker (log 13). -/
def partialCrc (s : State) (t : TileId) (c : Nat) (st : Stream) (crc : Option (BitVec 32)) : State :=
  match bufOf st st.pos with
  | some (p, b) => if st.pos % st.bufsz = 0 then s else putStream s t c (setBuf st p { b with crc := crc.map (·.toNat) })
  | none => s

/-- ENDMARK at its consumer (R185, R261, R263). -/
def endmarkAt (s : State) (p : Packet) : Status × State :=
  match peerCtx p.qd.consumer, peerQc p.qd.consumer with
  | some (t, c), _ =>
    if !tileOpen s t then (stNocFenced, s)
    else match qinOf s t c p.qd.producer with
      | some st =>
        let st := progress s t { st with endmark := true }
        let s := partialCrc (putStream s t c st) t c st p.qd.crc
        (stOk, tryCommit (closeBuf s t c st.pos) t c)
      | none => (stPeerMismatch, s)
  | none, some (d, q) =>
    let x := getQc s d q
    if qcShut s d q then (stNocFenced, s)
    else if qcMode s d q = 1 && x.granted && x.peer == some p.qd.producer then
      let pad := x.bufBytes ++ List.replicate (qcBuf s d q - x.bufBytes.length) 0
      if !x.hidden.isEmpty && !x.hidden.any sidePoison && p.qd.crc ≠ some (BitVec.ofNat 32 (crc32c 0 pad)) then
        (stOk, qcCheckFail s d q p.qd.producer)
      else
        let y := pushEntry (reveal (wEdge x)) endEntry
        let y := { y with owed := owe x.owed p.qd.producer x.hidden.length, peer := none, granted := false, credits := 0 }
        (stOk, qcTryGrant (qcClose (putWrite s d q y) d q stOk) d q)
    else (stPeerMismatch, s)
  | none, none => (stNocUnmapped, s)

/-- Credits at a QOUT stream or FROMFAB controller (R185, R262). -/
def creditProducer (s : State) (w : Word) (n : Nat) : State :=
  match peerCtx w, peerQc w with
  | some (t, c), _ =>
    match getStream (getTile s t) c with
    | some st =>
      if st.kind = 3 && isRunning st then
        let st := { st with credits := st.credits + n, uncredited := st.uncredited - n, bytes := st.bytes + 256 * min n st.uncredited }
        tryCommit (putStream s t c (progress s t (drainCredited st))) t c
      else s
    | none => s
  | none, some (d, q) =>
    let x := getQc s d q
    if qcOn s d q && qcMode s d q = 2 && x.granted then
      let y := { x with credits := x.credits + n, uncredited := x.uncredited - n }
      let s := putQc s d q y
      if y.done && y.uncredited = 0 then qcClose s d q stOk else s
    else s
  | none, none => s

/-- What a producer that ends early tells its consumer (log 13): ABORTED returns credits, any other status ends the
stream. -/
def creditConsumer (s : State) (p : Packet) : State :=
  match peerCtx p.qd.consumer, peerQc p.qd.consumer with
  | some (t, c), _ =>
    match getStream (getTile s t) c with
    | some st =>
      if st.kind = 2 && isRunning st && normPeer s st.peer == normPeer s p.qd.producer then
        if p.status.toNat = stAborted then tryGrant (putStream s t c { st with credits := st.credits - p.qd.credits }) t c
        else cancelStream s t c p.status.toNat
      else s
    | none => s
  | none, some (d, q) =>
    let x := getQc s d q
    if qcOn s d q && x.peer == some p.qd.producer then putQc s d q { x with credits := x.credits - p.qd.credits } else s
  | none, none => s

/-- CREDIT (R185). -/
def creditAt (s : State) (p : Packet) : State :=
  if p.status = 0 then creditProducer s p.qd.producer p.qd.credits else creditConsumer s p

/-- R184, R192: a grant that finds its producer gone is returned to the peer that gave it. -/
def returnGrant (s : State) (src : BitVec 12) (p : Packet) : State :=
  if p.status ≠ 0 then s
  else sendPkt s (toPeer s p.qd.consumer { op := 0x11, vc := 1, status := BitVec.ofNat 8 stAborted, src, qd := p.qd })

/-- GRANT (R184): credits, or a status that ends the producer. -/
def grantAt (s : State) (p : Packet) : State :=
  match peerCtx p.qd.producer, peerQc p.qd.producer with
  | some (t, c), _ =>
    match getStream (getTile s t) c with
    | some st =>
      if st.kind ≠ 3 || !isRunning st || !st.asked || normPeer s st.peer != normPeer s p.qd.consumer then
        returnGrant s (BitVec.ofNat 12 (tileNode s t)) p
      else if p.status ≠ 0 then cancelStream s t c p.status.toNat
      else if st.granted then returnGrant s (BitVec.ofNat 12 (tileNode s t)) p
      else putStream s t c (progress s t { st with granted := true, credits := p.qd.credits })
    | none => returnGrant s (BitVec.ofNat 12 (tileNode s t)) p
  | none, some (d, q) =>
    let x := getQc s d q
    if !qcOn s d q || qcMode s d q ≠ 2 || x.done then s
    else if p.status ≠ 0 then qcClose (putQc s d q { x with done := true, granted := false }) d q p.status.toNat
    else if x.granted then s
    else setFlag (putQc s d q { x with granted := true, credits := p.qd.credits }) (qcStat d q) 57 true
  | none, none => s

/-- An acknowledgement at a FROMFAB controller: an error status ends the connection (R188, R262). -/
def qcAnswered (s : State) (d : Fin 4) (q : Fin 512) (status : Status) : State :=
  let x := getQc s d q
  if status = stOk ∨ status = stTwinTakeover ∨ x.done then s
  else qcClose (putQc s d q { x with done := true, granted := false }) d q status

/-! ### What a FROMFAB controller sends (R262, R263, R265) -/

/-- R265: the peer context of a controller that is reached by the direct lane: a logical M-tile of this device and die, served by
physical tile 4n to 4n + 3 of region n; none while a packet of the controller is in the network, which keeps the order. -/
def directLane (s : State) (d : Fin 4) (q : Fin 512) : Option TileId :=
  match (getQc s d q).peer with
  | none => none
  | some w =>
    match peerCtx w with
    | none => none
    | some (t, _) =>
      if peerDev s w == ownDev s && t.die == d && !isV t && mapped s t && epOf s t / 4 == q.val / 32
          && !(tagsOf s (regNode (qcRegion d q))).any (fun g => g.2.use == some (.qc d q)) then some t else none

/-- The controller can send to its peer. -/
def canPush (s : State) (d : Fin 4) (q : Fin 512) : Bool :=
  let x := getQc s d q
  regionLive s (qcRegion d q) && qcOn s d q && qcMode s d q == 2 && x.granted && !x.done
    && ((directLane s d q).isSome || (qcTag s (qcRegion d q)).isSome)

/-- R263: bytes of the open check-value buffer with new bytes, and the value when they complete it. -/
def crcOver (b : Nat) (old new : List Byte) : List Byte × Option (BitVec 32) :=
  if (old ++ new).length < b then (old ++ new, none)
  else ((old ++ new).drop b, some (BitVec.ofNat 32 (crc32c 0 ((old ++ new).take b))))

/-- R265: a push takes the direct lane: its entries pass the staging registers and its bytes are in the ring in this step. -/
def lanePush (s : State) (d : Fin 4) (q : Fin 512) (es : List (BitVec 72)) (p : Packet) : State :=
  let r := qcRegion d q
  let s := modRegion s r (fun x => { x with stage1 := es.getLastD x.stage1, stage2 := es.getLastD x.stage2 })
  let a := pushAt s { p with src := BitVec.ofNat 12 (regNode r) }
  qcAnswered a.2 d q a.1

/-- Send one push of the entries at the head (R262, R263, R265). -/
def sendPush (s : State) (d : Fin 4) (q : Fin 512) : State :=
  let x := getQc s d q
  let n := (pushRun s d q).length
  let es := withUe (pushRun s d q) (runUe x n)
  let r := qcRegion d q
  match x.peer with
  | none => s
  | some w =>
    let b := es.flatMap entryBytes
    let c := if qcCrc s d q then crcOver (qcBuf s d q) x.bufBytes b else ([], none)
    let p : Packet := { op := 0x10, len := b.length, nflit := BitVec.ofNat 3 (cdiv b.length 64),
                        poison := BitVec.ofNat 4 (runMask es), data := b, qd := { qcData s d q w 0 with crc := c.2 } }
    let y := { x with entries := x.entries.drop n, rp := x.rp + BitVec.ofNat 13 n, credits := x.credits - 1,
                      uncredited := x.uncredited + 1, bufBytes := c.1 }
    let z := qcEcc (putQc s d q y) d q ((runUe x n).contains true) false
    match directLane s d q, qcTag s r with
    | some _, _ => lanePush z d q es p
    | none, some g => qcTell (holdTag z (regNode r) g (.qc d q)) d q w
        { p with tag := BitVec.ofNat 10 g, gen := (getTag s (regNode r) g).gen }
    | none, none => s

/-- R262, R263: the end marker, with the check value of a partial buffer (log 13). -/
def sendEnd (s : State) (d : Fin 4) (q : Fin 512) : State :=
  let x := getQc s d q
  let r := qcRegion d q
  match x.peer, qcTag s r with
  | some w, some g =>
    let b := qcBuf s d q
    let c := if qcCrc s d q && !x.bufBytes.isEmpty then
      some (BitVec.ofNat 32 (crc32c 0 (x.bufBytes ++ List.replicate (b - x.bufBytes.length) 0))) else none
    let y := { x with entries := x.entries.drop 1, rp := x.rp + 1, done := true, bufBytes := [] }
    let s := holdTag (putQc s d q y) (regNode r) g (.qc d q)
    let s := if y.uncredited = 0 then qcClose s d q stOk else s
    qcTell s d q w { op := 0x15, tag := BitVec.ofNat 10 g, gen := (getTag s (regNode r) g).gen,
                     qd := { qcData s d q w 0 with crc := c } }
  | _, _ => s

/-- QC_PUSH: a reservation request that waited for a tag goes out; else 32 entries wait, or an END entry stands among the first
32; an END entry at the head becomes the end marker (R262). -/
def execQcPush (d : Fin 4) (qc : Fin 512) (s : State) : Out := whenRunning s fun s =>
  let x := getQc s d qc
  if !canPush s d qc then (if regionLive s (qcRegion d qc) then qcAsk s d qc else s)
  else match pushable s d qc with
    | [] => s
    | e :: _ =>
      if sideEnd e then sendEnd s d qc
      else if 1 ≤ x.credits && (32 ≤ (pushRun s d qc).length || ((pushable s d qc).take 33).any sideEnd) then sendPush s d qc
      else s

/-- PUSHWAIT: the oldest waiting entry has waited PUSHWAIT ns (R262). -/
def execPushwait (d : Fin 4) (qc : Fin 512) (s : State) : Out := whenRunning s fun s =>
  if canPush s d qc && 1 ≤ (getQc s d qc).credits && fld s (qcCfg d qc) 32 17 != 0 && !(pushRun s d qc).isEmpty then sendPush s d qc
  else s

end Sys2Proof.Machine
end

