-- ==== Sys2Proof/Machine/Blocks.lean ====
section
/-! DEFINITION. Hard blocks of the logic fabric: block memories, the network endpoint of a region, clocks and user pins
(R243-R253, R266-R272). -/

namespace Sys2Proof.Machine
open Sys2Proof

/-! ### The network endpoint (R271) -/

/-- R271: a request of user logic: 1-256 bytes that cross no 256-byte boundary. -/
def endpointOk (isWrite : Bool) (addr len : Nat) (data : List Byte) : Bool :=
  1 ≤ len && addr % 256 + len ≤ 256 && (!isWrite || data.length == len)

/-- R271: the endpoint is clocked by a tree that the design chooses: some tree of its released region runs. -/
def endpointClocked (s : State) (r : RegionId) : Bool := (List.range 8).any (treeRuns s r)

/-- ENDPOINT_REQUEST (R33, R271): with a free tag; an address that the region may not reach completes at once. -/
def execEndpointRequest (r : RegionId) (isWrite fab : Bool) (addr : BitVec 64) (len : Nat) (ord : Fin 4) (data : List Byte)
    (tag : Fin 256) (s : State) : Out := whenRunning s fun s =>
  let node := regNode r
  let g := getTag s node tag
  if !endpointClocked s r || fstate s r.die (102 + r.n.val) != 0 || g.use.isSome || !endpointOk isWrite addr.toNat len data then s
  else
    let d := if isWrite then data else []
    let p : Packet := { op := if isWrite then 0x02 else 0x01, nflit := BitVec.ofNat 3 (cdiv d.length 64), len, fab,
                        src := BitVec.ofNat 12 node, tag := BitVec.ofNat 10 tag, gen := g.gen, addr,
                        od := { ord := BitVec.ofNat 2 ord }, data := d }
    let s := holdTag s node tag (.endpoint r)
    if fab then inject s { p with dest := engineNode s (addr.toNat / 2 ^ 44) }
    else
      let e := mapStatus s.part .region addr.toNat len
      if e ≠ 0 then refuseAtOnce s p e else inject s { p with dest := serveNode s addr.toNat }

/-! ### Block memories (R249-R253) -/

def bramLane (x : Region) (m l : Nat) : BitVec 9 := mget 0 x.bram (8192 * m + l)
def setBram (x : Region) (m l : Nat) (v : BitVec 9) : Region := { x with bram := mset 0 x.bram (8192 * m + l) v }

/-- Lanes of a 9k-bit word, or the lane of a 1-, 2- or 4-bit word (R249). -/
def bramLanes (width addr : Nat) : List Nat :=
  if width % 9 = 0 then
    let k := width / 9
    (List.range k).map (fun i => (addr * k + i) % 8192)
  else [addr * width / 8 % 8192]

/-- The word that lane values spell for a port (R249). -/
def bramWord (width addr : Nat) (ls : List (BitVec 9)) : BitVec 72 :=
  if width % 9 = 0 then BitVec.ofNat 72 (ls.foldr (fun v n => v.toNat + 512 * n) 0)
  else BitVec.ofNat 72 ((ls.headD 0).toNat / 2 ^ (addr * width % 8) % 2 ^ width)

/-- The value a written lane takes: lane i of the word, or the lane with some bits replaced (R249). -/
def bramPut (width addr i : Nat) (old : BitVec 9) (din : BitVec 72) : BitVec 9 :=
  if width % 9 = 0 then BitVec.ofNat 9 (din.toNat / 512 ^ i)
  else
    let b := addr * width % 8
    let m := 2 ^ width - 1
    BitVec.ofNat 9 (old.toNat - old.toNat / 2 ^ b % 2 ^ width * 2 ^ b + (din.toNat &&& m) * 2 ^ b)

/-- R252: one of two values, by a free choice (log 10). -/
def pick (n : Nat) (a b : BitVec 9) : BitVec 9 := if (Config.free n).getLsbD 0 then a else b

/-- The value that the other port writes to a lane within 0.30 ns. -/
def clashOf (c : List (Nat × BitVec 9)) (l : Nat) : Option (BitVec 9) := (c.find? (fun e => e.1 == l)).map (·.2)

/-- The output register of a port shows what it has taken (R250). -/
def showLatched (x : Region) (k : Nat) : Region :=
  match mget none x.dlat k with
  | some v => { x with dout := mset 0 x.dout k v.1, derr := mset false x.derr k v.2, dlat := mset none x.dlat k none }
  | none => x

/-- What a port shows: at this edge, or with the output register after the following one (R250). -/
def showWord (x : Region) (k : Nat) (oreg : Bool) (v : BitVec 72) (bad : Bool) : Region :=
  if oreg then { x with dlat := mset none x.dlat k (some (v, bad)) }
  else { x with dout := mset 0 x.dout k v, derr := mset false x.derr k bad }

/-- The physical 72-bit word, of eight lanes, that an access touches (R253): key of `bramUe`. -/
def bramPhys (m l : Nat) : Nat := 1024 * m + l / 8

/-- BRAM_ACCESS: one port at one edge of its tree (R249-R253). A write of a whole physical word ends its error. -/
def execBramAccess (r : RegionId) (m : Fin 64) (portB : Bool) (a : BramAccess) (ecc : Ecc) (s : State) : Out := whenRunning s fun s =>
  if !treeRuns s r a.tree || !a.en || ! [1, 2, 4, 9, 18, 36, 72].contains a.width then s else
  let x := getRegion s r
  let ls := bramLanes a.width a.addr
  let n := s.freeCtr
  let olds := ls.map (bramLane x m)
  let we (i : Nat) : Bool := if a.width % 9 = 0 then a.we.getLsbD i else a.we.getLsbD 0
  let news := ls.zipIdx.map (fun e =>
    let old := bramLane x m e.1
    if we e.2 then bramPut a.width a.addr e.2 old a.din else old)
  let stored := ls.zipIdx.map (fun e =>
    let v := news.getD e.2 0
    match clashOf a.clash e.1 with
    | some w => if we e.2 then pick (n + e.2) v w else v
    | none => v)
  let seen := ls.zipIdx.map (fun e =>
    let old := olds.getD e.2 0
    match clashOf a.clash e.1 with | some w => pick (n + 8 + e.2) old w | none => old)
  let anyWe := (List.range ls.length).any we
  let y := if anyWe then (ls.zipIdx.filter (fun e => we e.2)).foldl (fun x e => setBram x m e.1 (stored.getD e.2 0)) x else x
  let k := 2 * m.val + (if portB then 1 else 0)
  let w := bramPhys m (ls.headD 0)
  let bad := ecc == .uncorrectable || mget false x.bramUe w
  let whole := a.width = 72 && (List.range 8).all we
  let y := { showLatched y k with bramUe := mset false y.bramUe w (bad && !whole),
                                  dclk := mset 0 y.dclk k (1 + 2 * a.tree.val + (if a.oreg then 1 else 0)) }
  let shown : Option (BitVec 72) :=
    if !anyWe then some (bramWord a.width a.addr seen)
    else if a.wmode = 0 then some (bramWord a.width a.addr news)
    else if a.wmode = 1 then some (bramWord a.width a.addr seen)
    else none
  let z := match shown with
    | some v => showWord y k a.oreg v bad
    | none => y
  let s := { setRegion s r z with freeCtr := n + 16 }
  let mem := 64 * r.n.val + m.val
  if bad then logEvent s 0x0004 r.die 0xFFF 2 mem
  else if ecc == .corrected then logEvent s 0x0003 r.die 0xFFF 1 mem else s

/-! ### User PLLs (R243) -/

/-- R243, R272: a write that PLL_ERR reports. -/
def pllBad (old v : Word) : Bool :=
  bits v 61 56 < 20 || 40 < bits v 61 56 || bits v 55 48 < 4 || 128 < bits v 55 48
  || (bit old 63 && bits old 62 48 != bits v 62 48)

/-- A write to LR_PLLu: clearing EN takes LOCK with it. -/
def writePll (s : State) (d : Fin 4) (u : Nat) (v : Word) : State :=
  let a := lrPllAt d u
  if pllBad (rd s a) v then setFlag s a 45 true
  else
    let s := plainWrite s .lrPll a v
    if bit v 63 then s else setFlag s a 47 false

/-- LR_PLL_WRITE (R243). -/
def execLrPllWrite (d : Fin 4) (u : Fin 4) (v : Word) (s : State) : Out := whenRunning s fun s => writePll s d u v

/-- PLL_LOCK (R243). -/
def execPllLock (d : Fin 4) (u : Fin 4) (s : State) : Out := whenRunning s fun s =>
  if flag s (lrPllAt d u) 63 then setFlag s (lrPllAt d u) 47 true else s

/-- LOCKLOST (R243). -/
def execLocklost (d : Fin 4) (u : Fin 4) (s : State) : Out := whenRunning s fun s =>
  let a := lrPllAt d u
  if flag s a 63 && flag s a 47 then logEvent (setFlag (setFlag s a 47 false) a 46 true) 0x0034 d u 2 1 else s

/-! ### Regional trees (R244-R247) -/

/-- A write to LR_CLKk: a new SEL starts a switch; clearing EN ends a stop for overspeed. -/
def writeLrClk (s : State) (r : RegionId) (k : Nat) (v : Word) : State :=
  let a := lrClkAt r.die r.n k
  let sel := fld s a 62 60
  let s := plainWrite s .lrClk a v
  let s := if bit v 63 then s else modRegion s r (fun x => { x with stopped := mset false x.stopped k false })
  if bits v 62 60 = sel then s else setFlag s a 51 true

/-- LR_CLK as it stands with its W1C bits 0. -/
def clkWord (s : State) (r : RegionId) (k : Nat) : Word := setBits (rd s (lrClkAt r.die r.n k)) 50 49 0

/-- CLOCK_SELECT (R245). -/
def execClockSelect (r : RegionId) (k : Fin 8) (v : Word) (s : State) : Out := whenRunning s fun s =>
  writeLrClk s r k (setBits (clkWord s r k) 62 60 (bits v 62 60))

/-- CLOCK_SWITCH_DONE (R245). -/
def execClockSwitchDone (r : RegionId) (k : Fin 8) (s : State) : Out := whenRunning s fun s =>
  setFlag s (lrClkAt r.die r.n k) 51 false

/-- FORCED (R245). -/
def execForced (r : RegionId) (k : Fin 8) (s : State) : Out := whenRunning s fun s =>
  let a := lrClkAt r.die r.n k
  if flag s a 51 then setFlag (setFlag s a 51 false) a 49 true else s

/-- CLOCK_DIVIDE (R246). -/
def execClockDivide (r : RegionId) (k : Fin 8) (v : Word) (s : State) : Out := whenRunning s fun s =>
  writeLrClk s r k (setBits (clkWord s r k) 59 52 (bits v 59 52))

/-- CLOCK_ENABLE (R247). -/
def execClockEnable (r : RegionId) (k : Fin 8) (s : State) : Out := whenRunning s fun s =>
  writeLrClk s r k (setBit (clkWord s r k) 63 true)

/-- CLOCK_DISABLE (R247). -/
def execClockDisable (r : RegionId) (k : Fin 8) (s : State) : Out := whenRunning s fun s =>
  writeLrClk s r k (setBit (clkWord s r k) 63 false)

/-- OVERSPEED: a tree that counts more than 1,020 rising edges in 1 µs stops (R247). -/
def execOverspeed (r : RegionId) (k : Fin 8) (edges : Nat) (s : State) : Out := whenRunning s fun s =>
  if 1020 < edges && treeRuns s r k then
    let s := modRegion s r (fun x => { x with stopped := mset false x.stopped k true })
    logEvent (setFlag s (lrClkAt r.die r.n k) 50 true) 0x0034 r.die (0x100 + 8 * r.n.val + k.val) 2 2
  else s

/-! ### User pins (R266-R270) -/

/-- R266: VMATCH follows the supply measured last and VSEL; a disagreement raises an event. -/
def bankCheck (s : State) (d : Fin 4) : State :=
  match mget none s.supply d with
  | none => s
  | some v =>
    let a := ioBankAt d
    let ok := flag s a 62 == v
    let s := setFlag s a 61 ok
    if ok then s else logEvent s 0x0035 d d 2 0

/-- IO_BANK: the supply is measured (R266). -/
def execIoBank (d : Fin 4) (supply18 : Bool) (s : State) : Out := whenRunning s fun s =>
  bankCheck { s with supply := mset none s.supply d (some supply18) } d

/-- IO_BANK_LOCK (R270). -/
def execIoBankLock (d : Fin 4) (s : State) : Out := whenRunning s fun s => setFlag s (ioBankAt d) 63 true

/-- A write to IO_BANK: LOCK locks VSEL; a new VSEL is compared with the supply (R266, R270). -/
def writeIoBank (s : State) (d : Fin 4) (v : Word) : State :=
  let a := ioBankAt d
  let old := flag s a 62
  let s := wr s a (maskWrite (regInfo .ioBank) (flag s a 63) (rd s a) v)
  if flag s a 62 == old then s else bankCheck s d

/-- A write to IO_PINp: DIR = 3 on a pin other than 0 and 12 is ignored; LOCK of the bank locks PARK (R267, R270). -/
def writeIoPin (s : State) (d : Fin 4) (p : Nat) (v : Word) : State :=
  let a := ioPinAt d p
  if bits v 63 62 = 3 ∧ p ≠ 0 ∧ p ≠ 12 then s
  else wr s a (maskWrite (regInfo .ioPin) (flag s (ioBankAt d) 63) (rd s a) v)

/-! ### What a pin does (R266-R270) -/

def ioKey (d : Fin 4) (p : Nat) : Nat := 32 * d.val + p
def getPin (s : State) (d : Fin 4) (p : Nat) : IoPin := mget {} s.iopins (ioKey d p)
def setPin (s : State) (d : Fin 4) (p : Nat) (x : IoPin) : State := { s with iopins := mset {} s.iopins (ioKey d p) x }

/-- R267: a pin that is not parked drives its level: an output, or a bidirectional pin whose enable is 1. -/
def pinDrives (s : State) (d : Fin 4) (p : Nat) : Bool :=
  fld s (ioPinAt d p) 63 62 == 1 || (fld s (ioPinAt d p) 63 62 == 2 && (getPin s d p).oe)

/-- R270, R290: the pin is in its park state: parked by its region or bank, or by a freeze while 0xF011.04 is 1. -/
def pinHeld (s : State) (d : Fin 4) (p : Nat) : Bool := pinParked s d p || (amberState s != 0 && objN s 0xF011 4 == 1)

/-- The level that the device drives on a pin; none: high impedance (R267, R270). -/
def pinDriven (s : State) (d : Fin 4) (p : Nat) : Option Bool :=
  if pinHeld s d p then
    (match fld s (ioPinAt d p) 35 34 with | 2 => some false | 3 => some true | _ => none)
  else if pinDrives s d p then some (getPin s d p).out
  else none

/-- The level at a pin: what the device drives, else what stands outside (log 25). -/
def pinLevel (s : State) (d : Fin 4) (p : Nat) : Bool :=
  (pinDriven s d p).getD (Config.pinLevel d p (nowNs s d))

/-- R267, R268: the output and enable registers take D0, D1 and OE at a rising edge of the pin's tree, and D0 is presented; with
DDR = 1, D1 is presented after the falling edge. -/
def pinOutEdge (x : IoPin) (rise fall ddr d0 d1 oe : Bool) : IoPin :=
  let x := if rise then { x with d0, d1, oe, out := d0 } else x
  if fall && ddr then { x with out := x.d1 } else x

/-- R267, R268: the input register captures the level at a rising edge; with DDR = 1 also at a falling edge, and Q0 and Q1 take
the values of the latest pair at the next rising edge. -/
def pinInEdge (x : IoPin) (rise fall ddr level : Bool) : IoPin :=
  if !ddr then (if rise then { x with rise := level, q0 := level } else x)
  else
    let x := if rise then { x with q0 := x.rise, q1 := x.fall, rise := level } else x
    if fall then { x with fall := level } else x

/-- IO_DELAY_STEP: a delay moves one tap towards its field (R269). -/
def execIoDelayStep (d : Fin 4) (pin : Fin 24) (output : Bool) (s : State) : Out := whenRunning s fun s =>
  let k := 64 * d.val + 2 * pin.val + (if output then 1 else 0)
  let want := if output then fld s (ioPinAt d pin) 48 42 else fld s (ioPinAt d pin) 55 49
  let now := mget 0 s.taps k
  { s with taps := mset 0 s.taps k (if now < want then now + 1 else if want < now then now - 1 else now) }

end Sys2Proof.Machine
end

