-- ==== Sys2Proof/Machine/NocCore.lean ====
section
/-! DEFINITION. What ends a tag without its response, and the fence handshake of endpoints (R311-R313). -/

namespace Sys2Proof.Machine
open Sys2Proof

/-- R223: a signal ends with the status of its response. -/
def signalEnded (s : State) (t : TileId) (q id : Nat) (e : Status) : State := unitEnded s t q 4 id { status := e }

/-- The program of a queue is held (R226). -/
def isHeld (s : State) (t : TileId) (q : Nat) : Bool := match getRun (getTile s t) q with | some l => l.held | none => false

/-! ### The mailbox (R462, R463) -/

def mbCtl (c : Nat) : Nat := mbAt c 8
def setMbox (s : State) (c : Nat) (m : MbMsg) : State := { s with mgmt := { s.mgmt with mbox := mput s.mgmt.mbox c m } }
/-- BUSY falls with a STATUS and an RLEN, and VECTOR is raised. -/
def mbEnd (s : State) (c : Nat) (e : Status) (rlen : Nat) : State :=
  let s := { s with mgmt := { s.mgmt with mbox := s.mgmt.mbox.filter (fun x => x.1 != c) } }
  let s := setFld (setFld (setFlag s (mbCtl c) 62 false) (mbCtl c) 31 24 e) (mbCtl c) 46 32 rlen
  raiseIrq s 8 (fld s (mbCtl c) 23 14)
/-- The node of a channel's cores: the wardens' for channel 0, the host cores' for channel 1 (R297, R462). -/
def mbNode (c : Nat) : BitVec 12 := nodeOf 8 (if c = 0 then 3 else 2)
def mbInitiator (c : Nat) : Initiator := if c = 0 then .warden else .host
/-- A piece of the channel's message is on its way. -/
def mbWaits (s : State) (c : Fin 2) : Bool := (tagsOf s (mbNode c).toNat).any (fun x => x.2.use == some (.mailbox c))

/-- A module carries the mailbox (R462). -/
def mbCarried (s : State) : Bool := bridgeUp s 0 8 || bridgeUp s 1 8

/-- The next MGMT packet of a message, of up to 256 bytes (R300), is read from the buffer and sent; one that no module carries is
lost. A message goes one packet at a time (log 104). -/
def mbSend (s : State) (c : Fin 2) (m : MbMsg) : State :=
  let n := min 256 (m.len - m.sent); let a := m.addr + m.sent; let node := (mbNode c).toNat
  let e := rangeRefusal s (mbInitiator c) a n
  if e ≠ 0 then mbEnd s c e 0
  else if !hbmFree s a n then s
  else match firstFree s node 1024 with
    | none => s
    | some tag =>
      let r := hbmRead s a n
      let p : Packet := { op := 0x60, vc := 3, nflit := BitVec.ofNat 3 (cdiv n 64), len := n, poison := BitVec.ofNat 4 r.2.2, src := mbNode c,
                          dest := nodeOf 4 3, tag := BitVec.ofNat 10 tag, gen := (getTag s node tag).gen, data := r.2.1 }
      let s := setMbox (holdTag r.1 node tag (.mailbox c)) c { m with sent := m.sent + n }
      if mbCarried s then sendPkt s p else s
/-- The response is written over the request's buffer, then the exchange ends. -/
def mbStore (s : State) (c : Fin 2) (m : MbMsg) (d : List Byte) (e : Status) : State :=
  let x := rangeRefusal s (mbInitiator c) m.addr d.length
  if x ≠ 0 then mbEnd s c x 0
  else if hbmFree s m.addr d.length then mbEnd (hbmWrite s m.addr d (fun _ => false)) c e d.length
  else s
/-- A channel goes on: its response is written, or its next packet is sent, once HBM serves it. -/
def mbPump (s : State) (c : Fin 2) : State :=
  match mfind s.mgmt.mbox c with
  | none => s
  | some m =>
    match m.reply with
    | some (d, e) => mbStore s c m d e
    | none => if m.sent < m.len && !mbWaits s c then mbSend s c m else s

/-- R26, R311: a request completes at its initiator with a status and no data. -/
def completeTag (s : State) (u : TagUse) (e : Status) : State :=
  match u with
  | .stream .. => streamAnswered s { op := 0x81, status := BitVec.ofNat 8 e } u
  | .signal t q id => signalEnded s t q id e
  | .qc d q => qcAnswered s d q e
  | .endpoint _ => s
  | .pcie => { s with pcieOut := s.pcieOut ++ [.completion e []] }
  | .mailbox c => mbEnd s c e 0
  | .other => s

/-- R313 (ABANDON): the generation of every outstanding tag advances and the tags are free at once; what they were held
for ends, a signal of a held program without entering its fold (log 23). -/
def abandonNode (s : State) (node : Nat) : State :=
  (tagsOf s node).foldl (fun s x =>
    let s := expireTag s node x.1
    match x.2.use with
    | some (.signal t q id) => signalEnded (if isHeld s t q then noFold s t q 4 id else s) t q id stNocFenced
    | some u => completeTag s u stNocFenced
    | none => s) s

/-- R297: the endpoint exists on this part. -/
def epPresent (p : Part) (e : Nat) : Bool :=
  e < 118 + 8 * p.positions || (142 ≤ e && e ≤ 147 && (e != 145 || p.shales == 4))

def setFstate (s : State) (d ep v : Nat) : State := setFld s (nocEpAt d ep) 55 54 v
/-- The endpoint's fence is an ABANDON (R313). -/
def abandoning (s : State) (d ep : Nat) : Bool := mget false s.noc.abandoned (256 * d + ep)
def setAbandon (s : State) (d ep : Nat) (b : Bool) : State :=
  { s with noc := { s.noc with abandoned := mset false s.noc.abandoned (256 * d + ep) b } }

/-- R313: a fence is requested: DRAIN only from open; ABANDON from open or during a DRAIN, freeing the tags at once. Every
other fence command in the fencing state is ignored. -/
def fenceStart (s : State) (d ep : Nat) (abandon : Bool) : State :=
  let st := fstate s d ep
  if st = 2 then s
  else if abandon then
    (if st = 1 && abandoning s d ep then s else abandonNode (setAbandon (setFstate s d ep 1) d ep true) (d * 256 + ep))
  else if st = 0 then setFstate (setAbandon s d ep false) d ep 1
  else s

/-- R313 step 3: the endpoint has served every request that it accepted: the writes that its tile holds, and the requests in
its memory port's queue or, accepted there, in the queues of the channels behind it. -/
def epServed (s : State) (d ep : Nat) : Bool :=
  (match tileOfEp s d ep with
   | some t => (getTile s t).heldKm.isEmpty && !(getTile s t).heldAcc.any (fun h => h.2.2.isSome)
   | none => true)
  && (!(118 ≤ ep && ep < 142) || (mget [] s.hbm.ports (32 * d + (ep - 118))).isEmpty)
  && !s.hbm.pcs.any (fun e => e.2.queue.any (fun q => q.p.dest == nodeOf d ep))

/-- R313: the endpoint sends FENCE_DONE, once it has served what it accepted and no request of it is outstanding (to whom:
log 94). -/
def fenceFinish (s : State) (d ep : Nat) : State :=
  if fstate s d ep = 1 && (tagsOf s (d * 256 + ep)).isEmpty && epServed s d ep then
    sendPkt (setFstate s d ep 2) { op := 0x62, vc := 3, src := nodeOf d ep, dest := csrNode d }
  else s

/-- The endpoint's part has power (R313, R496): tiles that serve no logical tile have none. -/
def epPowered (s : State) (d ep : Nat) : Bool :=
  if ep < 102 then (getPhys s d ep).status == 0 || (getPhys s d ep).status == 3 else true

/-- R313: an unfence, accepted in the fenced state of a powered endpoint; a region's endpoint opens only when the region
is released (R271). -/
def unfenceEp (s : State) (d ep : Nat) : State :=
  let live := if 102 ≤ ep && ep < 118 then
      fld s (cfgAt d (ep - 102) 8) 63 60 == 3 || fld s (cfgAt d (ep - 102) 8) 63 60 == 4
    else true
  if fstate s d ep = 2 && epPowered s d ep && live then setFstate s d ep 0 else s

/-- R301: a request packet, which receives a response. -/
def isRequest (p : Packet) : Bool := p.op.toNat < 0x80 && p.vc != 1 && p.vc != 3
/-- FSTATE of the Basalt endpoint a packet is for; endpoints of other dies have no fence (R315). -/
def destFence (s : State) (p : Packet) : Nat := if nodeDie p.dest < 4 then fstate s (nodeDie p.dest) (nodeEp p.dest) else 0
/-- R313: what the attaching router does with a packet for a fenced endpoint: a request is answered NOC_FENCED, another
packet is discarded once the endpoint is fenced; else the endpoint takes it. A packet that has not come there yet waits. -/
def throughFence (s : State) (p : Packet) (f : State → State) : State :=
  if !arrived s p then s
  else if isRequest p && destFence s p != 0 then answer s p stNocFenced
  else if destFence s p = 2 then takePkt s p
  else f s

/-- NOC_EP's command field (R315); an endpoint that the part does not fit takes no command (R5, R297). -/
def writeNocEp (s : State) (d ep : Nat) (v : Word) : State :=
  if !epPresent s.part ep then s else
  match bits v 53 52 with
  | 1 => fenceStart s d ep false
  | 2 => fenceStart s d ep true
  | 3 => unfenceEp s d ep
  | _ => s

end Sys2Proof.Machine
end

