-- ==== Sys2Proof/Machine/Cfg.lean ====
section
/-! DEFINITION. Configuration of the logic regions: commands, the load stream and its checks, release, withdrawal, scrub
and the configuration-port windows (R273-R287). -/

namespace Sys2Proof.Machine
open Sys2Proof

/-! ### Configuration memory (R277, R278, R285) -/

/-- Bit b of the concatenated payloads of parts 4-7 of a cluster in the null design: every select is 1,152, constant 0
(R273, R278). -/
def nullSelBit (b : Nat) : Bool := b < 26752 && (b % 11 == 7 || b % 11 == 10)

/-- R273: the byte of the null design at a place of configuration memory. -/
def nullByte (k : Nat) : Byte :=
  let f := k / 1024; let o := k % 1024
  if f = 0 then 0
  else if f < 1601 then
    let p := (f - 1) % 8
    if p < 4 then 0
    else BitVec.ofNat 8 ((List.range 8).foldl (fun n i => if nullSelBit (8 * (1024 * (p - 4) + o) + i) then n + 2 ^ i else n) 0)
  else if f < 1729 then (if o % 2 = 0 then 0xFE else 0xFF)
  else if o < 512 then (if o % 2 = 0 then 0xFE else 0xFF) else 0

/-- A byte of configuration memory. -/
def cfgByte (x : Region) (k : Nat) : Byte := mget (nullByte k) x.cfg k
def setCfgByte (m : SMap Byte) (k : Nat) (b : Byte) : SMap Byte := mset (nullByte k) m k b

/-- Store a frame's payload. -/
def putFrame (m : SMap Byte) (f : Nat) (d : List Byte) : SMap Byte :=
  d.zipIdx.foldl (fun m e => setCfgByte m (1024 * f + e.2) e.1) m

/-- R278: bit j of lane l of a block memory lies at bit 9 l + j of its contents; part p holds 8,192 bits. -/
def putBram (b : SMap (BitVec 9)) (m p : Nat) (d : List Byte) : SMap (BitVec 9) :=
  (List.range 8192).foldl (fun b i =>
    if (d.getD (i / 8) 0).getLsbD (i % 8) then
      let g := 8192 * p + i
      let k := 8192 * m + g / 9
      mset 0 b k (mget 0 b k ||| BitVec.ofNat 9 (2 ^ (g % 9)))
    else b) b

/-! ### Commands (R273, R274) -/

/-- R273: a command that is not accepted. -/
def cfgRefuse (s : State) (r : RegionId) : State := setCfgStatus s r stCfgState

/-- The thirty-two queue controllers of a region. -/
def regQcs (r : RegionId) : List (Fin 512) := (List.finRange 512).filter (fun q => q.val / 32 == r.n.val)

/-- R274, R275: what holds user logic that is not released: reset nets asserted, so every flip-flop has its initial value, and
clock enables low; R248, R282: both end three edges after release. -/
def holdLogic (x : Region) : Region :=
  { x with ffs := [], trunkFf := [], rstLeft := (List.range 4).map (fun k => (k, 3)), ceLeft := (List.range 8).map (fun k => (k, 3)),
           movedAt := [], dlat := [], dclk := [] }

/-- R274: a region is withdrawn. Its trees, pins and trunk outputs follow from its state: `treeRuns`, `pinParked`, `wire`. -/
def withdraw (s : State) (r : RegionId) : State :=
  let s := modRegion s r holdLogic
  let s := (regQcs r).foldl (fun s (q : Fin 512) => if qcOn s r.die q then qcOff s r.die q else s) s
  fenceStart s r.die (102 + r.n.val) true

/-- R274: withdrawn only from RELEASED and HALTED. -/
def withdrawLive (s : State) (r : RegionId) : State := if regionLive s r then withdraw s r else s

/-- A command has been taken: BUSY until its work is done. -/
def cfgBusy (s : State) (r : RegionId) (code state : Nat) : State :=
  setBusy (setRegState (setCfgStatus (modRegion s r (fun x => { x with busy := code })) r stOk) r state) r true

/-- The command's work is done. -/
def cfgIdle (s : State) (r : RegionId) : State := setBusy (modRegion s r (fun x => { x with busy := 0 })) r false

/-- R273, R274: withdraw and clear to the null design. -/
def cfgWipe (s : State) (r : RegionId) (code state : Nat) : State :=
  let s := withdrawLive s r
  let s := modRegion s r (fun x =>
    { holdLogic x with cfg := [], bram := [], bramUe := [], dout := [], derr := [], load := [], header := none, seen := [],
                       frames := [], fetching := 0, hardWords := [] })
  setFld (cfgBusy s r code state) (cfgReg r 8) 50 39 0

/-- BEGIN (R273, R274): refused in LOADING, but for a region that is BUSY, whose work it stops (DEDUCED, log 24). -/
def doBegin (s : State) (r : RegionId) : State := if regState s r = 1 ∧ regBusy s r = false then cfgRefuse s r else cfgWipe s r 1 1
/-- CLEAR (R273, R274). -/
def doClear (s : State) (r : RegionId) : State := cfgWipe s r 7 0

def execCfgBegin (r : RegionId) (s : State) : Out := whenRunning s fun s => doBegin s r
def execCfgClear (r : RegionId) (s : State) : Out := whenRunning s fun s => doClear s r

/-- CFG_CLEAR_DONE (R284). -/
def execCfgClearDone (r : RegionId) (s : State) : Out := whenRunning s fun s =>
  let b := (getRegion s r).busy
  if b = 1 ∨ b = 7 then cfgIdle s r else s

/-- The bytes of a FETCH in progress join the load stream as stored, once their pseudo-channels serve them (R273, R323). -/
def fetchMore (s : State) (r : RegionId) : State :=
  let x := getRegion s r; let a := fld s (cfgReg r 0x10) 47 0; let n := x.fetching
  if x.busy ≠ 2 ∨ n = 0 ∨ !hbmFree s a n then s else
  let q := hbmRead s a n
  modRegion q.1 r (fun x => { x with load := x.load ++ q.2.1, fetching := 0 })

/-- FETCH (R273): LEN bytes from user HBM join the load stream; a range outside user HBM, or that its memory ports refuse,
delivers nothing and its status is shown (log 24). The load engine is no warden: before LOCK it is refused (R322). -/
def doFetch (s : State) (r : RegionId) : State :=
  let a := fld s (cfgReg r 0x10) 47 0; let n := fld s (cfgReg r 0x18) 31 0
  if regState s r ≠ 1 ∨ regBusy s r then cfgRefuse s r
  else if userEnd s.part < a + n then setCfgStatus s r stNocDenied
  else
    let e := rangeRefusal s .region a n
    if e ≠ 0 then setCfgStatus s r e
    else fetchMore (cfgBusy (modRegion s r (fun x => { x with fetching := n })) r 2 1) r

def execCfgFetch (r : RegionId) (s : State) : Out := whenRunning s fun s => doFetch s r

/-- LOAD_PORT_WRITE (R284, R285): taken in LOADING while the region is not busy. -/
def loadPort (s : State) (r : RegionId) (d : List Byte) : State :=
  if regState s r ≠ 1 ∨ regBusy s r then cfgRefuse s r
  else modRegion s r (fun x => { x with load := x.load ++ d })

def execLoadPortWrite (r : RegionId) (data : List Byte) (s : State) : Out := whenRunning s fun s => loadPort s r data

/-! ### The load checks (R276-R281) -/

/-- Bytes a..b of a list as a number. -/
def numOf (d : List Byte) (a n : Nat) : Nat := leNat ((d.drop a).take n)
def zeros (d : List Byte) (a n : Nat) : Bool := ((d.drop a).take n).all (· == 0)

/-- R276: a legal header. -/
def parseHeader (d : List Byte) : Option BitHeader :=
  if numOf d 0 4 = 0x4C5A4342 ∧ numOf d 4 2 = 1 ∧ zeros d 6 2 ∧ 1730 ≤ numOf d 8 4 ∧ numOf d 8 4 ≤ 2306 ∧ zeros d 80 16
      ∧ zeros d 3469 51 then
    some { frames := numOf d 8 4, crc := numOf d 12 4, digest := (d.drop 16).take 64 }
  else none

/-- R277: the linear number of a frame by TYPE and INDEX. -/
def linearOf (ty ix : Nat) : Option Nat :=
  if ty = 0 then (if ix = 0 then some 0 else none)
  else if ty = 1 then (if ix < 1600 then some (1 + ix) else none)
  else if ty = 2 then (if ix < 128 then some (1601 + ix) else none)
  else if ty = 3 then (if ix = 0 then some 1729 else none)
  else if ty = 4 then (if ix < 576 then some (1730 + ix) else none)
  else none

/-- The linear number that a frame's word 0 names. -/
def frameLinear (d : List Byte) : Option Nat :=
  let w := BitVec.ofNat 64 (numOf d 0 8)
  linearOf (bits w 55 52) (bits w 51 40)

/-- R277, R278: the RSVD fields of a payload are 0. -/
def payloadRsvd (f : Nat) (p : List Byte) : Bool :=
  if f = 0 then
    (List.range 8).all (fun k => numOf p (8 * k) 8 % 2 ^ 52 == 0)
    && (List.range 4).all (fun k => numOf p (64 + 4 * k) 4 / 2 ^ 21 % 2 ^ 10 == 0) && zeros p 150 874
  else if f < 1601 then
    let q := (f - 1) % 8
    if q < 4 then (List.range 64).all (fun c => zeros p (16 * c + 11) 5 && (p.getD (16 * c + 10) 0).toNat / 4 == 0
      && (q == 0 && c == 0 || p.getD (16 * c + 10) 0 == 0))
    else if q = 7 then numOf p 272 752 == 0
    else true
  else if f = 1729 then zeros p 512 512
  else true

/-- R277, R280 (2): MARK, TYPE, INDEX and RSVD fields, and no repeat. -/
def frameLegal (x : Region) (d : List Byte) : Bool :=
  let w := BitVec.ofNat 64 (numOf d 0 8)
  match frameLinear d with
  | none => false
  | some f => bits w 63 56 == 0xC5 && bits w 39 0 == 0 && zeros d 8 8 && zeros d 1044 4 && !x.seen.contains f
      && payloadRsvd f ((d.drop 16).take 1024)

/-- R281: a cluster select: input codes 0-1,153; a region output takes no region input. -/
def clusterSelOk (i code : Nat) : Bool := if i < 2304 then code ≤ 1153 else code < 1024 || code == 1152 || code == 1153

/-- R278, R281: the selects of a cluster's parts 4-7 that lie in this part, or reach into it from a part that has been
taken. -/
def clusterOk (x : Region) (f q : Nat) (p : List Byte) : Bool :=
  let base := f - q
  let held (k : Nat) : Bool := k == q || x.seen.contains (base + k)
  let byte (o : Nat) : Byte := let k := o / 1024 + 4; if k = q then p.getD (o % 1024) 0 else cfgByte x (1024 * (base + k) + o % 1024)
  let bitAt (b : Nat) : Bool := (byte (b / 8)).getLsbD (b % 8)
  let lo := 8192 * (q - 4); let hi := lo + 8192
  (List.range 2432).all (fun i =>
    let a := 11 * i; let z := a + 10
    if z < lo || hi ≤ a then true
    else if !(held (a / 8192 + 4) && held (z / 8192 + 4)) then true
    else clusterSelOk i ((List.range 11).foldl (fun n j => if bitAt (a + j) then n + 2 ^ j else n) 0))

/-- R266, R281: the region has pins. -/
def hasPins (r : RegionId) : Bool := 12 ≤ r.n.val

/-- R279, R281: a region crossbar select. -/
def xbarOk (r : RegionId) (x code : Nat) : Bool :=
  if 42194 ≤ x then code == 65534
  else if 42176 ≤ x && !hasPins r then code == 65534
  else if 41664 ≤ x && x < 42176 && 70 ≤ (x - 41664) % 128 then code == 65534
  else code < 40000 || (code < 40012 && hasPins r) || code == 65534 || code == 65535

/-- R281: the structural check of a frame's payload. -/
def structOk (x : Region) (r : RegionId) (f : Nat) (p : List Byte) : Bool :=
  if f = 0 then (List.range 4).all (fun k =>
    let w := BitVec.ofNat 64 (numOf p (64 + 4 * k) 4)
    !bit w 31 || (bits w 15 8 ≤ 199 && bits w 17 16 ≤ 2))
  else if f < 1601 then
    let q := (f - 1) % 8
    if q = 0 then (p.getD 10 0).toNat % 4 != 3
    else if q < 4 then true
    else clusterOk x f q p
  else if f < 1729 then (List.range 512).all (fun k => xbarOk r (512 * (f - 1601) + k) (numOf p (2 * k) 2))
  else if f = 1729 then (List.range 256).all (fun k => numOf p (2 * k) 2 < 4096 || numOf p (2 * k) 2 == 0xFFFE)
  else true

/-- R280: the load ends FAILED with a status and the frame's number, and an event. -/
def loadFail (s : State) (r : RegionId) (e : Status) (bad : Nat) : State :=
  let s := cfgIdle (setRegState (setCfgStatus s r e) r 5) r
  let s := setFld s (cfgReg r 8) 38 27 bad
  logEvent s 0x0033 r.die r.n 1 (bad % 4096 * 256 + e)

/-- A value for BADFRAME that the spec leaves open (log 10). -/
def drawBad (s : State) : State × Nat := ({ s with freeCtr := s.freeCtr + 1 }, (Config.free s.freeCtr).toNat % 4096)

/-- R280: one frame, taken whole. A frame whose word 0 names no frame leaves BADFRAME open. -/
def takeFrame (s : State) (r : RegionId) (d : List Byte) : State :=
  let x := getRegion s r
  let fail (s : State) (e : Status) : State := match frameLinear d with
    | some f => loadFail s r e f
    | none => let b := drawBad s; loadFail b.1 r e b.2
  let p := (d.drop 16).take 1024
  if numOf d 1040 4 ≠ crc32c 0 (d.take 1040) then fail s stCfgCrc
  else if !frameLegal x d then fail s stCfgFrame
  else
    match frameLinear d with
    | none => fail s stCfgFrame
    | some f =>
      if !structOk x r f p then fail s stCfgSelect
      else
        let y := { x with seen := f :: x.seen, frames := x.frames ++ d }
        let y := if f < 1730 then { y with cfg := putFrame y.cfg f p }
          else { y with bram := putBram y.bram ((f - 1730) / 9) ((f - 1730) % 9) p }
        incFld (setRegion s r y) (cfgReg r 8) 50 39

/-- Bytes that the next item of the load stream takes: the header, then frames (R276). -/
def loadNeed (x : Region) : Nat := if x.header.isNone then 3520 else 1048
/-- A whole item waits in the load stream. -/
def loadReady (x : Region) : Bool := loadNeed x ≤ x.load.length

/-- The header or the next frame of the load stream is taken and checked (R280). -/
def takeItem (s : State) (r : RegionId) : State :=
  let x := getRegion s r
  if regState s r ≠ 1 ∨ !loadReady x ∨ (regBusy s r ∧ x.busy ≠ 2) then s else
  let d := x.load.take (loadNeed x)
  let s := setRegion s r { x with load := x.load.drop (loadNeed x) }
  if x.header.isNone then
    match parseHeader d with
    | some h => modRegion s r (fun x => { x with header := some h })
    | none => loadFail s r stCfgFrame (fld s (cfgReg r 8) 38 27)
  else takeFrame s r d

/-- CFG_FRAME: the next item of the load stream (R280). -/
def execCfgFrame (r : RegionId) (s : State) : Out := whenRunning s fun s => takeItem (fetchMore s r) r

/-- R280: every frame is checked as it arrives: what has arrived is taken, up to `n` items. -/
def takeItems (r : RegionId) : Nat → State → State
  | 0, s => s
  | n + 1, s => if loadReady (getRegion s r) && regState s r == 1 then takeItems r n (takeItem s r) else s

/-- The whole items that the load stream can hold. -/
def itemsDue (s : State) (r : RegionId) : Nat := (getRegion s r).load.length / 1048 + 1

/-- CFG_FETCH_DONE: all bytes delivered and every whole frame taken (R284). -/
def execCfgFetchDone (r : RegionId) (s : State) : Out := whenRunning s fun s =>
  let s := fetchMore s r
  if (getRegion s r).busy ≠ 2 ∨ (getRegion s r).fetching ≠ 0 then s else
  let s := takeItems r (itemsDue s r) s
  if (getRegion s r).busy = 2 then cfgIdle s r else s

/-- COMMIT (R280): what has arrived is taken first; then frame count, digest, and the read-back. -/
def doCommit (s : State) (r : RegionId) : State :=
  if regState s r ≠ 1 ∨ regBusy s r then cfgRefuse s r else
  let s := takeItems r (itemsDue s r) s
  let x := getRegion s r
  if regState s r ≠ 1 then cfgRefuse s r
  else
    let bad := fld s (cfgReg r 8) 38 27
    match x.header with
    | none => loadFail s r stCfgFrame bad
    | some h =>
      if x.seen.length ≠ h.frames || (x.seen.filter (· < 1730)).length ≠ 1730 then loadFail s r stCfgFrame bad
      else if leBytes 64 (Config.sha512 x.frames).toNat ≠ h.digest then loadFail s r stAuthFail bad
      else cfgBusy s r 3 1

def execCfgCommit (r : RegionId) (s : State) : Out := whenRunning s fun s => doCommit s r

/-- R276, R280 (3): the check value of configuration memory. -/
def regionCrc (x : Region) : Nat := crc32c 0 ((List.range (1730 * 1024)).map (cfgByte x))

/-- COMMIT_READBACK_DONE (R280). -/
def execCommitReadbackDone (r : RegionId) (s : State) : Out := whenRunning s fun s =>
  let x := getRegion s r
  if x.busy ≠ 3 then s else
  if (x.header.map (·.crc)) = some (regionCrc x) then cfgIdle (setRegState s r 2) r
  else loadFail s r stCfgCrc (fld s (cfgReg r 8) 38 27)

/-! ### Release, halt, resume (R273, R282) -/

/-- R282 (1): a tree takes its CONTROL values. -/
def loadTree (r : RegionId) (s : State) (k : Nat) : State :=
  let x := getRegion s r
  let w := BitVec.ofNat 64 (leNat ((List.range 8).map (fun i => cfgByte x (8 * k + i))))
  let a := lrClkAt r.die r.n k
  wr s a (setBits (setBits (rd s a) 63 52 (bits w 63 52)) 51 51 0)

/-- Byte b of the configuration of cell i of cluster c (R278). -/
def cellByte (x : Region) (c i b : Nat) : Byte := cfgByte x (1024 * (1 + 8 * c + i / 64) + 16 * (i % 64) + b)

/-- R235, R278: the configured initial value of a flip-flop: key 512 × cluster + 2 × cell (+ 1 for QB). -/
def ffInit (x : Region) (k : Nat) : Bool := (cellByte x (k / 512) (k % 512 / 2) 9).getLsbD (4 + k % 2)

/-- A flip-flop's value; while its region is not released that is its initial value (R275). -/
def ffBit (x : Region) (k : Nat) : Bool := mget (ffInit x k) x.ffs k

/-- A flip-flop takes a value at a time. -/
def setFf (x : Region) (now k : Nat) (v : Bool) : Region :=
  if ffBit x k = v then x else { x with ffs := mset (ffInit x k) x.ffs k v, movedAt := mset 0 x.movedAt k now }

/-- The cells that a design uses: those with a configuration byte other than 0, by cluster and cell. Any other cell has a table and
initial values of 0 and captures 0 (R273). -/
def usedCells (x : Region) : List (Nat × Nat) :=
  ((x.cfg.map (·.1)).filter (fun k => 1024 ≤ k && k < 1601 * 1024 && (k / 1024 - 1) % 8 < 4)).map
    (fun k => ((k / 1024 - 1) / 8, 64 * ((k / 1024 - 1) % 8) + k % 1024 / 16)) |>.eraseDups
/-- Their flip-flops, by key. -/
def usedFfs (x : Region) : List Nat := (usedCells x).flatMap (fun e => [512 * e.1 + 2 * e.2, 512 * e.1 + 2 * e.2 + 1])

/-- A configuration cell of a running design was wrong until it was corrected: what the design captured meanwhile is free (R414,
log 25). -/
def upsetFfs (s : State) (r : RegionId) : State :=
  if !regionLive s r then s else
  let n := s.freeCtr
  modRegion { s with freeCtr := n + 1 } r (fun x => (usedFfs x).foldl (fun x k => setFf x (nowNs s r.die) k (Config.loose n k)) x)

/-- RELEASE (R273, R282): (1) trees, (2) controllers, (3) endpoint; (4) pins follow from the state; (5) the hold on the reset nets
ends; (6) three edges later the clock enables are released. -/
def doRelease (s : State) (r : RegionId) : State :=
  if regState s r ≠ 2 ∨ regBusy s r then cfgRefuse s r else
  let s := modRegion s r (fun x => { holdLogic x with stopped := [] })
  let s := (List.range 8).foldl (loadTree r) s
  let s := (regQcs r).foldl (fun s (q : Fin 512) =>
    [0, 8, 0x10, 0x18].foldl (fun s o => wr s (qcAt r.die q o) (resetOf s.part (qcAt r.die q o))) s) s
  setCfgStatus (setRegState (setFstate s r.die (102 + r.n.val) 0) r 3) r stOk

def execCfgRelease (r : RegionId) (s : State) : Out := whenRunning s fun s => doRelease s r

/-- HALT (R273). -/
def doHalt (s : State) (r : RegionId) : State :=
  if regState s r ≠ 3 ∨ regBusy s r then cfgRefuse s r else setCfgStatus (setRegState s r 4) r stOk
/-- RESUME (R273). -/
def doResume (s : State) (r : RegionId) : State :=
  if regState s r ≠ 4 ∨ regBusy s r then cfgRefuse s r else setCfgStatus (setRegState s r 3) r stOk

def execCfgHalt (r : RegionId) (s : State) : Out := whenRunning s fun s => doHalt s r
def execCfgResume (r : RegionId) (s : State) : Out := whenRunning s fun s => doResume s r

/-- A write to CFG_CTL (R273, R287). -/
def writeCfgCtl (s : State) (r : RegionId) (v : Word) : State :=
  match bits v 63 60 with
  | 1 => doBegin s r
  | 2 => doFetch s r
  | 3 => doCommit s r
  | 4 => doRelease s r
  | 5 => doHalt s r
  | 6 => doResume s r
  | 7 => doClear s r
  | _ => s

/-! ### Scrub (R286) -/

/-- R286: an uncorrectable word withdraws the region. -/
def cfgUncorr (s : State) (r : RegionId) (word : Nat) : State :=
  let s := withdrawLive s r
  let s := cfgIdle (setCfgStatus (setRegState s r 5) r stCfgCrc) r
  logEvent (setFlag s (cfgReg r 0x20) 35 true) 0x0031 r.die r.n 2 (8 * word)

/-- A write to CFG_SCRUB: SCRUB_MS outside 2..11 is not taken (R286). -/
def writeCfgScrub (s : State) (r : RegionId) (v : Word) : State :=
  let a := cfgReg r 0x20
  let v := if bits v 63 60 < 2 ∨ 11 < bits v 63 60 then setBits v 63 60 (fld s a 63 60) else v
  plainWrite s .cfgScrub a v

/-! ### The configuration-port window (R285) -/

/-- A byte of the window. -/
def cfgWindowByte (s : State) (r : RegionId) (off : Nat) : Byte :=
  let x := getRegion s r
  if off < 0x28 then BitVec.ofNat 8 ((rd s (cfgReg r (off / 8 * 8))).toNat / 2 ^ (8 * (off % 8)))
  else if off < 0x1000000 then 0
  else if off < 0x2000000 then cfgByte x (off - 0x1000000)
  else if off < 0x3000000 then
    let o := off - 0x2000000
    BitVec.ofNat 8 ((List.range 8).foldl (fun n i => if ffBit x (8 * o + i) then n + 2 ^ i else n) 0)
  else
    let o := off - 0x3000000
    let l := bramLane x (o / 0x4000) (o % 0x4000 / 2)
    BitVec.ofNat 8 (l.toNat / 2 ^ (8 * (o % 2)))

/-- R285: the states in which an offset can be read. -/
def cfgReadable (s : State) (r : RegionId) (off : Nat) : Bool :=
  if off < 0x1000000 then true
  else if off < 0x2000000 then 2 ≤ regState s r
  else regState s r == 4

/-- R285: the byte lies in a block-memory word that is uncorrectable. -/
def cfgPoison (s : State) (r : RegionId) (off : Nat) : Bool :=
  0x3000000 ≤ off && mget false (getRegion s r).bramUe (1024 * ((off - 0x3000000) / 0x4000) + (off - 0x3000000) % 0x4000 / 16)

/-- R285: a read of the window; an uncorrectable block-memory word returns as stored, with status POISON. -/
def cfgWindowRead (s : State) (r : RegionId) (off n : Nat) : Status × List Byte :=
  if cfgReadable s r off && cfgReadable s r (off + n - 1) then
    (if (List.range n).any (fun i => cfgPoison s r (off + i)) then stPoison else stOk,
     (List.range n).map (fun i => cfgWindowByte s r (off + i)))
  else (stCfgState, [])

end Sys2Proof.Machine
end

