-- ==== Sys2Proof/Machine/Fec.lean ====
section
/-! DEFINITION. What the lanes of a fabric port carry: link flits as bytes, capability records, lane markers, and the RS(544,514)
codewords that hold four flits (R386, R387, R390, R393; log 102). -/

namespace Sys2Proof.Machine
open Sys2Proof

/-! ### The field of 1,024 elements -/

/-- Twice an element: x times it, modulo x^10 + x^3 + 1 (log 102). -/
def gfDouble (a : Nat) : Nat := if 512 ≤ a then (2 * a) ^^^ 0x409 else 2 * a
/-- The product, over the `n` low bits of the second factor. -/
def gfMulN : Nat → Nat → Nat → Nat
  | 0, _, _ => 0
  | n + 1, a, b => (if b % 2 = 1 then a else 0) ^^^ gfMulN n (gfDouble a) (b / 2)
def gfMul (a b : Nat) : Nat := gfMulN 10 a b
/-- The n-th power of the primitive element. -/
def gfAlpha : Nat → Nat
  | 0 => 1
  | n + 1 => gfDouble (gfAlpha n)
/-- a to the power 2^n - 1; with ten bits less one, and squared once more, the inverse of a. -/
def gfOnes (a : Nat) : Nat → Nat
  | 0 => 1
  | n + 1 => let r := gfOnes a n; gfMul (gfMul r r) a
def gfInv (a : Nat) : Nat := let r := gfOnes a 9; gfMul r r
/-- A polynomial, lowest coefficient first, at a point. -/
def gfEval (p : List Nat) (x : Nat) : Nat := p.foldr (fun c r => c ^^^ gfMul r x) 0
/-- Sum of two polynomials, and a polynomial times a constant. -/
def gfAdd : List Nat → List Nat → List Nat
  | [], q => q
  | p, [] => p
  | a :: p, b :: q => (a ^^^ b) :: gfAdd p q
def gfScale (c : Nat) (p : List Nat) : List Nat := p.map (gfMul c)

/-! ### RS(544,514) (R386) -/

/-- The generator: the product of x + alpha^j for j below 30, lowest coefficient first. -/
def rsGen : List Nat := (List.range 30).foldl (fun g j => gfAdd (0 :: g) (gfScale (gfAlpha j) g)) [1]
/-- One symbol into the remainder by the generator, whose thirty low coefficients are `g`; the highest coefficient stands first. -/
def rsStep (g : List Nat) (r : List Nat) (m : Nat) : List Nat :=
  let f := r.headD 0 ^^^ m
  gfAdd (r.drop 1 ++ [0]) (gfScale f g)
/-- The thirty parity symbols of a message whose first symbol is sent first. -/
def rsParity (m : List Nat) : List Nat := m.foldl (rsStep (rsGen.take 30).reverse) (List.replicate 30 0)
def rsEncode (m : List Nat) : List Nat := m ++ rsParity m

/-- The syndromes of a received codeword: its value at alpha^j. -/
def rsSyndromes (c : List Nat) : List Nat := (List.range 30).map (fun j => c.foldl (fun a v => gfMul a (gfAlpha j) ^^^ v) 0)

/-- The error locator as found so far: the locator, the one before its last change, the length, the distance since, and the discrepancy then. -/
structure Locator where
  c : List Nat
  b : List Nat
  l : Nat
  m : Nat
  d : Nat
  deriving DecidableEq, Repr

/-- One step of the search for the shortest locator (Berlekamp and Massey). -/
def locStep (syn : List Nat) (x : Locator) (n : Nat) : Locator :=
  let d := (List.range (x.l + 1)).foldl (fun a i => a ^^^ gfMul (x.c.getD i 0) (syn.getD (n - i) 0)) 0
  if d = 0 then { x with m := x.m + 1 }
  else
    let c := gfAdd x.c (List.replicate x.m 0 ++ gfScale (gfMul d (gfInv x.d)) x.b)
    if 2 * x.l ≤ n then { c, b := x.c, l := n + 1 - x.l, m := 1, d } else { x with c, m := x.m + 1 }
def rsLocate (syn : List Nat) : Locator := (List.range 30).foldl (locStep syn) { c := [1], b := [1], l := 0, m := 1, d := 1 }

/-- The correction of each symbol that the locator names: symbol i stands for the power 543 - i. -/
def rsErrors (syn : List Nat) (x : Locator) : List (Nat × Nat) :=
  let omega := ((List.range 30).map (fun n => (List.range (n + 1)).foldl (fun a i => a ^^^ gfMul (x.c.getD i 0) (syn.getD (n - i) 0)) 0))
  let deriv := (x.c.drop 1).mapIdx (fun i v => if i % 2 = 0 then v else 0)
  (List.range 544).filterMap (fun i =>
    let inv := gfAlpha ((1023 - (543 - i)) % 1023)
    if gfEval x.c inv ≠ 0 then none
    else some (i, gfMul (gfMul (gfAlpha (543 - i)) (gfEval omega inv)) (gfInv (gfEval deriv inv))))

/-- R386: the codeword that differs from what was received in at most fifteen symbols, with the symbols corrected; none when there is
none. -/
def rsDecode (c : List Nat) : Option (List Nat × List Nat) :=
  let syn := rsSyndromes c
  if syn.all (· == 0) then some (c, []) else
  let x := rsLocate syn
  let es := rsErrors syn x
  let y := c.mapIdx (fun i v => v ^^^ ((es.find? (fun e => e.1 == i)).map (·.2)).getD 0)
  if x.l ≤ 15 && es.length == x.l && (rsSyndromes y).all (· == 0) then some (y, es.map (·.1)) else none

/-! ### Link flits (R387) -/

/-- SLOTnCTL. -/
def slotCtl (x : LinkSlot) : Nat := x.stype.val + x.vc.val * 4 + x.cls.val * 16
def flitSlot (ctl : Nat) (body : List Byte) : LinkSlot :=
  { stype := ⟨ctl % 4, Nat.mod_lt _ (by decide)⟩, vc := ⟨ctl / 4 % 4, Nat.mod_lt _ (by decide)⟩,
    cls := ⟨ctl / 16 % 2, Nat.mod_lt _ (by decide)⟩, body }

def bitAt (b : Bool) (n : Nat) : Nat := if b then 2 ^ n else 0
/-- Bytes 0-155 of a flit. -/
def flitHead (f : LinkFlit) : List Byte :=
  padTo 64 f.slot0.body ++ padTo 64 f.slot1.body ++ leBytes 1 (slotCtl f.slot0) ++ leBytes 1 (slotCtl f.slot1)
    ++ leBytes 2 f.seq.toNat ++ leBytes 2 (f.ackSeq.toNat + bitAt f.ackV 12 + bitAt f.nak 13)
    ++ (List.range 8).flatMap (fun e => leBytes 2 (f.limits.getD e 0).toNat)
    ++ leBytes 2 (bitAt f.ready 0 + bitAt f.amber 1 + bitAt f.amberPair 2 + f.amberHops.val * 8) ++ leBytes 4 0
/-- The 160 bytes of a flit. -/
def flitBytes (f : LinkFlit) : List Byte := let h := flitHead f; h ++ leBytes 4 (crc32c 0 h)
/-- R387: the CRC of 160 bytes holds. -/
def flitCrcOk (d : List Byte) : Bool := leNat ((d.drop 156).take 4) == crc32c 0 (d.take 156)
/-- The fields of a flit. -/
def parseFlit (d : List Byte) : LinkFlit :=
  let n (a k : Nat) : Nat := leNat ((d.drop a).take k)
  { slot0 := flitSlot (n 128 1) (d.take 64), slot1 := flitSlot (n 129 1) ((d.drop 64).take 64), seq := BitVec.ofNat 12 (n 130 2),
    ackSeq := BitVec.ofNat 12 (n 132 2), ackV := (n 132 2).testBit 12, nak := (n 132 2).testBit 13,
    limits := (List.range 8).map (fun e => BitVec.ofNat 16 (n (134 + 2 * e) 2)), ready := (n 150 2).testBit 0,
    amber := (n 150 2).testBit 1, amberPair := (n 150 2).testBit 2, amberHops := ⟨n 150 2 / 8 % 8, Nat.mod_lt _ (by decide)⟩ }

/-- R386: the 514 payload symbols of four flits: twenty blocks of a sync bit and 256 data bits, one after the other. -/
def codewordOf (fs : List (List Byte)) : List Nat :=
  let d := fs.flatten
  let bits := (List.range 20).foldl (fun v b => v + (bitAt (b % 5 = 0) 0 + 2 * leNat ((d.drop (32 * b)).take 32)) * 2 ^ (257 * b)) 0
  rsEncode ((List.range 514).map (fun i => bits / 2 ^ (10 * i) % 1024))
/-- The bytes of flit k of a codeword. -/
def flitOf (c : List Nat) (k : Nat) : List Byte :=
  let bits := (c.take 514).foldr (fun v n => v + 1024 * n) 0
  (List.range 5).flatMap (fun b => leBytes 32 (bits / 2 ^ (257 * (5 * k + b) + 1)))

/-! ### Capability records and lane markers (R390, R393) -/

/-- The 64 bytes of a capability record. -/
def capBytes (r : CapRecord) : List Byte :=
  leBytes 64 (r.version.toNat + bitAt r.devset 8 + r.device.toNat * 2 ^ 9 + r.part.val * 2 ^ 29 + r.port.val * 2 ^ 31 + r.shale.val * 2 ^ 35
    + bitAt r.switch 37 + bitAt r.ready 38 + r.twin.val * 2 ^ 39 + r.incarn.toNat * 2 ^ 42 + r.rings.toNat * 2 ^ 74 + r.tier.val * 2 ^ 90
    + r.plane.toNat * 2 ^ 92)

/-- The marker of a lane in LOCK, DESKEW and SPARING: its logical lane, and the failed one that a SPARE_REQ names. -/
def laneMarker (lane : Nat) (failed : Option Nat) : BitVec 40 :=
  BitVec.ofNat 40 (0x5A0FC3E1 * 2 ^ 8 + lane * 2 ^ 6 + (match failed with | some i => 2 ^ 5 + i * 2 ^ 3 | none => 0))
/-- A marker as received: its logical lane, and the failed one that SPARE_REQ names. -/
def readMarker (m : BitVec 40) : Option (Nat × Option Nat) :=
  let n := m.toNat
  if n / 2 ^ 8 = 0x5A0FC3E1 then some (n / 2 ^ 6 % 4, if n.testBit 5 then some (n / 2 ^ 3 % 4) else none) else none

end Sys2Proof.Machine
end

