-- ==== Sys2Proof/Machine/Noc.lean ====
section
/-! DEFINITION. The on-package network: routers and route tables, on-die links, UCIe modules, initiator timeouts, route
changes and endpoint fences (R296-R316). -/

namespace Sys2Proof.Machine
open Sys2Proof

/-! ### Headers (R300, R301, R347) -/

/-- Every opcode the tables define. -/
def opcodes : List Nat := [0x01, 0x02, 0x10, 0x11, 0x12, 0x13, 0x15, 0x20, 0x30, 0x40, 0x41, 0x42, 0x43, 0x44, 0x45, 0x46,
  0x47, 0x48, 0x49, 0x50, 0x51, 0x52, 0x53, 0x54, 0x60, 0x61, 0x62, 0x81, 0x82, 0x90, 0x92, 0x95, 0xA0, 0xB0, 0xC0, 0xC1,
  0xC2, 0xC3, 0xC4, 0xC5, 0xC6, 0xC7, 0xC8, 0xC9, 0xD1, 0xD2, 0xD3, 0xE0]

/-- R300: a header with a reserved opcode, NFLIT above 4 or a nonzero RSVD field. -/
def badHeader (p : Packet) : Bool := !opcodes.contains p.op.toNat || 4 < p.nflit.toNat || p.rsvd != 0

/-- Header bits [63:0] (R300); `rsvd` gives [31:28] and [63:56] from its low bits. -/
def headerWord (p : Packet) : Nat :=
  p.op.toNat + p.vc.toNat * 2 ^ 8 + p.nflit.toNat * 2 ^ 10 + (p.len - 1) % 256 * 2 ^ 13 + p.poison.toNat * 2 ^ 21
    + (if p.fab then 2 ^ 25 else 0) + (if p.dlv then 2 ^ 26 else 0) + (if p.dclass then 2 ^ 27 else 0)
    + p.rsvd % 16 * 2 ^ 28 + p.dest.toNat * 2 ^ 32 + p.src.toNat * 2 ^ 44 + p.rsvd / 16 % 256 * 2 ^ 56

/-! ### Links (R296, R303, R305, R306) -/

def setFails (s : State) (d l n : Nat) : State := { s with noc := { s.noc with fails := mset 0 s.noc.fails (512 * d + l) n } }

/-- The packets whose places a fault takes with it are lost: their requests end by timeout. -/
def losePkts (s : State) (lost : Place → Bool) : State :=
  ((s.noc.flights.filter (fun f => lost f.place)).map (·.p)).foldl takePkt s

/-- The place is on link l of die d, in either direction. -/
def onLink (d l : Nat) (a : Place) : Bool :=
  match a with | .link x r k => x == d && linkOf r k == some l | _ => false
/-- The place is a buffer of a router. -/
def inRouter (d r : Nat) (a : Place) : Bool :=
  match a with | .buffer x y _ => x == d && y == r | _ => false
/-- The place is on a module of a UCIe link, in either direction. -/
def onBridge (k : Nat) (a : Place) : Bool := match a with | .bridge d b _ => bridgeKey d b == k | _ => false
def onModule (k : Nat) (a : Place) : Bool := match a with | .bridge d b m => moduleKey d b m == k | _ => false

/-- A link goes down: the flits that it holds are lost (R306). -/
def downLink (s : State) (d l : Nat) : State := setFld (losePkts (setFails s d l 0) (onLink d l)) (nocLinkAt d l) 63 56 (2 * 64)

/-- R303: the hop crosses the wraparound link of a ring. -/
def wraps (router port : Nat) : Bool :=
  (port == 0 && router % 16 == 15) || (port == 1 && router % 16 == 0) || (port == 2 && router / 16 == 7) || (port == 3 && router / 16 == 0)

/-- Flits of a packet: the header and the payload (R300). -/
def flitsOf (p : Packet) : Nat := 1 + p.nflit.toNat

/-- R303: the flits of one virtual channel and dateline class that an input port holds or that are on their way to it. -/
def portFlits (s : State) (d r k vc : Nat) (cls : Bool) : Nat :=
  ((s.noc.flights.filter (fun f => (f.place == .buffer d r k || f.place == .link d r k) && f.p.vc.toNat == vc && f.p.dclass == cls)).map
    (fun f => flitsOf f.p)).sum
/-- An input port has room for a packet in its class. -/
def portRoom (s : State) (d r k : Nat) (p : Packet) : Bool := portFlits s d r k p.vc.toNat p.dclass + flitsOf p ≤ 8
/-- R305: the sender's replay buffer of 16 flits has room. -/
def replayRoom (s : State) (d r k : Nat) (p : Packet) : Bool :=
  ((s.noc.flights.filter (fun f => f.place == .link d r k)).map (fun f => flitsOf f.p)).sum + flitsOf p ≤ 16

/-- A packet takes a place: it comes after every packet that took its place before. `q` is the packet with its dateline
class (R303). -/
def placePkt (s : State) (p q : Packet) (a : Place) : State :=
  { s with out := s.out.replace p q,
           noc := { s.noc with flights := s.noc.flights.eraseP (fun f => f.p == p) ++ [{ p := q, place := a }] } }

/-- The packet as it is on the far side of a hop, and the place that it takes there; none while its link is down or it has no
room (R299, R303, R305). -/
def nextPlace (s : State) (d r k : Nat) (p : Packet) : Option (Packet × Place) :=
  match linkOf r k with
  | none => none
  | some l =>
    if linkState s d l = 2 then none
    else if k < 4 then
      let q := { p with dclass := p.dclass || wraps r k }
      let y := neighbour r k; let i := if k % 2 = 0 then k + 1 else k - 1
      if portRoom s d y i q && replayRoom s d y i q then some (q, .link d y i) else none
    else
      let b := (l - 256) / 2
      if mget false s.noc.bridgeHold (bridgeKey d b) && s.noc.flights.any (fun f => onBridge (bridgeKey d b) f.place) then none
      else (moduleFor s d b p).map (fun m => (p, .bridge d b m))

/-- The packets that stand ready for an output port of a router: first in their buffers, routed to the port, with room behind
it (R303). -/
def readyFor (s : State) (d r k : Nat) : List Flight :=
  s.noc.flights.filter (fun f =>
    inRouter d r f.place && atHead s f && portFor s d r f.p == k && (nextPlace s d r k f.p).isSome)

def waitKey (d r k vc : Nat) : Nat := ((128 * d + r) * 8 + k) * 4 + vc
def inPort (a : Place) : Nat := match a with | .buffer _ _ k => k | _ => 0

/-- R303: the virtual channel that an output port grants: one that has waited 8 cycles, else management, response, mirror,
request. -/
def grantVc (s : State) (d r k : Nat) (fs : List Flight) : Option Nat :=
  let ready := [3, 1, 2, 0].filter (fun v => fs.any (fun f => f.p.vc.toNat == v))
  match ready.find? (fun v => 8 ≤ mget 0 s.noc.waits (waitKey d r k v)) with
  | some v => some v
  | none => ready.head?

/-- R303: the packet that an output port grants: of its virtual channel, input ports are served round-robin. -/
def granted (s : State) (d r k : Nat) : Option Flight :=
  let fs := readyFor s d r k
  (grantVc s d r k fs).bind fun v =>
    let from' := mget 0 s.noc.served (waitKey d r k v)
    ((List.range 7).map (fun i => (from' + i) % 7)).findSome? (fun i => fs.find? (fun f => f.p.vc.toNat == v && inPort f.place == i))

/-- The cycles that the other virtual channels of an output port wait while a packet crosses it, and the port served (R303). -/
def countWaits (s : State) (d r k : Nat) (f : Flight) : State :=
  let fs := readyFor s d r k
  let waits := [0, 1, 2, 3].foldl (fun m v =>
    let key := waitKey d r k v
    if v = f.p.vc.toNat then mset 0 m key 0
    else if fs.any (fun g => g.p.vc.toNat == v) then mset 0 m key (mget 0 m key + flitsOf f.p) else m) s.noc.waits
  { s with noc := { s.noc with waits, served := mset 0 s.noc.served (waitKey d r k f.p.vc.toNat) (inPort f.place + 1) } }

/-- A packet in a buffer of a router: sent on by the active table, answered NOC_FENCED at an unreachable entry, or left for
its endpoint (R307, R308). -/
def forward (s : State) (d r : Nat) (f : Flight) : State :=
  let k := portFor s d r f.p
  if k = 7 then (if isRequest f.p then answer s f.p stNocFenced else takePkt s f.p)
  else if k = 4 ∨ k = 5 then s
  else if granted s d r k = some f then
    match nextPlace s d r k f.p with
    | none => s
    | some (q, a) =>
      let s := match linkOf r k with | some l => setFails s d l 0 | none => s
      placePkt (countWaits s d r k f) f.p q a
  else s

/-- A packet comes into an input buffer of a router, in its class, when there is room, and is sent on if it wins its output
port. -/
def receive (s : State) (d r k : Nat) (p q : Packet) : State :=
  let s := placePkt s p q (.buffer d r k)
  forward s d r { p := q, place := .buffer d r k }

/-- The input port at which a packet that has not entered the network comes into a router: the local port of its source, or
the express port for a packet from a Shale or Granite die that enters at the die (R297, R299, R468). -/
def entryPort (s : State) (d r : Nat) (p : Packet) : Option Nat :=
  let e := nodeDie p.src
  if e = d then (if (Config.router d (nodeEp p.src)).toNat = r then some (4 + (Config.lport d (nodeEp p.src)).toNat) else none)
  else if (entryDies s p).contains d && (enterRouters d e).contains r then some 6
  else none

/-- ROUTER_HOP (R300, R303, R305, R307, R308): the router takes the packet from its source, from the link or bridge that holds
it, or from its own buffer; it checks the header, and sends the packet on when it wins its output port. A packet enters class
0; local ports, and express links from bridges, let none in while the die drains (R309). -/
def execRouterHop (d : Fin 4) (router : Fin 128) (p : Packet) (s : State) : Out := whenRunning s fun s =>
  let r := router.val
  if mget false s.noc.stopped (128 * d + r) then s
  else if badHeader p then logEvent (takePkt s p) 0x0022 d r 2 (headerWord p)
  else
    let q := { p with dclass := false }
    match flightOf s p with
    | none =>
      match entryPort s d r p with
      | none => s
      | some k => if inOrder s p && !draining s d && portRoom s d r k q then receive s d r k p q else s
    | some f =>
      match f.place with
      | .buffer x y _ => if x = d ∧ y = r then forward s d r f else s
      | .link x y k => if x = d ∧ y = r then receive s d r k p p else s
      | .bridge x b _ =>
        if farDie x b = d && (enterRouters d x).contains r && !draining s d && portRoom s d r 6 q then receive s d r 6 p q else s

/-- LINK_REPLAY (R305, R306): a received flit whose CRC differs is discarded and replayed; `failing` are the groups that the
test pattern of the eighth failure finds. -/
def execLinkReplay (d : Fin 4) (link : Fin 266) (got : WireTry) (s : State) : Out := whenRunning s fun s =>
  let l : Nat := link
  if linkState s d l = 2 ∨ linkCrc got.flit.data got.flit.side = got.flit.crc.toNat then s else
  let n := mget 0 s.noc.fails (512 * d + l) + 1
  if n < 8 then setFails s d l n else
  let gs := (got.failing.map (·.val)).eraseDups
  let s := setFails s d l 0
  if gs.isEmpty then s
  else
    match gs, linkState s d l with
    | [g], 0 => if g < 35 then logEvent (setFld s (nocLinkAt d l) 63 56 (64 + g)) 0x0020 d l 1 g else s
    | _, _ => logEvent (downLink s d l) 0x0021 d l 2 0

/-! ### UCIe modules (R16, R299) -/

/-- UCIE_MODULE (R299, R408): the module leaves service, and the packets on it that the fault takes are lost; the bridge
withholds credits until what else was sent has been delivered; a link between dies with no module left fails the device;
Granite's link, one module to each Basalt die, has none left when all four are out (R468, log 27). -/
def execUcieModule (d : Fin 4) (bridge : Fin 5) (module : Fin 4) (lost : List Packet) (s : State) : Out := whenRunning s fun s =>
  if moduleUp s d bridge module then
    let k := moduleKey d bridge module
    let s := (lost.filter (fun p => (flightOf s p).any (fun f => onModule k f.place))).foldl takePkt s
    let s := { s with noc := { s.noc with ucieOut := mset false s.noc.ucieOut k true,
                                          bridgeHold := mset false s.noc.bridgeHold (bridgeKey d bridge) true } }
    let s := logEvent s 0x0024 d (142 + bridge) 2 module
    let dies := if bridge.val = 4 then [0, 1, 2, 3] else [d.val]
    if dies.any (fun x => (List.range (bridgeModules bridge)).any (moduleUp s x bridge)) then s else devFail s 0x0024 d
  else s

/-- UCIE_LANE_REPAIR (R299): a redundant lane masks the fault. -/
def execUcieLaneRepair (d : Fin 4) (bridge : Fin 5) (module : Fin 4) (s : State) : Out := whenRunning s fun s =>
  if moduleUp s d bridge module then
    let k := moduleKey d bridge module
    { s with noc := { s.noc with ucieRepaired := mset 0 s.noc.ucieRepaired k (mget 0 s.noc.ucieRepaired k + 1) } }
  else s

/-! ### Timeouts (R310, R311) -/

/-- INITIATOR_TIMEOUT (R311): the tag's generation advances, the tag is free, the request completes NOC_TIMEOUT. -/
def execInitiatorTimeout (node : Fin 4096) (tag : Fin 1024) (s : State) : Out := whenRunning s fun s =>
  match (getTag s node tag).use with
  | none => s
  | some u => completeTag (expireTag s node tag) u stNocTimeout

/-! ### Route changes (R307, R309, R315) -/

/-- NOC_RTW: a shadow entry; ignored while draining. -/
def writeRtw (s : State) (d : Nat) (v : Word) : State :=
  let kind := bit v 56; let ix := bits v 55 48
  if rtState s d = 1 || (kind && 8 < ix) then s
  else { s with noc := { s.noc with shadow := mput s.noc.shadow (routeKey d (bits v 63 57) kind ix) (8 + bits v 47 45) } }
def execNocRtw (d : Fin 4) (v : Word) (s : State) : Out := whenRunning s fun s => writeRtw s d v

/-- SWAP: the route change starts; ignored while draining. -/
def startSwap (s : State) (d : Nat) : State := if rtState s d = 1 then s else setFld s (rtctl d) 62 61 1
def execSwap (d : Fin 4) (s : State) : Out := whenRunning s fun s => startSwap s d

/-- The entries of one die. -/
def routesOf (m : SMap Nat) (d : Nat) (own : Bool) : SMap Nat := m.filter (fun e => (e.1 / 65536 == d) == own)
/-- The table in which die d's entries are those of its shadow table. -/
def swapped (act sh : SMap Nat) (d : Nat) : SMap Nat := (routesOf sh d true).foldl (fun m e => mput m e.1 e.2) (routesOf act d false)

/-- The place is a router buffer or a link's replay buffer of the die. -/
def onDie (d : Nat) (a : Place) : Bool :=
  match a with | .buffer x _ _ => x == d | .link x _ _ => x == d | _ => false

/-- ROUTE_SWAP_DONE (R309 step 3): once every router buffer and replay buffer of the die is empty. -/
def execRouteSwapDone (d : Fin 4) (s : State) : Out := whenRunning s fun s =>
  if rtState s d = 1 && !s.noc.flights.any (fun f => onDie d f.place) then
    setFld { s with noc := { s.noc with active := swapped s.noc.active s.noc.shadow d } } (rtctl d) 62 53 (2 * 256)
  else s

/-- NOC_ROUTE_FAIL (R309 step 4). -/
def execNocRouteFail (d : Fin 4) (s : State) : Out := whenRunning s fun s =>
  if rtState s d = 1 then logEvent (setFld s (rtctl d) 62 53 (2 * 256 + stNocRouteFail)) 0x0023 d 0 2 stNocRouteFail
  else s

/-! ### Fences (R313) -/

def execFenceDrain (d : Fin 4) (ep : Fin 256) (s : State) : Out := whenRunning s fun s =>
  whenIf (epPresent s.part ep) s (fun s => fenceStart s d ep false)
def execFenceAbandon (d : Fin 4) (ep : Fin 256) (s : State) : Out := whenRunning s fun s =>
  whenIf (epPresent s.part ep) s (fun s => fenceStart s d ep true)
/-- FENCE_DONE (R313 step 5). -/
def execFenceDone (d : Fin 4) (ep : Fin 256) (s : State) : Out := whenRunning s fun s => fenceFinish s d ep
def execUnfence (d : Fin 4) (ep : Fin 256) (s : State) : Out := whenRunning s fun s => unfenceEp s d ep

/-- ROUTER_FAULT (R408): the router stops with what it holds, and its links are down. -/
def execRouterFault (d : Fin 4) (router : Fin 128) (s : State) : Out := whenRunning s fun s =>
  if mget false s.noc.stopped (128 * d + router) then s else
  let s := { s with noc := { s.noc with stopped := mset false s.noc.stopped (128 * d + router) true } }
  let s := losePkts s (inRouter d router)
  let s := ([0, 1, 2, 3, 6].filterMap (linkOf router)).foldl (fun s l => downLink s d l) s
  logEvent s 0x0021 d (0x800 + router) 2 0

end Sys2Proof.Machine
end

