-- ==== Sys2Proof/Machine/Hbm.lean ====
section
/-! DEFINITION. The HBM subsystem: admission and controller queues, training, delays, checks, refresh, scrub and repair
(R317-R341). -/

namespace Sys2Proof.Machine
open Sys2Proof

/-- The offset of a request at its home (R34). -/
def offsetOf (p : Packet) : Nat := p.addr.toNat % 2 ^ 44

/-- The channel is fitted (R317). -/
def chFitted (p : Part) (ch : Nat) : Bool := ch < 16 * p.positions
def chTrained (s : State) (d ch : Nat) : Bool := flag s (hbmChAt d ch) 63

/-! ### Addresses of places (R319-R321) -/

/-- The HBM byte address of a place: the hash is undone by itself, since selectors name row bits only. -/
def hbmAddrOf (s : State) (d ch pc bank row col : Nat) : Nat :=
  let q := row * 2 ^ 16 + bank * 2 ^ 11 + pc * 2 ^ 10 + col * 32
  let l := row * 2 ^ 16 + (List.range 6).foldl (fun x i => x + hashBit s q i * 2 ^ (10 + i)) 0 + col * 32
  let g := hbmG s
  (l / 2 ^ g * hbmChannels s.part + 4 * ch + d) * 2 ^ g + l % 2 ^ g

/-! ### Requests (R323-R326) -/

/-- R300, R319: 1 to 256 bytes that do not cross a 256-byte boundary. -/
def sizeLegal (a n : Nat) : Bool := 1 ≤ n && a % 256 + n ≤ 256
def pktLen (p : Packet) : Nat := if p.data.isEmpty then p.len else p.data.length

/-- The status that refuses a READ or WRITE of HBM at its port, 0 when it is served. -/
def hbmScreen (s : State) (p : Packet) : Status :=
  let i := initiatorOf s p
  let m := mapStatus s.part i (offsetOf p) (pktLen p)
  if m ≠ 0 then m else rangeRefusal s i (offsetOf p) (pktLen p)

/-- Two requests touch a common byte. -/
def reqOverlap (p q : Packet) : Bool := overlaps (offsetOf p) (pktLen p) (offsetOf q) (pktLen q)

/-- R325, R365: a write is acknowledged when it enters its queue, a mirrored one after MIRROR_ACK. -/
def ackWrite (s : State) (p : Packet) : State :=
  if ackWaits s (offsetOf p) then
    awaitAck (takePkt s p) p (.packet p)
  else answer s p stOk

/-- R334-R336: a read's response: data, POISON bits, and STATUS POISON when any is set. -/
def readAnswer (s : State) (p : Packet) : State :=
  let r := hbmRead s (offsetOf p) p.len
  sendPkt (takePkt r.1 p) (response p (if r.2.2 = 0 then stOk else stPoison) r.2.1 r.2.2)

/-- A READ or WRITE served at once at the port: accepted, admitted and served with no other request before it. -/
def hbmDirect (s : State) (p : Packet) : State :=
  if p.op = 0x01 then readAnswer s p else ackWrite (hbmStore s p none) p

/-- R323: the port takes the request into its admission queue, while that has room. -/
def hbmQueue (s : State) (p : Packet) : State :=
  let d := hbmDie s (offsetOf p); let ep := hbmPortEp s.part (hbmJ s (offsetOf p))
  let l := portQueue s d ep
  if 256 ≤ l.length then s else takePkt (setPortQueue s d ep (l ++ [{ p, ts := nowNs s d }])) p

/-- The packet is a legal READ or WRITE of HBM (R301). -/
def isHbmReq (s : State) (p : Packet) : Bool :=
  (p.op == 0x01 || (p.op == 0x02 && p.data.length == p.len)) && sizeLegal (offsetOf p) p.len && !p.fab
    && offsetOf p < carveEnd s.part

/-- HBM_ACCEPT (R323). -/
def execHbmAccept (p : Packet) (s : State) : Out := whenRunning s fun s =>
  if isHbmReq s p then
    throughFence s p fun s =>
      let e := hbmScreen s p
      if e ≠ 0 then answer s p e else hbmQueue s p
  else s

def ageNs (s : State) (d : Nat) : Nat := fld s (hbmAt d 0x20) 11 0
def aged (s : State) (d : Nat) (r : HReq) : Bool := r.ts + ageNs s d ≤ nowNs s d
/-- R182: the deadline of a waiting request at its die. -/
def hbmDeadline (s : State) (d : Nat) (r : HReq) : Nat :=
  if nodeDie r.p.src = d && r.p.dlv then r.p.deadline.toNat else r.ts + fld s (csrAt d 0x380008) 15 0

/-- The requests of a queue, oldest first, that no earlier one of the queue overlaps. -/
def unblocked : List HReq → List HReq → List HReq
  | _, [] => []
  | before, r :: rest =>
    let tail := unblocked (before ++ [r]) rest
    if before.any (fun b => reqOverlap b.p r.p) then tail else r :: tail

/-- The earlier of two requests in the order of R323: deadline, then stream number, then age (list order). -/
def betterReq (s : State) (d : Nat) (a b : HReq) : HReq :=
  if hbmDeadline s d b < hbmDeadline s d a then b
  else if hbmDeadline s d a < hbmDeadline s d b then a
  else if b.p.snum.toNat < a.p.snum.toNat then b else a

/-- R323: the request that the port admits: the oldest aged one, else the best by deadline. -/
def admitChoice (s : State) (d : Nat) (l : List HReq) : Option HReq :=
  match l.find? (aged s d) with
  | some r => some r
  | none => match l with | [] => none | r :: rest => some (rest.foldl (betterReq s d) r)

/-- HBM_ADMIT (R323, R325). A request that its channel no longer serves is answered (R328). -/
def execHbmAdmit (d : Fin 4) (ch : Fin 48) (pc : Fin 2) (s : State) : Out := whenRunning s fun s =>
  let ep := hbmPortEp s.part ch
  let x := getPc s d ch pc
  let l := portQueue s d ep
  let mine := l.filter (fun r => hbmJ s (offsetOf r.p) == ch && hbmPc s (offsetOf r.p) == pc)
  if 64 ≤ x.queue.length || chZeroing s d ch then s else
  match admitChoice s d (unblocked [] mine) with
  | none => s
  | some r =>
    let s := setPortQueue s d ep (l.erase r)
    let e := hbmScreen s r.p
    if e ≠ 0 then answer s r.p e
    else
      let s := setPc s d ch pc { x with queue := x.queue ++ [r] }
      if r.p.op = 0x02 then ackWrite s r.p else s

/-! ### What a command slot serves first (R324, R332, R337) -/

/-- R332: the refreshes of a bank that have come due: at the rate of HBM3, doubled while HOT. -/
def refreshesDue (s : State) (d ch : Nat) (x : PcState) (bank : Nat) : Nat :=
  mget 0 x.carried bank
    + (nowNs s d - x.rateFrom) * (if flag s (hbmChAt d ch) 59 then 2 else 1) / Config.refreshNs
/-- R332: a bank's refresh stands at its postponement limit. -/
def refreshFirst (s : State) (d ch : Nat) (x : PcState) : Bool :=
  (List.range 32).any (fun b => mget 0 x.refreshed b + Config.refreshPostpone ≤ refreshesDue s d ch x b)

/-- Bursts of a pseudo-channel: 24,576 rows, 32 banks, 32 columns. -/
def scrubBursts : Nat := 24576 * 1024
/-- R337: the bursts that every pseudo-channel of the die should have scrubbed by now: one pass in SCRUB_H hours. -/
def scrubDue (s : State) (d : Nat) : Nat := nowNs s d * scrubBursts / (fld s (hbmAt d 0x28) 63 59 * 3600000000000)
/-- R337: the pass of a pseudo-channel is behind its schedule. -/
def scrubBehind (s : State) (d : Nat) (x : PcState) : Bool := x.scrubPos < scrubDue s d

/-- The request that was accepted first. -/
def oldestReq : List HReq → Option HReq
  | [] => none
  | r :: l => some (l.foldl (fun m q => if q.ts < m.ts then q else m) r)

/-- R324: the request served next: the oldest aged one, else, unless a late scrub takes the slot (R337), the oldest row hit, else
the oldest; none of a held bank. -/
def slotChoice (s : State) (d : Nat) (x : PcState) : Option HReq :=
  let l := (unblocked [] x.queue).filter (fun r => x.holdBank != some (hbmBank s (offsetOf r.p)))
  match oldestReq (l.filter (aged s d)) with
  | some r => some r
  | none =>
    if scrubBehind s d x then none
    else match oldestReq (l.filter (fun r => mfind x.openRow (hbmBank s (offsetOf r.p)) == some (hbmRow s (offsetOf r.p)))) with
    | some r => some r
    | none => oldestReq l

/-- The bursts of a request come to be in error, as the list says by their order in it. -/
def upsetBursts (s : State) (a n : Nat) (errs : List (Nat × Ecc)) : State :=
  errs.foldl (fun s e => match (bursts a n)[e.1]? with | some b => upset s (hbmKey s b) e.2 | none => s) s

/-- HBM_COMMAND_SLOT (R324-R326, R334-R336): `errs` are the bursts of the request whose stored symbols have come to be in
error. A refresh at its limit takes the slot. -/
def execHbmCommandSlot (d : Fin 4) (ch : Fin 48) (pc : Fin 2) (errs : List (Nat × Ecc)) (s : State) : Out := whenRunning s fun s =>
  let x := getPc s d ch pc
  if x.queue.isEmpty || chZeroing s d ch || refreshFirst s d ch x then s else
  match slotChoice s d x with
  | none => s
  | some r =>
    let a := offsetOf r.p
    let s := upsetBursts (setPc s d ch pc { x with queue := x.queue.erase r }) a (pktLen r.p) errs
    if r.p.op = 0x02 then hbmStore s r.p none
    else if chTrained s d ch then readAnswer s r.p else answer s r.p stNocFenced

/-! ### Refresh, activation counts, sentinel (R332, R333, R411) -/

/-- R332: HOT follows the stack's report; what came due at the rate before is carried. -/
def setHot (s : State) (d ch : Nat) (hot : Bool) : State :=
  if flag s (hbmChAt d ch) 59 = hot then s
  else
    let s := [0, 1].foldl (fun s pc =>
      let x := getPc s d ch pc
      setPc s d ch pc { x with carried := (List.range 32).foldl (fun m b => mset 0 m b (refreshesDue s d ch x b)) x.carried,
                               rateFrom := nowNs s d }) s
    setFlag s (hbmChAt d ch) 59 hot

/-- A bank is refreshed: its row closes, and the refresh counts (R332). -/
def refreshBank (x : PcState) (bank : Nat) : PcState :=
  { x with refreshed := mset 0 x.refreshed bank (mget 0 x.refreshed bank + 1), openRow := mdel x.openRow bank }

/-- A refresh window: an all-bank refresh, which counts toward the rate (R332). -/
def refreshAll (s : State) (d ch pc : Nat) : State :=
  setPc s d ch pc ((List.range 32).foldl refreshBank (getPc s d ch pc))

/-- REFRESH (R332): `seen.upsets` are the bursts of the bank (32 × row + column) whose stored symbols have come to be in error since
its last refresh. -/
def execRefresh (d : Fin 4) (ch : Fin 48) (pc : Fin 2) (bank : Fin 32) (seen : RefreshSeen) (s : State) : Out :=
  whenRunning s fun s =>
    if chFitted s.part ch then
      let s := (seen.upsets.filter (fun e => e.1 < 24576 * 32)).foldl (fun s e =>
        upset s (hbmKey s (hbmAddrOf s d ch pc bank (e.1 / 32) (e.1 % 32))) e.2) s
      setHot (setPc s d ch pc (refreshBank (getPc s d ch pc) bank)) d ch seen.hot
    else s

/-- REFRESH_MANAGEMENT (R333). -/
def execRefreshManagement (d : Fin 4) (ch : Fin 48) (pc : Fin 2) (bank : Fin 32) (threshold : Nat) (s : State) : Out :=
  whenRunning s fun s =>
    let x := getPc s d ch pc
    let n := mget 0 x.acts bank
    if chFitted s.part ch && 0 < threshold && threshold ≤ n then
      setPc s d ch pc { x with acts := mset 0 x.acts bank (n - threshold), openRow := mdel x.openRow bank }
    else s

/-- SENTINEL_READ (R411): a failed read fails the channel, and the device (R408). -/
def execSentinelRead (d : Fin 4) (ch : Fin 48) (pc : Fin 2) (ok : Bool) (s : State) : Out := whenRunning s fun s =>
  if ok || !chFitted s.part ch then s else devFail (logEvent s 0x0012 d ch 3 pc) 0x0012 d

/-! ### Patrol scrub (R337) -/

/-- The pseudo-channels of a die's fitted and trained channels. -/
def pcsOf (s : State) (d : Nat) : List PcState :=
  ((List.range (16 * s.part.positions)).filter (chTrained s d)).flatMap (fun ch => [getPc s d ch 0, getPc s d ch 1])

/-- HBM_SCRUB: SCRUB_H, with PASSES and BEHIND as they are in this moment (R337). -/
def scrubWord (s : State) (d : Nat) : Word :=
  let l := pcsOf s d
  let done := if l.isEmpty then 0 else l.foldl (fun m x => min m (x.scrubPos / scrubBursts)) (2 ^ 64)
  setBit (setBits (rd s (hbmAt d 0x28)) 58 27 done) 26 (l.any (scrubBehind s d))

/-- PATROL_SCRUB (R337): the burst is read, in a slot that no request uses unless the pass is behind; a poisoned granule is left
as it is; the pass advances in rising order of bursts. -/
def execPatrolScrub (d : Fin 4) (ch : Fin 48) (pc : Fin 2) (burst : Nat) (ecc : Ecc) (s : State) : Out := whenRunning s fun s =>
  let x := getPc s d ch pc
  if chFitted s.part ch && chTrained s d ch && !chZeroing s d ch && burst < scrubBursts
      && (x.queue.isEmpty || scrubBehind s d x) && x.holdBank != some (burst / 32 % 32) then
    let b := hbmAddrOf s d ch pc (burst / 32 % 32) (burst / 1024) (burst % 32)
    let s := touchRow (upset s (hbmKey s b) ecc) b
    let s := if granPoison s.hbm.mem (hbmKey s b / 64) then s else readBurst s b
    let x := getPc s d ch pc
    if x.scrubPos % scrubBursts = burst then setPc s d ch pc { x with scrubPos := x.scrubPos + 1 } else s
  else s

/-! ### Margin checks (R330, R331) -/

def hbmCheckAt (d : Nat) : Nat := hbmAt d 0x40
/-- HBM_CHECK: the fields are stored, MARGIN 0 leaving MARGIN as it was; GO starts a check of the pseudo-channel that they name,
unless one runs. -/
def writeHbmCheck (s : State) (d : Nat) (v : Word) : State :=
  let a := hbmCheckAt d
  let v := if bits v 55 50 = 0 then setBits v 55 50 (fld s a 55 50) else v
  let s := plainWrite s .hbmCheck a v
  if bit v 63 && fld s a 49 48 != 1 && chFitted s.part (bits v 62 57) then
    setFld (setHbm s { s.hbm with checking := mset 0 s.hbm.checking d v }) a 49 48 1
  else s
def execHbmCheck (d : Fin 4) (v : Word) (s : State) : Out := whenRunning s fun s => writeHbmCheck s d v

/-- A pseudo-channel completes a check; RECHECK_DUE clears when both have (R331). -/
def checkedPc (s : State) (d ch pc : Nat) : State :=
  let s := setPc s d ch pc { getPc s d ch pc with checked := true }
  if (getPc s d ch 0).checked && (getPc s d ch 1).checked then setFlag s (hbmChAt d ch) 60 false else s

/-- R330: at most one check window per pseudo-channel in any 100 µs. -/
def checkAllowed (s : State) (d : Nat) (x : PcState) : Bool :=
  match x.checkAt with | some t => t + 100000 ≤ nowNs s d | none => true

/-- CHECK_WINDOW (R330): at a refresh window of the pseudo-channel under check. -/
def execCheckWindow (d : Fin 4) (failmask : BitVec 36) (s : State) : Out := whenRunning s fun s =>
  let a := hbmCheckAt d
  let v := mget 0 s.hbm.checking d.val
  let ch := bits v 62 57; let pc := bits v 56 56
  if fld s a 49 48 = 1 ∧ checkAllowed s d (getPc s d ch pc) = true then
    let s := refreshAll s d ch pc
    let s := setPc s d ch pc { getPc s d ch pc with checkAt := some (nowNs s d) }
    checkedPc (setFld (setFld s a 49 48 2) a 47 12 failmask.toNat) d ch pc
  else s

/-- RECHECK_DUE is set for a channel, with its event (R331). -/
def recheckDue (s : State) (d ch : Nat) : State :=
  if !chFitted s.part ch || flag s (hbmChAt d ch) 60 then s else
  let s := setPc s d ch 0 { getPc s d ch 0 with checked := false }
  let s := setPc s d ch 1 { getPc s d ch 1 with checked := false }
  logEvent (setFlag s (hbmChAt d ch) 60 true) 0x0013 d ch 1 0
def execRecheckDue (d : Fin 4) (ch : Fin 48) (s : State) : Out := whenRunning s fun s => recheckDue s d ch

/-! ### Repair (R338) -/

def hbmRepairAt (d : Nat) : Nat := hbmAt d 0x48
/-- The event of a repair (R338), by the fields that named its row; RESULT as it stands. -/
def repairEvent (s : State) (d : Nat) (v : Word) : State :=
  logEvent s 0x0014 d (bits v 62 57) 1
    (bits v 56 56 + bits v 55 51 * 2 + bits v 50 36 * 2 ^ 6 + fld s (hbmRepairAt d) 33 32 * 2 ^ 21)
/-- HBM_REPAIR: the fields are stored; GO starts a repair of the row that they name, unless one runs; an untrained channel or a
field out of range is refused. -/
def writeHbmRepair (s : State) (d : Nat) (v : Word) : State :=
  let a := hbmRepairAt d
  let s := plainWrite s .hbmRepair a v
  if !bit v 63 || fld s a 35 34 = 1 then s else
  let ch := bits v 62 57; let pc := bits v 56 56
  if !chFitted s.part ch || !chTrained s d ch || 24576 ≤ bits v 50 36 then repairEvent (setFld s a 35 32 (2 * 4 + 2)) d v
  else
    let s := setHbm s { s.hbm with repairing := mset 0 s.hbm.repairing d v }
    setPc (setFld s a 35 32 4) d ch pc { getPc s d ch pc with holdBank := some (bits v 55 51) }
def execHbmRepair (d : Fin 4) (v : Word) (s : State) : Out := whenRunning s fun s => writeHbmRepair s d v

/-- R338: the old row is read into a spare row, which serves it from now on; firmware records the repair (R339). `bad` are the
bursts of the row that have come to be uncorrectable. -/
def repairRow (s : State) (d ch pc bank row : Nat) (bad : List (Fin 32)) : State :=
  let s := (List.finRange 32).foldl (fun s (c : Fin 32) =>
    let b := hbmAddrOf s d ch pc bank row c
    let s := if bad.contains c then upset s (hbmKey s b) .uncorrectable else s
    readBurst (touchRow s b) b) s
  let k := repairKey d ch pc bank row
  setHbm s { s.hbm with repaired := mset false s.hbm.repaired k true, recorded := mset false s.hbm.recorded k true }
/-- R338: the repair of the row that a word of HBM_REPAIR names ends: its bank is free again, and its result stands. -/
def repairEnds (s : State) (d : Nat) (v : Word) (spare : Bool) (bad : List (Fin 32)) : State :=
  let ch := bits v 62 57; let pc := bits v 56 56
  let s := setPc s d ch pc { getPc s d ch pc with holdBank := none }
  let s := if spare then repairRow s d ch pc (bits v 55 51) (bits v 50 36) bad else s
  repairEvent (setFld s (hbmRepairAt d) 35 32 (2 * 4 + (if spare then 0 else 1))) d v
/-- HBM_REPAIR_DONE (R338): `spare`: a spare row was there; `bad`: the bursts of the row that were uncorrectable. -/
def execHbmRepairDone (d : Fin 4) (spare : Bool) (bad : List (Fin 32)) (s : State) : Out := whenRunning s fun s =>
  if fld s (hbmRepairAt d) 35 34 = 1 then repairEnds s d (mget 0 s.hbm.repairing d.val) spare bad else s

/-! ### Delays (R329) -/

def dlysel (d : Nat) : Nat := hbmAt d 0x30
def dlydat (d : Nat) : Nat := hbmAt d 0x38
/-- The key of a delay: die, then channel, pseudo-channel, kind, lane. -/
def delayKey (d ch pc kind lane : Nat) : Nat := (((d * 64 + ch) * 2 + pc) * 4 + kind) * 64 + lane
/-- The key that HBM_DLYSEL selects. -/
def selKey (s : State) (d : Nat) : Nat :=
  let v := rd s (dlysel d)
  delayKey d (bits v 63 58) (bits v 57 57) (bits v 56 55) (bits v 54 49)
/-- The selection names a delay that exists. -/
def selLegal (s : State) (d : Nat) : Bool :=
  let v := rd s (dlysel d); let k := bits v 56 55; let l := bits v 54 49
  chFitted s.part (bits v 63 58) && ((k < 2 && l < 36) || (k == 2 && l < 18))
/-- HBM_DLYDAT (R329). -/
def writeDlydat (s : State) (d : Nat) (v : Word) : State :=
  if selLegal s d && !flag s (hbmChAt d (fld s (dlysel d) 63 58)) 61 then
    let s := if bit v 63 then setFlag s (dlydat d) 63 false else s
    setHbm s { s.hbm with shadow := mset 0 s.hbm.shadow (selKey s d) (bits v 7 0) }
  else setFlag s (dlydat d) 63 true
def execHbmDlydat (d : Fin 4) (v : Word) (s : State) : Out := whenRunning s fun s => writeDlydat s d v

/-- The shadow delays of a pseudo-channel become active. -/
def applyDelays (s : State) (d ch pc : Nat) : State :=
  let k := (d * 64 + ch) * 2 + pc
  let act := s.hbm.active.filter (fun e => e.1 / 256 ≠ k)
  setHbm s { s.hbm with active := (s.hbm.shadow.filter (fun e => e.1 / 256 = k)).foldl (fun m e => mput m e.1 e.2) act }

/-- APPLY is set (R329). -/
def setApply (s : State) (d ch : Nat) : State :=
  if !chFitted s.part ch || flag s (hbmChAt d ch) 61 then s
  else if !chTrained s d ch then applyDelays (applyDelays s d ch 0) d ch 1
  else
    let s := setPc s d ch 0 { getPc s d ch 0 with applied := false }
    let s := setPc s d ch 1 { getPc s d ch 1 with applied := false }
    setFlag s (hbmChAt d ch) 61 true
def execApply (d : Fin 4) (ch : Fin 48) (s : State) : Out := whenRunning s fun s => setApply s d ch

/-- APPLY_AT_REFRESH (R329). -/
def execApplyAtRefresh (d : Fin 4) (ch : Fin 48) (pc : Fin 2) (s : State) : Out := whenRunning s fun s =>
  if flag s (hbmChAt d ch) 61 then
    let s := applyDelays (refreshAll s d ch pc) d ch pc
    let s := setPc s d ch pc { getPc s d ch pc with applied := true }
    if (getPc s d ch 0).applied && (getPc s d ch 1).applied then
      let s := setPc s d ch 0 { getPc s d ch 0 with applied := false }
      let s := setPc s d ch 1 { getPc s d ch 1 with applied := false }
      setFlag s (hbmChAt d ch) 61 false
    else s
  else s

/-! ### Bring-up (R322, R328) -/

/-- R339: before it sets TRAINED of a channel, firmware programs the repairs that it has recorded for it as hard repairs. -/
def hardRepairs (s : State) (d ch : Nat) : State :=
  setHbm s { s.hbm with hard := (s.hbm.recorded.filter (fun e => e.1 / 2 ^ 21 = d * 64 + ch)).foldl (fun m e => mput m e.1 e.2) s.hbm.hard }

/-- TRAINED is written (R328). -/
def setTrained (s : State) (d ch : Nat) (on : Bool) : State :=
  if !chFitted s.part ch then s
  else setFlag (if on && !chTrained s d ch then hardRepairs s d ch else s) (hbmChAt d ch) 63 on
def execTrained (d : Fin 4) (ch : Fin 48) (on : Bool) (s : State) : Out := whenRunning s fun s => setTrained s d ch on
/-- ZERO is set: ignored while TRAINED is 0. -/
def startZero (s : State) (d ch : Nat) : State :=
  if chFitted s.part ch && chTrained s d ch then setFlag s (hbmChAt d ch) 62 true else s
def execZero (d : Fin 4) (ch : Fin 48) (s : State) : Out := whenRunning s fun s => startZero s d ch

/-- The channel holds zeros with good check bytes. -/
def zeroChannel (h : Hbm) (k : Nat) : Hbm :=
  { h with mem := { bytes := h.mem.bytes.filter (fun e => e.1 / 2 ^ 31 ≠ k), poison := h.mem.poison.filter (fun e => e.1 / 2 ^ 25 ≠ k) },
           written := h.written.filter (fun e => e.1 / 2 ^ 26 ≠ k),
           weak := h.weak.filter (fun e => e.1 / 2 ^ 26 ≠ k), zeroed := mset false h.zeroed k true }
/-- ZERO_DONE (R328). -/
def execZeroDone (d : Fin 4) (ch : Fin 48) (s : State) : Out := whenRunning s fun s =>
  if chZeroing s d ch then setFlag (setHbm s (zeroChannel s.hbm (d * 64 + ch))) (hbmChAt d ch) 62 false else s

/-- LOCK (R322). -/
def execLock (s : State) : Out := whenRunning s fun s => setFlag s hbmMap 63 true

/-- HBM_CH: TRAINED, and the set-only ZERO and APPLY. -/
def writeHbmCh (s : State) (d ch : Nat) (v : Word) : State :=
  let s := setTrained s d ch (bit v 63)
  let s := if bit v 61 then setApply s d ch else s
  if bit v 62 then startZero s d ch else s

/-- HBM_MAP: on C0 only; GRAIN 9-15 and a locked map are left as they are; LOCK last. -/
def writeHbmMap (s : State) (d : Nat) (v : Word) : State :=
  if d ≠ 0 then s else
  let s := if bits v 62 59 ≤ 8 && !flag s hbmMap 63 then setFld s hbmMap 62 59 (bits v 62 59) else s
  if bit v 63 then setFlag s hbmMap 63 true else s
/-- HBM_HASH: on C0 only, while the map is not locked. -/
def writeHbmHash (s : State) (d a : Nat) (v : Word) : State :=
  if d ≠ 0 then s else wr s a (maskWrite (regInfo .hbmHash) (flag s hbmMap 63) (rd s a) v)

end Sys2Proof.Machine
end

