-- ==== Sys2Proof/Machine/LinkCore.lean ====
section
/-! DEFINITION. Fabric ports as the other parts see them: their registers, partners, directions and the ring they stand on
(R22, R343, R383, R384, R399, R402, R405). -/

namespace Sys2Proof.Machine
open Sys2Proof

def portKey (p : PortId) : Nat := p.shale.val * 8 + p.port.val
def getPort (s : State) (p : PortId) : Port := mget {} s.ports (portKey p)
def setPort (s : State) (p : PortId) (x : Port) : State := { s with ports := mset {} s.ports (portKey p) x }
def modPort (s : State) (p : PortId) (f : Port → Port) : State := setPort s p (f (getPort s p))

def pctl (p : PortId) : Nat := lkPortAt p.shale p.port 0
def pstat (p : PortId) : Nat := lkPortAt p.shale p.port 8
def perr (p : PortId) : Nat := lkPortAt p.shale p.port 0x10
def pinj (p : PortId) : Nat := lkPortAt p.shale p.port 0x18
def lctl (l : LaneId) : Nat := lkLaneAt l.shale l.lane 0
def lstat (l : LaneId) : Nat := lkLaneAt l.shale l.lane 8
def lerr (l : LaneId) : Nat := lkLaneAt l.shale l.lane 0x10

/-- The Shale die is fitted (R3). -/
def shaleFitted (s : State) (n : Nat) : Bool := n < s.part.shales

/-- STATE of LK_PSTAT: 0 DISABLED, 1 DETECT, 2 TRAIN, 3 LOCK, 4 DESKEW, 5 CAPEX, 6 ACTIVE, 7 SPARING, 8 DOWN, 9 TEST. -/
def portState (s : State) (p : PortId) : Nat := fld s (pstat p) 63 60
def setPortState (s : State) (p : PortId) (v : Nat) : State := setFld s (pstat p) 63 60 v
def partnerReady (s : State) (p : PortId) : Bool := flag s (pstat p) 59

/-- Every port of the fitted Shale dies. -/
def allPorts (s : State) : List PortId :=
  (List.finRange 4).flatMap (fun (d : Fin 4) => if shaleFitted s d then (List.finRange 8).map (fun (n : Fin 8) => ⟨d, n⟩) else [])

/-- R383: a torus port of S0. -/
def isTorus (p : PortId) : Bool := p.shale.val == 0
/-- R383: dimension 0 a, 1 b, 2 c, 3 d; and the direction, true for plus. -/
def portDim (p : PortId) : Nat := p.port.val / 2
def portPlus (p : PortId) : Bool := p.port.val % 2 == 0
/-- The torus port of a dimension and direction. -/
def torusPort (k : Fin 4) (plus : Bool) : PortId := ⟨0, ⟨2 * k.val + (if plus then 0 else 1), by split <;> omega⟩⟩
/-- R383: plane of an uplink port. -/
def planeOf (p : PortId) : Nat := 8 * (p.shale.val - 1) + p.port.val

/-- R343: coordinate k of a device number, and its pod. -/
def coord (dev k : Nat) : Nat := bitsN dev (11 - 3 * k) (9 - 3 * k)
def pod (dev : Nat) : Nat := bitsN dev 19 12
/-- R402: ring length of dimension k. -/
def ringLen (s : State) (k : Nat) : Nat := objN s 0x0A30 (k + 1)
/-- The device number with coordinate k replaced. -/
def setCoord (dev k v : Nat) : Nat := dev - coord dev k * 2 ^ (9 - 3 * k) + v % 8 * 2 ^ (9 - 3 * k)

/-- R343: the twin. -/
def twinOf (dev : Nat) : Nat := dev ^^^ 1
/-- R343: one step to a neighbouring coordinate. -/
def stepCoord (v len : Nat) : Nat := if v ^^^ 1 < len then v ^^^ 1 else v - 1
/-- R343: the witness of a pair by its even member. -/
def witnessOf (s : State) (dev : Nat) : Option Nat :=
  let e := dev / 2 * 2
  let d := coord e 3
  if 4 ≤ ringLen s 3 then some (setCoord e 3 (if d ^^^ 2 < ringLen s 3 then d ^^^ 2 else d - 2))
  else ([2, 1, 0].find? (fun k => 2 ≤ ringLen s k)).map (fun k => setCoord e k (stepCoord (coord e k) (ringLen s k)))

/-- R399: the port is ACTIVE with a READY partner, and not late with it (R395). -/
def portUsable (s : State) (p : PortId) : Bool := portState s p == 6 && partnerReady s p && !(getPort s p).readyLate

/-- The partner's device number, when the partner is a device. -/
def partnerDev (s : State) (p : PortId) : Option Nat :=
  match (getPort s p).partner with
  | some r => if r.switch then none else some r.device.toNat
  | none => none

/-- The port leads to the twin. -/
def toTwin (s : State) (p : PortId) : Bool := isTorus p && s.fabric.dev.isSome && partnerDev s p == some (twinOf (ownDev s))

/-- Raise the PORT event (R436). -/
def portEvent (s : State) (p : PortId) (status : Status) : State :=
  logEvent s 0x0041 (4 + p.shale.val) (16 * p.shale.val + p.port.val) 2 (portState s p + 16 * status)

/-- The port's four lanes and its pair's spare (R384). -/
def portLanes (p : PortId) : List LaneId := (List.finRange 4).map (fun i => ⟨p.shale, ⟨4 * p.port.val + i.val, by omega⟩⟩)
def spareLane (p : PortId) : LaneId := ⟨p.shale, ⟨32 + p.port.val / 2, by omega⟩⟩

end Sys2Proof.Machine
end

