-- ==== Sys2Proof/Machine/Freeze.lean ====
section
/-! DEFINITION. The Amber freeze, the thaw and the read-out while frozen (R288-R294, R404). -/

namespace Sys2Proof.Machine
open Sys2Proof

/-- The watchdog's register (R411, R438). -/
def wdogAt : Nat := csrAt 4 0xB00000

/-- R289, R404: the freeze message of a port: to the twin for a pair freeze, to every partner while HOPS is left. -/
def freezeMsg (s : State) (pair : Bool) (hops : Nat) (p : PortId) : List LinkMsg :=
  if portState s p ≠ 6 || (getPort s p).partner.isNone then []
  else if toTwin s p then (if pair || hops ≠ 0 then [.amber p pair (hops - 1)] else [])
  else if hops ≠ 0 then [.amber p false (hops - 1)] else []

/-- The regions of the package. -/
def allRegions : List RegionId := (List.finRange 4).flatMap (fun (d : Fin 4) => (List.finRange 16).map (fun (n : Fin 16) => ⟨d, n⟩))

/-- R288-R290: a trigger runs the stop sequence to FROZEN; during STOPPING and FROZEN it has no effect. -/
def freezeNow (s : State) (pair : Bool) (hops cause source : Nat) : State :=
  if amberState s ≠ 0 || !s.pins.pwrGood then s else
  let s := logEvent s 0x0060 4 0 2 (1 + 4 * cause)
  let s := objSetN (objSetN (objSetN s 0xF012 2 cause) 0xF012 3 (if pair then 1 else 0)) 0xF012 4 source
  let s := { s with linkOut := s.linkOut ++ (allPorts s).flatMap (freezeMsg s pair hops) }
  objSetN (setFlag s wdogAt 62 false) 0xF012 1 2

/-- AMBER_N (R288, R504): low for 40 ns triggers once boot step 2 is complete; high is noted. -/
def execAmberN (low : Bool) (s : State) : Out :=
  let s := { s with pins := { s.pins with amberN := !low } }
  .next (if low && 2 ≤ s.bootStep then freezeNow s (objN s 0xF011 2 == 1) (objN s 0xF011 3) 1 0 else s)

/-- FREEZE: a write to 0xF010.01 (R288). -/
def doFreeze (s : State) (v : Nat) : State :=
  if v = 1 ∨ v = 2 then freezeNow s (v == 2) (objN s 0xF010 3) 2 0 else s
def execFreeze (v : BitVec 8) (s : State) : Out := .next (doFreeze s v.toNat)

/-- R288, R294: whether ACCEPT takes a message. -/
def freezeAccepted (s : State) (p : PortId) (pair : Bool) : Bool :=
  match objN s 0xF011 1 with
  | 0 => toTwin s p && pair
  | 1 => toTwin s p
  | _ => (partnerDev s p).isSome

/-- A freeze message on a port (R288, R404); from the twin it is a pair freeze. -/
def doFreezeMessage (s : State) (p : PortId) (pair : Bool) (hops : Nat) : State :=
  if portState s p = 6 && freezeAccepted s p pair then
    freezeNow s (pair || toTwin s p) hops 3 ((partnerDev s p).getD 0)
  else s
def execFreezeMessage (port : PortId) (pair : Bool) (hops : Fin 8) (s : State) : Out := .next (doFreezeMessage s port pair hops)

/-- R290 (5), R292 (3): the HBM stacks are in self-refresh: from a freeze until its thaw. Contents stay, nothing is read. -/
def hbmSelfRefresh (s : State) : Bool := amberState s != 0
/-- R290 (7), R389: the transmitters of a port send electrical idle: from a freeze until its thaw, while the port is DISABLED or DOWN, and in
DETECT. -/
def electricalIdle (s : State) (p : PortId) : Bool := amberState s != 0 || portState s p ≤ 1 || portState s p == 8

/-- R292: lane bring-up starts again. -/
def restartPort (s : State) (p : PortId) : State :=
  let st := portState s p
  if 2 ≤ st ∧ st ≤ 7 then setFlag (setPortState s p 1) (pstat p) 59 false else s

/-- Every channel place of the package. -/
def allChannels : List (Nat × Nat) := (List.range 4).flatMap (fun d => (List.range 48).map (fun ch => (d, ch)))

/-- THAW (R292, R331): from FROZEN with AMBER_N high; the whole sequence. The watchdog rearms when it had been armed
(R411). -/
def doThaw (s : State) (v : Nat) : State :=
  if v ≠ 1 || amberState s ≠ 2 || !s.pins.amberN then s else
  let s := (allPorts s).foldl restartPort s
  let s := objSetN s 0xF012 1 0
  let s := allChannels.foldl (fun s c => recheckDue s c.1 c.2) s
  let s := { setFlag s wdogAt 62 (fabricReadyNow s) with beat := nowNs s 4 }
  logEvent s 0x0060 4 0 2 (3 + 4 * objN s 0xF012 2)
def execThaw (v : BitVec 8) (s : State) : Out := .next (doThaw s v.toNat)

/-! ### Read-out (R293) -/

/-- R97, R293: the image of a weight cell: packed Q4 codes, or a digit with its NaR tag. -/
def cellImage (m : SMap Elem) (mode i n : Nat) : Nat :=
  let e (k : Nat) : Elem := mget {} m (128 * k + n)
  let nib (k : Nat) : Nat := if (e k).nar then 8 else codeN 4 (e k).c
  if mode = 2 then nib (4 * i) + 16 * nib (4 * i + 1) + 256 * nib (4 * i + 2) + 4096 * nib (4 * i + 3)
  else if mode = 1 then nib (2 * i) + 16 * nib (2 * i + 1)
  else (if (e i).nar then 2 ^ 15 else codeN 9 (e i).c)

/-- A byte of the weight array's image. -/
def weightByte (m : SMap Elem) (mode o : Nat) : Byte :=
  BitVec.ofNat 8 (cellImage m mode (o / 2 / 128) (o / 2 % 128) / 256 ^ (o % 2))

/-- A byte of the block scales' image; that of 16-bit scales is not laid out (log 10). -/
def scaleImage (m : SMap Nat) (mode ctr o : Nat) : Byte :=
  if mode = 4 then BitVec.ofNat 8 (Config.free (ctr + o)).toNat else BitVec.ofNat 8 (mget 0 m o)

/-- A byte of a vector unit's image. -/
def vuByte (x : Tile) (o : Nat) : Byte :=
  let part (v : Nat) (i : Nat) : Byte := BitVec.ofNat 8 (v / 256 ^ i)
  if o < 0x10000 then part (lane x (o / 1024) (o % 1024 / 8)).toNat (o % 8)
  else if o < 0x10200 then
    let g := vtag x ((o - 0x10000) / 8)
    part (g.kind * 2 ^ 16 + codeN 16 g.scale) (o % 8)
  else if o < 0x10280 then part (sreg x ((o - 0x10200) / 8)).toNat (o % 8)
  else if o < 0x10300 then part (mreg x ((o - 0x10280) / 16)).toNat (o % 16)
  else (laImage (getLa x ((o - 0x10400) / 576))).getD ((o - 0x10400) % 576) 0

/-- A byte of the image of a control block: registers of the logical tile. -/
def blockByte (s : State) (t : TileId) (o : Nat) : Option Byte :=
  let base := if o < 0x13000 then stAt t + (o - 0x12000) else if o < 0x14000 then seTileAt t (o - 0x13000) else tpTileAt t (o - 0x14000)
  if (locate s.part (base / 8 * 8)).isSome then some (BitVec.ofNat 8 ((rd s (base / 8 * 8)).toNat / 256 ^ (base % 8))) else none

/-- What a byte of the read-out spaces gives: its value, or a status. -/
inductive RByte where
  | val (b : Byte) (poison : Bool)
  | err (e : Status)
  deriving DecidableEq, Repr

/-- A byte of a tile's image (R293); `o` is the offset less 0x80_0000 beyond the memories. -/
def tileRByte (s : State) (t : TileId) (a : Nat) : RByte :=
  let x := getTile s t
  if a < 0x800000 then
    (if windowMapped (isV t) a then .val (memByte x.mem a) (winPoison x (a / 64)) else .err stNocUnmapped)
  else
    let o := a - 0x800000
    if 0x12000 ≤ o ∧ o < 0x15000 then (match blockByte s t o with | some b => .val b false | none => .err stNocUnmapped)
    else if isV t then
      (if 0x10400 ≤ o ∧ o < 0x10400 + 576 * 8 then .val (vuByte x o) false
       else if o < 0x10300 then (if x.computeOn then .val (vuByte x o) false else .err stNocFenced)
       else .err stNocUnmapped)
    else if o < 0x11000 then
      (if !x.computeOn then .err stNocFenced
       else if o < 0x8000 then .val (weightByte x.weights x.wmode o) false
       else if o < 0x10000 then .val (weightByte x.shadow x.smode (o - 0x8000)) false
       else if o < 0x10800 then .val (scaleImage x.wscales x.wmode s.freeCtr (o - 0x10000)) false
       else .val (scaleImage x.sscales x.smode (s.freeCtr + 0x800) (o - 0x10800)) false)
    else .err stNocUnmapped

/-- R293, space 1: a physical tile that serves no logical tile has no power. -/
def space1 (s : State) (a : Nat) : RByte :=
  let d := a / 0x100000000; let e := a % 0x100000000 / 0x1000000
  if 4 ≤ d ∨ 102 ≤ e then .err stNocUnmapped
  else match tileOfEp s d e with
    | some t => tileRByte s t (a % 0x1000000)
    | none => .err stNocFenced

/-- R293, space 0. -/
def space0 (s : State) (a : Nat) : RByte :=
  let d := a / 0x40000000; let n := a % 0x40000000 / 0x4000000
  if h : d < 4 then
    if cfgMapped (a % 0x4000000) then
      let r : RegionId := ⟨⟨d, h⟩, ⟨n % 16, Nat.mod_lt _ (by decide)⟩⟩
      .val (cfgWindowByte s r (a % 0x4000000)) (cfgPoison s r (a % 0x4000000))
    else .err stNocUnmapped
  else .err stNocUnmapped

/-- The bytes with the first error, and whether one is poisoned. -/
def gather : List RByte → Status × List Byte × Bool
  | [] => (stOk, [], false)
  | .err e :: _ => (e, [], false)
  | .val b p :: r => let g := gather r; (g.1, if g.1 = stOk then b :: g.2.1 else [], p || g.2.2)

/-- R293: the read-out that 0xF020.01-.03 name: status and bytes. A LENGTH outside 8..1,024 or not a multiple of 8 and a
SPACE above 1 give nothing (log 26). -/
def readoutNow (s : State) : Status × List Byte :=
  let sp := objN s 0xF020 1; let off := objN s 0xF020 2; let n := objN s 0xF020 3
  if amberState s ≠ 2 then (stCfgState, [])
  else if 1 < sp then (stNocUnmapped, [])
  else if n < 8 ∨ 1024 < n ∨ n % 8 ≠ 0 then (stDictRange, [])
  else
    let g := gather ((List.range n).map (fun i => if sp = 0 then space0 s (off + i) else space1 s (off + i)))
    (if g.1 = stOk && g.2.2 then stPoison else g.1, g.2.1)

/-- R293: the read sets 0xF020.05; free bytes of an image are drawn. -/
def doReadout (s : State) : State × List Byte :=
  let r := readoutNow s
  let s := objSet (objSetN s 0xF020 5 r.1) 0xF020 4 r.2
  ({ s with freeCtr := s.freeCtr + 0x1000 }, r.2)

/-- READOUT (R293). -/
def execReadout (s : State) : Out := .next (doReadout s).1

end Sys2Proof.Machine
end

