-- ==== Sys2Proof/Machine/FabricCore.lean ====
section
/-! DEFINITION. The requester's side of the fabric memory space: peer contexts, ordering, sends, completions, copies and
command rings (R342-R361, R396). -/

namespace Sys2Proof.Machine
open Sys2Proof

def setFab (s : State) (f : Fabric) : State := { s with fabric := f }

/-- The device that a fabric address names (R342). -/
def addrDev (a : BitVec 64) : Nat := bits a 63 44
/-- Send a packet to another device, or to this one as a fabric request (R346, log 3). -/
def sendFabric (s : State) (dev : Nat) (p : Packet) : State := sendLink s (.fabric (BitVec.ofNat 20 dev) p)
/-- A fabric packet has arrived: it is no longer on its way. -/
def takeFabric (s : State) (p : Packet) : State := { s with linkOut := s.linkOut.erase (.fabric (BitVec.ofNat 20 (ownDev s)) p) }

/-! ### Tokens and contexts (R357, R361, R396) -/

def admitAt : Nat := lkAt 0 0x900
def tokens (s : State) : Nat := fld s admitAt 63 57
/-- The context of a peer, if one is open. -/
def ctxOfPeer (s : State) (dev : Nat) : Option PeerCtx := s.fabric.ctxs.find? (fun c => c.peer.toNat == dev)
/-- The lowest context number from i on that is not in use. -/
def freeCtx (used : List Nat) : Nat → Nat → Nat
  | 0, i => i
  | k + 1, i => if used.contains i then freeCtx used k (i + 1) else i
/-- R396: open a context for a new peer: it takes a token and one of the 8,192 contexts. -/
def openCtx (s : State) (dev : Nat) : Option State :=
  if (ctxOfPeer s dev).isSome then some s
  else if 8192 ≤ s.fabric.ctxs.length || tokens s = 0 then none
  else
    let used := s.fabric.ctxs.map (·.idx)
    let c : PeerCtx := { peer := BitVec.ofNat 20 dev, idx := freeCtx used used.length 0 }
    let s := setFab s { s.fabric with ctxs := s.fabric.ctxs ++ [c] }
    some (incFld (setFld s admitAt 63 57 (tokens s - 1)) admitAt 56 25)

/-- 0x0A02.04 (R357). -/
def incarnation (s : State) : Nat := objN s 0x0A02 4

/-! ### Requests (R347, R348, R355) -/

/-- R352: the fabric operation of an on-die request. -/
def fabOp (op : BitVec 8) : BitVec 8 :=
  if op = 0x01 then 0x40 else if op = 0x02 then 0x41 else if op = 0x20 then 0x44 else if op = 0x10 then 0x45
  else if op = 0x12 then 0x46 else if op = 0x11 then 0x47 else if op = 0x13 then 0x48 else if op = 0x15 then 0x49 else op

/-- R223, R347: the flit of a fabric signal: its two words. The on-die packet carries VALUE and OP in its opcode data and
the target in ADDR (log 13). -/
def signalFlit (p : Packet) : List Byte :=
  leBytes 8 (0x40 * 2 ^ 56 + p.od.aop.toNat * 2 ^ 53 + p.od.seq.toNat) ++ leBytes 8 p.addr.toNat ++ List.replicate 48 0

/-- An on-die request as the fabric request that carries it. -/
def toFabric (p : Packet) : Packet :=
  { p with op := fabOp p.op, vc := 0, data := if p.op = 0x20 then signalFlit p else p.data, dlv := false }

/-- The bytes at its home that a request reads or writes there: address and count. -/
def fabSpan (p : Packet) : Nat × Nat :=
  let n := if p.op = 0x40 ∨ p.op = 0x41 then pktLen p else if p.op = 0x42 then (if p.od.width then 8 else 4)
    else if p.op = 0x43 then leNat ((p.data.drop 8).take 4) else 0
  (offsetOf p, n)
/-- All the bytes of the device it is sent to that a request touches: those of `fabSpan`, and the destination of an FCOPY
when that lies on the same device (R351, R355). -/
def fabSpans (p : Packet) : List (Nat × Nat) :=
  let dst := leNat (p.data.take 8)
  fabSpan p :: (if p.op = 0x43 && dst / 2 ^ 44 == addrDev p.addr then [(dst % 2 ^ 44, (fabSpan p).2)] else [])
/-- Two requests to one device touch a common byte. -/
def fabTouch (p q : Packet) : Bool := (fabSpans p).any (fun a => (fabSpans q).any (fun b => overlaps a.1 a.2 b.1 b.2))

/-- R354: two requests have the same initiator: a stream context, a region endpoint, a ring, a tile sequencer, a copy. -/
def sameInitiator : FabOrigin → FabOrigin → Bool
  | .packet p, .packet q => p.src == q.src && (p.op == 0x20) == (q.op == 0x20) && p.snum == q.snum
  | .ring r _ _ _, .ring q _ _ _ => r == q
  | .copy a, .copy b => a == b
  | _, _ => false

/-- R355: an earlier outstanding request of its initiator holds the request back. -/
def heldBack (before : List FabReq) (r : FabReq) : Bool :=
  let mine := before.filter (fun e => sameInitiator e.origin r.origin)
  mine.any (fun e => e.pkt.od.ord.getLsbD 0 || (e.dev == r.dev && fabTouch e.pkt r.pkt))
    || (r.pkt.od.ord.getLsbD 1 && !mine.isEmpty)

/-- The context's next sequence number is taken. -/
def bumpSeq (cs : List PeerCtx) (dev : Nat) : List PeerCtx :=
  cs.map (fun c => if c.peer.toNat = dev then { c with nextSeq := c.nextSeq + 1 } else c)

/-- The first send of a waiting request, when order, context and token allow it (R355, R361, R396). -/
def fabTry (s : State) (r : FabReq) : State :=
  if r.sent || heldBack (s.fabric.outst.takeWhile (fun e => e.id != r.id)) r then s else
  match openCtx s r.dev.toNat with
  | none => s
  | some s =>
    match ctxOfPeer s r.dev.toNat with
    | none => s
    | some c =>
      let od := { r.pkt.od with seq := c.nextSeq, ctx := BitVec.ofNat 13 c.idx, retry := false, redir := false,
                                reqdev := BitVec.ofNat 20 (ownDev s), inc := BitVec.ofNat 32 (incarnation s) }
      let p := { r.pkt with od }
      let f := s.fabric
      let s := setFab s { f with ctxs := bumpSeq f.ctxs r.dev.toNat,
                                 outst := f.outst.map (fun e => if e.id = r.id then { e with pkt := p, sent := true, since := nowNs s 4 } else e) }
      sendFabric s r.dev.toNat p

/-- Send every waiting request that can be sent, in order. -/
def fabPump (s : State) : State := s.fabric.outst.foldl fabTry s

/-! ### Completions (R353, R359) -/

def cqRingAt (r : Nat) : Nat := fxAt 0 (0x400 + 16 * r)
def cqdbAt (r : Nat) : Nat := fxAt 0 (0x408 + 16 * r)
def getRing (s : State) (r : Nat) : Ring := mget {} s.fabric.rings r
def setRing (s : State) (r : Nat) (x : Ring) : State := setFab s { s.fabric with rings := mset {} s.fabric.rings r x }

/-- R353: the descriptor has been written: it is no longer outstanding, and the interrupt is raised. -/
def ringEnd (s : State) (j : RingJob) : State :=
  let s := setRing s j.r { outst := (getRing s j.r).outst - 1 }
  if j.irq then sendIrq s (nodeOf 4 1) (fld s (cqRingAt j.r) 57 48) else s

/-- R353, R365: a write of a Shale engine for a ring, and what follows it: at once, or with MIRROR_ACK for a mirrored range. -/
def ringWrite (s : State) (j : RingJob) (stage a : Nat) (d : List Byte) (mask : Nat) (next : State → State) : State :=
  let w := { ownWrite a d with poison := BitVec.ofNat 4 mask }
  let s := hbmStore s w none
  if ackWaits s a then awaitAck s w (.ring j stage) else next s

/-- R353: word 6 with DONE and STATUS, then the end. -/
def ringDone (s : State) (j : RingJob) : State :=
  ringWrite s j 2 (j.entry + 48) (leBytes 8 (2 ^ 63 + j.status * 2 ^ 48)) 0 fun s => ringEnd s j
/-- R353: word 5, RESULT, then word 6. -/
def ringResult (s : State) (j : RingJob) : State :=
  ringWrite s j 1 (j.entry + 40) (leBytes 8 j.result) 0 fun s => ringDone s j
/-- A write of the ring has been acknowledged. -/
def ringAcked (s : State) (j : RingJob) : Nat → State
  | 0 => ringResult s j
  | 1 => ringDone s j
  | _ => ringEnd s j

/-- The status ended with usable data. -/
def goodStatus (e : Status) : Bool := e == stOk || e == stPoison || e == stTwinTakeover

/-- R353: a ring's operation has completed: FREAD data to the local buffer, then the descriptor. -/
def ringAnswer (s : State) (r entry : Nat) (irq : Bool) (laddr : Nat) (req resp : Packet) (status : Status) : State :=
  let rd := req.op == 0x40 && goodStatus status
  let e := if rd then rangeRefusal s .host laddr resp.data.length else 0
  let result := if req.op = 0x42 ∨ req.op = 0x43 then leNat (resp.data.take 8) else 0
  let j : RingJob := { r, entry, irq, status := if e ≠ 0 then e else status, result }
  if rd && e = 0 then ringWrite s j 0 laddr resp.data resp.poison.toNat fun s => ringResult s j else ringResult s j

/-- R323: what an answer writes into local HBM can be written now; else the answer waits at the engine. -/
def answerFree (s : State) (r : FabReq) (resp : Packet) : Bool :=
  match r.origin with
  | .ring _ entry _ la => hbmFree s entry 64 && (r.pkt.op != 0x40 || hbmFree s la resp.data.length)
  | _ => true

/-- R359: what a completed request gives its initiator on the package; CREDIT and GRANT have no response (R301). -/
def fabAnswer (s : State) (o : FabOrigin) (req resp : Packet) (status : Status) : State :=
  match o with
  | .packet p =>
    if p.op = 0x11 ∨ p.op = 0x13 then s
    else sendPkt s (response p status resp.data resp.poison.toNat)
  | .ring r e irq la => ringAnswer s r e irq la req resp status
  | .copy _ => s

/-- A request enters the engine: before Fabric Ready it completes BOOTING; a full engine (R357) takes none. -/
def fabIssue (s : State) (o : FabOrigin) (p : Packet) (dev : Nat) : State :=
  if !fabricReadyNow s then fabAnswer s o p { op := p.op } stBooting
  else
    let f := s.fabric
    fabPump (setFab s { f with nextId := f.nextId + 1,
                               outst := f.outst ++ [{ id := f.nextId, origin := o, pkt := p, dev := BitVec.ofNat 20 dev }] })

/-- R179, R357: the engines hold fewer than 65,536 requests. -/
def fabRoom (s : State) : Bool := s.fabric.outst.length < 65536

/-- A fabric request of an initiator on the package arrives at its Shale engine (R174, R352). -/
def fabAccept (s : State) (p : Packet) : State :=
  if !fabRoom s then s
  else fabIssue (takePkt s p) (.packet p) (toFabric p) (addrDev p.addr)

/-! ### The home's answer -/

/-- A response to a fabric request. -/
def fabReply (s : State) (p : Packet) (status : Status) (data : List Byte) (poison : Nat) : State :=
  sendFabric s p.od.reqdev.toNat (response p status data poison)

def keyOf (p : Packet) : DedupKey := { dev := p.od.reqdev, inc := p.od.inc, ctx := p.od.ctx, seq := p.od.seq }
def findRec (s : State) (k : DedupKey) : Option DedupRec := s.fabric.recs.find? (fun r => r.key == k)
/-- R358: keep the record of an executed request. -/
def keepRec (s : State) (r : DedupRec) : State := setFab s { s.fabric with recs := s.fabric.recs ++ [r] }

/-! ### Reading and writing at the home (R34, R349, R367, R372, R377) -/

/-- The device serves its partner's addresses (R372). -/
def servesPartner (s : State) (p : Packet) : Bool := addrDev p.addr == twinOf (ownDev s) && twinState s == 3

/-- The status that refuses n bytes at an offset to a remote request: R34; for the partner's device number the copies it
owned, and HOME_LOST for the rest. -/
def remoteScreen (s : State) (cover : Bool) (a n : Nat) : Status :=
  if userEnd s.part < a + n then stNocDenied
  else if cover then
    (match mirOf s a with
     | some m => if mirOwner s m = parity s then stHomeLost else lowestOf [portRefusal s .remote a, portRefusal s .remote (a + n - 1)]
     | none => stHomeLost)
  else rangeRefusal s .remote a n

/-! ### Copies (R351) -/

/-- Bytes of the copy's next write. -/
def copyPiece (c : Copy) : Nat := min (min (256 - (c.src + c.done) % 256) (256 - (c.dst + c.done) % 256)) (c.len - c.done)
/-- Writes of the copy in flight. -/
def copyFlight (s : State) (id : Nat) : Nat := (s.fabric.outst.filter (fun r => r.origin == .copy id)).length
def setCopy (s : State) (c : Copy) : State :=
  setFab s { s.fabric with copies := s.fabric.copies.map (fun x => if x.id = c.id then c else x) }
def lowerStatus (a b : Status) : Status := if a = 0 then b else if b = 0 then a else min a b
/-- The source of the copy's next write at this device. -/
def copySrc (c : Copy) : Nat := (c.src + c.done) % 2 ^ 44

/-- Issue the copy's next write: relaxed, of up to 256 bytes. A source that cannot be read ends the copy's writes. -/
def copyNext (s : State) (c : Copy) : State :=
  let n := copyPiece c
  let e := remoteScreen s (servesPartner s c.req) (copySrc c) n
  if e ≠ 0 then setCopy s { c with done := c.len, err := lowerStatus c.err e }
  else
    let r := hbmRead s (copySrc c) n
    let s := setCopy r.1 { c with done := c.done + n }
    let p : Packet := { op := 0x41, len := n, nflit := BitVec.ofNat 3 (cdiv n 64), fab := true,
                        poison := BitVec.ofNat 4 r.2.2, addr := BitVec.ofNat 64 (c.dst + c.done), data := r.2.1 }
    fabIssue s (.copy c.id) p (addrDev p.addr)

/-- Keep up to 64 writes in flight, as the source's memory port and the engine allow (R323, R351, R357). -/
def copyFill (id : Nat) : Nat → State → State
  | 0, s => s
  | k + 1, s =>
    match s.fabric.copies.find? (fun c => c.id == id) with
    | none => s
    | some c =>
      if c.done < c.len && copyFlight s id < 64 && fabRoom s && hbmFree s (copySrc c) (copyPiece c) then copyFill id k (copyNext s c) else s

/-- R351: the copy completes when every write has completed; its record is kept and the response carries the bytes written. -/
def copyCheck (s : State) (id : Nat) : State :=
  match s.fabric.copies.find? (fun c => c.id == id) with
  | none => s
  | some c =>
    if c.done < c.len || 0 < copyFlight s id then s else
    let st := if servesPartner s c.req then lowerStatus c.err stTwinTakeover else c.err
    let data := leBytes 8 c.acked
    let s := setFab s { s.fabric with copies := s.fabric.copies.filter (fun x => x.id != id) }
    fabReply (keepRec s { key := c.key, status := BitVec.ofNat 8 st, data }) c.req st data 0

/-- A copy's write has completed. -/
def copyAnswered (s : State) (id n : Nat) (status : Status) : State :=
  match s.fabric.copies.find? (fun c => c.id == id) with
  | none => s
  | some c =>
    let s := setCopy s { c with acked := c.acked + (if goodStatus status then n else 0),
                                err := if goodStatus status && status != stPoison then c.err else lowerStatus c.err status }
    copyCheck (copyFill id 64 s) id

/-- Copies go on as their sources come free (R323, R351). -/
def copyPump (s : State) : State := s.fabric.copies.foldl (fun s c => copyCheck (copyFill c.id 64 s) c.id) s

/-- R359: a request completes: it is no longer outstanding, its initiator has the outcome, and waiting requests go on. -/
def fabComplete (s : State) (r : FabReq) (resp : Packet) (status : Status) : State :=
  let s := setFab s { s.fabric with outst := s.fabric.outst.filter (fun e => e.id != r.id) }
  let s := match r.origin with
    | .copy id => copyAnswered s id r.pkt.data.length status
    | o => fabAnswer s o r.pkt resp status
  fabPump s

end Sys2Proof.Machine
end

