-- ==== Sys2Proof/Machine/Fabric.lean ====
section
/-! DEFINITION. The home's side of the fabric operations, the requester's timers, and the command rings (R346-R361, R370,
R372, R396). -/

namespace Sys2Proof.Machine
open Sys2Proof

/-! ### Arrival at a home -/

/-- What a device does with a request for a device number (R367, R370, R372, R373). -/
inductive HomeVerdict where
  | serve (cover : Bool) | forward | relay | hold | drop
  deriving DecidableEq, Repr

/-- A heartbeat path to the partner is up (R370). -/
def pathUp (s : State) : Bool := flag s (fxAt 0 8) 28 || flag s (fxAt 0 8) 27

def homeVerdict (s : State) (p : Packet) : HomeVerdict :=
  let h := addrDev p.addr; let st := twinState s
  if s.fabric.dev.isNone || !fabricReadyNow s then .drop
  else if h = ownDev s then
    (if st = 1 ∨ st = 2 ∨ st = 3 then (if s.twin.yielding then .forward else .serve false)
     else if st = 4 then .forward else .drop)
  else if h = twinOf (ownDev s) then
    (if st = 3 then .serve true else if st = 2 then (if pathUp s then .relay else .hold) else .drop)
  else .drop

/-- R357: the newest incarnation of the requester; none when the request carries an older one. -/
def incCheck (s : State) (p : Packet) : Option State :=
  let f := s.fabric
  match mfind f.incs p.od.reqdev.toNat with
  | some i =>
    if p.od.inc.toNat < i.toNat then none
    else if i.toNat < p.od.inc.toNat then
      some (setFab s { f with incs := mput f.incs p.od.reqdev.toNat p.od.inc, recs := f.recs.filter (fun r => r.key.dev != p.od.reqdev) })
    else some s
  | none => some (setFab s { f with incs := mput f.incs p.od.reqdev.toNat p.od.inc })

/-- What an executed operation gives: status, data, POISON bits; and whether its response waits for MIRROR_ACK. -/
structure Done where
  st   : State
  code : Status := stOk
  data : List Byte := []
  poison : Nat := 0
  waits : Bool := false

/-- R358: a record is free, those that copies in execution will take set aside. -/
def recRoom (s : State) : Bool := s.fabric.recs.length + s.fabric.copies.length < 262144

/-- R36, R371: what a covering device serves for its partner completes TWIN_TAKEOVER; HOME_LOST stays. -/
def coverStatus (cover : Bool) (e : Status) : Status :=
  if cover && e != stHomeLost then lowerStatus e stTwinTakeover else e

/-- An executed request: its record is kept when it is marked, and it is answered, or waits for MIRROR_ACK (R358, R365). -/
def finishHome (p : Packet) (marked cover : Bool) (d : Done) : State :=
  let e := coverStatus cover d.code
  let s := if marked then keepRec d.st { key := keyOf p, status := BitVec.ofNat 8 e, data := d.data } else d.st
  if d.waits then awaitAck s p (.packet p)
  else fabReply s p e d.data d.poison

/-- R358: the key is being executed: a copy in progress, or a write that waits for MIRROR_ACK. -/
def inProgress (s : State) (p : Packet) : Bool :=
  s.fabric.copies.any (fun c => c.key == keyOf p) || s.twin.waitAck.any (fun w => w.1.op.toNat ≥ 0x40 && keyOf w.1 == keyOf p)

/-- R396: a peer without a context at the home takes a token; none when it cannot. -/
def admitPeer (s : State) (p : Packet) : Option State :=
  if p.od.reqdev.toNat = ownDev s then some s else openCtx s p.od.reqdev.toNat

/-- A fabric request at its home: incarnation, saved response, admission, room for the record, execution (R357, R358, R370,
R396). `body` executes it; none when it has to wait for the memory port (R324). -/
def homeServe (s : State) (p : Packet) (marked cover : Bool) (body : State → Option Done) : State :=
  match incCheck s p with
  | none => s
  | some s =>
    match (if marked then findRec s (keyOf p) else none) with
    | some r => if inProgress s p then s else fabReply s p r.status.toNat r.data 0
    | none =>
      if inProgress s p then s else
      match admitPeer s p with
      | none => fabReply (incFld s admitAt 24 9) p stAdmitWait [] 0
      | some s =>
        if marked && !recRoom s then setFab s { s.fabric with heldReq := s.fabric.heldReq ++ [p] }
        else match body s with
          | none => s
          | some d => finishHome p marked cover d

/-- The memory port cannot take the request yet (R323, R324, R328, R338); the pieces of an FCOPY wait one by one (`copyFill`). -/
def portBusy (s : State) (p : Packet) : Bool :=
  p.op != 0x43 && offsetOf p + (fabSpan p).2 ≤ userEnd s.part && !hbmFree s (offsetOf p) (fabSpan p).2

/-- A request that arrives at this device: served, sent on to the twin, relayed, held or dropped. -/
def arrive (s : State) (p : Packet) (marked : Bool) (body : Bool → State → Option Done) : State :=
  match homeVerdict s p with
  | .serve cover => if portBusy s p then s else homeServe (takeFabric s p) p marked cover (body cover)
  | .forward => sendFabric (takeFabric s p) (twinOf (ownDev s)) { p with od := { p.od with redir := true } }
  | .relay => sendFabric (takeFabric s p) (addrDev p.addr) p
  | .hold => let s := takeFabric s p; { s with twin := { s.twin with held := s.twin.held ++ [p] } }
  | .drop => takeFabric s p

/-! ### Operations (R349-R352) -/

def refused (s : State) (e : Status) : Option Done := some { st := s, code := e }

/-- What a home finds wrong with a request, 0 when nothing is: a malformed operation (R349, R350) and the screen of its address
are detected together, and the lowest code counts (R37; log 100). -/
def homeCheck (s : State) (cover : Bool) (malformed : Bool) (a n : Nat) : Status :=
  lowestOf [if malformed then stFabricRefused else 0, remoteScreen s cover a n]

/-- FREAD (R349). -/
def freadBody (p : Packet) (cover : Bool) (s : State) : Option Done :=
  let a := offsetOf p
  let e := homeCheck s cover (!sizeLegal a p.len) a p.len
  if e ≠ 0 then refused s e
  else
    let r := hbmRead s a p.len
    some { st := r.1, code := if r.2.2 = 0 then stOk else stPoison, data := r.2.1, poison := r.2.2 }

/-- A write at the home with the record that goes to the twin (R365). -/
def homeStore (s : State) (p : Packet) (a : Nat) (d : List Byte) (mask : Nat) (code : Status) (data : List Byte) : Done :=
  let w : Packet := { p with op := 0x02, len := d.length, addr := BitVec.ofNat 64 a, data := d, poison := BitVec.ofNat 4 mask }
  { st := hbmStore s w (some { key := keyOf p, status := BitVec.ofNat 8 code, data }), code, data, waits := ackWaits s a }

/-- FWRITE (R349). -/
def fwriteBody (p : Packet) (cover : Bool) (s : State) : Option Done :=
  let a := offsetOf p; let n := p.data.length
  let e := homeCheck s cover (!sizeLegal a n) a n
  if e ≠ 0 then refused s e else some (homeStore s p a p.data p.poison.toNat stOk [])

/-- R350: the new value of an atomic, none for a reserved AOP; `none` inside: nothing is stored. -/
def atomicNew (aop w old opr cmp : Nat) : Option (Option Nat) :=
  let sg (x : Nat) : Int := sextN (8 * w) x
  match aop with
  | 0 => some (some ((old + opr) % 2 ^ (8 * w)))
  | 1 => some (some (old &&& opr))
  | 2 => some (some (old ||| opr))
  | 3 => some (some (old ^^^ opr))
  | 4 => some (some opr)
  | 5 => some (if old = cmp then some opr else none)
  | 6 => some (some (if sg old < sg opr then opr else old))
  | 7 => some (some (if sg opr < sg old then opr else old))
  | 8 => some (some (max old opr))
  | 9 => some (some (min old opr))
  | _ => none

/-- FATOMIC (R350): one merge at the memory port. -/
def fatomicBody (p : Packet) (cover : Bool) (s : State) : Option Done :=
  let a := offsetOf p; let w := if p.od.width then 8 else 4
  let e := homeCheck s cover (a % w ≠ 0 ∨ 9 < p.od.aop.toNat) a w
  if e ≠ 0 then refused s e
  else
    let r := hbmRead s a w
    if r.2.2 ≠ 0 then refused r.1 stPoison
    else
      match atomicNew p.od.aop.toNat w (leNat r.2.1) (leNat (p.data.take w)) (leNat ((p.data.drop 8).take w)) with
      | none => refused s stFabricRefused
      | some none => some { st := r.1, data := r.2.1 }
      | some (some v) => some (homeStore r.1 p a (leBytes w v) 0 stOk r.2.1)

/-- FREAD, FWRITE, FATOMIC at this device. -/
def doFread (s : State) (p : Packet) : State := arrive s p false (freadBody p)
def doFwrite (s : State) (p : Packet) : State := arrive s p true (fwriteBody p)
def doFatomic (s : State) (p : Packet) : State := arrive s p true (fatomicBody p)
def execFread (p : Packet) (s : State) : Out := whenRunning s fun s => if p.op = 0x40 then doFread s p else s
def execFwrite (p : Packet) (s : State) : Out := whenRunning s fun s => if p.op = 0x41 then doFwrite s p else s
def execFatomic (p : Packet) (s : State) : Out := whenRunning s fun s => if p.op = 0x42 then doFatomic s p else s

/-- FCOPY (R351): a malformed length or a source outside user HBM is refused; else the copy runs, and its response comes
when it ends. -/
def copyStart (s : State) (p : Packet) (cover : Bool) : State :=
  let len := leNat ((p.data.drop 8).take 4)
  let src := offsetOf p
  let e := lowestOf [if len = 0 ∨ 2 ^ 30 < len then stFabricRefused else 0, if userEnd s.part < src + len then stNocDenied else 0]
  if e ≠ 0 then finishHome p true cover { st := s, code := e }
  else
    let f := s.fabric
    let c : Copy := { id := f.nextId, key := keyOf p, req := p, src, dst := leNat (p.data.take 8), len, done := 0, acked := 0 }
    copyCheck (copyFill c.id 64 (setFab s { f with nextId := f.nextId + 1, copies := f.copies ++ [c] })) c.id

/-- FCOPY's arrival: as `arrive`, its execution being the copy. -/
def doFcopy (s : State) (p : Packet) : State :=
  match homeVerdict s p with
  | .serve cover =>
    (match incCheck (takeFabric s p) p with
     | none => takeFabric s p
     | some s =>
       match findRec s (keyOf p) with
       | some r => fabReply s p r.status.toNat r.data 0
       | none =>
         if inProgress s p then s else
         match admitPeer s p with
         | none => fabReply (incFld s admitAt 24 9) p stAdmitWait [] 0
         | some s =>
           if !recRoom s then setFab s { s.fabric with heldReq := s.fabric.heldReq ++ [p] } else copyStart s p cover)
  | _ => arrive s p true (fun _ _ => none)
def execFcopy (p : Packet) (s : State) : Out := whenRunning s fun s => if p.op = 0x43 then doFcopy s p else s

/-- R223: a counter operation of a signal's two words at a tile of this device. -/
def signalAt (s : State) (w0 w1 : Word) : Status × State :=
  if h : bits w1 39 33 < 96 then
    let t : TileId := ⟨⟨bits w1 41 40, by unfold bits bitsN; exact Nat.mod_lt _ (by decide)⟩, ⟨bits w1 39 33, h⟩⟩
    let a := ctrAt t (bits w1 32 27)
    let c := fld s a 31 0; let v := bits w0 31 0
    let d := sub32 v c
    let n := if bits w0 54 53 = 1 then (if 1 ≤ d ∧ d < 2 ^ 31 then v else c) else (c + v) % 2 ^ 32
    (stOk, setFld s a 31 0 n)
  else (stNocUnmapped, s)

/-- FSIGNAL (R352); a signal to the partner's tiles is lost with them (R372). -/
def fsignalBody (p : Packet) (cover : Bool) (s : State) : Option Done :=
  if cover then refused s stHomeLost
  else
    let r := signalAt s (BitVec.ofNat 64 (leNat (p.data.take 8))) (BitVec.ofNat 64 (leNat ((p.data.drop 8).take 8)))
    some { st := r.2, code := r.1 }
def doFsignal (s : State) (p : Packet) : State := arrive s p true (fsignalBody p)
def execFsignal (p : Packet) (s : State) : Out := whenRunning s fun s => if p.op = 0x44 then doFsignal s p else s

/-- A queue exchange between devices (R352); with the partner's endpoints it is lost (R372). -/
def queueBody (f : State → Packet → Status × State) (p : Packet) (cover : Bool) (s : State) : Option Done :=
  if cover then refused s stHomeLost else let r := f s p; some { st := r.2, code := r.1 }

def doFpush (s : State) (p : Packet) : State := arrive s p true (queueBody pushAt p)
def doFreserve (s : State) (p : Packet) : State := arrive s p true (queueBody reserveAt p)
def doFcredit (s : State) (p : Packet) : State := arrive s p true (queueBody (fun s p => (stOk, creditAt s p)) p)
def doFgrant (s : State) (p : Packet) : State := arrive s p true (queueBody (fun s p => (stOk, grantAt s p)) p)
def doFendmark (s : State) (p : Packet) : State := arrive s p true (queueBody endmarkAt p)
def execFpush (p : Packet) (s : State) : Out := whenRunning s fun s => if p.op = 0x45 then doFpush s p else s
def execFreserve (p : Packet) (s : State) : Out := whenRunning s fun s => if p.op = 0x46 then doFreserve s p else s
def execFcredit (p : Packet) (s : State) : Out := whenRunning s fun s => if p.op = 0x47 then doFcredit s p else s
def execFgrant (p : Packet) (s : State) : Out := whenRunning s fun s => if p.op = 0x48 then doFgrant s p else s
def execFendmark (p : Packet) (s : State) : Out := whenRunning s fun s => if p.op = 0x49 then doFendmark s p else s

/-- Any fabric request at its home. -/
def fabricArrives (s : State) (p : Packet) : State :=
  match p.op.toNat with
  | 0x40 => doFread s p
  | 0x41 => doFwrite s p
  | 0x42 => doFatomic s p
  | 0x43 => doFcopy s p
  | 0x44 => doFsignal s p
  | 0x45 => doFpush s p
  | 0x46 => doFreserve s p
  | 0x47 => doFcredit s p
  | 0x48 => doFgrant s p
  | 0x49 => doFendmark s p
  | _ => s

/-- RECORD_EXPIRY (R358): the record is gone; requests held for want of one are served in arrival order. -/
def execRecordExpiry (key : DedupKey) (s : State) : Out := whenRunning s fun s =>
  let f := s.fabric
  let held := f.heldReq
  let s := setFab s { f with recs := f.recs.filter (fun r => r.key != key), heldReq := [] }
  held.foldl fabricArrives s

/-! ### The requester (R359, R361, R396) -/

/-- The outstanding request that a response answers. -/
def answered (s : State) (p : Packet) : Option FabReq :=
  s.fabric.outst.find? (fun r => r.sent && r.pkt.od.ctx == p.od.ctx && r.pkt.od.seq == p.od.seq && r.pkt.od.inc == p.od.inc
    && (r.pkt.op ||| 0x80) == p.op)

/-- FABRIC_RESPONSE (R359): ADMIT_WAIT is no completion (R396). -/
def execFabricResponse (p : Packet) (s : State) : Out := whenRunning s fun s =>
  let s := takeFabric s p
  match answered s p with
  | none => s
  | some r =>
    if p.status.toNat = stAdmitWait then s
    else if !answerFree s r p then sendFabric s (ownDev s) p
    else fabComplete s r p p.status.toNat

/-- ADMIT_WAIT (R396): the request stays outstanding; one sent at most 100 us earlier (AGE in units of 250 ns) restarts its
FTIMEOUT, an older one is discarded. The resend is FABRIC_RETRY (log 4). -/
def execAdmitWait (p : Packet) (age : Nat) (s : State) : Out := whenRunning s fun s =>
  let s := takeFabric s p
  match answered s p with
  | none => s
  | some r =>
    if p.status.toNat = stAdmitWait && age ≤ 400 then
      setFab s { s.fabric with outst := s.fabric.outst.map (fun e => if e.id = r.id then { e with since := nowNs s 4 } else e) }
    else s

def findReq (s : State) (id : Nat) : Option FabReq := s.fabric.outst.find? (fun r => r.id == id)

/-- FABRIC_RETRY (R359): the same key, RETRY = 1. -/
def execFabricRetry (id : Nat) (s : State) : Out := whenRunning s fun s =>
  match findReq s id with
  | some r => if r.sent then sendFabric s r.dev.toNat { r.pkt with od := { r.pkt.od with retry := true } } else s
  | none => s

/-- FABRIC_TIMEOUT (R359, R361): from the first send, or while no context is free. -/
def execFabricTimeout (id : Nat) (s : State) : Out := whenRunning s fun s =>
  match findReq s id with
  | some r =>
    if (r.sent || (8192 ≤ s.fabric.ctxs.length && (ctxOfPeer s r.dev.toNat).isNone)) && answerFree s r {op := r.pkt.op} then
      fabComplete s r { op := r.pkt.op } stFabricTimeout
    else s
  | none => s

/-- HOLD_LIMIT (R396): 10 ms after the first send, or from the start of the wait for a token. -/
def execHoldLimit (id : Nat) (s : State) : Out := whenRunning s fun s =>
  match findReq s id with
  | some r =>
    if (r.sent || (ctxOfPeer s r.dev.toNat).isNone) && answerFree s r {op := r.pkt.op} then fabComplete s r { op := r.pkt.op } stFabricTimeout else s
  | none => s

/-- TOKEN_GAIN (R396). -/
def execTokenGain (s : State) : Out := whenRunning s fun s =>
  if fabricReadyNow s then fabPump (setFld s admitAt 63 57 (min 96 (tokens s + 1))) else s

/-- CONTEXT_REUSE (R361). -/
def execContextReuse (peer : BitVec 20) (s : State) : Out := whenRunning s fun s =>
  let f := s.fabric
  if f.outst.any (fun r => r.dev == peer && r.sent) then s
  else fabPump (setFab s { f with ctxs := f.ctxs.filter (fun c => c.peer != peer) })

/-! ### Command rings (R353) -/

def ringOn (s : State) (r : Nat) : Bool := flag s (cqRingAt r) 63
def ringLog2 (s : State) (r : Nat) : Nat := fld s (cqRingAt r) 62 58
def ringHead (s : State) (r : Nat) : Nat := fld s (cqdbAt r) 63 32
def ringTail (s : State) (r : Nat) : Nat := fld s (cqdbAt r) 31 0
/-- A write that the fabric block ignores (R380). -/
def fxErr (s : State) : State := setFlag s (fxAt 0 0) 35 true

/-- TAIL of a ring, under the rules of R204. -/
def setRingTail (s : State) (r v : Nat) : State :=
  if 2 ^ ringLog2 s r < sub32 v (ringHead s r) || !ringOn s r then fxErr s else setFld s (cqdbAt r) 31 0 v
/-- FX_CQDB (R353). -/
def execFxCqdb (ring : Fin 16) (v : Word) (s : State) : Out := whenRunning s fun s => setRingTail s ring (bits v 31 0)

/-- The address of the descriptor at HEAD. -/
def descAt (s : State) (r : Nat) : Nat :=
  fld s (cqRingAt r) 47 6 * 64 + ringHead s r % 2 ^ ringLog2 s r * 64

/-- R353: a descriptor that completes FABRIC_REFUSED. -/
def descRefused (s : State) (w : List Word) : Bool :=
  let w0 := w.getD 0 0; let op := bits w0 63 56; let len := bits w0 31 0; let la := (w.getD 2 0).toNat
  let w6 := w.getD 6 0
  bits w0 47 32 != 0 || bits w6 62 56 != 0 || bits w6 47 0 != 0
    || (if op = 0x40 ∨ op = 0x41 then
          !(1 ≤ len && len ≤ 256) || !((la + len ≤ userEnd s.part) || (fwEnd s.part ≤ la && la + len ≤ carveEnd s.part))
        else if op = 0x43 then !(1 ≤ len && len ≤ 2 ^ 30)
        else if op = 0x42 ∨ op = 0x4F then len != 0
        else true)

/-- The fabric request of a descriptor, with the state after its local read. -/
def descRequest (s : State) (w : List Word) : State × Packet × Status :=
  let w0 := w.getD 0 0; let op := bits w0 63 56; let len := bits w0 31 0
  let fa := w.getD 1 0; let la := w.getD 2 0
  let od : OpData := { ord := BitVec.ofNat 2 (bits w0 55 54), aop := BitVec.ofNat 4 (bits w0 53 50), width := bit w0 49 }
  let p : Packet := { op := BitVec.ofNat 8 op, fab := true, src := nodeOf 4 1, addr := fa, len := if op = 0x40 then len else 0, od }
  if op = 0x41 then
    let e := rangeRefusal s .host la.toNat len
    if e ≠ 0 then (s, p, e)
    else
      let r := hbmRead s la.toNat len
      (r.1, { p with len, nflit := BitVec.ofNat 3 (cdiv len 64), poison := BitVec.ofNat 4 r.2.2, data := r.2.1 }, 0)
  else if op = 0x42 then
    (s, { p with nflit := 1, data := leBytes 8 (w.getD 3 0).toNat ++ leBytes 8 (w.getD 4 0).toNat ++ List.replicate 48 0 }, 0)
  else if op = 0x43 then
    (s, { p with nflit := 1, addr := la, data := leBytes 8 fa.toNat ++ leBytes 4 len ++ List.replicate 52 0 }, 0)
  else (s, p, 0)

/-- DESCRIPTOR (R353): the ring takes its next descriptor; FENCE waits for every earlier one. -/
def execDescriptor (ring : Fin 16) (s : State) : Out := whenRunning s fun s =>
  let r : Nat := ring
  let n := (getRing s r).outst
  let a := descAt s r
  if !ringOn s r || ringHead s r == ringTail s r || 64 ≤ n || !inSeqRange s.part a 64 || hbmRefusal s .host a != 0
      || !hbmFree s a 64 || !fabRoom s then s else
  let rd := hbmRead s a 64
  let w := (List.range 8).map (fun i => BitVec.ofNat 64 (leNat ((rd.2.1.drop (8 * i)).take 8)))
  let op := bits (w.getD 0 0) 63 56; let irq := bit (w.getD 0 0) 48
  let next := setRing (setFld rd.1 (cqdbAt r) 63 32 (ringHead s r + 1)) r { outst := n + 1 }
  let bad := descRefused s w
  let done (s : State) (e : Status) : State := ringResult s { r, entry := a, irq, status := e, result := 0 }
  if !bad && op == 0x4F then (if n = 0 then done next stOk else s)
  else if rd.2.2 ≠ 0 then done next stPoison
  else if bad then done next stFabricRefused
  else if op == 0x41 && !hbmFree s (w.getD 2 0).toNat (bits (w.getD 0 0) 31 0) then s
  else
    let q := descRequest next w
    if q.2.2 ≠ 0 then done q.1 q.2.2
    else fabIssue q.1 (.ring r a irq (w.getD 2 0).toNat) q.2.1 (addrDev q.2.1.addr)

end Sys2Proof.Machine
end

