-- ==== Sys2Proof/Machine/Twin.lean ====
section
/-! DEFINITION. The twin protocol: mirrored writes, heartbeats, leases, takeover, yield, resynchronisation, the mirror table and
the device number (R345, R362-R378). -/

namespace Sys2Proof.Machine
open Sys2Proof

def setTwin (s : State) (t : Twin) : State := { s with twin := t }
def fxTwinAt : Nat := fxAt 0 8
def setEpoch (s : State) (e : Nat) : State := setFld s fxTwinAt 60 29 e
/-- The TWIN event: new state and epoch (R436). -/
def twinEvent (s : State) : State := logEvent s 0x0050 4 0 2 (twinState s + epoch s * 2 ^ 32)
/-- The mirror entries in use. -/
def mirValid (s : State) (m : Nat) : Bool := flag s (mirAt m) 63
def mirBase (s : State) (m : Nat) : Nat := fld s (mirAt m) 59 42 * 2 ^ 21
def mirLen (s : State) (m : Nat) : Nat := fld s (mirAt m) 41 24 * 2 ^ 21
/-- MSTATE: 0 SYNCING, 1 MIRRORED, 2 DEGRADED. -/
def mirState (s : State) (m : Nat) : Nat := fld s (mirAt m) 61 60
/-- Every entry in use takes an MSTATE. -/
def setAllMir (s : State) (v : Nat) : State :=
  (List.range 64).foldl (fun s m => if mirValid s m then setFld s (mirAt m) 61 60 v else s) s
/-- The table is replaced by the given words. -/
def setTable (s : State) (t : List Word) : State :=
  (List.range 64).foldl (fun s m => wr s (mirAt m) (t.getD m 0)) s

/-! ### Mirrored writes (R365) -/

/-- The oldest record of a completion queue no longer waits for MIRROR_ACK. -/
def recordFirst (s : State) (d : Fin 4) (q : Nat) : State :=
  match cqRecs s d q with
  | [] => s
  | r :: rest => setCqRecs s d q ({ r with first := true, waits := false } :: rest)

/-- A write that waited for MIRROR_ACK is acknowledged: to its requester, or to the part of the device that made it (R365). -/
def ackNow (s : State) (w : Packet × AckFor) : State :=
  match w.2 with
  | .packet p =>
    if p.op.toNat < 0x40 then answer s p stOk
    else (match findRec s (keyOf p) with
      | some r => fabReply s p r.status.toNat r.data 0
      | none => fabReply s p stOk [] 0)
  | .record d q false => recordFirst s d q
  | .record d q true => recordDone s d q
  | .abortBit t pos => abortReply s t pos stAborted
  | .ring j stage => ringAcked s j stage
  | .lease dev e => sendLink s (.leaseAnswer dev true e)

/-- R323: what the acknowledgement of a ring's write makes the engine write next can be written now. -/
def ackFree (s : State) (w : Packet × AckFor) : Bool :=
  match w.2 with
  | .ring j stage => 2 ≤ stage || hbmFree s j.entry 64
  | _ => true

/-- R369: the lease record of a pair. -/
def leaseOf (s : State) (pair : Nat) : Nat × Nat := mget (0, 0) s.twin.leases pair
def putLease (s : State) (dev e : Nat) : State :=
  { s with twin := { s.twin with leases := mset (0, 0) s.twin.leases (dev / 2) (e, dev) } }

/-- MIRROR_WR at the twin: applied to its copy with the record, once one is free (R358), and acknowledged; a lease record is kept
(R369). -/
def execMirrorWr (p : Packet) (note : MirrorNote) (s : State) : Out := whenRunning s fun s =>
  let a := offsetOf p
  match note.lease with
  | some l =>
    if p.op = 0x30 ∧ (twinState s = 2 ∨ twinState s = 4) then
      sendFabric (putLease s l.1.toNat l.2.toNat) (twinOf (ownDev s)) (response p stOk [] 0)
    else s
  | none =>
  if p.op = 0x30 ∧ (twinState s = 2 ∨ twinState s = 4) ∧ (mirOf s a).isSome ∧ (note.dedup.isNone ∨ recRoom s)
      ∧ hbmFree s a p.data.length then
    let s := hbmWrite s a p.data (maskGran p.poison.toNat a p.data.length)
    let s := match note.dedup with | some r => keepRec s r | none => s
    sendFabric s (twinOf (ownDev s)) (response p stOk [] 0)
  else s

/-- The waiting write that a MIRROR_ACK is for. -/
def ackMatches (p : Packet) (w : Packet × AckFor) : Bool :=
  w.1.src == p.dest && w.1.tag == p.tag && w.1.gen == p.gen && w.1.od == p.od && offsetOf w.1 == offsetOf p

/-- MIRROR_ACK at the owner (R365). -/
def execMirrorAck (p : Packet) (s : State) : Out := whenRunning s fun s =>
  if p.op ≠ 0xB0 then s else
  match s.twin.waitAck.find? (ackMatches p) with
  | none => takeFabric s p
  | some w =>
    if ackFree s w then ackNow (setTwin (takeFabric s p) { s.twin with waitAck := s.twin.waitAck.erase w }) w else s

/-! ### Changes of state (R363, R367-R373) -/

/-- R364: the pair leaves PAIRED before a change has reached both copies. -/
def cancelChanges (s : State) : State :=
  let s := if s.twin.changeOpen then objSetN s 0x0A10 5 stMirrorState else s
  setTwin s { s.twin with changes := [], changeOpen := false, entrySync := [] }

/-- Requests held for want of a path or a decision are taken up again, in arrival order. -/
def takeHeld (s : State) : State :=
  s.twin.held.foldl fabricArrives (setTwin s { s.twin with held := [] })

/-- R371: COVERING under an epoch: entries DEGRADED, waiting writes acknowledged, held requests served. -/
def enterCovering (s : State) (e : Nat) : State :=
  let s := setAllMir (setEpoch (setTwinState s 3) e) 2
  let s := cancelChanges s
  let w := s.twin.waitAck
  let s := setTwin s { s.twin with declared := 0, leaseSent := false, waitAck := [], syncPos := none, cutover := false, cutEpoch := none, yielding := false }
  let s := w.foldl ackNow s
  twinEvent (takeHeld s)

/-- A device that serves no more will have no MIRROR_ACK: a request ends by its requester's timer, and so does what the device
itself wrote (R26, R311, R367, log 94): a completion record fails (R217), an abort is answered, a ring goes on. -/
def dropAck (s : State) (w : Packet × AckFor) : State :=
  match w.2 with
  | .packet _ => s
  | .record d q _ => cqFail s d q
  | .abortBit t pos => abortReply s t pos stNocTimeout
  | .ring j _ => setRing s j.r { outst := (getRing s j.r).outst - 1 }
  | .lease .. => s

/-- STALE: the twin serves; this device's single ranges are lost until RESTORE (R372, R377). -/
def enterStale (s : State) : State :=
  let s := cancelChanges (setTwinState s 4)
  let w := s.twin.waitAck
  let s := setTwin s { s.twin with declared := 0, leaseSent := false, waitAck := [], yielding := false, lost := true }
  twinEvent (takeHeld (w.foldl dropAck s))

/-- ISOLATED (R369). -/
def enterIsolated (s : State) : State :=
  let s := cancelChanges (setTwinState s 5)
  let w := s.twin.waitAck
  let s := setTwin s { s.twin with declared := 0, leaseSent := false, waitAck := [], yielding := false }
  twinEvent (takeHeld (w.foldl dropAck s))

/-- The pair's witness (R343). -/
def pairWitness (s : State) : Option Nat := witnessOf s (ownDev s)

/-- R368, R369: the partner is declared failed: 1 by heartbeat loss, 2 by FAIL_NOTICE. A pair without a witness decides at
once. A covering device gives up the copy to a twin that has failed (R376). -/
def declare (s : State) (cause : Nat) : State :=
  let s := setFld s fxTwinAt 28 27 0
  if twinState s = 3 then setFld (setTwin s { s.twin with syncPos := none, cutover := false, cutEpoch := none }) fxTwinAt 26 20 0
  else if twinState s ≠ 2 || s.twin.declared ≠ 0 then s
  else
    let s := setTwin s { s.twin with declared := cause }
    if (pairWitness s).isSome then s
    else if cause = 2 || parity s = 0 then enterCovering s (epoch s + 1)
    else enterIsolated s

/-- HEARTBEAT_SEND (R368). -/
def execHeartbeatSend (s : State) : Out := whenRunning s fun s =>
  if fabricReadyNow s && s.fabric.dev.isSome && !s.failed then sendLink (sendLink s (.heartbeat true)) (.heartbeat false) else s

/-- HEARTBEAT (R368): a path to the partner is up; held requests are relayed (R370). -/
def execHeartbeat (direct : Bool) (s : State) : Out := whenRunning s fun s =>
  let s := setFlag s fxTwinAt (if direct then 28 else 27) true
  let s := setTwin s { s.twin with hbAt := s.twin.hbAt.set (if direct then 0 else 1) (nowNs s 4) }
  if twinState s = 2 then takeHeld s else s

/-- R368, R380: heartbeats no longer arrive on a path when none has come on it for HB_MISS µs. -/
def pathTick (s : State) : State :=
  [0, 1].foldl (fun s i =>
    if flag s fxTwinAt (28 - i) && s.twin.hbAt.getD i 0 + 1000 * fld s (fxAt 0 0) 47 43 ≤ nowNs s 4 then setFlag s fxTwinAt (28 - i) false
    else s) s

/-- HEARTBEAT_LOSS (R368). -/
def execHeartbeatLoss (s : State) : Out := whenRunning s fun s => declare s 1
/-- FAIL_NOTICE (R368). -/
def execFailNotice (s : State) : Out := whenRunning s fun s => declare s 2

/-- LEASE_SEND (R369). -/
def execLeaseSend (s : State) : Out := whenRunning s fun s =>
  if twinState s = 2 && s.twin.declared ≠ 0 && (pairWitness s).isSome then
    sendLink (setTwin s { s.twin with leaseSent := true }) (.lease (BitVec.ofNat 32 (epoch s)))
  else s

/-- R369: this device answers for the witness of a device's pair: it is the witness, or it covers for it. -/
def answersFor (s : State) (dev : Nat) : Bool :=
  match witnessOf s dev with
  | some w => (w == ownDev s && (twinState s == 1 || twinState s == 2 || twinState s == 3))
      || (w == twinOf (ownDev s) && twinState s == 3)
  | none => false

/-- R369: the MIRROR_WR that carries a lease record of a device. -/
def leasePacket (s : State) (dev : BitVec 20) (e : BitVec 32) : Packet :=
  { op := 0x30, vc := 2, nflit := 1, len := 4, addr := BitVec.ofNat 64 (ownDev s * 2 ^ 44), data := leBytes 4 e.toNat,
    od := { seq := e, reqdev := dev } }

/-- R369: the epoch is granted: at once, or while PAIRED once the twin holds the record too. -/
def grantLease (s : State) (dev : BitVec 20) (e : BitVec 32) : State :=
  let s := putLease s dev.toNat e.toNat
  if twinState s = 2 then
    let p := leasePacket s dev e
    let s := if s.twin.declared = 0 then sendLink s (.mirror p none (some (dev, e))) else s
    awaitAck s p (.lease dev e)
  else
    let s := if twinState s = 3 && s.twin.syncPos.isSome then sendLink s (.mirror (leasePacket s dev e) none (some (dev, e))) else s
    sendLink s (.leaseAnswer dev true e)

/-- The lease records held go to a twin that is being resynchronised (R369, R375). -/
def copyLeases (s : State) : State :=
  s.twin.leases.foldl (fun s r =>
    let dev := BitVec.ofNat 20 r.2.2; let e := BitVec.ofNat 32 r.2.1
    sendLink s (.mirror (leasePacket s dev e) none (some (dev, e)))) s

/-- LEASE at the witness (R369): epoch E + 1 to the first request of the pair, a denial to every other. The device that has been
granted the epoch asks again until it hears of it: that is the same request (log 103). -/
def execLease (dev : BitVec 20) (epoch : BitVec 32) (s : State) : Out := whenRunning s fun s =>
  if s.fabric.dev.isSome && answersFor s dev.toNat then
    let l := leaseOf s (dev.toNat / 2)
    if l.1 ≤ epoch.toNat then grantLease s dev (epoch + 1)
    else if l = ((epoch + 1).toNat, dev.toNat) then
      (if s.twin.waitAck.any (fun w => w.2 == .lease dev (epoch + 1)) then s else sendLink s (.leaseAnswer dev true (epoch + 1)))
    else sendLink s (.leaseAnswer dev false (epoch + 1))
  else s

/-! ### Resynchronisation (R374-R377) -/

/-- R376: the pair is PAIRED again under an epoch, every entry MIRRORED. -/
def pairAgain (s : State) (e : Nat) : State :=
  let s := setAllMir (setEpoch (setTwinState s 2) e) 1
  let s := setTwin s { s.twin with syncPos := none, cutover := false, cutEpoch := none, declared := 0, leaseSent := false }
  twinEvent s

/-- The covering device ends its part of the cutover. -/
def finishCutover (s : State) (e : Nat) : State := pairAgain (sendLink s (.cutover (BitVec.ofNat 32 e))) e

/-- No accepted fabric request is left (R373, R376). -/
def homeIdle (s : State) : Bool := s.fabric.copies.isEmpty && s.fabric.heldReq.isEmpty && s.twin.waitAck.isEmpty

/-- R376 (2, 3): with its new epoch, the covering device cuts over once it has completed what it has accepted. -/
def cutWith (s : State) (e : Nat) : State :=
  if homeIdle s then finishCutover s e else setTwin s { s.twin with cutEpoch := some e }

/-- LEASE_RESPONSE (R369, R376). -/
def execLeaseResponse (granted : Bool) (epoch : BitVec 32) (s : State) : Out := whenRunning s fun s =>
  if twinState s = 2 && s.twin.declared ≠ 0 then (if granted then enterCovering s epoch.toNat else enterStale s)
  else if twinState s = 3 && s.twin.cutover && granted then cutWith s epoch.toNat
  else s

/-- LEASE_TIMEOUT (R369). -/
def execLeaseTimeout (s : State) : Out := whenRunning s fun s =>
  if twinState s = 2 && s.twin.declared ≠ 0 then enterIsolated s else s

/-- YIELD (R373): a write of 1 in PAIRED. -/
def doYield (s : State) (v : Nat) : State :=
  if v = 1 && twinState s = 2 then setTwin s { s.twin with yielding := true } else s
def execYield (v : BitVec 8) (s : State) : Out := whenRunning s fun s => doYield s v.toNat

/-- YIELD_COMPLETE (R373). -/
def execYieldComplete (s : State) : Out := whenRunning s fun s =>
  if s.twin.yielding && twinState s = 2 && homeIdle s then enterStale (sendLink s .failNotice) else s

/-- Part numbers as capability records code them (R393). -/
def partCode : Part → Nat | .m8x2 => 0 | .m12x2 => 1 | .m12x4 => 2

/-- R374, R378: what the exchange with the twin decides. The spec names no new state for a device that is not COVERING and
whose twin is STALE or ISOLATED: it keeps its state (log 69). -/
def joinTwin (s : State) (i : TwinInfo) : State :=
  if s.failed then s
  else if i.part.val ≠ partCode s.part then (if twinState s ≤ 1 then twinEvent (setTwinState s 1) else s)
  else if i.state.val = 3 then
    enterStale (setFld (setEpoch (setTable s i.table) i.epoch.toNat) fxTwinAt 26 20 0)
  else if twinState s = 3 then copyLeases (setFld (setTwin s { s.twin with syncPos := some 0, syncAt := nowNs s 4 }) fxTwinAt 26 20 0)
  else if twinState s ≤ 1 && i.state.val ≤ 2 then
    twinEvent (setEpoch (setTable (setTwinState s 2) []) (max (epoch s) i.epoch.toNat))
  else s

/-- R374: what this device tells its twin. -/
def ownInfo (s : State) : TwinInfo :=
  { part := ⟨partCode s.part % 3, Nat.mod_lt _ (by decide)⟩, state := ⟨twinState s % 6, Nat.mod_lt _ (by decide)⟩,
    epoch := BitVec.ofNat 32 (epoch s), table := (List.range 64).map (fun m => rd s (mirAt m)) }

/-- TWIN_LINK_ACTIVE (R374): the devices tell each other; before Fabric Ready what the twin told is kept until then (R378). -/
def execTwinLinkActive (info : TwinInfo) (s : State) : Out := whenRunning s fun s =>
  let s := sendLink s (.twinInfo (ownInfo s))
  let s := setTwin s { s.twin with partner := some info }
  if fabricReadyNow s then joinTwin s info else s

/-- The lowest chunk address at or after a position that lies in a mirrored range (R375). -/
def nextChunk (s : State) (pos : Nat) : Option Nat :=
  (List.range 64).foldl (fun best m =>
    let a := max pos (mirBase s m)
    if mirValid s m && a < mirBase s m + mirLen s m then
      match best with | none => some a | some b => some (min a b)
    else best) none
/-- RESYNC_PCT: bytes of mirrored ranges below a position, of all. -/
def resyncPct (s : State) (pos : Nat) : Nat :=
  let sum (f : Nat → Nat) : Nat := (List.range 64).foldl (fun n m => if mirValid s m then n + f m else n) 0
  let all := sum (mirLen s)
  if all = 0 then 100 else sum (fun m => min (mirLen s m) (pos - mirBase s m)) * 100 / all

/-- A 64 KiB chunk read here, sent to the twin (R375). -/
def sendChunk (s : State) (a : Nat) : State :=
  let s := (bursts a 65536).foldl readBurst (touchRows s a 65536)
  let pg := (granules a 65536).filter (fun g => granPoison s.hbm.mem (hbmKey s (64 * g) / 64))
  sendLink s (.sync a (hbmBytes s a 65536) pg)

/-- Chunks of a SYNCING entry that have been copied. -/
def syncDone (s : State) (m : Nat) : Nat := mget 0 s.twin.entrySync m
def syncAll (s : State) (m : Nat) : Nat := mirLen s m / 65536
def bumpSync (s : State) (m : Nat) : State := setTwin s { s.twin with entrySync := mset 0 s.twin.entrySync m (syncDone s m + 1) }
/-- R363: the SYNCING entry of this owner that still has chunks to copy. -/
def syncingHere (s : State) : Option Nat :=
  (List.range 64).find? (fun m => mirValid s m && mirState s m == 0 && mirOwner s m == parity s && syncDone s m < syncAll s m)

/-- A chunk arrives from the twin: it is stored in this device's copy and answered with 0xD2 (R347); a SYNCING entry counts
it. -/
def takeChunk (s : State) (a : Nat) (d : List Byte) (pg : List Nat) : State :=
  match mirOf s a with
  | none => s
  | some m =>
    if !hbmFree s a d.length then s else
    let s := sendLink (hbmPut (touchRows s a d.length) a d (fun g => pg.contains g)) (.syncAnswer a)
    if mirState s m = 0 then bumpSync s m else s

/-- TWIN_SYNC (R363, R375): the next chunk is read and sent, or a chunk arrives. -/
def execTwinSync (rx : Option (Nat × List Byte × List Nat)) (s : State) : Out := whenRunning s fun s =>
  match rx with
  | some (a, d, pg) => if twinState s = 2 ∨ twinState s = 4 then takeChunk s a d pg else s
  | none =>
    if twinState s = 3 then
      match s.twin.syncPos with
      | none => s
      | some pos =>
        match nextChunk s pos with
        | none => setFld s fxTwinAt 26 20 100
        | some a =>
          if !hbmFree s a 65536 then s else
          let s := sendChunk s a
          setFld (setTwin s { s.twin with syncPos := some (a + 65536) }) fxTwinAt 26 20 (resyncPct s (a + 65536))
    else if twinState s = 2 then
      match syncingHere s with
      | none => s
      | some m =>
        let a := mirBase s m + 65536 * syncDone s m
        if hbmFree s a 65536 then bumpSync (sendChunk s a) m else s
    else s

/-- Every chunk has been copied (R376). -/
def allCopied (s : State) : Bool := match s.twin.syncPos with | some pos => (nextChunk s pos).isNone | none => false

/-- R376: every chunk has been copied, and the copy began at least 1 ms ago. -/
def cutReady (s : State) : Bool := twinState s == 3 && allCopied s && s.twin.syncAt + 1000000 ≤ nowNs s 4

/-- CUTOVER_START (R376): the new epoch is asked of the witness, or taken where the pair has none; one that has been granted is used
once nothing accepted is left. -/
def execCutoverStart (s : State) : Out := whenRunning s fun s =>
  if !cutReady s then s else
  match s.twin.cutEpoch with
  | some e => cutWith s e
  | none =>
    if (pairWitness s).isSome then
      sendLink (setTwin s { s.twin with cutover := true }) (.lease (BitVec.ofNat 32 (epoch s)))
    else cutWith s (epoch s + 1)

/-- CUTOVER at the STALE device, answered with 0xD3 (R347, R376). -/
def execCutover (epoch : BitVec 32) (s : State) : Out := whenRunning s fun s =>
  if twinState s = 4 then sendLink (pairAgain s epoch.toNat) .cutoverAnswer else s

/-- RESTORE (R377). -/
def doRestore (s : State) (v : Nat) : State :=
  if v = 1 && twinState s = 2 then setTwin s { s.twin with lost := false } else s
def execRestore (v : BitVec 8) (s : State) : Out := whenRunning s fun s => doRestore s v.toNat

/-! ### The mirror table (R362-R364) -/

/-- R362, R364: the status of a change against the table as it stands. -/
def changeStatus (s : State) (c : MirrorChange) : Status :=
  let b := c.base.toNat; let n := c.len.toNat
  if c.op = 1 then
    if b % 2 ^ 21 ≠ 0 || n % 2 ^ 21 ≠ 0 || n = 0 || userEnd s.part < b + n || 1 < c.owner.toNat then stFabricRefused
    else if (List.range 64).any (fun m => mirValid s m && overlaps b n (mirBase s m) (mirLen s m)) then stFabricRefused
    else if (List.range 64).all (mirValid s) then stFabricRefused
    else stOk
  else if (List.range 64).any (fun m => mirValid s m && mirOwner s m == c.owner.toNat && mirBase s m == b && mirLen s m == n) then stOk
  else stFabricRefused

/-- The table after a change that is good: an added entry starts SYNCING in the lowest free place. -/
def applyChange (s : State) (c : MirrorChange) : State :=
  let b := c.base.toNat; let n := c.len.toNat
  if c.op = 1 then
    match (List.range 64).find? (fun m => !mirValid s m) with
    | none => s
    | some m =>
      let w := BitVec.ofNat 64 (2 ^ 63 + c.owner.toNat % 2 * 2 ^ 62 + b / 2 ^ 21 * 2 ^ 42 + n / 2 ^ 21 * 2 ^ 24)
      setTwin (wr s (mirAt m) w) { s.twin with entrySync := mset 0 s.twin.entrySync m 0 }
  else
    match (List.range 64).find? (fun m => mirValid s m && mirOwner s m == c.owner.toNat && mirBase s m == b && mirLen s m == n) with
    | none => s
    | some m => wr s (mirAt m) 0

/-- RESULT of the change written on this device. -/
def setResult (s : State) (e : Status) : State := setTwin (objSetN s 0x0A10 5 e) { s.twin with changeOpen := false }

/-- R363, R364: a change written on this device by OP; RESULT comes at once outside PAIRED. -/
def doMirrorChange (s : State) (op : Nat) : State :=
  if s.twin.changeOpen then s
  else if twinState s ≠ 2 then objSetN s 0x0A10 5 stMirrorState
  else
    let c : MirrorChange := { op := BitVec.ofNat 8 op, owner := BitVec.ofNat 8 (objN s 0x0A10 2), base := BitVec.ofNat 64 (objN s 0x0A10 3),
                              len := BitVec.ofNat 64 (objN s 0x0A10 4), here := true, result := 0 }
    let s := setTwin s { s.twin with changeOpen := true }
    if parity s = 0 then setTwin s { s.twin with changes := s.twin.changes ++ [c] }
    else sendLink s (.mirrorChange { c with here := false })

def execMirrorAdd (s : State) : Out := whenRunning s fun s => doMirrorChange s 1
def execMirrorRemove (s : State) : Out := whenRunning s fun s => doMirrorChange s 2

/-- R364: the change whose turn it was ends: RESULT on the twin where it was written. -/
def endChange (s : State) (c : MirrorChange) (rest : List MirrorChange) (e : Status) : State :=
  let s := setTwin s { s.twin with changes := rest }
  if c.here then setResult s e
  else sendLink s (.mirrorChange { c with here := true, result := BitVec.ofNat 8 e, phase := 3 })

/-- R364: what a message of the other twin about a change does: the even twin queues a change, or takes into its own table the one
that the odd twin's copy now has; the odd twin writes its copy, or takes a RESULT. -/
def changeArrives (s : State) (c : MirrorChange) : State :=
  if parity s = 0 then
    match c.phase, s.twin.changes with
    | 0, l => setTwin s { s.twin with changes := l ++ [{ c with here := false }] }
    | 2, h :: rest => if h.phase = 1 then endChange (applyChange s h) h rest stOk else s
    | _, _ => s
  else
    match c.phase with
    | 1 => sendLink (applyChange s c) (.mirrorChange { c with phase := 2 })
    | 3 => setResult s c.result.toNat
    | _ => s

/-- MIRROR_CHANGE_APPLY (R364): with `rx`, a message of the other twin; else the even twin checks the change whose turn it is, and
writes it to the odd twin's copy. -/
def execMirrorChangeApply (rx : Option MirrorChange) (s : State) : Out := whenRunning s fun s =>
  if twinState s ≠ 2 then s else
  match rx with
  | some c => changeArrives s c
  | none =>
    match s.twin.changes with
    | [] => s
    | c :: rest =>
      if parity s ≠ 0 || c.phase ≠ 0 then s
      else if changeStatus s c ≠ 0 then endChange s c rest (changeStatus s c)
      else sendLink (setTwin s { s.twin with changes := { c with phase := 1 } :: rest }) (.mirrorChange { c with phase := 1 })

/-- MIRROR_SYNC_DONE (R363). -/
def execMirrorSyncDone (entry : Fin 64) (s : State) : Out := whenRunning s fun s =>
  if twinState s = 2 && mirValid s entry && mirState s entry == 0 && syncAll s entry ≤ syncDone s entry then
    setTwin (setFld s (mirAt entry) 61 60 1) { s.twin with entrySync := mset 0 s.twin.entrySync entry 0 }
  else s

/-! ### The device number (R345) -/

/-- A number that is unset takes effect at once; else at the next reset. -/
def setDevnum (s : State) (v : Nat) : State :=
  if 0xFFFFF < v then s else
  let s := objSetN s 0x0A01 1 v
  if s.fabric.dev.isNone then setFab s { s.fabric with dev := some (BitVec.ofNat 20 v) } else s
/-- DEVNUM (R345). -/
def execDevnum (v : BitVec 32) (s : State) : Out := .next (setDevnum s v.toNat)

end Sys2Proof.Machine
end

