-- ==== Sys2Proof/Machine/Link.lean ====
section
/-! DEFINITION. Fabric lanes and the link layer: bring-up, retraining, sparing, flits and replay, capability exchange, routing and
transit (R383-R406). -/

namespace Sys2Proof.Machine
open Sys2Proof

/-! ### Lanes (R22, R384, R405) -/

/-- USE of LK_LSTAT: 0 port lane, 1 spare idle, 2 spare in use, 3 failed. -/
def laneUse (s : State) (l : LaneId) : Nat := fld s (lstat l) 60 59
def setUse (s : State) (l : LaneId) (v : Nat) : State := setFld s (lstat l) 60 59 v
def isSpare (l : LaneId) : Bool := 32 ≤ l.lane.val
/-- The port a lane serves: a spare lane the port on its side (R384). -/
def lanePort (s : State) (l : LaneId) : PortId :=
  if l.lane.val < 32 then ⟨l.shale, ⟨l.lane.val / 4 % 8, Nat.mod_lt _ (by decide)⟩⟩
  else ⟨l.shale, ⟨(2 * (l.lane.val - 32) + fld s (lstat l) 58 58) % 8, Nat.mod_lt _ (by decide)⟩⟩
/-- SPARED of LK_PSTAT: the logical lane on the spare, 7 none. -/
def sparedLane (s : State) (p : PortId) : Nat := fld s (pstat p) 50 48
/-- R389: the markers have named the four lanes of a port differently. -/
def lanesNamed (s : State) (p : PortId) : Bool :=
  (List.finRange 4).all (fun (i : Fin 4) => (portLanes p).any (fun l => fld s (lstat l) 57 56 == i.val))
/-- The port lane that a logical lane arrives on, as the markers named it; lane i before they have. -/
def ownLane (s : State) (p : PortId) (i : Fin 4) : LaneId :=
  let d : LaneId := ⟨p.shale, ⟨4 * p.port.val + i.val, by omega⟩⟩
  if lanesNamed s p then ((portLanes p).find? (fun l => fld s (lstat l) 57 56 == i.val)).getD d else d
/-- The lane that carries a logical lane of a port. -/
def servingLane (s : State) (p : PortId) (i : Fin 4) : LaneId :=
  if sparedLane s p = i then spareLane p else ownLane s p i
/-- The logical lane of its port that a lane carries now, if any. -/
def logicalOf (s : State) (l : LaneId) : Option Nat :=
  ((List.finRange 4).find? (fun i => servingLane s (lanePort s l) i == l)).map (·.val)
def cdrLocked (s : State) (l : LaneId) : Bool := flag s (lstat l) 63
def markerLocked (s : State) (l : LaneId) : Bool := flag s (lstat l) 62

/-! ### Going down, retraining, sparing (R389, R392, R397) -/

/-- The port is DOWN: what its buffer holds is lost. -/
def portDown (s : State) (p : PortId) : State :=
  setFlag (setPortState (modPort s p (fun x => { x with replay := [], replays := 0, sparing := none, partner := none })) p 8) (pstat p) 59 false

/-- The port falls to a stage and RETRAINS advances; the replay buffer is kept. -/
def retrainTo (s : State) (p : PortId) (st : Nat) : State :=
  satFld (setFlag (setPortState (modPort s p (fun x => { x with uncorr := 0 })) p st) (pstat p) 59 false) (perr p) 7 0

/-- R384, R397: the port enters SPARING with logical lane i on its spare, or is DOWN when the spare is in use or has failed. -/
def useSpare (s : State) (p : PortId) (i : Fin 4) : State :=
  let sp := spareLane p
  if 2 ≤ laneUse s sp then portDown s p
  else
    let s := setFld (setFld (setUse s sp 2) (lstat sp) 58 58 (p.port.val % 2)) (lstat sp) 57 56 i
    let s := setFld (setPortState s p 7) (pstat p) 50 48 i
    setFlag (modPort s p (fun x => { x with sparing := some i.val, uncorr := 0 })) (pstat p) 59 false

/-- R390, R397: markers with SPARE_REQ go out on the working lanes. -/
def askSpare (s : State) (p : PortId) (i : Fin 4) : State :=
  ((List.finRange 4).filter (· ≠ i)).foldl (fun s (j : Fin 4) => sendLink s (.marker p (laneMarker j (some i.val)))) s

/-- R397: logical lane i of a port is failed. -/
def failLane (s : State) (p : PortId) (i : Fin 4) : State :=
  let l := servingLane s p i
  let s := logEvent s 0x0040 (4 + p.shale.val) l.lane 1 (i + 4 * p.port.val)
  let s := setFlag (setUse s l 3) (lstat l) 63 false
  if isSpare l then portDown s p
  else
    let s := useSpare s p i
    if portState s p = 7 then askSpare s p i else s

/-- A lane fails while its port is ACTIVE. -/
def failActive (s : State) (l : LaneId) : State :=
  let p := lanePort s l
  if portState s p = 6 then
    match (List.finRange 4).find? (fun i => servingLane s p i == l) with
    | some i => failLane s p i
    | none => s
  else s

/-! ### Commands of LK_PCTL (R389, R398, R402) -/

/-- The port stands on a ring of length 1 (R402). -/
def ringOne (s : State) (p : PortId) : Bool := isTorus p && ringLen s (portDim p) == 1

/-- Bring up: from DISABLED, DOWN or TEST. Counts start from 0. -/
def bringUp (s : State) (p : PortId) : State :=
  let st := portState s p
  if !shaleFitted s p.shale || ringOne s p || !(st == 0 || st == 8 || st == 9) then s
  else
    let s := modPort s p (fun _ => {})
    setFlag (setFld (setPortState s p 1) (pstat p) 58 51 0) (pstat p) 59 false
/-- Take down: the port is DOWN, its lanes and its spare are free again. -/
def takeDown (s : State) (p : PortId) : State :=
  if !shaleFitted s p.shale then s else
  let s := portDown s p
  let s := if sparedLane s p = 7 then s else setUse s (spareLane p) 1
  (portLanes p).foldl (fun s l => setUse s l 0) (setFld s (pstat p) 50 48 7)
/-- Retrain from LOCK. -/
def retrain (s : State) (p : PortId) : State :=
  let st := portState s p
  if 3 ≤ st ∧ st ≤ 7 then retrainTo s p 3 else s
/-- Enter TEST. -/
def enterTest (s : State) (p : PortId) : State :=
  if shaleFitted s p.shale then setPortState (portDown s p) p 9 else s

def execPortBringUp (port : PortId) (s : State) : Out := whenRunning s fun s => bringUp s port
def execPortTakeDown (port : PortId) (s : State) : Out := whenRunning s fun s => takeDown s port
def execPortRetrain (port : PortId) (s : State) : Out := whenRunning s fun s => retrain s port
def execPortTest (port : PortId) (s : State) : Out := whenRunning s fun s => enterTest s port

/-! ### Flits on their way out (R386, R387, R391, R392, R398) -/

/-- R391: slots that a receiver holds, by entry 2 × VC + CLASS. -/
def slotCap (e : Nat) : Nat := if e < 4 then 256 else if e < 6 then 128 else 32
/-- R391: the limits this port advertises; request and mirror stay 0 before Fabric Ready. -/
def ownLimits (s : State) (p : PortId) : List (BitVec 16) :=
  (List.range 8).map (fun e =>
    if !fabricReadyNow s && (e / 2 == 0 || e / 2 == 2) then 0
    else BitVec.ofNat 16 (slotCap e + ((getPort s p).freed.getD e 0).toNat))

/-- An empty slot, and a flit of two slots as a port sends it now. -/
def noSlot : LinkSlot := { stype := 0, vc := 0, cls := 0, body := [] }
def flitWith (s : State) (p : PortId) (a b : LinkSlot) (seq : BitVec 12) (nak : Bool) : LinkFlit :=
  { slot0 := a, slot1 := b, seq, ackSeq := (getPort s p).rxNext - 1, ackV := true, nak, limits := ownLimits s p,
    ready := fabricReadyNow s, amber := false, amberPair := false, amberHops := 0 }

/-- R398: flits with a corrupted CRC while MODE is 2: how many of the next four. -/
def crcFaults (s : State) (p : PortId) : Nat :=
  if portState s p = 6 ∧ fld s (pinj p) 63 62 = 2 then min 4 (fld s (pinj p) 59 44) else 0
/-- R398: the next codeword takes a symbol error while MODE is 1. -/
def symbolFault (s : State) (p : PortId) : Bool := portState s p == 6 && fld s (pinj p) 63 62 == 1 && fld s (pinj p) 59 44 != 0

/-- Up to four flits leave in one codeword, which empty flits fill (R386); a pending injection is made and counted down (R398). Which symbol
of the lane it hits, and how, is free (log 72). -/
def sendCodeword (s : State) (p : PortId) (fs : List LinkFlit) : State :=
  let n := crcFaults s p
  let ds := (fs ++ List.replicate (4 - fs.length) (flitWith s p noSlot noSlot 0 false)).mapIdx (fun i f =>
    let d := flitBytes f
    if i < n then d.take 156 ++ (d.drop 156).map (fun b => ~~~b) else d)
  let c := codewordOf ds
  let r := (Config.free s.freeCtr).toNat
  let at_ := fld s (pinj p) 61 60 + 4 * (r % 136)
  let c := if symbolFault s p then c.mapIdx (fun i v => if i = at_ then v ^^^ (1 + r / 136 % 1023) else v) else c
  let s := if symbolFault s p then { setFld s (pinj p) 59 44 (fld s (pinj p) 59 44 - 1) with freeCtr := s.freeCtr + 1 }
    else if n ≠ 0 then setFld s (pinj p) 59 44 (fld s (pinj p) 59 44 - n) else s
  sendLink s (.codeword p (c.map (BitVec.ofNat 10)))

/-- Flits leave, four to a codeword. -/
def sendFlits (s : State) (p : PortId) (fs : List LinkFlit) : State :=
  (List.range (cdiv fs.length 4)).foldl (fun s i => sendCodeword s p ((fs.drop (4 * i)).take 4)) s

/-- R392: flits that carry slots take the next SEQ and stay in the replay buffer. -/
def sendSlots (s : State) (p : PortId) (prs : List (LinkSlot × LinkSlot)) : State :=
  let x := getPort s p
  let fs := prs.mapIdx (fun i sl => flitWith s p sl.1 sl.2 (x.txSeq + BitVec.ofNat 12 i) false)
  sendFlits (setPort s p { x with txSeq := x.txSeq + BitVec.ofNat 12 prs.length, replay := x.replay ++ fs }) p fs

/-- RINGS of this device (R393). -/
def ownRings (s : State) : Nat := ringLen s 0 + ringLen s 1 * 16 + ringLen s 2 * 256 + ringLen s 3 * 4096
/-- This device's capability record on a port (R393). -/
def ownRecord (s : State) (p : PortId) : CapRecord :=
  { version := 1, devset := s.fabric.dev.isSome, device := BitVec.ofNat 20 (ownDev s), part := ⟨partCode s.part % 4, Nat.mod_lt _ (by decide)⟩,
    port := p.port, shale := p.shale, switch := false, ready := fabricReadyNow s, twin := ⟨twinState s % 8, Nat.mod_lt _ (by decide)⟩,
    incarn := BitVec.ofNat 32 (incarnation s), rings := BitVec.ofNat 16 (ownRings s), tier := 0, plane := 0 }
/-- R389: the record is sent. -/
def sendCapability (s : State) (p : PortId) : State :=
  sendSlots s p [({ stype := 3, vc := 0, cls := 0, body := capBytes (ownRecord s p) }, noSlot)]

/-- R392: the sender replays what is not acknowledged; after 8 replays without progress the port retrains. -/
def replayNow (s : State) (p : PortId) : State :=
  let x := getPort s p
  if x.replay.isEmpty then s else
  let s := sendFlits (setPort (incFld s (perr p) 23 8) p { x with replays := x.replays + 1 }) p x.replay
  if 8 ≤ x.replays + 1 then retrainTo s p 3 else s

/-- REPLAY_TIMEOUT (R392). -/
def execReplayTimeout (port : PortId) (s : State) : Out := whenRunning s fun s =>
  if portState s port = 6 then replayNow s port else s

/-- R398: an ACTIVE port sends a codeword every 6.4 ns; one with nothing to carry is kept here only while it takes an injection. -/
def linkTick (s : State) : State :=
  (s.ports.map (fun e => (⟨⟨e.1 / 8 % 4, Nat.mod_lt _ (by decide)⟩, ⟨e.1 % 8, Nat.mod_lt _ (by decide)⟩⟩ : PortId))).foldl (fun s p =>
    let t := nowNs s (4 + p.shale.val)
    if 5 * t / 32 < 5 * (t + 1) / 32 && (crcFaults s p != 0 || symbolFault s p) then sendCodeword s p [] else s) s

/-! ### Stages (R389) -/

/-- R389, R390: the port's lanes in use have CDR and marker lock. -/
def lanesLocked (s : State) (p : PortId) : Bool :=
  (List.finRange 4).all (fun i => cdrLocked s (servingLane s p i) && markerLocked s (servingLane s p i))

/-- PORT_STAGE_COMPLETE: DETECT, TRAIN, LOCK, DESKEW, which orders the lanes by the logical lanes that their markers name; SPARING reruns
from TRAIN; CAPEX ends by the records. -/
def execPortStageComplete (port : PortId) (s : State) : Out := whenRunning s fun s =>
  match portState s port with
  | 1 => setPortState s port 2
  | 2 => setPortState s port 3
  | 3 => if lanesLocked s port then setPortState s port 4 else s
  | 4 => if lanesNamed s port then sendCapability (setPortState s port 5) port else s
  | 7 => setPortState s port 2
  | _ => s

/-- R389, R392: a stage overruns: back to DETECT; DOWN when the port was retraining for want of replay progress. -/
def overrun (s : State) (p : PortId) : State :=
  let n := (getPort s p).replays
  let s := retrainTo s p 1
  let s := if 8 ≤ n then portDown s p else s
  portEvent s p 0

/-- STAGE_TIMEOUT: in LOCK, exactly one lane without CDR lock is failed; a port that failed CAPEX or whose partner lacks a
number stays there (R394). -/
def execStageTimeout (port : PortId) (s : State) : Out := whenRunning s fun s =>
  let st := portState s port
  if st = 3 then
    match (List.finRange 4).filter (fun i => !cdrLocked s (servingLane s port i)) with
    | [i] => failLane s port i
    | _ => overrun s port
  else if st = 5 then
    (if fld s (pstat port) 58 51 = stCapMismatch || (getPort s port).partner.isSome then s else overrun s port)
  else if 1 ≤ st ∧ st ≤ 4 then overrun s port
  else s

/-! ### Lanes: slip, locks, patterns (R389, R390, R397, R398) -/

def slipLane (s : State) (l : LaneId) : State := setFld s (lstat l) 55 45 ((fld s (lstat l) 55 45 + 1) % 1360)
/-- SLIP (R390). -/
def execSlip (lane : LaneId) (s : State) : Out := whenRunning s fun s => whenIf (shaleFitted s lane.shale) s (fun s => slipLane s lane)

/-- MARKER_LOCK (R390): what has stood at a lane's word boundary for some frames in a row: a marker or none. MARKER_LOCK is set after 16
frames with the marker in LOCK or DESKEW, where the marker names the logical lane, and is cleared after 4 misses. A marker with
SPARE_REQ that an ACTIVE port sees makes it use its spare too (R397). -/
def execMarkerLock (lane : LaneId) (marker : Option (BitVec 40)) (frames : Nat) (s : State) : Out := whenRunning s fun s =>
  let port := lanePort s lane; let st := portState s port
  if !shaleFitted s lane.shale then s else
  match marker.bind readMarker with
  | none => if 4 ≤ frames then setFlag s (lstat lane) 62 false else s
  | some (i, ask) =>
    if st = 3 ∨ st = 4 then (if 16 ≤ frames then setFld (setFlag s (lstat lane) 62 true) (lstat lane) 57 56 i else s)
    else match ask with
      | some j => if st = 6 ∧ 1 ≤ frames then useSpare s port ⟨j % 4, Nat.mod_lt _ (by decide)⟩ else s
      | none => s

/-- CDR_LOCK (R389). -/
def execCdrLock (lane : LaneId) (s : State) : Out := whenRunning s fun s =>
  if portState s (lanePort s lane) = 3 then setFlag s (lstat lane) 63 true else s

/-- R398: a pattern runs on the lane: its port is in TEST, or it is an idle spare. -/
def patternLane (s : State) (l : LaneId) : Bool :=
  if isSpare l then laneUse s l ≤ 1 else portState s (lanePort s l) == 9

/-- PRBS_LOCK (R398): the checker locks and counts errors, saturating. -/
def execPrbsLock (lane : LaneId) (errors : Nat) (s : State) : Out := whenRunning s fun s =>
  if shaleFitted s lane.shale && patternLane s lane && flag s (lctl lane) 59 then
    let n := fld s (lerr lane) 63 32 + errors
    setFld (setFlag s (lstat lane) 61 true) (lerr lane) 63 32 (min n (2 ^ 32 - 1))
  else s

/-- CDR_LOCK_LOSS (R389): one lane of an ACTIVE port is failed; more than one send the port back to LOCK. -/
def execCdrLockLoss (lanes : List LaneId) (s : State) : Out := whenRunning s fun s =>
  let s := (lanes.filter (fun l => shaleFitted s l.shale)).foldl (fun s l => setFlag s (lstat l) 63 false) s
  (allPorts s).foldl (fun s p =>
    let mine := (List.finRange 4).filter (fun i => lanes.contains (servingLane s p i))
    if portState s p ≠ 6 then s else
    match mine with
    | [] => s
    | [i] => failLane s p i
    | _ => retrainTo s p 3) s

/-- Symbol errors of a lane in the present window, of codewords that LINK_FLIT brought (R397). -/
def windowErrors (s : State) (l : LaneId) : Nat :=
  match logicalOf s l with | some i => (getPort s (lanePort s l)).window.getD i 0 | none => 0
/-- The next window begins. -/
def clearWindow (s : State) (l : LaneId) : State :=
  match logicalOf s l with | some i => modPort s (lanePort s l) (fun x => { x with window := x.window.set i 0 }) | none => s

/-- LANE_ERROR_WINDOW (R397): a 1 ms window of a lane ends; `errors` are those of codewords that no LINK_FLIT brought. -/
def execLaneErrorWindow (lane : LaneId) (errors : Nat) (s : State) : Out := whenRunning s fun s =>
  if !shaleFitted s lane.shale then s else
  let n := windowErrors s lane + errors
  let s := clearWindow (setFld s (lerr lane) 31 0 (fld s (lerr lane) 31 0 + errors)) lane
  if fld s (pctl (lanePort s lane)) 60 41 < n then failActive s lane else s

/-! ### Capability exchange (R393-R395) -/

/-- R394: a torus port passes. -/
def torusPasses (s : State) (p : PortId) (r : CapRecord) : Bool :=
  let me := ownDev s; let it := r.device.toNat; let k := portDim p; let len := ringLen s k
  !r.switch && pod it == pod me && r.rings.toNat == ownRings s
    && coord it k == (if portPlus p then (coord me k + 1) % len else (coord me k + len - 1) % len)
    && (List.range 4).all (fun j => j == k || coord it j == coord me j)
    && r.shale.val == 0 && r.port.val == p.port.val ^^^ 1
/-- R394: an uplink port passes. -/
def uplinkPasses (p : PortId) (r : CapRecord) : Bool := r.switch && r.tier.val == 1 && r.plane.toNat == planeOf p

/-- What the port shows of its partner (R405). -/
def showPartner (s : State) (p : PortId) (r : CapRecord) : State :=
  let s := modPort s p (fun x => { x with partner := some r })
  setFlag (setFld s (pstat p) 47 23 (r.device.toNat * 32 + r.port.val * 2 + (if r.switch then 1 else 0))) (pstat p) 59 r.ready

/-- CAPABILITY_RECORD (R394, R395). -/
def execCapabilityRecord (port : PortId) (r : CapRecord) (s : State) : Out := whenRunning s fun s =>
  if portState s port = 6 then
    modPort (showPartner s port r) port (fun x => { x with readyLate := x.readyLate && !r.ready })
  else if portState s port ≠ 5 then s
  else
    let s := showPartner s port r
    if isTorus port && (s.fabric.dev.isNone || !r.devset) then sendCapability s port
    else if (if isTorus port then torusPasses s port r else uplinkPasses port r) then
      let s := setFld (setPortState s port 6) (pstat port) 58 51 0
      replayNow (modPort s port (fun x => { x with sparing := none, readyLate := false, uncorr := 0, replays := 0 })) port
    else portEvent (setFld s (pstat port) 58 51 stCapMismatch) port stCapMismatch

/-- READY_TIMEOUT (R395). -/
def execReadyTimeout (port : PortId) (s : State) : Out := whenRunning s fun s =>
  if portState s port = 6 && !partnerReady s port then portEvent (modPort s port (fun x => { x with readyLate := true })) port 0
  else s

/-! ### Flits that arrive (R386, R387, R391, R392, R404) -/

/-- The flits of the replay buffer up to a sequence number are acknowledged. -/
def ackUpTo (l : List LinkFlit) (a : BitVec 12) : List LinkFlit :=
  if l.any (fun f => f.seq == a) then (l.dropWhile (fun f => f.seq != a)).drop 1 else l

/-- R392: a flit that cannot be accepted: NAK names the last one accepted. -/
def nakNow (s : State) (p : PortId) : State :=
  sendFlits (modPort s p (fun x => { x with nakked := true })) p [flitWith s p noSlot noSlot 0 true]

/-- An accepted slot counts as freed once its packet has been taken on (log 28). -/
def takeSlot (l : List (BitVec 16)) (x : LinkSlot) : List (BitVec 16) :=
  if x.stype = 1 ∨ x.stype = 2 then let e := 2 * x.vc.val + x.cls.val; l.set e (l.getD e 0 + 1) else l

/-- ACK, NAK, LIMIT and READY of a good flit. -/
def flitControl (s : State) (p : PortId) (f : LinkFlit) : State :=
  let x := getPort s p
  let rest := if f.ackV then ackUpTo x.replay f.ackSeq else x.replay
  let s := setPort s p { x with replay := rest, replays := if rest.length < x.replay.length then 0 else x.replays,
                                limit := f.limits, readyLate := x.readyLate && !f.ready }
  let s := setFlag s (pstat p) 59 f.ready
  if f.nak then replayNow s p else s

/-- Slots in SEQ order: the expected flit is accepted, an older one is a repeat, another is a gap, which one NAK reports. -/
def flitSlots (s : State) (p : PortId) (f : LinkFlit) : State :=
  if f.slot0.stype = 0 ∧ f.slot1.stype = 0 then s else
  let x := getPort s p
  if f.seq = x.rxNext then
    setPort s p { x with rxNext := x.rxNext + 1, freed := takeSlot (takeSlot x.freed f.slot0) f.slot1, nakked := false }
  else if (x.rxNext - f.seq).toNat ≤ 2048 || x.nakked then s
  else nakNow s p

/-- A flit whose CRC holds (R387, R404). -/
def flitIn (s : State) (p : PortId) (f : LinkFlit) : State :=
  let s := flitSlots (flitControl s p f) p f
  if f.amber && !(getPort s p).amberSeen then
    doFreezeMessage (modPort s p (fun x => { x with amberSeen := true })) p f.amberPair f.amberHops
  else s

/-- R389, R405: a codeword that the FEC could not correct; eight in a row while no lane is failed send the port back to LOCK. -/
def fecFails (s : State) (p : PortId) : State :=
  let s := modPort (incFld s (perr p) 39 24) p (fun x => { x with uncorr := x.uncorr + 1 })
  if 8 ≤ (getPort s p).uncorr ∧ portState s p = 6 ∧ sparedLane s p = 7 then retrainTo s p 3 else nakNow s p

/-- R386, R397, R405: symbol i of a codeword came on logical lane i mod 4; those corrected are counted. -/
def fecCorrects (s : State) (p : PortId) (fixed : List Nat) : State :=
  let s := setFld s (perr p) 63 40 (fld s (perr p) 63 40 + fixed.length)
  let s := modPort s p (fun x => { x with uncorr := 0 })
  fixed.foldl (fun s i =>
    let l := servingLane s p ⟨i % 4, Nat.mod_lt _ (by decide)⟩
    modPort (incFld s (lerr l) 31 0) p (fun x => { x with window := x.window.set (i % 4) (x.window.getD (i % 4) 0 + 1) })) s

/-- LINK_FLIT (R386, R387, R389, R391, R392, R404): flit k of a codeword as its 544 symbols were received; its first flit brings the
codeword's count of errors. -/
def execLinkFlit (port : PortId) (message parity : List (BitVec 10)) (k : Fin 4) (s : State) : Out := whenRunning s fun s =>
  if portState s port ≠ 5 ∧ portState s port ≠ 6 then s else
  match rsDecode ((message ++ parity).map (·.toNat)) with
  | none => if k = 0 then fecFails s port else s
  | some (c, fixed) =>
    let s := if k = 0 then fecCorrects s port fixed else s
    if flitCrcOk (flitOf c k) then flitIn s port (parseFlit (flitOf c k)) else nakNow s port

/-! ### Sending on a port (R300, R348, R387, R388, R391) -/

/-- The header flit on a link: AGE and LONGWAY stand in bits [44:32] (R388). -/
def headerFlit (p : Packet) (age : Nat) (longway : Bool) : List Byte :=
  let b (x : Bool) (n : Nat) : Nat := if x then 2 ^ n else 0
  let w0 := headerWord p % 2 ^ 32 + min age 4095 * 2 ^ 32 + b longway 44
  let w1 := p.tag.toNat + p.gen.toNat * 2 ^ 10 + p.status.toNat * 2 ^ 32 + p.snum.toNat * 2 ^ 40
  let o := p.od
  let od := o.seq.toNat + o.ctx.toNat * 2 ^ 32 + o.ord.toNat * 2 ^ 45 + o.aop.toNat * 2 ^ 47 + b o.width 51 + b o.retry 52
    + b o.redir 53 + o.reqdev.toNat * 2 ^ 54 + o.inc.toNat * 2 ^ 74
  leBytes 8 w0 ++ leBytes 8 w1 ++ leBytes 8 p.addr.toNat ++ leBytes 8 p.deadline.toNat ++ leBytes 32 od

/-- The slots of a packet: its header, then its payload in 64-byte pieces. -/
def packetSlots (p : Packet) (age : Nat) (longway : Bool) : List LinkSlot :=
  let vc : Fin 4 := ⟨p.vc.toNat % 4, Nat.mod_lt _ (by decide)⟩
  let cls : Fin 2 := if p.dclass then 1 else 0
  { stype := 1, vc, cls, body := headerFlit p age longway } ::
    (List.range (cdiv p.data.length 64)).map (fun i => { stype := 2, vc, cls, body := (p.data.drop (64 * i)).take 64 })

/-- Two slots to a flit. -/
def slotPairs : List LinkSlot → List (LinkSlot × LinkSlot)
  | [] => []
  | [a] => [(a, noSlot)]
  | a :: b :: r => (a, b) :: slotPairs r

/-- R391: n further slots of a class may be sent. -/
def hasCredit (x : Port) (e n : Nat) : Bool :=
  let room := (x.limit.getD e 0 - x.sent.getD e 0).toNat
  1 ≤ room && room ≤ 2 ^ 15 && n ≤ room

/-- The packet as flits on a port: none while credits or the replay buffer do not allow it. -/
def sendOnPort (s : State) (p : PortId) (k : Packet) (age : Nat) (longway : Bool) : Option State :=
  let x := getPort s p
  let slots := packetSlots k age longway
  let e := 2 * k.vc.toNat + (if k.dclass then 1 else 0)
  let prs := slotPairs slots
  if !hasCredit x e slots.length || 2048 < x.replay.length + prs.length then none
  else some (sendSlots (setPort s p { x with sent := x.sent.set e (x.sent.getD e 0 + BitVec.ofNat 16 slots.length) }) p prs)

/-! ### Routing (R388, R399-R401) -/

/-- FABRIC_DISCARD with a DETAIL bit. -/
def discardEvent (s : State) (b : Nat) : State := logEvent s 0x0042 4 0 1 (2 ^ b)

/-- R388: AGE at an egress after `spent` ns in the device. -/
def ageOut (age spent : Nat) : Nat := min 4095 (age + cdiv spent 250 + 1)
/-- R388: a packet too old is discarded and counted. -/
def agedOut (s : State) : State := discardEvent (objSetN s 0x0A30 6 ((objN s 0x0A30 6 + 1) % 2 ^ 32)) 0

/-- The first dimension in which two device numbers differ. -/
def firstDim (a b : Nat) : Option (Fin 4) := (List.finRange 4).find? (fun k => coord a k != coord b k)

/-- R399: the torus port of a packet for a device of this pod, with LONGWAY and CLASS; none when it is unreachable. -/
def torusRoute (s : State) (arrival : Option (Fin 8)) (dst : Nat) (longway cls : Bool) : Option (PortId × Bool × Bool) :=
  let me := ownDev s
  match firstDim me dst with
  | none => none
  | some k =>
    let len := ringLen s k
    let same := match arrival with | some a => a.val / 2 == k.val | none => false
    let longway := longway && same
    let cls := cls && same
    let travel := match arrival with | some a => a.val % 2 == 1 | none => true
    let dir := if longway then travel else decide ((coord dst k + len - coord me k) % len ≤ len / 2)
    let turn := !portUsable s (torusPort k dir) && !longway
    let dir := if turn then !dir else dir
    let longway := longway || turn
    if !portUsable s (torusPort k dir) then none
    else
      let wrap := if dir then coord me k + 1 == len else coord me k == 0
      some (torusPort k dir, longway, cls || wrap)

/-- A packet of this device leaves the list of what is on its way; one that passes through was not in it. -/
def dropMsg (s : State) (o : Option LinkMsg) : State :=
  match o with | some m => { s with linkOut := s.linkOut.erase m } | none => s

/-- R399: send a packet on its torus port, or say that it is unreachable; it waits while the port has no credit. -/
def torusSend (s : State) (orig : Option LinkMsg) (arrival : Option (Fin 8)) (dst age : Nat) (longway : Bool) (p : Packet) : Option State :=
  match torusRoute s arrival dst longway p.dclass with
  | none => none
  | some (port, lw, c) =>
    let q := { p with dclass := c }
    match sendOnPort s port q age lw with
    | none => some s
    | some t => some (sendLink (dropMsg t orig) (.forward port (BitVec.ofNat 20 dst) age lw c q))

/-- R370, R399: the home is unreachable: a request goes to the home's twin with REDIR = 1; one that was redirected already is
discarded. -/
def redirect (s : State) (orig : Option LinkMsg) (arrival : Option (Fin 8)) (dst age : Nat) (p : Packet) : State :=
  let drop := dropMsg s orig
  if 0x80 ≤ p.op.toNat then drop
  else if p.od.redir then discardEvent drop 3
  else
    let q := { p with od := { p.od with redir := true } }
    let t := twinOf dst
    if t = ownDev s then sendFabric drop t q
    else match torusSend s orig arrival t age false q with
      | some s => s
      | none => discardEvent drop 3

/-- R400: place a packet for another pod on an uplink. -/
def uplinkSend (s : State) (orig : Option LinkMsg) (dst age : Nat) (p : Packet) : State :=
  let n := objN s 0x0A30 5
  let first := (addrDev p.addr ^^^ p.od.reqdev.toNat) % n
  let portOf (pl : Nat) : PortId := ⟨⟨(1 + pl / 8) % 4, Nat.mod_lt _ (by decide)⟩, ⟨pl % 8, Nat.mod_lt _ (by decide)⟩⟩
  match ((List.range n).map (fun i => portOf ((first + i) % n))).find? (portUsable s) with
  | none => discardEvent (dropMsg s orig) 1
  | some port =>
    match sendOnPort s port p age false with
    | none => s
    | some t => sendLink (dropMsg t orig) (.forward port (BitVec.ofNat 20 dst) age false p.dclass p)

/-- TRANSIT_PACKET (R388, R399-R401): from a torus port, an uplink, or this device itself. A packet for this device is delivered; one for
another device that came on an uplink, or for another pod that came on a torus port, is discarded. -/
def execTransitPacket (arrival : Option PortId) (dst : BitVec 20) (age : Nat) (longway : Bool) (spent : Nat) (p : Packet)
    (s : State) : Out := whenRunning s fun s =>
  if s.fabric.dev.isNone then s else
  let orig : Option LinkMsg := if arrival.isNone then some (.fabric dst p) else none
  let d := dst.toNat
  let a := ageOut age spent
  if arrival.isNone && !s.linkOut.contains (.fabric dst p) then s
  else if d = ownDev s then (if arrival.isNone then s else if 2000 < age then agedOut s else sendFabric s d p)
  else if arrival.any (fun q => !isTorus q) then discardEvent s 2
  else if 2000 < a then agedOut (dropMsg s orig)
  else if pod d ≠ pod (ownDev s) then (if arrival.isNone then uplinkSend s orig d a p else discardEvent s 2)
  else match torusSend s orig (arrival.map (·.port)) d a longway p with
    | some s => s
    | none => redirect s orig (arrival.map (·.port)) d a p

/-- The device that a fabric packet is for: the home of a request, the requester of a response. -/
def packetDev (p : Packet) : Nat := if p.op.toNat < 0x80 then addrDev p.addr else p.od.reqdev.toNat

/-- UPLINK_ROUTE (R400): one unit of AGE in the device and one for the link. -/
def execUplinkRoute (p : Packet) (s : State) : Out := whenRunning s fun s =>
  let d := packetDev p
  let m : LinkMsg := .fabric (BitVec.ofNat 20 d) p
  if s.fabric.dev.isNone || pod d == pod (ownDev s) || !s.linkOut.contains m then s
  else uplinkSend s (some m) d 2 p

/-! ### Register writes (R389, R398, R405) -/

/-- LK_PCTL: SPARE_THR in 1,024..1,048,575, then CMD. -/
def writePctl (s : State) (p : PortId) (v : Word) : State :=
  let s := if 1024 ≤ bits v 60 41 then setFld s (pctl p) 60 41 (bits v 60 41) else s
  match bits v 63 61 with
  | 1 => bringUp s p
  | 2 => takeDown s p
  | 3 => retrain s p
  | 4 => enterTest s p
  | _ => s

/-- LK_PINJ: MODE 3 is ignored. -/
def writePinj (s : State) (p : PortId) (v : Word) : State :=
  if bits v 63 62 = 3 then s else plainWrite s .lkPinj (pinj p) v

/-- LK_LCTL: PATTERN only where a pattern runs; reserved codes and INJEXP below 10 are ignored; SLIP. -/
def writeLctl (s : State) (l : LaneId) (v : Word) : State :=
  let a := lctl l
  let s := if patternLane s l && bits v 62 60 ≠ 7 then setFld s a 62 60 (bits v 62 60) else s
  let s := setFlag s a 59 (bit v 59)
  let s := if bits v 58 57 ≠ 3 then setFld s a 58 57 (bits v 58 57) else s
  let s := if 10 ≤ bits v 56 52 then setFld s a 56 52 (bits v 56 52) else s
  if bit v 63 then slipLane s l else s

/-- LK_LERR: writing all ones to PRBS_ERR clears it. -/
def writeLerr (s : State) (l : LaneId) (v : Word) : State :=
  if bits v 63 32 = 2 ^ 32 - 1 then setFld s (lerr l) 63 32 0 else s

end Sys2Proof.Machine
end

