-- ==== Sys2Proof/Machine/Cv.lean ====
section
/-! DEFINITION. The check-value units (R415-R420). -/

namespace Sys2Proof.Machine
open Sys2Proof

def cvKey (u : CvId) : Nat := 64 * u.die.val + u.unit.val
def getCv (s : State) (u : CvId) : CvUnit := mget {} s.cvs (cvKey u)
def setCv (s : State) (u : CvId) (x : CvUnit) : State := { s with cvs := mset {} s.cvs (cvKey u) x }
/-- CV_CFG 0, CV_SEED 8, CV_EXP 0x10, CV_VAL 0x18, CV_STAT 0x20, CVS_ADDR 0x28, CVS_LEN 0x30. -/
def cvReg (u : CvId) (off : Nat) : Nat := cvAt u.die u.unit off
/-- A unit of S0 (R415). -/
def cvOnS0 (u : CvId) : Bool := u.die.val == 4
/-- The unit exists: 64 on a Basalt die, 32 on S0. -/
def cvExists (u : CvId) : Bool := !cvOnS0 u || u.unit.val < 32
def cvEn (s : State) (u : CvId) : Bool := flag s (cvReg u 0) 63
def cvPoly (s : State) (u : CvId) : Nat := fld s (cvReg u 0) 62 61
def cvCmp (s : State) (u : CvId) : Nat := fld s (cvReg u 0) 60 59
def cvTree (s : State) (u : CvId) : Nat := fld s (cvReg u 0) 46 44
def cvPartner (u : CvId) : CvId := { u with unit := ⟨(u.unit.val ^^^ 1) % 64, Nat.mod_lt _ (by decide)⟩ }
/-- The region of a Basalt unit (R232). -/
def cvRegion (u : CvId) : RegionId := ⟨⟨u.die.val % 4, Nat.mod_lt _ (by decide)⟩, ⟨u.unit.val / 4, by omega⟩⟩

/-- R161, R415: one word added modulo 2^64 - 1 with end-around carry. -/
def addEac (a w : Nat) : Nat := if 2 ^ 64 ≤ a + w then a + w - 2 ^ 64 + 1 else a + w
/-- The 64-bit words of bytes. -/
def eacWords : Nat → List Byte → Nat → Nat
  | 0, _, a => a
  | k + 1, d, a => if d.isEmpty then a else eacWords k (d.drop 8) (addEac a (leNat (d.take 8)))
/-- R415: the value over further bytes from a value; a fed entry in SUM mode is one word. -/
def cvValue (poly v : Nat) (d : List Byte) : Nat :=
  if poly = 0 then crc32c v d else if poly = 1 then crc64 v d else eacWords d.length d v

/-! ### Writes (R418, R437) -/

def cvStatAt (u : CvId) : Nat := cvReg u 0x20
def cvErr (s : State) (u : CvId) : State := setFlag s (cvStatAt u) 61 true

/-- R415, R418: a write to CV_CFG that is ignored. -/
def cvCfgBad (s : State) (u : CvId) (v : Word) : Bool :=
  let cmp := bits v 60 59
  let p := cvPartner u
  bits v 62 61 == 3 || (cmp == 2 && cvOnS0 u) || (cmp == 3 && !cvOnS0 u)
    || (cvEn s u && (bits v 62 61 != cvPoly s u || cmp != cvCmp s u || bits v 46 44 != cvTree s u))
    || (bit v 63 && !cvEn s u && cmp == 2 &&
        (cvCmp s p != 2 || cvPoly s p != bits v 62 61 || cvTree s p != bits v 46 44 || rd s (cvReg p 8) != rd s (cvReg u 8)))

/-- DONE 1, MATCH 2 or MISMATCH 4 pulses until the next edge of the unit's tree (R417, R418). -/
def cvPulse (s : State) (u : CvId) (p : Nat) : State := setCv s u { getCv s u with pulse := (getCv s u).pulse ||| p }

/-- R418: what a mismatch does to units: the pulse, MISM and MISMATCHES, one event, VECTOR, HALT. -/
def cvMismatch (s : State) (us : List CvId) (skew : Bool) (evUnit : CvId) (detail : Nat) : State :=
  let s := us.foldl (fun s u =>
    let s := cvPulse s u 4
    let s := incFld (setFlag s (cvStatAt u) 63 true) (cvStatAt u) 19 4
    if skew then setFlag s (cvStatAt u) 62 true else s) s
  let s := logEvent s 0x0036 evUnit.die ((if cvOnS0 evUnit then 0x100 else 0) + evUnit.unit) 2 detail
  us.foldl (fun s u =>
    let s := if flag s (cvReg u 0) 57 then raiseIrq s u.die (fld s (cvReg u 0) 56 47) else s
    if flag s (cvReg u 0) 58 && !cvOnS0 u && regState s (cvRegion u) == 3 && !regBusy s (cvRegion u) then doHalt s (cvRegion u) else s) s

/-- An S0 run ends with a status (R419, R420); VECTOR is raised when IRQEN = 1. -/
def cvEnd (s : State) (u : CvId) (e : Status) : State :=
  let s := setFld (setFlag s (cvStatAt u) 60 false) (cvStatAt u) 59 52 e
  if flag s (cvReg u 0) 57 then raiseIrq s 4 (fld s (cvReg u 0) 56 47) else s

/-- R420: the status that ends a twin compare before anything is read. -/
def twinRunStatus (s : State) (a n : Nat) : Status :=
  if twinState s ≠ 2 then stMirrorState
  else match mirOf s a with
    | none => stFabricRefused
    | some m =>
      if mirOwner s m ≠ parity s || mirBase s m + mirLen s m < a + n then stFabricRefused
      else if mirState s m ≠ 1 then stMirrorState else stOk

/-- GO (R419, R420). -/
def cvStart (s : State) (u : CvId) : State :=
  if flag s (cvStatAt u) 60 then s else
  let a := fld s (cvReg u 0x28) 47 6 * 64; let n := fld s (cvReg u 0x30) 32 0 * 64
  let e := if userEnd s.part < a + n then stNocDenied else if cvCmp s u = 3 then twinRunStatus s a n else stOk
  if e ≠ 0 then cvEnd s u e
  else setFlag (setCv s u { getCv s u with runAddr := a, runEnd := a + n }) (cvStatAt u) 60 true

/-- CV_CFG: ignored with CFG_ERR, or taken; setting or clearing EN starts the unit afresh; then GO. -/
def writeCvCfg (s : State) (u : CvId) (v : Word) : State :=
  if !cvExists u then s
  else if cvCfgBad s u v then cvErr s u
  else
    let s := if bit v 63 != cvEn s u then setCv s u { getCv s u with acc := 0, started := false, closing := [], toCompare := [], closed := 0, pulse := 0 } else s
    let s := plainWrite s .cvCfg (cvReg u 0) v
    if bit v 43 && bit v 63 && cvOnS0 u then cvStart s u else s
/-- CV_SEED: ignored with CFG_ERR while EN = 1. -/
def writeCvSeed (s : State) (u : CvId) (v : Word) : State :=
  if cvEn s u && v != rd s (cvReg u 8) then cvErr s u else wr s (cvReg u 8) v

/-- CV_GO (R419). -/
def execCvGo (u : CvId) (v : Word) (s : State) : Out := whenRunning s fun s => writeCvCfg s u (setBit v 43 true)

/-! ### Basalt units (R416-R418) -/

/-- R416: the unit acts on edges: enabled, its region released, its tree running. -/
def cvLive (s : State) (u : CvId) : Bool :=
  !cvOnS0 u && cvEn s u && regState s (cvRegion u) == 3 && treeRuns s (cvRegion u) (cvTree s u)

/-- R418: a unit of a pair closes a block while its partner has closed two blocks fewer. -/
def cvSkew (s : State) (u : CvId) : State :=
  let p := cvPartner u
  if cvCmp s u = 2 && (getCv s p).closed + 2 ≤ (getCv s u).closed then
    let even : CvId := if u.unit.val % 2 = 0 then u else p
    cvMismatch { s with freeCtr := s.freeCtr + 1 } [even, cvPartner even] true even (Config.free s.freeCtr).toNat
  else s

/-- R417: an edge with DV = 1: the NB + 1 low bytes of D are fed, and with LAST = 1 the block closes. -/
def cvFeedEdge (s : State) (u : CvId) (data : BitVec 64) (nb : Fin 8) (last : Bool) : State :=
  let x := getCv s u
  let a := if x.started then x.acc.toNat else (rd s (cvReg u 8)).toNat
  let d := (leBytes 8 data.toNat).take (nb + 1)
  let v := if cvPoly s u = 2 then addEac a (leNat d) else cvValue (cvPoly s u) a d
  if last then
    cvSkew (setCv s u { x with acc := 0, started := false, closing := x.closing ++ [BitVec.ofNat 64 v], closed := x.closed + 1 }) u
  else setCv s u { x with acc := BitVec.ofNat 64 v, started := true }

/-- R417: an edge with CLR = 1: the block in progress is discarded. -/
def cvClearEdge (s : State) (u : CvId) : State := setCv s u { getCv s u with acc := 0, started := false }

/-- CV_FEED (R417). -/
def execCvFeed (u : CvId) (data : BitVec 64) (nb : Fin 8) (last : Bool) (s : State) : Out := whenRunning s fun s =>
  if cvLive s u then cvFeedEdge s u data nb last else s

/-- CV_CLEAR (R417). -/
def execCvClear (u : CvId) (s : State) : Out := whenRunning s fun s => if cvLive s u then cvClearEdge s u else s

/-- CV_BLOCK_DONE: the third edge after a closing edge: VALUE, DONE, BLOCKS (R417). -/
def execCvBlockDone (u : CvId) (s : State) : Out := whenRunning s fun s =>
  let x := getCv s u
  if !cvLive s u then s else
  match x.closing with
  | [] => s
  | v :: rest =>
    let cmp := cvCmp s u
    let s := setCv s u { x with closing := rest, toCompare := if cmp = 0 then x.toCompare else x.toCompare ++ [v] }
    incFld (wr (cvPulse s u 1) (cvReg u 0x18) v) (cvStatAt u) 51 20

/-- CV_COMPARE: the fourth edge: with CV_EXP, or a pair's n-th blocks (R418). -/
def execCvCompare (u : CvId) (s : State) : Out := whenRunning s fun s =>
  let x := getCv s u
  if !cvLive s u then s else
  match x.toCompare with
  | [] => s
  | v :: rest =>
    if cvCmp s u = 1 then
      let s := setCv s u { x with toCompare := rest }
      let e := rd s (cvReg u 0x10)
      if v = e then cvPulse s u 2 else cvMismatch s [u] false u (v ^^^ e).toNat
    else
      let p := cvPartner u
      let y := getCv s p
      match y.toCompare with
      | [] => s
      | w :: rest2 =>
        let s := setCv (setCv s u { x with toCompare := rest }) p { y with toCompare := rest2 }
        let even : CvId := if u.unit.val % 2 = 0 then u else p
        if v = w then cvPulse (cvPulse s u 2) p 2 else cvMismatch s [even, cvPartner even] false even (v ^^^ w).toNat

/-! ### S0 units (R419, R420) -/

/-- Granule by granule: the value so far, and the status that ends the run early. -/
def cvGranules (poly : Nat) : Nat → Nat → State × Nat × Status → State × Nat × Status
  | 0, _, r => r
  | k + 1, a, (s, v, e) =>
    if e ≠ 0 then (s, v, e)
    else
      let f := hbmRefusal s .remote a
      if f ≠ 0 then (s, v, f)
      else
        let r := hbmRead s a 64
        if r.2.2 ≠ 0 then (r.1, v, stPoison) else cvGranules poly k (a + 64) (r.1, cvValue poly v r.2.1, 0)

/-- CV_RUN_DONE (R419). It ends once the memory ports can serve what the run reads (R323). -/
def execCvRunDone (u : CvId) (s : State) : Out := whenRunning s fun s =>
  let x := getCv s u
  if !(cvOnS0 u && flag s (cvStatAt u) 60 && cvCmp s u != 3 && hbmFree s x.runAddr (x.runEnd - x.runAddr)) then s else
  let r := cvGranules (cvPoly s u) ((x.runEnd - x.runAddr) / 64) x.runAddr (s, (rd s (cvReg u 8)).toNat, 0)
  let s := r.1; let v : Word := BitVec.ofNat 64 r.2.1
  if r.2.2 ≠ 0 then cvEnd s u r.2.2
  else
    let s := incFld (wr s (cvReg u 0x18) v) (cvStatAt u) 51 20
    let e := rd s (cvReg u 0x10)
    if cvCmp s u = 1 ∧ v ≠ e then
      let s := incFld (setFlag s (cvStatAt u) 63 true) (cvStatAt u) 19 4
      cvEnd (logEvent s 0x0036 4 (0x100 + u.unit) 2 (v ^^^ e).toNat) u stCheckMismatch
    else cvEnd s u stOk

/-- CV_TWIN_CHUNK (R420): `twinValue` is the value that the twin computed over its copy of the chunk. -/
def execCvTwinChunk (u : CvId) (twinValue : BitVec 64) (s : State) : Out := whenRunning s fun s =>
  if !(cvOnS0 u && flag s (cvStatAt u) 60 && cvCmp s u == 3) then s else
  let x := getCv s u
  if twinState s ≠ 2 then cvEnd s u stMirrorState
  else
    let a := x.runAddr
    let next := min x.runEnd ((a / 16384 + 1) * 16384)
    if !hbmFree s a (next - a) then s else
    let r := cvGranules (cvPoly s u) ((next - a) / 64) a (s, (rd s (cvReg u 8)).toNat, 0)
    let s := r.1; let v : Word := BitVec.ofNat 64 r.2.1
    if r.2.2 ≠ 0 then cvEnd s u r.2.2
    else if v ≠ twinValue then
      let s := incFld (setFlag (wr s (cvReg u 0x18) (BitVec.ofNat 64 a)) (cvStatAt u) 63 true) (cvStatAt u) 19 4
      cvEnd (logEvent s 0x0036 4 (0x100 + u.unit) 2 a) u stCheckMismatch
    else
      let s := setCv s u { x with runAddr := next }
      if x.runEnd ≤ next then cvEnd (incFld (wr s (cvReg u 0x18) v) (cvStatAt u) 51 20) u stOk else s

end Sys2Proof.Machine
end

