-- ==== Sys2Proof/Machine/Rel.lean ====
section
/-! DEFINITION. Faults that the duplicated control finds, tile moves, cluster sparing, the SRAM scrub and the watchdog
(R408-R411, R421-R429). -/

namespace Sys2Proof.Machine
open Sys2Proof

/-! ### Tile moves (R422-R424) -/

def tmoveAt (d : Nat) : Nat := rlAt d 0
/-- STATE and RESULT of RL_TMOVE. -/
def tmoveState (s : State) (d : Nat) : Nat := fld s (tmoveAt d) 47 46
def setTmove (s : State) (d st res : Nat) : State := setFld s (tmoveAt d) 47 44 (st * 4 + res)
/-- The logical tile that RL_TMOVE names, if it exists. -/
def tmoveTile (d : Fin 4) (v : Word) : Option TileId :=
  let n := bits v 60 55
  if bit v 61 then (if h : n < 32 then some ⟨d, ⟨64 + n, by omega⟩⟩ else none)
  else some ⟨d, ⟨n % 64, by omega⟩⟩
/-- The endpoint of the spare that RL_TMOVE names. -/
def tmoveSpare (v : Word) : Nat := if bit v 61 then 68 + bits v 54 48 else bits v 54 48
/-- R422: SPARE is a spare of the kind on the die, and the logical tile is served. -/
def spareOk (s : State) (d : Fin 4) (v : Word) : Bool :=
  bits v 54 48 < (if bit v 61 then 34 else 68) && (getPhys s d (tmoveSpare v)).status == 1
    && (match tmoveTile d v with | some t => mapped s t | none => false)

/-- TILE_MOVED (R436). -/
def movedEvent (s : State) (t : TileId) (old new : Nat) (rotate : Bool) (res : Nat) : State :=
  logEvent s 0x0002 t.die t.slot 2 (old + new * 2 ^ 8 + (if rotate then 2 ^ 16 else 0) + res * 2 ^ 17)

def setFenced (s : State) (t : TileId) (b : Bool) : State := setFlag s (stAt t) (fencedBit t) b

/-- R423 step 1: a program that loses a pass, kernel or stream is held, as is a suspended one and one that is held already;
the units that the move ends do not enter its fold. -/
def holdForMove (s : State) (t : TileId) (q : Nat) : State :=
  match getRun (getTile s t) q with
  | none => s
  | some l =>
    if l.held then modRun s t q (fun l => { l with moved := true })
    else if l.live.any (fun u => u.kind != 4) || l.suspended then
      setQState (modRun s t q (fun l => { l with held := true, moved := true, waiting := false, live := l.live.map (fun u => if u.kind = 4 then u else { u with nofold := true }) })) t q 3
    else s

/-- R423 step 1: the tile is fenced with ABANDON, its weight tag cleared, its streams cancelled, its passes and kernel
aborted; the lanes are zero after fencing (R136). -/
def fenceTile (s : State) (t : TileId) : State :=
  let s := setFenced s t true
  let s := modTile s t (fun x => { x with wtag := none, ready := none, front := none, vlanes := [], vlost := none })
  let s := if isV t then s else setFlag s (stAt t) 56 false
  let s := fenceStreams s t
  let s := ((getTile s t).passes.filter (fun p => p.ending.isNone)).foldl (fun s p => abortPass s t p.seq stAborted true) s
  let s := endKernel s t stAborted
  fenceStart s t.die (epOf s t) true

/-- The map points to another physical tile, which is open (R20, R21). -/
def mapTo (s : State) (t : TileId) (old new oldStatus : Nat) : State :=
  let d := t.die
  let s := setPhys s d old { getPhys s d old with status := oldStatus, logical := 255 }
  let s := setPhys s d new { getPhys s d new with status := 0, logical := tileIdx t }
  let s := if isV t then setFld s (stAt t) 63 58 (new - 68) else setFld s (stAt t) 63 57 new
  let s := setFstate (fenceFinish s d old) d new 0
  setFenced s t false

/-- What the spare holds that the old tile held: nothing of its registers; long accumulators INVALID (R158). -/
def freshRegs (x : Tile) : Tile :=
  { x with weights := [], shadow := [], wscales := [], sscales := [], front := none, vlanes := [], vtags := [], vlost := none,
           sregs := [], masks := [], la := [] }
def invalidLas (s : State) (t : TileId) : State := if isV t then setFld s (stAt t) 55 48 0xFF else s

/-- The fields of RL_TMOVE are stored; a GO acts unless a move runs on the die (R422). -/
def tmoveGo (s : State) (d : Fin 4) (v : Word) (f : State → State) : State :=
  let run := tmoveState s d = 1
  let s := plainWrite s .rlTmove (tmoveAt d) v
  if run then s else f { s with moving := mset 0 s.moving d v }

/-- GO in RL_TMOVE with MODE FAULT: refused, or step 1. -/
def moveFault (s : State) (d : Fin 4) (v : Word) : State := tmoveGo s d v fun s =>
  match tmoveTile d v with
  | none => setTmove s d 2 1
  | some t =>
    if !spareOk s d v then setTmove s d 2 1
    else
      let s := setTmove s d 1 0
      let s := setPhys s d (epOf s t) { getPhys s d (epOf s t) with status := 3 }
      fenceTile (holdForMove (holdForMove s t 0) t 1) t

/-- TILE_MOVE_FAULT (R423). -/
def execTileMoveFault (d : Fin 4) (v : Word) (s : State) : Out := whenRunning s fun s => moveFault s d (setBits v 63 62 2)

/-- TILE_MOVED (R423 steps 2-4): once every pass and kernel aborted in step 1 has reported. -/
def execTileMoved (d : Fin 4) (s : State) : Out := whenRunning s fun s =>
  let v := mget 0 s.moving d.val
  if tmoveState s d ≠ 1 then s else
  match tmoveTile d v with
  | none => s
  | some t =>
    let x := getTile s t
    if !x.passes.isEmpty || x.kernel.isSome then s
    else
      let old := epOf s t; let new := tmoveSpare v
      let km : Mem := if isV t then { bytes := x.mem.bytes.filter (fun c => 0x100000 ≤ c.1), poison := x.mem.poison.filter (fun c => 0x4000 ≤ c.1) } else {}
      let s := setTile s t (freshRegs { x with mem := km, invalid := [], accUe := if isV t then x.accUe else [] })
      let s := mapTo (invalidLas s t) t old new 2
      movedEvent (setTmove s d 2 0) t old new false 0

/-- R424: the tile is at a quiesce point; a request on its way to it, or a kernel-memory access that waits, is in flight. -/
def quiesced (s : State) (t : TileId) : Bool :=
  let x := getTile s t
  x.heldKm.isEmpty && (s.out ++ s.noc.flights.map (·.p)).all (fun p => !(isRequest p && p.dest.toNat == tileNode s t))
    && (getRun x 0).isNone && (getRun x 1).isNone && sqHead s t 0 == sqTail s t 0 && sqHead s t 1 == sqTail s t 1
    && (List.range 16).all (fun c => (getStream x c).isNone)

/-- GO in RL_TMOVE with MODE ROTATE; `readback` tells that every word read back equal at the spare. -/
def moveRotate (s : State) (d : Fin 4) (v : Word) (readback : Bool) : State := tmoveGo s d v fun s =>
  match tmoveTile d v with
  | none => setTmove s d 2 1
  | some t =>
    if !spareOk s d v || !quiesced s t then setTmove s d 2 1
    else
      let old := epOf s t; let new := tmoveSpare v
      let s := fenceTile s t
      if readback then
        let s := modTile (invalidLas s t) t freshRegs
        movedEvent (setTmove (mapTo s t old new 1) d 2 0) t old new true 0
      else
        let s := setPhys s d new { getPhys s d new with status := 2 }
        let s := setFenced (setFstate s d old 0) t false
        movedEvent (setTmove s d 2 2) t old new true 2

/-- TILE_MOVE_ROTATE (R424). -/
def execTileMoveRotate (d : Fin 4) (v : Word) (readback : Bool) (s : State) : Out := whenRunning s fun s =>
  moveRotate s d (setBits v 63 62 3) readback

/-- RL_TMOVE as a register: the fields, and GO; a rotation's read-back is good unless TILE_MOVE_ROTATE says otherwise. -/
def writeTmove (s : State) (d : Fin 4) (v : Word) : State :=
  if !bit v 63 then plainWrite s .rlTmove (tmoveAt d) v
  else if bit v 62 then moveRotate s d v true else moveFault s d v

/-! ### Cluster sparing (R426) -/

def cspareAt (d : Nat) : Nat := rlAt d 8
def cspareState (s : State) (d : Nat) : Nat := fld s (cspareAt d) 50 49
def setCspare (s : State) (d st res : Nat) : State := setFld s (cspareAt d) 50 47 (st * 4 + res)
def cspareRegion (d : Fin 4) (v : Word) : RegionId := ⟨d, ⟨bits v 62 59 % 16, Nat.mod_lt _ (by decide)⟩⟩

/-- RL_CSPARE: the fields are stored; a GO is ignored while a sparing runs on the die (log 101). -/
def writeCspare (s : State) (d : Fin 4) (v : Word) : State :=
  let run := cspareState s d = 1
  let s := plainWrite s .rlCspare (cspareAt d) v
  if !bit v 63 || run then s else
  let r := cspareRegion d v
  let st := regState s r
  if st < 2 ∨ 4 < st ∨ regBusy s r ∨ 200 ≤ bits v 58 51 then setCspare s d 2 2
  else if 2 ≤ (getRegion s r).spares.length then setCspare s d 2 1
  else setCspare (modRegion { s with sparing := mset 0 s.sparing d v } r (fun x => { x with paused := true })) d 1 0
/-- CLUSTER_SPARED (R426): GO. -/
def execClusterSpared (d : Fin 4) (v : Word) (s : State) : Out := whenRunning s fun s => writeCspare s d (setBit v 63 true)

/-- CLUSTER_SPARE_DONE (R426): the spare serves the cluster, or is retired. -/
def execClusterSpareDone (d : Fin 4) (readback : Bool) (s : State) : Out := whenRunning s fun s =>
  if cspareState s d ≠ 1 then s else
  let v := mget 0 s.sparing d.val
  let r := cspareRegion d v; let c := bits v 58 51
  let hard (w : Nat) : Bool := 1 + 8 * c ≤ w / 128 && w / 128 < 9 + 8 * c
  let s := modRegion s r (fun x => if readback then
      { x with paused := false, spares := x.spares ++ [c], hardWords := x.hardWords.filter (fun w => !hard w) }
    else { x with paused := false, spares := x.spares ++ [255] })
  let res := if readback then 0 else 3
  logEvent (setCspare s d 2 res) 0x0032 d r.n 2 (c + res * 2 ^ 8)

/-! ### Configuration scrub (R286, R427) -/

/-- CFG_SCRUB_READ (R286): `again` tells that the error was still there on the second read, or came back within 1 ms. -/
def execCfgScrubRead (r : RegionId) (word : Nat) (ecc : Ecc) (again : Bool) (s : State) : Out := whenRunning s fun s =>
  if regState s r ≤ 1 || 221440 ≤ word then s else
  match ecc with
  | .good => s
  | .corrected =>
    let s := upsetFfs (incFld s (cfgReg r 0x20) 59 44) r
    if again then
      let s := modRegion s r (fun x => { x with hardWords := if x.hardWords.contains word then x.hardWords else word :: x.hardWords })
      logEvent (satFld s (cfgReg r 0x20) 43 36) 0x0030 r.die r.n 2 (8 * word)
    else s
  | .uncorrectable => cfgUncorr s r word

/-! ### SRAM scrub (R429) -/

def sramAt (d : Nat) : Nat := rlAt d 0x10
/-- RL_SRAM: SRAM_S in 1..60. -/
def writeSram (s : State) (d : Nat) (v : Word) : State :=
  if 1 ≤ bits v 63 58 ∧ bits v 63 58 ≤ 60 then setFld s (sramAt d) 63 58 (bits v 63 58) else s

/-- UNIT and DETAIL of a word's event. -/
def sramPlace (s : State) (x : SramTarget) : Nat × Nat :=
  match x with
  | .scratch t o | .accum t o | .kernelMem t o => (epOf s t, o)
  | .blockMem n _ | .queueMem n _ => (0xFFF, n)

/-- The place exists on the die. -/
def sramValid (d : Fin 4) (x : SramTarget) : Bool :=
  match x with
  | .scratch t o => t.die == d && o < (if isV t then 0x100000 else 0x400000)
  | .accum t o => t.die == d && !isV t && 0x400000 ≤ o && o < 0x700000
  | .kernelMem t o => t.die == d && isV t && 0x100000 ≤ o && o < 0x110000
  | .blockMem n w => n < 1024 && w < 1024
  | .queueMem n e => n < 512 && e < 4096

/-- What an uncorrectable word leaves: poison in scratch, a bad word in accumulator, kernel, block and queue memory (R106, R111, R159,
R253). -/
def sramSpoil (s : State) (d : Fin 4) (x : SramTarget) : State :=
  match x with
  | .scratch t o =>
    modTile s t (fun x => { x with mem := { x.mem with poison := mset false x.mem.poison (o / 64) true } })
  | .accum t o | .kernelMem t o => modTile s t (fun x => { x with accUe := mset false x.accUe (o / 8) true })
  | .blockMem n w =>
    modRegion s ⟨d, ⟨n / 64 % 16, Nat.mod_lt _ (by decide)⟩⟩ (fun x => { x with bramUe := mset false x.bramUe (1024 * (n % 64) + w) true })
  | .queueMem n e => let x := getQc s d n; { s with qcs := mset {} s.qcs (qcKey d n) { x with ue := mset false x.ue e true } }

/-- SRAM_SCRUB (R429). An uncorrectable word of a block or queue memory is reported when it is read (R253). -/
def execSramScrub (d : Fin 4) (target : SramTarget) (ecc : Ecc) (s : State) : Out := whenRunning s fun s =>
  if !sramValid d target then s else
  let p := sramPlace s target
  match ecc with
  | .good => s
  | .corrected => logEvent (incFld s (sramAt d) 57 42) 0x0003 d p.1 1 p.2
  | .uncorrectable =>
    let s := satFld (sramSpoil s d target) (sramAt d) 41 34
    match target with
    | .blockMem .. | .queueMem .. => s
    | _ => logEvent s 0x0004 d p.1 2 p.2

/-! ### Watchdog, lockstep, duplicated control (R408, R411, R465) -/

/-- RL_WDOG: BEAT. -/
def writeWdog (s : State) (v : Word) : State := if bit v 63 then { s with beat := nowNs s 4 } else s
/-- BEAT (R411). -/
def execBeat (s : State) : Out := whenRunning s fun s => writeWdog s (BitVec.ofNat 64 (2 ^ 63))
/-- WATCHDOG_EXPIRY (R411): while armed. -/
def execWatchdogExpiry (s : State) : Out := whenRunning s fun s => if flag s wdogAt 62 then devFail s 0 8 else s
/-- LOCKSTEP_MISMATCH (R408, R465). -/
def execLockstepMismatch (s : State) : Out := whenRunning s fun s => devFail s 0 8
/-- SHALE_COMPARE_MISMATCH (R408). -/
def execShaleCompareMismatch (shale : Fin 4) (s : State) : Out := whenRunning s fun s =>
  if shaleFitted s shale then devFail s 0 (4 + shale.val) else s

/-- R226, R408: a program held for a fault of its tile's control. -/
def holdForControl (s : State) (t : TileId) (q : Nat) : State :=
  match getRun (getTile s t) q with
  | none => s
  | some l => if l.held then s else
    let s := holdProgram s t q 0 0
    match (getTile s t).kernel with
    | some k => if k.q = q then endKernel s t stAborted else s
    | none => s

/-- CONTROL_COMPARE_MISMATCH (R408): a tile fault, its programs held. -/
def execControlCompareMismatch (t : TileId) (s : State) : Out := whenRunning s fun s =>
  if mapped s t then tileFaultEvent (holdForControl (holdForControl s t 0) t 1) t 0 stTileFault else s

end Sys2Proof.Machine
end

