-- ==== Sys2Proof/Machine/Trust.lean ====
section
/-! DEFINITION. The chain of trust, the boot timeline, resets, recovery, updates and attestation (R345, R457-R489, R491, R503). -/

namespace Sys2Proof.Machine
open Sys2Proof

def grBoot : Nat := grAt 0
def grPcie : Nat := grAt 8
/-- STAGE of GR_BOOT: 0 ROM, 1 STAGE1, 2 STAGE2, 3 READY, 4 RECOVERY, 5 HOLD. -/
def stage (s : State) : Nat := fld s grBoot 63 60
def setStage (s : State) (v : Nat) (reason : Status) : State := setFld (setFld s grBoot 63 60 v) grBoot 59 52 reason
/-- The firmware runs (R448, R476): step 7 is complete, outside RECOVERY, and Granite's clocks run. -/
def fwRuns (s : State) : Bool := running s && 7 ≤ s.bootStep && stage s != 4

/-! ### Resets (R481, R491, R503) -/

/-- The device number in flash, if one is set (R345). -/
def devOfFlash (s : State) : Option (BitVec 20) :=
  if objN s 0x0A01 1 ≤ 0xFFFFF then some (BitVec.ofNat 20 (objN s 0x0A01 1)) else none

/-- Objects whose bytes outlast a reset: those kept in flash and the incarnation; and, while the standby rails stay up, those
held by the management controller and the counts since power-up. The freeze's own objects do not (R442, R503, log 30). -/
def objOutlasts (p : Part) (standby : Bool) (k : Nat) : Bool :=
  let idx := k / 256; let sub := k % 256
  if idx = 0xF012 then false
  else if idx = 0x0A02 then sub == 4
  else match objInfo p idx sub with
    | some i => i.kept || (standby && (i.serve == 0 || idx == 0x0E01))
    | none => false

/-- R446: the Owner's sessions end, the bitstream keys go, the Owner objects return to their defaults. -/
def ownerGone (m : Mgmt) : Mgmt :=
  let gone (k : Nat) : Bool := [0x0C10, 0x0C11, 0x0A10, 0x0C20, 0xF020].contains (k / 256)
  { m with sessions := m.sessions.filter (fun x => x.level != 2), regionOp := none, objs := m.objs.filter (fun e => !gone e.1), ownerEnds := none }
/-- R446: an Owner key takes effect once the n requests already accepted have completed. -/
def ownerWaits (m : Mgmt) (n : Nat) : Mgmt := if n = 0 then ownerGone m else { m with ownerEnds := some n }
/-- Requests accepted and not completed: those that wait, and the one whose response waits for a flash write (R451). -/
def accepted (m : Mgmt) : Nat := m.queue.length + (if m.heldReply.isSome then 1 else 0)

/-- The management controller after a reset: it lives in the always-on domain (R17, R503); what the firmware and Granite held
there is gone. -/
def mgmtReset (p : Part) (standby : Bool) (m : Mgmt) : Mgmt :=
  if standby then
    let n := { m with objs := m.objs.filter (fun e => objOutlasts p true e.1), unapplied := [], regionOp := none, running := [], mbox := [],
                      queue := m.queue.filter (fun q => match q.via with | .mailbox _ => false | _ => true), retryWait := false,
                      fetching := false }
    match m.ownerEnds with | some k => ownerWaits n (min k (accepted n)) | none => n
  else { objs := m.objs.filter (fun e => objOutlasts p false e.1), fw := m.fw, host := m.host }

/-- A device reset: every part except the always-on domain, the event log, OTP and flash; HBM keeps its contents in
self-refresh unless its power was lost, which loses the soft repairs too; what firmware has recorded of them stays (R339,
R503). What has left the package stays left. -/
def deviceReset (s : State) (hbmPowered : Bool) : State :=
  let b := rd s grBoot
  let n : State :=
    { part := s.part, log := s.log, pins := { s.pins with devReady := false }, linkOut := s.linkOut, dgrams := s.dgrams,
      pcieOut := s.pcieOut, freeCtr := s.freeCtr, pending := s.pending, hot := s.hot,
      hbm := if hbmPowered then { mem := s.hbm.mem, written := s.hbm.written, weak := s.hbm.weak, zeroed := s.hbm.zeroed,
                                  repaired := s.hbm.repaired, recorded := s.hbm.recorded, hard := s.hbm.hard }
             else { recorded := s.hbm.recorded, hard := s.hbm.hard }
      mgmt := mgmtReset s.part true s.mgmt }
  let n := wr (wr n logNewAt (rd s logNewAt)) logOvrAt (rd s logOvrAt)
  let n := setFld (setFld n grBoot 51 45 (bits b 51 45)) grBoot 44 41 (bits b 44 41)
  let n := setFlag n grPcie 63 s.pins.gmode
  setFab n { n.fabric with dev := devOfFlash n }

/-- RST_N (R503): no effect while PWR_GOOD is low. -/
def execRstN (s : State) : Out := .next (if s.pins.pwrGood then deviceReset s true else s)

/-- STBY_GOOD rises (R491): the always-on domain starts. -/
def execStbyGood (s : State) : Out :=
  .next (if s.pins.stbyGood then s else { s with pins := { s.pins with stbyGood := true } })

/-- STBY_GOOD falls (R433, R491): the always-on domain loses the log, the sessions and its objects. -/
def execStbyGoodFall (s : State) : Out := .next (
  if s.pins.stbyGood then
    wr (wr { s with pins := { s.pins with stbyGood := false }, log := [], mgmt := mgmtReset s.part false s.mgmt } logNewAt 0) logOvrAt 0
  else s)

/-- PWR_GOOD rises (R476, R491, R502): GMODE is sampled and the boot timeline starts; HBM has lost its power (R492). -/
def execPwrGoodRise (gmode : Bool) (s : State) : Out := .next (
  if s.pins.stbyGood && !s.pins.pwrGood then
    deviceReset { s with hot := [], pins := { s.pins with pwrGood := true, gmode := gmode } } false
  else s)

/-! ### Manifests (R471-R475) -/

/-- The image slot as it stands. -/
def slotOf (s : State) (host : Bool) : ImageSlot :=
  if host then s.mgmt.host.getD { manifest := Config.hostManifest, image := Config.hostImage }
  else s.mgmt.fw.getD { manifest := Config.fwManifest, image := Config.fwImage }
def setSlot (s : State) (host : Bool) (x : ImageSlot) : State :=
  { s with mgmt := if host then { s.mgmt with host := some x } else { s.mgmt with fw := some x } }

/-- A field of a manifest, little-endian. -/
def mfield (m : List Byte) (a n : Nat) : Nat := leNat ((m.drop a).take n)
def mpart (m : List Byte) (a n : Nat) : List Byte := (m.drop a).take n
def mLen1 (m : List Byte) : Nat := mfield m 16 4
def mLen2 (m : List Byte) : Nat := mfield m 20 4
/-- R471: stage 2 begins at the first 4 KiB boundary after stage 1. -/
def stage2At (m : List Byte) : Nat := cdiv (mLen1 m) 4096 * 4096
/-- The bytes of an image: stage 1 alone, or with the padding and stage 2. -/
def imageLen (m : List Byte) : Nat := if mLen2 m = 0 then mLen1 m else stage2At m + mLen2 m
def stage1Of (x : ImageSlot) : List Byte := x.image.take (mLen1 x.manifest)
def stage2Of (x : ImageSlot) : List Byte := (x.image.drop (stage2At x.manifest)).take (mLen2 x.manifest)
def sha (d : List Byte) : List Byte := leBytes 64 (Config.sha512 d).toNat
/-- R472: the key-set identifier. -/
def keyId (ed ml : List Byte) : List Byte := sha (ed ++ ml)
def digest1Ok (x : ImageSlot) : Bool := sha (stage1Of x) == mpart x.manifest 24 64
def digest2Ok (x : ImageSlot) : Bool := sha (stage2Of x) == mpart x.manifest 88 64

def svnFused (s : State) : Nat := fld s grBoot 51 45
def revoked (s : State) : Nat := fld s grBoot 44 41
def ownerEd (s : State) : List Byte := objGet s 0x0212 1
def ownerMl (s : State) : List Byte := objGet s 0x0212 2
/-- The level's key set, both keys installed (R445): 1 Operator, 2 Owner. -/
def levelKeys (s : State) (level : Nat) : Option (List Byte × List Byte) :=
  let idx := if level = 1 then 0x0210 else 0x0212
  if (level = 1 || level = 2) && objGet s idx 1 != [] && objGet s idx 2 != [] then some (objGet s idx 1, objGet s idx 2) else none

/-- R472, R473 (1): the manifest is well formed and its image fits the slot. -/
def manifestLegal (host : Bool) (m : List Byte) : Bool :=
  m.length == 5512 && mfield m 0 4 == 0x4C5A464D && mfield m 4 2 == 1 && mfield m 7 1 < 32 && mfield m 14 2 == 0
    && mfield m 5509 3 == 0 && 1 ≤ mLen1 m && mLen1 m ≤ 6291456 && (!host || mLen2 m == 0)
    && 0x2000 + imageLen m ≤ (if host then 0x1000000 else 0x2800000)

/-- R473, steps 1-5. -/
def manifestCheck (s : State) (host : Bool) (m : List Byte) : Status :=
  let ed := mpart m 152 32; let ml := mpart m 184 1952; let slot := mfield m 6 1
  if !manifestLegal host m then stImageFormat
  else if host && levelKeys s 2 != some (ed, ml) then stAuthFail
  else if !host && !(slot < 4 && keyId ed ml == leBytes 64 (Config.otpKey slot).toNat) then stAuthFail
  else if !host && (revoked s).testBit slot then stAuthRevoked
  else if !host && mfield m 12 2 < svnFused s then stAuthRollback
  else if !(Config.edVerify ed (m.take 2136) (mpart m 2136 64) && Config.mlVerify ml (m.take 2136) (mpart m 2200 3309)) then stAuthFail
  else 0

/-! ### Policy objects (R455) -/

/-- Write a field of one register on every Basalt die. -/
def onBasalt (s : State) (f : State → Nat → State) : State := (List.range 4).foldl f s

/-- The hardware field that a policy object names takes the object's value. -/
def applyPolicy (s : State) (idx sub : Nat) : State :=
  let v := objN s idx sub
  if idx = 0x1030 then
    if sub = 1 then onBasalt s (fun s d => setFld s (hbmAt d 0x20) 11 0 v)
    else if sub = 2 then (List.range 9).foldl (fun s d => if s.part.dieFitted d then setFld s (nocAt d 0) 53 44 v else s) s
    else s
  else if idx = 0x1040 then
    if sub = 4 then onBasalt s (fun s d => setFld s (rlAt d 0x10) 63 58 v)
    else if sub = 5 then onBasalt s (fun s d => setFld s (hbmAt d 0x28) 63 59 v)
    else if sub = 6 then allRegions.foldl (fun s r => setFld s (cfgReg r 0x20) 63 60 v) s
    else s
  else if idx = 0x10A0 then
    if sub = 1 then setFld s (fxAt 0 0) 63 55 v
    else if sub = 2 then setFld s (fxAt 0 0) 54 48 v
    else if sub = 3 then setFld s (fxAt 0 0) 47 43 v
    else if sub = 4 then setFld s (fxAt 0 0) 42 36 v
    else s
  else s

/-- Every policy object that has a hardware field. -/
def policies : List (Nat × Nat) := [(0x1030, 1), (0x1030, 2), (0x1040, 4), (0x1040, 5), (0x1040, 6), (0x10A0, 1), (0x10A0, 2), (0x10A0, 3), (0x10A0, 4)]

/-- POLICY_APPLY (R455): the firmware writes an acknowledged policy object into its field. -/
def execPolicyApply (obj : DictRef) (s : State) : Out := .next (
  if fwRuns s && s.mgmt.unapplied.contains obj then
    applyPolicy { s with mgmt := { s.mgmt with unapplied := s.mgmt.unapplied.erase obj } } obj.index.toNat obj.sub.toNat
  else s)

/-! ### The boot timeline (R476-R478, R486) -/

/-- Step 3: the manifest and stage 1 are checked; an update that was not completed leads to RECOVERY (R481). -/
def bootManifest (s : State) : State :=
  let x := slotOf s false
  let e := manifestCheck s false x.manifest
  let e := if e ≠ 0 then e else if !digest1Ok x || [1, 2, 4].contains (objN s 0x0220 5) then stAuthFail else 0
  if e ≠ 0 then setStage s 4 e
  else setStage (setFld { s with bootStep := 3, mgmt := { s.mgmt with running := x.manifest } } grBoot 40 39 (mfield x.manifest 6 1)) 1 0

/-- Step 6 for one channel: it is trained, then its contents are kept or zeroed; or it fails, with an event (log 31). -/
def bootChannel (o : BootOutcome) (s : State) (c : Nat × Nat) : State :=
  if !chFitted s.part c.2 then s
  else if o.untrained.contains (c.1 * 64 + c.2) then logEvent s 0x0012 c.1 c.2 3 0
  else
    let s := setTrained s c.1 c.2 true
    if o.keepHbm then s else setHbm s (zeroChannel s.hbm (c.1 * 64 + c.2))

/-- Step 6: HBM training; the map is locked once every fitted channel is trained, else the boot stays in HOLD. -/
def bootHbm (o : BootOutcome) (s : State) : State :=
  let s := allChannels.foldl (bootChannel o) s
  if allChannels.all (fun c => !chFitted s.part c.2 || chTrained s c.1 c.2) then
    { setFlag s hbmMap 63 true with bootStep := 6 }
  else setStage s 5 stHbmUntrained

/-- Step 7: stage 2. -/
def bootStage2 (s : State) : State :=
  if digest2Ok (slotOf s false) then setStage { s with bootStep := 7 } 2 0 else setStage s 4 stAuthFail

/-- R477: the logical index that each physical tile of one kind serves after the self-test (255: none): a tile that passed
keeps its own index, the lowest spares that passed take the indices of tiles that failed, and with too few tiles the
highest indices stay unmapped (log 32). -/
def selfTestMap (good : List Nat) (logical : Nat) : Nat → Nat :=
  let m := min logical good.length
  let holes := (List.range m).filter (fun i => !good.contains i)
  let spare := good.filter (fun e => m ≤ e)
  fun e => if e < m && good.contains e then e
    else match spare.idxOf? e with | some k => holes.getD k 255 | none => 255

/-- R477: the physical tiles of one kind after the self-test; each logical index that stays unmapped raises an event. -/
def mapKind (o : BootOutcome) (d : Fin 4) (base phys first logical : Nat) (s : State) : State :=
  let good := (List.range phys).filter (fun e => !o.failedTiles.contains (d.val * 256 + base + e))
  let serves := selfTestMap good logical
  let s := (List.range phys).foldl (fun s e =>
    let ph := getPhys s d (base + e)
    let status := if !good.contains e then 2 else if serves e < logical then 0 else 1
    setPhys s d (base + e) { ph with status, logical := serves e }) s
  (List.range logical).foldl (fun s i =>
    if h : first + i < 96 then
      let t : TileId := ⟨d, ⟨first + i, h⟩⟩
      match (List.range phys).find? (fun e => serves e == i) with
      | some e => if isV t then setFld s (stAt t) 63 58 e else setFld s (stAt t) 63 57 e
      | none => logEvent s 0x0001 d (base + i) 2 0
    else s) s

/-- Step 8: the incarnation advances, the tiles are tested and mapped, the policies are written. -/
def bootTiles (o : BootOutcome) (s : State) : State :=
  let s := objSetN s 0x0A02 4 ((objN s 0x0A02 4 + 1) % 2 ^ 32)
  let s := (List.finRange 4).foldl (fun s (d : Fin 4) => mapKind o d 68 34 64 32 (mapKind o d 0 68 0 64 s)) s
  let s := policies.foldl (fun s x => applyPolicy s x.1 x.2) s
  { s with bootStep := 8, mgmt := { s.mgmt with unapplied := [] } }

/-- Step 9: the host image is checked, copied to the base of the carve-out, and the host harts are released (R486). -/
def bootHost (s : State) : State :=
  let x := slotOf s true
  let e := manifestCheck s true x.manifest
  let e := if e ≠ 0 then e else if digest1Ok x then 0 else stAuthFail
  let s := objSetN { s with bootStep := 9 } 0x0232 7 e
  if e ≠ 0 then s
  else setFlag (objSet (hbmPut s (fwEnd s.part) (stage1Of x) (fun _ => false)) 0x0232 6 (mpart x.manifest 24 64)) grBoot 38 true

/-- BOOT_STAGE (R476): the next of steps 1-9 completes, or sends the device to RECOVERY or HOLD. -/
def execBootStage (outcome : BootOutcome) (s : State) : Out := whenRunning s fun s =>
  if stage s = 4 || stage s = 5 then s else
  match s.bootStep with
  | 0 => { s with bootStep := 1 }
  | 1 => { s with bootStep := 2 }
  | 2 => bootManifest s
  | 3 => { s with bootStep := 4, mgmt := { s.mgmt with segUp := true } }
  | 4 => { (allPorts s).foldl bringUp s with bootStep := 5 }
  | 5 => bootHbm outcome s
  | 6 => bootStage2 s
  | 7 => bootTiles outcome s
  | 8 => bootHost s
  | _ => s

/-- R475: after Fabric Ready the firmware blows the fuses that the manifest of the running image names. -/
def blowFuses (s : State) : State :=
  let m := s.mgmt.running
  let f := mfield m 7 1
  let s := if f % 2 = 1 then setFld s grBoot 51 45 (max (svnFused s) (min (mfield m 12 2) 64)) else s
  setFld s grBoot 44 41 (revoked s ||| (f / 2 % 16 &&& (15 - 2 ^ fld s grBoot 40 39)))

/-- Every fitted channel is trained. -/
def allTrained (s : State) : Bool := allChannels.all (fun c => !chFitted s.part c.2 || chTrained s c.1 c.2)

/-- FABRIC_READY (R396, R411, R478): step 8 is complete, a device number is set and every fitted channel is trained. -/
def execFabricReady (s : State) : Out := whenRunning s fun s =>
  if s.bootStep < 8 || stage s = 3 || stage s = 4 || s.failed then s
  else if !allTrained s then setStage s 5 stHbmUntrained
  else if s.fabric.dev.isNone then setStage s 5 stBooting
  else
    let s := setStage { s with pins := { s.pins with devReady := true }, beat := nowNs s 4 } 3 0
    let s := blowFuses (setFld (setFlag s wdogAt 62 true) admitAt 63 57 0)
    match s.twin.partner with
    | some i => joinTwin s i
    | none => setTwinState s 1

/-! ### Updates (R481) -/

/-- The index of the update objects of a slot. -/
def updIdx (host : Bool) : Nat := if host then 0x0232 else 0x0220
def updState (s : State) (host : Bool) : Nat := objN s (updIdx host) 5
def setUpd (s : State) (host : Bool) (st : Nat) : State := objSetN s (updIdx host) 5 st
/-- UPD_RESULT; the host slot has no such object. -/
def setUpdResult (s : State) (host : Bool) (e : Status) : State := if host then s else objSetN s 0x0220 6 e
/-- The firmware slot's objects are served by the controller, the host slot's by the firmware (R488). -/
def updServed (s : State) (host : Bool) : Bool := s.pins.stbyGood && s.mgmt.segUp && (!host || fwRuns s)

/-- MANIFEST. -/
def doManifest (s : State) (host : Bool) (m : List Byte) : State :=
  let e := manifestCheck s host m
  if e ≠ 0 then setUpdResult s host e
  else setUpdResult (objSetN (setUpd (setSlot s host { manifest := m, image := [] }) host 1) (updIdx host) 3 0) host 0
def execManifest (host : Bool) (m : List Byte) (s : State) : Out := .next (if updServed s host && (host || !s.mgmt.fetching) then doManifest s host m else s)

/-- DATA: its status, and the state after it. -/
def doData (s : State) (host : Bool) (d : List Byte) : Status × State :=
  let x := slotOf s host
  let off := objN s (updIdx host) 3
  if updState s host ≠ 1 || imageLen x.manifest < off + d.length then (stDictRange, s)
  else (stOk, objSetN (setSlot s host { x with image := x.image.take off ++ d }) (updIdx host) 3 (off + d.length))
def execUpdData (host : Bool) (data : List Byte) (s : State) : Out := .next (if updServed s host && data.length ≤ 16384 then (doData s host data).2 else s)

/-- Commit: both digests on a read-back. -/
def doUpdCommit (s : State) (host : Bool) : State :=
  let x := slotOf s host
  let ok := digest1Ok x && (host || digest2Ok x)
  setUpdResult (setUpd s host (if ok then 3 else 4)) host (if ok then stOk else stAuthFail)
def execUpdCommit (host : Bool) (s : State) : Out := .next (if updServed s host then doUpdCommit s host else s)
def execUpdAbort (host : Bool) (s : State) : Out := .next (if updServed s host then setUpd s host 4 else s)

/-- FAIL_NOTICE before a reset or a loss of power (R368, R481, R492). -/
def noticeTwin (s : State) : State := if twinState s = 2 || twinState s = 3 then sendLink s .failNotice else s

/-- Reset: accepted in states 0 and 3. -/
def updMayReset (s : State) (host : Bool) : Bool := updState s host == 0 || updState s host == 3
def doUpdReset (s : State) : State := deviceReset (noticeTwin s) true
def execUpdReset (s : State) : Out := .next (
  if updServed s false && s.pins.pwrGood && updMayReset s false then doUpdReset s else s)

/-! ### Recovery (R479, R480) -/

/-- The twin port: S0:P6 or S0:P7, by bit 0 of the device number. -/
def twinPort (s : State) : PortId := ⟨0, if parity s = 0 then 6 else 7⟩

def setFetching (s : State) (b : Bool) : State := { s with mgmt := { s.mgmt with fetching := b } }
/-- A fetch failed; the next comes after a second. -/
def fetchFailed (s : State) : State :=
  { s with mgmt := { s.mgmt with fetching := false, fetchTries := s.mgmt.fetchTries + 1, retryWait := true } }

/-- The fetch under way: the twin serves its slot or refuses; the image is checked, written and read back, and the device resets. -/
def fetchEnd (s : State) (twinServes : Bool) (m image : List Byte) : State :=
  if !twinServes || manifestCheck s false m ≠ 0 then fetchFailed s
  else
    let s := setSlot s false { manifest := m, image := image.take (imageLen m) }
    let x := slotOf s false
    if digest1Ok x && digest2Ok x then
      let s := setUpd { s with mgmt := { s.mgmt with fetchTries := 0 } } false 0
      deviceReset s true
    else fetchFailed s

/-- RECOVERY_FETCH: the twin port is brought up; with it up, the twin is asked for its slot; then what it answers comes (R480). -/
def execRecoveryFetch (twinServes : Bool) (m : List Byte) (image : List Byte) (s : State) : Out := whenRunning s fun s =>
  let up := updState s false
  if stage s ≠ 4 || objN s 0x0221 1 ≠ 1 || s.fabric.dev.isNone then s
  else if s.mgmt.fetching then fetchEnd s twinServes m image
  else if up = 1 || up = 2 || s.mgmt.retryWait || 3 ≤ s.mgmt.fetchTries then s
  else if portState s (twinPort s) < 5 || 6 < portState s (twinPort s) then bringUp s (twinPort s)
  else sendLink (setFetching s true) .fetchAsk

/-- RECOVERY_RETRY: a second has passed; up to three fetches. -/
def execRecoveryRetry (s : State) : Out := whenRunning s fun s =>
  if s.mgmt.retryWait && s.mgmt.fetchTries < 3 then { s with mgmt := { s.mgmt with retryWait := false } } else s

/-! ### Owner keys and attestation (R446, R485) -/

/-- An Operator write of an Owner key; `n` requests have been accepted and not completed. -/
def doOwnerKey (s : State) (mldsa : Bool) (key : List Byte) (n : Nat) : State :=
  let s := objSet s 0x0212 (if mldsa then 2 else 1) key
  { s with mgmt := ownerWaits s.mgmt n }
/-- A request has completed: one less before an Owner key takes effect (R446). -/
def requestDone (s : State) : State :=
  match s.mgmt.ownerEnds with | some n => { s with mgmt := ownerWaits s.mgmt (n - 1) } | none => s
def ownerKeyLen (mldsa : Bool) : Nat := if mldsa then 1952 else 32
def execOwnerKeyWrite (mldsa : Bool) (key : List Byte) (s : State) : Out := .next (
  if s.pins.stbyGood && s.mgmt.segUp && (key == [] || key.length == ownerKeyLen mldsa) then doOwnerKey s mldsa key (accepted s.mgmt) else s)

/-- NONCE: at most 32 bytes. -/
def execNonce (v : List Byte) (s : State) : Out := .next (if fwRuns s && v.length ≤ 32 then objSet s 0x0231 1 v else s)

/-- R482: the identity digest. -/
def identity (s : State) : List Byte :=
  sha (leBytes 16 Config.serial.toNat ++ (List.range 9).flatMap (fun n => if s.part.dieFitted n then leBytes 12 (Config.dieRecord n).toNat else leBytes 12 0))

/-- FW_DIGEST (R485): of the running manifest, bytes 0-2,135. -/
def fwDigest (s : State) : List Byte := sha (s.mgmt.running.take 2136)
def fwVersion (s : State) : Nat := mfield s.mgmt.running 8 4

def flagBits (l : List Bool) : Nat := l.foldr (fun b n => (if b then 1 else 0) + 2 * n) 0

/-- R485: the digest of a region's design when it is COMMITTED, RELEASED or HALTED. -/
def regionDigest (s : State) (r : RegionId) : Option (List Byte) :=
  if 2 ≤ regState s r ∧ regState s r ≤ 4 then (getRegion s r).header.map (·.digest) else none

/-- R485: the report, its signatures over bytes 0-4,431. -/
def reportBytes (s : State) : List Byte :=
  let hosts := flag s grBoot 38
  let owner := (levelKeys s 2).isSome
  let bitkeys := objGet s 0x0C10 1 != [] && objGet s 0x0C11 1 != []
  let body := leBytes 4 0x4C5A4154 ++ leBytes 2 1 ++ leBytes 1 (partCode s.part) ++ leBytes 1 (twinState s)
    ++ padTo 32 (objGet s 0x0231 1) ++ leBytes 16 Config.serial.toNat ++ leBytes 4 (objN s 0x0A01 1) ++ leBytes 4 (objN s 0x0A02 4)
    ++ leBytes 4 (fwVersion s) ++ leBytes 1 (svnFused s) ++ leBytes 1 (fld s grBoot 40 39) ++ leBytes 1 (revoked s)
    ++ leBytes 1 (flagBits [hosts, hosts, owner, bitkeys]) ++ fwDigest s
    ++ (if hosts then padTo 64 (objGet s 0x0232 6) else leBytes 64 0)
    ++ (if owner then keyId (ownerEd s) (ownerMl s) else leBytes 64 0) ++ identity s
    ++ allRegions.flatMap (fun r => padTo 64 ((regionDigest s r).getD []))
    ++ leBytes 8 (flagBits (allRegions.map (fun r => (regionDigest s r).isSome)))
  body ++ leBytes 64 (Config.edSign body).toNat ++ leBytes 3309 (Config.mlSign body).toNat ++ leBytes 3 0

/-- R485: a read of REPORT: its status, the report, and the state with NONCE cleared. -/
def doReport (s : State) : Status × List Byte × State :=
  if objGet s 0x0231 1 = [] then (stDictRange, [], s) else (stOk, reportBytes s, objSet s 0x0231 1 [])

/-- REPORT: the report leaves to the requester, who the command does not name (log 33). -/
def execReport (s : State) : Out := .next (
  if fwRuns s then
    let r := doReport s
    if r.1 = stOk then { r.2.2 with dgrams := r.2.2.dgrams ++ [{ addr := 0, port := 0, data := r.2.1 }] } else r.2.2
  else s)

end Sys2Proof.Machine
end

