-- ==== Sys2Proof/Machine/Power.lean ====
section
/-! DEFINITION. Power, clocks, temperature, telemetry and the PCIe port (R430, R469, R470, R487, R492-R507). -/

namespace Sys2Proof.Machine
open Sys2Proof

/-! ### Clock stretch (R497) -/

def pwCtl (d : Nat) : Nat := pwAt d 0
def pwStat (d : Nat) : Nat := pwAt d 8
/-- LEVEL of PW_STAT. -/
def stretch (s : State) (d : Nat) : Nat := fld s (pwStat d) 63 61
def limitA (s : State) (d : Nat) : Nat := fld s (pwCtl d) 63 53
/-- R505: the POWER event. -/
def powerEvent (s : State) (die unit cause : Nat) : State :=
  logEvent s 0x0070 die unit 2 (cause + (if die < 4 then stretch s die else 0) * 2 ^ 8)

/-- The level changes; its time is noted. -/
def setStretch (s : State) (d v : Nat) : State :=
  setFld { s with levelAt := mset 0 s.levelAt d (nowNs s d) } (pwStat d) 63 61 v

/-- R497: a trip to level 7, held for 10 us from its last sample; the event and TRIPS once per hold. -/
def tripDie (s : State) (d cause : Nat) : State :=
  let first := !flag s (pwStat d) 60
  let s := setFlag (setStretch { s with tripAt := mset 0 s.tripAt d (nowNs s d) } d 7) (pwStat d) 60 true
  if first then powerEvent (incFld s (pwStat d) 39 8) d d cause else s

/-- R497: the level rises by 1 every 1 us, up to 7. -/
def riseStretch (s : State) (d : Nat) : State :=
  if stretch s d < 7 && mget 0 s.levelAt d + 1000 ≤ nowNs s d then setStretch s d (stretch s d + 1) else s
/-- R497: the level falls by 1 every 10 us. -/
def fallStretch (s : State) (d : Nat) : State :=
  if 0 < stretch s d && mget 0 s.levelAt d + 10000 ≤ nowNs s d then setStretch s d (stretch s d - 1) else s

/-- THERM_N goes low; `hold`: until PWR_GOOD falls (R499). -/
def thermLow (s : State) (hold : Bool) : State :=
  { s with pins := { s.pins with thermN := false, thermHold := s.pins.thermHold || hold } }

/-- R502, R505: a failure for power, clocks or temperature. -/
def powerFail (s : State) (die cause : Nat) : State := devFail (powerEvent s die die cause) 0x0070 die

/-- R297: the stack at a position of a Basalt die. -/
def stackAt (d pos : Nat) : Nat := if pos < 2 then 2 * d + pos else 8 + d

/-- HOT of PW_STAT; when it rises the thermal rise is logged for the die, else for its first hot stack (R499, R505). -/
def setDieHot (s : State) (d : Nat) (die : Bool) (temps : List Int) : State :=
  let hotStack := (List.range temps.length).find? (fun i => 95 ≤ temps.getD i 0)
  let hot := die || hotStack.isSome
  let s1 := setFlag s (pwStat d) 59 hot
  if hot && !flag s (pwStat d) 59 then powerEvent s1 d (if die then d else 0x100 + stackAt d (hotStack.getD 0)) 2 else s1

/-- CURRENT_SAMPLE (R497): the first matching row. `overFor` is how long, in ns, the current has been at FAIL_A or more. -/
def execCurrentSample (d : Fin 4) (amps overFor : Nat) (dieTemp : Int) (stackTemps : List Int) (s : State) : Out := whenRunning s fun s =>
  let s := setDieHot s d (95 ≤ dieTemp) (stackTemps.take s.part.positions)
  if 1200 ≤ amps && 1000 ≤ overFor then thermLow (powerFail s d 6) true
  else if 1000 ≤ amps || 105 ≤ dieTemp then tripDie s d (if 1000 ≤ amps then 1 else 3)
  else if flag s (pwStat d) 60 && nowNs s d < mget 0 s.tripAt d + 10000 then s
  else
    let s := setFlag s (pwStat d) 60 false
    if limitA s d < amps || flag s (pwStat d) 59 then riseStretch s d
    else if 95 * limitA s d ≤ 100 * amps then s
    else fallStretch s d

/-! ### Temperature, the power cap and telemetry (R430, R498, R499, R507) -/

/-- TEMPERATURE_LIMIT (R499): the junction temperature of a die against the limits. -/
def execTemperatureLimit (die : Fin 9) (temp : Int) (s : State) : Out := whenRunning s fun s =>
  if !s.part.dieFitted die then s
  else if 115 ≤ temp then thermLow (powerFail s die 3) true
  else if 105 ≤ temp then
    thermLow ((List.range 4).foldl (fun s d => tripDie s d 3) { s with hot := mset false s.hot die true }) false
  else
    let s := if temp < 100 then { s with hot := mset false s.hot die false } else s
    let s := if s.hot.isEmpty && !s.pins.thermHold then { s with pins := { s.pins with thermN := true } } else s
    if die.val < 4 && 95 ≤ temp then
      let s1 := setFlag s (pwStat die) 59 true
      riseStretch (if flag s (pwStat die) 59 then s1 else powerEvent s1 die die 2) die
    else s

/-- POWER_CAP_UPDATE (R498): the firmware sets LIMIT_A on each Basalt die, within its bound; the value is the firmware's, a free
value here (log 10). -/
def execPowerCapUpdate (_pkgPower : Nat) (s : State) : Out := .next (
  if fwRuns s then
    onBasalt { s with freeCtr := s.freeCtr + 4 } (fun t d => setFld t (pwCtl d) 63 53 (200 + (Config.free (s.freeCtr + d)).toNat % 801))
  else s)

/-- PW_CTL: a LIMIT_A outside 200..1,000 is ignored (R498, R506). -/
def writePwCtl (s : State) (d : Nat) (v : Word) : State :=
  if 200 ≤ bits v 63 53 ∧ bits v 63 53 ≤ 1000 then setFld s (pwCtl d) 63 53 (bits v 63 53) else s

/-- The whole degrees that TEMP shows of a sample in m°C: which of the two neighbours is open (log 10). -/
def wholeDegrees (s : State) (milli : Int) : Int :=
  if milli % 1000 = 0 then milli / 1000 else milli / 1000 + ((Config.free s.freeCtr).toNat % 2 : Nat)

/-- TELEMETRY_SAMPLE (R430, R506, R507): a die's sample and its stacks'; the package power is not derived from them by any rule: a
free value (log 10). -/
def execTelemetrySample (die : Fin 9) (tempMilli powerMilli : BitVec 32) (amps : BitVec 11) (stackTemps : List (BitVec 32)) (s : State) :
    Out := whenRunning s fun s =>
  if !s.part.dieFitted die then s else
  let s1 := objSetN (objSetN s 0x0E10 (die + 1) tempMilli.toNat) 0x0E11 (die + 1) powerMilli.toNat
  let s1 := if die.val < 4 then
      let s2 := (List.range s.part.positions).foldl (fun t i =>
        match stackTemps[i]? with
        | some x => objSetN t 0x0E12 (stackAt die i + 1) x.toNat
        | none => t) s1
      setFld (setFld s2 (pwStat die) 58 48 amps.toNat) (pwStat die) 47 40 (codeN 8 (wholeDegrees s tempMilli.toInt))
    else s1
  objSetN { s1 with freeCtr := s.freeCtr + 2 } 0x0E13 1 ((Config.free (s.freeCtr + 1)).toNat % 2 ^ 32)

/-! ### Rails, references and PWR_GOOD (R492, R493, R501) -/

/-- PWR_GOOD_FALL (R492, R499, R502): FAIL_NOTICE unless frozen, POWER with cause 7; the freeze, if any, ends. -/
def execPwrGoodFall (s : State) : Out := .next (
  if !s.pins.pwrGood then s else
  let s := powerEvent (if amberState s = 0 then noticeTwin s else s) 4 4 7
  objSetN { s with pins := { s.pins with pwrGood := false, devReady := false, thermN := true, thermHold := false } } 0xF012 1 0)

/-- RAIL_FAULT (R493); a frozen device sends no notice (R290). -/
def execRailFault (die : Fin 9) (s : State) : Out := .next (
  if s.pins.pwrGood && s.part.dieFitted die then
    let t := devFail s 0 die
    if amberState s = 0 then t else { t with linkOut := s.linkOut }
  else s)

/-- REFCLK_LOSS (R501): every die switches to the other reference, or the device fails. -/
def execRefclkLoss (both : Bool) (s : State) : Out := whenRunning s fun s =>
  if both then powerFail s 4 5
  else powerEvent { s with pins := { s.pins with refSel := 1 - s.pins.refSel } } 4 4 4

/-! ### PCIe (R469, R470, R487) -/

/-- The port is an endpoint (MODE 1), and its link is up (SPEED). -/
def pcieEndpoint (s : State) : Bool := flag s grPcie 63
def pcieUp (s : State) : Bool := fld s grPcie 62 60 != 0

/-- PCIE_LINK_UP: SPEED 1-6 and WIDTH 1, 2, 4, 8 or 16. -/
def execPcieLinkUp (speed : Fin 6) (width : Fin 5) (s : State) : Out := whenRunning s fun s =>
  setFld (setFld s grPcie 62 60 (speed + 1)) grPcie 59 55 (2 ^ width.val)
/-- PCIE_LINK_DOWN. -/
def execPcieLinkDown (s : State) : Out := whenRunning s fun s =>
  if pcieUp s then setFlag (setFld s grPcie 62 55 0) grPcie 54 true else s

/-- BAR2: the MSI-X table at offset 0, 16 bytes an entry: address, data, vector control, which resets masked (log 39). -/
def bar2Byte (s : State) (o : Nat) : Byte := mget (if o % 16 = 12 then 1 else 0) s.bar2 o
def bar2Put (m : SMap Byte) (o : Nat) : List Byte → SMap Byte
  | [] => m
  | b :: r => bar2Put (if o < 1024 then mset (if o % 16 = 12 then 1 else 0) m o b else m) (o + 1) r
def bar2Bytes (s : State) (o n : Nat) : List Byte := (List.range n).map (fun i => if o + i < 1024 then bar2Byte s (o + i) else 0)

/-- MSIX (R469): in endpoint mode, with the link up, an unmasked entry is sent. -/
def sendMsix (s : State) (k : Nat) : State :=
  if pcieEndpoint s && pcieUp s && leNat (bar2Bytes s (16 * k + 12) 1) % 2 = 0 then
    { s with pcieOut := s.pcieOut ++ [.msi (leNat (bar2Bytes s (16 * k) 8)) (bar2Bytes s (16 * k + 8) 4)] }
  else s
def execMsix (entry : Fin 64) (s : State) : Out := whenRunning s fun s => sendMsix s entry

/-- GR_PCIE: WINBASE is taken when the whole window lies in the carve-out. -/
def writeGrPcie (s : State) (v : Word) : State :=
  let base := bits v 53 36 * 2 ^ 30
  let s := if bit v 54 then setFlag s grPcie 54 false else s
  if fwEnd s.part ≤ base ∧ base + 2 ^ 30 ≤ carveEnd s.part then setFld s grPcie 53 36 (bits v 53 36) else s

/-- The pieces of a request: none crosses a 256-byte boundary (R298); address, place in the data, bytes. -/
def pieces (a n : Nat) : List (Nat × Nat × Nat) :=
  (List.range (if n = 0 then 0 else (a + n - 1) / 256 + 1 - a / 256)).map (fun k =>
    let lo := max a (256 * (a / 256 + k)); let hi := min (a + n) (256 * (a / 256 + k + 1))
    (lo, lo - a, hi - lo))

/-- One piece goes onto the network from the host cores' node. -/
def hostRequest (isWrite : Bool) (data : List Byte) (s : State) (x : Nat × Nat × Nat) : State :=
  match firstFree s 0x802 1024 with
  | none => s
  | some tag =>
    let d := if isWrite then (data.drop x.2.1).take x.2.2 else []
    sendPkt (holdTag s 0x802 tag .pcie)
      { op := if isWrite then 0x02 else 0x01, nflit := BitVec.ofNat 3 (cdiv d.length 64), len := x.2.2, src := nodeOf 8 2,
        dest := serveNode s x.1, tag := BitVec.ofNat 10 tag, gen := (getTag s 0x802 tag).gen, addr := BitVec.ofNat 64 x.1, data := d }

/-- A request on the device-local map, with the rights of R32: it is checked whole (R33); it waits while there are not enough tags. -/
def pcieMap (s : State) (r : PcieRequest) (a : Nat) : State :=
  let e := mapStatus s.part .host a r.len
  if e ≠ 0 then { s with pcieOut := s.pcieOut ++ [.completion e []] }
  else if (List.range 1024).countP (fun t => (getTag s 0x802 t).use.isNone) < (pieces a r.len).length then s
  else (pieces a r.len).foldl (hostRequest r.isWrite r.data) s

def pcieReply (s : State) (m : PcieMsg) : State := { s with pcieOut := s.pcieOut ++ [m] }

/-- PCIE_REQUEST (R469, R470). -/
def execPcieRequest (r : PcieRequest) (s : State) : Out := whenRunning s fun s =>
  if !pcieUp s || r.len = 0 || (r.isWrite && r.data.length ≠ r.len) then s
  else if pcieEndpoint s then
    if !r.fromBoard then s
    else if r.bar = 0 && r.offset + r.len ≤ 2 ^ 30 then pcieMap s r (fld s grPcie 53 36 * 2 ^ 30 + r.offset)
    else if r.bar = 2 && r.offset + r.len ≤ 4096 then
      if r.isWrite then pcieReply { s with bar2 := bar2Put s.bar2 r.offset r.data } (.completion stOk [])
      else pcieReply s (.completion stOk (bar2Bytes s r.offset r.len))
    else pcieReply s .unsupported
  else if r.fromBoard then s
  else match r.iommu with
    | none => pcieReply s .unsupported
    | some a => pcieMap s r a

end Sys2Proof.Machine
end

