-- ==== Sys2Proof/Machine/Dict.lean ====
section
/-! DEFINITION. The object dictionary: region operations, what each object reads as, what a write does, and the order in which an
entry of a request is answered (R440-R455, R494). -/

namespace Sys2Proof.Machine
open Sys2Proof

/-! ### Region operations (R283, R454) -/

/-- The region that 0x0C20.01 names. -/
def opRegion (s : State) : RegionId :=
  ⟨⟨objN s 0x0C20 1 / 16 % 4, Nat.mod_lt _ (by decide)⟩, ⟨objN s 0x0C20 1 % 16, Nat.mod_lt _ (by decide)⟩⟩
def setRegionOp (s : State) (o : Option (Nat × Nat)) : State := { s with mgmt := { s.mgmt with regionOp := o } }
/-- RESULT takes its value, then BUSY falls. -/
def endRegionOp (s : State) (e : Status) : State := objSetN (setRegionOp (objSetN s 0x0C20 5 e) none) 0x0C20 6 0
def cfgLast (s : State) (r : RegionId) : Status := fld s (cfgReg r 8) 58 51

/-- R283: with a bitstream key installed, both signatures of the header in HBM must verify. -/
def bitSigsOk (s : State) : Bool :=
  let ed := objGet s 0x0C10 1; let ml := objGet s 0x0C11 1
  let h := hbmBytes s (objN s 0x0C20 2) 3520
  (ed == [] && ml == []) || (ed != [] && ml != [] && Config.edVerify ed (h.take 96) (mpart h 96 64)
    && Config.mlVerify ml (h.take 96) (mpart h 160 3309))

/-- A command ended at once: the operation ends with its status. -/
def endNow (s : State) (r : RegionId) : State := endRegionOp s (cfgLast s r)

/-- R454: the firmware's next action on the operation in progress: the next command once the region is not busy, or the end. A
load issues BEGIN, FETCH, COMMIT and RELEASE in turn; the first status other than OK ends it. -/
def regionStep (s : State) : State :=
  let r := opRegion s
  match s.mgmt.regionOp with
  | none => s
  | some (1, 0) =>
    if !bitSigsOk s then endRegionOp s stAuthFail
    else if regState s r = 1 && !regBusy s r then endNow (doBegin s r) r
    else setRegionOp (doBegin s r) (some (1, 1))
  | some (1, 1) =>
    if regBusy s r then s else
    let s := setFld (setFld s (cfgReg r 0x10) 47 0 (objN s 0x0C20 2)) (cfgReg r 0x18) 31 0 (objN s 0x0C20 3)
    let s := doFetch s r
    if regBusy s r then setRegionOp s (some (1, 2)) else endNow s r
  | some (1, 2) =>
    if regState s r ≠ 1 then endNow s r
    else if regBusy s r then s
    else
      let s := doCommit s r
      if regBusy s r then setRegionOp s (some (1, 3)) else endNow s r
  | some (1, _) =>
    if regBusy s r then s
    else if regState s r = 2 then endNow (doRelease s r) r else endNow s r
  | some (2, 0) => setRegionOp (doClear s r) (some (2, 1))
  | some (2, _) => if regBusy s r then s else endNow s r
  | some (3, _) => endNow (doHalt s r) r
  | some (_, _) => endNow (doResume s r) r

/-- OP is written: BUSY rises and the first command is issued. -/
def startRegionOp (s : State) (op : Nat) : State := regionStep (setRegionOp (objSetN s 0x0C20 6 1) (some (op, 0)))

/-- The command begins its operation, or carries it on. -/
def regionCommand (op : Nat) (s : State) : Out := .next (
  if !fwRuns s then s
  else match s.mgmt.regionOp with
    | none => startRegionOp s op
    | some (o, _) => if o = op then regionStep s else s)
def execRegionLoad (s : State) : Out := regionCommand 1 s
def execRegionClear (s : State) : Out := regionCommand 2 s
def execRegionHalt (s : State) : Out := regionCommand 3 s
def execRegionResume (s : State) : Out := regionCommand 4 s

/-! ### Values (R439, R453, R494, R507) -/

/-- R494: the package power state; the one listed lowest wins. -/
def powerState (s : State) : Nat :=
  if s.failed then 5 else if amberState s ≠ 0 then 4
  else if s.pins.pwrGood && fabricReadyNow s then
    (if (List.range 4).any (fun d => fld s (pwAt d 8) 63 61 != 0) then 3 else 2)
  else if s.pins.pwrGood then 1 else 0

/-- MTILE and VTILE (R439). -/
def physImage (s : State) (d e : Nat) : Nat :=
  let p := getPhys s d e
  p.status % 256 + p.logical % 256 * 2 ^ 8 + p.faults % 65536 * 2 ^ 16 + p.hours % 2 ^ 32 * 2 ^ 32

/-- ENTRY of 0x0E40: the log entry with LSN READ_LSN, all zero when it is not held. -/
def logEntryBytes (s : State) : List Byte :=
  match s.log.find? (fun e => e.lsn == objN s 0x0E40 2) with
  | some e => logBytes e
  | none => leBytes 32 0

/-- Sessions that are open (R453). -/
def openCount (s : State) : Nat := (s.mgmt.sessions.filter (·.opened)).length

/-- TWIN and WITNESS (R343, R381), 0xFFFF_FFFF where there is none. -/
def twinObj (s : State) (sub : Nat) : Nat :=
  match s.fabric.dev with
  | none => 0xFFFFFFFF
  | some d => if sub = 2 then twinOf d.toNat else (witnessOf s d.toNat).getD 0xFFFFFFFF

/-- The value of an object, as bytes. -/
def objRead (s : State) (idx sub : Nat) : List Byte :=
  let die := idx % 16
  if idx = 0x0150 ∧ sub = 6 then leBytes 1 (openCount s)
  else if idx = 0x0200 then (if sub = 1 then leBytes 4 (fwVersion s) else if sub = 2 then leBytes 1 (if stage s = 4 then 1 else 0) else fwDigest s)
  else if idx = 0x0400 then leBytes 1 (powerState s)
  else if 0x0610 ≤ idx ∧ idx ≤ 0x0613 then leBytes 8 (physImage s die (sub - 1))
  else if 0x0620 ≤ idx ∧ idx ≤ 0x0623 then leBytes 8 (physImage s die (68 + (sub - 1)))
  else if idx = 0x0800 ∧ sub = 2 then leBytes 1 (fld s hbmMap 62 59)
  else if 0x0810 ≤ idx ∧ idx ≤ 0x0813 then leBytes 8 (rd s (hbmChAt die (sub - 1))).toNat
  else if idx = 0x0A01 ∧ (sub = 2 ∨ sub = 3) then leBytes 4 (twinObj s sub)
  else if idx = 0x0A02 ∧ sub = 1 then leBytes 1 (twinState s)
  else if idx = 0x0A02 ∧ sub = 2 then leBytes 4 (epoch s)
  else if idx = 0x0A11 then leBytes 8 (rd s (mirAt (sub - 1))).toNat
  else if idx = 0x0A31 then leBytes 8 (rd s (lkPortAt ((sub - 1) / 8) ((sub - 1) % 8) 8)).toNat
  else if idx = 0x0C21 then leBytes 8 (rd s (cfgAt ((sub - 1) / 16) ((sub - 1) % 16) 8)).toNat
  else if 0x0C30 ≤ idx ∧ idx ≤ 0x0C33 then
    leBytes 1 ((mget ({} : Region) s.regions (16 * die + (sub - 1))).spares.filter (· != 255)).length
  else if idx = 0x0E14 then leBytes 1 (fld s (pwAt (sub - 1) 8) 63 61)
  else if idx = 0x0E40 ∧ sub = 1 then leBytes 8 (rd s logNewAt).toNat
  else if idx = 0x0E40 ∧ sub = 3 then logEntryBytes s
  else if idx = 0x0E40 ∧ sub = 4 then leBytes 4 (rd s logOvrAt).toNat
  else objGet s idx sub

/-! ### Levels and serving points (R444-R448) -/

def findSession (s : State) (n : Nat) : Option Session := s.mgmt.sessions.find? (fun x => x.id == n)
/-- The level of a request: 0 none, 1 Operator, 2 Owner, 3 Warden (R444, R462). -/
def levelOf (s : State) (v : DictVia) : Nat :=
  match v with
  | .bare => 0
  | .session n => match findSession s n with | some x => if x.opened then x.level else 0 | none => 0
  | .mailbox c => if c = 0 then 3 else 2

/-- The access code of a level: 0 none, 1 RO, 2 RW, 3 WO. -/
def access (i : ObjInfo) (level : Nat) : Nat := if level = 1 then i.op else if level = 2 then i.ow else if level = 3 then i.wa else 0

/-- R447: the identity range, which is read without a session. -/
def identityRange (idx : Nat) : Bool := 0x0100 ≤ idx && idx ≤ 0x01FF

/-- R448: objects of the serving point are served now: H always, F while the firmware runs, R from Fabric Ready. -/
def served (s : State) (serve : Nat) : Bool :=
  if serve = 0 then true else if serve = 1 then fwRuns s else fwRuns s && fabricReadyNow s

/-- What subindex 0 of an index takes from its objects: type U8, readable by every level that may read any of them, served as its
first object is (R440). -/
def indexInfo (p : Part) (idx : Nat) : Option ObjInfo :=
  let l := (List.range (objMaxSub p idx + 1)).filterMap (objInfo p idx)
  let any (f : ObjInfo → Nat) : Nat := if l.any (fun i => f i == 1 || f i == 2) then 1 else 0
  match l with
  | [] => none
  | i :: _ => some { ty := 1, op := any (·.op), ow := any (·.ow), wa := any (·.wa), serve := i.serve, dflt := [BitVec.ofNat 8 (objMaxSub p idx)] }

/-- The row that answers for a name, subindex 0 included. -/
def rowOf (p : Part) (idx sub : Nat) : Option ObjInfo := if sub = 0 then indexInfo p idx else objInfo p idx sub

/-- R448, R452: the serving point of an index range: 0 H, 1 F, 2 R; none outside every range. -/
def rangeServe (idx : Nat) : Option Nat :=
  let hi := idx / 256
  if hi = 0x01 || 0xF0 ≤ hi then some 0
  else if (0x0210 ≤ idx && idx ≤ 0x0213) || (0x0220 ≤ idx && idx ≤ 0x022F) || idx = 0x0E40 || idx = 0x0E41 then some 0
  else if idx = 0x0A10 || idx = 0x0A20 then some 2
  else if [0x02, 0x04, 0x06, 0x08, 0x0A, 0x0C, 0x0E].contains hi || (0x1000 ≤ idx && idx ≤ 0x1FFF) then some 1
  else none

/-- R443, R444, R447, R448: the status of an entry before any value is looked at, but for DICT_ABSENT. An entry outside a session
is answered DICT_SESSION; of the others the lowest code that applies (R37, log 52). `want` is 1 for a read, 3 for a write. -/
def screen (s : State) (v : DictVia) (idx sub want : Nat) : Status :=
  if levelOf s v = 0 ∧ !(v == .bare && identityRange idx && want == 1) then stDictSession
  else if !(match rangeServe idx with | some k => served s k | none => true) then stBooting
  else match rowOf s.part idx sub with
    | none => stDictNoObject
    | some i =>
      let a := if v = .bare then 1 else access i (levelOf s v)
      if a = 2 || a = want then stOk else stDictAccess

/-- Reading one entry: its status, its data and the state after it. -/
def readEntry (s : State) (v : DictVia) (o : DictRef) : Status × List Byte × State :=
  let idx := o.index.toNat; let sub := o.sub.toNat
  let e := screen s v idx sub 1
  if e ≠ 0 then (e, [], s)
  else if objAbsent s.part idx sub then (stDictAbsent, [], s)
  else if sub = 0 then (stOk, ((indexInfo s.part idx).map (·.dflt)).getD [], s)
  else if idx = 0x0231 ∧ sub = 2 then doReport s
  else if idx = 0xF020 ∧ sub = 4 then
    let r := doReadout s
    (objN r.1 0xF020 5, r.2, r.1)
  else (stOk, objRead s idx sub, s)

/-! ### Writes (R442, R451, R454) -/

/-- R441: the key objects, which hold 0 bytes or exactly n. -/
def isKey (idx : Nat) : Bool := idx == 0x0210 || idx == 0x0212 || idx == 0x0C10 || idx == 0x0C11
/-- R442: the length and the encoding match the type. -/
def typeOk (i : ObjInfo) (idx : Nat) (v : List Byte) : Bool :=
  if i.ty = 0 then v.length == 1 && leNat v ≤ 1
  else if i.ty ≤ 6 then v.length == tyBytes i.ty
  else if isKey idx then v == [] || v.length == i.n
  else v.length ≤ i.n
/-- R442: the value lies in the object's stated range. -/
def rangeOk (i : ObjInfo) (idx sub : Nat) (v : List Byte) : Bool :=
  if i.ty ≤ 6 then
    let n := leNat v
    i.lo ≤ n && n ≤ i.hi
      && !(idx == 0x0A30 && sub == 5 && n != 8 && n != 24)
      && !((idx == 0x0220 || idx == 0x0232) && sub == 1 && n == 4)
      && !(idx == 0x0C20 && (sub == 2 || sub == 3) && n % 8 != 0)
  else !(idx == 0x0210 && v == [])

/-- R363, R454, R480: the objects of an operation in progress. -/
def objBusy (s : State) (idx sub : Nat) : Bool :=
  (idx == 0x0C20 && sub ≤ 4 && s.mgmt.regionOp.isSome) || (idx == 0x0A10 && sub ≤ 4 && s.twin.changeOpen)
    || (idx == 0x0220 && sub == 2 && s.mgmt.fetching)

/-- UPD_OP and HOST_OP (R481); a reset that the state does not accept is out of range (log 34). -/
def doUpdOp (s : State) (host : Bool) (op : Nat) : Status × State :=
  if op = 2 then (stOk, doUpdCommit s host)
  else if op = 3 then (stOk, setUpd s host 4)
  else if updMayReset s host then (stOk, if s.pins.pwrGood then doUpdReset s else s) else (stDictRange, s)

/-- Note a policy object for the firmware (R455). -/
def noteUnapplied (s : State) (o : DictRef) : State :=
  { s with mgmt := { s.mgmt with unapplied := if s.mgmt.unapplied.contains o then s.mgmt.unapplied else s.mgmt.unapplied ++ [o] } }

/-- The effect of a legal write: its status and the state after it. -/
def applyWrite (s : State) (o : DictRef) (v : List Byte) : Status × State :=
  let idx := o.index.toNat; let sub := o.sub.toNat; let n := leNat v
  if idx = 0xF010 ∧ sub = 1 then (stOk, doFreeze s n)
  else if idx = 0xF010 ∧ sub = 2 then (stOk, doThaw s n)
  else if idx = 0x0A01 then (stOk, setDevnum s n)
  else if idx = 0x0A02 then (stOk, doYield s n)
  else if idx = 0x0A20 then (stOk, doRestore s n)
  else if idx = 0x0A10 ∧ sub = 1 then (stOk, doMirrorChange (objSet s idx sub v) n)
  else if idx = 0x0C20 ∧ sub = 4 then (stOk, startRegionOp s n)
  else if idx = 0x0212 then (stOk, doOwnerKey s (sub == 2) v (accepted s.mgmt + 1))
  else if idx = 0x0220 ∨ idx = 0x0232 then
    let host := idx == 0x0232
    if sub = 1 then doUpdOp s host n
    else if sub = 2 then (stOk, doManifest s host v)
    else doData s host v
  else if 0x1000 ≤ idx ∧ idx ≤ 0x1FFF then (stOk, noteUnapplied (objSet s idx sub v) o)
  else (stOk, objSet s idx sub v)

/-- Writing one entry: its status, the state after it, and whether flash is written (R451). -/
def writeEntry (s : State) (v : DictVia) (o : DictRef) (x : List Byte) : Status × State × Bool :=
  let idx := o.index.toNat; let sub := o.sub.toNat
  let e := screen s v idx sub 3
  if e ≠ 0 then (e, s, false)
  else match rowOf s.part idx sub with
    | none => (stDictNoObject, s, false)
    | some i =>
      if !typeOk i idx x then (stDictType, s, false)
      else if !rangeOk i idx sub x then (stDictRange, s, false)
      else if objBusy s idx sub then (stDictBusy, s, false)
      else if objAbsent s.part idx sub then (stDictAbsent, s, false)
      else
        let r := applyWrite s o x
        (r.1, r.2, r.1 == 0 && (i.kept || ((idx == 0x0220 || idx == 0x0232) && (sub == 2 || sub == 4))))

/-! ### Requests (R449, R450, R458) -/

/-- One entry of a response: index, subindex, status, length, data. -/
def respEntry (o : DictRef) (e : Status) (d : List Byte) : List Byte :=
  leBytes 2 o.index.toNat ++ leBytes 1 o.sub.toNat ++ leBytes 1 e ++ leBytes 2 d.length ++ d

/-- An entry that fails stops those after it; POISON is a status of data that are returned (R450). -/
def entryFails (e : Status) : Bool := e != stOk && e != stPoison

/-- READ: the entries in order; those after a failed one report ABORTED. -/
def readAll (v : DictVia) : List DictRef → Bool → State → List Byte × State
  | [], _, s => ([], s)
  | o :: r, failed, s =>
    if failed then
      let q := readAll v r true s
      (respEntry o stAborted [] ++ q.1, q.2)
    else
      let x := readEntry s v o
      let q := readAll v r (entryFails x.1) x.2.2
      (respEntry o x.1 x.2.1 ++ q.1, q.2)

/-- WRITE: likewise; also whether any entry was written to flash. -/
def writeAll (v : DictVia) : List (DictRef × List Byte) → Bool → State → List Byte × State × Bool
  | [], _, s => ([], s, false)
  | o :: r, failed, s =>
    if failed then
      let q := writeAll v r true s
      (respEntry o.1 stAborted [] ++ q.1, q.2)
    else
      let x := writeEntry s v o.1 o.2
      let q := writeAll v r (entryFails x.1) x.2.1
      (respEntry o.1 x.1 [] ++ q.1, q.2.1, x.2.2 || q.2.2)

/-- The description of an object (R458). -/
def describeBytes (i : ObjInfo) : List Byte :=
  leBytes 1 i.ty ++ leBytes 2 i.n ++ leBytes 1 (i.op + 4 * i.ow + 16 * i.wa) ++ leBytes 1 i.serve ++ leBytes 3 0 ++ i.dflt

/-- DESCRIBE: it reads no value, so it asks only that the level reaches the object at all (R444, log 35). -/
def describeEntry (s : State) (v : DictVia) (o : DictRef) : Status × List Byte :=
  let idx := o.index.toNat; let sub := o.sub.toNat
  if levelOf s v = 0 then (stDictSession, [])
  else if !(match rangeServe idx with | some k => served s k | none => true) then (stBooting, [])
  else match rowOf s.part idx sub with
    | none => (stDictNoObject, [])
    | some i =>
      if access i (levelOf s v) = 0 then (stDictAccess, [])
      else if objAbsent s.part idx sub then (stDictAbsent, []) else (stOk, describeBytes i)

def describeAll (s : State) (v : DictVia) : List DictRef → Bool → List Byte
  | [], _ => []
  | o :: r, failed =>
    if failed then respEntry o stAborted [] ++ describeAll s v r true
    else
      let x := describeEntry s v o
      respEntry o x.1 x.2 ++ describeAll s v r (entryFails x.1)

end Sys2Proof.Machine
end

