-- ==== Sys2Proof/Machine/Thauno.lean ====
section
/-! DEFINITION. The Thauno protocol, its sessions and event feeds, and the sideband mailbox (R449-R451, R456-R463). -/

namespace Sys2Proof.Machine
open Sys2Proof

/-! ### Fragments (R457, R460) -/

/-- A fragment with a given TAG. -/
def fragment (ty sess ctr i n : Nat) (tag pay : List Byte) : List Byte :=
  leBytes 2 0x4854 ++ leBytes 1 1 ++ leBytes 1 ty ++ leBytes 4 sess ++ leBytes 4 ctr ++ leBytes 1 i ++ leBytes 1 n
    ++ leBytes 2 pay.length ++ tag ++ pay
/-- R460: the first 16 bytes of the HMAC over the fragment with TAG zero. -/
def fragTag (key frag0 : List Byte) : List Byte := (leBytes 64 (Config.hmac key frag0).toNat).take 16
/-- A fragment to send: tagged within a session, with TAG 0 outside. -/
def makeFrag (key : Option (List Byte)) (ty sess ctr i n : Nat) (pay : List Byte) : List Byte :=
  let f0 := fragment ty sess ctr i n (leBytes 16 0) pay
  match key with
  | none => f0
  | some k => fragment ty sess ctr i n (fragTag k f0) pay

/-- A message in fragments of at most 1,200 bytes; none where sixteen do not hold it (log 36). -/
def message (key : Option (List Byte)) (ty sess ctr : Nat) (pay : List Byte) : List (List Byte) :=
  let n := max 1 (cdiv pay.length 1200)
  if 16 < n then [] else (List.range n).map (fun i => makeFrag key ty sess ctr i n ((pay.drop (1200 * i)).take 1200))

def sendFrags (s : State) (addr : BitVec 128) (port : BitVec 16) (fs : List (List Byte)) : State :=
  { s with dgrams := s.dgrams ++ fs.map (fun f => { addr, port, data := f }) }
/-- A message outside a session. -/
def sendBare (s : State) (addr : BitVec 128) (port : BitVec 16) (ty sess : Nat) (pay : List Byte) : State :=
  sendFrags s addr port (message none ty sess 0 pay)

def modSession (s : State) (n : Nat) (f : Session → Session) : State :=
  { s with mgmt := { s.mgmt with sessions := s.mgmt.sessions.map (fun x => if x.id = n then f x else x) } }
def endSession (s : State) (n : Nat) : State :=
  { s with mgmt := { s.mgmt with sessions := s.mgmt.sessions.filter (fun x => x.id != n) } }

/-- A message within a session, counted in the device's direction; `keep` when it answers a request (R460). -/
def sendIn (s : State) (n ty : Nat) (pay : List Byte) (keep : Bool) : State :=
  match findSession s n with
  | none => s
  | some x =>
    let fs := message (some x.key) ty n (x.tx + 1) pay
    let s := modSession s n (fun x => { x with tx := x.tx + 1, lastResp := if keep then fs else x.lastResp })
    sendFrags s x.addr x.port fs

/-! ### The mailbox buffer (R462, R463) -/

/-- ADDR names a 20 KiB buffer in the carve-out. -/
def mbBuffer (s : State) (c : Fin 2) : Option Nat :=
  let a := fld s (mbAt c 0) 47 0
  if a % 64 = 0 && fwEnd s.part ≤ a && a + 20480 ≤ carveEnd s.part then some a else none
/-- No response is written; the reason is a free value other than OK, outside the reserved blocks of codes (R35, log 10, log 37). -/
def mbFail (s : State) (c : Fin 2) : State :=
  mbEnd { s with freeCtr := s.freeCtr + 1 } c (1 + (Config.free s.freeCtr).toNat % 0x6F) 0
/-- The exchange of a channel; a request that came without one is answered to the buffer that MB_ADDR names. -/
def mbOf (s : State) (c : Fin 2) : Option MbMsg := (mfind s.mgmt.mbox c).or ((mbBuffer s c).map (fun a => { addr := a }))
/-- The response goes to the request's buffer. -/
def mbRespond (s : State) (c : Fin 2) (ty : Nat) (pay : List Byte) (e : Status) : State :=
  match mbOf s c with
  | some m =>
    if 19200 < pay.length then mbFail s c
    else mbPump (setMbox s c { m with reply := some (fragment ty 0 0 0 1 (leBytes 16 0) pay, e) }) c
  | none => mbFail s c

/-! ### Serving requests (R449-R451) -/

/-- The response leaves by the way the request came: the request has completed. -/
def respond (s : State) (q : MgmtReq) (pay : List Byte) : State :=
  requestDone (match q.via with
  | .bare => sendBare s q.addr q.port (0x80 + q.mtype) 0 pay
  | .session n => sendIn s n (0x80 + q.mtype) pay true
  | .mailbox c => mbRespond s c (0x80 + q.mtype) pay stOk)

/-- One request, whole. A write to flash keeps the response back (R451). -/
def serveReq (s : State) (q : MgmtReq) : State :=
  let head := leBytes 1 q.es.length ++ leBytes 1 0
  if q.mtype = 1 then
    let r := readAll q.via (q.es.map (·.1)) false s
    respond r.2 q (head ++ r.1)
  else if q.mtype = 2 then
    let r := writeAll q.via q.es false s
    if r.2.2 then { r.2.1 with mgmt := { r.2.1.mgmt with flashBusy := true, heldReply := some (q, head ++ r.1) } }
    else respond r.2.1 q (head ++ r.1)
  else respond s q (head ++ describeAll s q.via (q.es.map (·.1)) false)

/-- Requests are served one at a time, in order, while no flash write is in progress. -/
def serveQueue : Nat → State → State
  | 0, s => s
  | n + 1, s =>
    if s.mgmt.flashBusy then s
    else match s.mgmt.queue with
      | [] => s
      | q :: rest => serveQueue n (serveReq { s with mgmt := { s.mgmt with queue := rest } } q)

/-- A request arrives at S0. -/
def submit (s : State) (q : MgmtReq) : State :=
  let s := { s with mgmt := { s.mgmt with queue := s.mgmt.queue ++ [q] } }
  serveQueue s.mgmt.queue.length s

/-- FLASH_WRITE_DONE (R451). -/
def execFlashWriteDone (s : State) : Out := .next (
  if s.mgmt.flashBusy && s.pins.stbyGood then
    let h := s.mgmt.heldReply
    let s := { s with mgmt := { s.mgmt with flashBusy := false, heldReply := none } }
    let s := match h with | some (q, pay) => respond s q pay | none => s
    serveQueue s.mgmt.queue.length s
  else s)

/-- The segment is served (R448, R491). -/
def segServed (s : State) : Bool := s.pins.stbyGood && s.mgmt.segUp
/-- A request can come this way: over the segment, by an open session, or from a Granite that runs. -/
def viaUp (s : State) (v : DictVia) : Bool :=
  match v with
  | .bare => segServed s
  | .session n => segServed s && (match findSession s n with | some x => x.opened | none => false)
  | .mailbox _ => running s

/-- A request of 1-64 entries (R450) that has no other form here than its entries: the next message of its session. -/
def request (s : State) (v : DictVia) (mtype : Nat) (es : List (DictRef × List Byte)) : State :=
  if viaUp s v && 1 ≤ es.length && es.length ≤ 64 then
    let s := match v with | .session n => modSession s n (fun x => { x with rx := x.rx + 1, lastResp := [] }) | _ => s
    submit s { via := v, mtype, es }
  else s
/-- DICT_READ (R449, R450, R458). -/
def execDictRead (via : DictVia) (es : List DictRef) (s : State) : Out := .next (request s via 1 (es.map (fun o => (o, []))))
/-- DICT_WRITE (R442, R450, R451). -/
def execDictWrite (via : DictVia) (es : List (DictRef × List Byte)) (s : State) : Out := .next (request s via 2 es)
/-- DESCRIBE (R458). -/
def execDescribe (via : DictVia) (es : List DictRef) (s : State) : Out := .next (request s via 3 (es.map (fun o => (o, []))))

/-! ### Payloads (R458) -/

/-- Entries of 4 bytes: index, subindex, RSVD. -/
def parseRefs : Nat → List Byte → Option (List (DictRef × List Byte))
  | 0, d => if d.isEmpty then some [] else none
  | n + 1, a :: b :: c :: r :: d =>
    if r = 0 then (parseRefs n d).map (fun l => ({ index := b ++ a, sub := c }, []) :: l) else none
  | _, _ => none
/-- Entries with a length and a value. -/
def parseWrites : Nat → List Byte → Option (List (DictRef × List Byte))
  | 0, d => if d.isEmpty then some [] else none
  | n + 1, a :: b :: c :: r :: l0 :: l1 :: d =>
    let len := l0.toNat + 256 * l1.toNat
    if r = 0 && len ≤ d.length then
      (parseWrites n (d.drop len)).map (fun l => ({ index := b ++ a, sub := c }, d.take len) :: l)
    else none
  | _, _ => none
/-- COUNT, RSVD and the entries of READ, WRITE or DESCRIBE; none where they are malformed. -/
def parseRequest (mtype : Nat) (d : List Byte) : Option (List (DictRef × List Byte)) :=
  match d with
  | n :: r :: d => if r = 0 && 1 ≤ n.toNat && n.toNat ≤ 64 then (if mtype = 2 then parseWrites n.toNat d else parseRefs n.toNat d) else none
  | _ => none

/-! ### Sessions (R459-R461) -/

/-- OPEN: a CHALLENGE, or SESSION with DICT_BUSY when eight sessions are open. -/
def doOpen (s : State) (src : BitVec 128) (port : BitVec 16) (level : Byte) (x kem nonce : List Byte) : State :=
  if x.length ≠ 32 || kem.length ≠ 1184 || nonce.length ≠ 32 then s
  else if 8 ≤ openCount s then sendBare s src port 0x92 0 (leBytes 1 stDictBusy)
  else
    let n := s.mgmt.nextSess
    let chal := leBytes 4 n ++ leBytes 32 (Config.x25519Pub n).toNat ++ leBytes 1088 (Config.kemCipher n kem).toNat ++ leBytes 32 (Config.nonce n).toNat
    let tr := sha ([level, 0, 0, 0] ++ x ++ kem ++ nonce ++ chal)
    let key := sha (leBytes 32 (Config.x25519 n x).toNat ++ leBytes 32 (Config.kemSecret n kem).toNat ++ tr)
    let x : Session := { id := n, level := level.toNat, opened := false, key, transcript := tr, addr := src, port }
    let s := { s with mgmt := { s.mgmt with sessions := s.mgmt.sessions ++ [x], nextSess := n % (2 ^ 32 - 1) + 1 } }
    sendBare s src port 0x11 0 (chal ++ leBytes 64 (Config.edSign tr).toNat ++ leBytes 3309 (Config.mlSign tr).toNat)
def execSessionOpen (src : BitVec 128) (srcPort : BitVec 16) (level : BitVec 8) (x25519 kem nonce : List Byte) (s : State) : Out :=
  .next (if segServed s then doOpen s src srcPort level x25519 kem nonce else s)

/-- The status of a PROVE (R445, R459). -/
def proveStatus (s : State) (x : Session) (ed ml : List Byte) (late : Bool) : Status :=
  if late then stDictSession
  else match levelKeys s x.level with
    | none => stAuthFail
    | some k =>
      if !(Config.edVerify k.1 (x.transcript ++ [0x12]) ed && Config.mlVerify k.2 (x.transcript ++ [0x12]) ml) then stAuthFail
      else if 8 ≤ openCount s then stDictBusy else stOk
/-- PROVE: SESSION carries the status; on any other than OK the session number is freed. -/
def doProve (s : State) (n : Nat) (ed ml : List Byte) (late : Bool) : State :=
  match findSession s n with
  | none => s
  | some x =>
    if x.opened then s else
    let e := proveStatus s x ed ml late
    let s := if e = 0 then modSession s n (fun x => { x with opened := true, frags := none }) else endSession s n
    sendBare s x.addr x.port 0x92 n (leBytes 1 e)
def execProve (sess : Nat) (sigEd sigMl : List Byte) (late : Bool) (s : State) : Out :=
  .next (if segServed s then doProve s sess sigEd sigMl late else s)

/-- The session is open. -/
def openSession (s : State) (n : Nat) : Option Session := (findSession s n).filter (·.opened)

/-- CLOSE: CLOSE_ACK, then the session ends. -/
def doClose (s : State) (n : Nat) : State := if (openSession s n).isSome then endSession (sendIn s n 0x94 [] false) n else s
def execSessionClose (sess : Nat) (s : State) : Out := .next (if segServed s then doClose s sess else s)

/-- SUBSCRIBE: entries written from now on (R461). -/
def doSubscribe (s : State) (n : Nat) : State :=
  if (openSession s n).isSome then
    modSession s n (fun x => { x with feed := true, feedNext := (rd s logNewAt).toNat + 1, unacked := none, resends := 0 })
  else s
def execSubscribe (sess : Nat) (s : State) : Out := .next (if segServed s then doSubscribe s sess else s)

/-- R461: a session with a feed and no unacknowledged EVENT is sent the next entries of MIN_SEV or above, at most 37. -/
def feedOne (s : State) (x : Session) : State :=
  let es := (s.log.filter (fun e => x.feedNext ≤ e.lsn && objN s 0x0E41 1 ≤ e.sev)).take 37
  match es.getLast? with
  | none => s
  | some e =>
    if x.opened && x.feed && x.unacked.isNone then
      let f := makeFrag (some x.key) 0x21 x.id (x.tx + 1) 0 1 (es.flatMap logBytes)
      sendFrags (modSession s x.id (fun x => { x with tx := x.tx + 1, unacked := some (e.lsn, f), resends := 0 })) x.addr x.port [f]
    else s
def feedPump (s : State) : State := if segServed s then s.mgmt.sessions.foldl feedOne s else s

/-- The entries up to the newest of the unacknowledged EVENT are done with. -/
def feedOn (s : State) (n newest : Nat) : State :=
  feedPump (modSession s n (fun x => { x with feedNext := newest + 1, unacked := none, resends := 0 }))
/-- EVENT_ACK. -/
def doEventAck (s : State) (n lsn : Nat) : State :=
  match (openSession s n).bind (·.unacked) with
  | some (newest, _) => if newest ≤ lsn then feedOn s n newest else s
  | none => s
def execEventAck (sess : Nat) (lsn : BitVec 64) (s : State) : Out := .next (if segServed s then doEventAck s sess lsn.toNat else s)

/-- EVENT_RESEND: up to twenty times; then its entries are skipped. -/
def execEventResend (sess : Nat) (s : State) : Out := .next (
  if !segServed s then s else
  match openSession s sess with
  | none => s
  | some x =>
    match x.unacked with
    | none => s
    | some (newest, f) =>
      if x.resends < 20 then sendFrags (modSession s sess (fun x => { x with resends := x.resends + 1 })) x.addr x.port [f]
      else feedOn s sess newest)

/-- SESSION_TIMEOUT (R459). -/
def execSessionTimeout (sess : Nat) (s : State) : Out := .next (endSession s sess)
/-- REASSEMBLY_TIMEOUT (R460); 0 names the messages outside a session. -/
def execReassemblyTimeout (sess : Nat) (s : State) : Out := .next (
  if sess = 0 then { s with mgmt := { s.mgmt with frags0 := [] } } else modSession s sess (fun x => { x with frags := none }))

/-! ### Reassembly and messages (R457, R460) -/

/-- A fragment joins the message in reassembly; one of another message is discarded (R460, log 38). -/
def addFrag (f : Option FragSet) (ty ctr n i : Nat) (pay : List Byte) : FragSet :=
  match f with
  | none => { mtype := ty, ctr, count := n, parts := mput [] i pay }
  | some g => if g.mtype = ty ∧ g.ctr = ctr ∧ g.count = n then { g with parts := mput g.parts i pay } else g
/-- All fragments are present. -/
def whole (g : FragSet) : Option (List Byte) := if g.parts.length = g.count then some (g.parts.flatMap (·.2)) else none

/-- A whole message outside a session. -/
def bareMessage (s : State) (src : BitVec 128) (port : BitVec 16) (ty : Nat) (d : List Byte) : State :=
  if ty = 0x10 then
    if d.length = 1252 && mfield d 1 3 == 0 then doOpen s src port (d.headD 0) (mpart d 4 32) (mpart d 36 1184) (mpart d 1220 32) else s
  else if 1 ≤ ty ∧ ty ≤ 3 then
    match parseRequest ty d with
    | some es => submit s { via := .bare, mtype := ty, addr := src, port, es }
    | none => s
  else s

/-- A whole message within an open session, by its COUNTER (R460). -/
def sessionMessage (s : State) (x : Session) (ty ctr : Nat) (d : List Byte) : State :=
  if ctr < x.rx then s
  else if ctr = x.rx then sendFrags s x.addr x.port x.lastResp
  else
    let s := modSession s x.id (fun x => { x with rx := ctr, lastResp := [] })
    if 1 ≤ ty ∧ ty ≤ 3 then
      match parseRequest ty d with
      | some es => submit s { via := .session x.id, mtype := ty, es }
      | none => s
    else if ty = 0x14 then doClose s x.id
    else if ty = 0x20 then doSubscribe s x.id
    else if ty = 0xA1 then doEventAck s x.id (mfield d 0 8)
    else s

/-- A message of a session that is not open yet: PROVE. -/
def handshakeMessage (s : State) (x : Session) (ty : Nat) (d : List Byte) : State :=
  if ty = 0x12 && d.length = 3373 then doProve s x.id (d.take 64) (d.drop 64) false else s

/-- R457: the header is legal. -/
def headerOk (dg : List Byte) : Bool :=
  32 ≤ dg.length && mfield dg 0 2 == 0x4854 && mfield dg 2 1 == 1 && mfield dg 14 2 + 32 == dg.length && mfield dg 14 2 ≤ 1200
    && 1 ≤ mfield dg 13 1 && mfield dg 13 1 ≤ 16 && mfield dg 12 1 < mfield dg 13 1

/-- A legal fragment outside a session: reassembly is by sender. -/
def bareFragment (s : State) (src : BitVec 128) (port : BitVec 16) (dg : List Byte) : State :=
  let old := (s.mgmt.frags0.find? (fun e => e.1 == src && e.2.1 == port)).map (·.2.2)
  let rest := s.mgmt.frags0.filter (fun e => !(e.1 == src && e.2.1 == port))
  let g := addFrag old (mfield dg 3 1) 0 (mfield dg 13 1) (mfield dg 12 1) (dg.drop 32)
  match whole g with
  | some d => bareMessage { s with mgmt := { s.mgmt with frags0 := rest } } src port g.mtype d
  | none => { s with mgmt := { s.mgmt with frags0 := rest ++ [(src, port, g)] } }

/-- A legal fragment of a session, its TAG checked once the session is open. -/
def sessionFragment (s : State) (x : Session) (dg : List Byte) : State :=
  let zeroed := dg.take 16 ++ leBytes 16 0 ++ dg.drop 32
  if x.opened && fragTag x.key zeroed != mpart dg 16 16 then s else
  let g := addFrag x.frags (mfield dg 3 1) (mfield dg 8 4) (mfield dg 13 1) (mfield dg 12 1) (dg.drop 32)
  match whole g with
  | none => modSession s x.id (fun x => { x with frags := some g })
  | some d =>
    let s := modSession s x.id (fun x => { x with frags := none })
    if x.opened then sessionMessage s x g.mtype g.ctr d else handshakeMessage s x g.mtype d

/-- THAUNO_FRAGMENT (R457, R460). -/
def execThaunoFragment (src : BitVec 128) (srcPort : BitVec 16) (dg : List Byte) (s : State) : Out := .next (
  if !segServed s || !headerOk dg then s
  else if mfield dg 4 4 = 0 then bareFragment s src srcPort dg
  else match findSession s (mfield dg 4 4) with
    | some x => sessionFragment s x dg
    | none => s)

/-- A 128-bit address in network order. -/
def addrBytes (a : BitVec 128) : List Byte := (leBytes 16 a.toNat).reverse
/-- NEIGHBOR_SOLICITATION (R456): answered for the link-local address, with the MAC address (log 13). -/
def execNeighborSolicitation (target src : BitVec 128) (s : State) : Out := .next (
  if segServed s && addrBytes target == linkLocal then
    { s with dgrams := s.dgrams ++ [{ addr := src, port := 0, data := linkLocal ++ leBytes 6 Config.mac.toNat }] }
  else s)

/-! ### The mailbox (R462, R463) -/

/-- MB_CTL: LEN and VECTOR are stored; GO sends the request unless BUSY. -/
def writeMbCtl (s : State) (c : Fin 2) (v : Word) : State :=
  let s := plainWrite s .mbCtl (mbCtl c) v
  if !bit v 63 || flag s (mbCtl c) 62 then s else
  let s := setFlag s (mbCtl c) 62 true
  let n := fld s (mbCtl c) 61 47
  match mbBuffer s c with
  | none => mbFail s c
  | some a =>
    if n < 32 || 19232 < n then mbFail s c else mbPump (setMbox s c { addr := a, len := n }) c
def execMbGo (ch : Fin 2) (v : Word) (s : State) : Out := whenRunning s fun s => writeMbCtl s ch (setBit v 63 true)

/-- A mailbox message at the controller: a Thauno message of one fragment with SESSION, COUNTER and TAG 0. -/
def mbMessage (s : State) (c : Fin 2) (dg : List Byte) : State :=
  let ok := 32 ≤ dg.length && mfield dg 0 2 == 0x4854 && mfield dg 2 1 == 1 && mfield dg 4 8 == 0 && mfield dg 12 1 == 0
    && mfield dg 13 1 == 1 && mfield dg 14 2 + 32 == dg.length && mfield dg 16 16 == 0
  let ty := mfield dg 3 1
  if !ok then mbFail s c
  else if ty < 1 ∨ 3 < ty then mbRespond s c (0x80 ||| ty) (leBytes 2 0) stDictSession
  else match parseRequest ty (dg.drop 32) with
    | some es => submit s { via := .mailbox c, mtype := ty, es }
    | none => mbFail s c

/-- A packet of a message joins what S0 has received; the whole message is queued for the controller. A packet that comes poisoned makes
it unreadable (log 104). -/
def mbReceive (s : State) (c : Fin 2) (m : MbMsg) (p : Packet) : State :=
  let m := { m with got := m.got ++ p.data, bad := m.bad || p.poison != 0 }
  let s := setMbox s c m
  if m.got.length < m.len then s
  else if m.bad then mbEnd s c stPoison 0
  else mbMessage s c m.got

/-- MGMT (R301, R462): a packet of a message reaches S0, which answers it; one of a message that has ended is discarded. -/
def execMgmt (p : Packet) (s : State) : Out := whenRunning s fun s =>
  let c : Fin 2 := if nodeEp p.src = 3 then 0 else 1
  if p.op = 0x60 && p.dest == nodeOf 4 3 && arrived s p then
    let current := p.src == mbNode c && (getTag s p.src.toNat p.tag.toNat).use == some (.mailbox c)
      && (getTag s p.src.toNat p.tag.toNat).gen == p.gen
    match mfind s.mgmt.mbox c with
    | some m => if current then mbReceive (answer s p stOk) c m p else answer s p stOk
    | none => answer s p stOk
  else s

end Sys2Proof.Machine
end

