-- ==== Sys2Proof/Machine/Csr.lean ====
section
/-! DEFINITION. The CSR space: what a register reads as, what a write to it does, and requests that cover several registers
(R5, R12, R30-R33, R285, and the register tables). -/

namespace Sys2Proof.Machine
open Sys2Proof

/-! ### Reads -/

/-- REC_USED, REQ_USED and CTX_USED of a Shale: those of the peers whose contexts live there (R357, R380, log 40). -/
def fxCtxWord (s : State) (n : Nat) : Word :=
  let mine (d : Nat) : Bool := shaleOf s d == n
  BitVec.ofNat 64 ((s.fabric.ctxs.filter (fun c => mine c.peer.toNat)).length * 2 ^ 50
    + (s.fabric.outst.filter (fun r => mine r.dev.toNat)).length % 2 ^ 17 * 2 ^ 33
    + (s.fabric.recs.filter (fun r => mine r.key.dev.toNat)).length % 2 ^ 19 * 2 ^ 14)

/-- Word k of a log entry by its position in S0's window (R433, R438): 0 where no entry is held. -/
def logWord (s : State) (o : Nat) : Word :=
  let pos := (o - 0xB01000) / 32
  match s.log.find? (fun e => e.lsn % 4096 == pos) with
  | some e => BitVec.ofNat 64 (leNat (((logBytes e).drop (o % 32 / 8 * 8)).take 8))
  | none => 0

/-- The register of an M-tile with the fields that follow the array (R112). -/
def mtStateWord (s : State) (t : TileId) (w : Word) : Word :=
  setBits (setBit w 56 (getTile s t).wtag.isSome) 55 47 (getTile s t).passes.length

/-- The number of a tile by its die and slot. -/
def tileAt (die slot : Nat) : TileId := ⟨⟨die % 4, Nat.mod_lt _ (by decide)⟩, ⟨slot % 96, Nat.mod_lt _ (by decide)⟩⟩
def portAt (die n : Nat) : PortId := ⟨⟨(die - 4) % 4, Nat.mod_lt _ (by decide)⟩, ⟨n % 8, Nat.mod_lt _ (by decide)⟩⟩
def laneAt (die n : Nat) : LaneId := ⟨⟨(die - 4) % 4, Nat.mod_lt _ (by decide)⟩, ⟨n % 36, Nat.mod_lt _ (by decide)⟩⟩
def cvAtId (die n : Nat) : CvId := ⟨⟨die % 5, Nat.mod_lt _ (by decide)⟩, ⟨n % 64, Nat.mod_lt _ (by decide)⟩⟩
def regionAt (die n : Nat) : RegionId := ⟨⟨die % 4, Nat.mod_lt _ (by decide)⟩, ⟨n % 16, Nat.mod_lt _ (by decide)⟩⟩
def dieF (n : Nat) : Fin 4 := ⟨n % 4, Nat.mod_lt _ (by decide)⟩

/-- What a register reads as. -/
def csrWord (s : State) (a : Nat) : Word :=
  match locate s.part a with
  | none => if isLogEntry ((a - 0x200000000000) / 0x100000000) (a % 0x100000000) then logWord s (a % 0x100000000) else 0
  | some (n, die, i) =>
    match n with
    | .mtState => mtStateWord s (tileAt die i) (rd s a)
    | .nocEp =>
      BitVec.ofNat 64 ((Config.router die i).toNat * 2 ^ 57 + (Config.lport die i).toNat * 2 ^ 56 + fld s a 55 54 * 2 ^ 54
        + (if epPresent s.part i then 2 ^ 51 else 0))
    | .nocRtr =>
      let w := rd s a
      setBits w 2 0 (routeEntry (if bit w 47 then s.noc.shadow else s.noc.active) die (bits w 63 57) (bit w 56) (bits w 55 48))
    | .hbmScrub => scrubWord s die
    | .hbmMap | .hbmHash => rd s (hbmAt 0 (a % 0x100))
    | .hbmDlydat => setBits (setBits (rd s a) 7 0 (mget 0 s.hbm.shadow (selKey s die))) 15 8 (mget 0 s.hbm.active (selKey s die))
    | .hbmCh => if chFitted s.part i then rd s a else Config.absent a
    | .fxCtl => rd s (fxAt 0 0)
    | .fxTwin => rd s (fxAt 0 8)
    | .fxMir => rd s (mirAt i)
    | .fxCtx => fxCtxWord s (die - 4)
    | .lkAdmit => rd s admitAt
    | .ioPin | .ioBank | .lrPll | .lrClk | .qcCfg | .qcPeer | .qcStat | .qcThr => rd s a
    | _ => rd s a

/-! ### Writes -/

/-- SE_LIMIT: the three limits, each 1..512, or the write is ignored and LIMIT_ERR set (R199). -/
def writeSeLimit (s : State) (a : Nat) (v : Word) : State :=
  let ok (n : Nat) : Bool := 1 ≤ n && n ≤ 512
  if ok (bits v 39 30) && ok (bits v 29 20) && ok (bits v 19 10) then plainWrite s .seLimit a v else setFlag s a 63 true

/-- A register one field of which has a stated range; other values are ignored. -/
def writeRanged (s : State) (n : RegName) (a : Nat) (v : Word) (hi lo least most : Nat) : State :=
  if least ≤ bits v hi lo && bits v hi lo ≤ most then plainWrite s n a v
  else plainWrite s n a (setBits v hi lo (fld s a hi lo))

/-- TP_ABORT: KIND 2 and 3 are ignored (R229). -/
def writeAbort (s : State) (t : TileId) (v : Word) : State :=
  match bits v 63 62 with
  | 0 => abortUnitWrite s t (bits v 31 0)
  | 1 => abortLaunchWrite s t (bits v 61 61) (bits v 31 0) stOk
  | _ => s

/-- FX_CTL: all fields in range, or the write is ignored and FX_ERR set (R380). -/
def writeFxCtl (s : State) (v : Word) : State :=
  let ok (hi lo least most : Nat) : Bool := least ≤ bits v hi lo && bits v hi lo ≤ most
  if ok 63 55 50 400 && ok 54 48 10 100 && ok 47 43 4 16 && ok 42 36 1 64 then plainWrite s .fxCtl (fxAt 0 0) v else fxErr s

/-- FX_CQr: LOG2N in 4..12, or the write is ignored and FX_ERR set. -/
def writeFxCq (s : State) (r : Nat) (v : Word) : State :=
  if 4 ≤ bits v 62 58 && bits v 62 58 ≤ 12 then plainWrite s .fxCq (cqRingAt r) v else fxErr s

/-- A write of one register by an initiator. `p` is the request, for a write whose acknowledgement may be held. -/
def csrWrite (s : State) (i : Initiator) (p : Option Packet) (a : Nat) (v : Word) : State :=
  match locate s.part a with
  | none => s
  | some (n, die, k) =>
    match n with
    | .mtAccset => writeAccset s (tileAt die k) (a % 0x1000 / 8 % 16) v p
    | .seLimit => writeSeLimit s a v
    | .seCancel => writeSeCancel s (tileAt die k) v
    | .seClear => writeSeClear s (tileAt die k) v
    | .seStall => writeRanged s .seStall a v 13 0 1 10000
    | .tpSq => writeSq s (tileAt die k) (a % 0x1000 / 8) v
    | .tpDb => setTail s (tileAt die k) (a % 0x1000 / 8 - 2) (bits v 31 0)
    | .tpAbort => writeAbort s (tileAt die k) v
    | .tpCqd => writeCqd s (dieF die) k v
    | .tpCqh => writeCqh s (dieF die) k v
    | .tpGdb => writeGdb s (dieF die) k v
    | .qcCfg => writeQcCfg s (dieF die) ⟨k % 512, Nat.mod_lt _ (by decide)⟩ v
    | .qcThr => writeQcReg s .qcThr (dieF die) ⟨k % 512, Nat.mod_lt _ (by decide)⟩ 0x18 v
    | .qcPeer => writeQcReg s .qcPeer (dieF die) ⟨k % 512, Nat.mod_lt _ (by decide)⟩ 8 v
    | .lrClk => writeLrClk s (regionAt die k) (a % 0x100 / 8) v
    | .lrPll => writePll s (dieF die) k v
    | .ioPin => writeIoPin s (dieF die) k v
    | .ioBank => writeIoBank s (dieF die) v
    | .cfgCtl => writeCfgCtl s (regionAt die k) v
    | .cfgScrub => writeCfgScrub s (regionAt die k) v
    | .nocCtl => writeRanged s .nocCtl a v 53 44 1 1000
    | .nocRtctl => if bit v 63 then startSwap s die else s
    | .nocRtw => writeRtw s die v
    | .nocEp => writeNocEp s die k v
    | .hbmMap => writeHbmMap s die v
    | .hbmHash => writeHbmHash s die a v
    | .hbmAge => writeRanged s .hbmAge a v 11 0 250 4000
    | .hbmScrub => writeRanged s .hbmScrub a v 63 59 1 24
    | .hbmDlydat => writeDlydat s die v
    | .hbmCheck => writeHbmCheck s die v
    | .hbmRepair => writeHbmRepair s die v
    | .hbmCh => writeHbmCh s die k v
    | .fxCtl => if die = 4 then writeFxCtl s v else s
    | .fxCq => writeFxCq s k v
    | .fxCqdb => setRingTail s k (bits v 31 0)
    | .lkPctl => writePctl s (portAt die k) v
    | .lkPinj => writePinj s (portAt die k) v
    | .lkLctl => writeLctl s (laneAt die k) v
    | .lkLerr => writeLerr s (laneAt die k) v
    | .cvCfg => writeCvCfg s (cvAtId die k) v
    | .cvSeed => writeCvSeed s (cvAtId die k) v
    | .rlTmove => writeTmove s (dieF die) v
    | .rlCspare => writeCspare s (dieF die) v
    | .rlSram => writeSram s die v
    | .rlWdog => writeWdog s v
    | .mbCtl => writeMbCtl s ⟨k % 2, Nat.mod_lt _ (by decide)⟩ v
    | .grPcie => sendMsix (if i = .host then s else writeGrPcie s v) (bits v 35 30)
    | .pwCtl => writePwCtl s die v
    | .mtState | .mtSeq | .mtCount | .vtState | .vtSeq | .vtCount | .seStat | .seBytes | .seForeign | .seStallcnt | .tpHead
    | .tpState | .tpAbortreply | .tpCkpt | .tpCtr | .tpCqt | .qcStat | .cfgStat | .cfgFetch | .cfgFetchlen | .nocRtr
    | .nocLink | .hbmDlysel | .fxTwin | .fxCtx | .fxMir | .lkPstat | .lkPerr | .lkLstat | .lkAdmit | .cvExp | .cvVal | .cvStat
    | .cvsAddr | .cvsLen | .rlLognew | .rlLogovr | .mbAddr | .grBoot | .grIrq | .pwStat => plainWrite s n a v

/-! ### Requests (R12, R33, R285) -/

/-- The address lies in a register block: CSR space, or the registers of a configuration-port window. -/
def isCsr (p : Part) (a : Nat) : Bool :=
  match classify p a with
  | .csr _ _ => true
  | .cfg _ _ off => off < 0x28
  | _ => false

/-- R12, R33: the status of a request to CSR space before it has any effect: the map is checked at injection, the size at
the block (R298, log 42). -/
def csrStatus (s : State) (p : Packet) : Status :=
  let m := mapStatus s.part (initiatorOf s p) p.addr.toNat p.len
  if m ≠ 0 then m
  else if p.addr.toNat % 8 ≠ 0 || p.len % 8 ≠ 0 || p.len = 0 then stNocSize
  else 0

/-- The registers that a request covers, in ascending order. -/
def csrAddrs (p : Packet) : List Nat := (List.range (p.len / 8)).map (fun k => p.addr.toNat + 8 * k)

/-- A TP_ABORT among the registers has to wait for its ABORT write (R219). -/
def csrWaits (s : State) (p : Packet) : Bool :=
  (csrAddrs p).any (fun a => match locate s.part a with
    | some (.tpAbort, die, k) =>
      let v : Word := BitVec.ofNat 64 (leNat ((p.data.drop (a - p.addr.toNat)).take 8))
      bits v 63 62 == 1 && abortWaits s (tileAt die k) (bits v 61 61) (bits v 31 0) stOk
    | _ => false)

/-- A write request to CSR space: one whole access to each register it covers, in ascending order; acknowledged at once unless a
held MT_ACCSET write keeps the acknowledgement. -/
def csrWriteReq (s : State) (p : Packet) : State :=
  let e := csrStatus s p
  if e ≠ 0 then answer s p e
  else if csrWaits s p then s
  else
    let i := initiatorOf s p
    let s := takePkt s p
    let s := (csrAddrs p).foldl (fun s a => csrWrite s i (some p) a (BitVec.ofNat 64 (leNat ((p.data.drop (a - p.addr.toNat)).take 8)))) s
    if s.tiles.any (fun t => t.2.heldAcc.any (fun h => h.2.2 == some p)) then s else sendPkt s (response p stOk [] 0)

/-- A read request to CSR space. -/
def csrReadReq (s : State) (p : Packet) : State :=
  let e := csrStatus s p
  if e ≠ 0 then answer s p e
  else sendPkt (takePkt s p) (response p stOk ((csrAddrs p).flatMap (fun a => leBytes 8 (csrWord s a).toNat)) 0)

/-- The address lies in CSR space, mapped or not (R27), or in the registers of a configuration-port window. -/
def inCsrSpace (p : Part) (a : Nat) : Bool := isCsr p a || (0x200000000000 ≤ a && a < 0x200900000000)

/-- R33, R298: a request that its initiator may not make does not enter the network: it completes with the status of the
map. -/
def resolved (s : State) (p : Packet) (f : State → State) : State :=
  let m := mapStatus s.part (initiatorOf s p) p.addr.toNat p.len
  if m ≠ 0 then answer s p m else throughFence s p f

/-- CSR_WRITE (R12): a write request to CSR space, through the fence of its endpoint. -/
def execCsrWrite (p : Packet) (s : State) : Out := whenRunning s fun s =>
  if p.op = 0x02 && inCsrSpace s.part p.addr.toNat && p.data.length == p.len then resolved s p fun s => csrWriteReq s p else s

end Sys2Proof.Machine
end

