-- ==== Sys2Proof/Machine/Net.lean ====
section
/-! DEFINITION. Requests and responses of the on-package network at their endpoints (R301, R304, R310-R313, R467). -/

namespace Sys2Proof.Machine
open Sys2Proof

/-! ### READ and WRITE (R33, R107, R133, R285, R301) -/

/-- A READ or WRITE as an initiator forms it (R298, R300): 1 to 256 bytes that cross no 256-byte boundary, a WRITE with its
bytes. -/
def formed (p : Packet) : Bool :=
  sizeLegal p.addr.toNat p.len && (p.op == 0x01 || (p.op == 0x02 && p.data.length == p.len))

/-- A READ or WRITE of HBM at its memory port: refused, queued behind what it has to wait for, or served. -/
def hbmReq (s : State) (p : Packet) : State :=
  let e := hbmScreen s p
  if e ≠ 0 then answer s p e else if hbmFree s (offsetOf p) (pktLen p) then hbmDirect s p else hbmQueue s p

/-- A WRITE of kernel memory is held while a kernel runs (R133). -/
def kmHeld (s : State) (t : TileId) (off : Nat) (p : Packet) : Bool :=
  isV t && p.op == 0x02 && 0x100000 < off + p.len && (getTile s t).kernel.isSome

/-- R304: a request of the same source that touches a byte of an earlier held WRITE is served after it. -/
def kmBehind (s : State) (t : TileId) (off : Nat) (p : Packet) : Bool :=
  (getTile s t).heldKm.any (fun h => h.op == 0x02 && h.src == p.src && overlaps (h.addr.toNat % 0x800000) h.len off p.len)

/-- A request for a tile's window (R29, R107, R111, R171). -/
def windowReq (s : State) (t : TileId) (off : Nat) (p : Packet) : State :=
  if kmBehind s t off p && windowRefusal s t off p.len = 0 then
    modTile (takePkt s p) t (fun x => { x with heldKm := x.heldKm ++ [p] })
  else if p.op = 0x01 then
    let r := windowRead s t off p.len
    sendPkt (takePkt s p) (response p r.1 r.2.1 r.2.2)
  else if kmHeld s t off p && windowRefusal s t off p.len = 0 then
    modTile (takePkt s p) t (fun x => { x with heldKm := x.heldKm ++ [p] })
  else
    let w := windowWrite s t off p.data p.poison.toNat
    answer w.2 p w.1

/-- A request for a configuration-port window beyond its registers (R285). -/
def cfgReq (s : State) (r : RegionId) (off : Nat) (p : Packet) : State :=
  if p.op = 0x01 then
    let x := cfgWindowRead s r off p.len
    let bad (g : Nat) : Bool := (List.range 64).any (fun i => cfgPoison s r (64 * g + i))
    sendPkt (takePkt s p) (response p x.1 x.2 (flitMask bad off p.len))
  else if off < 0x1000000 then answer (loadPort s r p.data) p stOk
  else answer s p stNocDenied

/-- A READ or WRITE that its initiator may make, at the endpoint that its address selects (R33, R298). -/
def rwReq (s : State) (p : Packet) : State :=
  if isCsr s.part p.addr.toNat then (if p.op = 0x01 then csrReadReq s p else csrWriteReq s p)
  else match classify s.part p.addr.toNat with
  | .scratch t off => windowReq s t off p
  | .cfg die n off => cfgReq s (regionAt die n) off p
  | .csr _ _ => answer s p stNocUnmapped
  | .unmapped => answer s p stNocUnmapped
  | .userHbm => hbmReq s p
  | .firmware => hbmReq s p
  | .carveOut => hbmReq s p

/-- A READ or WRITE is checked against the map (R33), then taken at its target, through its fence; one with a fabric address
goes to the Shale engine (R352). -/
def netRw (s : State) (p : Packet) : State :=
  if !formed p then s
  else if p.fab then throughFence s p fun s => fabAccept s p
  else resolved s p fun s => rwReq s p

/-- READ (R301). -/
def execRead (p : Packet) (s : State) : Out := whenRunning s fun s => if p.op = 0x01 then netRw s p else s
/-- WRITE (R301). -/
def execWrite (p : Packet) (s : State) : Out := whenRunning s fun s => if p.op = 0x02 then netRw s p else s

/-! ### Responses (R311-R313) -/

/-- What a response is to whom its tag is held for. -/
def delivered (s : State) (p : Packet) (u : TagUse) : State :=
  match u with
  | .stream .. => streamResponseAt s p
  | .signal t q id => signalEnded (freeTag (takePkt s p) p.dest.toNat p.tag.toNat) t q id p.status.toNat
  | .qc d q => qcAnswered (freeTag (takePkt s p) p.dest.toNat p.tag.toNat) d q p.status.toNat
  | .pcie =>
    let s := freeTag (takePkt s p) p.dest.toNat p.tag.toNat
    { s with pcieOut := s.pcieOut ++ [.completion p.status.toNat p.data] }
  | .endpoint _ => freeTag (takePkt s p) p.dest.toNat p.tag.toNat
  | .mailbox c =>
    let s := freeTag (takePkt s p) p.dest.toNat p.tag.toNat
    if p.status = 0 then mbPump s c else mbEnd s c p.status.toNat 0
  | .other => freeTag (takePkt s p) p.dest.toNat p.tag.toNat

/-- R311: a response at its initiator: discarded when its tag is free or of another generation, else delivered and the tag
freed. -/
def netResponse (s : State) (p : Packet) : State :=
  throughFence s p fun s =>
    let g := getTag s p.dest.toNat p.tag.toNat
    match g.use with
    | none => takePkt s p
    | some u => if g.gen ≠ p.gen then takePkt s p else delivered s p u

/-- READ_RESP (R311). -/
def execReadResp (p : Packet) (s : State) : Out := whenRunning s fun s => if p.op = 0x81 then netResponse s p else s
/-- WRITE_ACK (R311), and the other acknowledgements that carry a status only: of an end marker and of a mailbox message. -/
def execWriteAck (p : Packet) (s : State) : Out := whenRunning s fun s =>
  if p.op = 0x82 ∨ p.op = 0x95 ∨ p.op = 0xE0 then netResponse s p else s
/-- PUSH_ACK (R185). -/
def execPushAck (p : Packet) (s : State) : Out := whenRunning s fun s => if p.op = 0x90 then netResponse s p else s
/-- RESERVE_ACK (R184). -/
def execReserveAck (p : Packet) (s : State) : Out := whenRunning s fun s => if p.op = 0x92 then netResponse s p else s
/-- SIGNAL_ACK (R223). -/
def execSignalAck (p : Packet) (s : State) : Out := whenRunning s fun s => if p.op = 0xA0 then netResponse s p else s

/-! ### Queue streams and signals (R184-R186, R223) -/

/-- A request at its target, which answers it with the status of what it did. -/
def servedAt (s : State) (p : Packet) (f : State → Status × State) : State :=
  throughFence s p fun s => if p.fab then fabAccept s p else answer (f s).2 p (f s).1

/-- PUSH (R185, R261). -/
def execPush (p : Packet) (s : State) : Out := whenRunning s fun s => if p.op = 0x10 then servedAt s p (pushAt · p) else s
/-- RESERVE (R184, R186). -/
def execReserve (p : Packet) (s : State) : Out := whenRunning s fun s => if p.op = 0x12 then servedAt s p (reserveAt · p) else s
/-- ENDMARK (R185, R261). -/
def execEndmark (p : Packet) (s : State) : Out := whenRunning s fun s => if p.op = 0x15 then servedAt s p (endmarkAt · p) else s
/-- SIGNAL at its counter (R223). -/
def execSignalPacket (p : Packet) (s : State) : Out := whenRunning s fun s =>
  if p.op = 0x20 then
    servedAt s p fun s => signalAt s (BitVec.ofNat 64 (0x40 * 2 ^ 56 + p.od.aop.toNat * 2 ^ 53 + p.od.seq.toNat)) p.addr
  else s

/-- A packet that has no response, at its endpoint. -/
def oneWay (s : State) (p : Packet) (f : State → State) : State :=
  throughFence s p fun s => if p.fab then fabAccept s p else f (takePkt s p)
/-- CREDIT (R185). -/
def execCredit (p : Packet) (s : State) : Out := whenRunning s fun s => if p.op = 0x11 then oneWay s p (creditAt · p) else s
/-- GRANT (R184). -/
def execGrant (p : Packet) (s : State) : Out := whenRunning s fun s => if p.op = 0x13 then oneWay s p (grantAt · p) else s

/-! ### Interrupts (R467) -/

/-- GR_IRQv. -/
def grIrqAt (v : Nat) : Nat := grAt (0x1000 + 8 * v)
/-- IRQ (R467): an enabled vector v sets identity v + 1 of its hart's interrupt file; another is discarded. -/
def execIrq (p : Packet) (s : State) : Out := whenRunning s fun s =>
  if p.op = 0x61 ∧ arrived s p = true then
    let v := p.addr.toNat % 1024
    let s := takePkt s p
    if flag s (grIrqAt v) 63 then
      { s with imsic := mset false s.imsic (2048 * fld s (grIrqAt v) 62 59 + v + 1) true }
    else s
  else s

end Sys2Proof.Machine
end

