-- ==== Sys2Proof/Machine/Dispatch.lean ====
section
/-! DEFINITION. What each command does: one arm per row of the opcode table. -/

namespace Sys2Proof.Machine
open Sys2Proof

/-- The effect of a command on everything but the queue. -/
def exec (i : Instr) (s : State) : Host.Outcome State Fault Refusal :=
  match i with
  | .csrWrite p => Sys2Proof.Machine.execCsrWrite p s
  | .read p => Sys2Proof.Machine.execRead p s
  | .write p => Sys2Proof.Machine.execWrite p s
  | .readResp p => Sys2Proof.Machine.execReadResp p s
  | .writeAck p => Sys2Proof.Machine.execWriteAck p s
  | .push p => Sys2Proof.Machine.execPush p s
  | .pushAck p => Sys2Proof.Machine.execPushAck p s
  | .credit p => Sys2Proof.Machine.execCredit p s
  | .reserve p => Sys2Proof.Machine.execReserve p s
  | .reserveAck p => Sys2Proof.Machine.execReserveAck p s
  | .grant p => Sys2Proof.Machine.execGrant p s
  | .endmark p => Sys2Proof.Machine.execEndmark p s
  | .signalPacket p => Sys2Proof.Machine.execSignalPacket p s
  | .signalAck p => Sys2Proof.Machine.execSignalAck p s
  | .mirrorWr p note => Sys2Proof.Machine.execMirrorWr p note s
  | .mirrorAck p => Sys2Proof.Machine.execMirrorAck p s
  | .mgmt p => Sys2Proof.Machine.execMgmt p s
  | .irq p => Sys2Proof.Machine.execIrq p s
  | .fenceDone d ep => Sys2Proof.Machine.execFenceDone d ep s
  | .routerHop d router p => Sys2Proof.Machine.execRouterHop d router p s
  | .linkReplay d link got => Sys2Proof.Machine.execLinkReplay d link got s
  | .ucieModule d bridge module lost => Sys2Proof.Machine.execUcieModule d bridge module lost s
  | .initiatorTimeout node tag => Sys2Proof.Machine.execInitiatorTimeout node tag s
  | .nocRtw d v => Sys2Proof.Machine.execNocRtw d v s
  | .swap d => Sys2Proof.Machine.execSwap d s
  | .routeSwapDone d => Sys2Proof.Machine.execRouteSwapDone d s
  | .nocRouteFail d => Sys2Proof.Machine.execNocRouteFail d s
  | .fenceDrain d ep => Sys2Proof.Machine.execFenceDrain d ep s
  | .fenceAbandon d ep => Sys2Proof.Machine.execFenceAbandon d ep s
  | .unfence d ep => Sys2Proof.Machine.execUnfence d ep s
  | .tpDb t q v => Sys2Proof.Machine.execTpDb t q v s
  | .tpGdb d half v => Sys2Proof.Machine.execTpGdb d half v s
  | .tpSqWrite t q v => Sys2Proof.Machine.execTpSqWrite t q v s
  | .launchFetch t q net => Sys2Proof.Machine.execLaunchFetch t q net s
  | .sstart t q => Sys2Proof.Machine.execSstart t q s
  | .swait t q => Sys2Proof.Machine.execSwait t q s
  | .srel t q => Sys2Proof.Machine.execSrel t q s
  | .swrt t q => Sys2Proof.Machine.execSwrt t q s
  | .scan t q => Sys2Proof.Machine.execScan t q s
  | .pass t q => Sys2Proof.Machine.execPass t q s
  | .passStart t => Sys2Proof.Machine.execPassStart t s
  | .passCycle t fault => Sys2Proof.Machine.execPassCycle t fault s
  | .passAbortReport t seq => Sys2Proof.Machine.execPassAbortReport t seq s
  | .xwait t q => Sys2Proof.Machine.execXwait t q s
  | .kernelLaunch t q => Sys2Proof.Machine.execKernelLaunch t q s
  | .kernelEnd t fault => Sys2Proof.Machine.execKernelEnd t fault s
  | .sli t => Sys2Proof.Machine.execSli t s
  | .saddi t => Sys2Proof.Machine.execSaddi t s
  | .bnzd t => Sys2Proof.Machine.execBnzd t s
  | .br t => Sys2Proof.Machine.execBr t s
  | .sld t => Sys2Proof.Machine.execSld t s
  | .sst t => Sys2Proof.Machine.execSst t s
  | .vld t => Sys2Proof.Machine.execVld t s
  | .vst t fault => Sys2Proof.Machine.execVst t fault s
  | .vcvt t fault => Sys2Proof.Machine.execVcvt t fault s
  | .vscl t => Sys2Proof.Machine.execVscl t s
  | .vtag t => Sys2Proof.Machine.execVtag t s
  | .viota t => Sys2Proof.Machine.execViota t s
  | .vadd t => Sys2Proof.Machine.execVadd t s
  | .vsub t => Sys2Proof.Machine.execVsub t s
  | .vmul t => Sys2Proof.Machine.execVmul t s
  | .vneg t => Sys2Proof.Machine.execVneg t s
  | .vabs t => Sys2Proof.Machine.execVabs t s
  | .vcmp t => Sys2Proof.Machine.execVcmp t s
  | .vsel t => Sys2Proof.Machine.execVsel t s
  | .vrot t => Sys2Proof.Machine.execVrot t s
  | .vand t => Sys2Proof.Machine.execVand t s
  | .vor t => Sys2Proof.Machine.execVor t s
  | .vxor t => Sys2Proof.Machine.execVxor t s
  | .vshl t => Sys2Proof.Machine.execVshl t s
  | .vshr t => Sys2Proof.Machine.execVshr t s
  | .mlog t => Sys2Proof.Machine.execMlog t s
  | .vmin t => Sys2Proof.Machine.execVmin t s
  | .vmax t => Sys2Proof.Machine.execVmax t s
  | .vrmin t => Sys2Proof.Machine.execVrmin t s
  | .vrmax t => Sys2Proof.Machine.execVrmax t s
  | .vpoly t => Sys2Proof.Machine.execVpoly t s
  | .vcrc t => Sys2Proof.Machine.execVcrc t s
  | .vmsum t => Sys2Proof.Machine.execVmsum t s
  | .fadd t => Sys2Proof.Machine.execFadd t s
  | .fsub t => Sys2Proof.Machine.execFsub t s
  | .fmul t => Sys2Proof.Machine.execFmul t s
  | .ffma t => Sys2Proof.Machine.execFfma t s
  | .fdiv t => Sys2Proof.Machine.execFdiv t s
  | .fsqrt t => Sys2Proof.Machine.execFsqrt t s
  | .fcvt t => Sys2Proof.Machine.execFcvt t s
  | .fcmp t => Sys2Proof.Machine.execFcmp t s
  | .fmin t => Sys2Proof.Machine.execFmin t s
  | .fmax t => Sys2Proof.Machine.execFmax t s
  | .fminnum t => Sys2Proof.Machine.execFminnum t s
  | .fmaxnum t => Sys2Proof.Machine.execFmaxnum t s
  | .lclr t => Sys2Proof.Machine.execLclr t s
  | .ldot t fault => Sys2Proof.Machine.execLdot t fault s
  | .lsum t fault => Sys2Proof.Machine.execLsum t fault s
  | .lssq t fault => Sys2Proof.Machine.execLssq t fault s
  | .lsabs t fault => Sys2Proof.Machine.execLsabs t fault s
  | .lrnd t => Sys2Proof.Machine.execLrnd t s
  | .lsave t => Sys2Proof.Machine.execLsave t s
  | .ladd t fault => Sys2Proof.Machine.execLadd t fault s
  | .kernelLimit t => Sys2Proof.Machine.execKernelLimit t s
  | .kernelAbortReport t => Sys2Proof.Machine.execKernelAbortReport t s
  | .kernelMemoryApply t => Sys2Proof.Machine.execKernelMemoryApply t s
  | .mtAccsetWrite t n v => Sys2Proof.Machine.execMtAccsetWrite t n v s
  | .mtAccsetApply t n => Sys2Proof.Machine.execMtAccsetApply t n s
  | .abortUnit t id => Sys2Proof.Machine.execAbortUnit t id s
  | .abortLaunch t q pos net => Sys2Proof.Machine.execAbortLaunch t q pos net s
  | .tpEnd t q => Sys2Proof.Machine.execTpEnd t q s
  | .signal t q => Sys2Proof.Machine.execSignal t q s
  | .wait t q => Sys2Proof.Machine.execWait t q s
  | .chkpt t q => Sys2Proof.Machine.execChkpt t q s
  | .hint t q => Sys2Proof.Machine.execHint t q s
  | .waitLimit t q => Sys2Proof.Machine.execWaitLimit t q s
  | .launchCommit t q net => Sys2Proof.Machine.execLaunchCommit t q net s
  | .completionRecordHead d cq net => Sys2Proof.Machine.execCompletionRecordHead d cq net s
  | .tpCqdWrite d cq v => Sys2Proof.Machine.execTpCqdWrite d cq v s
  | .tpCqhWrite d cq v => Sys2Proof.Machine.execTpCqhWrite d cq v s
  | .preempt t => Sys2Proof.Machine.execPreempt t s
  | .suspend t => Sys2Proof.Machine.execSuspend t s
  | .programResume t => Sys2Proof.Machine.execProgramResume t s
  | .programRestart t q => Sys2Proof.Machine.execProgramRestart t q s
  | .powerDomainOff t => Sys2Proof.Machine.execPowerDomainOff t s
  | .powerDomainWake t => Sys2Proof.Machine.execPowerDomainWake t s
  | .streamRequestIssue t => Sys2Proof.Machine.execStreamRequestIssue t s
  | .seta t c => Sys2Proof.Machine.execSeta t c s
  | .setah t c => Sys2Proof.Machine.execSetah t c s
  | .sett t c => Sys2Proof.Machine.execSett t c s
  | .adda t c => Sys2Proof.Machine.execAdda t c s
  | .seFor t c => Sys2Proof.Machine.execSeFor t c s
  | .seNext t c => Sys2Proof.Machine.execSeNext t c s
  | .move t c => Sys2Proof.Machine.execMove t c s
  | .gather t c => Sys2Proof.Machine.execGather t c s
  | .flush t c => Sys2Proof.Machine.execFlush t c s
  | .streamFence t c => Sys2Proof.Machine.execStreamFence t c s
  | .streamEnd t c => Sys2Proof.Machine.execStreamEnd t c s
  | .streamResponse p => Sys2Proof.Machine.execStreamResponse p s
  | .seCancel t v => Sys2Proof.Machine.execSeCancel t v s
  | .streamCancelReport t c => Sys2Proof.Machine.execStreamCancelReport t c s
  | .seClear t v => Sys2Proof.Machine.execSeClear t v s
  | .stall d => Sys2Proof.Machine.execStall d s
  | .qcWrite d qc valid data => Sys2Proof.Machine.execQcWrite d qc valid data s
  | .qcRead d qc ecc => Sys2Proof.Machine.execQcRead d qc ecc s
  | .qcEnable d qc v => Sys2Proof.Machine.execQcEnable d qc v s
  | .qcDisable d qc => Sys2Proof.Machine.execQcDisable d qc s
  | .qcPush d qc => Sys2Proof.Machine.execQcPush d qc s
  | .pushwait d qc => Sys2Proof.Machine.execPushwait d qc s
  | .endpointRequest r isWrite fab addr len ord data tag => Sys2Proof.Machine.execEndpointRequest r isWrite fab addr len ord data tag s
  | .bramAccess r m portB a ecc => Sys2Proof.Machine.execBramAccess r m portB a ecc s
  | .lrPllWrite d u v => Sys2Proof.Machine.execLrPllWrite d u v s
  | .pllLock d u => Sys2Proof.Machine.execPllLock d u s
  | .locklost d u => Sys2Proof.Machine.execLocklost d u s
  | .clockSelect r k v => Sys2Proof.Machine.execClockSelect r k v s
  | .clockSwitchDone r k => Sys2Proof.Machine.execClockSwitchDone r k s
  | .forced r k => Sys2Proof.Machine.execForced r k s
  | .clockDivide r k v => Sys2Proof.Machine.execClockDivide r k v s
  | .clockEnable r k => Sys2Proof.Machine.execClockEnable r k s
  | .clockDisable r k => Sys2Proof.Machine.execClockDisable r k s
  | .overspeed r k edges => Sys2Proof.Machine.execOverspeed r k edges s
  | .ioBank d supply18 => Sys2Proof.Machine.execIoBank d supply18 s
  | .ioBankLock d => Sys2Proof.Machine.execIoBankLock d s
  | .ioDelayStep d pin output => Sys2Proof.Machine.execIoDelayStep d pin output s
  | .cfgBegin r => Sys2Proof.Machine.execCfgBegin r s
  | .cfgFetch r => Sys2Proof.Machine.execCfgFetch r s
  | .cfgCommit r => Sys2Proof.Machine.execCfgCommit r s
  | .commitReadbackDone r => Sys2Proof.Machine.execCommitReadbackDone r s
  | .cfgRelease r => Sys2Proof.Machine.execCfgRelease r s
  | .cfgHalt r => Sys2Proof.Machine.execCfgHalt r s
  | .cfgResume r => Sys2Proof.Machine.execCfgResume r s
  | .cfgClear r => Sys2Proof.Machine.execCfgClear r s
  | .cfgClearDone r => Sys2Proof.Machine.execCfgClearDone r s
  | .cfgFetchDone r => Sys2Proof.Machine.execCfgFetchDone r s
  | .cfgFrame r => Sys2Proof.Machine.execCfgFrame r s
  | .loadPortWrite r data => Sys2Proof.Machine.execLoadPortWrite r data s
  | .cfgScrubRead r word ecc again => Sys2Proof.Machine.execCfgScrubRead r word ecc again s
  | .amberN low => Sys2Proof.Machine.execAmberN low s
  | .freeze v => Sys2Proof.Machine.execFreeze v s
  | .freezeMessage port pair hops => Sys2Proof.Machine.execFreezeMessage port pair hops s
  | .thaw v => Sys2Proof.Machine.execThaw v s
  | .readout => Sys2Proof.Machine.execReadout s
  | .hbmAccept p => Sys2Proof.Machine.execHbmAccept p s
  | .hbmAdmit d ch pc => Sys2Proof.Machine.execHbmAdmit d ch pc s
  | .hbmCommandSlot d ch pc errs => Sys2Proof.Machine.execHbmCommandSlot d ch pc errs s
  | .refresh d ch pc bank seen => Sys2Proof.Machine.execRefresh d ch pc bank seen s
  | .refreshManagement d ch pc bank threshold => Sys2Proof.Machine.execRefreshManagement d ch pc bank threshold s
  | .sentinelRead d ch pc ok => Sys2Proof.Machine.execSentinelRead d ch pc ok s
  | .patrolScrub d ch pc burst ecc => Sys2Proof.Machine.execPatrolScrub d ch pc burst ecc s
  | .hbmCheck d v => Sys2Proof.Machine.execHbmCheck d v s
  | .checkWindow d failmask => Sys2Proof.Machine.execCheckWindow d failmask s
  | .recheckDue d ch => Sys2Proof.Machine.execRecheckDue d ch s
  | .hbmRepair d v => Sys2Proof.Machine.execHbmRepair d v s
  | .hbmDlydat d v => Sys2Proof.Machine.execHbmDlydat d v s
  | .apply d ch => Sys2Proof.Machine.execApply d ch s
  | .applyAtRefresh d ch pc => Sys2Proof.Machine.execApplyAtRefresh d ch pc s
  | .trained d ch on => Sys2Proof.Machine.execTrained d ch on s
  | .zero d ch => Sys2Proof.Machine.execZero d ch s
  | .zeroDone d ch => Sys2Proof.Machine.execZeroDone d ch s
  | .lock => Sys2Proof.Machine.execLock s
  | .fread p => Sys2Proof.Machine.execFread p s
  | .fwrite p => Sys2Proof.Machine.execFwrite p s
  | .fatomic p => Sys2Proof.Machine.execFatomic p s
  | .fcopy p => Sys2Proof.Machine.execFcopy p s
  | .fsignal p => Sys2Proof.Machine.execFsignal p s
  | .fpush p => Sys2Proof.Machine.execFpush p s
  | .freserve p => Sys2Proof.Machine.execFreserve p s
  | .fcredit p => Sys2Proof.Machine.execFcredit p s
  | .fgrant p => Sys2Proof.Machine.execFgrant p s
  | .fendmark p => Sys2Proof.Machine.execFendmark p s
  | .fabricResponse p => Sys2Proof.Machine.execFabricResponse p s
  | .admitWait p age => Sys2Proof.Machine.execAdmitWait p age s
  | .fabricRetry id => Sys2Proof.Machine.execFabricRetry id s
  | .fabricTimeout id => Sys2Proof.Machine.execFabricTimeout id s
  | .holdLimit id => Sys2Proof.Machine.execHoldLimit id s
  | .recordExpiry key => Sys2Proof.Machine.execRecordExpiry key s
  | .tokenGain => Sys2Proof.Machine.execTokenGain s
  | .fxCqdb ring v => Sys2Proof.Machine.execFxCqdb ring v s
  | .descriptor ring => Sys2Proof.Machine.execDescriptor ring s
  | .heartbeatSend => Sys2Proof.Machine.execHeartbeatSend s
  | .heartbeat direct => Sys2Proof.Machine.execHeartbeat direct s
  | .heartbeatLoss => Sys2Proof.Machine.execHeartbeatLoss s
  | .failNotice => Sys2Proof.Machine.execFailNotice s
  | .leaseSend => Sys2Proof.Machine.execLeaseSend s
  | .lease dev epoch => Sys2Proof.Machine.execLease dev epoch s
  | .leaseResponse granted epoch => Sys2Proof.Machine.execLeaseResponse granted epoch s
  | .leaseTimeout => Sys2Proof.Machine.execLeaseTimeout s
  | .yield v => Sys2Proof.Machine.execYield v s
  | .yieldComplete => Sys2Proof.Machine.execYieldComplete s
  | .twinLinkActive info => Sys2Proof.Machine.execTwinLinkActive info s
  | .twinSync rx => Sys2Proof.Machine.execTwinSync rx s
  | .cutoverStart => Sys2Proof.Machine.execCutoverStart s
  | .cutover epoch => Sys2Proof.Machine.execCutover epoch s
  | .restore v => Sys2Proof.Machine.execRestore v s
  | .mirrorAdd => Sys2Proof.Machine.execMirrorAdd s
  | .mirrorRemove => Sys2Proof.Machine.execMirrorRemove s
  | .mirrorChangeApply rx => Sys2Proof.Machine.execMirrorChangeApply rx s
  | .mirrorSyncDone entry => Sys2Proof.Machine.execMirrorSyncDone entry s
  | .devnum v => Sys2Proof.Machine.execDevnum v s
  | .portBringUp port => Sys2Proof.Machine.execPortBringUp port s
  | .portTakeDown port => Sys2Proof.Machine.execPortTakeDown port s
  | .portRetrain port => Sys2Proof.Machine.execPortRetrain port s
  | .portTest port => Sys2Proof.Machine.execPortTest port s
  | .portStageComplete port => Sys2Proof.Machine.execPortStageComplete port s
  | .stageTimeout port => Sys2Proof.Machine.execStageTimeout port s
  | .slip lane => Sys2Proof.Machine.execSlip lane s
  | .cdrLockLoss lanes => Sys2Proof.Machine.execCdrLockLoss lanes s
  | .linkFlit port message parity k => Sys2Proof.Machine.execLinkFlit port message parity k s
  | .replayTimeout port => Sys2Proof.Machine.execReplayTimeout port s
  | .capabilityRecord port r => Sys2Proof.Machine.execCapabilityRecord port r s
  | .readyTimeout port => Sys2Proof.Machine.execReadyTimeout port s
  | .laneErrorWindow lane errors => Sys2Proof.Machine.execLaneErrorWindow lane errors s
  | .transitPacket arrival dst age longway spent p => Sys2Proof.Machine.execTransitPacket arrival dst age longway spent p s
  | .uplinkRoute p => Sys2Proof.Machine.execUplinkRoute p s
  | .cvFeed u data nb last => Sys2Proof.Machine.execCvFeed u data nb last s
  | .cvClear u => Sys2Proof.Machine.execCvClear u s
  | .cvBlockDone u => Sys2Proof.Machine.execCvBlockDone u s
  | .cvCompare u => Sys2Proof.Machine.execCvCompare u s
  | .cvGo u v => Sys2Proof.Machine.execCvGo u v s
  | .cvRunDone u => Sys2Proof.Machine.execCvRunDone u s
  | .cvTwinChunk u twinValue => Sys2Proof.Machine.execCvTwinChunk u twinValue s
  | .tileMoveFault d v => Sys2Proof.Machine.execTileMoveFault d v s
  | .tileMoveRotate d v readback => Sys2Proof.Machine.execTileMoveRotate d v readback s
  | .tileMoved d => Sys2Proof.Machine.execTileMoved d s
  | .clusterSpared d v => Sys2Proof.Machine.execClusterSpared d v s
  | .sramScrub d target ecc => Sys2Proof.Machine.execSramScrub d target ecc s
  | .telemetrySample die tempMilli powerMilli amps stackTemps => Sys2Proof.Machine.execTelemetrySample die tempMilli powerMilli amps stackTemps s
  | .beat => Sys2Proof.Machine.execBeat s
  | .watchdogExpiry => Sys2Proof.Machine.execWatchdogExpiry s
  | .lockstepMismatch => Sys2Proof.Machine.execLockstepMismatch s
  | .routerFault d router => Sys2Proof.Machine.execRouterFault d router s
  | .dictRead via es => Sys2Proof.Machine.execDictRead via es s
  | .dictWrite via es => Sys2Proof.Machine.execDictWrite via es s
  | .describe via es => Sys2Proof.Machine.execDescribe via es s
  | .thaunoFragment src srcPort dg => Sys2Proof.Machine.execThaunoFragment src srcPort dg s
  | .sessionOpen src srcPort level x25519 kem nonce => Sys2Proof.Machine.execSessionOpen src srcPort level x25519 kem nonce s
  | .prove sess sigEd sigMl late => Sys2Proof.Machine.execProve sess sigEd sigMl late s
  | .sessionClose sess => Sys2Proof.Machine.execSessionClose sess s
  | .subscribe sess => Sys2Proof.Machine.execSubscribe sess s
  | .eventAck sess lsn => Sys2Proof.Machine.execEventAck sess lsn s
  | .eventResend sess => Sys2Proof.Machine.execEventResend sess s
  | .sessionTimeout sess => Sys2Proof.Machine.execSessionTimeout sess s
  | .reassemblyTimeout sess => Sys2Proof.Machine.execReassemblyTimeout sess s
  | .flashWriteDone => Sys2Proof.Machine.execFlashWriteDone s
  | .policyApply obj => Sys2Proof.Machine.execPolicyApply obj s
  | .mbGo ch v => Sys2Proof.Machine.execMbGo ch v s
  | .regionLoad => Sys2Proof.Machine.execRegionLoad s
  | .regionClear => Sys2Proof.Machine.execRegionClear s
  | .regionHalt => Sys2Proof.Machine.execRegionHalt s
  | .regionResume => Sys2Proof.Machine.execRegionResume s
  | .ownerKeyWrite mldsa key => Sys2Proof.Machine.execOwnerKeyWrite mldsa key s
  | .manifest host m => Sys2Proof.Machine.execManifest host m s
  | .updData host data => Sys2Proof.Machine.execUpdData host data s
  | .updCommit host => Sys2Proof.Machine.execUpdCommit host s
  | .updAbort host => Sys2Proof.Machine.execUpdAbort host s
  | .updReset => Sys2Proof.Machine.execUpdReset s
  | .nonce v => Sys2Proof.Machine.execNonce v s
  | .report => Sys2Proof.Machine.execReport s
  | .stbyGood => Sys2Proof.Machine.execStbyGood s
  | .pwrGoodRise gmode => Sys2Proof.Machine.execPwrGoodRise gmode s
  | .bootStage outcome => Sys2Proof.Machine.execBootStage outcome s
  | .fabricReady => Sys2Proof.Machine.execFabricReady s
  | .recoveryFetch twinServes m image => Sys2Proof.Machine.execRecoveryFetch twinServes m image s
  | .recoveryRetry => Sys2Proof.Machine.execRecoveryRetry s
  | .pwrGoodFall => Sys2Proof.Machine.execPwrGoodFall s
  | .rstN => Sys2Proof.Machine.execRstN s
  | .railFault die => Sys2Proof.Machine.execRailFault die s
  | .refclkLoss both => Sys2Proof.Machine.execRefclkLoss both s
  | .currentSample d amps overFor dieTemp stackTemp => Sys2Proof.Machine.execCurrentSample d amps overFor dieTemp stackTemp s
  | .temperatureLimit die temp => Sys2Proof.Machine.execTemperatureLimit die temp s
  | .powerCapUpdate pkgPower => Sys2Proof.Machine.execPowerCapUpdate pkgPower s
  | .msix entry => Sys2Proof.Machine.execMsix entry s
  | .pcieLinkDown => Sys2Proof.Machine.execPcieLinkDown s
  | .markerLock lane marker frames => Sys2Proof.Machine.execMarkerLock lane marker frames s
  | .cdrLock lane => Sys2Proof.Machine.execCdrLock lane s
  | .prbsLock lane errors => Sys2Proof.Machine.execPrbsLock lane errors s
  | .contextReuse peer => Sys2Proof.Machine.execContextReuse peer s
  | .clusterSpareDone d readback => Sys2Proof.Machine.execClusterSpareDone d readback s
  | .hbmRepairDone d spare bad => Sys2Proof.Machine.execHbmRepairDone d spare bad s
  | .neighborSolicitation target src => Sys2Proof.Machine.execNeighborSolicitation target src s
  | .pcieLinkUp speed width => Sys2Proof.Machine.execPcieLinkUp speed width s
  | .pcieRequest r => Sys2Proof.Machine.execPcieRequest r s
  | .stbyGoodFall => Sys2Proof.Machine.execStbyGoodFall s
  | .ucieLaneRepair d bridge module => Sys2Proof.Machine.execUcieLaneRepair d bridge module s
  | .controlCompareMismatch t => Sys2Proof.Machine.execControlCompareMismatch t s
  | .shaleCompareMismatch shale => Sys2Proof.Machine.execShaleCompareMismatch shale s

end Sys2Proof.Machine
end

