-- ==== Sys2Proof/Machine/Logic.lean ====
section
/-! DEFINITION. User logic: what the signals of a loaded design are, and what an edge of a regional tree does to it
(R235-R242, R248, R250, R254, R267, R268, R278, R279, R416). -/

namespace Sys2Proof.Machine
open Sys2Proof

/-! ### Fields of the configuration (R278) -/

/-- `n` bits from bit `b` of consecutive bytes of configuration memory that begin at byte `o`. -/
def cfgBits (x : Region) (o b n : Nat) : Nat :=
  (List.range n).foldl (fun v i => if (cfgByte x (o + (b + i) / 8)).getLsbD ((b + i) % 8) then v + 2 ^ i else v) 0
/-- Cluster select `i` of cluster c: input j of cell n is 9 n + j, region output k is 2,304 + k. -/
def clusterSel (x : Region) (c i : Nat) : Nat := cfgBits x (1024 * (5 + 8 * c)) (11 * i) 11
/-- The select of region consumer `k`, and of trunk in-port `p`. -/
def xbarSel (x : Region) (k : Nat) : Nat := cfgBits x (1024 * 1601 + 2 * k) 0 16
def trunkSel (x : Region) (p : Nat) : Nat := cfgBits x (1024 * 1729 + 2 * p) 0 16
/-- A register stands at the exit of out-port k, or (`entry`) at the entry of in-port k, and the tree of its group. -/
def trunkReg (x : Region) (entry : Bool) (k : Nat) : Bool := cfgBits x (if entry then 112 else 80) k 1 == 1
def trunkTree (x : Region) (entry : Bool) (k : Nat) : Nat := cfgBits x 144 (3 * ((if entry then 8 else 0) + k / 32)) 3
/-- The tree of a cell, and of the cell of a flip-flop. -/
def cellTree (x : Region) (c i : Nat) : Nat := (cellByte x c i 8).toNat / 32
def ffTree (x : Region) (k : Nat) : Nat := cellTree x (k / 512) (k % 512 / 2)
/-- Source word of a reset net: USED, TREE, OUT, CLUSTER, CELL. -/
def rstWord (x : Region) (n : Nat) : Word := BitVec.ofNat 64 (cfgBits x (64 + 4 * n) 0 32)

/-! ### Signals -/

/-- What launches a signal: a tree (8 × region + tree), the latest delay from its edge in steps of 5 ps, and when what it launches
changed last. -/
structure Launch5 where
  tree  : Nat
  delay : Nat
  moved : Nat
  deriving DecidableEq, Repr

/-- A signal: its level, none where the spec leaves it open, and what launches it. -/
structure Sig where
  val    : Option Bool
  launch : List Launch5 := []
  deriving DecidableEq, Repr

def Sig.const (b : Bool) : Sig := { val := some b }
/-- A signal of no stated level. -/
def Sig.open : Sig := { val := none }
/-- After a stage of `n` steps of 5 ps (R238). -/
def Sig.after (n : Nat) (x : Sig) : Sig := { x with launch := x.launch.map (fun l => { l with delay := l.delay + n }) }
/-- Launched by one tree. -/
def Sig.from (tree delay moved : Nat) (v : Option Bool) : Sig := { val := v, launch := [{ tree, delay, moved }] }

/-- R235: the table's output over inputs that may be open: known when every completion agrees. `w` is the weight of the next input. -/
def lutVal (t : Nat → Bool) : Nat → List (Option Bool) → Nat → Option Bool
  | _, [], i => some (t i)
  | w, some b :: r, i => lutVal t (2 * w) r (if b then i + w else i)
  | w, none :: r, i =>
    let a := lutVal t (2 * w) r i
    if a = lutVal t (2 * w) r (i + w) then a else none

/-- R236: CO = O6 ? CI : O5, and S = O6 XOR CI. -/
def carryOut (o6 ci o5 : Option Bool) : Option Bool :=
  match o6 with
  | some true => ci
  | some false => o5
  | none => if ci = o5 then ci else none
def carrySum (o6 ci : Option Bool) : Option Bool :=
  match o6, ci with
  | some a, some b => some (a != b)
  | _, _ => none

/-- A place in the fabric of a region: O6 and O5 of a cell, its carry input, its sum; output o of a cell; a cluster select by its
code; region consumer, region source; trunk out-port as its consumers see it. -/
inductive Node where
  | o6 (c i : Nat)
  | o5 (c i : Nat)
  | ci (c i : Nat)
  | sum (c i : Nat)
  | out (c i o : Nat)
  | code (c k : Nat)
  | cons (k : Nat)
  | src (k : Nat)
  | trunk (k : Nat)
  deriving DecidableEq, Repr

/-- Bit i of a number, as a level. -/
def lvl (n i : Nat) : Option Bool := some (n / 2 ^ i % 2 == 1)

/-- Source `j` of a block memory: DOUT A, DOUT B, ERR A, ERR B (R249-R253, R279), launched by the tree of the port's latest
access. -/
def bramSig (s : State) (r : RegionId) (m j : Nat) : Sig :=
  let x := getRegion s r
  let b := if j < 144 then j / 72 else j - 144
  let k := 2 * m + b
  let v := if j < 144 then lvl (mget 0 x.dout k).toNat (j % 72) else some (mget false x.derr k)
  match mget 0 x.dclk k with
  | 0 => { val := v }
  | c + 1 => .from (8 * regKey r + c / 2) (if c % 2 = 1 then 40 else 180) (nowNs s r.die) v

/-- Source `j` of a queue controller (R254, R279). The signals of an end that faces the network, WREADY of a disabled controller and
RDATA while EMPTY are open (log 25). -/
def qcSig (s : State) (d : Fin 4) (q : Fin 512) (j : Nat) : Sig :=
  let x := getQc s d q
  let k := 8 * regKey (qcRegion d q)
  let w (v : Option Bool) : Sig := .from (k + qcWtree s d q) 40 (nowNs s d) (if qcMode s d q = 1 then none else v)
  let r (v : Option Bool) : Sig := .from (k + qcRtree s d q) 40 (nowNs s d) (if qcMode s d q = 2 then none else v)
  let on := qcOn s d q
  if j = 0 then w (if on then some (flag s (qcCfg d q) 60 || qcWlevel s d q x != 4096) else none)
  else if j < 14 then w (lvl (qcWlevel s d q x) (j - 1))
  else if j = 14 then w (some x.qirq)
  else if j < 87 then r (if qcRlevel s d q x = 0 then none else x.entries.head?.bind (fun e => lvl e.toNat (j - 15)))
  else if j = 87 then r (some (on && qcRlevel s d q x != 0))
  else if j < 101 then r (lvl (qcRlevel s d q x) (j - 88))
  else r (some (on && qcRlevel s d q x != 0 && headBad x))

/-- Source `j` of a check-value unit (R416): VALUE, DONE, MATCH, MISMATCH; all 0 while EN is 0. Its clock-to-output delay is taken
as that of a queue controller (log 25). -/
def cvSig (s : State) (u : CvId) (j : Nat) : Sig :=
  if !cvEn s u then .const false
  else if 67 ≤ j then .const false
  else .from (8 * regKey (cvRegion u) + cvTree s u) 40 (nowNs s u.die)
    (if j < 64 then lvl (rd s (cvReg u 0x18)).toNat j else lvl (getCv s u).pulse (j - 64))

/-- The check-value unit i of a region (R232). -/
def regCv (r : RegionId) (i : Nat) : CvId :=
  ⟨⟨r.die.val, by omega⟩, ⟨(4 * r.n.val + i % 4) % 64, Nat.mod_lt _ (by decide)⟩⟩
/-- The queue controller i of a region. -/
def regQc (r : RegionId) (i : Nat) : Fin 512 := ⟨(32 * r.n.val + i % 32) % 512, Nat.mod_lt _ (by decide)⟩
/-- Pin i of a region with pins (R266). -/
def regPin (r : RegionId) (i : Nat) : Nat := 6 * (r.n.val - 12) + i
/-- A region of the same die. -/
def sameDie (r : RegionId) (n : Nat) : RegionId := ⟨r.die, ⟨n % 16, Nat.mod_lt _ (by decide)⟩⟩

/-- Source `k` of the region crossbar that is no cluster output and no trunk in-port (R279). -/
def hardSig (s : State) (r : RegionId) (k : Nat) : Sig :=
  if k < 35200 then bramSig s r ((k - 25856) / 146) ((k - 25856) % 146)
  else if k < 38464 then qcSig s r.die (regQc r ((k - 35200) / 102)) ((k - 35200) % 102)
  else if k < 39488 then { val := some (Config.endpointSignal (regKey r) (k - 38464) (nowNs s r.die)) }
  else if k < 40000 then cvSig s (regCv r ((k - 39488) / 128)) ((k - 39488) % 128)
  else if k < 40012 then
    let p := regPin r ((k - 40000) / 2)
    let x := getPin s r.die p
    .from (8 * regKey r + fld s (ioPinAt r.die p) 41 39) 16 (nowNs s r.die) (some (if k % 2 = 0 then x.q0 else x.q1))
  else .const (k == 65535)

/-- What reaches in-port p of a region, where `f` tells the signals (R237, R278). -/
def trunkIn (x : Region) (p : Nat) (r : RegionId) (f : RegionId → Node → Sig) : Sig :=
  if trunkSel x p = 0xFFFE then .const false else (f (sameDie r (trunkSel x p / 256)) (.trunk (trunkSel x p % 256))).after 180

/-- The signal at a place of a region, through at most `n` places: a loop of lookup tables has no level. The delays are those of
R238 and R239; the output of the last carry has no select code and goes nowhere. -/
def wire (s : State) : Nat → RegionId → Node → Sig
  | 0, _, _ => .open
  | n + 1, r, node =>
    let x := getRegion s r
    let now (k : Nat) : Nat := mget 0 x.movedAt k
    let input (c i j : Nat) : Sig := (wire s n r (.code c (clusterSel x c (9 * i + j)))).after 36
    match node with
    | .o6 c i =>
      let a := (List.range 6).map (input c i)
      ({ val := lutVal (fun k => cfgBits x (1024 * (1 + 8 * c + i / 64) + 16 * (i % 64)) k 1 == 1) 1 (a.map (·.val)) 0,
         launch := a.flatMap (·.launch) } : Sig).after 24
    | .o5 c i =>
      let a := (List.range 5).map (input c i)
      ({ val := lutVal (fun k => cfgBits x (1024 * (1 + 8 * c + i / 64) + 16 * (i % 64)) k 1 == 1) 1 (a.map (·.val)) 0,
         launch := a.flatMap (·.launch) } : Sig).after 24
    | .ci c i =>
      if i = 0 then
        match (cellByte x c 0 10).toNat % 4 with
        | 0 => input c 0 8
        | k => .const (k == 2)
      else
        let o6 := wire s n r (.o6 c (i - 1)); let o5 := wire s n r (.o5 c (i - 1)); let ci := wire s n r (.ci c (i - 1))
        ({ val := carryOut o6.val ci.val o5.val, launch := o6.launch ++ o5.launch ++ ci.launch } : Sig).after 3
    | .sum c i =>
      let o6 := wire s n r (.o6 c i); let ci := wire s n r (.ci c i)
      ({ val := carrySum o6.val ci.val, launch := o6.launch ++ ci.launch } : Sig).after 8
    | .out c i o =>
      if o = 0 then wire s n r (.o6 c i)
      else if o = 1 then wire s n r (if (cellByte x c i 8).getLsbD 4 then .sum c i else .o5 c i)
      else
        let k := 512 * c + 2 * i + (o - 2)
        .from (8 * regKey r + cellTree x c i) 16 (now k) (some (ffBit x k))
    | .code c k =>
      if k < 1024 then wire s n r (.out c (k / 4) (k % 4))
      else if k < 1152 then wire s n r (.cons (128 * c + (k - 1024)))
      else .const (k == 1153)
    | .cons k => (wire s n r (.src (xbarSel x k))).after 90
    | .src k =>
      if k < 25600 then wire s n r (.code (k / 128) (clusterSel x (k / 128) (2304 + k % 128)))
      else if k < 25856 then
        let p := k - 25600
        if trunkReg x true p then
          .from (8 * regKey r + trunkTree x true p) 16 (now (102400 + 256 + p)) (some (mget false x.trunkFf (256 + p)))
        else trunkIn x p r (wire s n)
      else hardSig s r k
    | .trunk k =>
      if !regionLive s r then .const false
      else if trunkReg x false k then
        .from (8 * regKey r + trunkTree x false k) 16 (now (102400 + k)) (some (mget false x.trunkFf k))
      else wire s n r (.cons (25600 + k))

/-- More places than any path without a loop passes on a die. -/
def wireFuel : Nat := 10000000
def sig (s : State) (r : RegionId) (node : Node) : Sig := wire s wireFuel r node

/-! ### Capture (R240-R242) -/

/-- R240: the longest path, in steps of 5 ps, that an edge of a tree leaves time for, times FB for a PLL. -/
def pathFits (s : State) (r : RegionId) (k path : Nat) : Bool :=
  let sel := treeSel s r k; let div := treeDiv s r k
  if sel < 4 then path * fld s (lrPllAt r.die sel) 61 56 ≤ 2000 * fld s (lrPllAt r.die sel) 55 48 * div
  else if sel = 4 then path ≤ 2000 * div
  else path ≤ 500 * div

/-- R241: a path between two trees is synchronous, with its skew: one tree, or trees of different regions with one source and
divisor. -/
def skewOf (s : State) (r : RegionId) (k other : Nat) : Option Nat :=
  let q := sameDie r (other / 8)
  if other = 8 * regKey r + k then some 6
  else if q ≠ r && treeSel s q (other % 8) == treeSel s r k && treeDiv s q (other % 8) == treeDiv s r k then some 20
  else none

/-- R240, R241: what launches a signal does not settle it by this edge of tree `k`, whose setup time is `setup`: it is on its way on a path
that is too long or asynchronous. -/
def late (s : State) (r : RegionId) (k setup : Nat) (l : Launch5) : Bool :=
  let onWay := nowNs s r.die ≤ l.moved + l.delay / 200 + 1
  match skewOf s r k l.tree with
  | some skew => !pathFits s r k (l.delay + setup + skew) && onWay
  | none => onWay || treeEdge s (sameDie r (l.tree / 8)) (l.tree % 8)

/-- The free value of one capture at the present count: by kind, place and region. -/
def looseAt (s : State) (r : RegionId) (kind k : Nat) : Bool := Config.loose s.freeCtr ((k * 64 + regKey r) * 8 + kind)

/-- What an edge of tree `k` captures of a signal; free where R240 and R241 leave it open, or while a configuration cell of the region
is at fault (R414). -/
def settle (s : State) (r : RegionId) (k setup : Nat) (free : Bool) (x : Sig) : Bool :=
  match x.val with
  | none => free
  | some v => if x.launch.any (late s r k setup) || !(getRegion s r).hardWords.isEmpty then free else v

/-- Region consumers `a` to `a + n - 1` as a number, captured by a hard block. -/
def captureN (s : State) (r : RegionId) (k a n : Nat) : Nat :=
  (List.range n).foldl (fun v i =>
    if settle s r k 20 (looseAt s r 3 (a + i)) (sig s r (.cons (a + i))) then v + 2 ^ i else v) 0

/-! ### Flip-flops (R235, R242, R248) -/

/-- A reset net of a flip-flop is asserted (R248, R278). -/
def ffReset (x : Region) (k : Nat) : Bool :=
  let b := cellByte x (k / 512) (k % 512 / 2) 9
  b.getLsbD (6 + k % 2) && mget 0 x.rstLeft (b.toNat / 4 ^ (k % 2) % 4) != 0

/-- R235: the flip-flop's D by its source code. -/
def ffData (s : State) (r : RegionId) (x : Region) (k : Nat) : Sig :=
  let c := k / 512; let i := k % 512 / 2
  match (cellByte x c i 8).toNat / 4 ^ (k % 2) % 4 with
  | 0 => sig s r (.o6 c i)
  | 1 => sig s r (.o5 c i)
  | 2 => sig s r (.sum c i)
  | _ => (sig s r (.code c (clusterSel x c (9 * i + 6)))).after 36

/-- R235: what a flip-flop holds after an edge of its tree. -/
def ffNext (s : State) (r : RegionId) (x : Region) (k : Nat) : Bool :=
  let c := k / 512; let i := k % 512 / 2; let t := ffTree x k
  if ffReset x k then ffInit x k
  else if mget 0 x.ceLeft t != 0 then ffBit x k
  else if settle s r t 10 (looseAt s r 0 k) ((sig s r (.code c (clusterSel x c (9 * i + 7)))).after 36) then
    settle s r t 10 (looseAt s r 1 k) (ffData s r x k)
  else ffBit x k

/-- The trunk registers of a region that an edge clocks: exits, then entries at 256 (R242). -/
def trunkNext (s : State) (r : RegionId) (x : Region) (k : Nat) : Bool :=
  if k < 256 then settle s r (trunkTree x false k) 10 (looseAt s r 2 k) (sig s r (.cons (25600 + k)))
  else
    let p := k - 256
    settle s r (trunkTree x true p) 10 (looseAt s r 2 k) (trunkIn x p r (sig s))

/-- The source of reset net n is 1 (R248, R278). -/
def netOn (s : State) (r : RegionId) (free : Nat) (n : Nat) : Bool :=
  let w := rstWord (getRegion s r) n
  let o := bits w 17 16
  bit w 31 && ((sig s r (.out (bits w 15 8) (bits w 7 0) (if o = 0 then (if Config.rstOut0 then 0 else 1) else o + 1))).val).getD
    (looseAt s r free n)

/-- One edge fewer to wait for (R248, R282). -/
def lessOne (m : SMap Nat) (k : Nat) : SMap Nat := mset 0 m k (mget 0 m k - 1)

/-- The edges of a region's trees in this nanosecond, on its flip-flops, trunk registers, reset nets, clock enables and
block-memory outputs. Every capture is of `s`. -/
def clockRegion (s : State) (r : RegionId) : Region :=
  let x := getRegion s r
  let e (k : Nat) : Bool := treeEdge s r k
  let now := nowNs s r.die
  let y := ((usedFfs x).filter (fun k => e (ffTree x k))).foldl (fun y k => setFf y now k (ffNext s r x k)) x
  let ports := (List.range 512).filter (fun k => trunkReg x (256 ≤ k) (k % 256) && e (trunkTree x (256 ≤ k) (k % 256)))
  let y := ports.foldl (fun y k =>
    let v := trunkNext s r x k
    if mget false x.trunkFf k = v then y
    else { y with trunkFf := mset false y.trunkFf k v, movedAt := mset 0 y.movedAt (102400 + k) now }) y
  let y := { y with rstLeft := ((List.range 4).filter (fun n => e (bits (rstWord x n) 20 18) && !netOn s r 4 n)).foldl lessOne y.rstLeft,
                    ceLeft := ((List.range 8).filter e).foldl lessOne y.ceLeft }
  ((List.range 128).filter (fun k => mget 0 x.dclk k != 0 && e ((mget 0 x.dclk k - 1) / 2))).foldl showLatched y

/-- R248: a reset net whose source is 1 is asserted: its flip-flops take their initial values at once. -/
def assertNets (s : State) (r : RegionId) : State :=
  let x := getRegion s r
  let y := { x with rstLeft := ((List.range 4).filter (netOn s r 5)).foldl (fun m n => mset 0 m n 3) x.rstLeft }
  setRegion s r ((usedFfs x).foldl (fun z k => if ffReset y k then setFf z (nowNs s r.die) k (ffInit x k) else z) y)

/-! ### Hard blocks (R254-R256, R262, R267, R268, R417) -/

/-- One queue controller of a region in one nanosecond: an edge of each fabric end with what user logic presents, and two edges of the
2.0 GHz clock at a network end (R256). What is presented is that of `s0`. -/
def qcTick (s0 : State) (r : RegionId) (s : State) (q : Fin 512) : State :=
  let d := r.die; let a := 38272 + 74 * (q.val % 32)
  let w := qcWtree s0 d q; let t := qcRtree s0 d q
  let s := if !qcWriteEnd s d q then putWrite s d q (wEdge (wEdge (getQc s d q)))
    else if treeEdge s0 r w then qcWriteEdge s d q (captureN s0 r w (a + 72) 1 == 1) (BitVec.ofNat 72 (captureN s0 r w a 72)) else s
  let s := if !qcReadEnd s d q then putQc s d q (rEdge (rEdge (getQc s d q)))
    else if treeEdge s0 r t then qcReadEdge s d q (captureN s0 r t (a + 73) 1 == 1) .good else s
  qcAsk (qcTryGrant s d q) d q

/-- What a check-value unit takes at an edge, its inputs from consumer `a` on: CLR, or DV with D, NB and LAST (R417). -/
def cvTake (s0 : State) (r : RegionId) (u : CvId) (a : Nat) (s : State) : State :=
  let t := cvTree s0 u
  let c := captureN s0 r t (a + 64) 6
  if c / 32 = 1 then cvClearEdge s u
  else if c % 2 = 1 then
    cvFeedEdge s u (BitVec.ofNat 64 (captureN s0 r t a 64)) ⟨c / 2 % 8, Nat.mod_lt _ (by decide)⟩ (c / 16 % 2 == 1)
  else s
/-- One check-value unit at an edge of its tree: what pulsed falls, then it takes its inputs (R417). -/
def cvTick (s0 : State) (r : RegionId) (s : State) (i : Nat) : State :=
  let u := regCv r i
  if cvLive s0 u && treeEdge s0 r (cvTree s0 u) then cvTake s0 r u (41664 + 128 * i) (setCv s u { getCv s u with pulse := 0 }) else s

/-- One pin of a region with pins (R267, R268). -/
def pinTick (s0 : State) (r : RegionId) (s : State) (i : Nat) : State :=
  let d := r.die; let p := regPin r i; let a := ioPinAt d p; let c := 42176 + 3 * i
  let o := fld s0 a 38 36; let t := fld s0 a 41 39; let ddr := flag s0 a 61
  let v (j : Nat) : Bool := settle s0 r o 10 (looseAt s0 r 3 (c + j)) (sig s0 r (.cons (c + j)))
  let x := pinOutEdge (getPin s d p) (treeEdge s0 r o) (treeFall s0 r o) ddr (v 0) (v 1) (v 2)
  setPin s d p (pinInEdge x (treeEdge s0 r t) (treeFall s0 r t) ddr (pinLevel s0 d p))

/-- The hard blocks of a live region in one nanosecond. -/
def blocksTick (s0 s : State) (r : RegionId) : State :=
  let s := ((regQcs r).filter (fun (q : Fin 512) => qcOn s0 r.die q)).foldl (qcTick s0 r) s
  let s := (List.range 4).foldl (cvTick s0 r) s
  if hasPins r then (List.range 6).foldl (pinTick s0 r) s else s

/-- The regions whose blocks are out of reset; only those released have trees that run. A load leaves its frames in a region, so it
is listed. -/
def liveRegions (s : State) : List RegionId :=
  (s.regions.map (fun e => (⟨⟨e.1 / 16 % 4, Nat.mod_lt _ (by decide)⟩, ⟨e.1 % 16, Nat.mod_lt _ (by decide)⟩⟩ : RegionId))).filter
    (regionLive s)

/-- One nanosecond of user logic: every edge captures what stood before it. -/
def logicTick (s : State) : State :=
  let rs := liveRegions s
  if rs.isEmpty then s else
  let s1 := rs.foldl (fun t r => setRegion t r (clockRegion s r)) s
  let s2 := rs.foldl (blocksTick s) s1
  let s3 := rs.foldl assertNets s2
  { s3 with freeCtr := s3.freeCtr + 1 }

end Sys2Proof.Machine
end

