-- ==== Sys2Proof/Machine/Warden.lean ====
section
/-! DEFINITION. What the wardens do of themselves while the firmware runs: row repairs, sparing or withdrawal for hard configuration faults, and
rotations (R427, R428, R432, log 101). -/

namespace Sys2Proof.Machine
open Sys2Proof

/-- R428: the row whose repair has been due longest on a die is soft-repaired. -/
def wardenRepair (s : State) (d : Nat) : State :=
  if fld s (hbmRepairAt d) 35 34 = 1 then s else
  match s.hbm.due.find? (fun k => k / 2 ^ 27 == d) with
  | none => s
  | some k =>
    let h := { s.hbm with due := s.hbm.due.erase k, rowCe := mset [] s.hbm.rowCe k [] }
    writeHbmRepair (setHbm s h) d (BitVec.ofNat 64 (2 ^ 63 + k % 2 ^ 27 * 2 ^ 36))

/-- R427: a hard word of a cluster is spared while a spare is left and the policy is 1; for any other, or with the policy 0, the region is
withdrawn with CLEAR. -/
def wardenHard (s : State) (r : RegionId) : State :=
  let x := getRegion s r
  let inCluster (w : Nat) : Bool := 1 ≤ w / 128 && w / 128 ≤ 1600
  if regState s r < 2 ∨ 4 < regState s r ∨ regBusy s r then s
  else if x.hardWords.any (fun w => !inCluster w || objN s 0x1040 2 == 0) then doClear s r
  else match x.hardWords with
    | [] => s
    | w :: _ =>
      if cspareState s r.die = 1 ∨ 2 ≤ x.spares.length then s
      else writeCspare s r.die (BitVec.ofNat 64 (2 ^ 63 + r.n.val * 2 ^ 59 + (w / 128 - 1) / 8 * 2 ^ 51))

/-- R432: a tile at a quiesce point whose active hours exceed those of a spare of its kind by ROTATE_H, as RL_TMOVE names the pair. -/
def rotation (s : State) (d : Fin 4) : Option Word :=
  let h := objN s 0x1040 3
  let kind (e : Nat) : Bool := 68 ≤ e
  (s.phys.filter (fun x => x.1 / 256 == d.val && x.2.status == 0 && h ≤ x.2.hours)).findSome? fun x =>
    let e := x.1 % 256
    let v0 := (if kind e then 2 ^ 61 else 0) + x.2.logical % 64 * 2 ^ 55
    match tmoveTile d (BitVec.ofNat 64 v0) with
    | none => none
    | some t =>
      if !quiesced s t then none
      else ((List.range (if kind e then 34 else 68)).find? (fun i =>
          let p := getPhys s d (if kind e then 68 + i else i)
          p.status == 1 && p.hours + h ≤ x.2.hours)).map (fun i => BitVec.ofNat 64 (3 * 2 ^ 62 + v0 + i * 2 ^ 48))
/-- R432: the wardens start a rotation on a die. -/
def wardenRotate (s : State) (d : Fin 4) : State :=
  if objN s 0x1040 3 = 0 ∨ tmoveState s d = 1 then s
  else match rotation s d with | some v => moveRotate s d v true | none => s

/-- The wardens act while the firmware runs. -/
def wardenTick (s : State) : State :=
  if !fwRuns s then s else
  let s := [0, 1, 2, 3].foldl wardenRepair s
  let s := ((allRegions.filter (fun r => !(getRegion s r).hardWords.isEmpty))).foldl wardenHard s
  (List.finRange 4).foldl wardenRotate s

/-- R439: each active tile of a die whose timestamp completes an hour has been active an hour longer. -/
def hourTick (s : State) : State :=
  (List.finRange 4).foldl (fun s (d : Fin 4) =>
    if nowNs s d % 3600000000000 ≠ 0 then s
    else (List.range 102).foldl (fun s e =>
      let p := getPhys s d e
      if p.status = 0 then setPhys s d e { p with hours := min (p.hours + 1) (2 ^ 32 - 1) } else s) s) s

end Sys2Proof.Machine
end

