-- ==== Sys2Proof/Machine/Tick.lean ====
section
/-! DEFINITION. What the passing of one nanosecond does (log 1). -/

namespace Sys2Proof.Machine
open Sys2Proof

/-- Advance one timestamp counter (R14). -/
def tickDie (s : State) (die : Nat) : State := { s with ts := mset 0 s.ts die (mget 0 s.ts die + 1) }

/-- R14, R290, R292: the nine timestamp counters count nanoseconds while their dies are powered and not stopped. -/
def tickTs (s : State) : State := if running s then (List.range 9).foldl tickDie s else s

/-- What goes on by itself while the clocks run: user logic at the edges of its trees (R235), the counters, active hours, the ports, the
heartbeat paths (R368), the wardens (R427, R428, R432), then the pieces of copies and of mailbox messages that waited (R351, R462). -/
def tickClocked (s : State) : State :=
  if running s then [0, 1].foldl mbPump (copyPump (wardenTick (pathTick (linkTick (hourTick (tickTs (logicTick s))))))) else s

/-- What a step does when no command waits: a nanosecond passes, then the event feeds send what they owe (R461). -/
def tick (s : State) : State := feedPump (tickClocked s)

end Sys2Proof.Machine
end

