-- ==== Sys2Proof/Safety.lean ====
section
/-! DEFINITION. What a legal state of the block is: canonical memories and tables, and the capacities that the spec
gives (R361, R434). -/

namespace Sys2Proof.Machine
open Sys2Proof

/-- A memory in canonical form: addresses rising, no byte listed that is 0, no granule listed that is not poisoned
(log 9). -/
def Memory.wf (m : Mem) : Bool := mwf (fun _ => (0 : Byte)) m.bytes && mwf (fun _ => false) m.poison

/-- A tile whose scratch window is in canonical form. -/
def Tile.wf (x : Tile) : Bool := Memory.wf x.mem

/-- What `Good` asks of the fields it looks at. -/
structure GoodFields (part : Part) (csr : SMap Word) (tiles : SMap Tile) (hbm : Mem) (log : List LogEntry)
    (ctxs : List PeerCtx) : Prop where
  /-- no register is listed at its reset value, and none twice. -/
  regs  : mwf (resetOf part) csr = true
  /-- no tile is listed as it is at reset, and none twice. -/
  table : mwf (fun _ => ({} : Tile)) tiles = true
  /-- every tile's scratch window is canonical. -/
  mems  : ∀ e ∈ tiles, Tile.wf e.2 = true
  /-- HBM is canonical. -/
  main  : Memory.wf hbm = true
  /-- R434: the log holds at most 4,096 entries. -/
  room  : log.length ≤ 4096
  /-- R361: at most 8,192 peer contexts are open. -/
  peers : ctxs.length ≤ 8192

/-- A legal state: canonical memories and tables, and no more log entries and peer contexts than there is room for. -/
def Good (s : State) : Prop := GoodFields s.part s.csr s.tiles s.hbm.mem s.log s.fabric.ctxs

end Sys2Proof.Machine
end

