-- ==== Sys2Proof/Certificates/Slice0/Obligations.lean ====
section
/-! DEFINITION. The statements for the provers. Each docstring says which rules of spec/ its statement formalises. Numbers
'log n' name rows of the assumption log. -/

namespace Sys2Proof.Machine
open Sys2Proof

/-! ### Vocabulary -/

/-- Only the tile t differs between s and u, and in u it is y. -/
def TileBecomes (s : State) (t : TileId) (y : Tile) (u : State) : Prop :=
  getTile u t = y ∧ (∀ v, v ≠ t → getTile u v = getTile s v) ∧ u = { s with tiles := u.tiles }

/-- The dies run, a kernel k runs on the tile t, and the word at its program counter is w and can be read (R160). -/
def NextWord (s : State) (t : TileId) (k : Kernel) (w : Word) : Prop :=
  running s = true ∧ (getTile s t).kernel = some k ∧ k.ending = none ∧ k.pc < k.len ∧ kWord (getTile s t) k k.pc = w ∧
    kWordBad (getTile s t) k = false

/-- The tile y with the kernel k moved to `pc`, with the flags `fl` raised. -/
def stepped (k : Kernel) (y : Tile) (fl pc : Nat) : Tile := { y with kernel := some { k with flags := k.flags ||| fl, pc := pc } }

/-- The command completes its instruction: the tile becomes y, with the kernel moved to `pc` and the flags `fl` raised;
nothing else changes. -/
def Retires (c : Instr) (s : State) (t : TileId) (k : Kernel) (y : Tile) (fl pc : Nat) : Prop :=
  ∃ u, exec c s = .next u ∧ TileBecomes s t (stepped k y fl pc) u

/-- The flags that the lanes on in a mask raise. -/
def laneFlags (m : BitVec 128) (r : Nat → Nat) : Nat := orAll ((List.range 128).map (fun i => if m.getLsbD i then r i else 0))

/-- The command completes a vector instruction: the lanes on in the word's mask take r, the register takes a kind and a
scale, the flags of those lanes are raised. -/
def FillsLanes (c : Instr) (s : State) (t : TileId) (k : Kernel) (w : Word) (kind : Nat) (scale : Int) (r : Nat → BitVec 64 × Nat) : Prop :=
  Retires c s t k (writeVec (getTile s t) (fVD w) (mreg (getTile s t) (fMask w)) (fun i => (r i).1) kind scale)
    (laneFlags (mreg (getTile s t) (fMask w)) (fun i => (r i).2)) (k.pc + 1)

/-- The same, for results that are I64 codes (none is NaR). -/
def FillsCodes (c : Instr) (s : State) (t : TileId) (k : Kernel) (w : Word) (scale : Int) (r : Nat → Option Int × Nat) : Prop :=
  FillsLanes c s t k w 1 scale (fun i => (codeLane (r i).1, (r i).2))

/-- The same, for results that are IEEE encodings of a format. -/
def FillsFloats (c : Instr) (s : State) (t : TileId) (k : Kernel) (w : Word) (f : Nat) (r : Nat → Nat × Nat) : Prop :=
  FillsLanes c s t k w (4 + f) 0 (fun i => (BitVec.ofNat 64 (r i).1, (r i).2))

/-- The program of a queue may issue, the whole instruction at its counter is ws, and no fetch of it waits; s' is the state in
which it has been read. -/
def NextInstr (s : State) (t : TileId) (q : Fin 2) (op : Nat) (l : Launch) (ws : List Word) (s' : State) : Prop :=
  running s = true ∧ getRun (getTile s t) q = some l ∧ canIssue l = true ∧ tpBusy s t l = false ∧ tpFetch s t q l = (s', some ws) ∧
    bits (ws.headD 0) 63 56 = op

/-- A stream runs in the context, and the word at its counter is w. -/
def NextStreamWord (s : State) (t : TileId) (c : Fin 16) (op : Nat) (st : Stream) (w : Word) : Prop :=
  running s = true ∧ getStream (getTile s t) c = some st ∧ isRunning st = true ∧ st.ended = false ∧
    st.prog[st.pc]? = some w ∧ bits w 63 56 = op

/-- A fabric request is served at this device as home, as a new request, in the state s1 in which its operation runs. -/
def Serves (s : State) (p : Packet) (s1 : State) : Prop :=
  running s = true ∧ homeVerdict s p = .serve false ∧ portBusy s p = false ∧
    ∃ s0, incCheck (takeFabric s p) p = some s0 ∧ findRec s0 (keyOf p) = none ∧ inProgress s0 p = false ∧
      admitPeer s0 p = some s1 ∧ recRoom s1 = true

/-- q is the integer nearest to x / 2^k, and even where two are nearest. -/
def NearestEven (x : Int) (k : Nat) (q : Int) : Prop :=
  -(2 ^ k : Int) ≤ 2 * (q * 2 ^ k - x) ∧ 2 * (q * 2 ^ k - x) ≤ 2 ^ k ∧
  (2 * (q * 2 ^ k - x) = 2 ^ k ∨ 2 * (q * 2 ^ k - x) = -(2 ^ k : Int) → q % 2 = 0)

/-- The exact integer of the product of two finite operands, in units of 2^-2148; 0 for every other product. -/
def laProduct : Src × Src → BitVec 4352
  | (.fin m1 e1 _, .fin m2 e2 _) => BitVec.ofInt 4352 (m1 * m2 * 2 ^ (e1 + e2 + 2148).toNat)
  | _ => 0

/-- The commands of the kernel instructions with their opcodes (R142). -/
def kernelOps (t : TileId) (f : Bool) : List (Nat × Instr) :=
  [(0x00, .kernelEnd t f), (0x01, .sli ⟨t, f⟩), (0x02, .saddi ⟨t, f⟩), (0x03, .bnzd ⟨t, f⟩), (0x04, .br ⟨t, f⟩), (0x05, .sld ⟨t, f⟩), (0x06, .sst ⟨t, f⟩),
   (0x10, .vld ⟨t, f⟩), (0x11, .vst t f), (0x12, .vcvt t f), (0x13, .vscl ⟨t, f⟩), (0x14, .vtag ⟨t, f⟩), (0x15, .viota ⟨t, f⟩)] ++
  [(0x20, .vadd ⟨t, f⟩), (0x21, .vsub ⟨t, f⟩), (0x22, .vmul ⟨t, f⟩), (0x23, .vneg ⟨t, f⟩), (0x24, .vabs ⟨t, f⟩), (0x25, .vcmp ⟨t, f⟩), (0x26, .vsel ⟨t, f⟩),
   (0x27, .vrot ⟨t, f⟩), (0x28, .vand ⟨t, f⟩), (0x29, .vor ⟨t, f⟩), (0x2A, .vxor ⟨t, f⟩), (0x2B, .vshl ⟨t, f⟩), (0x2C, .vshr ⟨t, f⟩), (0x2D, .mlog ⟨t, f⟩)] ++
  [(0x30, .vmin ⟨t, f⟩), (0x31, .vmax ⟨t, f⟩), (0x32, .vrmin ⟨t, f⟩), (0x33, .vrmax ⟨t, f⟩), (0x40, .vpoly ⟨t, f⟩), (0x50, .vcrc ⟨t, f⟩), (0x51, .vmsum ⟨t, f⟩)] ++
  [(0x60, .fadd ⟨t, f⟩), (0x61, .fsub ⟨t, f⟩), (0x62, .fmul ⟨t, f⟩), (0x63, .ffma ⟨t, f⟩), (0x64, .fdiv ⟨t, f⟩), (0x65, .fsqrt ⟨t, f⟩), (0x66, .fcvt ⟨t, f⟩),
   (0x67, .fcmp ⟨t, f⟩), (0x68, .fmin ⟨t, f⟩), (0x69, .fmax ⟨t, f⟩), (0x6A, .fminnum ⟨t, f⟩), (0x6B, .fmaxnum ⟨t, f⟩)] ++
  [(0x70, .lclr ⟨t, f⟩), (0x71, .ldot t f), (0x72, .lsum t f), (0x73, .lssq t f), (0x74, .lsabs t f), (0x75, .lrnd ⟨t, f⟩), (0x76, .lsave ⟨t, f⟩),
   (0x77, .ladd t f)]

end Sys2Proof.Machine

open Sys2Proof Sys2Proof.Machine

/-! ### The machine as a whole -/

/-- A step takes the command at the front of the queue and answers what it does on the state with the queue's rest. -/
def Obligations.StepRunsFront : Prop :=
  ∀ (s : State) (c : Instr) (rest : List Instr), s.pending = c :: rest → step s = exec c { s with pending := rest }

/-- On an empty queue a nanosecond passes (the model's choice, log 1): while the dies run, user logic meets its edges, the nine
timestamp counters advance by one, and the ports, the wardens, the copies and the mailbox go on in the order named; then the event
feeds send what they owe. A stopped device's counters, registers, tiles and HBM do not change. Rules: R14, R290, R292. -/
def Obligations.IdleStepTicks : Prop :=
  (∀ (s : State), s.pending = [] → ∃ u, step s = .next u ∧ u.pending = [] ∧ u.part = s.part ∧
    (running s = false → u.ts = s.ts ∧ u.csr = s.csr ∧ u.tiles = s.tiles ∧ u.hbm = s.hbm ∧ u.noc = s.noc ∧ u.regions = s.regions) ∧
    (running s = true →
      u = feedPump ([0, 1].foldl mbPump (copyPump (wardenTick (pathTick (linkTick (hourTick (tickTs (logicTick s)))))))))) ∧
  (∀ (s : State), running s = true →
    (∀ d, d < 9 → mget 0 (tickTs s).ts d = mget 0 s.ts d + 1) ∧ (∀ d, 9 ≤ d → mget 0 (tickTs s).ts d = mget 0 s.ts d) ∧
    tickTs s = { s with ts := (tickTs s).ts })

/-- The state after reset is legal, and the values that the spec gives hold in it. Rules: R112, R133, R158, R222, R272, R315, R433. -/
def Obligations.ResetState : Prop :=
  Good State.reset ∧ State.reset.pending = [] ∧ State.reset.out = [] ∧ State.reset.log = [] ∧
  (∀ t : TileId, (getTile State.reset t).passes = [] ∧ (getTile State.reset t).kernel = none ∧
    (isV t = true → ∀ a, 0x100000 ≤ a → memByte (getTile State.reset t).mem a = 0)) ∧
  (∀ (t : TileId) (k : Fin 64), fld State.reset (ctrAt t k) 31 0 = 0) ∧
  (∀ (t : TileId) (n : Fin 8), getLa (getTile State.reset t) n = {}) ∧
  (∀ (d : Fin 4) (q : Fin 512), qcOn State.reset d q = false) ∧
  (∀ d : Fin 4, fld State.reset (csrAt d 0x600000) 53 44 = 16)

/-- Every step keeps a legal state legal: canonical memories and tables, and the capacities of R361 and R434. -/
def Obligations.StepKeepsGood : Prop :=
  ∀ (s t : State), Good s → step s = .next t → Good t

/-- No command changes the part that the device is, or the queue of the commands that wait. Rules: R3. -/
def Obligations.CommandsKeepQueue : Prop :=
  ∀ (c : Instr) (s t : State), exec c s = .next t → t.part = s.part ∧ t.pending = s.pending

/-- While the device is stopped (frozen, without PWR_GOOD, or held in reset), the commands of its clocked parts leave it as
it is (R290). -/
def Obligations.StoppedDeviceUnchanged : Prop :=
  ∀ (s : State), running s = false → ∀ c : Instr,
    ((∃ t f, c = .sli ⟨t, f⟩ ∨ c = .sld ⟨t, f⟩ ∨ c = .sst ⟨t, f⟩ ∨ c = .vld ⟨t, f⟩ ∨ c = .vadd ⟨t, f⟩ ∨ c = .vcmp ⟨t, f⟩ ∨ c = .fadd ⟨t, f⟩ ∨ c = .lrnd ⟨t, f⟩ ∨
        c = .kernelEnd t f) ∨
      (∃ t, c = .kernelMemoryApply t ∨ c = .passStart t ∨ c = .streamRequestIssue t ∨ c = .preempt t) ∨
      (∃ t f, c = .passCycle t f) ∨
      (∃ t q, c = .pass t q ∨ c = .kernelLaunch t q ∨ c = .wait t q ∨ c = .signal t q ∨ c = .sstart t q ∨ c = .tpEnd t q) ∨
      (∃ t n, c = .move t n ∨ c = .flush t n ∨ c = .streamEnd t n) ∨
      (∃ p, c = .read p ∨ c = .write p ∨ c = .push p ∨ c = .reserve p ∨ c = .csrWrite p ∨ c = .hbmAccept p ∨ c = .fread p ∨ c = .fwrite p) ∨
      (∃ p r, c = .mirrorWr p r) ∨
      (∃ d r p, c = .routerHop d r p) ∨ (∃ d ch pc, c = .hbmAdmit d ch pc) ∨ (∃ d ch pc e, c = .hbmCommandSlot d ch pc e) ∨
      (∃ d q v e, c = .qcWrite d q v e) ∨ (∃ d q e, c = .qcRead d q e) ∨ (∃ r, c = .cfgBegin r ∨ c = .cfgCommit r ∨ c = .cfgRelease r) ∨
      (∃ r m b a e, c = .bramAccess r m b a e) ∨
      (∃ p, c = .portStageComplete p ∨ c = .replayTimeout p) ∨ (∃ p m y k, c = .linkFlit p m y k) ∨
      (∃ u, c = .cvClear u) ∨ c = .heartbeatSend ∨ c = .tokenGain) →
    exec c s = .next s

/-- A store into a tile's window and into HBM reads back byte by byte and leaves every other byte as it was; a register
field that is written reads back and leaves the other fields and registers as they were. Rules: R12, R25, R317, R336. -/
def Obligations.StorageReadsBack : Prop :=
  (∀ (x : Tile) (a : Nat) (d : List Byte) (pg : Nat → Bool),
    (∀ i, i < d.length → memByte (tWrite x a d pg).mem (a + i) = d.getD i 0) ∧
    (∀ b, b < a ∨ a + d.length ≤ b → memByte (tWrite x a d pg).mem b = memByte x.mem b) ∧
    memBytes (tWrite x a d pg).mem a d.length = d) ∧
  (∀ (s : State) (a : Nat) (d : List Byte) (pg : Nat → Bool), a + d.length ≤ carveEnd s.part →
    (∀ i, i < d.length → hbmByte (hbmWrite s a d pg) (a + i) = d.getD i 0) ∧
    (∀ b, b < carveEnd s.part → b < a ∨ a + d.length ≤ b → hbmByte (hbmWrite s a d pg) b = hbmByte s b)) ∧
  (∀ (s : State) (a hi lo v : Nat), lo ≤ hi → hi < 64 →
    fld (setFld s a hi lo v) a hi lo = v % 2 ^ (hi + 1 - lo) ∧
    (∀ h l, h < lo ∨ hi < l → fld (setFld s a hi lo v) a h l = fld s a h l) ∧
    (∀ b, b ≠ a → rd (setFld s a hi lo v) b = rd s b))

/-- A vector write gives the lanes that are on in its mask their results and the register its KIND and SCALE, and leaves
the other lanes, registers and kinds; s0 reads 0 and m0 reads all ones whatever is written to them. Rules: R129, R142. -/
def Obligations.VectorWritesFillMask : Prop :=
  ∀ (x : Tile) (v : Nat) (m : BitVec 128) (f : Nat → BitVec 64) (kind : Nat) (scale : Int),
    let y := writeVec x v m f kind scale
    (∀ i, i < 128 → lane y v i = if m.getLsbD i then f i else lane x v i) ∧
    (∀ u i, i < 128 → u ≠ v → lane y u i = lane x u i) ∧
    vtag y v = { kind, scale } ∧ (∀ u, u ≠ v → vtag y u = vtag x u) ∧
    (∀ i, sreg y i = sreg x i ∧ mreg y i = mreg x i ∧ getLa y i = getLa x i) ∧ y.mem = x.mem ∧
    (∀ w, sreg (setSreg x 0 w) 0 = 0 ∧ setSreg x 0 w = x ∧ mreg (setMreg x 0 m) 0 = BitVec.allOnes 128) ∧
    (∀ i w, i ≠ 0 → sreg (setSreg x i w) i = w ∧ ∀ j, j ≠ i → sreg (setSreg x i w) j = sreg x j)

/-! ### Number formats and arithmetic -/

/-- Elements of block formats: a scale code of the NaR block makes every element NaR; else an element is NaR exactly when
its code is the NaR code (for QP16, when hi is), and every other code is finite at the scale that the block holds. Rules: R41, R42, R46, R47. -/
def Obligations.BlockElementsDecode : Prop :=
  ∀ (m : ByteAt) (f base sbase : Nat) (ctx : Int) (i : Nat),
    (f ≤ 2 →
      let code := codeAt m f base i
      let sc := sextN 8 (m (sbase + i / 32)).toNat
      (m (sbase + i / 32) = 0x80 → srcAt m f base sbase ctx i = .nar) ∧
      (m (sbase + i / 32) ≠ 0x80 → -127 ≤ sc ∧ sc ≤ 127 ∧
        (code = narCode f → srcAt m f base sbase ctx i = .nar) ∧
        (code ≠ narCode f → srcAt m f base sbase ctx i = .fin code sc false) ∧
        (code = 0 → srcAt m f base sbase ctx i = .fin 0 sc false))) ∧
    (let hi := codeAt m 4 base i
     let lo := loAt m base i
     let sc := sextN 16 (numAt m (sbase + 2 * (i / 32)) 2)
     (numAt m (sbase + 2 * (i / 32)) 2 = 0x8000 → srcAt m 4 base sbase ctx i = .nar) ∧
     (numAt m (sbase + 2 * (i / 32)) 2 ≠ 0x8000 → -32767 ≤ sc ∧ sc ≤ 32767 ∧
       (numAt m (base + 16 * i) 8 = 0x8000000000000000 → srcAt m 4 base sbase ctx i = .nar) ∧
       (numAt m (base + 16 * i) 8 ≠ 0x8000000000000000 →
         srcAt m 4 base sbase ctx i = .fin (hi * 2 ^ 63 + lo) (sc - 63) false))) ∧
    (∀ strict sc, putElem 4 strict sc .nar = (-(2 ^ 63), 0, fNar))

/-- Into A48 a finite value m × 2^e becomes the nearest code at the context scale, ties to even, saturated with OVF; INX
tells that a nonzero part was discarded. Rules: R63. -/
def Obligations.ConversionIntoA48 : Prop :=
  ∀ (m e scale : Int), ∃ q : Int,
    (scale ≤ e → q = m * 2 ^ (e - scale).toNat) ∧ (e < scale → NearestEven m (scale - e).toNat q) ∧
    (2 ^ 47 - 1 < q → (toA48 m e scale).1 = 2 ^ 47 - 1) ∧ (q < -(2 ^ 47 - 1) → (toA48 m e scale).1 = -(2 ^ 47 - 1)) ∧
    (-(2 ^ 47 - 1) ≤ q → q ≤ 2 ^ 47 - 1 → (toA48 m e scale).1 = q) ∧
    ((toA48 m e scale).2 &&& fOvf ≠ 0 ↔ 2 ^ 47 - 1 < q ∨ q < -(2 ^ 47 - 1)) ∧
    ((toA48 m e scale).2 &&& fInx ≠ 0 ↔ e < scale ∧ m % 2 ^ (scale - e).toNat ≠ 0)

/-- The digits that enter the array: the eight digits of a QP16 significand, and the two of a Q16 code. Rules: R83. -/
def Obligations.DigitsAreExact : Prop :=
  (∀ m : Int, -(2 ^ 63) ≤ m → m ≤ 2 ^ 63 →
    ∃ r : Nat → Int, r 0 = m ∧
      (∀ i, i < 7 → qpDigits m i = sextN 8 (codeN 8 (r i)) ∧ r i - qpDigits m i = 256 * r (i + 1) ∧
        -128 ≤ qpDigits m i ∧ qpDigits m i ≤ 127) ∧
      qpDigits m 7 = r 7 ∧ -128 ≤ qpDigits m 7 ∧ qpDigits m 7 ≤ 128 ∧
      m = ((List.range 8).map (fun i => qpDigits m i * 2 ^ (8 * i))).sum) ∧
  (∀ c : Int, -32768 ≤ c → c ≤ 32767 →
    q16Digit c 0 = sextN 8 (codeN 8 c) ∧ -128 ≤ q16Digit c 0 ∧ q16Digit c 0 ≤ 127 ∧
    -128 ≤ q16Digit c 1 ∧ q16Digit c 1 ≤ 128 ∧ c = q16Digit c 1 * 256 + q16Digit c 0)

/-- One term and one column of a native pass: the product is aligned to the context scale exactly or by conv_round, and
saturated with OVF; the terms and init are added exactly and the sum is saturated once; one NaR makes it NaR, and every flag
of a term stands; the order of the terms does not matter. Rules: R72, R73, R74. -/
def Obligations.NativePassArithmetic : Prop :=
  (∀ (i : PassInstr) (ctx : Int) (w a : Elem), i.mode ≠ 4 →
    let p := w.c * a.c
    let sh := w.e + a.e + (if 3 ≤ i.mode then 8 * ((sliceW i + sliceX i : Nat) : Int) else 0) - ctx
    (w.nar = true ∨ a.nar = true → term i ctx w a = (none, fNar)) ∧
    (w.nar = false → a.nar = false →
      (p = 0 → term i ctx w a = (some 0, 0)) ∧
      (p ≠ 0 → 0 ≤ sh →
        (2 ^ 47 - 1 < p * 2 ^ sh.toNat → term i ctx w a = (some (2 ^ 47 - 1), fOvf)) ∧
        (p * 2 ^ sh.toNat < -(2 ^ 47 - 1) → term i ctx w a = (some (-(2 ^ 47 - 1)), fOvf)) ∧
        (-(2 ^ 47 - 1) ≤ p * 2 ^ sh.toNat → p * 2 ^ sh.toNat ≤ 2 ^ 47 - 1 → term i ctx w a = (some (p * 2 ^ sh.toNat), 0))) ∧
      (p ≠ 0 → sh < 0 → ∃ q, NearestEven p (-sh).toNat q ∧
        term i ctx w a = (some q, if p % 2 ^ (-sh).toNat ≠ 0 then fInx else 0)))) ∧
  (∀ (init : Option Int) (ts : List (Option Int × Nat)),
    let r := column init (sumTerms ts)
    ((init = none ∨ ∃ t ∈ ts, t.1 = none) → r.1 = none) ∧
    (∀ (i : Int) (vs : List Int), init = some i → ts.map (·.1) = vs.map some →
      (r.1 = some (max (-(2 ^ 47 - 1)) (min (2 ^ 47 - 1) (i + vs.sum)))) ∧
      ((2 ^ 47 - 1 < i + vs.sum ∨ i + vs.sum < -(2 ^ 47 - 1)) → r.2 &&& fOvf = fOvf) ∧
      (-(2 ^ 47 - 1) ≤ i + vs.sum → i + vs.sum ≤ 2 ^ 47 - 1 → r.2 = (sumTerms ts).2)) ∧
    (∀ t ∈ ts, r.2 &&& t.2 = t.2) ∧
    (∀ us : List (Option Int × Nat), us.Perm ts → column init (sumTerms us) = r))

/-- Insertions into a long accumulator add the exact products of their finite operands, count themselves, and give the same
accumulator in whatever order they are made. Rules: R88, R89, R90, R91. -/
def Obligations.LongAccumulatorOrder : Prop :=
  ∀ (l : LongAcc) (ps : List (Src × Src)),
    (laInserts l ps).1.val = l.val + (ps.map laProduct).foldl (· + ·) 0 ∧
    (laInserts l ps).1.count = l.count + BitVec.ofNat 64 ps.length ∧
    (∀ qs : List (Src × Src), qs.Perm ps → laInserts l qs = laInserts l ps)

/-! ### The map and the poison of HBM -/

/-- The hashed map: each hashed bit is the XOR of its own bit and the bits that its selectors name; row and column do not
change; and two addresses at one place are one address. Rules: R321. -/
def Obligations.HbmMapOneToOne : Prop :=
  ∀ (s : State) (a : Nat),
    let l := hbmL s a
    let sel := fun i t => fld s (hbmAt 0 (8 + 8 * (i / 2))) (if i % 2 = 0 then 27 else 55) (if i % 2 = 0 then 0 else 28) / 16 ^ t % 16
    (∀ i, i < 6 → (hashBit s l i = 1 ↔
      ((decide (l / 2 ^ (10 + i) % 2 = 1)) ^^ ((List.range 7).map (fun t => decide (sel i t ≠ 0 ∧ l / 2 ^ (15 + sel i t) % 2 = 1))).foldl xor false) = true)) ∧
    hbmPc s a = hashBit s l 0 ∧ (∀ i, i < 5 → hbmBank s a / 2 ^ i % 2 = hashBit s l (i + 1)) ∧ hbmBank s a < 32 ∧
    hbmKey s a % 2 ^ 10 = l % 2 ^ 10 ∧ hbmRow s a = l / 2 ^ 16 ∧
    (∀ b, a < carveEnd s.part → b < carveEnd s.part → hbmKey s a = hbmKey s b → a = b)

/-- Poison of HBM granules: a write that carries POISON for a granule poisons it; a clean write of all its bytes clears it;
another leaves it poisoned, or poisons it when it merges with an uncorrectable burst. Rules: R326, R328, R335, R336. -/
def Obligations.PoisonGranules : Prop :=
  ∀ (s : State) (a : Nat) (d : List Byte) (pg : Nat → Bool) (g : Nat), a + d.length ≤ carveEnd s.part → 64 * g < carveEnd s.part → d ≠ [] →
    let poisoned := fun (u : State) => granPoison u.hbm.mem (hbmKey s (64 * g) / 64)
    let touched := a < 64 * g + 64 ∧ 64 * g < a + d.length
    let u := hbmWrite s a d pg
    (touched → pg g = true → poisoned u = true) ∧
    (a ≤ 64 * g → 64 * g + 64 ≤ a + d.length → pg g = false → poisoned u = false) ∧
    (touched → a > 64 * g ∨ a + d.length < 64 * g + 64 → poisoned s = true → poisoned u = true) ∧
    (∀ b, (b = 64 * g ∨ b = 64 * g + 32) → b < a + d.length → a < b + 32 → ¬(a ≤ b ∧ b + 32 ≤ a + d.length) →
      burstEcc s (hbmKey s b) = .uncorrectable → poisoned u = true) ∧
    (a + d.length ≤ 64 * g ∨ 64 * g + 64 ≤ a → poisoned u = poisoned s)

/-! ### Kernels -/

/-- SLI, SADDI, BNZD, BR, SLD and SST retire with the register, the bytes and the target that R142 gives. -/
def Obligations.ScalarInstructionsRetire : Prop :=
  (∀ (s : State) (t : TileId) (k : Kernel) (w : Word), NextWord s t k w →
      let x := getTile s t
      (bits w 63 56 = 0x01 → k.pc + 1 < k.len →
        Retires (.sli ⟨t, false⟩) s t k (setSreg x (fSD w) ((w.extractLsb' 0 48).signExtend 64)) 0 (k.pc + 1)) ∧
      (bits w 63 56 = 0x02 → k.pc + 1 < k.len →
        Retires (.saddi ⟨t, false⟩) s t k (setSreg x (fSD w) (sreg x (fSS w) + (w.extractLsb' 0 48).signExtend 64)) 0 (k.pc + 1)) ∧
      (bits w 63 56 = 0x03 → sreg x (fSD w) ≠ 1 → bits w 12 0 < k.len →
        Retires (.bnzd ⟨t, false⟩) s t k (setSreg x (fSD w) (sreg x (fSD w) - 1)) 0 (bits w 12 0)) ∧
      (bits w 63 56 = 0x03 → sreg x (fSD w) = 1 → k.pc + 1 < k.len →
        Retires (.bnzd ⟨t, false⟩) s t k (setSreg x (fSD w) 0) 0 (k.pc + 1)) ∧
      (bits w 63 56 = 0x04 → bits w 12 0 < k.len → Retires (.br ⟨t, false⟩) s t k x 0 (bits w 12 0))) ∧
  (∀ (s : State) (t : TileId) (k : Kernel) (w : Word), NextWord s t k w → k.pc + 1 < k.len →
      let x := getTile s t
      let a := codeN 64 ((sNat x (fSS w) : Int) + fImm48 w)
      (bits w 63 56 = 0x05 → readStop x a 8 = 0 →
        Retires (.sld ⟨t, false⟩) s t k (setSreg x (fSD w) (BitVec.ofNat 64 (leNat (memBytes x.mem a 8)))) 0 (k.pc + 1)) ∧
      (bits w 63 56 = 0x06 → writeStop k a 8 = 0 →
        Retires (.sst ⟨t, false⟩) s t k (tWrite x a (leBytes 8 (sreg x (fSD w)).toNat) (fun _ => false)) 0 (k.pc + 1)))

/-- The instructions that move lanes or combine their bits retire with the lanes, the KIND and the SCALE of R142. -/
def Obligations.LaneMovesRetire : Prop :=
  ∀ (s : State) (t : TileId) (k : Kernel) (w : Word), NextWord s t k w → k.pc + 1 < k.len →
    let x := getTile s t
    let a := fun i => lane x (fVS w) i
    let b := fun i => lane x (fVT w) i
    (bits w 63 56 = 0x14 → FillsLanes (.vtag ⟨t, false⟩) s t k w (bits w 2 0) ((w.extractLsb' 16 16).toInt) (fun i => (a i, 0))) ∧
    (bits w 63 56 = 0x15 → FillsLanes (.viota ⟨t, false⟩) s t k w 0 0 (fun i => (sreg x (fVT w % 16) + BitVec.ofNat 64 i, 0))) ∧
    (bits w 63 56 = 0x27 →
      FillsLanes (.vrot ⟨t, false⟩) s t k w (vtag x (fVS w)).kind (vtag x (fVS w)).scale (fun i => (a ((i + bits w 6 0) % 128), 0))) ∧
    (bits w 63 56 = 0x28 → FillsLanes (.vand ⟨t, false⟩) s t k w 0 0 (fun i => (a i &&& b i, 0))) ∧
    (bits w 63 56 = 0x29 → FillsLanes (.vor ⟨t, false⟩) s t k w 0 0 (fun i => (a i ||| b i, 0))) ∧
    (bits w 63 56 = 0x2A → FillsLanes (.vxor ⟨t, false⟩) s t k w 0 0 (fun i => (a i ^^^ b i, 0))) ∧
    (bits w 63 56 = 0x2B → FillsLanes (.vshl ⟨t, false⟩) s t k w 0 0 (fun i => (a i <<< bits w 5 0, 0))) ∧
    (bits w 63 56 = 0x2C → FillsLanes (.vshr ⟨t, false⟩) s t k w 0 0 (fun i => ((a i).sshiftRight (bits w 5 0), 0))) ∧
    (bits w 63 56 = 0x26 →
      let g := if vtag x (fVS w) = vtag x (fVT w) then vtag x (fVS w) else {}
      Retires (.vsel ⟨t, false⟩) s t k
        (writeVec x (fVD w) (BitVec.allOnes 128) (fun i => if (mreg x (fMask w)).getLsbD i then a i else b i) g.kind g.scale)
        0 (k.pc + 1))

/-- VADD, VSUB, VMUL, VNEG, VABS, VMIN, VMAX and VSCL on I64 registers fill the lanes of their mask. Rules: R131, R142, R147, R148. -/
def Obligations.IntegerLanesRetire : Prop :=
  ∀ (s : State) (t : TileId) (k : Kernel) (w : Word), NextWord s t k w → k.pc + 1 < k.len →
    let x := getTile s t
    let ga := vtag x (fVS w)
    let gb := vtag x (fVT w)
    let sc := min ga.scale gb.scale
    let a := fun i => codeAtScale x (fVS w) i sc
    let b := fun i => codeAtScale x (fVT w) i sc
    (ga.kind = 1 → gb.kind = 1 →
      (bits w 63 56 = 0x20 → FillsCodes (.vadd ⟨t, false⟩) s t k w sc (fun i => satOp (a i) (b i) (fun p q => p + q))) ∧
      (bits w 63 56 = 0x21 → FillsCodes (.vsub ⟨t, false⟩) s t k w sc (fun i => satOp (a i) (b i) (fun p q => p - q))) ∧
      (bits w 63 56 = 0x30 → FillsCodes (.vmin ⟨t, false⟩) s t k w sc (fun i => minMaxOp (a i) (b i) false)) ∧
      (bits w 63 56 = 0x31 → FillsCodes (.vmax ⟨t, false⟩) s t k w sc (fun i => minMaxOp (a i) (b i) true)) ∧
      (bits w 63 56 = 0x22 → -32767 ≤ ga.scale + gb.scale + bits w 5 0 → ga.scale + gb.scale + bits w 5 0 ≤ 32767 →
        FillsCodes (.vmul ⟨t, false⟩) s t k w (ga.scale + gb.scale + bits w 5 0) (fun i =>
          match laneCode x (fVS w) i, laneCode x (fVT w) i with
          | some p, some q =>
            (some (clip i64Max (convRound (p * q) (bits w 5 0)).1).1,
              fl (convRound (p * q) (bits w 5 0)).2 fInx ||| fl (clip i64Max (convRound (p * q) (bits w 5 0)).1).2 fOvf)
          | _, _ => (none, fNar)))) ∧
    (ga.kind = 1 →
      (bits w 63 56 = 0x23 → FillsCodes (.vneg ⟨t, false⟩) s t k w ga.scale (fun i =>
        match laneCode x (fVS w) i with | none => (none, fNar) | some c => (some (-c), 0))) ∧
      (bits w 63 56 = 0x24 → FillsCodes (.vabs ⟨t, false⟩) s t k w ga.scale (fun i =>
        match laneCode x (fVS w) i with | none => (none, fNar) | some c => (some (c.natAbs : Int), 0))) ∧
      (∀ sc2 : Int, sc2 = sInt x (fVT w % 16) → -32767 ≤ sc2 → sc2 ≤ 32767 →
        bits w 63 56 = 0x13 → FillsCodes (.vscl ⟨t, false⟩) s t k w sc2 (fun i =>
          match laneCode x (fVS w) i with | none => (none, fNar) | some c => (some (toI64 c ga.scale sc2).1, (toI64 c ga.scale sc2).2))))

/-- VCMP, FCMP and MLOG retire with a mask register; VMSUM, VCRC, VRMIN and VRMAX with a result in scalar registers
(R142, R148-R151). -/
def Obligations.MasksAndReductionsRetire : Prop :=
  (∀ (s : State) (t : TileId) (k : Kernel) (w : Word), NextWord s t k w → k.pc + 1 < k.len →
      let x := getTile s t
      let m := mreg x (fMask w)
      let sc := min (vtag x (fVS w)).scale (vtag x (fVT w)).scale
      (bits w 63 56 = 0x25 → (vtag x (fVS w)).kind = 1 → (vtag x (fVT w)).kind = 1 →
        let r : Nat → Bool × Nat := fun i =>
          match (codeAtScale x (fVS w) i sc).1, (codeAtScale x (fVT w) i sc).1 with
          | some a, some b => (predOf (bits w 2 0) false (if a < b then -1 else if a = b then 0 else 1), 0)
          | _, _ => (predOf (bits w 2 0) true 0, fNar)
        Retires (.vcmp ⟨t, false⟩) s t k (writeMask x (fVD w % 8) m (fun i => (r i).1)) (laneFlags m (fun i => (r i).2)) (k.pc + 1)) ∧
      (bits w 63 56 = 0x67 → (vtag x (fVS w)).kind = 4 + fFmt w → (vtag x (fVT w)).kind = 4 + fFmt w →
        let r : Nat → Bool × Nat := fun i =>
          ieeeCmp (bits w 3 1) (bit w 4) (fSrc x (fVS w) i (fFmt w)) (fSrc x (fVT w) i (fFmt w))
        Retires (.fcmp ⟨t, false⟩) s t k (writeMask x (fVD w % 8) m (fun i => (r i).1)) (laneFlags m (fun i => (r i).2)) (k.pc + 1)) ∧
      (bits w 63 56 = 0x2D →
        let a := mreg x (fVS w % 8)
        let b := mreg x (fVT w % 8)
        let r := if bits w 1 0 = 0 then a &&& b else if bits w 1 0 = 1 then a ||| b else if bits w 1 0 = 2 then a ^^^ b else a &&& ~~~b
        Retires (.mlog ⟨t, false⟩) s t k (writeMask x (fVD w % 8) m r.getLsbD) 0 (k.pc + 1))) ∧
  (∀ (s : State) (t : TileId) (k : Kernel) (w : Word), NextWord s t k w → k.pc + 1 < k.len →
      let x := getTile s t
      let m := mreg x (fMask w)
      let on := (List.range 128).filter m.getLsbD
      let sd := fVD w % 16
      (bits w 63 56 = 0x51 →
        Retires (.vmsum ⟨t, false⟩) s t k
          (setSreg x sd (BitVec.ofNat 64 (on.foldl (fun a i => eacAdd a (lane x (fVS w) i).toNat) (sNat x sd)))) 0 (k.pc + 1)) ∧
      (bits w 63 56 = 0x50 → readStop x (sNat x (fSS w)) (bits w 20 0) = 0 →
        let d := memBytes x.mem (sNat x (fSS w)) (bits w 20 0)
        Retires (.vcrc ⟨t, false⟩) s t k
          (setSreg x (fSD w) (BitVec.ofNat 64 (if bit w 21 then crc64 (sNat x (fSD w)) d else crc32c (sNat x (fSD w)) d))) 0 (k.pc + 1)) ∧
      (∀ mx : Bool, bits w 63 56 = (if mx then 0x33 else 0x32) → (vtag x (fVS w)).kind = 1 →
        let lanes := on.filterMap (fun i => (laneCode x (fVS w) i).map (fun c => (c, (sNat x (fVT w % 16) + i) % 2 ^ 64)))
        let carried := bit w 0 && sNat x (sd + 1) != 2 ^ 64 - 1
        let cs := if carried && sInt x sd != i64Nar then (sInt x sd, sNat x (sd + 1)) :: lanes else lanes
        let nar := on.any (fun i => (laneCode x (fVS w) i).isNone) || (carried && sInt x sd == i64Nar)
        let r : BitVec 64 × BitVec 64 × Nat :=
          match cs with
          | [] => (codeLane none, BitVec.allOnes 64, fNar)
          | c :: cs => (codeLane (some (cs.foldl (betterOf mx) c).1), BitVec.ofNat 64 (cs.foldl (betterOf mx) c).2, fl nar fNar)
        Retires (if mx then .vrmax ⟨t, false⟩ else .vrmin ⟨t, false⟩) s t k (setSreg (setSreg x sd r.1) (sd + 1) r.2.1) r.2.2 (k.pc + 1)))

/-- The F-class operations on registers of their format fill the lanes of their mask. Rules: R94, R142, R152, R153. -/
def Obligations.FloatLanesRetire : Prop :=
  ∀ (s : State) (t : TileId) (k : Kernel) (w : Word), NextWord s t k w → k.pc + 1 < k.len →
    let x := getTile s t
    let f := if bit w 0 then 2 else 1
    let d := bits w 34 32
    let a := fun i => fSrc x (fVS w) i f
    let b := fun i => fSrc x (fVT w) i f
    let c := fun i => fSrc x (fVD w) i f
    let p := fun i => (lane x (fVS w) i).toNat % 2 ^ ieeeW f
    let q := fun i => (lane x (fVT w) i).toNat % 2 ^ ieeeW f
    ((vtag x (fVS w)).kind = 4 + f →
      (bits w 63 56 = 0x65 → FillsFloats (.fsqrt ⟨t, false⟩) s t k w f (fun i => ieeeSqrt f d (a i))) ∧
      ((vtag x (fVT w)).kind = 4 + f →
        (bits w 63 56 = 0x60 → FillsFloats (.fadd ⟨t, false⟩) s t k w f (fun i => ieeeAdd f d (a i) (b i))) ∧
        (bits w 63 56 = 0x61 → FillsFloats (.fsub ⟨t, false⟩) s t k w f (fun i => ieeeAdd f d (a i) (srcFlip (b i)))) ∧
        (bits w 63 56 = 0x62 → FillsFloats (.fmul ⟨t, false⟩) s t k w f (fun i => ieeeMul f d (a i) (b i))) ∧
        (bits w 63 56 = 0x64 → FillsFloats (.fdiv ⟨t, false⟩) s t k w f (fun i => ieeeDiv f d (a i) (b i))) ∧
        (bits w 63 56 = 0x68 → FillsFloats (.fmin ⟨t, false⟩) s t k w f (fun i => ieeeMinMax f false false (p i) (q i))) ∧
        (bits w 63 56 = 0x69 → FillsFloats (.fmax ⟨t, false⟩) s t k w f (fun i => ieeeMinMax f true false (p i) (q i))) ∧
        (bits w 63 56 = 0x6A → FillsFloats (.fminnum ⟨t, false⟩) s t k w f (fun i => ieeeMinMax f false true (p i) (q i))) ∧
        (bits w 63 56 = 0x6B → FillsFloats (.fmaxnum ⟨t, false⟩) s t k w f (fun i => ieeeMinMax f true true (p i) (q i))) ∧
        ((vtag x (fVD w)).kind = 4 + f → bits w 63 56 = 0x63 →
          FillsFloats (.ffma ⟨t, false⟩) s t k w f (fun i => ieeeFma f d (a i) (b i) (c i))))) ∧
    ((vtag x (fVS w)).kind = 4 + bits w 2 1 → bits w 63 56 = 0x66 →
      FillsFloats (.fcvt ⟨t, false⟩) s t k w (bits w 4 3) (fun i =>
        ieeeCvt (bits w 2 1) (bits w 4 3) d ((lane x (fVS w) i).toNat % 2 ^ ieeeW (bits w 2 1))))

/-- VLD, VST, VCVT and VPOLY retire when their reads meet no stop and their writes lie in an output range. Rules: R142, R143, R144, R145, R146, R150, R151. -/
def Obligations.VectorMemoryRetires : Prop :=
  ∀ (s : State) (t : TileId) (k : Kernel) (w : Word), NextWord s t k w → k.pc + 1 < k.len →
    let x := getTile s t
    let f := bits w 49 46
    let ea := mElem x w
    let sa := mScale x w
    (bits w 63 56 = 0x10 → readStop x ea (planeBytes f 128) = 0 → (isBlock f = true → readStop x sa (scaleBytes f 128) = 0) →
      ∀ sc : Int, sc = (if f = 3 ∨ (isBlock f = true ∧ bit w 6 = true) then sInt x (bits w 5 2)
        else if isBlock f then autoScale x f sa else 0) → (f = 3 ∨ (isBlock f = true ∧ bit w 6 = true) → -32767 ≤ sc ∧ sc ≤ 32767) →
      Retires (.vld ⟨t, false⟩) s t k (vldDo x w f ea sa sc).1 (vldDo x w f ea sa sc).2 (k.pc + 1)) ∧
    (∀ d, bits w 63 56 = 0x11 → vstData x k.strict (bits w 55 50) f (bits w 5 2) = some d →
      writeStop k ea d.1.length = 0 → writeStop k sa d.2.1.length = 0 →
      Retires (.vst t false) s t k (tStore (tStore x ea d.1) sa d.2.1) d.2.2 (k.pc + 1)) ∧
    (let sf := bits w 55 52
     let df := bits w 51 48
     let n := bits w 20 14 + 1
     let a := alignDown (codeN 64 (sNat x (bits w 44 41))) (planeAlign sf)
     let b := alignDown (codeN 64 (sNat x (bits w 40 37))) 8
     let da := alignDown (codeN 64 (sNat x (bits w 36 33))) (planeAlign df)
     let db := alignDown (codeN 64 (sNat x (bits w 32 29))) 8
     ∀ sc dc, (if sf = 3 then ctxOf x (bits w 28 25) else some 0) = some sc →
       (if df = 3 then ctxOf x (bits w 24 21) else some 0) = some dc →
       let l := (List.range n).map (srcAt (memByte x.mem) sf a b sc)
       let r := putElems df k.strict dc (bits w 47 45) l
       bits w 63 56 = 0x12 → readStop x a (elemBytes sf n) = 0 → (isBlock sf = true → readStop x b (scaleBytes sf n) = 0) →
       writeStop k da r.1.length = 0 → writeStop k db r.2.1.length = 0 →
       Retires (.vcvt t false) s t k (tStore (tStore x da r.1) db r.2.1) (r.2.2 ||| readFlags l) (k.pc + 1)) ∧
    (let a := alignDown (codeN 64 (sNat x (fVT w % 16))) 64
     bits w 63 56 = 0x40 → readStop x a 64 = 0 → polyBad (polyTab x a) = false →
       readStop x (a + 64) (8 * 2 ^ (polyTab x a).k * ((polyTab x a).d + 1)) = 0 → (vtag x (fVS w)).kind = 1 →
       FillsCodes (.vpoly ⟨t, false⟩) s t k w (polyTab x a).ys
         (fun i => polyLane x a (polyTab x a) (laneCode x (fVS w) i) (vtag x (fVS w)).scale))

/-- The long-accumulator instructions retire when the accumulator is not INVALID and their accesses meet no stop; LCLR
clears the accumulator and its INVALID mark, and nothing else changes but the kernel's counter; an image holds its accumulator
whole. Rules: R91, R155, R156, R157, R158. -/
def Obligations.LongAccumulatorsRetire : Prop :=
  (∀ (s : State) (t : TileId) (k : Kernel) (w : Word), NextWord s t k w → k.pc + 1 < k.len →
    let x := getTile s t
    let n := bits w 55 53
    let f := if bit w 28 then 2 else 1
    let b := ieeeW f / 8
    let cnt := bits w 44 32 + 1
    let pa := alignDown (codeN 64 (sNat x (bits w 52 49))) b
    let pb := alignDown (codeN 64 (sNat x (bits w 48 45))) b
    let va := fun i => ieeeDec f (leNat (memBytes x.mem (pa + b * i) b))
    let vb := fun i => ieeeDec f (leNat (memBytes x.mem (pb + b * i) b))
    let ins := fun g : Nat → Src × Src => laInserts (getLa x n) ((List.range cnt).map g)
    let img := alignDown (codeN 64 (sNat x (bits w 52 49))) 64
    (bits w 63 56 = 0x71 → laInvalid s t n = false → readStop x pa (b * cnt) = 0 → readStop x pb (b * cnt) = 0 →
      Retires (.ldot t false) s t k (setLa x n (ins (fun i => (va i, vb i))).1) (ins (fun i => (va i, vb i))).2 (k.pc + 1)) ∧
    (bits w 63 56 = 0x72 → laInvalid s t n = false → readStop x pa (b * cnt) = 0 →
      Retires (.lsum t false) s t k (setLa x n (ins (fun i => (va i, srcOne))).1) (ins (fun i => (va i, srcOne))).2 (k.pc + 1)) ∧
    (bits w 63 56 = 0x73 → laInvalid s t n = false → readStop x pa (b * cnt) = 0 →
      Retires (.lssq t false) s t k (setLa x n (ins (fun i => (va i, va i))).1) (ins (fun i => (va i, va i))).2 (k.pc + 1)) ∧
    (bits w 63 56 = 0x74 → laInvalid s t n = false → readStop x pa (b * cnt) = 0 →
      Retires (.lsabs t false) s t k (setLa x n (ins (fun i => (srcAbs (va i), srcOne))).1)
        (ins (fun i => (srcAbs (va i), srcOne))).2 (k.pc + 1)) ∧
    (bits w 63 56 = 0x75 → laInvalid s t n = false →
      Retires (.lrnd ⟨t, false⟩) s t k (setSreg x (bits w 27 24) (BitVec.ofNat 64 (laRound (getLa x n) f (bits w 31 29)).1))
        (laRound (getLa x n) f (bits w 31 29)).2 (k.pc + 1)) ∧
    (bits w 63 56 = 0x76 → laInvalid s t n = false → writeStop k img 576 = 0 →
      Retires (.lsave ⟨t, false⟩) s t k (tWrite x img (laImage (getLa x n)) (fun _ => false)) 0 (k.pc + 1)) ∧
    (bits w 63 56 = 0x77 → laInvalid s t n = false → readStop x img 576 = 0 →
      let r := laMerge (getLa x n) (laOfImage (memBytes x.mem img 576))
      Retires (.ladd t false) s t k (setLa x n r.1) r.2 (k.pc + 1)) ∧
    (bits w 63 56 = 0x70 → ∃ u, exec (.lclr ⟨t, false⟩) s = .next u ∧ getTile u t = stepped k (setLa x n {}) 0 (k.pc + 1) ∧
      (∀ v, v ≠ t → getTile u v = getTile s v) ∧ u = { s with tiles := u.tiles, csr := u.csr } ∧
      fld u (stAt t) 55 48 = fld s (stAt t) 55 48 &&& (255 - 2 ^ n) ∧ laInvalid u t n = false ∧
      (∀ hi lo, hi < 48 ∨ 55 < lo → fld u (stAt t) hi lo = fld s (stAt t) hi lo) ∧ ∀ a, a ≠ stAt t → rd u a = rd s a)) ∧
  (∀ l : LongAcc, (laImage l).length = 576 ∧ laOfImage (laImage l) = l)

/-- A kernel launches, commits, and reports an early end; the cycle limit, an abort and a fault end it before commit. Rules: R133, R135, R138, R139, R140, R158. -/
def Obligations.KernelLifeCompletes : Prop :=
  ∀ (s : State) (t : TileId) (k : Kernel), running s = true →
    let x := getTile s t
    (∀ (q : Fin 2) (l : Launch) (ws : List Word) (s' : State), NextInstr s t q 0x30 l ws s' →
      kernelReady s' (getTile s' t) q (bits (ws.getD 0 0) 15 0) = true → (q.val = 0 → (getTile s' t).preempted = false) →
      tileOpen s' t = true → exec (.kernelLaunch t q) s = .next (launchKernel s' t q l ws)) ∧
    (NextWord s t k (kWord x k k.pc) → bits (kWord x k k.pc) 63 56 = 0x00 →
      exec (.kernelEnd t false) s = .next (commitKernel s t k) ∧ exec (.kernelEnd t true) s = .next (kernelFault s t k)) ∧
    (x.kernel = some k → k.ending = none → isV t = true → ∃ u, exec (.kernelLimit t) s = .next u ∧
      getTile u t = { markGran x (kernelDest x k) with kernel := some { k with ending := some stKernelLimit } } ∧
      (∀ v, v ≠ t → getTile u v = getTile s v) ∧ u = { s with tiles := u.tiles, csr := u.csr } ∧
      fld u (stAt t) 55 48 = (fld s (stAt t) 55 48 ||| k.lamask) % 256 ∧
      (∀ hi lo, hi < 48 ∨ 55 < lo → fld u (stAt t) hi lo = fld s (stAt t) hi lo) ∧ ∀ a, a ≠ stAt t → rd u a = rd s a) ∧
    (∀ e, x.kernel = some k → k.ending = some e → exec (.kernelAbortReport t) s = .next
      (unitEnded (setLastFlags (countEnd (setRunning (setTile s t { x with kernel := none }) t false) t k.seq e false) t 0)
        t k.q 2 k.seq { status := e })) ∧
    (∀ p r, x.kernel = none → x.heldKm = p :: r →
      let s1 := setTile s t { x with heldKm := r }
      let at_ := p.addr.toNat % 0x800000
      (p.op = 0x02 → exec (.kernelMemoryApply t) s = .next
        (sendPkt (windowWrite s1 t at_ p.data p.poison.toNat).2 (response p (windowWrite s1 t at_ p.data p.poison.toNat).1 [] 0))) ∧
      (p.op = 0x01 → exec (.kernelMemoryApply t) s = .next
        (sendPkt s1 (response p (windowRead s1 t at_ p.len).1 (windowRead s1 t at_ p.len).2.1 (windowRead s1 t at_ p.len).2.2))))

/-- A kernel instruction whose operand or access is at fault ends the kernel with the status of the fault; any instruction
whose register or checked unit is at fault, or whose word is uncorrectable, ends it with TILE_FAULT and writes nothing. Rules: R140, R158, R159, R160. -/
def Obligations.KernelInstructionStops : Prop :=
  (∀ (s : State) (t : TileId) (k : Kernel) (w : Word), NextWord s t k w →
    let x := getTile s t
    (bits w 63 56 = 0x20 → (vtag x (fVS w)).kind ≠ 1 → exec (.vadd ⟨t, false⟩) s = .next (endKernel s t stKernelFault)) ∧
    (bits w 63 56 = 0x60 → (vtag x (fVS w)).kind ≠ 4 + fFmt w → exec (.fadd ⟨t, false⟩) s = .next (endKernel s t stKernelFault)) ∧
    (∀ e, bits w 63 56 = 0x05 → readStop x (sAddr x (fSS w) (fImm48 w) 1) 8 = e → e ≠ 0 →
      exec (.sld ⟨t, false⟩) s = .next (endKernel s t e)) ∧
    (∀ e, bits w 63 56 = 0x06 → writeStop k (sAddr x (fSS w) (fImm48 w) 1) 8 = e → e ≠ 0 →
      exec (.sst ⟨t, false⟩) s = .next (endKernel s t e)) ∧
    (bits w 63 56 = 0x75 → laInvalid s t (fLA w) = true → exec (.lrnd ⟨t, false⟩) s = .next (endKernel s t stInvalidDest))) ∧
  (∀ (s : State) (t : TileId) (k : Kernel) (fault : Bool), running s = true → (getTile s t).kernel = some k → k.ending = none →
    k.pc < k.len → fault = true ∨ kWordBad (getTile s t) k = true → ∀ e, e ∈ kernelOps t fault →
      (bits (kWord (getTile s t) k k.pc) 63 56 = e.1 → exec e.2 s = .next (kernelFault s t k)) ∧
      (bits (kWord (getTile s t) k k.pc) 63 56 ≠ e.1 → exec e.2 s = .next s))

/-! ### Passes, launches, tile programs, streams -/

/-- A pass becomes ready, starts in its cycle, is run cycle by cycle, and reports when it was ended early; a pass that
R100 or R101 refuses ends with the status they give; its last row leaves c × M + 259 cycles after its start, or M + 3
(R114-R122); a write to an accumulator set takes effect at once, is ignored with ACCSET_ERR, or is held (R108, R110). -/
def Obligations.PassLifeCompletes : Prop :=
  (∀ (s : State) (t : TileId), running s = true →
      let x := getTile s t
      (∀ (q : Fin 2) (l : Launch) (ws : List Word) (s' : State), NextInstr s t q 0x21 l ws s' →
        (getTile s' t).ready = none → (q.val = 0 → (getTile s' t).preempted = false) →
        (passVerdict s' t (parsePass ws) ≠ 0 →
          exec (.pass t q) s = .next (refusePass s' t q l.pc (passVerdict s' t (parsePass ws)))) ∧
        (passVerdict s' t (parsePass ws) = 0 → passResident (getTile s' t) (parsePass ws) = true →
          (getTile s' t).computeOn = true → tileOpen s' t = true →
          let y := makeReady (getTile s' t) (parsePass ws) q l.pc
          exec (.pass t q) s = .next (setTile s' t y) ∧
          ∃ r, y.ready = some r ∧ r.ins = parsePass ws ∧ r.q = q.val ∧ r.pc = l.pc ∧ r.cycle = (getTile s' t).cycle)) ∧
      (∀ r, x.ready = some r → passInvalid s t r.ins (loadsW x r.ins) = false → startCycle x r ≤ x.cycle →
        exec (.passStart t) s = .next (startPass s t r)) ∧
      (∀ r, x.ready = some r → passInvalid s t r.ins (loadsW x r.ins) = true →
        exec (.passStart t) s = .next (refusePass s t r.q r.pc stInvalidDest)) ∧
      (startDue x = false →
        exec (.passCycle t none) s = .next
          (modTile ((x.passes.map (·.seq)).foldl (passStep t) s) t (fun y => frontArrives { y with cycle := y.cycle + 1 })) ∧
        ∀ f : BitVec 32, exec (.passCycle t (some f)) s = .next
          (modTile (((getTile (passFault s t f.toNat) t).passes.map (·.seq)).foldl (passStep t) (passFault s t f.toNat)) t
            (fun y => frontArrives { y with cycle := y.cycle + 1 }))) ∧
      (x.passes = [] → x.ready = none → ∃ u, exec (.passCycle t none) s = .next u ∧
        TileBecomes s t (frontArrives { x with cycle := x.cycle + 1 }) u) ∧
      (∀ (seq : BitVec 32) p e, x.passes.find? (fun p => p.seq == seq.toNat) = some p → p.ending = some e →
        let s0 := if p.nofold then noFold s t p.q 1 p.seq else s
        let s1 := modTile s0 t (fun x => { x with passes := x.passes.filter (fun r => r.seq != p.seq) })
        let s2 := setFld s1 (stAt t) 55 47 (getTile s1 t).passes.length
        exec (.passAbortReport t seq) s = .next
          (unitEnded (autoRelease (countEnd s2 t p.seq e false) t) t p.q 1 p.seq { status := e, cycle := some p.endAt }))) ∧
  (∀ (i : PassInstr), 0 < i.m →
      (i.k ≠ 0 → commitAfter i = cyc i * i.m + 259 ∧ leaves i (commitAfter i) = some (cyc i * i.m - 1)) ∧
      (i.k = 0 → commitAfter i = i.m + 3 ∧ leaves i (commitAfter i) = some (i.m - 1)) ∧
      (∀ r, commitAfter i < r → leaves i r = none)) ∧
  (∀ (s : State) (t : TileId) (n : Fin 16) (v : Word), running s = true → isV t = false →
      let x := getTile s t
      let free := accsetNamed x n = false ∧ x.heldAcc.any (fun e => e.1 == n.val) = false
      (free → accsetBad s t n v = false →
        ∃ u, exec (.mtAccsetWrite t n v) s = .next u ∧ fld u (accAt t n) 38 26 = bits v 38 26 ∧ fld u (accAt t n) 50 39 = bits v 50 39 ∧
          flag u (accAt t n) 61 = bit v 61 ∧ flag u (accAt t n) 62 = false ∧ flag u (accAt t n) 63 = bit v 63 ∧
          u = { s with csr := u.csr } ∧ (∀ a, a ≠ accAt t n → rd u a = rd s a)) ∧
      (free → accsetBad s t n v = true → exec (.mtAccsetWrite t n v) s = .next (setFlag s (stAt t) 45 true)) ∧
      (¬free → ∃ u, exec (.mtAccsetWrite t n v) s = .next u ∧ TileBecomes s t { x with heldAcc := x.heldAcc ++ [(n.val, v, none)] } u) ∧
      (∀ e, x.heldAcc.find? (fun e => e.1 == n.val) = some e → accsetNamed x n = false →
        let s1 := applyAccset (setTile s t { x with heldAcc := x.heldAcc.erase e }) t n e.2.1
        (e.2.2 = none → exec (.mtAccsetApply t n) s = .next s1) ∧
        (∀ p, e.2.2 = some p → (x.heldAcc.erase e).any (fun h => h.2.2 == some p) = false →
          exec (.mtAccsetApply t n) s = .next (sendPkt s1 (response p stOk [] 0)))))

/-- A doorbell sets TAIL or is ignored with DB_ERR; TP_SQ and TP_CQD writes are taken or ignored for their LOG2N; a
launch is fetched when its queue may run, and its record joins its completion queue at its commit point (R203-R217). -/
def Obligations.LaunchQueuesComplete : Prop :=
  (∀ (s : State), running s = true →
      (∀ (t : TileId) (q : Fin 2) (v : Word), sqOn s t q = true → sub32 (bits v 31 0) (sqHead s t q) ≤ 2 ^ sqLog2 s t q →
        ∃ u, exec (.tpDb t q v) s = .next u ∧ sqTail u t q = bits v 31 0 ∧ u = { s with csr := u.csr } ∧ (∀ a, a ≠ dbAt t q → rd u a = rd s a)) ∧
      (∀ (t : TileId) (q : Fin 2) (v : Word), sqOn s t q = false ∨ 2 ^ sqLog2 s t q < sub32 (bits v 31 0) (sqHead s t q) →
        ∃ u, exec (.tpDb t q v) s = .next u ∧ flag u (tpStAt t) 59 = true ∧ u = { s with csr := u.csr } ∧ (∀ a, a ≠ tpStAt t → rd u a = rd s a)) ∧
      (∀ (d : Fin 4) (half : Fin 2) (v : Word),
        exec (.tpGdb d half v) s = .next ((gdbTiles d half v).foldl (fun s t => setTail s t 0 (sqTail s t 0 + 1)) s)) ∧
      (∀ (t : TileId) (q : Fin 2) (v : Word), 4 ≤ bits v 62 58 → bits v 62 58 ≤ 16 →
        (sqOn s t q = false ∨ sqHead s t q = sqTail s t q → exec (.tpSqWrite t q v) s = .next (plainWrite s .tpSq (sqAt t q) v)) ∧
        (sqOn s t q = true → sqHead s t q ≠ sqTail s t q → exec (.tpSqWrite t q v) s = .next (setFlag s (sqAt t q) 63 (bit v 63)))) ∧
      (∀ (t : TileId) (q : Fin 2) (v : Word), bits v 62 58 < 4 ∨ 16 < bits v 62 58 →
        exec (.tpSqWrite t q v) s = .next (setFlag s (tpStAt t) 59 true)) ∧
      (∀ (d : Fin 4) (cq : Fin 64) (v : Word), 4 ≤ bits v 62 58 → bits v 62 58 ≤ 16 →
        exec (.tpCqdWrite d cq v) s = .next (refreshCq (plainWrite s .tpCqd (cqdAt d cq) v) d cq [])) ∧
      (∀ (d : Fin 4) (cq : Fin 64) (v : Word), bits v 62 58 < 4 ∨ 16 < bits v 62 58 →
        exec (.tpCqdWrite d cq v) s = .next (setFlag s (cqtAt d cq) 61 true)) ∧
      (∀ (d : Fin 4) (cq : Fin 64) (v : Word),
        exec (.tpCqhWrite d cq v) s = .next (refreshCq (plainWrite s .tpCqh (cqhAt d cq) v) d cq [])) ∧
      (∀ (d : Fin 4) (cq : Fin 64) (net : BitVec 8),
        exec (.completionRecordHead d cq net) s = .next (writeSecond (writeFirst s d cq net.toNat) d cq net.toNat))) ∧
  (∀ (s : State) (t : TileId) (q : Fin 2) (net : BitVec 8), running s = true →
      (mayFetch s t q = true → seqBusy s t net.toNat (recAt s t q (sqHead s t q)) 64 = false →
        let r := seqRead s t net.toNat (recAt s t q (sqHead s t q)) 8
        (∀ ws, r.2 = some ws → exec (.launchFetch t q net) s = .next
          (startLaunch (setHead r.1 t q (sqHead s t q + 1)) t q (sqHead s t q) (parseLaunch ws) false)) ∧
        (r.2 = none → exec (.launchFetch t q net) s = .next
          (let d := drawWords (setHead r.1 t q (sqHead s t q + 1)) 8
           startLaunch d.1 t q (sqHead s t q) (parseLaunch d.2) true))) ∧
      (∀ l, getRun (getTile s t) q = some l → canCommit l = true →
        let r : CRec := { slot := t.slot.val, q := q, irq := l.lrec.irq, words := recordWords s t q l }
        let s1 := setQState (setRun s t q none) t q 0
        let s2 := modTile s1 t (fun x => { x with sleepEnd := x.sleepEnd || (l.ended && l.level == 2), preempted := x.preempted && q.val == 1 })
        let s3 := setFld s2 (tpStAt t) 57 56 1
        let s4 := setCqRecs s3 t.die l.lrec.cq (cqRecs s3 t.die l.lrec.cq ++ [r])
        (cqRecs s3 t.die l.lrec.cq ≠ [] → exec (.launchCommit t q net) s = .next (refreshCq s4 t.die l.lrec.cq [])) ∧
        (cqRecs s3 t.die l.lrec.cq = [] → exec (.launchCommit t q net) s = .next
          (refreshCq (writeFirst s4 t.die l.lrec.cq net.toNat) t.die l.lrec.cq []))))

/-- The instructions that synchronise issue once what they wait for holds, and the program moves on by their words; before that
they wait. Rules: R210, R211, R223, R224, R225, R228. -/
def Obligations.ProgramSynchronisation : Prop :=
  ∀ (s : State) (t : TileId) (q : Fin 2) (l : Launch) (ws : List Word) (s' : State),
    let waits := modRun s' t q (fun l => { l with waiting := true })
    (NextInstr s t q 0x22 l ws s' →
      ((∀ u ∈ l.live, 3 ≤ u.kind) → exec (.xwait t q) s = .next (advance s' t q 1)) ∧
      ((∃ u ∈ l.live, u.kind < 3) → exec (.xwait t q) s = .next waits)) ∧
    (NextInstr s t q 0x3F l ws s' →
      (l.live = [] → exec (.tpEnd t q) s = .next
        (showPc (modRun s' t q (fun l => { l with pc := l.pc + 1, ended := true, waiting := false })) t q (l.pc + 1))) ∧
      (l.live ≠ [] → exec (.tpEnd t q) s = .next waits)) ∧
    (NextInstr s t q 0x41 l ws s' →
      (sub32 (fld s' (ctrAt t (bits (ws.getD 0 0) 37 32)) 31 0) (bits (ws.getD 0 0) 31 0) < 2 ^ 31 →
        exec (.wait t q) s = .next (advance s' t q 1)) ∧
      (2 ^ 31 ≤ sub32 (fld s' (ctrAt t (bits (ws.getD 0 0) 37 32)) 31 0) (bits (ws.getD 0 0) 31 0) →
        exec (.wait t q) s = .next waits)) ∧
    (NextInstr s t q 0x50 l ws s' → l.live = [] → (∀ c ∈ queueCtxs q, getStream (getTile s' t) c = none) →
      exec (.chkpt t q) s = .next (advance (modRun
        (wr s' (ckptAt t q) (BitVec.ofNat 64 (l.lrec.launchId * 2 ^ 32 + 2 ^ 24 + (l.pc + 1)))) t q (fun l => { l with faults := 0 })) t q 1)) ∧
    (NextInstr s t q 0x60 l ws s' →
      let k := bits (ws.getD 0 0) 49 48
      exec (.hint t q) s = .next (advance (setFld (modRun s' t q (fun l => { l with level := k })) (tpStAt t) 57 56 k) t q 1)) ∧
    (NextInstr s t q 0x40 l ws s' → (bit (ws.getD 0 0) 55 = true → ∀ u ∈ l.live, u.kind = 4) →
      ∀ g, seqTag s' (tileNode s' t) = some g →
        let s1 := addUnit s' t q { kind := 4, seq := g, ctx := 0, pc := l.pc }
        (peerDev s' (ws.getD 1 0) ≠ ownDev s' ∨ bits (ws.getD 1 0) 39 33 < 96 →
          exec (.signal t q) s = .next (advance (holdTag (inject s1 (signalPkt s1 t g (ws.getD 0 0) (ws.getD 1 0))) (tileNode s' t) g
            (.signal t q g)) t q 2)) ∧
        (peerDev s' (ws.getD 1 0) = ownDev s' → 96 ≤ bits (ws.getD 1 0) 39 33 →
          exec (.signal t q) s = .next (advance (unitEnded s1 t q 4 g { status := stNocUnmapped }) t q 2))) ∧
    (running s = true → getRun (getTile s t) q = some l → canIssue l = true →
      (l.waiting = true ∨ ∃ r, (getTile s t).ready = some r ∧ r.q = q.val) →
      exec (.waitLimit t q) s = .next (failProgram s t q { code := stWaitLimit, kind := 4, ctx := 0, pc := l.pc, seq := 0 }))

/-- The stream instructions of a tile program start, await, release, mark and cancel the stream of a context. Rules: R166, R168, R170, R172, R173, R191, R192, R199, R210, R213. -/
def Obligations.ProgramStreamInstructions : Prop :=
  ∀ (s : State) (t : TileId) (q : Fin 2) (l : Launch) (ws : List Word) (s' : State),
    let c := bits (ws.getD 0 0) 55 52
    let n := bits (ws.getD 0 0) 15 0
    let x := getTile s' t
    (∀ st, NextInstr s t q 0x10 l ws s' → parseStream x (isV t) q l.pc (bits (ws.getD 0 0) 19 0 * 8) = some st →
      (getStream x c = none → st.nbuf ≤ (freeList x).length → ringTaken x st.base (st.nbuf * st.bufsz) = false →
        exec (.sstart t q) s = .next (advance (startStream s' t c st) t q 1)) ∧
      (getStream x c ≠ none ∨ (freeList x).length < st.nbuf ∨ ringTaken x st.base (st.nbuf * st.bufsz) = true →
        exec (.sstart t q) s = .next (advance (refuseStream s' t q c l.pc) t q 1))) ∧
    (NextInstr s t q 0x10 l ws s' → parseStream x (isV t) q l.pc (bits (ws.getD 0 0) 19 0 * 8) = none →
      exec (.sstart t q) s = .next (advance (refuseStream s' t q c l.pc) t q 1)) ∧
    (NextInstr s t q 0x11 l ws s' →
      getStream x c = none ∨ (bit (ws.getD 0 0) 48 = false ∧ ∃ st, getStream x c = some st ∧ st.committed = true) →
      exec (.swait t q) s = .next (advance s' t q 1)) ∧
    (∀ ps, NextInstr s t q 0x12 l ws s' → srelTargets x c n = some ps →
      exec (.srel t q) s = .next (advance (releaseBufs s' t c ps) t q 1)) ∧
    (∀ ps, NextInstr s t q 0x13 l ws s' → swrtTargets s' t x c n = some ps →
      exec (.swrt t q) s = .next (advance (markWritten s' t c ps) t q 1)) ∧
    (∀ st, NextInstr s t q 0x14 l ws s' → getStream x c = some st → st.seq = fld s' (seStatAt t c) 63 32 →
      let s1 := noFold s' t q 3 st.seq
      (isRunning st = true → getStream (getTile s1 t) c = some st →
        exec (.scan t q) s = .next (advance (setFld (cancelStream s1 t c stAborted) (seStatAt t c) 28 21 stAborted) t q 1)) ∧
      (st.ending = none → st.committed = true →
        exec (.scan t q) s = .next (advance (setFld s' (seStatAt t c) 28 21 stAlready) t q 1)) ∧
      (∀ e, st.ending = some e → exec (.scan t q) s = .next (advance (setFld s' (seStatAt t c) 28 21 e) t q 1))) ∧
    (NextInstr s t q 0x14 l ws s' → getStream x c = none →
      exec (.scan t q) s = .next (advance (setFld s' (seStatAt t c) 28 21
        (if mget false x.ctxUsed c then endedReply (fld s' (seStatAt t c) 20 13) else stInvalidDest)) t q 1))

/-- Aborts answer in TP_ABORTREPLY; preemption, resumption, replay and the compute domain act on the tile. Rules: R120, R124, R136, R218, R219, R220, R221, R226, R228, R495, R496. -/
def Obligations.TileControlCompletes : Prop :=
  ∀ (s : State) (t : TileId), running s = true →
    let x := getTile s t
    (∀ (id : BitVec 32), exec (.abortUnit t id) s = .next
      (wr (abortNumber s t id.toNat).2 (tpTileAt t 0x38) (BitVec.ofNat 64 (id.toNat * 2 ^ 32 + (abortNumber s t id.toNat).1 % 256)))) ∧
    (∀ (q : Fin 2) (pos : BitVec 32) (net : BitVec 8),
      sub32 (sqTail s t q) pos.toNat = 0 ∨ 2 ^ 31 ≤ sub32 (sqTail s t q) pos.toNat → exec (.abortLaunch t q pos net) s = .next
        (wr s (tpTileAt t 0x38) (BitVec.ofNat 64 (pos.toNat * 2 ^ 32 + stInvalidDest)))) ∧
    (∀ (q : Fin 2) (pos : BitVec 32) (net : BitVec 8), sub32 (sqTail s t q) pos.toNat ≠ 0 → sub32 (sqTail s t q) pos.toNat < 2 ^ 31 →
      (abortUnfetched s t q pos.toNat = false →
        (∀ l, getRun x q = some l → l.pos = pos.toNat → exec (.abortLaunch t q pos net) s = .next
          (wr (abortProgram s t q l) (tpTileAt t 0x38) (BitVec.ofNat 64 (pos.toNat * 2 ^ 32 + stAborted)))) ∧
        ((∀ l, getRun x q = some l → l.pos ≠ pos.toNat) → exec (.abortLaunch t q pos net) s = .next
          (wr s (tpTileAt t 0x38) (BitVec.ofNat 64 (pos.toNat * 2 ^ 32 + stAlready))))) ∧
      (let a := recAt s t q pos.toNat + 6
       abortUnfetched s t q pos.toNat = true → seqBusy s t net.toNat a 1 = false → ackWaits s a = false →
        (seqStatus s t net.toNat a 1 = 0 → exec (.abortLaunch t q pos net) s = .next
          (wr (hbmStore s (ownWrite a [hbmByte s a ||| 0x80]) none) (tpTileAt t 0x38) (BitVec.ofNat 64 (pos.toNat * 2 ^ 32 + stAborted)))) ∧
        (seqStatus s t net.toNat a 1 ≠ 0 → seqStatus s t net.toNat a 1 ≠ stAborted → exec (.abortLaunch t q pos net) s = .next
          (wr s (tpTileAt t 0x38) (BitVec.ofNat 64 (pos.toNat * 2 ^ 32 + seqStatus s t net.toNat a 1 % 256)))))) ∧
    (∀ l, getRun x 0 = some l → sqHead s t 1 ≠ sqTail s t 1 → l.suspended = false → l.held = false →
      let y := { x with preempted := true, wtag := none, ready := x.ready.bind (fun r => if r.q = 0 then none else some r) }
      (isV t = true → exec (.preempt t) s = .next (setTile s t y)) ∧
      (isV t = false → exec (.preempt t) s = .next (setFlag (setTile s t y) (stAt t) 56 false))) ∧
    (∀ l, getRun x 0 = some l → x.preempted = true → l.held = false → (∀ p ∈ x.passes, p.q ≠ 0) → (∀ k, x.kernel = some k → k.q ≠ 0) →
      exec (.suspend t) s = .next (setQState (setRun (setTile s t { x with preempted := false }) t 0 (some { l with suspended := true })) t 0 2)) ∧
    (∀ l, getRun x 0 = some l → l.suspended = true → queueIdle s t 1 = true →
      exec (.programResume t) s = .next (restartTimers (setQState
        (setFld (setRun s t 0 (some { l with suspended := false })) (tpStAt t) 57 56 l.level) t 0 (if l.held then 3 else 1)) t 0)) ∧
    (∀ l (q : Fin 2), getRun x q = some l → l.held = true → (∀ u ∈ l.live, u.kind = 4) → tileOpen s t = true →
      (l.moved = true → exec (.programRestart t q) s = .next (restartAt s t q (fun l => { l with replays := l.replays + 1 }))) ∧
      (l.moved = false → flag s (ckptAt t q) 24 = true →
        exec (.programRestart t q) s = .next (restartAt (setFlag s (ckptAt t q) 24 false) t q id)) ∧
      (l.moved = false → flag s (ckptAt t q) 24 = false → hasSpare s t = false → exec (.programRestart t q) s = .next
        (failProgram (setRun s t q (some { l with held := false })) t q
          (l.heldBy.getD { code := stTileFault, kind := 1, ctx := 0, pc := l.pc, seq := 0 })))) ∧
    (x.sleepEnd = true → x.computeOn = true → queueIdle s t 0 = true → queueIdle s t 1 = true →
      ∃ u, exec (.powerDomainOff t) s = .next u ∧
        getTile u t = { x with computeOn := false, wtag := none, weights := [], shadow := [], wscales := [], sscales := [], front := none,
                               vlanes := [], vtags := [], vlost := if isV t then some s.freeCtr else none, sregs := [], masks := [] } ∧
        (∀ v, v ≠ t → getTile u v = getTile s v) ∧ u = { s with tiles := u.tiles, csr := u.csr, freeCtr := s.freeCtr + 1 } ∧
        fld u (tpStAt t) 57 56 = 2 ∧ ∀ a, a ≠ tpStAt t → a ≠ stAt t → rd u a = rd s a) ∧
    (x.computeOn = false → queueIdle s t 0 = false ∨ queueIdle s t 1 = false → mapped s t = true →
      let s1 := setTile s t { x with computeOn := true, sleepEnd := false }
      (fld s (tpStAt t) 57 56 = 2 → getRun x 0 = none → getRun x 1 = none →
        exec (.powerDomainWake t) s = .next (setFld s1 (tpStAt t) 57 56 1)) ∧
      (fld s (tpStAt t) 57 56 ≠ 2 ∨ getRun x 0 ≠ none ∨ getRun x 1 ≠ none → exec (.powerDomainWake t) s = .next s1))

/-- The instructions of a stream program move the context's stream as R174, R176 and R177 give. -/
def Obligations.StreamProgramInstructions : Prop :=
  ∀ (s : State) (t : TileId) (c : Fin 16) (st : Stream) (w : Word),
    let a := fun i => st.areg.getD i 0
    let i := bits w 55 53
    (NextStreamWord s t c 0x01 st w → exec (.seta t c) s = .next (putStream s t c
      { setA st i (bits w 47 0) with pc := st.pc + 1, fab := st.fab.set i false })) ∧
    (NextStreamWord s t c 0x02 st w → exec (.setah t c) s = .next (putStream s t c
      { setA st i (a i % 2 ^ 48 + bits w 15 0 * 2 ^ 48) with pc := st.pc + 1, fab := st.fab.set i true })) ∧
    (NextStreamWord s t c 0x03 st w → exec (.sett t c) s = .next (putStream s t c
      { st with pc := st.pc + 1, treg := st.treg.set i (sextN 48 (bits w 47 0)) })) ∧
    (NextStreamWord s t c 0x04 st w → exec (.adda t c) s = .next (putStream s t c
      { setA st i (addT (a i) (st.treg.getD (bits w 52 50) 0)) with pc := st.pc + 1 })) ∧
    (NextStreamWord s t c 0x08 st w → exec (.seFor t c) s = .next (putStream s t c
      { st with pc := st.pc + 1, loops := { level := bits w 55 54, areg := bits w 53 51, treg := bits w 50 48, left := bits w 47 24,
                                            body := st.pc + 1 } :: st.loops })) ∧
    (∀ lv r, NextStreamWord s t c 0x09 st w → st.loops = lv :: r →
      let next := setA st lv.areg (addT (a lv.areg) (st.treg.getD lv.treg 0))
      (lv.left = 0 → exec (.seNext t c) s = .next (putStream s t c { next with loops := r, pc := st.pc + 1 })) ∧
      (lv.left ≠ 0 → exec (.seNext t c) s = .next (putStream s t c
        { next with loops := { lv with left := lv.left - 1 } :: r, pc := lv.body }))) ∧
    (NextStreamWord s t c 0x10 st w → st.moves = [] → bit w 40 = false → exec (.move t c) s = .next (putStream s t c
      { st with pc := st.pc + 1, moves := [{ addr := a i, fab := st.fab.getD i false, pos := st.pos, left := bits w 52 41 + 1 }],
                pos := st.pos + (bits w 52 41 + 1) })) ∧
    (NextStreamWord s t c 0x10 st w → st.moves = [] → bit w 40 = true → exec (.move t c) s = .next (putStream s t c
      { setA st i (a i + (bits w 52 41 + 1)) with
        pc := st.pc + 1
        pos := st.pos + (bits w 52 41 + 1)
        moves := [{ addr := a i, fab := st.fab.getD i false, pos := st.pos, left := bits w 52 41 + 1 }] })) ∧
    (NextStreamWord s t c 0x20 st w → st.moves = [] → ringBusy (getTile s t) st = false →
      exec (.flush t c) s = .next (flushStream s t c { st with pc := st.pc + 1 } st.pos)) ∧
    (NextStreamWord s t c 0x21 st w → st.moves = [] → st.outst = 0 →
      exec (.streamFence t c) s = .next (putStream s t c { st with pc := st.pc + 1 })) ∧
    (NextStreamWord s t c 0x3F st w → 2 ≤ st.kind → exec (.streamEnd t c) s = .next (putStream s t c { st with ended := true })) ∧
    (NextStreamWord s t c 0x3F st w → st.kind < 2 → st.moves = [] → ringBusy (getTile s t) st = false →
      exec (.streamEnd t c) s = .next (tryCommit (flushStream s t c { st with ended := true } st.pos) t c)) ∧
    (let r := bits w 52 50
     let k := if bits w 49 48 = 1 then 8 else 4
     let at_ := (a r + st.gk * k) % 2 ^ 64
     let x := getTile s t
     NextStreamWord s t c 0x11 st w → st.moves = [] →
       (inWindow (isV t) at_ k = false → exec (.gather t c) s = .next (cancelStream s t c stNocUnmapped)) ∧
       (inWindow (isV t) at_ k = true → anyInvalid x at_ k = true ∨ invalidSet s t at_ k = true →
         exec (.gather t c) s = .next (cancelStream s t c stInvalidDest)) ∧
       (inWindow (isV t) at_ k = true → anyInvalid x at_ k = false → invalidSet s t at_ k = false →
         (∀ b ∈ bufsOver x at_ k, b.ctx ≠ c.val ∧ isIn b.st = true ∧ b.buf.state = 2) →
         let m : Move :=
           { addr := codeN 64 ((a i : Int) + shl (indexValue (bits w 49 48) (leNat (memBytes x.mem at_ k))) (bits w 47 44)),
             fab := st.fab.getD i false, pos := st.pos, left := bits w 43 32 + 1, skip := anyPoison x.mem at_ k || anyAccUe x at_ k }
         (bits w 31 8 ≠ st.gk → exec (.gather t c) s = .next (putStream s t c
           { st with moves := [m], pos := st.pos + (bits w 43 32 + 1), gk := st.gk + 1 })) ∧
         (bits w 31 8 = st.gk → exec (.gather t c) s = .next (putStream s t c
           { setA st r (a r + (bits w 31 8 + 1) * k) with
             moves := [m], pos := st.pos + (bits w 43 32 + 1), gk := 0, pc := st.pc + 1 }))))

/-- Requests leave by the chosen stream, responses free their tags, cancellations reply, cleared marks go, and the progress
monitor ends one stalled stream. Rules: R171, R175, R178, R179, R181, R188, R192, R194, R195. -/
def Obligations.StreamEngineCompletes : Prop :=
  ∀ (s : State) (t : TileId), running s = true →
    (∀ c st r, chooseStream s t = some (c, st, r) → r.skip = false → exec (.streamRequestIssue t) s = .next (sendReq s t c st r)) ∧
    (∀ c st r, chooseStream s t = some (c, st, r) → r.skip = true → exec (.streamRequestIssue t) s = .next (skipPiece s t c st r)) ∧
    (∀ (p : Packet) u, (getTag s p.dest.toNat p.tag.toNat).use = some (.stream u) →
      let g := getTag s p.dest.toNat p.tag.toNat
      (g.gen ≠ p.gen → exec (.streamResponse p) s = .next (takePkt s p)) ∧
      (g.gen = p.gen → responseHeld s p (.stream u) = true →
        exec (.streamResponse p) s = .next (modTile (takePkt s p) u.t (fun x => { x with heldKm := x.heldKm ++ [p] }))) ∧
      (g.gen = p.gen → responseHeld s p (.stream u) = false →
        exec (.streamResponse p) s = .next (streamAnswered (freeTag (takePkt s p) p.dest.toNat p.tag.toNat) p (.stream u)))) ∧
    (∀ (v : Word), exec (.seCancel t v) s = .next (setFld (cancelBySeq s t (bits v 35 32) (bits v 31 0)).2
      (seStatAt t (bits v 35 32)) 28 21 (cancelBySeq s t (bits v 35 32) (bits v 31 0)).1)) ∧
    (∀ (c : Fin 16) st e, getStream (getTile s t) c = some st → st.ending = some e → st.outst = 0 → st.endOwed = false →
      exec (.streamCancelReport t c) s = .next (unitEnded (dropStream (setFld s (seStatAt t c) 20 13 e) t c st) t st.q 3 st.seq
        { status := e, bytes := st.bytes, poisoned := st.poisoned })) ∧
    (∀ (v : Word), bits v 28 11 ≠ 0 → bits v 28 11 ≤ 131072 → ∃ u, exec (.seClear t v) s = .next u ∧
      TileBecomes s t (clearRange (getTile s t) (bits v 45 29) (bits v 28 11)) u) ∧
    (∀ (d : Fin 4) v c st, stallVictim (stallCandidates s d) = some (v, c, st) →
      let s1 := (stallCandidates s d).foldl (fun s e => match getStream (getTile s e.1) e.2.1 with
        | some st => putStream s e.1 e.2.1 (progress s e.1 st)
        | none => s) s
      exec (.stall d) s = .next (incFld (cancelStream s1 v c stStall) (csrAt d 0x380010) 31 0))

/-! ### Queue controllers, network, regions -/

/-- The edges of a queue controller's fabric clocks store, discard, count and give entries with the pointers of R255; enabling arms
it, an illegal setting raises CFG_ERR, disabling empties it; pushes leave when 32 entries wait, at an END entry, or at PUSHWAIT
(R254-R262, R264, R272). -/
def Obligations.QueueControllersComplete : Prop :=
  (∀ (s : State) (d : Fin 4) (q : Fin 512), running s = true →
      let x := getQc s d q
      let y := wEdge x
      let free := freeOf s d q x
      let thr := qcAt d q 0x18
      (∀ v e, (qcWriteEnd s d q = true → treeRuns s (qcRegion d q) (qcWtree s d q) = false) → exec (.qcWrite d q v e) s = .next s) ∧
      (qcWriteEnd s d q = true → treeRuns s (qcRegion d q) (qcWtree s d q) = true →
        (∀ e, flag s (qcCfg d q) 60 = false →
          (1 ≤ free → exec (.qcWrite d q true e) s = .next (putWrite s d q (pushEntry y e))) ∧
          (free = 0 → exec (.qcWrite d q true e) s = .next (putWrite s d q y)) ∧
          exec (.qcWrite d q false e) s = .next (putWrite s d q y)) ∧
        (∀ e, flag s (qcCfg d q) 60 = true → x.pending = 0 ∨ free < 2 →
          (2 ≤ free → exec (.qcWrite d q true e) s = .next (putWrite s d q (pushEntry y (lossyEntry e)))) ∧
          (free < 2 → exec (.qcWrite d q true e) s = .next
            (putWrite (satFld s thr 63 32) d q { y with pending := x.pending + 1 })) ∧
          exec (.qcWrite d q false e) s = .next (putWrite s d q y)) ∧
        (∀ e, flag s (qcCfg d q) 60 = true → x.pending ≠ 0 → 2 ≤ free →
          exec (.qcWrite d q false e) s = .next
            (putWrite (incFld s thr 31 16) d q { pushEntry y (gapMarker x.pending) with pending := 0 }) ∧
          exec (.qcWrite d q true e) s = .next
            (putWrite (incFld (satFld s thr 63 32) thr 31 16) d q { pushEntry y (gapMarker (x.pending + 1)) with pending := 0 }))) ∧
      (∀ ecc, (qcReadEnd s d q = true → treeRuns s (qcRegion d q) (qcRtree s d q) = false) → exec (.qcRead d q ecc) s = .next s) ∧
      (∀ ecc, qcReadEnd s d q = true → treeRuns s (qcRegion d q) (qcRtree s d q) = true →
        (x.entries = [] ∨ qcRlevel s d q x = 0 → exec (.qcRead d q ecc) s = .next (putQc s d q (rEdge x))) ∧
        (∀ e r, x.entries = e :: r → qcRlevel s d q x ≠ 0 →
          let s1 := qcEcc s d q (headBad x || ecc == .uncorrectable) (ecc == .corrected)
          let z := { rEdge x with entries := r, rp := x.rp + 1 }
          (qcMode s d q ≠ 1 ∨ sideEnd e = true → exec (.qcRead d q ecc) s = .next (qcTryGrant (putQc s1 d q z) d q)) ∧
          (qcMode s d q = 1 → sideEnd e = false → exec (.qcRead d q ecc) s = .next (qcTryGrant (qcCredit s1 d q z) d q))))) ∧
  (∀ (s : State) (d : Fin 4) (q : Fin 512), running s = true →
      let x := getQc s d q
      (∀ v, regionLive s (qcRegion d q) = true → qcOn s d q = false → bits v 62 61 ≠ 3 →
        (qcIllegal (setBit v 63 true) = false →
          exec (.qcEnable d q v) s = .next (qcStart (plainWrite s .qcCfg (qcCfg d q) (setBit v 63 true)) d q)) ∧
        (qcIllegal (setBit v 63 true) = true → exec (.qcEnable d q v) s = .next (setFlag s (qcCfg d q) 5 true))) ∧
      (∀ v, regionLive s (qcRegion d q) = true → qcOn s d q = true →
        (qcFixed (setBit v 63 true) ≠ qcFixed (rd s (qcCfg d q)) → exec (.qcEnable d q v) s = .next (setFlag s (qcCfg d q) 5 true)) ∧
        (qcFixed (setBit v 63 true) = qcFixed (rd s (qcCfg d q)) →
          exec (.qcEnable d q v) s = .next (plainWrite s .qcCfg (qcCfg d q) (setBit v 63 true)))) ∧
      (∀ v, regionLive s (qcRegion d q) = false → exec (.qcEnable d q v) s = .next s) ∧
      (regionLive s (qcRegion d q) = true → qcOn s d q = true → exec (.qcDisable d q) s = .next (qcOff s d q)) ∧
      (regionLive s (qcRegion d q) = false ∨ qcOn s d q = false → exec (.qcDisable d q) s = .next s) ∧
      (canPush s d q = false → exec (.qcPush d q) s = .next (if regionLive s (qcRegion d q) then qcAsk s d q else s)) ∧
      (canPush s d q = true → pushable s d q = [] → exec (.qcPush d q) s = .next s) ∧
      (∀ e r, canPush s d q = true → pushable s d q = e :: r → sideEnd e = true → exec (.qcPush d q) s = .next (sendEnd s d q)) ∧
      (∀ e r, canPush s d q = true → pushable s d q = e :: r → sideEnd e = false →
        (1 ≤ x.credits → 32 ≤ (pushRun s d q).length ∨ ((pushable s d q).take 33).any sideEnd = true →
          exec (.qcPush d q) s = .next (sendPush s d q)) ∧
        (x.credits = 0 ∨ (pushRun s d q).length < 32 ∧ ((pushable s d q).take 33).any sideEnd = false →
          exec (.qcPush d q) s = .next s)) ∧
      (canPush s d q = true → 1 ≤ x.credits → fld s (qcCfg d q) 32 17 ≠ 0 → pushRun s d q ≠ [] →
        exec (.pushwait d q) s = .next (sendPush s d q)) ∧
      (canPush s d q = false ∨ x.credits = 0 ∨ fld s (qcCfg d q) 32 17 = 0 ∨ pushRun s d q = [] →
        exec (.pushwait d q) s = .next s)) ∧
  (∀ (s : State) (d : Fin 4) (q : Fin 512),
      getQc (qcOff s d q) d q = {} ∧ qcOn (qcOff s d q) d q = false ∧ flag (qcOff s d q) (qcStat d q) 60 = false)

/-- The packets of queue streams are taken at their peers, and requests are answered with the status that the peer gives; a fenced
endpoint answers NOC_FENCED, or drops what has no response; a packet on its way waits. Rules: R184, R185, R186, R261, R262, R313. -/
def Obligations.QueuePacketsComplete : Prop :=
  ∀ (s : State) (p : Packet), running s = true → arrived s p = true →
    (p.fab = false → destFence s p = 0 →
      (p.op = 0x10 → exec (.push p) s = .next (answer (pushAt s p).2 p (pushAt s p).1)) ∧
      (p.op = 0x12 → exec (.reserve p) s = .next (answer (reserveAt s p).2 p (reserveAt s p).1)) ∧
      (p.op = 0x15 → exec (.endmark p) s = .next (answer (endmarkAt s p).2 p (endmarkAt s p).1)) ∧
      (p.op = 0x11 → exec (.credit p) s = .next (creditAt (takePkt s p) p)) ∧
      (p.op = 0x13 → exec (.grant p) s = .next (grantAt (takePkt s p) p))) ∧
    (∀ c : Instr, c = .push p ∧ p.op = 0x10 ∨ c = .reserve p ∧ p.op = 0x12 ∨ c = .endmark p ∧ p.op = 0x15 ∨ c = .credit p ∧ p.op = 0x11 ∨
        c = .grant p ∧ p.op = 0x13 →
      (isRequest p = true → destFence s p ≠ 0 → exec c s = .next (answer s p stNocFenced)) ∧
      (isRequest p = false → destFence s p = 2 → exec c s = .next (takePkt s p)))

/-- A request that the map refuses completes with the map's status; another is served, through its fence, at the endpoint that its
address selects, once it has come there. Rules: R12, R25, R33, R133, R223, R298, R301, R304, R467. -/
def Obligations.NetworkRequestsComplete : Prop :=
  ∀ (s : State) (p : Packet), running s = true → p.fab = false →
    let a := p.addr.toNat
    let m := mapStatus s.part (initiatorOf s p) a p.len
    (formed p = true → m ≠ 0 →
      (p.op = 0x01 → exec (.read p) s = .next (answer s p m)) ∧ (p.op = 0x02 → exec (.write p) s = .next (answer s p m))) ∧
    (p.op = 0x02 → inCsrSpace s.part a = true → p.data.length = p.len → m ≠ 0 → exec (.csrWrite p) s = .next (answer s p m)) ∧
    (arrived s p = true → destFence s p = 0 → m = 0 →
      (p.op = 0x01 → formed p = true → isCsr s.part a = true → exec (.read p) s = .next (csrReadReq s p)) ∧
      (p.op = 0x02 → formed p = true → isCsr s.part a = true → exec (.write p) s = .next (csrWriteReq s p)) ∧
      (p.op = 0x02 → inCsrSpace s.part a = true → p.data.length = p.len → exec (.csrWrite p) s = .next (csrWriteReq s p)) ∧
      (∀ t off, formed p = true → isCsr s.part a = false → classify s.part a = .scratch t off →
        (p.op = 0x01 → kmBehind s t off p = false → exec (.read p) s = .next (sendPkt (takePkt s p)
          (response p (windowRead s t off p.len).1 (windowRead s t off p.len).2.1 (windowRead s t off p.len).2.2))) ∧
        (p.op = 0x02 → kmBehind s t off p = false → kmHeld s t off p = false → exec (.write p) s = .next
          (answer (windowWrite s t off p.data p.poison.toNat).2 p (windowWrite s t off p.data p.poison.toNat).1)) ∧
        (p.op = 0x02 → kmHeld s t off p = true → windowRefusal s t off p.len = 0 →
          exec (.write p) s = .next (modTile (takePkt s p) t (fun x => { x with heldKm := x.heldKm ++ [p] })))) ∧
      (formed p = true → isCsr s.part a = false →
        classify s.part a = .userHbm ∨ classify s.part a = .firmware ∨ classify s.part a = .carveOut →
        (p.op = 0x01 → exec (.read p) s = .next (hbmReq s p)) ∧ (p.op = 0x02 → exec (.write p) s = .next (hbmReq s p))) ∧
      (∀ die n off, formed p = true → isCsr s.part a = false → classify s.part a = .cfg die n off →
        (p.op = 0x01 → exec (.read p) s = .next (cfgReq s (regionAt die n) off p)) ∧
        (p.op = 0x02 → exec (.write p) s = .next (cfgReq s (regionAt die n) off p)))) ∧
    (arrived s p = true → destFence s p = 0 → p.op = 0x20 →
      let r := signalAt s (BitVec.ofNat 64 (0x40 * 2 ^ 56 + p.od.aop.toNat * 2 ^ 53 + p.od.seq.toNat)) p.addr
      exec (.signalPacket p) s = .next (answer r.2 p r.1)) ∧
    (arrived s p = true → p.op = 0x61 →
      (flag s (grIrqAt (a % 1024)) 63 = true → exec (.irq p) s = .next
        { takePkt s p with imsic := mset false s.imsic (2048 * fld s (grIrqAt (a % 1024)) 62 59 + a % 1024 + 1) true }) ∧
      (flag s (grIrqAt (a % 1024)) 63 = false → exec (.irq p) s = .next (takePkt s p)))

/-- R311: a response reaches what its tag is held for when the tag is held and of the response's generation; another is
discarded. -/
def Obligations.NetworkResponsesComplete : Prop :=
  ∀ (s : State) (p : Packet), running s = true → isRequest p = false → destFence s p ≠ 2 → arrived s p = true →
    let g := getTag s p.dest.toNat p.tag.toNat
    let s1 := freeTag (takePkt s p) p.dest.toNat p.tag.toNat
    (∀ c : Instr, c = .readResp p ∧ p.op = 0x81 ∨ c = .writeAck p ∧ (p.op = 0x82 ∨ p.op = 0x95 ∨ p.op = 0xE0) ∨ c = .pushAck p ∧ p.op = 0x90 ∨
        c = .reserveAck p ∧ p.op = 0x92 ∨ c = .signalAck p ∧ p.op = 0xA0 →
      (g.use = none ∨ g.gen ≠ p.gen → exec c s = .next (takePkt s p)) ∧
      (g.gen = p.gen →
        (∀ u, g.use = some (.stream u) → exec c s = .next (streamResponseAt s p)) ∧
        (∀ t q id, g.use = some (.signal t q id) → exec c s = .next (signalEnded s1 t q id p.status.toNat)) ∧
        (∀ d q, g.use = some (.qc d q) → exec c s = .next (qcAnswered s1 d q p.status.toNat)) ∧
        (g.use = some .pcie → exec c s = .next { s1 with pcieOut := s1.pcieOut ++ [.completion p.status.toNat p.data] }) ∧
        (∀ r, g.use = some (.endpoint r) → exec c s = .next s1) ∧
        (∀ m, g.use = some (.mailbox m) → exec c s = .next (if p.status = 0 then mbPump s1 m else mbEnd s1 m p.status.toNat 0)) ∧
        (g.use = some .other → exec c s = .next s1)))

/-- A router takes a packet from its source, the link or the bridge into a buffer that has room, and sends on, answers or discards it
by the active table; replays, modules and router faults act on their links. Rules: R299, R300, R303, R305-R308, R310, R311. -/
def Obligations.NetworkPartsComplete : Prop :=
  ∀ (s : State) (d : Fin 4), running s = true →
    (∀ (r : Fin 128) (p : Packet), mget false s.noc.stopped (128 * d + r) = true → exec (.routerHop d r p) s = .next s) ∧
    (∀ (r : Fin 128) (p : Packet), mget false s.noc.stopped (128 * d + r) = false →
      (badHeader p = true → exec (.routerHop d r p) s = .next (logEvent (takePkt s p) 0x0022 d r 2 (headerWord p))) ∧
      (badHeader p = false →
        (∀ k, flightOf s p = none → entryPort s d r p = some k →
          inOrder s p = true → draining s d = false → portRoom s d r k { p with dclass := false } = true →
          exec (.routerHop d r p) s = .next (receive s d r k p { p with dclass := false })) ∧
        (∀ k, flightOf s p = none → entryPort s d r p = some k →
          inOrder s p = false ∨ draining s d = true ∨ portRoom s d r k { p with dclass := false } = false → exec (.routerHop d r p) s = .next s) ∧
        (flightOf s p = none → entryPort s d r p = none → exec (.routerHop d r p) s = .next s) ∧
        (∀ f k, flightOf s p = some f → f.place = .link d r k → exec (.routerHop d r p) s = .next (receive s d r k p p)) ∧
        (∀ f k, flightOf s p = some f → f.place = .buffer d r k →
          (portFor s d r f.p = 7 → isRequest f.p = true → exec (.routerHop d r p) s = .next (answer s f.p stNocFenced)) ∧
          (portFor s d r f.p = 7 → isRequest f.p = false → exec (.routerHop d r p) s = .next (takePkt s f.p)) ∧
          (portFor s d r f.p = 4 ∨ portFor s d r f.p = 5 → exec (.routerHop d r p) s = .next s) ∧
          (∀ l a, portFor s d r f.p ∉ [4, 5, 7] → granted s d r (portFor s d r f.p) = some f →
            linkOf r (portFor s d r f.p) = some l → nextPlace s d r (portFor s d r f.p) f.p = some a →
            exec (.routerHop d r p) s = .next (placePkt (countWaits (setFails s d l 0) d r (portFor s d r f.p) f) f.p a.1 a.2))) ∧
        (∀ f x b m, flightOf s p = some f → f.place = .bridge x b m → farDie x b = d → (enterRouters d x).contains r.val = true →
          draining s d = false → portRoom s d r 6 { p with dclass := false } = true →
          exec (.routerHop d r p) s = .next (receive s d r 6 p { p with dclass := false })))) ∧
    (∀ (l : Fin 266) (w : WireFlit) fs, linkState s d l = 2 ∨ linkCrc w.data w.side = w.crc.toNat →
      exec (.linkReplay d l ⟨w, fs⟩) s = .next s) ∧
    (∀ (l : Fin 266) (w : WireFlit), linkCrc w.data w.side ≠ w.crc.toNat → linkState s d l ≠ 2 →
      (∀ fs, mget 0 s.noc.fails (512 * d + l) < 7 →
        exec (.linkReplay d l ⟨w, fs⟩) s = .next (setFails s d l (mget 0 s.noc.fails (512 * d + l) + 1))) ∧
      (7 ≤ mget 0 s.noc.fails (512 * d + l) →
        exec (.linkReplay d l ⟨w, []⟩) s = .next (setFails s d l 0) ∧
        (∀ g : Fin 36, linkState (setFails s d l 0) d l = 0 → g.val < 35 → exec (.linkReplay d l ⟨w, [g]⟩) s = .next
          (logEvent (setFld (setFails s d l 0) (nocLinkAt d l) 63 56 (64 + g)) 0x0020 d l 1 g)) ∧
        (linkState (setFails s d l 0) d l = 0 → exec (.linkReplay d l ⟨w, [35]⟩) s = .next (setFails s d l 0)) ∧
        (∀ g : Fin 36, linkState (setFails s d l 0) d l = 1 → exec (.linkReplay d l ⟨w, [g]⟩) s = .next
          (logEvent (downLink (setFails s d l 0) d l) 0x0021 d l 2 0)) ∧
        (∀ g h : Fin 36, g ≠ h → exec (.linkReplay d l ⟨w, [g, h]⟩) s = .next
          (logEvent (downLink (setFails s d l 0) d l) 0x0021 d l 2 0)))) ∧
    (∀ (b : Fin 5) (m : Fin 4), moduleUp s d b m = false →
      exec (.ucieLaneRepair d b m) s = .next s ∧ ∀ lost, exec (.ucieModule d b m lost) s = .next s) ∧
    (∀ (b : Fin 5) (m : Fin 4), moduleUp s d b m = true →
      exec (.ucieLaneRepair d b m) s = .next { s with noc := { s.noc with
        ucieRepaired := mset 0 s.noc.ucieRepaired (moduleKey d b m) (mget 0 s.noc.ucieRepaired (moduleKey d b m) + 1) } } ∧
      (let s1 := logEvent { s with noc := { s.noc with ucieOut := mset false s.noc.ucieOut (moduleKey d b m) true,
                                                       bridgeHold := mset false s.noc.bridgeHold (bridgeKey d b) true } }
        0x0024 d (142 + b) 2 m
       let dies := if b.val = 4 then [0, 1, 2, 3] else [d.val]
       exec (.ucieModule d b m []) s = .next
         (if dies.any (fun x => (List.range (bridgeModules b)).any (moduleUp s1 x b)) then s1 else devFail s1 0x0024 d))) ∧
    (∀ r : Fin 128, mget false s.noc.stopped (128 * d + r) = true → exec (.routerFault d r) s = .next s) ∧
    (∀ r : Fin 128, mget false s.noc.stopped (128 * d + r) = false → ∃ u, exec (.routerFault d r) s = .next u ∧
      u.noc.stopped = mset false s.noc.stopped (128 * d + r) true ∧
      (∀ k, k < 266 → ((∃ port, port ∈ [0, 1, 2, 3, 6] ∧ linkOf r port = some k) → linkState u d k = 2) ∧
        (¬(∃ port, port ∈ [0, 1, 2, 3, 6] ∧ linkOf r port = some k) → rd u (nocLinkAt d k) = rd s (nocLinkAt d k)))) ∧
    (∀ (node : Fin 4096) (tag : Fin 1024), (getTag s node tag).use = none → exec (.initiatorTimeout node tag) s = .next s) ∧
    (∀ (node : Fin 4096) (tag : Fin 1024) u, (getTag s node tag).use = some u →
      exec (.initiatorTimeout node tag) s = .next (completeTag (expireTag s node tag) u stNocTimeout))

/-- A route change writes the shadow table, drains, and makes the entries of its die active once its buffers are empty, or ends
NOC_ROUTE_FAIL (R309); a fence drains or abandons, is done when its endpoint has served what it accepted and has no request
outstanding, tells so, and opens again (R313). -/
def Obligations.RouteChangesAndFences : Prop :=
  (∀ (s : State) (d : Fin 4), running s = true →
      (∀ v, rtState s d ≠ 1 → (bit v 56 = false ∨ bits v 55 48 ≤ 8) → ∃ u, exec (.nocRtw d v) s = .next u ∧
        routeEntry u.noc.shadow d (bits v 63 57) (bit v 56) (bits v 55 48) = bits v 47 45 ∧
        (∀ k, k ≠ routeKey d (bits v 63 57) (bit v 56) (bits v 55 48) → mfind u.noc.shadow k = mfind s.noc.shadow k) ∧
        u = { s with noc := { s.noc with shadow := u.noc.shadow } }) ∧
      (∀ v, rtState s d = 1 ∨ (bit v 56 = true ∧ 8 < bits v 55 48) → exec (.nocRtw d v) s = .next s) ∧
      (rtState s d ≠ 1 → exec (.swap d) s = .next (setFld s (rtctl d) 62 61 1)) ∧
      (rtState s d = 1 → exec (.swap d) s = .next s) ∧
      (rtState s d = 1 → s.noc.flights.any (fun f => onDie d f.place) = false → exec (.routeSwapDone d) s = .next
        (setFld { s with noc := { s.noc with active := swapped s.noc.active s.noc.shadow d } } (rtctl d) 62 53 (2 * 256 + stOk))) ∧
      (rtState s d ≠ 1 ∨ s.noc.flights.any (fun f => onDie d f.place) = true → exec (.routeSwapDone d) s = .next s) ∧
      (rtState s d = 1 → exec (.nocRouteFail d) s = .next
        (logEvent (setFld s (rtctl d) 62 53 (2 * 256 + stNocRouteFail)) 0x0023 d 0 2 stNocRouteFail)) ∧
      (rtState s d ≠ 1 → exec (.nocRouteFail d) s = .next s)) ∧
  (∀ (s : State) (d : Fin 4) (ep : Fin 256), running s = true →
      let a := nocEpAt d ep
      (epPresent s.part ep = false → exec (.fenceDrain d ep) s = .next s ∧ exec (.fenceAbandon d ep) s = .next s) ∧
      (epPresent s.part ep = true →
        (fstate s d ep = 0 → exec (.fenceDrain d ep) s = .next (setFld (setAbandon s d ep false) a 55 54 1)) ∧
        (fstate s d ep = 1 → exec (.fenceDrain d ep) s = .next s) ∧
        (fstate s d ep = 0 ∨ fstate s d ep = 1 ∧ abandoning s d ep = false → exec (.fenceAbandon d ep) s = .next
          (abandonNode (setAbandon (setFld s a 55 54 1) d ep true) (d * 256 + ep))) ∧
        (fstate s d ep = 1 → abandoning s d ep = true → exec (.fenceAbandon d ep) s = .next s) ∧
        (fstate s d ep = 2 → exec (.fenceDrain d ep) s = .next s ∧ exec (.fenceAbandon d ep) s = .next s)) ∧
      (fstate s d ep = 1 → tagsOf s (d * 256 + ep) = [] → epServed s d ep = true → exec (.fenceDone d ep) s = .next
        (sendPkt (setFld s a 55 54 2) { op := 0x62, vc := 3, src := nodeOf d ep, dest := csrNode d })) ∧
      (fstate s d ep ≠ 1 ∨ tagsOf s (d * 256 + ep) ≠ [] ∨ epServed s d ep = false → exec (.fenceDone d ep) s = .next s) ∧
      (fstate s d ep = 2 → epPowered s d ep = true → ep.val < 102 ∨ 118 ≤ ep.val →
        exec (.unfence d ep) s = .next (setFld s a 55 54 0)) ∧
      (fstate s d ep = 2 → 102 ≤ ep.val → ep.val < 118 →
        (fld s (cfgAt d (ep.val - 102) 8) 63 60 = 3 ∨ fld s (cfgAt d (ep.val - 102) 8) 63 60 = 4 →
          exec (.unfence d ep) s = .next (setFld s a 55 54 0)) ∧
        (fld s (cfgAt d (ep.val - 102) 8) 63 60 ≠ 3 → fld s (cfgAt d (ep.val - 102) 8) 63 60 ≠ 4 → exec (.unfence d ep) s = .next s)) ∧
      (fstate s d ep ≠ 2 → exec (.unfence d ep) s = .next s) ∧
      (∀ p, fstate s d ep ≠ 0 → p.dest = nodeOf d ep → p.op = 0x01 → p.vc = 0 → formed p = true → arrived s p = true →
        (p.fab = true ∨ mapStatus s.part (initiatorOf s p) p.addr.toNat p.len = 0) →
        exec (.read p) s = .next (answer s p stNocFenced)))

/-- User PLLs, regional trees and pins; a port of a block memory at 9 bits; the requests of a region's endpoint
(R243-R247, R249-R253, R266-R271, R298, R308). -/
def Obligations.RegionBlocksComplete : Prop :=
  (∀ (s : State) (d : Fin 4) (r : RegionId) (k : Fin 8) (v : Word), running s = true →
      let a := lrClkAt r.die r.n k
      let others := fun (u : State) => (∀ b, b ≠ a → rd u b = rd s b) ∧ (∀ x, x ≠ r → getRegion u x = getRegion s x)
      (∀ u : Fin 4,
        (pllBad (rd s (lrPllAt d u)) v = true → exec (.lrPllWrite d u v) s = .next (setFlag s (lrPllAt d u) 45 true)) ∧
        (pllBad (rd s (lrPllAt d u)) v = false → exec (.lrPllWrite d u v) s = .next
          (if bit v 63 then plainWrite s .lrPll (lrPllAt d u) v else setFlag (plainWrite s .lrPll (lrPllAt d u) v) (lrPllAt d u) 47 false)) ∧
        (flag s (lrPllAt d u) 63 = true → exec (.pllLock d u) s = .next (setFlag s (lrPllAt d u) 47 true)) ∧
        (flag s (lrPllAt d u) 63 = false → exec (.pllLock d u) s = .next s) ∧
        (flag s (lrPllAt d u) 63 = true → flag s (lrPllAt d u) 47 = true → exec (.locklost d u) s = .next
          (logEvent (setFlag (setFlag s (lrPllAt d u) 47 false) (lrPllAt d u) 46 true) 0x0034 d u 2 1)) ∧
        (flag s (lrPllAt d u) 63 = false ∨ flag s (lrPllAt d u) 47 = false → exec (.locklost d u) s = .next s)) ∧
      (∃ u, exec (.clockSelect r k v) s = .next u ∧ fld u a 62 60 = bits v 62 60 ∧ fld u a 59 52 = fld s a 59 52 ∧ flag u a 63 = flag s a 63 ∧
        flag u a 51 = (flag s a 51 || bits v 62 60 != fld s a 62 60) ∧ others u) ∧
      exec (.clockSwitchDone r k) s = .next (setFlag s a 51 false) ∧
      (flag s a 51 = true → exec (.forced r k) s = .next (setFlag (setFlag s a 51 false) a 49 true)) ∧
      (flag s a 51 = false → exec (.forced r k) s = .next s) ∧
      (∃ u, exec (.clockDivide r k v) s = .next u ∧ fld u a 59 52 = bits v 59 52 ∧ fld u a 62 60 = fld s a 62 60 ∧ flag u a 63 = flag s a 63 ∧
        flag u a 51 = flag s a 51 ∧ others u) ∧
      (∃ u, exec (.clockEnable r k) s = .next u ∧ flag u a 63 = true ∧ fld u a 62 51 = fld s a 62 51 ∧ others u) ∧
      (∃ u, exec (.clockDisable r k) s = .next u ∧ flag u a 63 = false ∧ fld u a 62 51 = fld s a 62 51 ∧ treeRuns u r k = false ∧
        mget false (getRegion u r).stopped k = false ∧ others u) ∧
      (∀ n, 1020 < n → treeRuns s r k = true → exec (.overspeed r k n) s = .next (logEvent
        (setFlag (setRegion s r { getRegion s r with stopped := mset false (getRegion s r).stopped k true }) a 50 true)
        0x0034 r.die (0x100 + 8 * r.n.val + k.val) 2 2)) ∧
      (∀ n, n ≤ 1020 ∨ treeRuns s r k = false → exec (.overspeed r k n) s = .next s) ∧
      (∀ b, let s1 := setFlag { s with supply := mset none s.supply d (some b) } (ioBankAt d) 61 (flag s (ioBankAt d) 62 == b)
        exec (.ioBank d b) s = .next (if flag s (ioBankAt d) 62 = b then s1 else logEvent s1 0x0035 d d 2 0)) ∧
      exec (.ioBankLock d) s = .next (setFlag s (ioBankAt d) 63 true) ∧
      (∀ (p : Fin 24) (o : Bool),
        let w := if o then fld s (ioPinAt d p) 48 42 else fld s (ioPinAt d p) 55 49
        let i := 64 * d.val + 2 * p.val + (if o then 1 else 0)
        let n := mget 0 s.taps i
        exec (.ioDelayStep d p o) s = .next
          { s with taps := mset 0 s.taps i (if n < w then n + 1 else if w < n then n - 1 else n) })) ∧
  (∀ (s : State) (r : RegionId), running s = true →
      (∀ (m : Fin 64) (b : Bool) (a : BramAccess) ecc, treeRuns s r a.tree = false ∨ a.en = false ∨ a.width ∉ [1, 2, 4, 9, 18, 36, 72] →
        exec (.bramAccess r m b a ecc) s = .next s) ∧
      (∀ (m : Fin 64) (b : Bool) (a : BramAccess), treeRuns s r a.tree = true → a.en = true → a.width = 9 → a.clash = [] → a.addr < 8192 →
        let x := getRegion s r
        let k := 2 * m.val + (if b then 1 else 0)
        mget false x.bramUe (bramPhys m a.addr) = false →
        ∃ u, exec (.bramAccess r m b a .good) s = .next u ∧ u = { s with regions := u.regions, freeCtr := s.freeCtr + 16 } ∧
          (∀ y, y ≠ r → getRegion u y = getRegion s y) ∧
          (a.we.getLsbD 0 = false → (getRegion u r).bram = x.bram) ∧
          (a.we.getLsbD 0 = true → bramLane (getRegion u r) m a.addr = BitVec.ofNat 9 a.din.toNat ∧
            ∀ n l, (n : Nat) < 64 → l < 8192 → (n ≠ m.val ∨ l ≠ a.addr) → bramLane (getRegion u r) n l = bramLane x n l) ∧
          (let shown := BitVec.ofNat 72 (if a.we.getLsbD 0 = true ∧ a.wmode = 0 then a.din.toNat % 512 else (bramLane x m a.addr).toNat)
           (a.we.getLsbD 0 = false ∨ a.wmode = 0 ∨ a.wmode = 1) →
             (a.oreg = false → mget 0 (getRegion u r).dout k = shown ∧ mget false (getRegion u r).derr k = false) ∧
             (a.oreg = true → mget none (getRegion u r).dlat k = some (shown, false) ∧
               (getRegion u r).dout = (showLatched x k).dout)) ∧
          (a.we.getLsbD 0 = true → a.wmode = 2 → (getRegion u r).dout = (showLatched x k).dout)) ∧
      (∀ (w fab : Bool) (addr : BitVec 64) (len : Nat) (ord : Fin 4) (data : List Byte) (tag : Fin 256),
        let g := getTag s (regNode r) tag
        let s1 := holdTag s (regNode r) tag (.endpoint r)
        let p : Packet := { op := if w then 0x02 else 0x01, nflit := BitVec.ofNat 3 (cdiv (if w then data else []).length 64), len, fab,
                            src := BitVec.ofNat 12 (regNode r), tag := BitVec.ofNat 10 tag, gen := g.gen, addr,
                            od := { ord := BitVec.ofNat 2 ord }, data := if w then data else [] }
        let e := mapStatus s.part .region addr.toNat len
        (endpointClocked s r = true → fstate s r.die (102 + r.n.val) = 0 → g.use = none → endpointOk w addr.toNat len data = true →
          (fab = true → exec (.endpointRequest r w fab addr len ord data tag) s = .next
            (inject s1 { p with dest := engineNode s1 (addr.toNat / 2 ^ 44) })) ∧
          (fab = false → e ≠ 0 → exec (.endpointRequest r w fab addr len ord data tag) s = .next (refuseAtOnce s1 p e)) ∧
          (fab = false → e = 0 → exec (.endpointRequest r w fab addr len ord data tag) s = .next
            (inject s1 { p with dest := serveNode s1 addr.toNat }))) ∧
        (endpointClocked s r = false ∨ fstate s r.die (102 + r.n.val) ≠ 0 ∨ g.use ≠ none ∨ endpointOk w addr.toNat len data = false →
          exec (.endpointRequest r w fab addr len ord data tag) s = .next s)))

/-- Each configuration command acts in its states, and in another leaves the region and shows CFG_STATE (R273-R287). -/
def Obligations.ConfigurationCompletes : Prop :=
  (∀ (s : State) (r : RegionId), running s = true →
      let x := getRegion s r
      let bad := fld s (cfgReg r 8) 38 27
      (regState s r ≠ 1 ∨ regBusy s r = true → exec (.cfgBegin r) s = .next (cfgWipe s r 1 1)) ∧
      exec (.cfgClear r) s = .next (cfgWipe s r 7 0) ∧
      (x.busy = 1 ∨ x.busy = 7 → exec (.cfgClearDone r) s = .next (cfgIdle s r)) ∧
      (x.busy ≠ 1 → x.busy ≠ 7 → exec (.cfgClearDone r) s = .next s) ∧
      (∀ d, regState s r = 1 → regBusy s r = false →
        exec (.loadPortWrite r d) s = .next (setRegion s r { x with load := x.load ++ d })) ∧
      (regState s r = 1 → regBusy s r = false →
        let a := fld s (cfgReg r 0x10) 47 0
        let n := fld s (cfgReg r 0x18) 31 0
        (userEnd s.part < a + n → exec (.cfgFetch r) s = .next (setCfgStatus s r stNocDenied)) ∧
        (a + n ≤ userEnd s.part → rangeRefusal s .region a n ≠ 0 → exec (.cfgFetch r) s = .next (setCfgStatus s r (rangeRefusal s .region a n))) ∧
        (a + n ≤ userEnd s.part → rangeRefusal s .region a n = 0 → exec (.cfgFetch r) s = .next
          (fetchMore (cfgBusy (setRegion s r { x with fetching := n }) r 2 1) r))) ∧
      (x.busy = 2 → x.fetching = 0 →
        let t := takeItems r (itemsDue s r) s
        exec (.cfgFetchDone r) s = .next (if (getRegion t r).busy = 2 then cfgIdle t r else t)) ∧
      (x.busy ≠ 2 → exec (.cfgFetchDone r) s = .next s) ∧
      (x.fetching = 0 → regState s r = 1 → regBusy s r = false ∨ x.busy = 2 → loadReady x = true →
        (∀ f, x.header = some f →
          exec (.cfgFrame r) s = .next (takeFrame (setRegion s r { x with load := x.load.drop 1048 }) r (x.load.take 1048))) ∧
        (x.header = none → ∀ h, parseHeader (x.load.take 3520) = some h →
          exec (.cfgFrame r) s = .next (modRegion (setRegion s r { x with load := x.load.drop 3520 }) r (fun x => { x with header := some h }))) ∧
        (x.header = none → parseHeader (x.load.take 3520) = none →
          exec (.cfgFrame r) s = .next (loadFail (setRegion s r { x with load := x.load.drop 3520 }) r stCfgFrame
            (fld (setRegion s r { x with load := x.load.drop 3520 }) (cfgReg r 8) 38 27)))) ∧
      (x.fetching = 0 → regState s r ≠ 1 ∨ loadReady x = false ∨ (regBusy s r = true ∧ x.busy ≠ 2) → exec (.cfgFrame r) s = .next s) ∧
      (∀ h, regState s r = 1 → regBusy s r = false → loadReady x = false → x.header = some h →
        (x.seen.length ≠ h.frames ∨ (x.seen.filter (· < 1730)).length ≠ 1730 → exec (.cfgCommit r) s = .next (loadFail s r stCfgFrame bad)) ∧
        (x.seen.length = h.frames → (x.seen.filter (· < 1730)).length = 1730 →
          (leBytes 64 (Config.sha512 x.frames).toNat = h.digest → exec (.cfgCommit r) s = .next (cfgBusy s r 3 1)) ∧
          (leBytes 64 (Config.sha512 x.frames).toNat ≠ h.digest → exec (.cfgCommit r) s = .next (loadFail s r stAuthFail bad)))) ∧
      (regState s r = 1 → regBusy s r = false → loadReady x = false → x.header = none →
        exec (.cfgCommit r) s = .next (loadFail s r stCfgFrame bad)) ∧
      (x.busy = 3 →
        (x.header.map (·.crc) = some (regionCrc x) → exec (.commitReadbackDone r) s = .next (cfgIdle (setRegState s r 2) r)) ∧
        (x.header.map (·.crc) ≠ some (regionCrc x) → exec (.commitReadbackDone r) s = .next (loadFail s r stCfgCrc bad))) ∧
      (x.busy ≠ 3 → exec (.commitReadbackDone r) s = .next s) ∧
      (regState s r = 2 → regBusy s r = false → ∃ u, exec (.cfgRelease r) s = .next u ∧ regState u r = 3 ∧ fld u (cfgReg r 8) 58 51 = stOk ∧
        getRegion u r = { holdLogic x with stopped := [] } ∧ (∀ y, y ≠ r → getRegion u y = getRegion s y) ∧
        (∀ k : Fin 8, fld u (lrClkAt r.die r.n k) 63 52 =
          bits (BitVec.ofNat 64 (leNat ((List.range 8).map (fun i => cfgByte x (8 * k + i))))) 63 52) ∧
        (∀ q : Fin 512, q.val / 32 = r.n.val → qcOn u r.die q = false) ∧
        fstate u r.die (102 + r.n.val) = 0 ∧ u.tiles = s.tiles ∧ u.hbm = s.hbm) ∧
      (regState s r = 3 → regBusy s r = false → exec (.cfgHalt r) s = .next (setCfgStatus (setRegState s r 4) r stOk)) ∧
      (regState s r = 4 → regBusy s r = false → exec (.cfgResume r) s = .next (setCfgStatus (setRegState s r 3) r stOk)) ∧
      (∀ w e again, regState s r ≤ 1 ∨ 221440 ≤ w → exec (.cfgScrubRead r w e again) s = .next s) ∧
      (2 ≤ regState s r → ∀ w, w < 221440 →
        (∀ again, exec (.cfgScrubRead r w .good again) s = .next s) ∧
        exec (.cfgScrubRead r w .corrected false) s = .next (upsetFfs (incFld s (cfgReg r 0x20) 59 44) r) ∧
        (∃ u, exec (.cfgScrubRead r w .corrected true) s = .next u ∧ w ∈ (getRegion u r).hardWords ∧
          fld u (cfgReg r 0x20) 59 44 = (fld s (cfgReg r 0x20) 59 44 + 1) % 65536) ∧
        (∀ again, exec (.cfgScrubRead r w .uncorrectable again) s = .next (cfgUncorr s r w)))) ∧
  (∀ (s : State) (r : RegionId), running s = true → ∀ c : Instr,
      (c = .cfgBegin r ∧ regState s r = 1 ∧ regBusy s r = false ∨
       (regState s r ≠ 1 ∨ regBusy s r = true) ∧ (c = .cfgFetch r ∨ c = .cfgCommit r ∨ ∃ d, c = .loadPortWrite r d) ∨
       (regState s r ≠ 2 ∨ regBusy s r = true) ∧ c = .cfgRelease r ∨
       (regState s r ≠ 3 ∨ regBusy s r = true) ∧ c = .cfgHalt r ∨
       (regState s r ≠ 4 ∨ regBusy s r = true) ∧ c = .cfgResume r) →
      exec c s = .next (setFld s (cfgReg r 8) 58 51 stCfgState))

/-! ### Freeze, HBM, fabric, twins -/

/-- A trigger freezes the device from the running state, a thaw returns it there, the read-out gives its result; each of them in
another state has no effect. Rules: R288, R289, R290, R292, R293, R294, R504. -/
def Obligations.FreezeCompletes : Prop :=
  ∀ (s : State),
    (∀ v : BitVec 8, v = 1 ∨ v = 2 → amberState s = 0 → s.pins.pwrGood = true →
      exec (.freeze v) s = .next (freezeNow s (v == 2) (objN s 0xF010 3) 2 0)) ∧
    (∀ v : BitVec 8, amberState s ≠ 0 ∨ (v ≠ 1 ∧ v ≠ 2) → exec (.freeze v) s = .next s) ∧
    (∀ p pair hops, portState s p = 6 → freezeAccepted s p pair = true → exec (.freezeMessage p pair hops) s = .next
      (freezeNow s (pair || toTwin s p) hops 3 ((partnerDev s p).getD 0))) ∧
    (∀ p pair hops, portState s p ≠ 6 ∨ freezeAccepted s p pair = false → exec (.freezeMessage p pair hops) s = .next s) ∧
    (let s1 := { s with pins := { s.pins with amberN := false } }
     (2 ≤ s.bootStep → exec (.amberN true) s = .next (freezeNow s1 (objN s1 0xF011 2 == 1) (objN s1 0xF011 3) 1 0)) ∧
     (s.bootStep < 2 → exec (.amberN true) s = .next s1)) ∧
    exec (.amberN false) s = .next { s with pins := { s.pins with amberN := true } } ∧
    (∀ pair hops cause source, amberState s = 0 → s.pins.pwrGood = true → cause < 256 → source < 2 ^ 32 →
      let u := freezeNow s pair hops cause source
      amberState u = 2 ∧ objN u 0xF012 2 = cause ∧ objN u 0xF012 3 = (if pair then 1 else 0) ∧ objN u 0xF012 4 = source ∧
        running u = false ∧ hbmSelfRefresh u = true ∧ (∀ p, electricalIdle u p = true) ∧ u.tiles = s.tiles ∧ u.hbm = s.hbm ∧ u.regions = s.regions ∧ u.noc = s.noc ∧
        u.linkOut = s.linkOut ++ (allPorts s).flatMap (freezeMsg s pair hops) ∧
        ∀ a, a ≠ wdogAt → a ≠ logNewAt → a ≠ logOvrAt → rd u a = rd s a) ∧
    (∀ pair hops cause source, amberState s ≠ 0 ∨ s.pins.pwrGood = false → freezeNow s pair hops cause source = s) ∧
    (amberState s = 2 → s.pins.amberN = true → ∃ u, exec (.thaw 1) s = .next u ∧ amberState u = 0 ∧ hbmSelfRefresh u = false ∧ u.tiles = s.tiles ∧
      u.regions = s.regions ∧ u.noc = s.noc ∧ u.beat = nowNs u 4 ∧
      (∀ p, p ∈ allPorts s → 2 ≤ portState s p → portState s p ≤ 7 → portState u p = 1)) ∧
    (∀ v : BitVec 8, v ≠ 1 ∨ amberState s ≠ 2 ∨ s.pins.amberN = false → exec (.thaw v) s = .next s) ∧
    (∃ u, exec .readout s = .next u ∧ objN u 0xF020 5 = (readoutNow s).1 % 256 ∧ objGet u 0xF020 4 = (readoutNow s).2 ∧
      u = { s with mgmt := u.mgmt, freeCtr := s.freeCtr + 0x1000 })

/-- Requests enter a port's queue or are refused, are admitted, and are served as reads or writes. Rules: R182, R322-R326, R328, R332,
R334, R336, R337. -/
def Obligations.HbmRequestsComplete : Prop :=
  ∀ (s : State) (d : Fin 4) (ch : Fin 48) (pc : Fin 2), running s = true →
    (∀ p, isHbmReq s p = false ∨ arrived s p = false → exec (.hbmAccept p) s = .next s) ∧
    (∀ p, isHbmReq s p = true → arrived s p = true → isRequest p = true → destFence s p ≠ 0 →
      exec (.hbmAccept p) s = .next (answer s p stNocFenced)) ∧
    (∀ p, isHbmReq s p = true → arrived s p = true → destFence s p = 0 →
      let pd := hbmDie s (offsetOf p)
      let ep := hbmPortEp s.part (hbmJ s (offsetOf p))
      (hbmScreen s p ≠ 0 → exec (.hbmAccept p) s = .next (answer s p (hbmScreen s p))) ∧
      (hbmScreen s p = 0 → (portQueue s pd ep).length < 256 → exec (.hbmAccept p) s = .next
        (takePkt (setPortQueue s pd ep (portQueue s pd ep ++ [{ p, ts := nowNs s pd }])) p)) ∧
      (hbmScreen s p = 0 → 256 ≤ (portQueue s pd ep).length → exec (.hbmAccept p) s = .next s)) ∧
    (let x := getPc s d ch pc
     let ep := hbmPortEp s.part ch
     let mine := (portQueue s d ep).filter (fun r => hbmJ s (offsetOf r.p) == ch && hbmPc s (offsetOf r.p) == pc)
     (64 ≤ x.queue.length ∨ chZeroing s d ch = true ∨ admitChoice s d (unblocked [] mine) = none → exec (.hbmAdmit d ch pc) s = .next s) ∧
     ∀ r, x.queue.length < 64 → chZeroing s d ch = false → admitChoice s d (unblocked [] mine) = some r →
       let s0 := setPortQueue s d ep ((portQueue s d ep).erase r)
       let s1 := setPc s0 d ch pc { x with queue := x.queue ++ [r] }
       (hbmScreen s0 r.p ≠ 0 → exec (.hbmAdmit d ch pc) s = .next (answer s0 r.p (hbmScreen s0 r.p))) ∧
       (hbmScreen s0 r.p = 0 → r.p.op = 0x02 → exec (.hbmAdmit d ch pc) s = .next (ackWrite s1 r.p)) ∧
       (hbmScreen s0 r.p = 0 → r.p.op ≠ 0x02 → exec (.hbmAdmit d ch pc) s = .next s1)) ∧
    (let x := getPc s d ch pc
     (∀ errs, x.queue = [] ∨ chZeroing s d ch = true ∨ refreshFirst s d ch x = true ∨ slotChoice s d x = none →
       exec (.hbmCommandSlot d ch pc errs) s = .next s) ∧
     ∀ r errs, x.queue ≠ [] → chZeroing s d ch = false → refreshFirst s d ch x = false → slotChoice s d x = some r →
       let s1 := upsetBursts (setPc s d ch pc { x with queue := x.queue.erase r }) (offsetOf r.p) (pktLen r.p) errs
       (r.p.op = 0x02 → exec (.hbmCommandSlot d ch pc errs) s = .next (hbmStore s1 r.p none)) ∧
       (r.p.op ≠ 0x02 → chTrained s1 d ch = true → exec (.hbmCommandSlot d ch pc errs) s = .next (readAnswer s1 r.p)) ∧
       (r.p.op ≠ 0x02 → chTrained s1 d ch = false → exec (.hbmCommandSlot d ch pc errs) s = .next (answer s1 r.p stNocFenced)))

/-- Refresh, training, zeroing, delays, checks and repair act on their channel. Rules: R322, R328, R329, R330, R331, R332, R333, R337, R338, R339, R341, R411. -/
def Obligations.HbmChannelsComplete : Prop :=
  ∀ (s : State) (d : Fin 4) (ch : Fin 48) (pc : Fin 2), running s = true →
    exec .lock s = .next (setFlag s hbmMap 63 true) ∧
    (chFitted s.part ch = false →
      (∀ bank hot ups, exec (.refresh d ch pc bank ⟨hot, ups⟩) s = .next s) ∧ (∀ bank n, exec (.refreshManagement d ch pc bank n) s = .next s) ∧
      (∀ ok, exec (.sentinelRead d ch pc ok) s = .next s) ∧ (∀ on, exec (.trained d ch on) s = .next s) ∧ exec (.zero d ch) s = .next s ∧
      exec (.recheckDue d ch) s = .next s ∧ exec (.apply d ch) s = .next s ∧ (∀ b e, exec (.patrolScrub d ch pc b e) s = .next s)) ∧
    (chFitted s.part ch = true →
    let x := getPc s d ch pc
    let a := hbmChAt d ch
    (∀ (bank : Fin 32) hot (ups : List (Nat × Ecc)),
      let s1 := (ups.filter (fun e => e.1 < 24576 * 32)).foldl (fun s e =>
        upset s (hbmKey s (hbmAddrOf s d ch pc bank (e.1 / 32) (e.1 % 32))) e.2) s
      exec (.refresh d ch pc bank ⟨hot, ups⟩) s = .next (setHot (setPc s1 d ch pc (refreshBank (getPc s1 d ch pc) bank)) d ch hot)) ∧
    (∀ (bank : Fin 32) hot, flag s a 59 = hot → exec (.refresh d ch pc bank ⟨hot, []⟩) s = .next
      (setPc s d ch pc { x with refreshed := mset 0 x.refreshed bank (mget 0 x.refreshed bank + 1), openRow := mdel x.openRow bank })) ∧
    (∀ (bank : Fin 32) n, 0 < n → n ≤ mget 0 x.acts bank → exec (.refreshManagement d ch pc bank n) s = .next
      (setPc s d ch pc { x with acts := mset 0 x.acts bank (mget 0 x.acts bank - n), openRow := mdel x.openRow bank })) ∧
    (∀ (bank : Fin 32) n, n = 0 ∨ mget 0 x.acts bank < n → exec (.refreshManagement d ch pc bank n) s = .next s) ∧
    exec (.sentinelRead d ch pc true) s = .next s ∧
    exec (.sentinelRead d ch pc false) s = .next (devFail (logEvent s 0x0012 d ch 3 pc) 0x0012 d) ∧
    (∀ on, exec (.trained d ch on) s = .next (setFlag (if on && !chTrained s d ch then hardRepairs s d ch else s) a 63 on)) ∧
    (chTrained s d ch = true → exec (.zero d ch) s = .next (setFlag s a 62 true)) ∧
    (chTrained s d ch = false → exec (.zero d ch) s = .next s) ∧
    (flag s a 60 = true → exec (.recheckDue d ch) s = .next s) ∧
    (flag s a 60 = false →
      let s1 := setPc s d ch 0 { getPc s d ch 0 with checked := false }
      let s2 := setPc s1 d ch 1 { getPc s1 d ch 1 with checked := false }
      exec (.recheckDue d ch) s = .next (logEvent (setFlag s2 a 60 true) 0x0013 d ch 1 0)) ∧
    (flag s a 61 = true → exec (.apply d ch) s = .next s) ∧
    (chTrained s d ch = false → flag s a 61 = false → exec (.apply d ch) s = .next (applyDelays (applyDelays s d ch 0) d ch 1)) ∧
    (chTrained s d ch = true → flag s a 61 = false →
      let s1 := setPc s d ch 0 { getPc s d ch 0 with applied := false }
      exec (.apply d ch) s = .next (setFlag (setPc s1 d ch 1 { getPc s1 d ch 1 with applied := false }) a 61 true)) ∧
    (∀ (b : Nat) e, chTrained s d ch = true → chZeroing s d ch = false → b < scrubBursts → x.queue = [] ∨ scrubBehind s d x = true →
      x.holdBank ≠ some (b / 32 % 32) →
      let ad := hbmAddrOf s d ch pc (b / 32 % 32) (b / 1024) (b % 32)
      let s1 := touchRow (upset s (hbmKey s ad) e) ad
      let s2 := if granPoison s1.hbm.mem (hbmKey s1 ad / 64) then s1 else readBurst s1 ad
      let y := getPc s2 d ch pc
      exec (.patrolScrub d ch pc b e) s = .next
        (if y.scrubPos % scrubBursts = b then setPc s2 d ch pc { y with scrubPos := y.scrubPos + 1 } else s2))) ∧
    (let a := hbmChAt d ch
     (chZeroing s d ch = true → exec (.zeroDone d ch) s = .next
      (setFlag (setHbm s (zeroChannel s.hbm (d * 64 + ch))) a 62 false)) ∧
     (chZeroing s d ch = false → exec (.zeroDone d ch) s = .next s) ∧
     (flag s a 61 = false → exec (.applyAtRefresh d ch pc) s = .next s) ∧
     (flag s a 61 = true →
      let s1 := applyDelays (refreshAll s d ch pc) d ch pc
      let s2 := setPc s1 d ch pc { getPc s1 d ch pc with applied := true }
      ((getPc s2 d ch 0).applied = false ∨ (getPc s2 d ch 1).applied = false → exec (.applyAtRefresh d ch pc) s = .next s2) ∧
      ((getPc s2 d ch 0).applied = true → (getPc s2 d ch 1).applied = true → ∃ u, exec (.applyAtRefresh d ch pc) s = .next u ∧
        flag u a 61 = false ∧ (getPc u d ch 0).applied = false ∧ (getPc u d ch 1).applied = false ∧ u.hbm.active = s2.hbm.active ∧
        ∀ b, b ≠ a → rd u b = rd s b)) ∧
     (let c := hbmCheckAt d
      (∀ v, let w := if bits v 55 50 = 0 then setBits v 55 50 (fld s c 55 50) else v
        let s1 := plainWrite s .hbmCheck c w
        exec (.hbmCheck d v) s = .next
          (if bit w 63 && fld s1 c 49 48 != 1 && chFitted s.part (bits w 62 57) then
            setFld (setHbm s1 { s1.hbm with checking := mset 0 s1.hbm.checking d.val w }) c 49 48 1 else s1)) ∧
      (∀ m, let v := mget 0 s.hbm.checking d.val
        let k := bits v 62 57
        let q := bits v 56 56
        (fld s c 49 48 = 1 → checkAllowed s d (getPc s d k q) = true →
          let s1 := refreshAll s d k q
          let s2 := setPc s1 d k q { getPc s1 d k q with checkAt := some (nowNs s1 d) }
          exec (.checkWindow d m) s = .next (checkedPc (setFld (setFld s2 c 49 48 2) c 47 12 m.toNat) d k q)) ∧
        (fld s c 49 48 ≠ 1 ∨ checkAllowed s d (getPc s d k q) = false → exec (.checkWindow d m) s = .next s))) ∧
     (let c := hbmRepairAt d
      (∀ v, let s1 := plainWrite s .hbmRepair c v
        let k := bits v 62 57
        let q := bits v 56 56
        (bit v 63 = false ∨ fld s1 c 35 34 = 1 → exec (.hbmRepair d v) s = .next s1) ∧
        (bit v 63 = true → fld s1 c 35 34 ≠ 1 →
          (chFitted s1.part k = false ∨ chTrained s1 d k = false ∨ 24576 ≤ bits v 50 36 →
            exec (.hbmRepair d v) s = .next (repairEvent (setFld s1 c 35 32 (2 * 4 + 2)) d v)) ∧
          (chFitted s1.part k = true → chTrained s1 d k = true → bits v 50 36 < 24576 →
            let s2 := setHbm s1 { s1.hbm with repairing := mset 0 s1.hbm.repairing d.val v }
            exec (.hbmRepair d v) s = .next (setPc (setFld s2 c 35 32 4) d k q { getPc s2 d k q with holdBank := some (bits v 55 51) })))) ∧
      (∀ spare bad, fld s c 35 34 = 1 → exec (.hbmRepairDone d spare bad) s = .next
        (repairEnds s d (mget 0 s.hbm.repairing d.val) spare bad)) ∧
      (∀ spare bad, fld s c 35 34 ≠ 1 → exec (.hbmRepairDone d spare bad) s = .next s)) ∧
     (∀ v, selLegal s d = true → flag s (hbmChAt d (fld s (dlysel d) 63 58)) 61 = false → ∃ u, exec (.hbmDlydat d v) s = .next u ∧
       u.hbm = { s.hbm with shadow := mset 0 s.hbm.shadow (selKey s d) (bits v 7 0) } ∧ ∀ b, b ≠ dlydat d → rd u b = rd s b) ∧
     (∀ v, selLegal s d = false ∨ flag s (hbmChAt d (fld s (dlysel d) 63 58)) 61 = true →
       exec (.hbmDlydat d v) s = .next (setFlag s (dlydat d) 63 true)))

/-- A served fabric request has its operation's effect, or is refused with its lowest status, is kept as a record where it is marked,
and is answered. Rules: R34, R37, R347-R352, R358. -/
def Obligations.FabricOperationsComplete : Prop :=
  ∀ (s : State) (p : Packet) (s1 : State), Serves s p s1 →
    let a := offsetOf p
    let marked := fun (d : Done) => finishHome p true false d
    (p.op = 0x40 →
      (homeCheck s1 false (!sizeLegal a p.len) a p.len ≠ 0 →
        exec (.fread p) s = .next (fabReply s1 p (homeCheck s1 false (!sizeLegal a p.len) a p.len) [] 0)) ∧
      (sizeLegal a p.len = true → remoteScreen s1 false a p.len = 0 →
        let r := hbmRead s1 a p.len
        exec (.fread p) s = .next (fabReply r.1 p (if r.2.2 = 0 then stOk else stPoison) r.2.1 r.2.2))) ∧
    (p.op = 0x41 →
      (homeCheck s1 false (!sizeLegal a p.data.length) a p.data.length ≠ 0 → exec (.fwrite p) s = .next
        (marked { st := s1, code := homeCheck s1 false (!sizeLegal a p.data.length) a p.data.length })) ∧
      (sizeLegal a p.data.length = true → remoteScreen s1 false a p.data.length = 0 →
        exec (.fwrite p) s = .next (marked (homeStore s1 p a p.data p.poison.toNat stOk [])))) ∧
    (let w := if p.od.width then 8 else 4
     let r := hbmRead s1 a w
     let old := leNat r.2.1
     let opr := leNat (p.data.take w)
     let cmp := leNat ((p.data.drop 8).take w)
     p.op = 0x42 →
       (a % w ≠ 0 ∨ 9 < p.od.aop.toNat ∨ remoteScreen s1 false a w ≠ 0 → exec (.fatomic p) s = .next
         (marked { st := s1, code := homeCheck s1 false (a % w ≠ 0 ∨ 9 < p.od.aop.toNat) a w })) ∧
       (a % w = 0 → p.od.aop.toNat ≤ 9 → remoteScreen s1 false a w = 0 →
         (r.2.2 ≠ 0 → exec (.fatomic p) s = .next (marked { st := r.1, code := stPoison })) ∧
         (r.2.2 = 0 → p.od.aop = 5 → old ≠ cmp → exec (.fatomic p) s = .next (marked { st := r.1, data := r.2.1 })) ∧
         (∀ v, r.2.2 = 0 →
           (p.od.aop = 0 ∧ v = (old + opr) % 2 ^ (8 * w) ∨ p.od.aop = 1 ∧ v = old &&& opr ∨ p.od.aop = 2 ∧ v = old ||| opr ∨
             p.od.aop = 3 ∧ v = old ^^^ opr ∨ p.od.aop = 4 ∧ v = opr ∨ p.od.aop = 5 ∧ old = cmp ∧ v = opr ∨
             p.od.aop = 6 ∧ v = (if sextN (8 * w) old < sextN (8 * w) opr then opr else old) ∨
             p.od.aop = 7 ∧ v = (if sextN (8 * w) opr < sextN (8 * w) old then opr else old) ∨
             p.od.aop = 8 ∧ v = max old opr ∨ p.od.aop = 9 ∧ v = min old opr) →
           exec (.fatomic p) s = .next (marked (homeStore r.1 p a (leBytes w v) 0 stOk r.2.1))))) ∧
    (let n := leNat ((p.data.drop 8).take 4)
     p.op = 0x43 →
       (n = 0 ∨ 2 ^ 30 < n ∨ userEnd s1.part < a + n → exec (.fcopy p) s = .next
         (marked { st := s1, code := lowestOf [if n = 0 ∨ 2 ^ 30 < n then stFabricRefused else 0, if userEnd s1.part < a + n then stNocDenied else 0] })) ∧
       (1 ≤ n → n ≤ 2 ^ 30 → a + n ≤ userEnd s1.part →
         let c : Copy := { id := s1.fabric.nextId, key := keyOf p, req := p, src := a, dst := leNat (p.data.take 8), len := n, done := 0, acked := 0 }
         let s2 := setFab s1 { s1.fabric with nextId := s1.fabric.nextId + 1, copies := s1.fabric.copies ++ [c] }
         exec (.fcopy p) s = .next (copyCheck (copyFill c.id 64 s2) c.id))) ∧
    (p.op = 0x44 →
      let r := signalAt s1 (BitVec.ofNat 64 (leNat (p.data.take 8))) (BitVec.ofNat 64 (leNat ((p.data.drop 8).take 8)))
      exec (.fsignal p) s = .next (marked { st := r.2, code := r.1 })) ∧
    (p.op = 0x45 → exec (.fpush p) s = .next (marked { st := (pushAt s1 p).2, code := (pushAt s1 p).1 })) ∧
    (p.op = 0x46 → exec (.freserve p) s = .next (marked { st := (reserveAt s1 p).2, code := (reserveAt s1 p).1 })) ∧
    (p.op = 0x47 → exec (.fcredit p) s = .next (marked { st := creditAt s1 p, code := stOk })) ∧
    (p.op = 0x48 → exec (.fgrant p) s = .next (marked { st := grantAt s1 p, code := stOk })) ∧
    (p.op = 0x49 → exec (.fendmark p) s = .next (marked { st := (endmarkAt s1 p).2, code := (endmarkAt s1 p).1 }))

/-- R358: a marked request whose key has a saved response is answered with it and not executed again. -/
def Obligations.DuplicateRequestsAnswered : Prop :=
  ∀ (s : State) (p : Packet) (s0 : State) (r : DedupRec), running s = true → homeVerdict s p = .serve false → portBusy s p = false →
    incCheck (takeFabric s p) p = some s0 → findRec s0 (keyOf p) = some r → inProgress s0 p = false →
    ∀ c : Instr, (c = .fwrite p ∧ p.op = 0x41 ∨ c = .fatomic p ∧ p.op = 0x42 ∨ c = .fsignal p ∧ p.op = 0x44 ∨ c = .fpush p ∧ p.op = 0x45 ∨
        c = .freserve p ∧ p.op = 0x46 ∨ c = .fcredit p ∧ p.op = 0x47 ∨ c = .fgrant p ∧ p.op = 0x48 ∨ c = .fendmark p ∧ p.op = 0x49) →
      exec c s = .next (fabReply s0 p r.status.toNat r.data 0)

/-- Responses complete requests, waits restart or end them; tokens, contexts, records and command rings. Rules: R353, R355, R357, R358, R359, R360, R361, R396. -/
def Obligations.FabricRequesterCompletes : Prop :=
  ∀ (s : State), running s = true →
    (∀ p, let s1 := takeFabric s p
      (answered s1 p = none → exec (.fabricResponse p) s = .next s1 ∧ ∀ age, exec (.admitWait p age) s = .next s1) ∧
      ∀ r, answered s1 p = some r →
        (p.status.toNat = stAdmitWait → exec (.fabricResponse p) s = .next s1) ∧
        (p.status.toNat ≠ stAdmitWait → answerFree s1 r p = true → exec (.fabricResponse p) s = .next (fabComplete s1 r p p.status.toNat)) ∧
        (p.status.toNat ≠ stAdmitWait → answerFree s1 r p = false → exec (.fabricResponse p) s = .next (sendFabric s1 (ownDev s1) p)) ∧
        (∀ age, p.status.toNat = stAdmitWait → age ≤ 400 → exec (.admitWait p age) s = .next
          { s1 with fabric := { s1.fabric with
              outst := s1.fabric.outst.map (fun e => if e.id = r.id then { e with since := nowNs s1 4 } else e) } }) ∧
        (∀ age, p.status.toNat ≠ stAdmitWait ∨ 400 < age → exec (.admitWait p age) s = .next s1)) ∧
    (∀ id, findReq s id = none →
      exec (.fabricRetry id) s = .next s ∧ exec (.fabricTimeout id) s = .next s ∧ exec (.holdLimit id) s = .next s) ∧
    (∀ id r, findReq s id = some r →
      let free := answerFree s r { op := r.pkt.op }
      (r.sent = true → exec (.fabricRetry id) s = .next
        (sendFabric s r.dev.toNat { r.pkt with od := { r.pkt.od with retry := true } })) ∧
      (r.sent = false → exec (.fabricRetry id) s = .next s) ∧
      (free = true → r.sent = true ∨ (8192 ≤ s.fabric.ctxs.length ∧ ctxOfPeer s r.dev.toNat = none) →
        exec (.fabricTimeout id) s = .next (fabComplete s r { op := r.pkt.op } stFabricTimeout)) ∧
      (free = false ∨ (r.sent = false ∧ (s.fabric.ctxs.length < 8192 ∨ ctxOfPeer s r.dev.toNat ≠ none)) →
        exec (.fabricTimeout id) s = .next s) ∧
      (free = true → r.sent = true ∨ ctxOfPeer s r.dev.toNat = none →
        exec (.holdLimit id) s = .next (fabComplete s r { op := r.pkt.op } stFabricTimeout)) ∧
      (free = false ∨ (r.sent = false ∧ ctxOfPeer s r.dev.toNat ≠ none) → exec (.holdLimit id) s = .next s)) ∧
    (∀ k, exec (.recordExpiry k) s = .next (s.fabric.heldReq.foldl fabricArrives
      { s with fabric := { s.fabric with recs := s.fabric.recs.filter (fun r => r.key != k), heldReq := [] } })) ∧
    (fabricReadyNow s = true → exec .tokenGain s = .next (fabPump (setFld s admitAt 63 57 (min 96 (tokens s + 1))))) ∧
    (fabricReadyNow s = false → exec .tokenGain s = .next s) ∧
    (∀ peer, s.fabric.outst.any (fun r => r.dev == peer && r.sent) = false → exec (.contextReuse peer) s = .next
      (fabPump { s with fabric := { s.fabric with ctxs := s.fabric.ctxs.filter (fun c => c.peer != peer) } })) ∧
    (∀ peer, s.fabric.outst.any (fun r => r.dev == peer && r.sent) = true → exec (.contextReuse peer) s = .next s) ∧
    (∀ (r : Fin 16) v, ringOn s r = true → sub32 (bits v 31 0) (ringHead s r) ≤ 2 ^ ringLog2 s r →
      exec (.fxCqdb r v) s = .next (setFld s (cqdbAt r) 31 0 (bits v 31 0))) ∧
    (∀ (r : Fin 16) v, ringOn s r = false ∨ 2 ^ ringLog2 s r < sub32 (bits v 31 0) (ringHead s r) →
      exec (.fxCqdb r v) s = .next (fxErr s)) ∧
    (∀ r : Fin 16, ringOn s r = false ∨ ringHead s r = ringTail s r ∨ 64 ≤ (getRing s r).outst → exec (.descriptor r) s = .next s) ∧
    (∀ r : Fin 16, ringOn s r = true → ringHead s r ≠ ringTail s r → (getRing s r).outst < 64 → fabRoom s = true →
      inSeqRange s.part (descAt s r) 64 = true → hbmRefusal s .host (descAt s r) = 0 → hbmFree s (descAt s r) 64 = true →
      let a := descAt s r
      let rd := hbmRead s a 64
      let w := (List.range 8).map (fun i => BitVec.ofNat 64 (leNat ((rd.2.1.drop (8 * i)).take 8)))
      let op := bits (w.getD 0 0) 63 56
      let irq := bit (w.getD 0 0) 48
      let n := (getRing s r).outst
      let s1 := setRing (setFld rd.1 (cqdbAt r) 63 32 (ringHead s r + 1)) r { outst := n + 1 }
      let ended := fun (u : State) (e : Status) => ringResult u { r := r.val, entry := a, irq, status := e, result := 0 }
      (descRefused s w = false → op = 0x4F → n = 0 → exec (.descriptor r) s = .next (ended s1 stOk)) ∧
      (descRefused s w = false → op = 0x4F → n ≠ 0 → exec (.descriptor r) s = .next s) ∧
      (descRefused s w = true ∨ op ≠ 0x4F → rd.2.2 ≠ 0 → exec (.descriptor r) s = .next (ended s1 stPoison)) ∧
      (descRefused s w = true → rd.2.2 = 0 → exec (.descriptor r) s = .next (ended s1 stFabricRefused)) ∧
      (descRefused s w = false → op ≠ 0x4F → rd.2.2 = 0 →
        op ≠ 0x41 ∨ hbmFree s (w.getD 2 0).toNat (bits (w.getD 0 0) 31 0) = true →
        let q := descRequest s1 w
        (q.2.2 ≠ 0 → exec (.descriptor r) s = .next (ended q.1 q.2.2)) ∧
        (q.2.2 = 0 → exec (.descriptor r) s = .next
          (fabIssue q.1 (.ring r a irq (w.getD 2 0).toNat) q.2.1 (addrDev q.2.1.addr)))))

/-- Heartbeats, leases and the states of a device in its pair. Rules: R345, R367, R368, R369, R370, R371, R373, R374, R376, R377, R378. -/
def Obligations.TwinStatesComplete : Prop :=
  ∀ (s : State), running s = true →
    (fabricReadyNow s = true → s.fabric.dev.isSome = true → s.failed = false → exec .heartbeatSend s = .next
      { s with linkOut := s.linkOut ++ [.heartbeat true, .heartbeat false] }) ∧
    (fabricReadyNow s = false ∨ s.fabric.dev = none ∨ s.failed = true → exec .heartbeatSend s = .next s) ∧
    (∀ direct, let s0 := setFlag s fxTwinAt (if direct then 28 else 27) true
      let s1 := { s0 with twin := { s0.twin with hbAt := s0.twin.hbAt.set (if direct then 0 else 1) (nowNs s 4) } }
      exec (.heartbeat direct) s = .next (if twinState s = 2 then takeHeld s1 else s1)) ∧
    (∀ c cause, c = .heartbeatLoss ∧ cause = 1 ∨ c = .failNotice ∧ cause = 2 →
      let s1 := setFld s fxTwinAt 28 27 0
      (twinState s ≠ 2 → twinState s ≠ 3 → exec c s = .next s1) ∧
      (twinState s = 3 → exec c s = .next (setFld
        { s1 with twin := { s1.twin with syncPos := none, cutover := false, cutEpoch := none } } fxTwinAt 26 20 0)) ∧
      (twinState s = 2 → s.twin.declared ≠ 0 → exec c s = .next s1) ∧
      (twinState s = 2 → s.twin.declared = 0 →
        let s2 := { s1 with twin := { s1.twin with declared := cause } }
        ((pairWitness s).isSome = true → exec c s = .next s2) ∧
        ((pairWitness s) = none → cause = 2 ∨ parity s2 = 0 → exec c s = .next (enterCovering s2 (epoch s2 + 1))) ∧
        ((pairWitness s) = none → cause = 1 → parity s2 ≠ 0 → exec c s = .next (enterIsolated s2)))) ∧
    (twinState s = 2 → s.twin.declared ≠ 0 → (pairWitness s).isSome = true → exec .leaseSend s = .next
      { s with twin := { s.twin with leaseSent := true }, linkOut := s.linkOut ++ [.lease (BitVec.ofNat 32 (epoch s))] }) ∧
    (twinState s ≠ 2 ∨ s.twin.declared = 0 ∨ pairWitness s = none → exec .leaseSend s = .next s) ∧
    (∀ dev e, s.fabric.dev = none ∨ answersFor s dev.toNat = false → exec (.lease dev e) s = .next s) ∧
    (∀ dev e, s.fabric.dev.isSome = true → answersFor s dev.toNat = true →
      let l := leaseOf s (dev.toNat / 2)
      (l.1 ≤ e.toNat → exec (.lease dev e) s = .next (grantLease s dev (e + 1))) ∧
      (e.toNat < l.1 → l ≠ ((e + 1).toNat, dev.toNat) → exec (.lease dev e) s = .next
        { s with linkOut := s.linkOut ++ [.leaseAnswer dev false (e + 1)] }) ∧
      (e.toNat < l.1 → l = ((e + 1).toNat, dev.toNat) → s.twin.waitAck.any (fun w => w.2 == .lease dev (e + 1)) = false →
        exec (.lease dev e) s = .next { s with linkOut := s.linkOut ++ [.leaseAnswer dev true (e + 1)] }) ∧
      (e.toNat < l.1 → l = ((e + 1).toNat, dev.toNat) → s.twin.waitAck.any (fun w => w.2 == .lease dev (e + 1)) = true →
        exec (.lease dev e) s = .next s)) ∧
    (∀ dev e, twinState s ≠ 2 → twinState s ≠ 3 → grantLease s dev e =
      { s with twin := { s.twin with leases := mset (0, 0) s.twin.leases (dev.toNat / 2) (e.toNat, dev.toNat) },
               linkOut := s.linkOut ++ [.leaseAnswer dev true e] }) ∧
    (∀ e, twinState s = 2 → s.twin.declared ≠ 0 →
      exec (.leaseResponse true e) s = .next (enterCovering s e.toNat) ∧
      exec (.leaseResponse false e) s = .next (enterStale s) ∧
      exec .leaseTimeout s = .next (enterIsolated s)) ∧
    (∀ e, twinState s = 3 → s.twin.cutover = true → exec (.leaseResponse true e) s = .next (cutWith s e.toNat)) ∧
    (∀ e g, twinState s = 2 ∧ s.twin.declared = 0 ∨ twinState s = 3 ∧ (s.twin.cutover = false ∨ g = false) ∨ twinState s ≠ 2 ∧ twinState s ≠ 3 →
      exec (.leaseResponse g e) s = .next s) ∧
    (twinState s ≠ 2 ∨ s.twin.declared = 0 → exec .leaseTimeout s = .next s) ∧
    (∀ v : BitVec 8, (v = 1 ∧ twinState s = 2 → exec (.yield v) s = .next { s with twin := { s.twin with yielding := true } } ∧
        exec (.restore v) s = .next { s with twin := { s.twin with lost := false } }) ∧
      (v ≠ 1 ∨ twinState s ≠ 2 → exec (.yield v) s = .next s ∧ exec (.restore v) s = .next s)) ∧
    (s.twin.yielding = true → twinState s = 2 → homeIdle s = true →
      exec .yieldComplete s = .next (enterStale (sendLink s .failNotice))) ∧
    (s.twin.yielding = false ∨ twinState s ≠ 2 ∨ homeIdle s = false → exec .yieldComplete s = .next s) ∧
    (∀ i, let s1 := { s with twin := { s.twin with partner := some i }, linkOut := s.linkOut ++ [.twinInfo (ownInfo s)] }
      (fabricReadyNow s = true → exec (.twinLinkActive i) s = .next (joinTwin s1 i)) ∧
      (fabricReadyNow s = false → exec (.twinLinkActive i) s = .next s1)) ∧
    (∀ v : BitVec 32, v.toNat ≤ 0xFFFFF → s.fabric.dev = none → ∃ u, exec (.devnum v) s = .next u ∧
      objN u 0x0A01 1 = v.toNat ∧ u.fabric = { s.fabric with dev := some (BitVec.ofNat 20 v.toNat) } ∧ u.csr = s.csr ∧ u.twin = s.twin) ∧
    (∀ v : BitVec 32, v.toNat ≤ 0xFFFFF → s.fabric.dev.isSome = true → ∃ u, exec (.devnum v) s = .next u ∧
      objN u 0x0A01 1 = v.toNat ∧ u.fabric = s.fabric ∧ u.csr = s.csr ∧ u.twin = s.twin) ∧
    (∀ v : BitVec 32, 0xFFFFF < v.toNat → exec (.devnum v) s = .next s)

/-- Mirrored writes, resynchronisation, cutover and changes of the mirror table. Rules: R347, R358, R362, R363, R364, R365, R369,
R375, R376, R380. -/
def Obligations.MirrorCompletes : Prop :=
  ∀ (s : State), running s = true →
    (∀ p, p.op ≠ 0x30 ∨ (twinState s ≠ 2 ∧ twinState s ≠ 4) → ∀ rec lease, exec (.mirrorWr p ⟨rec, lease⟩) s = .next s) ∧
    (∀ p, p.op = 0x30 → twinState s = 2 ∨ twinState s = 4 →
      let a := offsetOf p
      let s1 := hbmWrite s a p.data (maskGran p.poison.toNat a p.data.length)
      let ack := fun (u : State) => sendFabric u (twinOf (ownDev u)) (response p stOk [] 0)
      ((mirOf s a).isSome = true → hbmFree s a p.data.length = true →
        exec (.mirrorWr p ⟨none, none⟩) s = .next (ack s1) ∧
        (∀ r, recRoom s = true → exec (.mirrorWr p ⟨some r, none⟩) s = .next
          (ack { s1 with fabric := { s1.fabric with recs := s1.fabric.recs ++ [r] } })) ∧
        (∀ r, recRoom s = false → exec (.mirrorWr p ⟨some r, none⟩) s = .next s)) ∧
      (mirOf s a = none ∨ hbmFree s a p.data.length = false → ∀ rec, exec (.mirrorWr p ⟨rec, none⟩) s = .next s) ∧
      (∀ rec dev e, exec (.mirrorWr p ⟨rec, some (dev, e)⟩) s = .next (sendFabric
        { s with twin := { s.twin with leases := mset (0, 0) s.twin.leases (dev.toNat / 2) (e.toNat, dev.toNat) } }
        (twinOf (ownDev s)) (response p stOk [] 0)))) ∧
    (∀ p, p.op ≠ 0xB0 → exec (.mirrorAck p) s = .next s) ∧
    (∀ p, p.op = 0xB0 → s.twin.waitAck.find? (ackMatches p) = none → exec (.mirrorAck p) s = .next (takeFabric s p)) ∧
    (∀ p w, p.op = 0xB0 → s.twin.waitAck.find? (ackMatches p) = some w →
      (ackFree s w = true → exec (.mirrorAck p) s = .next
        (ackNow { takeFabric s p with twin := { s.twin with waitAck := s.twin.waitAck.erase w } } w)) ∧
      (ackFree s w = false → exec (.mirrorAck p) s = .next s)) ∧
    (∀ pos, twinState s = 3 → s.twin.syncPos = some pos →
      (nextChunk s pos = none → exec (.twinSync none) s = .next (setFld s fxTwinAt 26 20 100)) ∧
      (∀ a, nextChunk s pos = some a →
        (hbmFree s a 65536 = false → exec (.twinSync none) s = .next s) ∧
        (hbmFree s a 65536 = true →
          let s1 := sendChunk s a
          exec (.twinSync none) s = .next (setFld { s1 with twin := { s1.twin with syncPos := some (a + 65536) } } fxTwinAt 26 20
            (resyncPct s1 (a + 65536)))))) ∧
    (twinState s = 2 → ∀ m, syncingHere s = some m →
      let a := mirBase s m + 65536 * syncDone s m
      (hbmFree s a 65536 = true → exec (.twinSync none) s = .next (bumpSync (sendChunk s a) m)) ∧
      (hbmFree s a 65536 = false → exec (.twinSync none) s = .next s)) ∧
    (twinState s = 3 ∧ s.twin.syncPos = none ∨ twinState s = 2 ∧ syncingHere s = none ∨ twinState s ≠ 2 ∧ twinState s ≠ 3 →
      exec (.twinSync none) s = .next s) ∧
    (∀ a d pg, twinState s = 2 ∨ twinState s = 4 → exec (.twinSync (some (a, d, pg))) s = .next (takeChunk s a d pg)) ∧
    (∀ a d pg, twinState s ≠ 2 → twinState s ≠ 4 → exec (.twinSync (some (a, d, pg))) s = .next s) ∧
    (cutReady s = false → exec .cutoverStart s = .next s) ∧
    (cutReady s = true →
      (∀ e, s.twin.cutEpoch = some e → exec .cutoverStart s = .next (cutWith s e)) ∧
      (s.twin.cutEpoch = none → pairWitness s = none → exec .cutoverStart s = .next (cutWith s (epoch s + 1))) ∧
      (s.twin.cutEpoch = none → (pairWitness s).isSome = true → exec .cutoverStart s = .next
        { s with twin := { s.twin with cutover := true }, linkOut := s.linkOut ++ [.lease (BitVec.ofNat 32 (epoch s))] })) ∧
    (∀ e, twinState s ≠ 4 → exec (.cutover e) s = .next s) ∧
    (∀ e, twinState s = 4 → ∃ u, exec (.cutover e) s = .next u ∧ twinState u = 2 ∧ epoch u = e.toNat ∧ u.twin.declared = 0 ∧
      u.twin.syncPos = none ∧ u.tiles = s.tiles ∧ u.hbm = s.hbm ∧ u.fabric = s.fabric ∧ u.linkOut = s.linkOut ++ [.cutoverAnswer] ∧
      ∀ m, m < 64 → mirValid s m = true → mirState u m = 1) ∧
    (∀ c n, c = .mirrorAdd ∧ n = 1 ∨ c = .mirrorRemove ∧ n = 2 →
      (s.twin.changeOpen = true → exec c s = .next s) ∧
      (s.twin.changeOpen = false → twinState s ≠ 2 → exec c s = .next (objSetN s 0x0A10 5 stMirrorState)) ∧
      (s.twin.changeOpen = false → twinState s = 2 →
        let x : MirrorChange := { op := BitVec.ofNat 8 n, owner := BitVec.ofNat 8 (objN s 0x0A10 2), base := BitVec.ofNat 64 (objN s 0x0A10 3),
                                  len := BitVec.ofNat 64 (objN s 0x0A10 4), here := true, result := 0 }
        (parity s = 0 → exec c s = .next
          { s with twin := { s.twin with changeOpen := true, changes := s.twin.changes ++ [x] } }) ∧
        (parity s ≠ 0 → exec c s = .next
          { s with twin := { s.twin with changeOpen := true }, linkOut := s.linkOut ++ [.mirrorChange { x with here := false }] }))) ∧
    (∀ rx, twinState s ≠ 2 → exec (.mirrorChangeApply rx) s = .next s) ∧
    (∀ c, twinState s = 2 → exec (.mirrorChangeApply (some c)) s = .next (changeArrives s c)) ∧
    (twinState s = 2 → s.twin.changes = [] ∨ parity s ≠ 0 → exec (.mirrorChangeApply none) s = .next s) ∧
    (∀ c rest, twinState s = 2 → parity s = 0 → s.twin.changes = c :: rest →
      (c.phase ≠ 0 → exec (.mirrorChangeApply none) s = .next s) ∧
      (c.phase = 0 → changeStatus s c ≠ 0 → exec (.mirrorChangeApply none) s = .next (endChange s c rest (changeStatus s c))) ∧
      (c.phase = 0 → changeStatus s c = 0 → exec (.mirrorChangeApply none) s = .next
        { s with twin := { s.twin with changes := { c with phase := 1 } :: rest },
                 linkOut := s.linkOut ++ [.mirrorChange { c with phase := 1 }] })) ∧
    (∀ m : Fin 64, twinState s = 2 → mirValid s m = true → mirState s m = 0 → syncAll s m ≤ syncDone s m →
      let s1 := setFld s (mirAt m) 61 60 1
      exec (.mirrorSyncDone m) s = .next { s1 with twin := { s1.twin with entrySync := mset 0 s1.twin.entrySync m.val 0 } }) ∧
    (∀ m : Fin 64, twinState s ≠ 2 ∨ mirValid s m = false ∨ mirState s m ≠ 0 ∨ syncDone s m < syncAll s m →
      exec (.mirrorSyncDone m) s = .next s)

/-! ### Links, check values, repair -/

/-- The commands of a port, its stages and their timeouts, in every state of the port. Rules: R389, R392, R394, R395, R396, R397, R405. -/
def Obligations.PortStagesComplete : Prop :=
  ∀ (s : State) (p : PortId), running s = true →
    let x := getPort s p
    let fails := (List.finRange 4).filter (fun i => !cdrLocked s (servingLane s p i))
    let again := sendFlits (setPort (incFld s (perr p) 23 8) p { x with replays := x.replays + 1 }) p x.replay
    (shaleFitted s p.shale = true → ringOne s p = false → portState s p = 0 ∨ portState s p = 8 ∨ portState s p = 9 → ∃ u,
      exec (.portBringUp p) s = .next u ∧ portState u p = 1 ∧ partnerReady u p = false ∧ fld u (pstat p) 58 51 = 0 ∧
      getPort u p = {} ∧ ∀ b, b ≠ pstat p → rd u b = rd s b) ∧
    (portState s p ≠ 0 → portState s p ≠ 8 → portState s p ≠ 9 → exec (.portBringUp p) s = .next s) ∧
    (shaleFitted s p.shale = false ∨ ringOne s p = true → exec (.portBringUp p) s = .next s) ∧
    (shaleFitted s p.shale = true → ∃ u, exec (.portTakeDown p) s = .next u ∧ portState u p = 8 ∧ sparedLane u p = 7 ∧
      (getPort u p).replay = [] ∧ (getPort u p).partner = none ∧ partnerReady u p = false ∧ (∀ l, l ∈ portLanes p → laneUse u l = 0)) ∧
    (shaleFitted s p.shale = false → exec (.portTakeDown p) s = .next s ∧ exec (.portTest p) s = .next s) ∧
    (3 ≤ portState s p → portState s p ≤ 7 → ∃ u, exec (.portRetrain p) s = .next u ∧ portState u p = 3 ∧
      partnerReady u p = false ∧ (getPort u p).replay = x.replay ∧ (getPort u p).txSeq = x.txSeq ∧ (getPort u p).rxNext = x.rxNext) ∧
    (portState s p < 3 ∨ 7 < portState s p → exec (.portRetrain p) s = .next s) ∧
    (shaleFitted s p.shale = true → ∃ u, exec (.portTest p) s = .next u ∧ portState u p = 9 ∧ (getPort u p).replay = []) ∧
    (portState s p = 1 ∨ portState s p = 7 → exec (.portStageComplete p) s = .next (setPortState s p 2)) ∧
    (portState s p = 2 → exec (.portStageComplete p) s = .next (setPortState s p 3)) ∧
    (portState s p = 3 → lanesLocked s p = true → exec (.portStageComplete p) s = .next (setPortState s p 4)) ∧
    (portState s p = 3 → lanesLocked s p = false → exec (.portStageComplete p) s = .next s) ∧
    (portState s p = 4 → lanesNamed s p = true →
      let s1 := setPortState s p 5
      let f := flitWith s1 p { stype := 3, vc := 0, cls := 0, body := capBytes (ownRecord s1 p) } noSlot x.txSeq false
      exec (.portStageComplete p) s = .next (sendFlits (setPort s1 p { x with txSeq := x.txSeq + 1, replay := x.replay ++ [f] }) p [f])) ∧
    (portState s p = 4 → lanesNamed s p = false → exec (.portStageComplete p) s = .next s) ∧
    (portState s p = 0 ∨ portState s p = 5 ∨ portState s p = 6 ∨ 7 < portState s p → exec (.portStageComplete p) s = .next s) ∧
    (portState s p = 1 ∨ portState s p = 2 ∨ portState s p = 4 ∨ (portState s p = 3 ∧ fails.length ≠ 1) ∨
        (portState s p = 5 ∧ fld s (pstat p) 58 51 ≠ stCapMismatch ∧ x.partner = none) →
      (x.replays < 8 → exec (.stageTimeout p) s = .next (portEvent (retrainTo s p 1) p 0)) ∧
      (8 ≤ x.replays → exec (.stageTimeout p) s = .next (portEvent (portDown (retrainTo s p 1) p) p 0))) ∧
    (∀ i, portState s p = 3 → fails = [i] → exec (.stageTimeout p) s = .next (failLane s p i)) ∧
    (portState s p = 5 → fld s (pstat p) 58 51 = stCapMismatch ∨ x.partner.isSome = true → exec (.stageTimeout p) s = .next s) ∧
    (portState s p = 0 ∨ 6 ≤ portState s p → exec (.stageTimeout p) s = .next s) ∧
    (portState s p = 6 → x.replay ≠ [] → x.replays < 7 → exec (.replayTimeout p) s = .next again) ∧
    (portState s p = 6 → x.replay ≠ [] → 7 ≤ x.replays → exec (.replayTimeout p) s = .next (retrainTo again p 3)) ∧
    (portState s p ≠ 6 ∨ x.replay = [] → exec (.replayTimeout p) s = .next s) ∧
    (portState s p = 6 → partnerReady s p = false → exec (.readyTimeout p) s = .next
      (portEvent (setPort s p { x with readyLate := true }) p 0)) ∧
    (portState s p ≠ 6 ∨ partnerReady s p = true → exec (.readyTimeout p) s = .next s)

/-- Lanes: slip, locks, markers, patterns, error windows. Rules: R389, R390, R397, R398, R405. -/
def Obligations.LanesComplete : Prop :=
  ∀ (s : State) (l : LaneId), running s = true →
    let p := lanePort s l
    (shaleFitted s l.shale = false → ∀ m n, exec (.slip l) s = .next s ∧ exec (.markerLock l m n) s = .next s ∧
      exec (.prbsLock l n) s = .next s ∧ exec (.laneErrorWindow l n) s = .next s) ∧
    (shaleFitted s l.shale = true →
      (exec (.slip l) s = .next (setFld s (lstat l) 55 45 ((fld s (lstat l) 55 45 + 1) % 1360))) ∧
      (∀ m n i r, readMarker m = some (i, r) → portState s p = 3 ∨ portState s p = 4 →
        (16 ≤ n → exec (.markerLock l (some m) n) s = .next (setFld (setFlag s (lstat l) 62 true) (lstat l) 57 56 i)) ∧
        (n < 16 → exec (.markerLock l (some m) n) s = .next s)) ∧
      (∀ m n i (j : Fin 4), readMarker m = some (i, some j.val) → portState s p = 6 → 1 ≤ n →
        exec (.markerLock l (some m) n) s = .next (useSpare s p j)) ∧
      (∀ m n i r, readMarker m = some (i, r) → portState s p ≠ 3 → portState s p ≠ 4 → portState s p ≠ 6 ∨ r = none ∨ n = 0 →
        exec (.markerLock l (some m) n) s = .next s) ∧
      (∀ m n, Option.bind m readMarker = none →
        (4 ≤ n → exec (.markerLock l m n) s = .next (setFlag s (lstat l) 62 false)) ∧
        (n < 4 → exec (.markerLock l m n) s = .next s)) ∧
      (∀ n, patternLane s l = true → flag s (lctl l) 59 = true → ∃ u, exec (.prbsLock l n) s = .next u ∧
        flag u (lstat l) 61 = true ∧ fld u (lerr l) 63 32 = min (fld s (lerr l) 63 32 + n) (2 ^ 32 - 1) ∧
        (∀ b, b ≠ lstat l → b ≠ lerr l → rd u b = rd s b)) ∧
      (∀ n, patternLane s l = false ∨ flag s (lctl l) 59 = false → exec (.prbsLock l n) s = .next s) ∧
      (∀ n, let s1 := clearWindow (setFld s (lerr l) 31 0 (fld s (lerr l) 31 0 + n)) l
        (windowErrors s l + n ≤ fld s (pctl p) 60 41 → exec (.laneErrorWindow l n) s = .next s1) ∧
        (fld s (pctl p) 60 41 < windowErrors s l + n →
          (portState s p ≠ 6 → exec (.laneErrorWindow l n) s = .next s1) ∧
          (∀ i, portState s p = 6 → (List.finRange 4).find? (fun i => servingLane s p i == l) = some i →
            exec (.laneErrorWindow l n) s = .next (failLane s1 p i)))) ∧
      ((∀ q, q ∈ allPorts s → portState s q ≠ 6) → exec (.cdrLockLoss [l]) s = .next (setFlag s (lstat l) 63 false))) ∧
    (portState s p = 3 → exec (.cdrLock l) s = .next (setFlag s (lstat l) 63 true)) ∧
    (portState s p ≠ 3 → exec (.cdrLock l) s = .next s) ∧
    exec (.cdrLockLoss []) s = .next s

/-- Codewords are corrected or refused, their flits acknowledged, accepted in order or refused with a NAK; capability records bring a port
up, hold it in CAPEX, or wait for a device number; packets pass through, age out, are turned to the twin, or take an uplink. Rules: R386,
R387, R388, R389, R391, R392, R393, R394, R395, R399, R400, R401. -/
def Obligations.LinkTrafficCompletes : Prop :=
  ∀ (s : State) (p : PortId), running s = true →
    let x := getPort s p
    (∀ (m y : List (BitVec 10)) (k : Fin 4), let rx := m ++ y
      (portState s p ≠ 5 → portState s p ≠ 6 → exec (.linkFlit p m y k) s = .next s) ∧
      (portState s p = 5 ∨ portState s p = 6 →
        (rsDecode (rx.map (·.toNat)) = none →
          let s1 := setPort (incFld s (perr p) 39 24) p { x with uncorr := x.uncorr + 1 }
          (k ≠ 0 → exec (.linkFlit p m y k) s = .next s) ∧
          (k = 0 → 7 ≤ x.uncorr → portState s p = 6 → sparedLane s p = 7 → exec (.linkFlit p m y k) s = .next (retrainTo s1 p 3)) ∧
          (k = 0 → x.uncorr < 7 ∨ portState s p = 5 ∨ sparedLane s p ≠ 7 → exec (.linkFlit p m y k) s = .next (nakNow s1 p))) ∧
        (∀ c fixed, rsDecode (rx.map (·.toNat)) = some (c, fixed) →
          let s1 := if k = 0 then fecCorrects s p fixed else s
          let f := parseFlit (flitOf c k)
          (flitCrcOk (flitOf c k) = false → exec (.linkFlit p m y k) s = .next (nakNow s1 p)) ∧
          (flitCrcOk (flitOf c k) = true → f.amber = false →
            exec (.linkFlit p m y k) s = .next (flitSlots (flitControl s1 p f) p f)) ∧
          (flitCrcOk (flitOf c k) = true → f.amber = false → f.nak = false → k ≠ 0 →
            f.seq = x.rxNext → f.slot0.stype ≠ 0 ∨ f.slot1.stype ≠ 0 → ∃ u, exec (.linkFlit p m y k) s = .next u ∧
              (getPort u p).rxNext = x.rxNext + 1 ∧ (getPort u p).limit = f.limits ∧ partnerReady u p = f.ready ∧
              (getPort u p).txSeq = x.txSeq ∧ u.linkOut = s.linkOut ∧ u.tiles = s.tiles ∧ u.log = s.log ∧
              ∀ b, b ≠ pstat p → rd u b = rd s b)))) ∧
    (∀ r, let s1 := showPartner s p r
          let y := getPort s1 p
      (portState s p ≠ 5 → portState s p ≠ 6 → exec (.capabilityRecord p r) s = .next s) ∧
      (portState s p = 6 → exec (.capabilityRecord p r) s = .next (setPort s1 p { y with readyLate := y.readyLate && !r.ready })) ∧
      (portState s p = 5 → isTorus p = true → s.fabric.dev = none ∨ r.devset = false →
        exec (.capabilityRecord p r) s = .next (sendCapability s1 p)) ∧
      (portState s p = 5 → (isTorus p = true ∧ s.fabric.dev.isSome = true ∧ r.devset = true ∧ torusPasses s1 p r = true) ∨
          (isTorus p = false ∧ uplinkPasses p r = true) →
        let s2 := setFld (setPortState s1 p 6) (pstat p) 58 51 0
        (y.replay = [] → exec (.capabilityRecord p r) s = .next
          (setPort s2 p { y with sparing := none, readyLate := false, uncorr := 0, replays := 0 })) ∧
        (y.replay ≠ [] → ∃ u, exec (.capabilityRecord p r) s = .next u ∧ portState u p = 6 ∧ (getPort u p).partner = some r ∧
          partnerReady u p = r.ready ∧ (getPort u p).replay = y.replay ∧ (getPort u p).replays = 1 ∧ u.log = s.log)) ∧
      (portState s p = 5 → (isTorus p = true ∧ s.fabric.dev.isSome = true ∧ r.devset = true ∧ torusPasses s1 p r = false) ∨
          (isTorus p = false ∧ uplinkPasses p r = false) →
        exec (.capabilityRecord p r) s = .next (portEvent (setFld s1 (pstat p) 58 51 stCapMismatch) p stCapMismatch))) ∧
    (∀ arr dst age lw n k, s.fabric.dev = none → exec (.transitPacket arr dst age lw n k) s = .next s) ∧
    (∀ dst age lw n k, (.fabric dst k) ∉ s.linkOut ∨ dst.toNat = ownDev s → exec (.transitPacket none dst age lw n k) s = .next s) ∧
    (s.fabric.dev.isSome = true → ∀ (q : PortId) (dst : BitVec 20) age lw n k,
      (dst.toNat = ownDev s → age ≤ 2000 → exec (.transitPacket (some q) dst age lw n k) s = .next (sendFabric s dst.toNat k)) ∧
      (dst.toNat = ownDev s → 2000 < age → exec (.transitPacket (some q) dst age lw n k) s = .next (agedOut s)) ∧
      (dst.toNat ≠ ownDev s → isTorus q = false → exec (.transitPacket (some q) dst age lw n k) s = .next (discardEvent s 2)) ∧
      (dst.toNat ≠ ownDev s → isTorus q = true →
        (2000 < ageOut age n → exec (.transitPacket (some q) dst age lw n k) s = .next (agedOut s)) ∧
        (ageOut age n ≤ 2000 → pod dst.toNat ≠ pod (ownDev s) →
          exec (.transitPacket (some q) dst age lw n k) s = .next (discardEvent s 2)) ∧
        (ageOut age n ≤ 2000 → pod dst.toNat = pod (ownDev s) →
          (∀ o lo c, torusRoute s (some q.port) dst.toNat lw k.dclass = some (o, lo, c) →
            (sendOnPort s o { k with dclass := c } (ageOut age n) lo = none →
              exec (.transitPacket (some q) dst age lw n k) s = .next s) ∧
            (∀ t, sendOnPort s o { k with dclass := c } (ageOut age n) lo = some t →
              exec (.transitPacket (some q) dst age lw n k) s = .next
                (sendLink t (.forward o dst (ageOut age n) lo c { k with dclass := c })))) ∧
          (torusRoute s (some q.port) dst.toNat lw k.dclass = none →
            (0x80 ≤ k.op.toNat → exec (.transitPacket (some q) dst age lw n k) s = .next s) ∧
            (k.op.toNat < 0x80 → k.od.redir = true → exec (.transitPacket (some q) dst age lw n k) s = .next (discardEvent s 3)) ∧
            (k.op.toNat < 0x80 → k.od.redir = false → twinOf dst.toNat = ownDev s →
              exec (.transitPacket (some q) dst age lw n k) s = .next
                (sendFabric s (twinOf dst.toNat) { k with od := { k.od with redir := true } })))))) ∧
    (∀ k, let m := LinkMsg.fabric (BitVec.ofNat 20 (packetDev k)) k
          let ports := (List.range (objN s 0x0A30 5)).map (fun i =>
            let pl := ((addrDev k.addr ^^^ k.od.reqdev.toNat) % objN s 0x0A30 5 + i) % objN s 0x0A30 5
            (⟨⟨(1 + pl / 8) % 4, Nat.mod_lt _ (by decide)⟩, ⟨pl % 8, Nat.mod_lt _ (by decide)⟩⟩ : PortId))
      (s.fabric.dev = none ∨ pod (packetDev k) = pod (ownDev s) ∨ m ∉ s.linkOut → exec (.uplinkRoute k) s = .next s) ∧
      (s.fabric.dev.isSome = true → pod (packetDev k) ≠ pod (ownDev s) → m ∈ s.linkOut →
        (ports.find? (portUsable s) = none → exec (.uplinkRoute k) s = .next (discardEvent { s with linkOut := s.linkOut.erase m } 1)) ∧
        (∀ o, ports.find? (portUsable s) = some o →
          (sendOnPort s o k 2 false = none → exec (.uplinkRoute k) s = .next s) ∧
          (∀ t, sendOnPort s o k 2 false = some t → exec (.uplinkRoute k) s = .next
            (sendLink { t with linkOut := t.linkOut.erase m } (.forward o (BitVec.ofNat 20 (packetDev k)) 2 false k.dclass k))))))

/-- Units of Basalt dies feed, close, number and compare blocks, alone and in pairs; units of S0 run over memory and against the twin.
Rules: R415, R416, R417, R418, R419, R420, R437. -/
def Obligations.CheckValueUnitsComplete : Prop :=
  ∀ (s : State) (u : CvId), running s = true →
    let x := getCv s u
    let p := cvPartner u
    let y := getCv s p
    let even : CvId := if u.unit.val % 2 = 0 then u else p
    let acc := if x.started then x.acc.toNat else (rd s (cvReg u 8)).toNat
    (cvLive s u = false → ∀ data nb last, exec (.cvFeed u data nb last) s = .next s ∧ exec (.cvClear u) s = .next s ∧
      exec (.cvBlockDone u) s = .next s ∧ exec (.cvCompare u) s = .next s) ∧
    (cvLive s u = true → ∀ data (nb : Fin 8),
      let d := (leBytes 8 data.toNat).take (nb + 1)
      let v := if cvPoly s u = 2 then addEac acc (leNat d) else cvValue (cvPoly s u) acc d
      let s1 := setCv s u { x with acc := 0, started := false, closed := x.closed + 1, closing := x.closing ++ [BitVec.ofNat 64 v] }
      exec (.cvFeed u data nb false) s = .next (setCv s u { x with acc := BitVec.ofNat 64 v, started := true }) ∧
      (cvCmp s u ≠ 2 ∨ x.closed < y.closed + 1 → exec (.cvFeed u data nb true) s = .next s1) ∧
      (cvCmp s u = 2 → y.closed + 1 ≤ x.closed → exec (.cvFeed u data nb true) s = .next
        (cvMismatch { s1 with freeCtr := s.freeCtr + 1 } [even, cvPartner even] true even (Config.free s.freeCtr).toNat))) ∧
    (cvLive s u = true → exec (.cvClear u) s = .next (setCv s u { x with acc := 0, started := false })) ∧
    (cvLive s u = true → x.closing = [] → exec (.cvBlockDone u) s = .next s) ∧
    (∀ v r, cvLive s u = true → x.closing = v :: r →
      let s1 := setCv s u { x with closing := r, toCompare := if cvCmp s u = 0 then x.toCompare else x.toCompare ++ [v] }
      exec (.cvBlockDone u) s = .next (incFld (wr (cvPulse s1 u 1) (cvReg u 0x18) v) (cvStatAt u) 51 20)) ∧
    (cvLive s u = true → x.toCompare = [] ∨ (cvCmp s u ≠ 1 ∧ y.toCompare = []) → exec (.cvCompare u) s = .next s) ∧
    (∀ v r, cvLive s u = true → x.toCompare = v :: r → cvCmp s u = 1 →
      let s1 := setCv s u { x with toCompare := r }
      (v = rd s (cvReg u 0x10) → exec (.cvCompare u) s = .next (cvPulse s1 u 2)) ∧
      (v ≠ rd s (cvReg u 0x10) → exec (.cvCompare u) s = .next (cvMismatch s1 [u] false u (v ^^^ rd s (cvReg u 0x10)).toNat))) ∧
    (∀ v r w q, cvLive s u = true → x.toCompare = v :: r → y.toCompare = w :: q → cvCmp s u = 2 →
      let s1 := setCv (setCv s u { x with toCompare := r }) p { y with toCompare := q }
      (v = w → exec (.cvCompare u) s = .next (cvPulse (cvPulse s1 u 2) p 2)) ∧
      (v ≠ w → exec (.cvCompare u) s = .next (cvMismatch s1 [even, cvPartner even] false even (v ^^^ w).toNat))) ∧
    (cvExists u = false → ∀ v, exec (.cvGo u v) s = .next s) ∧
    (cvExists u = true → ∀ v, let g := setBit v 43 true
      (cvCfgBad s u g = true → exec (.cvGo u v) s = .next (setFlag s (cvStatAt u) 61 true)) ∧
      (cvCfgBad s u g = false →
        let s0 := if bit g 63 ≠ cvEn s u then
          setCv s u { x with acc := 0, started := false, closing := [], toCompare := [], closed := 0, pulse := 0 } else s
        let s1 := plainWrite s0 .cvCfg (cvReg u 0) g
        let a := fld s1 (cvReg u 0x28) 47 6 * 64
        let n := fld s1 (cvReg u 0x30) 32 0 * 64
        (bit g 63 = false ∨ cvOnS0 u = false ∨ flag s1 (cvStatAt u) 60 = true → exec (.cvGo u v) s = .next s1) ∧
        (bit g 63 = true → cvOnS0 u = true → flag s1 (cvStatAt u) 60 = false →
          (userEnd s.part < a + n → exec (.cvGo u v) s = .next (cvEnd s1 u stNocDenied)) ∧
          (a + n ≤ userEnd s.part → cvCmp s1 u = 3 → twinRunStatus s1 a n ≠ stOk →
            exec (.cvGo u v) s = .next (cvEnd s1 u (twinRunStatus s1 a n))) ∧
          (a + n ≤ userEnd s.part → cvCmp s1 u ≠ 3 ∨ twinRunStatus s1 a n = stOk → exec (.cvGo u v) s = .next
            (setFlag (setCv s1 u { getCv s1 u with runAddr := a, runEnd := a + n }) (cvStatAt u) 60 true))))) ∧
    (cvOnS0 u = false ∨ flag s (cvStatAt u) 60 = false →
      exec (.cvRunDone u) s = .next s ∧ ∀ v, exec (.cvTwinChunk u v) s = .next s) ∧
    (cvOnS0 u = true → flag s (cvStatAt u) 60 = true → cvCmp s u ≠ 3 →
      let r := cvGranules (cvPoly s u) ((x.runEnd - x.runAddr) / 64) x.runAddr (s, (rd s (cvReg u 8)).toNat, 0)
      let v : Word := BitVec.ofNat 64 r.2.1
      let s1 := incFld (wr r.1 (cvReg u 0x18) v) (cvStatAt u) 51 20
      (∀ t, exec (.cvTwinChunk u t) s = .next s) ∧
      (hbmFree s x.runAddr (x.runEnd - x.runAddr) = false → exec (.cvRunDone u) s = .next s) ∧
      (hbmFree s x.runAddr (x.runEnd - x.runAddr) = true →
        (r.2.2 ≠ 0 → exec (.cvRunDone u) s = .next (cvEnd r.1 u r.2.2)) ∧
        (r.2.2 = 0 → cvCmp s1 u ≠ 1 ∨ v = rd s1 (cvReg u 0x10) → exec (.cvRunDone u) s = .next (cvEnd s1 u stOk)) ∧
        (r.2.2 = 0 → cvCmp s1 u = 1 → v ≠ rd s1 (cvReg u 0x10) → exec (.cvRunDone u) s = .next
          (cvEnd (logEvent (incFld (setFlag s1 (cvStatAt u) 63 true) (cvStatAt u) 19 4) 0x0036 4 (0x100 + u.unit) 2
            (v ^^^ rd s1 (cvReg u 0x10)).toNat) u stCheckMismatch)))) ∧
    (cvOnS0 u = true → flag s (cvStatAt u) 60 = true → cvCmp s u = 3 →
      let a := x.runAddr
      let b := min x.runEnd ((a / 16384 + 1) * 16384)
      let r := cvGranules (cvPoly s u) ((b - a) / 64) a (s, (rd s (cvReg u 8)).toNat, 0)
      let v : Word := BitVec.ofNat 64 r.2.1
      let s1 := setCv r.1 u { x with runAddr := b }
      exec (.cvRunDone u) s = .next s ∧
      (∀ t, twinState s ≠ 2 → exec (.cvTwinChunk u t) s = .next (cvEnd s u stMirrorState)) ∧
      (∀ t, twinState s = 2 → hbmFree s a (b - a) = false → exec (.cvTwinChunk u t) s = .next s) ∧
      (∀ t, twinState s = 2 → hbmFree s a (b - a) = true →
        (r.2.2 ≠ 0 → exec (.cvTwinChunk u t) s = .next (cvEnd r.1 u r.2.2)) ∧
        (r.2.2 = 0 → v = t → b < x.runEnd → exec (.cvTwinChunk u t) s = .next s1) ∧
        (r.2.2 = 0 → v = t → x.runEnd ≤ b → exec (.cvTwinChunk u t) s = .next
          (cvEnd (incFld (wr s1 (cvReg u 0x18) v) (cvStatAt u) 51 20) u stOk)) ∧
        (r.2.2 = 0 → v ≠ t → exec (.cvTwinChunk u t) s = .next
          (cvEnd (logEvent (incFld (setFlag (wr r.1 (cvReg u 0x18) (BitVec.ofNat 64 a)) (cvStatAt u) 63 true) (cvStatAt u) 19 4)
            0x0036 4 (0x100 + u.unit) 2 a) u stCheckMismatch))))

/-- Tile moves and cluster sparing: accepted, refused, ignored while one runs, and ended. Rules: R21, R136, R422, R423, R424, R426, R432, R438. -/
def Obligations.SparingCompletes : Prop :=
  ∀ (s : State) (d : Fin 4), running s = true →
    (∀ (v : Word), let g := setBits v 63 62 2
                   let s1 := plainWrite s .rlTmove (tmoveAt d) g
                   let s2 : State := { s1 with moving := mset 0 s1.moving d g }
      (tmoveState s d = 1 → exec (.tileMoveFault d v) s = .next s1) ∧
      (tmoveState s d ≠ 1 → (tmoveTile d g = none ∨ spareOk s2 d g = false) →
        exec (.tileMoveFault d v) s = .next (setTmove s2 d 2 1)) ∧
      (∀ t, tmoveState s d ≠ 1 → tmoveTile d g = some t → spareOk s2 d g = true → ∃ u, exec (.tileMoveFault d v) s = .next u ∧
        (let s3 := setTmove s2 d 1 0
         u = fenceTile (holdForMove (holdForMove (setPhys s3 d (epOf s3 t) { getPhys s3 d (epOf s3 t) with status := 3 }) t 0) t 1) t) ∧
        tmoveState u d = 1 ∧ (getTile u t).wtag = none ∧ (getTile u t).ready = none ∧ (getTile u t).vlanes = [])) ∧
    (∀ (v : Word) (b : Bool), let g := setBits v 63 62 3
                   let s1 := plainWrite s .rlTmove (tmoveAt d) g
                   let s2 : State := { s1 with moving := mset 0 s1.moving d g }
      (tmoveState s d = 1 → exec (.tileMoveRotate d v b) s = .next s1) ∧
      (tmoveState s d ≠ 1 → tmoveTile d g = none ∨ spareOk s2 d g = false → exec (.tileMoveRotate d v b) s = .next (setTmove s2 d 2 1)) ∧
      (∀ t, tmoveState s d ≠ 1 → tmoveTile d g = some t → quiesced s2 t = false → exec (.tileMoveRotate d v b) s = .next (setTmove s2 d 2 1)) ∧
      (∀ t, tmoveState s d ≠ 1 → tmoveTile d g = some t → spareOk s2 d g = true → quiesced s2 t = true →
        let old := epOf s2 t
        let new := tmoveSpare g
        let f := fenceTile s2 t
        exec (.tileMoveRotate d v b) s = .next (if b then
            movedEvent (setTmove (mapTo (modTile (invalidLas f t) t freshRegs) t old new 1) d 2 0) t old new true 0
          else
            movedEvent (setTmove (setFenced (setFstate (setPhys f d new { getPhys f d new with status := 2 }) d old 0) t false) d 2 2)
              t old new true 2))) ∧
    (tmoveState s d ≠ 1 → exec (.tileMoved d) s = .next s) ∧
    (tmoveState s d = 1 → tmoveTile d (mget 0 s.moving d.val) = none → exec (.tileMoved d) s = .next s) ∧
    (∀ t, tmoveState s d = 1 → tmoveTile d (mget 0 s.moving d.val) = some t →
      (getTile s t).passes ≠ [] ∨ (getTile s t).kernel.isSome = true → exec (.tileMoved d) s = .next s) ∧
    (∀ t, tmoveState s d = 1 → tmoveTile d (mget 0 s.moving d.val) = some t → (getTile s t).passes = [] → (getTile s t).kernel = none →
      epOf s t ≠ tmoveSpare (mget 0 s.moving d.val) → ∃ u, exec (.tileMoved d) s = .next u ∧ tmoveState u d = 2 ∧
        (getPhys u d (tmoveSpare (mget 0 s.moving d.val))).status = 0 ∧ (getPhys u d (epOf s t)).status = 2 ∧
        (getTile u t).mem.poison.all (fun c => 0x4000 ≤ c.1) = true ∧ (getTile u t).vlanes = [] ∧ (getTile u t).la = []) ∧
    (∀ (v : Word), let g := setBit v 63 true
                   let s1 := plainWrite s .rlCspare (cspareAt d) g
                   let r := cspareRegion d g
      (cspareState s d = 1 → exec (.clusterSpared d v) s = .next s1) ∧
      (cspareState s d ≠ 1 →
        (regState s1 r < 2 ∨ 4 < regState s1 r ∨ regBusy s1 r = true ∨ 200 ≤ bits g 58 51 →
          exec (.clusterSpared d v) s = .next (setCspare s1 d 2 2)) ∧
        (2 ≤ regState s1 r → regState s1 r ≤ 4 → regBusy s1 r = false → bits g 58 51 < 200 →
          (2 ≤ (getRegion s r).spares.length → exec (.clusterSpared d v) s = .next (setCspare s1 d 2 1)) ∧
          ((getRegion s r).spares.length < 2 → exec (.clusterSpared d v) s = .next
            (setCspare (setRegion { s1 with sparing := mset 0 s1.sparing d g } r { getRegion s r with paused := true }) d 1 0))))) ∧
    (cspareState s d ≠ 1 → ∀ b, exec (.clusterSpareDone d b) s = .next s) ∧
    (cspareState s d = 1 → ∀ b : Bool,
      let g := mget 0 s.sparing d.val
      let r := cspareRegion d g
      let c := bits g 58 51
      let x := getRegion s r
      let y : Region := if b then { x with paused := false, spares := x.spares ++ [c], hardWords :=
                            x.hardWords.filter (fun w => !(1 + 8 * c ≤ w / 128 && w / 128 < 9 + 8 * c)) }
                        else { x with paused := false, spares := x.spares ++ [255] }
      let res := if b then 0 else 3
      exec (.clusterSpareDone d b) s = .next (logEvent (setCspare (setRegion s r y) d 2 res) 0x0032 d r.n 2 (c + res * 2 ^ 8)))

/-- Scrubs, the watchdog, and faults that the duplicated control finds. Rules: R106, R159, R253, R408, R410, R411, R429, R435, R438, R465. -/
def Obligations.FaultsComplete : Prop :=
  ∀ (s : State) (d : Fin 4), running s = true →
    (∀ x e, sramValid d x = false → exec (.sramScrub d x e) s = .next s) ∧
    (∀ x, sramValid d x = true →
      exec (.sramScrub d x .good) s = .next s ∧
      exec (.sramScrub d x .corrected) s = .next (logEvent (incFld s (sramAt d) 57 42) 0x0003 d (sramPlace s x).1 1 (sramPlace s x).2)) ∧
    (∀ t o, sramValid d (.scratch t o) = true → exec (.sramScrub d (.scratch t o) .uncorrectable) s = .next
      (let y := getTile s t
       logEvent (satFld (setTile s t { y with mem := { y.mem with poison := mset false y.mem.poison (o / 64) true } }) (sramAt d) 41 34)
         0x0004 d (epOf s t) 2 o)) ∧
    (∀ x t o, x = .accum t o ∨ x = .kernelMem t o → sramValid d x = true → exec (.sramScrub d x .uncorrectable) s = .next
      (let y := getTile s t
       logEvent (satFld (setTile s t { y with accUe := mset false y.accUe (o / 8) true }) (sramAt d) 41 34) 0x0004 d (epOf s t) 2 o)) ∧
    (∀ n w, sramValid d (.blockMem n w) = true → ∃ u, exec (.sramScrub d (.blockMem n w) .uncorrectable) s = .next u ∧
      mget false (getRegion u ⟨d, ⟨n / 64 % 16, Nat.mod_lt _ (by decide)⟩⟩).bramUe (1024 * (n % 64) + w) = true ∧
      u.log = s.log ∧ u.tiles = s.tiles ∧ u.qcs = s.qcs ∧ ∀ b, b ≠ sramAt d → rd u b = rd s b) ∧
    (∀ n e, sramValid d (.queueMem n e) = true → ∃ u, exec (.sramScrub d (.queueMem n e) .uncorrectable) s = .next u ∧
      mget false (getQc u d n).ue e = true ∧ u.log = s.log ∧ u.tiles = s.tiles ∧ u.regions = s.regions ∧
      ∀ b, b ≠ sramAt d → rd u b = rd s b) ∧
    exec .beat s = .next { s with beat := nowNs s 4 } ∧
    (flag s wdogAt 62 = true → exec .watchdogExpiry s = .next (devFail s 0 8)) ∧
    (flag s wdogAt 62 = false → exec .watchdogExpiry s = .next s) ∧
    exec .lockstepMismatch s = .next (devFail s 0 8) ∧
    (∀ n : Fin 4, (shaleFitted s n = true → exec (.shaleCompareMismatch n) s = .next (devFail s 0 (4 + n.val))) ∧
      (shaleFitted s n = false → exec (.shaleCompareMismatch n) s = .next s)) ∧
    (∀ t, (mapped s t = true → exec (.controlCompareMismatch t) s = .next
        (tileFaultEvent (holdForControl (holdForControl s t 0) t 1) t 0 stTileFault)) ∧
      (mapped s t = false → exec (.controlCompareMismatch t) s = .next s))

/-! ### Boot, updates, dictionary, power, PCIe -/

/-- The steps of the boot run in order, or end in RECOVERY or HOLD, which stay; Fabric Ready releases the device and blows the fuses that
the manifest names; a recovery brings up the twin port, asks for the twin's slot and takes it. Rules: R378, R473, R475, R476, R478, R479,
R480, R481, R486, R491. -/
def Obligations.BootCompletes : Prop :=
  ∀ (s : State) (o : BootOutcome),
    (s.pins.stbyGood = false → exec .stbyGood s = .next { s with pins := { s.pins with stbyGood := true } }) ∧
    (s.pins.stbyGood = true → exec .stbyGood s = .next s) ∧
    (running s = true →
      (stage s = 4 ∨ stage s = 5 ∨ 9 ≤ s.bootStep → exec (.bootStage o) s = .next s) ∧
      (stage s ≠ 4 → stage s ≠ 5 →
        (s.bootStep = 0 → exec (.bootStage o) s = .next { s with bootStep := 1 }) ∧
        (s.bootStep = 1 → exec (.bootStage o) s = .next { s with bootStep := 2 }) ∧
        (s.bootStep = 2 →
          let x := slotOf s false
          let e := if manifestCheck s false x.manifest ≠ 0 then manifestCheck s false x.manifest
                   else if digest1Ok x = false ∨ updState s false ∈ [1, 2, 4] then stAuthFail else 0
          (e ≠ 0 → exec (.bootStage o) s = .next (setStage s 4 e)) ∧
          (e = 0 → exec (.bootStage o) s = .next (setStage
            (setFld { s with bootStep := 3, mgmt := { s.mgmt with running := x.manifest } } grBoot 40 39 (mfield x.manifest 6 1)) 1 0))) ∧
        (s.bootStep = 3 → exec (.bootStage o) s = .next { s with bootStep := 4, mgmt := { s.mgmt with segUp := true } }) ∧
        (s.bootStep = 4 → exec (.bootStage o) s = .next { (allPorts s).foldl bringUp s with bootStep := 5 }) ∧
        (s.bootStep = 5 → let s1 := allChannels.foldl (bootChannel o) s
          (allTrained s1 = true → exec (.bootStage o) s = .next { setFlag s1 hbmMap 63 true with bootStep := 6 }) ∧
          (allTrained s1 = false → exec (.bootStage o) s = .next (setStage s1 5 stHbmUntrained))) ∧
        (s.bootStep = 6 → digest2Ok (slotOf s false) = false → exec (.bootStage o) s = .next (setStage s 4 stAuthFail)) ∧
        (s.bootStep = 6 → digest2Ok (slotOf s false) = true → exec (.bootStage o) s = .next (setStage { s with bootStep := 7 } 2 0)) ∧
        (s.bootStep = 7 → ∃ u, exec (.bootStage o) s = .next u ∧ u.bootStep = 8 ∧ u.mgmt.unapplied = [] ∧
          objN u 0x0A02 4 = (objN s 0x0A02 4 + 1) % 2 ^ 32 ∧ u.tiles = s.tiles ∧ u.hbm = s.hbm ∧ stage u = stage s) ∧
        (s.bootStep = 8 →
          let x := slotOf s true
          let e := if manifestCheck s true x.manifest ≠ 0 then manifestCheck s true x.manifest
                   else if digest1Ok x then 0 else stAuthFail
          let s1 := objSetN { s with bootStep := 9 } 0x0232 7 e
          (e ≠ 0 → exec (.bootStage o) s = .next s1) ∧
          (e = 0 → exec (.bootStage o) s = .next
            (setFlag (objSet (hbmPut s1 (fwEnd s.part) (stage1Of x) (fun _ => false)) 0x0232 6 (mpart x.manifest 24 64)) grBoot 38 true)))) ∧
      (s.bootStep < 8 ∨ stage s = 3 ∨ stage s = 4 ∨ s.failed = true → exec .fabricReady s = .next s) ∧
      (8 ≤ s.bootStep → stage s ≠ 3 → stage s ≠ 4 → s.failed = false →
        (allTrained s = false → exec .fabricReady s = .next (setStage s 5 stHbmUntrained)) ∧
        (allTrained s = true → s.fabric.dev = none → exec .fabricReady s = .next (setStage s 5 stBooting)) ∧
        (allTrained s = true → s.fabric.dev.isSome = true → ∃ u, exec .fabricReady s = .next u ∧ fabricReadyNow u = true ∧ stage u = 3 ∧
          u.pins.devReady = true ∧ u.beat = nowNs s 4 ∧ flag u wdogAt 62 = true ∧ (s.twin.partner = none → twinState u = 1) ∧
          (let m := s.mgmt.running
           svnFused u = (if mfield m 7 1 % 2 = 1 then max (svnFused s) (min (mfield m 12 2) 64) else svnFused s) ∧
           revoked u = (revoked s ||| (mfield m 7 1 / 2 % 16 &&& (15 - 2 ^ fld s grBoot 40 39)))))) ∧
      (s.mgmt.retryWait = true → s.mgmt.fetchTries < 3 → exec .recoveryRetry s = .next { s with mgmt := { s.mgmt with retryWait := false } }) ∧
      (s.mgmt.retryWait = false ∨ 3 ≤ s.mgmt.fetchTries → exec .recoveryRetry s = .next s) ∧
      (∀ b m i,
        (stage s ≠ 4 ∨ objN s 0x0221 1 ≠ 1 ∨ s.fabric.dev = none → exec (.recoveryFetch b m i) s = .next s) ∧
        (stage s = 4 → objN s 0x0221 1 = 1 → s.fabric.dev.isSome = true →
          let fails (t : State) : State :=
            { t with mgmt := { t.mgmt with fetching := false, fetchTries := t.mgmt.fetchTries + 1, retryWait := true } }
          let y : ImageSlot := { manifest := m, image := i.take (imageLen m) }
          let t := setSlot s false y
          (s.mgmt.fetching = false → updState s false = 1 ∨ updState s false = 2 ∨ s.mgmt.retryWait = true ∨ 3 ≤ s.mgmt.fetchTries →
            exec (.recoveryFetch b m i) s = .next s) ∧
          (s.mgmt.fetching = false → updState s false ≠ 1 → updState s false ≠ 2 → s.mgmt.retryWait = false → s.mgmt.fetchTries < 3 →
            (portState s (twinPort s) < 5 ∨ 6 < portState s (twinPort s) →
              exec (.recoveryFetch b m i) s = .next (bringUp s (twinPort s))) ∧
            (portState s (twinPort s) = 5 ∨ portState s (twinPort s) = 6 → exec (.recoveryFetch b m i) s = .next
              { s with mgmt := { s.mgmt with fetching := true }, linkOut := s.linkOut ++ [.fetchAsk] })) ∧
          (s.mgmt.fetching = true → b = false ∨ manifestCheck s false m ≠ 0 → exec (.recoveryFetch b m i) s = .next (fails s)) ∧
          (s.mgmt.fetching = true → b = true → manifestCheck s false m = 0 →
            (digest1Ok y = false ∨ digest2Ok y = false → exec (.recoveryFetch b m i) s = .next (fails t)) ∧
            (digest1Ok y = true → digest2Ok y = true → exec (.recoveryFetch b m i) s = .next
              (deviceReset (setUpd { t with mgmt := { t.mgmt with fetchTries := 0 } } false 0) true))))))

/-- A reset and the power rails: what the always-on domain, the log and HBM keep, and what is lost. Rules: R290, R339, R368, R433, R481,
R491, R492, R493, R502, R503. -/
def Obligations.ResetsComplete : Prop :=
  ∀ (s : State),
    (s.pins.pwrGood = true → ∃ u, exec .rstN s = .next u ∧ u.tiles = [] ∧ u.regions = [] ∧ u.qcs = [] ∧ u.log = s.log ∧
      u.hbm.mem = s.hbm.mem ∧ u.hbm.repaired = s.hbm.repaired ∧ u.hbm.recorded = s.hbm.recorded ∧ u.bootStep = 0 ∧
      u.pins.devReady = false ∧ amberState u = 0 ∧ u.pending = s.pending ∧ u.linkOut = s.linkOut ∧
      rd u logNewAt = rd s logNewAt ∧ svnFused u = svnFused s ∧ revoked u = revoked s) ∧
    (s.pins.pwrGood = false → exec .rstN s = .next s) ∧
    (∀ g, s.pins.stbyGood = true → s.pins.pwrGood = false → ∃ u, exec (.pwrGoodRise g) s = .next u ∧ u.tiles = [] ∧
      u.hbm = { recorded := s.hbm.recorded, hard := s.hbm.hard } ∧ u.log = s.log ∧ u.pins.gmode = g ∧ u.pins.pwrGood = true ∧
      u.bootStep = 0 ∧ u.hot = [] ∧ flag u grPcie 63 = g) ∧
    (∀ g, s.pins.stbyGood = false ∨ s.pins.pwrGood = true → exec (.pwrGoodRise g) s = .next s) ∧
    (s.pins.stbyGood = true → ∃ u, exec .stbyGoodFall s = .next u ∧ u.log = [] ∧ u.mgmt.sessions = [] ∧ u.pins.stbyGood = false ∧
      rd u logNewAt = 0 ∧ rd u logOvrAt = 0 ∧ u.mgmt.fw = s.mgmt.fw ∧ u.mgmt.host = s.mgmt.host ∧ u.tiles = s.tiles) ∧
    (s.pins.stbyGood = false → exec .stbyGoodFall s = .next s) ∧
    (s.pins.pwrGood = true → ∃ u, exec .pwrGoodFall s = .next u ∧ u.pins.pwrGood = false ∧ u.pins.devReady = false ∧
      u.pins.thermN = true ∧ u.pins.thermHold = false ∧ amberState u = 0 ∧ running u = false ∧ u.tiles = s.tiles ∧
      u.linkOut = (if amberState s = 0 ∧ (twinState s = 2 ∨ twinState s = 3) then s.linkOut ++ [.failNotice] else s.linkOut)) ∧
    (s.pins.pwrGood = false → exec .pwrGoodFall s = .next s) ∧
    (∀ d : Fin 9, s.pins.pwrGood = true → s.part.dieFitted d.val = true →
      (amberState s = 0 → exec (.railFault d) s = .next (devFail s 0 d)) ∧
      (amberState s ≠ 0 → exec (.railFault d) s = .next { devFail s 0 d with linkOut := s.linkOut })) ∧
    (∀ d : Fin 9, s.pins.pwrGood = false ∨ s.part.dieFitted d.val = false → exec (.railFault d) s = .next s) ∧
    (updServed s false = true → s.pins.pwrGood = true → updState s false = 0 ∨ updState s false = 3 →
      exec .updReset s = .next (deviceReset (noticeTwin s) true)) ∧
    (updServed s false = false ∨ s.pins.pwrGood = false ∨ (updState s false ≠ 0 ∧ updState s false ≠ 3) →
      exec .updReset s = .next s)

/-- Manifests, data, commit and abort of both image slots; owner keys, nonce and report; policy and region operations of the firmware.
Rules: R446, R454, R455, R473, R480, R481, R485, R488. -/
def Obligations.UpdatesComplete : Prop :=
  ∀ (s : State) (host : Bool),
    (updServed s host = false → ∀ m d, exec (.manifest host m) s = .next s ∧ exec (.updData host d) s = .next s ∧
      exec (.updCommit host) s = .next s ∧ exec (.updAbort host) s = .next s) ∧
    (updServed s host = true →
      let x := slotOf s host
      let off := objN s (updIdx host) 3
      (∀ m, host = false → s.mgmt.fetching = true → exec (.manifest host m) s = .next s) ∧
      (∀ m, host = true ∨ s.mgmt.fetching = false →
        (manifestCheck s host m ≠ 0 → exec (.manifest host m) s = .next (setUpdResult s host (manifestCheck s host m))) ∧
        (manifestCheck s host m = 0 → ∃ u, exec (.manifest host m) s = .next u ∧ updState u host = 1 ∧
          slotOf u host = { manifest := m, image := [] } ∧ objN u (updIdx host) 3 = 0 ∧ slotOf u (!host) = slotOf s (!host) ∧
          (host = false → objN u 0x0220 6 = 0) ∧ u.csr = s.csr ∧ u.tiles = s.tiles)) ∧
      (∀ d, 16384 < d.length ∨ updState s host ≠ 1 ∨ imageLen x.manifest < off + d.length → exec (.updData host d) s = .next s) ∧
      (∀ d, d.length ≤ 16384 → updState s host = 1 → off + d.length ≤ imageLen x.manifest → exec (.updData host d) s = .next
        (objSetN (setSlot s host { x with image := x.image.take off ++ d }) (updIdx host) 3 (off + d.length))) ∧
      (digest1Ok x = true → (host = true ∨ digest2Ok x = true) →
        exec (.updCommit host) s = .next (setUpdResult (objSetN s (updIdx host) 5 3) host stOk)) ∧
      (digest1Ok x = false ∨ (host = false ∧ digest2Ok x = false) →
        exec (.updCommit host) s = .next (setUpdResult (objSetN s (updIdx host) 5 4) host stAuthFail)) ∧
      exec (.updAbort host) s = .next (objSetN s (updIdx host) 5 4)) ∧
    (∀ ml k, s.pins.stbyGood = true → s.mgmt.segUp = true → (k = [] ∨ k.length = ownerKeyLen ml) →
      (accepted s.mgmt = 0 → ∃ u, exec (.ownerKeyWrite ml k) s = .next u ∧ objGet u 0x0212 (if ml then 2 else 1) = k ∧
        u.mgmt.sessions = s.mgmt.sessions.filter (fun x => x.level != 2) ∧ u.mgmt.regionOp = none ∧
        objGet u 0x0C10 1 = [] ∧ objGet u 0x0C11 1 = [] ∧ u.csr = s.csr ∧ u.tiles = s.tiles) ∧
      (accepted s.mgmt ≠ 0 → ∃ u, exec (.ownerKeyWrite ml k) s = .next u ∧ objGet u 0x0212 (if ml then 2 else 1) = k ∧
        u.mgmt.sessions = s.mgmt.sessions ∧ u.mgmt.ownerEnds = some (accepted s.mgmt) ∧ u.csr = s.csr ∧ u.tiles = s.tiles)) ∧
    (∀ ml k, s.pins.stbyGood = false ∨ s.mgmt.segUp = false ∨ (k ≠ [] ∧ k.length ≠ ownerKeyLen ml) →
      exec (.ownerKeyWrite ml k) s = .next s) ∧
    (∀ v, fwRuns s = true → v.length ≤ 32 → exec (.nonce v) s = .next (objSet s 0x0231 1 v)) ∧
    (∀ v, fwRuns s = false ∨ 32 < v.length → exec (.nonce v) s = .next s) ∧
    (fwRuns s = true → objGet s 0x0231 1 ≠ [] → ∃ u, exec .report s = .next u ∧ objGet u 0x0231 1 = [] ∧
      u.dgrams = s.dgrams ++ [{ addr := 0, port := 0, data := reportBytes s }] ∧ u.csr = s.csr) ∧
    (fwRuns s = false ∨ objGet s 0x0231 1 = [] → exec .report s = .next s) ∧
    (∀ o, fwRuns s = true → s.mgmt.unapplied.contains o = true → exec (.policyApply o) s = .next
      (applyPolicy { s with mgmt := { s.mgmt with unapplied := s.mgmt.unapplied.erase o } } o.index.toNat o.sub.toNat)) ∧
    (∀ o, fwRuns s = false ∨ s.mgmt.unapplied.contains o = false → exec (.policyApply o) s = .next s) ∧
    (∀ c n, c = .regionLoad ∧ n = 1 ∨ c = .regionClear ∧ n = 2 ∨ c = .regionHalt ∧ n = 3 ∨ c = .regionResume ∧ n = 4 →
      (fwRuns s = false → exec c s = .next s) ∧
      (fwRuns s = true → s.mgmt.regionOp = none → exec c s = .next
        (regionStep (setRegionOp (objSetN s 0x0C20 6 1) (some (n, 0))))) ∧
      (∀ k j, fwRuns s = true → s.mgmt.regionOp = some (k, j) → k ≠ n → exec c s = .next s) ∧
      (∀ j, fwRuns s = true → s.mgmt.regionOp = some (n, j) → exec c s = .next (regionStep s))) ∧
    (let r := opRegion s
     (∀ j, fwRuns s = true → s.mgmt.regionOp = some (3, j) → exec .regionHalt s = .next (endRegionOp (doHalt s r) (cfgLast (doHalt s r) r))) ∧
     (∀ j, fwRuns s = true → s.mgmt.regionOp = some (4, j) → exec .regionResume s = .next
       (endRegionOp (doResume s r) (cfgLast (doResume s r) r))) ∧
     (fwRuns s = true → s.mgmt.regionOp = some (2, 0) → exec .regionClear s = .next (setRegionOp (doClear s r) (some (2, 1)))) ∧
     (fwRuns s = true → s.mgmt.regionOp = some (2, 1) → regBusy s r = false → exec .regionClear s = .next
       (endRegionOp s (cfgLast s r))) ∧
     (fwRuns s = true → s.mgmt.regionOp = some (1, 0) → bitSigsOk s = false → exec .regionLoad s = .next (endRegionOp s stAuthFail)))

/-- Requests of one to sixty-four entries are queued and served in order; a flash write holds the queue; a request by a session counts its
message; a bare write is refused with DICT_SESSION; a policy value of its type and range written in a session of its level is stored
(R442-R451). -/
def Obligations.DictionaryCompletes : Prop :=
  (∀ (s : State) (v : DictVia) (es : List DictRef) (ws : List (DictRef × List Byte)),
      let t := match v with | .session n => modSession s n (fun x => { x with rx := x.rx + 1, lastResp := [] }) | _ => s
      (viaUp s v = false ∨ es.length = 0 ∨ 64 < es.length → exec (.dictRead v es) s = .next s ∧ exec (.describe v es) s = .next s) ∧
      (viaUp s v = false ∨ ws.length = 0 ∨ 64 < ws.length → exec (.dictWrite v ws) s = .next s) ∧
      (viaUp s v = true → 1 ≤ es.length → es.length ≤ 64 →
        exec (.dictRead v es) s = .next (submit t { via := v, mtype := 1, es := es.map (fun o => (o, [])) }) ∧
        exec (.describe v es) s = .next (submit t { via := v, mtype := 3, es := es.map (fun o => (o, [])) })) ∧
      (viaUp s v = true → 1 ≤ ws.length → ws.length ≤ 64 →
        exec (.dictWrite v ws) s = .next (submit t { via := v, mtype := 2, es := ws })) ∧
      (viaUp s v = true → s.mgmt.flashBusy = true → 1 ≤ ws.length → ws.length ≤ 64 → exec (.dictWrite v ws) s = .next
        { t with mgmt := { t.mgmt with queue := t.mgmt.queue ++ [{ via := v, mtype := 2, es := ws }] } })) ∧
  (∀ (s : State) (o : DictRef), segServed s = true → s.mgmt.flashBusy = false → s.mgmt.queue = [] → s.mgmt.ownerEnds = none →
      exec (.dictRead .bare [o]) s = .next
        (sendBare s 0 0 0x81 0 ([1, 0] ++ respEntry o (readEntry s .bare o).1 (readEntry s .bare o).2.1))) ∧
  (∀ (s : State),
      (s.mgmt.flashBusy = true → s.pins.stbyGood = true →
        let t : State := { s with mgmt := { s.mgmt with flashBusy := false, heldReply := none } }
        (s.mgmt.queue = [] → s.mgmt.heldReply = none → exec .flashWriteDone s = .next t) ∧
        (∀ q pay, s.mgmt.heldReply = some (q, pay) →
          exec .flashWriteDone s = .next (serveQueue (respond t q pay).mgmt.queue.length (respond t q pay)))) ∧
      (s.mgmt.flashBusy = false ∨ s.pins.stbyGood = false → exec .flashWriteDone s = .next s)) ∧
  (∀ (s : State) (o : DictRef) (v : List Byte),
      writeEntry s .bare o v = (stDictSession, s, false) ∧
      (∀ n i, screen s (.session n) o.index.toNat o.sub.toNat 3 = 0 → rowOf s.part o.index.toNat o.sub.toNat = some i →
        typeOk i o.index.toNat v = true → rangeOk i o.index.toNat o.sub.toNat v = true → objBusy s o.index.toNat o.sub.toNat = false →
        objAbsent s.part o.index.toNat o.sub.toNat = false → 0x1000 ≤ o.index.toNat → o.index.toNat ≤ 0x1FFF →
        ∃ u f, writeEntry s (.session n) o v = (stOk, u, f) ∧ objGet u o.index.toNat o.sub.toNat = v ∧ o ∈ u.mgmt.unapplied ∧ u.csr = s.csr))

/-- Sessions open, prove, carry events, and end; fragments are reassembled; the mailbox sends its request in packets and S0 takes them.
Rules: R456, R457, R458, R459, R460, R461, R462, R463. -/
def Obligations.SessionsComplete : Prop :=
  ∀ (s : State) (n : Nat),
    (segServed s = false → ∀ a p l x k z ed ml late dg lsn, exec (.sessionOpen a p l x k z) s = .next s ∧
      exec (.prove n ed ml late) s = .next s ∧ exec (.sessionClose n) s = .next s ∧ exec (.subscribe n) s = .next s ∧
      exec (.eventAck n lsn) s = .next s ∧ exec (.eventResend n) s = .next s ∧ exec (.thaunoFragment a p dg) s = .next s ∧
      exec (.neighborSolicitation a a) s = .next s) ∧
    (segServed s = true →
      (∀ a p l x k z, x.length ≠ 32 ∨ k.length ≠ 1184 ∨ z.length ≠ 32 → exec (.sessionOpen a p l x k z) s = .next s) ∧
      (∀ a p l x k z, 8 ≤ openCount s → x.length = 32 → k.length = 1184 → z.length = 32 → exec (.sessionOpen a p l x k z) s = .next
        { s with dgrams := s.dgrams ++ [{ addr := a, port := p, data := makeFrag none 0x92 0 0 0 1 (leBytes 1 stDictBusy) }] }) ∧
      (∀ a p l x k z, openCount s < 8 → x.length = 32 → k.length = 1184 → z.length = 32 → ∃ u y fs, exec (.sessionOpen a p l x k z) s = .next u ∧
        u.mgmt.sessions = s.mgmt.sessions ++ [y] ∧ y.id = s.mgmt.nextSess ∧ y.level = l.toNat ∧ y.opened = false ∧ y.addr = a ∧ y.port = p ∧
        u.mgmt.nextSess = s.mgmt.nextSess % (2 ^ 32 - 1) + 1 ∧ u.csr = s.csr ∧ u.dgrams = s.dgrams ++ fs ∧ fs.length = 4 ∧
        ∀ f ∈ fs, f.addr = a ∧ f.port = p) ∧
      (∀ ed ml late, findSession s n = none → exec (.prove n ed ml late) s = .next s) ∧
      (∀ x ed ml late, findSession s n = some x →
        (x.opened = true → exec (.prove n ed ml late) s = .next s) ∧
        (x.opened = false → proveStatus s x ed ml late ≠ 0 → exec (.prove n ed ml late) s = .next
          (sendBare (endSession s n) x.addr x.port 0x92 n (leBytes 1 (proveStatus s x ed ml late)))) ∧
        (x.opened = false → proveStatus s x ed ml late = 0 → exec (.prove n ed ml late) s = .next
          (sendBare (modSession s n (fun y => { y with opened := true, frags := none })) x.addr x.port 0x92 n (leBytes 1 0)))) ∧
      (openSession s n = none → exec (.sessionClose n) s = .next s ∧ exec (.subscribe n) s = .next s ∧ exec (.eventResend n) s = .next s ∧
        ∀ lsn, exec (.eventAck n lsn) s = .next s) ∧
      (∀ x, openSession s n = some x →
        (exec (.sessionClose n) s = .next (endSession
          (sendFrags (modSession s n (fun y => { y with tx := y.tx + 1 })) x.addr x.port (message (some x.key) 0x94 n (x.tx + 1) [])) n)) ∧
        (exec (.subscribe n) s = .next (modSession s n (fun y =>
          { y with feed := true, feedNext := (rd s logNewAt).toNat + 1, unacked := none, resends := 0 }))) ∧
        (x.unacked = none → exec (.eventResend n) s = .next s ∧ ∀ lsn, exec (.eventAck n lsn) s = .next s) ∧
        (∀ m f, x.unacked = some (m, f) →
          let on := feedPump (modSession s n (fun y => { y with feedNext := m + 1, unacked := none, resends := 0 }))
          (∀ lsn, m ≤ lsn.toNat → exec (.eventAck n lsn) s = .next on) ∧
          (∀ lsn, lsn.toNat < m → exec (.eventAck n lsn) s = .next s) ∧
          (x.resends < 20 → exec (.eventResend n) s = .next
            (sendFrags (modSession s n (fun y => { y with resends := y.resends + 1 })) x.addr x.port [f])) ∧
          (20 ≤ x.resends → exec (.eventResend n) s = .next on))) ∧
      (∀ a p dg, headerOk dg = false → exec (.thaunoFragment a p dg) s = .next s) ∧
      (∀ a p dg, headerOk dg = true → mfield dg 4 4 = 0 → exec (.thaunoFragment a p dg) s = .next (bareFragment s a p dg)) ∧
      (∀ a p dg, headerOk dg = true → mfield dg 4 4 = n → n ≠ 0 →
        (findSession s n = none → exec (.thaunoFragment a p dg) s = .next s) ∧
        (∀ x, findSession s n = some x →
          (x.opened = true → fragTag x.key (dg.take 16 ++ leBytes 16 0 ++ dg.drop 32) ≠ mpart dg 16 16 →
            exec (.thaunoFragment a p dg) s = .next s) ∧
          (x.opened = false ∨ fragTag x.key (dg.take 16 ++ leBytes 16 0 ++ dg.drop 32) = mpart dg 16 16 →
            let g := addFrag x.frags (mfield dg 3 1) (mfield dg 8 4) (mfield dg 13 1) (mfield dg 12 1) (dg.drop 32)
            let s1 := modSession s x.id (fun y => { y with frags := none })
            (whole g = none → exec (.thaunoFragment a p dg) s = .next (modSession s x.id (fun y => { y with frags := some g }))) ∧
            (∀ d, whole g = some d → x.opened = true → exec (.thaunoFragment a p dg) s = .next (sessionMessage s1 x g.mtype g.ctr d)) ∧
            (∀ d, whole g = some d → x.opened = false → exec (.thaunoFragment a p dg) s = .next (handshakeMessage s1 x g.mtype d))))) ∧
      (∀ t a, addrBytes t = linkLocal → exec (.neighborSolicitation t a) s = .next
        { s with dgrams := s.dgrams ++ [{ addr := a, port := 0, data := linkLocal ++ leBytes 6 Config.mac.toNat }] }) ∧
      (∀ t a, addrBytes t ≠ linkLocal → exec (.neighborSolicitation t a) s = .next s)) ∧
    (exec (.sessionTimeout n) s = .next { s with mgmt := { s.mgmt with sessions := s.mgmt.sessions.filter (fun x => x.id != n) } }) ∧
    (n ≠ 0 → exec (.reassemblyTimeout n) s = .next (modSession s n (fun x => { x with frags := none }))) ∧
    (exec (.reassemblyTimeout 0) s = .next { s with mgmt := { s.mgmt with frags0 := [] } }) ∧
    (running s = true →
      (∀ p, p.op ≠ 0x60 ∨ p.dest ≠ nodeOf 4 3 ∨ arrived s p = false → exec (.mgmt p) s = .next s) ∧
      (∀ p, p.op = 0x60 → p.dest = nodeOf 4 3 → arrived s p = true →
        let c : Fin 2 := if nodeEp p.src = 3 then 0 else 1
        let g := getTag s p.src.toNat p.tag.toNat
        let mine := p.src = mbNode c ∧ g.use = some (.mailbox c) ∧ g.gen = p.gen
        (mfind s.mgmt.mbox c = none ∨ ¬mine → exec (.mgmt p) s = .next (answer s p stOk)) ∧
        (∀ m, mfind s.mgmt.mbox c = some m → mine →
          let m1 : MbMsg := { m with got := m.got ++ p.data, bad := m.bad || p.poison != 0 }
          let s1 := setMbox (answer s p stOk) c m1
          (m1.got.length < m1.len → exec (.mgmt p) s = .next s1) ∧
          (m1.len ≤ m1.got.length → m1.bad = true → exec (.mgmt p) s = .next (mbEnd s1 c stPoison 0)) ∧
          (m1.len ≤ m1.got.length → m1.bad = false → exec (.mgmt p) s = .next (mbMessage s1 c m1.got)))) ∧
      (∀ (c : Fin 2) v, let s1 := plainWrite s .mbCtl (mbCtl c) (setBit v 63 true)
                        let s2 := setFlag s1 (mbCtl c) 62 true
                        let len := fld s2 (mbCtl c) 61 47
        (flag s1 (mbCtl c) 62 = true → exec (.mbGo c v) s = .next s1) ∧
        (flag s1 (mbCtl c) 62 = false → mbBuffer s2 c = none ∨ len < 32 ∨ 19232 < len → exec (.mbGo c v) s = .next
          (mbEnd { s2 with freeCtr := s2.freeCtr + 1 } c (1 + (Config.free s2.freeCtr).toNat % 0x6F) 0)) ∧
        (∀ a, flag s1 (mbCtl c) 62 = false → mbBuffer s2 c = some a → 32 ≤ len → len ≤ 19232 → exec (.mbGo c v) s = .next
          (mbPump (setMbox s2 c { addr := a, len := len }) c))))

/-- Current and temperature act on the stretch, the trips and THERM_N by their first matching row; the reference clocks, the power cap
and the samples. Rules: R430, R494, R497, R498, R499, R501, R502, R505, R506, R507. -/
def Obligations.PowerCompletes : Prop :=
  ∀ (s : State) (d : Fin 4), running s = true →
    (∀ amps ov t st, let s1 := setDieHot s d (decide ((95 : Int) ≤ t)) ((st : List Int).take s.part.positions)
      (1200 ≤ amps → 1000 ≤ ov → exec (.currentSample d amps ov t st) s = .next (thermLow (powerFail s1 d 6) true)) ∧
      (1000 ≤ amps → amps < 1200 ∨ ov < 1000 → exec (.currentSample d amps ov t st) s = .next (tripDie s1 d 1)) ∧
      (amps < 1000 → 105 ≤ t → exec (.currentSample d amps ov t st) s = .next (tripDie s1 d 3)) ∧
      (amps < 1000 → t < 105 → flag s1 (pwStat d) 60 = true → nowNs s1 d < mget 0 s1.tripAt d + 10000 →
        exec (.currentSample d amps ov t st) s = .next s1) ∧
      (amps < 1000 → t < 105 → flag s1 (pwStat d) 60 = false ∨ mget 0 s1.tripAt d + 10000 ≤ nowNs s1 d →
        let s2 := setFlag s1 (pwStat d) 60 false
        (limitA s2 d < amps ∨ flag s2 (pwStat d) 59 = true →
          (stretch s2 d < 7 → mget 0 s2.levelAt d + 1000 ≤ nowNs s2 d →
            exec (.currentSample d amps ov t st) s = .next (setStretch s2 d (stretch s2 d + 1))) ∧
          (stretch s2 d = 7 ∨ nowNs s2 d < mget 0 s2.levelAt d + 1000 → exec (.currentSample d amps ov t st) s = .next s2)) ∧
        (amps ≤ limitA s2 d → flag s2 (pwStat d) 59 = false → 95 * limitA s2 d ≤ 100 * amps →
          exec (.currentSample d amps ov t st) s = .next s2) ∧
        (flag s2 (pwStat d) 59 = false → 100 * amps < 95 * limitA s2 d →
          (0 < stretch s2 d → mget 0 s2.levelAt d + 10000 ≤ nowNs s2 d →
            exec (.currentSample d amps ov t st) s = .next (setStretch s2 d (stretch s2 d - 1))) ∧
          (stretch s2 d = 0 ∨ nowNs s2 d < mget 0 s2.levelAt d + 10000 → exec (.currentSample d amps ov t st) s = .next s2)))) ∧
    (∀ (e : Fin 9) t, s.part.dieFitted e.val = false → exec (.temperatureLimit e t) s = .next s) ∧
    (∀ (e : Fin 9) t, s.part.dieFitted e.val = true →
      (115 ≤ t → exec (.temperatureLimit e t) s = .next (thermLow (powerFail s e 3) true)) ∧
      (105 ≤ t → t < 115 → exec (.temperatureLimit e t) s = .next
        (thermLow ((List.range 4).foldl (fun s d => tripDie s d 3) { s with hot := mset false s.hot e true }) false)) ∧
      (t < 105 →
        let s1 : State := if t < 100 then { s with hot := mset false s.hot e false } else s
        let s2 : State := if s1.hot = [] ∧ s1.pins.thermHold = false then { s1 with pins := { s1.pins with thermN := true } } else s1
        (t < 95 ∨ 4 ≤ e.val → exec (.temperatureLimit e t) s = .next s2) ∧
        (95 ≤ t → e.val < 4 → flag s2 (pwStat e) 59 = true →
          exec (.temperatureLimit e t) s = .next (riseStretch (setFlag s2 (pwStat e) 59 true) e)) ∧
        (95 ≤ t → e.val < 4 → flag s2 (pwStat e) 59 = false →
          exec (.temperatureLimit e t) s = .next (riseStretch (powerEvent (setFlag s2 (pwStat e) 59 true) e e 2) e)))) ∧
    exec (.refclkLoss true) s = .next (powerFail s 4 5) ∧
    exec (.refclkLoss false) s = .next (powerEvent { s with pins := { s.pins with refSel := 1 - s.pins.refSel } } 4 4 4) ∧
    (∀ n, fwRuns s = false → exec (.powerCapUpdate n) s = .next s) ∧
    (∀ n, fwRuns s = true → ∃ u, exec (.powerCapUpdate n) s = .next u ∧ 200 ≤ limitA u d ∧ limitA u d ≤ 1000 ∧ u.tiles = s.tiles ∧
      ∀ b, (∀ e : Fin 4, b ≠ pwCtl e) → rd u b = rd s b) ∧
    (∀ (e : Fin 9) t p (a : BitVec 11) st, s.part.dieFitted e.val = false → exec (.telemetrySample e t p a st) s = .next s) ∧
    (∀ (e : Fin 9) t p (a : BitVec 11) st, s.part.dieFitted e.val = true → ∃ u, exec (.telemetrySample e t p a st) s = .next u ∧
      objN u 0x0E10 (e + 1) = t.toNat ∧ objN u 0x0E11 (e + 1) = p.toNat ∧ u.tiles = s.tiles ∧
      (e.val < 4 → fld u (pwStat e) 58 48 = a.toNat) ∧
      (∀ b, (e.val < 4 → b ≠ pwStat e) → rd u b = rd s b))

/-- The PCIe port: link, interrupts, and requests through its windows, served, refused or ignored. Rules: R32, R33, R469, R470, R487. -/
def Obligations.PcieCompletes : Prop :=
  ∀ (s : State), running s = true →
    (∀ (v : Fin 6) (w : Fin 5), ∃ u, exec (.pcieLinkUp v w) s = .next u ∧ fld u grPcie 62 60 = v.val + 1 ∧ fld u grPcie 59 55 = 2 ^ w.val ∧
      (∀ b, b ≠ grPcie → rd u b = rd s b)) ∧
    (pcieUp s = true → exec .pcieLinkDown s = .next (setFlag (setFld s grPcie 62 55 0) grPcie 54 true)) ∧
    (pcieUp s = false → exec .pcieLinkDown s = .next s) ∧
    (∀ k : Fin 64, pcieEndpoint s = true → pcieUp s = true → leNat (bar2Bytes s (16 * k + 12) 1) % 2 = 0 → exec (.msix k) s = .next
      { s with pcieOut := s.pcieOut ++ [.msi (leNat (bar2Bytes s (16 * k) 8)) (bar2Bytes s (16 * k + 8) 4)] }) ∧
    (∀ k : Fin 64, pcieEndpoint s = false ∨ pcieUp s = false ∨ leNat (bar2Bytes s (16 * k + 12) 1) % 2 = 1 →
      exec (.msix k) s = .next s) ∧
    (∀ r : PcieRequest, pcieUp s = false ∨ r.len = 0 ∨ (r.isWrite = true ∧ r.data.length ≠ r.len) ∨ pcieEndpoint s ≠ r.fromBoard →
      exec (.pcieRequest r) s = .next s) ∧
    (∀ r : PcieRequest, pcieUp s = true → r.len ≠ 0 → (r.isWrite = true → r.data.length = r.len) → pcieEndpoint s = r.fromBoard →
      let reply (m : PcieMsg) (t : State) : State := { t with pcieOut := s.pcieOut ++ [m] }
      let at_ (a : Nat) : State :=
        if mapStatus s.part .host a r.len ≠ 0 then reply (.completion (mapStatus s.part .host a r.len) []) s
        else if (List.range 1024).countP (fun t => (getTag s 0x802 t).use.isNone) < (pieces a r.len).length then s
        else (pieces a r.len).foldl (hostRequest r.isWrite r.data) s
      (r.fromBoard = true → r.bar = 0 → r.offset + r.len ≤ 2 ^ 30 →
        exec (.pcieRequest r) s = .next (at_ (fld s grPcie 53 36 * 2 ^ 30 + r.offset))) ∧
      (r.fromBoard = true → r.bar = 2 → r.offset + r.len ≤ 4096 →
        (r.isWrite = false → exec (.pcieRequest r) s = .next (reply (.completion stOk (bar2Bytes s r.offset r.len)) s)) ∧
        (r.isWrite = true → exec (.pcieRequest r) s = .next
          (reply (.completion stOk []) { s with bar2 := bar2Put s.bar2 r.offset r.data }))) ∧
      (r.fromBoard = true → (r.bar = 0 → 2 ^ 30 < r.offset + r.len) → (r.bar = 2 → 4096 < r.offset + r.len) →
        exec (.pcieRequest r) s = .next (reply .unsupported s)) ∧
      (r.fromBoard = false → r.iommu = none → exec (.pcieRequest r) s = .next (reply .unsupported s)) ∧
      (∀ a, r.fromBoard = false → r.iommu = some a → exec (.pcieRequest r) s = .next (at_ a)))
end

