-- ==== Sys2Proof/Laws/Bits.lean ====
section
/-! SUPPORT. Sparse tables: reading back what was stored, and the canonical form. -/

namespace Sys2Proof

/-- Storing under a key from `lo` on keeps a canonical tail. -/
theorem mwfFrom_mput {α : Type} [DecidableEq α] (d : Nat → α) (k : Nat) (v : α) (hv : v ≠ d k) :
    ∀ (m : SMap α) (lo : Nat), lo ≤ k → mwfFrom d lo m = true → mwfFrom d lo (mput m k v) = true
  | [], lo, hk, _ => by simp [mput, mwfFrom, hk, hv]
  | (k', v') :: r, lo, hk, h => by
    simp only [mwfFrom, Bool.and_eq_true, decide_eq_true_eq] at h
    obtain ⟨⟨h1, h2⟩, h3⟩ := h
    unfold mput
    split
    · rename_i e; subst e; simp [mwfFrom, h1, hv, h3]
    · split
      · rename_i hlt
        simp only [mwfFrom, Bool.and_eq_true, decide_eq_true_eq]
        exact ⟨⟨hk, hv⟩, ⟨⟨hlt, h2⟩, h3⟩⟩
      · rename_i hne hge
        simp only [mwfFrom, Bool.and_eq_true, decide_eq_true_eq]
        exact ⟨⟨h1, h2⟩, mwfFrom_mput d k v hv r (k' + 1) (by omega) h3⟩

/-- A canonical tail is canonical from any lower key on. -/
theorem mwfFrom_mono {α : Type} [DecidableEq α] (d : Nat → α) {lo lo' : Nat} (h : lo' ≤ lo) :
    ∀ m : SMap α, mwfFrom d lo m = true → mwfFrom d lo' m = true
  | [], _ => rfl
  | (k, v) :: r, hm => by
    simp only [mwfFrom, Bool.and_eq_true, decide_eq_true_eq] at hm ⊢
    exact ⟨⟨by omega, hm.1.2⟩, hm.2⟩

/-- Removing a key keeps a canonical tail. -/
theorem mwfFrom_mdel {α : Type} [DecidableEq α] (d : Nat → α) (k : Nat) :
    ∀ (m : SMap α) (lo : Nat), mwfFrom d lo m = true → mwfFrom d lo (mdel m k) = true
  | [], _, _ => rfl
  | (k', v') :: r, lo, h => by
    simp only [mwfFrom, Bool.and_eq_true, decide_eq_true_eq] at h
    obtain ⟨⟨h1, h2⟩, h3⟩ := h
    unfold mdel
    split
    · exact mwfFrom_mono d (by omega) _ (mwfFrom_mdel d k r (k' + 1) h3)
    · simp only [mwfFrom, Bool.and_eq_true, decide_eq_true_eq]
      exact ⟨⟨h1, h2⟩, mwfFrom_mdel d k r (k' + 1) h3⟩

/-- Storing under a key keeps the canonical form, whatever is stored. -/
theorem mwf_mset {α : Type} [DecidableEq α] (d : Nat → α) (m : SMap α) (k : Nat) (v : α) (h : mwf d m = true) :
    mwf d (mset (d k) m k v) = true := by
  unfold mset
  split
  · exact mwfFrom_mdel d k m 0 h
  · rename_i hv; exact mwfFrom_mput d k v hv m 0 (Nat.zero_le _) h

/-- Leaving entries out keeps the canonical form. -/
theorem mwfFrom_filter {α : Type} [DecidableEq α] (d : Nat → α) (f : Nat × α → Bool) :
    ∀ (m : SMap α) (lo : Nat), mwfFrom d lo m = true → mwfFrom d lo (m.filter f) = true
  | [], _, _ => rfl
  | (k', v') :: r, lo, h => by
    simp only [mwfFrom, Bool.and_eq_true, decide_eq_true_eq] at h
    obtain ⟨⟨h1, h2⟩, h3⟩ := h
    rw [List.filter_cons]
    split
    · simp only [mwfFrom, Bool.and_eq_true, decide_eq_true_eq]
      exact ⟨⟨h1, h2⟩, mwfFrom_filter d f r (k' + 1) h3⟩
    · exact mwfFrom_mono d (by omega) _ (mwfFrom_filter d f r (k' + 1) h3)

theorem mwf_filter {α : Type} [DecidableEq α] (d : Nat → α) (f : Nat × α → Bool) (m : SMap α) (h : mwf d m = true) :
    mwf d (m.filter f) = true := mwfFrom_filter d f m 0 h

theorem mget_mput_same {α : Type} (x : α) (k : Nat) (v : α) : ∀ m : SMap α, mget x (mput m k v) k = v
  | [] => by simp [mput, mget]
  | (k', v') :: r => by
    unfold mput
    split
    · simp [mget]
    · split
      · simp [mget]
      · rename_i h1 h2
        simp [mget, h1, mget_mput_same x k v r]

theorem mget_mput_ne {α : Type} (x : α) {k j : Nat} (v : α) (hj : j ≠ k) :
    ∀ m : SMap α, mget x (mput m k v) j = mget x m j
  | [] => by
    have : k ≠ j := fun e => hj e.symm
    simp [mput, mget, this]
  | (k', v') :: r => by
    have hkj : k ≠ j := fun e => hj e.symm
    unfold mput
    split
    · rename_i e; subst e; simp [mget, hkj]
    · split
      · simp [mget, hkj]
      · simp [mget, mget_mput_ne x v hj r]

theorem mget_mdel_ne {α : Type} (x : α) {k j : Nat} (hj : j ≠ k) : ∀ m : SMap α, mget x (mdel m k) j = mget x m j
  | [] => rfl
  | (k', v') :: r => by
    have hkj : k ≠ j := fun e => hj e.symm
    unfold mdel
    split
    · rename_i e; subst e; simp [mget, hkj, mget_mdel_ne x hj r]
    · simp [mget, mget_mdel_ne x hj r]

theorem mget_mdel_same {α : Type} (x : α) (k : Nat) : ∀ m : SMap α, mget x (mdel m k) k = x
  | [] => rfl
  | (k', v') :: r => by
    unfold mdel
    split
    · exact mget_mdel_same x k r
    · rename_i h; simp [mget, h, mget_mdel_same x k r]

/-- A read after a store to the same key gives what was stored. -/
@[simp] theorem mget_mset_same {α : Type} [DecidableEq α] (d : α) (m : SMap α) (k : Nat) (v : α) :
    mget d (mset d m k v) k = v := by
  unfold mset
  split
  · rename_i e; rw [mget_mdel_same d k m]; exact e.symm
  · exact mget_mput_same _ _ _ _

/-- A store leaves every other key alone. -/
theorem mget_mset_ne {α : Type} [DecidableEq α] (d : α) (m : SMap α) {k j : Nat} (x v : α) (hj : j ≠ k) :
    mget x (mset d m k v) j = mget x m j := by
  unfold mset
  split
  · exact mget_mdel_ne x hj m
  · exact mget_mput_ne x v hj m

/-- Every listed entry of a table after a store was listed before or is the one stored. -/
theorem mem_mput {α : Type} (k : Nat) (v : α) (e : Nat × α) : ∀ m : SMap α, e ∈ mput m k v → e = (k, v) ∨ e ∈ m
  | [], h => by simp [mput] at h; exact .inl h
  | (k', v') :: r, h => by
    unfold mput at h
    split at h
    · simp only [List.mem_cons] at h; rcases h with h | h
      · exact .inl h
      · exact .inr (List.mem_cons_of_mem _ h)
    · split at h
      · simp only [List.mem_cons] at h; rcases h with h | h | h
        · exact .inl h
        · exact .inr (by simp [h])
        · exact .inr (List.mem_cons_of_mem _ h)
      · simp only [List.mem_cons] at h; rcases h with h | h
        · exact .inr (by simp [h])
        · rcases mem_mput k v e r h with h | h
          · exact .inl h
          · exact .inr (List.mem_cons_of_mem _ h)

theorem mem_mdel {α : Type} (k : Nat) (e : Nat × α) : ∀ m : SMap α, e ∈ mdel m k → e ∈ m
  | [], h => h
  | (k', v') :: r, h => by
    unfold mdel at h
    split at h
    · exact List.mem_cons_of_mem _ (mem_mdel k e r h)
    · simp only [List.mem_cons] at h; rcases h with h | h
      · simp [h]
      · exact List.mem_cons_of_mem _ (mem_mdel k e r h)

theorem mem_mset {α : Type} [DecidableEq α] (d : α) (m : SMap α) (k : Nat) (v : α) (e : Nat × α)
    (h : e ∈ mset d m k v) : e = (k, v) ∨ e ∈ m := by
  unfold mset at h
  split at h
  · exact .inr (mem_mdel k e m h)
  · exact mem_mput k v e m h

/-- What a table reads as is its default or a listed value. -/
theorem mget_mem {α : Type} (d : α) (k : Nat) : ∀ m : SMap α, mget d m k = d ∨ ∃ j, (j, mget d m k) ∈ m
  | [] => .inl rfl
  | (k', v') :: r => by
    unfold mget
    split
    · exact .inr ⟨k', by simp⟩
    · rcases mget_mem d k r with h | ⟨j, h⟩
      · exact .inl h
      · exact .inr ⟨j, List.mem_cons_of_mem _ h⟩

end Sys2Proof
end

