-- ==== Sys2Proof/Laws/Fields.lean ====
section
/-! SUPPORT. Bit fields: reading a field after a field was replaced. -/

namespace Sys2Proof

/-- The bits of a number's field. -/
theorem testBit_bitsN (x hi lo j : Nat) : (bitsN x hi lo).testBit j = (decide (j < hi + 1 - lo) && x.testBit (lo + j)) := by
  unfold bitsN
  rw [Nat.testBit_mod_two_pow, Nat.testBit_div_two_pow, Nat.add_comm j lo]

theorem testBit_bits (w : Word) (hi lo j : Nat) : (bits w hi lo).testBit j = (decide (j < hi + 1 - lo) && w.getLsbD (lo + j)) := by
  unfold bits
  rw [testBit_bitsN, BitVec.testBit_toNat]

/-- The bits of a word with a field replaced. -/
theorem getLsbD_setBits (w : Word) (hi lo v i : Nat) :
    (setBits w hi lo v).getLsbD i =
      if lo ≤ i ∧ i ≤ hi ∧ i < 64 then v.testBit (i - lo) else w.getLsbD i := by
  unfold setBits
  simp only [BitVec.getLsbD_or, BitVec.getLsbD_and, BitVec.getLsbD_not, BitVec.getLsbD_shiftLeft, BitVec.getLsbD_ofNat,
    Nat.testBit_two_pow_sub_one]
  by_cases h64 : i < 64
  · by_cases hlo : i < lo
    · have : ¬ lo ≤ i := by omega
      simp [h64, hlo, this]
    · by_cases hhi : i ≤ hi
      · have h1 : lo ≤ i := by omega
        have h2 : i - lo < hi + 1 - lo := by omega
        have h3 : i - lo < 64 := by omega
        simp [h64, hlo, hhi, h1, h2, h3]
      · have h2 : ¬ i - lo < hi + 1 - lo := by omega
        simp [h64, hlo, hhi, h2]
  · have h0 : w.getLsbD i = false := BitVec.getLsbD_of_ge w i (by omega)
    simp [h64, h0]

/-- A field reads as what replaced it. -/
theorem bits_setBits_same (w : Word) {hi lo : Nat} (v : Nat) (h : lo ≤ hi) (h64 : hi < 64) :
    bits (setBits w hi lo v) hi lo = v % 2 ^ (hi + 1 - lo) := by
  apply Nat.eq_of_testBit_eq
  intro j
  rw [testBit_bits, getLsbD_setBits, Nat.testBit_mod_two_pow]
  by_cases hj : j < hi + 1 - lo
  · have : lo ≤ lo + j ∧ lo + j ≤ hi ∧ lo + j < 64 := by omega
    simp [hj, this]
  · simp [hj]

/-- Another field reads as before. -/
theorem bits_setBits_ne (w : Word) {hi lo hi' lo' : Nat} (v : Nat) (h : hi' < lo ∨ hi < lo') :
    bits (setBits w hi lo v) hi' lo' = bits w hi' lo' := by
  apply Nat.eq_of_testBit_eq
  intro j
  rw [testBit_bits, testBit_bits, getLsbD_setBits]
  by_cases hj : j < hi' + 1 - lo'
  · have : ¬ (lo ≤ lo' + j ∧ lo' + j ≤ hi ∧ lo' + j < 64) := by omega
    simp [hj, this]
  · simp [hj]

theorem bit_setBit_same (w : Word) {i : Nat} (b : Bool) (h : i < 64) : bit (setBit w i b) i = b := by
  unfold bit setBit
  rw [getLsbD_setBits]
  cases b <;> simp [h]

theorem bit_setBit_ne (w : Word) {i j : Nat} (b : Bool) (h : j ≠ i) : bit (setBit w i b) j = bit w j := by
  unfold bit setBit
  rw [getLsbD_setBits, if_neg (by omega)]

/-- One bit of a word with a field replaced. -/
theorem bit_setBits_ne (w : Word) {hi lo v j : Nat} (h : j < lo ∨ hi < j) : bit (setBits w hi lo v) j = bit w j := by
  unfold bit
  rw [getLsbD_setBits, if_neg (by omega)]

theorem bits_setBit_ne (w : Word) {i hi lo : Nat} (b : Bool) (h : i < lo ∨ hi < i) : bits (setBit w i b) hi lo = bits w hi lo := by
  unfold setBit
  exact bits_setBits_ne w _ (by omega)

/-- A field is no larger than its width. -/
theorem bits_lt (w : Word) (hi lo : Nat) : bits w hi lo < 2 ^ (hi + 1 - lo) := by
  unfold bits bitsN; exact Nat.mod_lt _ (Nat.two_pow_pos _)

/-- A byte string read back as a number. -/
theorem leNat_leBytes : ∀ (n x : Nat), leNat (leBytes n x) = x % 256 ^ n
  | 0, x => by simp [leBytes, leNat, Nat.mod_one]
  | n + 1, x => by
    have e : (256 : Nat) ^ (n + 1) = 256 * 256 ^ n := Nat.mul_comm _ _
    simp only [leBytes, leNat, leNat_leBytes n, BitVec.toNat_ofNat]
    rw [e, Nat.mod_mul]

@[simp] theorem leBytes_length : ∀ (n x : Nat), (leBytes n x).length = n
  | 0, _ => rfl
  | n + 1, x => by simp [leBytes, leBytes_length n]

/-! ### Looking up a listed entry -/

theorem mfind_mput_same {α : Type} (k : Nat) (v : α) : ∀ m : SMap α, mfind (mput m k v) k = some v
  | [] => by simp [mput, mfind]
  | (k', v') :: r => by
    unfold mput
    split
    · simp [mfind]
    · split
      · simp [mfind]
      · rename_i h1 h2
        simp [mfind, h1, mfind_mput_same k v r]

theorem mfind_mput_ne {α : Type} {k j : Nat} (v : α) (hj : j ≠ k) : ∀ m : SMap α, mfind (mput m k v) j = mfind m j
  | [] => by
    have : k ≠ j := fun e => hj e.symm
    simp [mput, mfind, this]
  | (k', v') :: r => by
    have hkj : k ≠ j := fun e => hj e.symm
    unfold mput
    split
    · rename_i e; subst e; simp [mfind, hkj]
    · split
      · simp [mfind, hkj]
      · simp [mfind, mfind_mput_ne v hj r]

theorem mfind_mdel_same {α : Type} (k : Nat) : ∀ m : SMap α, mfind (mdel m k) k = none
  | [] => rfl
  | (k', v') :: r => by
    unfold mdel
    split
    · exact mfind_mdel_same k r
    · rename_i h; simp [mfind, h, mfind_mdel_same k r]

theorem mfind_mdel_ne {α : Type} {k j : Nat} (hj : j ≠ k) : ∀ m : SMap α, mfind (mdel m k) j = mfind m j
  | [] => rfl
  | (k', v') :: r => by
    have hkj : k ≠ j := fun e => hj e.symm
    unfold mdel
    split
    · rename_i e; subst e; simp [mfind, hkj, mfind_mdel_ne hj r]
    · simp [mfind, mfind_mdel_ne hj r]

/-- What a table gives back, where an unlisted key stands for the default. -/
theorem mfind_mset_same {α : Type} [DecidableEq α] (d : α) (m : SMap α) (k : Nat) (v : α) :
    (mfind (mset d m k v) k).getD d = v := by
  unfold mset
  split
  · rename_i e; rw [mfind_mdel_same]; exact e.symm
  · rw [mfind_mput_same]; rfl

theorem mfind_mset_ne {α : Type} [DecidableEq α] (d : α) (m : SMap α) {k j : Nat} (v : α) (hj : j ≠ k) :
    mfind (mset d m k v) j = mfind m j := by
  unfold mset
  split
  · exact mfind_mdel_ne hj m
  · exact mfind_mput_ne v hj m

end Sys2Proof
end

