-- ==== Sys2Proof/Laws/Keep.lean ====
section
/-! SUPPORT. What every operation keeps: the part, the queue of waiting commands, and the legality of the state. One lemma
per shared operation, in the form "if the state so far keeps what the first state had, so does the state after". -/

namespace Sys2Proof.Machine
open Sys2Proof

/-- The part and the queue are those of `a`, and the fields that `Good` looks at are legal when those of `a` are. -/
def KeepsFields (a : State) (part : Part) (pending : List Instr) (csr : SMap Word) (tiles : SMap Tile) (hbm : Mem)
    (log : List LogEntry) (ctxs : List PeerCtx) : Prop :=
  part = a.part ∧ pending = a.pending ∧ (Good a → GoodFields part csr tiles hbm log ctxs)

/-- `s` keeps the part and the queue of `a`, and is legal when `a` is. -/
def Keeps (a s : State) : Prop := KeepsFields a s.part s.pending s.csr s.tiles s.hbm.mem s.log s.fabric.ctxs

theorem Keeps.refl (a : State) : Keeps a a := ⟨rfl, rfl, fun g => g⟩
theorem Keeps.good {a s : State} (h : Keeps a s) (g : Good a) : Good s := h.2.2 g
theorem Keeps.trans {a s t : State} (h : Keeps a s) (k : Keeps s t) : Keeps a t :=
  ⟨k.1.trans h.1, k.2.1.trans h.2.1, fun g => k.good (h.good g)⟩

/-- A state that differs in other fields only. -/
theorem keeps_frame {a s : State} (h : Keeps a s) {u : State} (h1 : u.part = s.part) (h2 : u.pending = s.pending)
    (h3 : u.csr = s.csr) (h4 : u.tiles = s.tiles) (h5 : u.hbm.mem = s.hbm.mem) (h6 : u.log = s.log)
    (h7 : u.fabric.ctxs = s.fabric.ctxs) : Keeps a u := by
  unfold Keeps; rw [h1, h2, h3, h4, h5, h6, h7]; exact h

/-- A record update of other fields. -/
theorem keeps_mk {a s : State} {x0 : Part} {x1 : SMap Word} {x2 : SMap Tile} {x3 : SMap PhysTile} {x4 : SMap (List CRec)} {x5 : SMap QCtl} {x6 : SMap Region} {x7 : SMap CvUnit} {x8 : SMap Nat} {x9 : SMap IoPin} {x10 : SMap (Option Bool)} {x11 : Noc} {x12 : Hbm} {x13 : Fabric} {x14 : Twin} {x15 : SMap Port} {x16 : SMap Word} {x17 : SMap Word} {x18 : List LogEntry} {x19 : Mgmt} {x20 : Pins} {x21 : Nat} {x22 : Bool} {x23 : SMap (BitVec 64)} {x24 : Nat} {x25 : SMap Bool} {x26 : SMap Byte} {x27 : SMap Bool} {x28 : SMap Nat} {x29 : SMap Nat} {x30 : List Packet} {x31 : List LinkMsg} {x32 : List Datagram} {x33 : List PcieMsg} {x34 : Nat} {x35 : List Instr}
    (h : Keeps a s) (h_part : x0 = s.part) (h_pending : x35 = s.pending) (h_csr : x1 = s.csr) (h_tiles : x2 = s.tiles) (h_log : x18 = s.log) (h_hbm : x12.mem = s.hbm.mem) (h_ctxs : x13.ctxs = s.fabric.ctxs) :
    Keeps a (State.mk x0 x1 x2 x3 x4 x5 x6 x7 x8 x9 x10 x11 x12 x13 x14 x15 x16 x17 x18 x19 x20 x21 x22 x23 x24 x25 x26 x27 x28 x29 x30 x31 x32 x33 x34 x35) := by
  unfold Keeps; dsimp only; rw [h_part, h_pending, h_csr, h_tiles, h_hbm, h_log, h_ctxs]; exact h

theorem keeps_foldl {a : State} {α : Type} {f : State → α → State} (hf : ∀ s x, Keeps a s → Keeps a (f s x)) :
    ∀ (l : List α) {s : State}, Keeps a s → Keeps a (l.foldl f s)
  | [], _, h => h
  | x :: l, _, h => keeps_foldl hf l (hf _ x h)

theorem keeps_ite {a : State} {c : Prop} [Decidable c] {s t : State} (hs : Keeps a s) (ht : Keeps a t) :
    Keeps a (if c then s else t) := by split <;> assumption

theorem keeps_fst {a s : State} {α : Type} {p : State × α} {x : α} (h : Keeps a p.1) (e : p = (s, x)) : Keeps a s := by
  rw [e] at h; exact h
theorem keeps_snd {a s : State} {α : Type} {p : α × State} {x : α} (h : Keeps a p.2) (e : p = (x, s)) : Keeps a s := by
  rw [e] at h; exact h

theorem keeps_ite_snd {a : State} {α : Type} {c : Prop} [Decidable c] {p q : α × State} (hp : Keeps a p.2) (hq : Keeps a q.2) :
    Keeps a (if c then p else q).2 := by split <;> assumption
theorem keeps_ite_fst {a : State} {α : Type} {c : Prop} [Decidable c] {p q : State × α} (hp : Keeps a p.1) (hq : Keeps a q.1) :
    Keeps a (if c then p else q).1 := by split <;> assumption

/-- The state that an operation gives, when it gives one, keeps what `a` had. -/
def OptKeeps (a : State) (o : Option State) : Prop := ∀ t, o = some t → Keeps a t
theorem opt_none {a : State} : OptKeeps a none := fun _ e => by cases e
theorem opt_some {a s : State} (h : Keeps a s) : OptKeeps a (some s) := fun _ e => by cases e; exact h
theorem keeps_opt {a s : State} {o : Option State} (h : OptKeeps a o) (e : o = some s) : Keeps a s := h s e

/-! ### Registers -/

theorem wr_keeps {a s : State} (h : Keeps a s) (x : Nat) (v : Word) : Keeps a (wr s x v) :=
  ⟨h.1, h.2.1, fun g => let q := h.2.2 g; ⟨mwf_mset (resetOf s.part) s.csr x v q.regs, q.table, q.mems, q.main, q.room, q.peers⟩⟩
theorem setFld_keeps {a s : State} (h : Keeps a s) (x hi lo v : Nat) : Keeps a (setFld s x hi lo v) := wr_keeps h _ _
theorem setFlag_keeps {a s : State} (h : Keeps a s) (x i : Nat) (b : Bool) : Keeps a (setFlag s x i b) := wr_keeps h _ _
theorem incFld_keeps {a s : State} (h : Keeps a s) (x hi lo : Nat) : Keeps a (incFld s x hi lo) := wr_keeps h _ _
theorem satFld_keeps {a s : State} (h : Keeps a s) (x hi lo : Nat) : Keeps a (satFld s x hi lo) := wr_keeps h _ _
theorem plainWrite_keeps {a s : State} (h : Keeps a s) (n : RegName) (x : Nat) (v : Word) : Keeps a (plainWrite s n x v) :=
  wr_keeps h _ _

/-! ### Objects -/

theorem objSet_keeps {a s : State} (h : Keeps a s) (i j : Nat) (b : List Byte) : Keeps a (objSet s i j b) := h
theorem objSetN_keeps {a s : State} (h : Keeps a s) (i j v : Nat) : Keeps a (objSetN s i j v) := h

/-! ### Tiles -/

/-- A tile that differs in other fields than its window. -/
theorem tile_mk {x : Tile} {x0 : Mem} {x1 : SMap Bool} {x2 : SMap Bool} {x3 : Nat} {x4 : Option WTag} {x5 : SMap Elem} {x6 : SMap Elem} {x7 : SMap Nat} {x8 : SMap Nat} {x9 : Nat} {x10 : Nat} {x11 : Option (SMap Elem × SMap Nat × Nat)} {x12 : List Pass} {x13 : Option ReadyPass} {x14 : Option PrevPass} {x15 : List (Nat × Word × Option Packet)} {x16 : List (Nat × Status)} {x17 : SMap (BitVec 64)} {x18 : SMap VTagR} {x19 : Option Nat} {x20 : SMap (BitVec 64)} {x21 : SMap (BitVec 128)} {x22 : SMap LongAcc} {x23 : Option Kernel} {x24 : List Packet} {x25 : SMap (Option Stream)} {x26 : SMap Nat} {x27 : SMap Bool} {x28 : Nat} {x29 : SMap (Option Packet)} {x30 : SMap Bool} {x31 : SMap (Option Launch)} {x32 : Bool} {x33 : Bool} {x34 : Bool}
    (h : Tile.wf x = true) (hm : x0 = x.mem) : Tile.wf (Tile.mk x0 x1 x2 x3 x4 x5 x6 x7 x8 x9 x10 x11 x12 x13 x14 x15 x16 x17 x18 x19 x20 x21 x22 x23 x24 x25 x26 x27 x28 x29 x30 x31 x32 x33 x34) = true := by
  unfold Tile.wf; dsimp only; rw [hm]; exact h

theorem tile_foldl {α : Type} {f : Tile → α → Tile} (hf : ∀ x b, Tile.wf x = true → Tile.wf (f x b) = true) :
    ∀ (l : List α) {x : Tile}, Tile.wf x = true → Tile.wf (l.foldl f x) = true
  | [], _, h => h
  | b :: l, _, h => tile_foldl hf l (hf _ b h)

/-- The tile read from a legal state has a canonical window. -/
theorem getTile_wf {a s : State} (h : Keeps a s) (t : TileId) (g : Good a) : Tile.wf (getTile s t) = true := by
  rcases mget_mem ({} : Tile) (tileKey t) s.tiles with e | ⟨j, e⟩
  · unfold getTile; rw [e]; rfl
  · exact (h.good g).mems _ e

theorem setTile_keeps {a s : State} (h : Keeps a s) (t : TileId) (x : Tile) (hx : Good a → Tile.wf x = true) :
    Keeps a (setTile s t x) :=
  ⟨h.1, h.2.1, fun g => let q := h.2.2 g
    ⟨q.regs, mwf_mset (fun _ => ({} : Tile)) s.tiles (tileKey t) x q.table,
     fun e he => by
      rcases mem_mset _ _ _ _ _ he with e' | e'
      · rw [e']; exact hx g
      · exact q.mems e e',
     q.main, q.room, q.peers⟩⟩

theorem modTile_keeps {a s : State} (h : Keeps a s) (t : TileId) (f : Tile → Tile)
    (hf : ∀ x, Tile.wf x = true → Tile.wf (f x) = true) : Keeps a (modTile s t f) :=
  setTile_keeps h t _ (fun g => hf _ (getTile_wf h t g))

theorem setPhys_keeps {a s : State} (h : Keeps a s) (d e : Nat) (x : PhysTile) : Keeps a (setPhys s d e x) := h

/-! ### The event log -/

theorem logEvent_keeps {a s : State} (h : Keeps a s) (code die unit sev detail : Nat) :
    Keeps a (logEvent s code die unit sev detail) := by
  have h1 : Keeps a (if sev = 0 then s else objSetN s 0x0E01 sev (objN s 0x0E01 sev + 1)) := by split <;> exact h
  unfold logEvent
  generalize (if sev = 0 then s else objSetN s 0x0E01 sev (objN s 0x0E01 sev + 1)) = s1 at h1 ⊢
  dsimp only
  split
  · exact ⟨h1.1, h1.2.1, fun g => let q := h1.2.2 g; ⟨q.regs, q.table, q.mems, q.main, by simpa using q.room, q.peers⟩⟩
  · have h2 : Keeps a (wr s1 logNewAt (BitVec.ofNat 64 ((rd s1 logNewAt).toNat + 1))) := wr_keeps h1 _ _
    generalize hw : wr s1 logNewAt (BitVec.ofNat 64 ((rd s1 logNewAt).toNat + 1)) = s2 at h2 ⊢
    split
    · refine incFld_keeps (s := { s2 with log := s2.log.drop 1 ++ _ }) ?_ _ _ _
      exact ⟨h2.1, h2.2.1, fun g => let q := h2.2.2 g
        ⟨q.regs, q.table, q.mems, q.main, by have := q.room; simp only [List.length_append, List.length_drop, List.length_cons, List.length_nil]; omega, q.peers⟩⟩
    · rename_i hl
      exact ⟨h2.1, h2.2.1, fun g => let q := h2.2.2 g
        ⟨q.regs, q.table, q.mems, q.main, by simp only [List.length_append, List.length_cons, List.length_nil]; omega, q.peers⟩⟩

/-! ### Packets, tags, failure -/

theorem sendPkt_keeps {a s : State} (h : Keeps a s) (p : Packet) : Keeps a (sendPkt s p) := h
theorem takePkt_keeps {a s : State} (h : Keeps a s) (p : Packet) : Keeps a (takePkt s p) := h
theorem sendLink_keeps {a s : State} (h : Keeps a s) (m : LinkMsg) : Keeps a (sendLink s m) := h
theorem answer_keeps {a s : State} (h : Keeps a s) (p : Packet) (e : Nat) : Keeps a (answer s p e) := h
theorem sendIrq_keeps {a s : State} (h : Keeps a s) (n : BitVec 12) (v : Nat) : Keeps a (sendIrq s n v) := h
theorem setTag_keeps {a s : State} (h : Keeps a s) (n t : Nat) (r : TagRec) : Keeps a (setTag s n t r) := h
theorem holdTag_keeps {a s : State} (h : Keeps a s) (n t : Nat) (u : TagUse) : Keeps a (holdTag s n t u) := h
theorem freeTag_keeps {a s : State} (h : Keeps a s) (n t : Nat) : Keeps a (freeTag s n t) := h
theorem expireTag_keeps {a s : State} (h : Keeps a s) (n t : Nat) : Keeps a (expireTag s n t) := h
theorem setTwinState_keeps {a s : State} (h : Keeps a s) (v : Nat) : Keeps a (setTwinState s v) := wr_keeps h _ _
theorem devFail_keeps {a s : State} (h : Keeps a s) (c d : Nat) : Keeps a (devFail s c d) := by
  unfold devFail
  split
  · exact h
  · refine keeps_frame (setTwinState_keeps (logEvent_keeps (keeps_ite (sendLink_keeps h _) h) _ _ _ _ _) _) rfl rfl rfl rfl rfl rfl rfl
theorem tileFaultEvent_keeps {a s : State} (h : Keeps a s) (t : TileId) (q e : Nat) : Keeps a (tileFaultEvent s t q e) :=
  logEvent_keeps (setPhys_keeps h _ _ _) _ _ _ _ _

/-! ### Outcomes -/

/-- Every next state that an outcome gives keeps what `a` had. -/
def OutKeeps (a : State) (o : Out) : Prop := ∀ t, o = .next t → Keeps a t

theorem out_next {a s : State} (h : Keeps a s) : OutKeeps a (.next s) := fun t e => by cases e; exact h
theorem whenRunning_keeps {a s : State} (h : Keeps a s) (f : State → State) (hf : Keeps a (f s)) :
    OutKeeps a (whenRunning s f) := out_next (by split <;> assumption)
theorem whenIf_keeps {a s : State} (h : Keeps a s) (c : Bool) (f : State → State) (hf : Keeps a (f s)) :
    Keeps a (whenIf c s f) := by unfold whenIf; split <;> assumption

end Sys2Proof.Machine
end

