-- ==== Sys2Proof/Laws/Memory.lean ====
section
/-! SUPPORT. Memories: every store keeps the canonical form, a read gives what was stored, and a store leaves every other
byte alone. -/

namespace Sys2Proof.Machine
open Sys2Proof

theorem memory_wf_iff (m : Mem) :
    Memory.wf m = true ↔ mwf (fun _ => (0 : Byte)) m.bytes = true ∧ mwf (fun _ => false) m.poison = true := by
  unfold Memory.wf; rw [Bool.and_eq_true]

/-- A memory whose poison marks change by stores. -/
theorem poison_foldl_wf {m : Mem} (h : Memory.wf m = true) (gs : List Nat) (b : Bool) :
    Memory.wf { m with poison := gs.foldl (fun p g => mset false p g b) m.poison } = true := by
  refine (memory_wf_iff _).2 ⟨((memory_wf_iff _).1 h).1, ?_⟩
  have : ∀ (l : List Nat) (p : SMap Bool), mwf (fun _ => false) p = true →
      mwf (fun _ => false) (l.foldl (fun p g => mset false p g b) p) = true := by
    intro l
    induction l with
    | nil => exact fun _ h => h
    | cons g l ih => exact fun p hp => ih _ (mwf_mset (fun _ => false) p g b hp)
  exact this gs _ ((memory_wf_iff _).1 h).2

theorem poison_set_wf {m : Mem} (h : Memory.wf m = true) (g : Nat) (b : Bool) :
    Memory.wf { m with poison := mset false m.poison g b } = true :=
  (memory_wf_iff _).2 ⟨((memory_wf_iff _).1 h).1, mwf_mset (fun _ => false) _ g b ((memory_wf_iff _).1 h).2⟩

/-- A memory with entries left out. -/
theorem mem_filter_wf {m : Mem} (h : Memory.wf m = true) (f : Host.Cell → Bool) (g : Nat × Bool → Bool) :
    Memory.wf { bytes := m.bytes.filter f, poison := m.poison.filter g } = true :=
  (memory_wf_iff _).2 ⟨mwf_filter _ f _ ((memory_wf_iff _).1 h).1, mwf_filter _ g _ ((memory_wf_iff _).1 h).2⟩

/-- Folding stores over a table keeps any property that each store keeps. -/
theorem foldl_inv {α β : Type} (P : β → Prop) (f : β → α → β) (hf : ∀ b x, P b → P (f b x)) :
    ∀ (l : List α) (b : β), P b → P (l.foldl f b)
  | [], _, h => h
  | x :: l, _, h => foldl_inv P f hf l _ (hf _ x h)

theorem putBytes_wf : ∀ (d : List Byte) (l : List Host.Cell) (a : Nat), mwf (fun _ => (0 : Byte)) l = true →
    mwf (fun _ => (0 : Byte)) (putBytes l a d) = true
  | [], _, _, h => h
  | _ :: r, _, a, h => putBytes_wf r _ (a + 1) (mwf_mset (fun _ => (0 : Byte)) _ _ _ h)

theorem poisonAfter_wf (a n : Nat) (pg : Nat → Bool) (m : SMap Bool) (g : Nat) (h : mwf (fun _ => false) m = true) :
    mwf (fun _ => false) (poisonAfter a n pg m g) = true := by
  unfold poisonAfter
  split
  · exact mwf_mset (fun _ => false) _ _ _ h
  · split
    · exact mwf_mset (fun _ => false) _ _ _ h
    · exact h

/-- Every store keeps the canonical form. -/
theorem memWrite_wf {m : Mem} (h : Memory.wf m = true) (a : Nat) (d : List Byte) (pg : Nat → Bool) :
    Memory.wf (memWrite m a d pg) = true := by
  rw [memory_wf_iff] at h ⊢
  exact ⟨putBytes_wf d _ a h.1,
    foldl_inv (fun p => mwf (fun _ => false) p = true) _ (fun b x hb => poisonAfter_wf a d.length pg b x hb) _ _ h.2⟩

theorem mget_putBytes_out (j : Nat) : ∀ (d : List Byte) (l : List Host.Cell) (a : Nat),
    (j < a ∨ a + d.length ≤ j) → mget 0 (putBytes l a d) j = mget 0 l j
  | [], _, _, _ => rfl
  | b :: r, l, a, hj => by
    have hl : (b :: r).length = r.length + 1 := rfl
    unfold putBytes
    rw [mget_putBytes_out j r _ (a + 1) (by omega)]
    exact mget_mset_ne 0 l 0 b (by omega)

theorem mget_putBytes_in : ∀ (d : List Byte) (l : List Host.Cell) (a i : Nat),
    i < d.length → mget 0 (putBytes l a d) (a + i) = d.getD i 0
  | [], _, _, _, hi => by simp at hi
  | b :: r, l, a, 0, _ => by
    show mget 0 (putBytes (mset 0 l a b) (a + 1) r) a = b
    rw [mget_putBytes_out a r _ (a + 1) (by omega)]
    exact mget_mset_same 0 l a b
  | b :: r, l, a, i + 1, hi => by
    unfold putBytes
    have : a + (i + 1) = a + 1 + i := by omega
    rw [this, mget_putBytes_in r _ (a + 1) i (by simpa using hi)]
    simp

/-- A byte outside the stored bytes reads as before. -/
theorem memByte_memWrite_out (m : Mem) (a : Nat) (d : List Byte) (pg : Nat → Bool) (j : Nat)
    (hj : j < a ∨ a + d.length ≤ j) : memByte (memWrite m a d pg) j = memByte m j :=
  mget_putBytes_out j d m.bytes a hj

/-- A stored byte reads as it was stored. -/
theorem memByte_memWrite_in (m : Mem) (a : Nat) (d : List Byte) (pg : Nat → Bool) (i : Nat)
    (hi : i < d.length) : memByte (memWrite m a d pg) (a + i) = d.getD i 0 :=
  mget_putBytes_in d m.bytes a i hi

/-- Reading the stored range gives the bytes stored. -/
theorem memBytes_memWrite (m : Mem) (a : Nat) (d : List Byte) (pg : Nat → Bool) :
    memBytes (memWrite m a d pg) a d.length = d := by
  apply List.ext_getElem
  · simp [memBytes, bytesAt]
  · intro i h1 h2
    simp only [memBytes, bytesAt, List.getElem_map, List.getElem_range]
    rw [memByte_memWrite_in m a d pg i h2]
    simp [h2]

end Sys2Proof.Machine
end

