-- ==== Sys2Proof/Laws/KeepNocRoute.lean ====
section
/-! SUPPORT. What the operations of Machine/NocRoute.lean keep (see Laws/Keep.lean). -/

namespace Sys2Proof.Machine
open Sys2Proof

theorem refuseAtOnce_keeps {s₀ s : State} (hk : Keeps s₀ s) (p : Packet) (status : Nat) : Keeps s₀ (refuseAtOnce s p status) := by
  unfold refuseAtOnce
  try dsimp only
  repeat' first | with_reducible assumption | with_reducible apply sendPkt_keeps | (with_reducible apply keeps_foldl) | (with_reducible intro _ _ _) | (intro g; exact getTile_wf (by assumption) _ g) | with_reducible apply keeps_ite_snd | with_reducible apply keeps_ite_fst | split | (with_reducible intro _) | (dsimp only) | (with_reducible refine keeps_fst ?_ (by with_reducible assumption)) | (with_reducible refine keeps_snd ?_ (by with_reducible assumption)) | (with_reducible refine keeps_opt ?_ (by with_reducible assumption)) | with_reducible exact opt_none | with_reducible apply opt_some | (with_reducible refine keeps_mk ?_ rfl rfl rfl rfl rfl rfl rfl) | (with_reducible apply tile_foldl) | (with_reducible refine tile_mk ?_ rfl)

theorem inject_keeps {s₀ s : State} (hk : Keeps s₀ s) (p : Packet) : Keeps s₀ (inject s p) := by
  unfold inject
  try dsimp only
  repeat' first | with_reducible assumption | with_reducible apply refuseAtOnce_keeps | with_reducible apply sendPkt_keeps | (with_reducible apply keeps_foldl) | (with_reducible intro _ _ _) | (intro g; exact getTile_wf (by assumption) _ g) | with_reducible apply keeps_ite_snd | with_reducible apply keeps_ite_fst | split | (with_reducible intro _) | (dsimp only) | (with_reducible refine keeps_fst ?_ (by with_reducible assumption)) | (with_reducible refine keeps_snd ?_ (by with_reducible assumption)) | (with_reducible refine keeps_opt ?_ (by with_reducible assumption)) | with_reducible exact opt_none | with_reducible apply opt_some | (with_reducible apply tile_foldl) | (with_reducible refine tile_mk ?_ rfl)

end Sys2Proof.Machine
end

