-- ==== Sys2Proof/Laws/KeepMem.lean ====
section
/-! SUPPORT. What the operations of Machine/Mem.lean keep (see Laws/Keep.lean). -/

namespace Sys2Proof.Machine
open Sys2Proof

theorem tWrite_wf {x : Tile} (hk : Tile.wf x = true) (a : Nat) (d : List Byte) (pg : Nat → Bool) :
    Tile.wf (tWrite x a d pg) = true := memWrite_wf (m := x.mem) hk a d pg

theorem tStore_wf {x : Tile} (hk : Tile.wf x = true) (a : Nat) (d : List Byte) : Tile.wf (tStore x a d) = true := by
  unfold tStore
  try dsimp only
  repeat' first | with_reducible assumption | with_reducible apply tWrite_wf | split | (with_reducible apply tile_foldl) | (with_reducible intro _) | (with_reducible refine tile_mk ?_ rfl)

theorem setStream_wf {x : Tile} (hk : Tile.wf x = true) (c : Nat) (st : Option Stream) : Tile.wf (setStream x c st) = true := by
  unfold setStream
  try dsimp only
  repeat' first | with_reducible assumption | split | (with_reducible apply tile_foldl) | (with_reducible intro _) | (with_reducible refine tile_mk ?_ rfl)

theorem markGran_wf {x : Tile} (hk : Tile.wf x = true) (gs : List Nat) : Tile.wf (markGran x gs) = true := by
  unfold markGran
  try dsimp only
  repeat' first | with_reducible assumption | split | (with_reducible apply tile_foldl) | (with_reducible intro _) | (with_reducible refine tile_mk ?_ rfl)

theorem endPass_keeps {s₀ s : State} (hk : Keeps s₀ s) (t : TileId) (seq : Nat) (status : Status) (nofold : Bool) : Keeps s₀ (endPass s t seq status nofold) := by
  unfold endPass
  try dsimp only
  repeat' first | with_reducible assumption | with_reducible apply setTile_keeps | with_reducible apply setFlag_keeps | (with_reducible apply keeps_foldl) | (with_reducible intro _ _ _) | (intro g; exact getTile_wf (by assumption) _ g) | with_reducible apply getTile_wf | with_reducible apply markGran_wf | with_reducible apply keeps_ite_snd | with_reducible apply keeps_ite_fst | split | (with_reducible intro _) | (dsimp only) | (with_reducible refine keeps_fst ?_ (by with_reducible assumption)) | (with_reducible refine keeps_snd ?_ (by with_reducible assumption)) | (with_reducible refine keeps_opt ?_ (by with_reducible assumption)) | with_reducible exact opt_none | with_reducible apply opt_some | (with_reducible refine keeps_mk ?_ rfl rfl rfl rfl rfl rfl rfl) | (with_reducible apply tile_foldl) | (with_reducible refine tile_mk ?_ rfl)

theorem chainInvalid_keeps {s₀ : State} (t : TileId) : ∀ (k : Nat) {s : State}, Keeps s₀ s → Keeps s₀ (chainInvalid t k s)
  | 0, _, h => h
  | k + 1, s, h => by
    unfold chainInvalid
    dsimp only
    split
    · exact h
    · exact chainInvalid_keeps t k (endPass_keeps h _ _ _ _)

theorem invalidate_keeps {s₀ s : State} (hk : Keeps s₀ s) (t : TileId) (gs : List Nat) : Keeps s₀ (invalidate s t gs) := by
  unfold invalidate
  try dsimp only
  repeat' first | with_reducible assumption | with_reducible apply modTile_keeps | with_reducible apply chainInvalid_keeps | (with_reducible apply keeps_foldl) | (with_reducible intro _ _ _) | (intro g; exact getTile_wf (by assumption) _ g) | with_reducible apply markGran_wf | with_reducible apply getTile_wf | with_reducible apply keeps_ite_snd | with_reducible apply keeps_ite_fst | split | (with_reducible intro _) | (dsimp only) | (with_reducible refine keeps_fst ?_ (by with_reducible assumption)) | (with_reducible refine keeps_snd ?_ (by with_reducible assumption)) | (with_reducible refine keeps_opt ?_ (by with_reducible assumption)) | with_reducible exact opt_none | with_reducible apply opt_some | (with_reducible apply tile_foldl) | (with_reducible refine tile_mk ?_ rfl)

theorem abortPass_keeps {s₀ s : State} (hk : Keeps s₀ s) (t : TileId) (seq : Nat) (status : Status) (nofold : Bool) : Keeps s₀ (abortPass s t seq status nofold) := by
  unfold abortPass
  try dsimp only
  repeat' first | with_reducible assumption | with_reducible apply endPass_keeps | with_reducible apply chainInvalid_keeps | (with_reducible apply keeps_foldl) | (with_reducible intro _ _ _) | (intro g; exact getTile_wf (by assumption) _ g) | with_reducible apply getTile_wf | with_reducible apply keeps_ite_snd | with_reducible apply keeps_ite_fst | split | (with_reducible intro _) | (dsimp only) | (with_reducible refine keeps_fst ?_ (by with_reducible assumption)) | (with_reducible refine keeps_snd ?_ (by with_reducible assumption)) | (with_reducible refine keeps_opt ?_ (by with_reducible assumption)) | with_reducible exact opt_none | with_reducible apply opt_some | (with_reducible apply tile_foldl) | (with_reducible refine tile_mk ?_ rfl)

theorem windowWrite_keeps {s₀ s : State} (hk : Keeps s₀ s) (t : TileId) (a : Nat) (d : List Byte) (mask : Nat) : Keeps s₀ (windowWrite s t a d mask).2 := by
  unfold windowWrite
  try dsimp only
  repeat' first | with_reducible assumption | with_reducible apply modTile_keeps | (with_reducible apply keeps_foldl) | (with_reducible intro _ _ _) | (intro g; exact getTile_wf (by assumption) _ g) | with_reducible apply tWrite_wf | with_reducible apply keeps_ite_snd | with_reducible apply keeps_ite_fst | split | (with_reducible intro _) | (dsimp only) | (with_reducible refine keeps_fst ?_ (by with_reducible assumption)) | (with_reducible refine keeps_snd ?_ (by with_reducible assumption)) | (with_reducible refine keeps_opt ?_ (by with_reducible assumption)) | with_reducible exact opt_none | with_reducible apply opt_some | (with_reducible apply tile_foldl) | (with_reducible refine tile_mk ?_ rfl)

theorem setHbm_keeps {s₀ s : State} (hk : Keeps s₀ s) (h : Hbm) (hm : Good s → Memory.wf h.mem = true) :
    Keeps s₀ (setHbm s h) :=
  ⟨hk.1, hk.2.1, fun g => let q := hk.2.2 g; ⟨q.regs, q.table, q.mems, hm q, q.room, q.peers⟩⟩

theorem repairDue_keeps {s₀ s : State} (hk : Keeps s₀ s) (row : Nat) : Keeps s₀ (repairDue s row) := by
  unfold repairDue
  try dsimp only
  repeat' first | with_reducible assumption | with_reducible apply setHbm_keeps | (with_reducible apply keeps_foldl) | (with_reducible intro _ _ _) | (intro g; exact getTile_wf (by assumption) _ g) | (intro g; exact g.main) | with_reducible apply keeps_ite_snd | with_reducible apply keeps_ite_fst | split | (with_reducible intro _) | (dsimp only) | (with_reducible refine keeps_fst ?_ (by with_reducible assumption)) | (with_reducible refine keeps_snd ?_ (by with_reducible assumption)) | (with_reducible refine keeps_opt ?_ (by with_reducible assumption)) | with_reducible exact opt_none | with_reducible apply opt_some | (with_reducible refine keeps_mk ?_ rfl rfl rfl rfl rfl rfl rfl) | (with_reducible apply tile_foldl) | (with_reducible refine tile_mk ?_ rfl)

theorem meetUe_keeps {s₀ s : State} (hk : Keeps s₀ s) (k a : Nat) : Keeps s₀ (meetUe s k a) := by
  unfold meetUe
  refine logEvent_keeps (satFld_keeps (repairDue_keeps (setHbm_keeps hk _ fun g => ?_) _) _ _ _) _ _ _ _ _
  dsimp only
  exact (memory_wf_iff _).2 ⟨((memory_wf_iff _).1 g.main).1, mwf_mset (fun _ => false) _ (k / 64) true ((memory_wf_iff _).1 g.main).2⟩

theorem meetCe_keeps {s₀ s : State} (hk : Keeps s₀ s) (k : Nat) (a : Nat) : Keeps s₀ (meetCe s k a) := by
  unfold meetCe
  try dsimp only
  repeat' first | with_reducible assumption | with_reducible apply setHbm_keeps | with_reducible apply repairDue_keeps | with_reducible apply logEvent_keeps | with_reducible apply incFld_keeps | (with_reducible apply keeps_foldl) | (with_reducible intro _ _ _) | (intro g; exact getTile_wf (by assumption) _ g) | (intro g; exact g.main) | with_reducible apply keeps_ite_snd | with_reducible apply keeps_ite_fst | split | (with_reducible intro _) | (dsimp only) | (with_reducible refine keeps_fst ?_ (by with_reducible assumption)) | (with_reducible refine keeps_snd ?_ (by with_reducible assumption)) | (with_reducible refine keeps_opt ?_ (by with_reducible assumption)) | with_reducible exact opt_none | with_reducible apply opt_some | (with_reducible refine keeps_mk ?_ rfl rfl rfl rfl rfl rfl rfl) | (with_reducible apply tile_foldl) | (with_reducible refine tile_mk ?_ rfl)

theorem upset_keeps {s₀ s : State} (hk : Keeps s₀ s) (k : Nat) (e : Ecc) : Keeps s₀ (upset s k e) := by
  unfold upset
  try dsimp only
  repeat' first | with_reducible assumption | with_reducible apply setHbm_keeps | (with_reducible apply keeps_foldl) | (with_reducible intro _ _ _) | (intro g; exact getTile_wf (by assumption) _ g) | (intro g; exact g.main) | with_reducible apply keeps_ite_snd | with_reducible apply keeps_ite_fst | split | (with_reducible intro _) | (dsimp only) | (with_reducible refine keeps_fst ?_ (by with_reducible assumption)) | (with_reducible refine keeps_snd ?_ (by with_reducible assumption)) | (with_reducible refine keeps_opt ?_ (by with_reducible assumption)) | with_reducible exact opt_none | with_reducible apply opt_some | (with_reducible refine keeps_mk ?_ rfl rfl rfl rfl rfl rfl rfl) | (with_reducible apply tile_foldl) | (with_reducible refine tile_mk ?_ rfl)

theorem readBurst_keeps {s₀ s : State} (hk : Keeps s₀ s) (b : Nat) : Keeps s₀ (readBurst s b) := by
  unfold readBurst
  try dsimp only
  repeat' first | with_reducible assumption | with_reducible apply meetUe_keeps | with_reducible apply meetCe_keeps | (with_reducible apply keeps_foldl) | (with_reducible intro _ _ _) | (intro g; exact getTile_wf (by assumption) _ g) | with_reducible apply keeps_ite_snd | with_reducible apply keeps_ite_fst | split | (with_reducible intro _) | (dsimp only) | (with_reducible refine keeps_fst ?_ (by with_reducible assumption)) | (with_reducible refine keeps_snd ?_ (by with_reducible assumption)) | (with_reducible refine keeps_opt ?_ (by with_reducible assumption)) | with_reducible exact opt_none | with_reducible apply opt_some | (with_reducible apply tile_foldl) | (with_reducible refine tile_mk ?_ rfl)

theorem setPc_keeps {s₀ s : State} (hk : Keeps s₀ s) (d : Nat) (ch : Nat) (pc : Nat) (x : PcState) : Keeps s₀ (setPc s d ch pc x) := by
  unfold setPc
  try dsimp only
  repeat' first | with_reducible assumption | with_reducible apply setHbm_keeps | (with_reducible apply keeps_foldl) | (with_reducible intro _ _ _) | (intro g; exact getTile_wf (by assumption) _ g) | (intro g; exact g.main) | with_reducible apply keeps_ite_snd | with_reducible apply keeps_ite_fst | split | (with_reducible intro _) | (dsimp only) | (with_reducible refine keeps_fst ?_ (by with_reducible assumption)) | (with_reducible refine keeps_snd ?_ (by with_reducible assumption)) | (with_reducible refine keeps_opt ?_ (by with_reducible assumption)) | with_reducible exact opt_none | with_reducible apply opt_some | (with_reducible refine keeps_mk ?_ rfl rfl rfl rfl rfl rfl rfl) | (with_reducible apply tile_foldl) | (with_reducible refine tile_mk ?_ rfl)

theorem setPortQueue_keeps {s₀ s : State} (hk : Keeps s₀ s) (d : Nat) (ep : Nat) (l : List HReq) : Keeps s₀ (setPortQueue s d ep l) := by
  unfold setPortQueue
  try dsimp only
  repeat' first | with_reducible assumption | with_reducible apply setHbm_keeps | (with_reducible apply keeps_foldl) | (with_reducible intro _ _ _) | (intro g; exact getTile_wf (by assumption) _ g) | (intro g; exact g.main) | with_reducible apply keeps_ite_snd | with_reducible apply keeps_ite_fst | split | (with_reducible intro _) | (dsimp only) | (with_reducible refine keeps_fst ?_ (by with_reducible assumption)) | (with_reducible refine keeps_snd ?_ (by with_reducible assumption)) | (with_reducible refine keeps_opt ?_ (by with_reducible assumption)) | with_reducible exact opt_none | with_reducible apply opt_some | (with_reducible refine keeps_mk ?_ rfl rfl rfl rfl rfl rfl rfl) | (with_reducible apply tile_foldl) | (with_reducible refine tile_mk ?_ rfl)

theorem touchRow_keeps {s₀ s : State} (hk : Keeps s₀ s) (b : Nat) : Keeps s₀ (touchRow s b) := by
  unfold touchRow
  try dsimp only
  repeat' first | with_reducible assumption | with_reducible apply setPc_keeps | (with_reducible apply keeps_foldl) | (with_reducible intro _ _ _) | (intro g; exact getTile_wf (by assumption) _ g) | with_reducible apply keeps_ite_snd | with_reducible apply keeps_ite_fst | split | (with_reducible intro _) | (dsimp only) | (with_reducible refine keeps_fst ?_ (by with_reducible assumption)) | (with_reducible refine keeps_snd ?_ (by with_reducible assumption)) | (with_reducible refine keeps_opt ?_ (by with_reducible assumption)) | with_reducible exact opt_none | with_reducible apply opt_some | (with_reducible apply tile_foldl) | (with_reducible refine tile_mk ?_ rfl)

theorem touchRows_keeps {s₀ s : State} (hk : Keeps s₀ s) (a : Nat) (n : Nat) : Keeps s₀ (touchRows s a n) := by
  unfold touchRows
  try dsimp only
  repeat' first | with_reducible assumption | with_reducible apply touchRow_keeps | (with_reducible apply keeps_foldl) | (with_reducible intro _ _ _) | (intro g; exact getTile_wf (by assumption) _ g) | with_reducible apply keeps_ite_snd | with_reducible apply keeps_ite_fst | split | (with_reducible intro _) | (dsimp only) | (with_reducible refine keeps_fst ?_ (by with_reducible assumption)) | (with_reducible refine keeps_snd ?_ (by with_reducible assumption)) | (with_reducible refine keeps_opt ?_ (by with_reducible assumption)) | with_reducible exact opt_none | with_reducible apply opt_some | (with_reducible apply tile_foldl) | (with_reducible refine tile_mk ?_ rfl)

theorem hbmRead_keeps {s₀ s : State} (hk : Keeps s₀ s) (a : Nat) (n : Nat) : Keeps s₀ (hbmRead s a n).1 := by
  unfold hbmRead
  try dsimp only
  repeat' first | with_reducible assumption | with_reducible apply readBurst_keeps | with_reducible apply touchRows_keeps | (with_reducible apply keeps_foldl) | (with_reducible intro _ _ _) | (intro g; exact getTile_wf (by assumption) _ g) | with_reducible apply keeps_ite_snd | with_reducible apply keeps_ite_fst | split | (with_reducible intro _) | (dsimp only) | (with_reducible refine keeps_fst ?_ (by with_reducible assumption)) | (with_reducible refine keeps_snd ?_ (by with_reducible assumption)) | (with_reducible refine keeps_opt ?_ (by with_reducible assumption)) | with_reducible exact opt_none | with_reducible apply opt_some | (with_reducible apply tile_foldl) | (with_reducible refine tile_mk ?_ rfl)

theorem mergeBurst_keeps {s₀ s : State} (hk : Keeps s₀ s) (a : Nat) (n : Nat) (b : Nat) : Keeps s₀ (mergeBurst a n s b) := by
  unfold mergeBurst
  try dsimp only
  repeat' first | with_reducible assumption | with_reducible apply readBurst_keeps | (with_reducible apply keeps_foldl) | (with_reducible intro _ _ _) | (intro g; exact getTile_wf (by assumption) _ g) | with_reducible apply keeps_ite_snd | with_reducible apply keeps_ite_fst | split | (with_reducible intro _) | (dsimp only) | (with_reducible refine keeps_fst ?_ (by with_reducible assumption)) | (with_reducible refine keeps_snd ?_ (by with_reducible assumption)) | (with_reducible refine keeps_opt ?_ (by with_reducible assumption)) | with_reducible exact opt_none | with_reducible apply opt_some | (with_reducible apply tile_foldl) | (with_reducible refine tile_mk ?_ rfl)

theorem hbmPut_keeps {s₀ s : State} (hk : Keeps s₀ s) (a : Nat) (d : List Byte) (pg : Nat → Bool) :
    Keeps s₀ (hbmPut s a d pg) := by
  unfold hbmPut
  refine setHbm_keeps hk _ fun g => (memory_wf_iff _).2 ⟨?_, ?_⟩
  · exact foldl_inv (fun l => mwf (fun _ => (0 : Byte)) l = true) _
      (fun b x hb => mwf_mset (fun _ => (0 : Byte)) _ _ _ hb) _ _ ((memory_wf_iff _).1 g.main).1
  · refine foldl_inv (fun p => mwf (fun _ => false) p = true) _ (fun b x hb => ?_) _ _ ((memory_wf_iff _).1 g.main).2
    dsimp only
    split
    · exact mwf_mset (fun _ => false) _ _ _ hb
    · split
      · exact mwf_mset (fun _ => false) _ _ _ hb
      · exact hb

theorem hbmWrite_keeps {s₀ s : State} (hk : Keeps s₀ s) (a : Nat) (d : List Byte) (pg : Nat → Bool) : Keeps s₀ (hbmWrite s a d pg) := by
  unfold hbmWrite
  try dsimp only
  repeat' first | with_reducible assumption | with_reducible apply hbmPut_keeps | with_reducible apply mergeBurst_keeps | with_reducible apply touchRows_keeps | (with_reducible apply keeps_foldl) | (with_reducible intro _ _ _) | (intro g; exact getTile_wf (by assumption) _ g) | with_reducible apply keeps_ite_snd | with_reducible apply keeps_ite_fst | split | (with_reducible intro _) | (dsimp only) | (with_reducible refine keeps_fst ?_ (by with_reducible assumption)) | (with_reducible refine keeps_snd ?_ (by with_reducible assumption)) | (with_reducible refine keeps_opt ?_ (by with_reducible assumption)) | with_reducible exact opt_none | with_reducible apply opt_some | (with_reducible apply tile_foldl) | (with_reducible refine tile_mk ?_ rfl)

theorem hbmStore_keeps {s₀ s : State} (hk : Keeps s₀ s) (p : Packet) (key : Option DedupRec) : Keeps s₀ (hbmStore s p key) := by
  unfold hbmStore
  try dsimp only
  repeat' first | with_reducible assumption | with_reducible apply hbmWrite_keeps | with_reducible apply sendLink_keeps | (with_reducible apply keeps_foldl) | (with_reducible intro _ _ _) | (intro g; exact getTile_wf (by assumption) _ g) | with_reducible apply keeps_ite_snd | with_reducible apply keeps_ite_fst | split | (with_reducible intro _) | (dsimp only) | (with_reducible refine keeps_fst ?_ (by with_reducible assumption)) | (with_reducible refine keeps_snd ?_ (by with_reducible assumption)) | (with_reducible refine keeps_opt ?_ (by with_reducible assumption)) | with_reducible exact opt_none | with_reducible apply opt_some | (with_reducible apply tile_foldl) | (with_reducible refine tile_mk ?_ rfl)

theorem awaitAck_keeps {s₀ s : State} (hk : Keeps s₀ s) (w : Packet) (x : AckFor) : Keeps s₀ (awaitAck s w x) := by
  unfold awaitAck
  try dsimp only
  repeat' first | with_reducible assumption | (with_reducible apply keeps_foldl) | (with_reducible intro _ _ _) | (intro g; exact getTile_wf (by assumption) _ g) | with_reducible apply keeps_ite_snd | with_reducible apply keeps_ite_fst | split | (with_reducible intro _) | (dsimp only) | (with_reducible refine keeps_fst ?_ (by with_reducible assumption)) | (with_reducible refine keeps_snd ?_ (by with_reducible assumption)) | (with_reducible refine keeps_opt ?_ (by with_reducible assumption)) | with_reducible exact opt_none | with_reducible apply opt_some | (with_reducible refine keeps_mk ?_ rfl rfl rfl rfl rfl rfl rfl) | (with_reducible apply tile_foldl) | (with_reducible refine tile_mk ?_ rfl)

end Sys2Proof.Machine
end

