-- ==== Sys2Proof/Laws/KeepStreamCore.lean ====
section
/-! SUPPORT. What the operations of Machine/StreamCore.lean keep (see Laws/Keep.lean). -/

namespace Sys2Proof.Machine
open Sys2Proof

theorem endKernel_keeps {s₀ s : State} (hk : Keeps s₀ s) (t : TileId) (status : Status) : Keeps s₀ (endKernel s t status) := by
  unfold endKernel
  try dsimp only
  repeat' first | with_reducible assumption | with_reducible apply setTile_keeps | with_reducible apply setFld_keeps | (with_reducible apply keeps_foldl) | (with_reducible intro _ _ _) | (intro g; exact getTile_wf (by assumption) _ g) | with_reducible apply getTile_wf | with_reducible apply markGran_wf | with_reducible apply keeps_ite_snd | with_reducible apply keeps_ite_fst | split | (with_reducible intro _) | (dsimp only) | (with_reducible refine keeps_fst ?_ (by with_reducible assumption)) | (with_reducible refine keeps_snd ?_ (by with_reducible assumption)) | (with_reducible refine keeps_opt ?_ (by with_reducible assumption)) | with_reducible exact opt_none | with_reducible apply opt_some | (with_reducible refine keeps_mk ?_ rfl rfl rfl rfl rfl rfl rfl) | (with_reducible apply tile_foldl) | (with_reducible refine tile_mk ?_ rfl)

theorem invalidateAll_keeps {s₀ s : State} (hk : Keeps s₀ s) (t : TileId) (gs : List Nat) : Keeps s₀ (invalidateAll s t gs) := by
  unfold invalidateAll
  try dsimp only
  repeat' first | with_reducible assumption | with_reducible apply invalidate_keeps | with_reducible apply endKernel_keeps | (with_reducible apply keeps_foldl) | (with_reducible intro _ _ _) | (intro g; exact getTile_wf (by assumption) _ g) | with_reducible apply getTile_wf | with_reducible apply keeps_ite_snd | with_reducible apply keeps_ite_fst | split | (with_reducible intro _) | (dsimp only) | (with_reducible refine keeps_fst ?_ (by with_reducible assumption)) | (with_reducible refine keeps_snd ?_ (by with_reducible assumption)) | (with_reducible refine keeps_opt ?_ (by with_reducible assumption)) | with_reducible exact opt_none | with_reducible apply opt_some | (with_reducible apply tile_foldl) | (with_reducible refine tile_mk ?_ rfl)

theorem putStream_keeps {s₀ s : State} (hk : Keeps s₀ s) (t : TileId) (c : Nat) (st : Stream) : Keeps s₀ (putStream s t c st) := by
  unfold putStream
  try dsimp only
  repeat' first | with_reducible assumption | with_reducible apply modTile_keeps | with_reducible apply setFld_keeps | with_reducible apply wr_keeps | (with_reducible apply keeps_foldl) | (with_reducible intro _ _ _) | (intro g; exact getTile_wf (by assumption) _ g) | with_reducible apply setStream_wf | with_reducible apply keeps_ite_snd | with_reducible apply keeps_ite_fst | split | (with_reducible intro _) | (dsimp only) | (with_reducible refine keeps_fst ?_ (by with_reducible assumption)) | (with_reducible refine keeps_snd ?_ (by with_reducible assumption)) | (with_reducible refine keeps_opt ?_ (by with_reducible assumption)) | with_reducible exact opt_none | with_reducible apply opt_some | (with_reducible apply tile_foldl) | (with_reducible refine tile_mk ?_ rfl)

theorem freeEntry_wf {x : Tile} (hk : Tile.wf x = true) (e : Nat) : Tile.wf (freeEntry x e) = true := by
  unfold freeEntry
  try dsimp only
  repeat' first | with_reducible assumption | split | (with_reducible apply tile_foldl) | (with_reducible intro _) | (with_reducible refine tile_mk ?_ rfl)

theorem freeEntries_keeps {s₀ s : State} (hk : Keeps s₀ s) (t : TileId) (st : Stream) : Keeps s₀ (freeEntries s t st) := by
  unfold freeEntries
  try dsimp only
  repeat' first | with_reducible assumption | with_reducible apply modTile_keeps | (with_reducible apply keeps_foldl) | (with_reducible intro _ _ _) | (intro g; exact getTile_wf (by assumption) _ g) | with_reducible apply freeEntry_wf | with_reducible apply keeps_ite_snd | with_reducible apply keeps_ite_fst | split | (with_reducible intro _) | (dsimp only) | (with_reducible refine keeps_fst ?_ (by with_reducible assumption)) | (with_reducible refine keeps_snd ?_ (by with_reducible assumption)) | (with_reducible refine keeps_opt ?_ (by with_reducible assumption)) | with_reducible exact opt_none | with_reducible apply opt_some | (with_reducible apply tile_foldl) | (with_reducible refine tile_mk ?_ rfl)

theorem tellPeer_keeps {s₀ s : State} (hk : Keeps s₀ s) (t : TileId) (c : Nat) (st : Stream) (op : Nat) (status : Nat) (credits : Nat) (tag : Nat) : Keeps s₀ (tellPeer s t c st op status credits tag) := by
  unfold tellPeer
  try dsimp only
  repeat' first | with_reducible assumption | with_reducible apply sendPkt_keeps | (with_reducible apply keeps_foldl) | (with_reducible intro _ _ _) | (intro g; exact getTile_wf (by assumption) _ g) | with_reducible apply keeps_ite_snd | with_reducible apply keeps_ite_fst | split | (with_reducible intro _) | (dsimp only) | (with_reducible refine keeps_fst ?_ (by with_reducible assumption)) | (with_reducible refine keeps_snd ?_ (by with_reducible assumption)) | (with_reducible refine keeps_opt ?_ (by with_reducible assumption)) | with_reducible exact opt_none | with_reducible apply opt_some | (with_reducible apply tile_foldl) | (with_reducible refine tile_mk ?_ rfl)

theorem cancelPeer_keeps {s₀ s : State} (hk : Keeps s₀ s) (t : TileId) (c : Nat) (st : Stream) (status : Status) : Keeps s₀ (cancelPeer s t c st status) := by
  unfold cancelPeer
  try dsimp only
  repeat' first | with_reducible assumption | with_reducible apply tellPeer_keeps | (with_reducible apply keeps_foldl) | (with_reducible intro _ _ _) | (intro g; exact getTile_wf (by assumption) _ g) | with_reducible apply keeps_ite_snd | with_reducible apply keeps_ite_fst | split | (with_reducible intro _) | (dsimp only) | (with_reducible refine keeps_fst ?_ (by with_reducible assumption)) | (with_reducible refine keeps_snd ?_ (by with_reducible assumption)) | (with_reducible refine keeps_opt ?_ (by with_reducible assumption)) | with_reducible exact opt_none | with_reducible apply opt_some | (with_reducible apply tile_foldl) | (with_reducible refine tile_mk ?_ rfl)

theorem cancelStream_keeps {s₀ s : State} (hk : Keeps s₀ s) (t : TileId) (c : Nat) (status : Status) : Keeps s₀ (cancelStream s t c status) := by
  unfold cancelStream
  try dsimp only
  repeat' first | with_reducible assumption | with_reducible apply putStream_keeps | with_reducible apply setFld_keeps | with_reducible apply invalidateAll_keeps | with_reducible apply freeEntries_keeps | with_reducible apply modTile_keeps | with_reducible apply cancelPeer_keeps | (with_reducible apply keeps_foldl) | (with_reducible intro _ _ _) | (intro g; exact getTile_wf (by assumption) _ g) | with_reducible apply getTile_wf | with_reducible apply setStream_wf | with_reducible apply keeps_ite_snd | with_reducible apply keeps_ite_fst | split | (with_reducible intro _) | (dsimp only) | (with_reducible refine keeps_fst ?_ (by with_reducible assumption)) | (with_reducible refine keeps_snd ?_ (by with_reducible assumption)) | (with_reducible refine keeps_opt ?_ (by with_reducible assumption)) | with_reducible exact opt_none | with_reducible apply opt_some | (with_reducible refine keeps_mk ?_ rfl rfl rfl rfl rfl rfl rfl) | (with_reducible apply tile_foldl) | (with_reducible refine tile_mk ?_ rfl)

theorem cancelQueue_keeps {s₀ s : State} (hk : Keeps s₀ s) (t : TileId) (q : Nat) (status : Status) : Keeps s₀ (cancelQueue s t q status) := by
  unfold cancelQueue
  try dsimp only
  repeat' first | with_reducible assumption | with_reducible apply cancelStream_keeps | (with_reducible apply keeps_foldl) | (with_reducible intro _ _ _) | (intro g; exact getTile_wf (by assumption) _ g) | with_reducible apply keeps_ite_snd | with_reducible apply keeps_ite_fst | split | (with_reducible intro _) | (dsimp only) | (with_reducible refine keeps_fst ?_ (by with_reducible assumption)) | (with_reducible refine keeps_snd ?_ (by with_reducible assumption)) | (with_reducible refine keeps_opt ?_ (by with_reducible assumption)) | with_reducible exact opt_none | with_reducible apply opt_some | (with_reducible apply tile_foldl) | (with_reducible refine tile_mk ?_ rfl)

theorem setRun_keeps {s₀ s : State} (hk : Keeps s₀ s) (t : TileId) (q : Nat) (l : Option Launch) : Keeps s₀ (setRun s t q l) := by
  unfold setRun
  try dsimp only
  repeat' first | with_reducible assumption | with_reducible apply modTile_keeps | (with_reducible apply keeps_foldl) | (with_reducible intro _ _ _) | (intro g; exact getTile_wf (by assumption) _ g) | with_reducible apply keeps_ite_snd | with_reducible apply keeps_ite_fst | split | (with_reducible intro _) | (dsimp only) | (with_reducible refine keeps_fst ?_ (by with_reducible assumption)) | (with_reducible refine keeps_snd ?_ (by with_reducible assumption)) | (with_reducible refine keeps_opt ?_ (by with_reducible assumption)) | with_reducible exact opt_none | with_reducible apply opt_some | (with_reducible refine keeps_mk ?_ rfl rfl rfl rfl rfl rfl rfl) | (with_reducible apply tile_foldl) | (with_reducible refine tile_mk ?_ rfl)

theorem modRun_keeps {s₀ s : State} (hk : Keeps s₀ s) (t : TileId) (q : Nat) (f : Launch → Launch) : Keeps s₀ (modRun s t q f) := by
  unfold modRun
  try dsimp only
  repeat' first | with_reducible assumption | with_reducible apply setRun_keeps | (with_reducible apply keeps_foldl) | (with_reducible intro _ _ _) | (intro g; exact getTile_wf (by assumption) _ g) | with_reducible apply getTile_wf | with_reducible apply keeps_ite_snd | with_reducible apply keeps_ite_fst | split | (with_reducible intro _) | (dsimp only) | (with_reducible refine keeps_fst ?_ (by with_reducible assumption)) | (with_reducible refine keeps_snd ?_ (by with_reducible assumption)) | (with_reducible refine keeps_opt ?_ (by with_reducible assumption)) | with_reducible exact opt_none | with_reducible apply opt_some | (with_reducible apply tile_foldl) | (with_reducible refine tile_mk ?_ rfl)

theorem noFold_keeps {s₀ s : State} (hk : Keeps s₀ s) (t : TileId) (q : Nat) (kind : Nat) (seq : Nat) : Keeps s₀ (noFold s t q kind seq) := by
  unfold noFold
  try dsimp only
  repeat' first | with_reducible assumption | with_reducible apply modRun_keeps | (with_reducible apply keeps_foldl) | (with_reducible intro _ _ _) | (intro g; exact getTile_wf (by assumption) _ g) | with_reducible apply keeps_ite_snd | with_reducible apply keeps_ite_fst | split | (with_reducible intro _) | (dsimp only) | (with_reducible refine keeps_fst ?_ (by with_reducible assumption)) | (with_reducible refine keeps_snd ?_ (by with_reducible assumption)) | (with_reducible refine keeps_opt ?_ (by with_reducible assumption)) | with_reducible exact opt_none | with_reducible apply opt_some | (with_reducible refine keeps_mk ?_ rfl rfl rfl rfl rfl rfl rfl) | (with_reducible apply tile_foldl) | (with_reducible refine tile_mk ?_ rfl)

end Sys2Proof.Machine
end

