-- ==== Sys2Proof/Laws/KeepSeqCore.lean ====
section
/-! SUPPORT. What the operations of Machine/SeqCore.lean keep (see Laws/Keep.lean). -/

namespace Sys2Proof.Machine
open Sys2Proof

theorem seqRead_keeps {s₀ s : State} (hk : Keeps s₀ s) (t : TileId) (net : Status) (a : Nat) (n : Nat) : Keeps s₀ (seqRead s t net a n).1 := by
  unfold seqRead
  try dsimp only
  repeat' first | with_reducible assumption | with_reducible apply hbmRead_keeps | (with_reducible apply keeps_foldl) | (with_reducible intro _ _ _) | (intro g; exact getTile_wf (by assumption) _ g) | with_reducible apply keeps_ite_snd | with_reducible apply keeps_ite_fst | split | (with_reducible intro _) | (dsimp only) | (with_reducible refine keeps_fst ?_ (by with_reducible assumption)) | (with_reducible refine keeps_snd ?_ (by with_reducible assumption)) | (with_reducible refine keeps_opt ?_ (by with_reducible assumption)) | with_reducible exact opt_none | with_reducible apply opt_some | (with_reducible apply tile_foldl) | (with_reducible refine tile_mk ?_ rfl)

theorem tpWord_keeps {s₀ s : State} (hk : Keeps s₀ s) (t : TileId) (l : Launch) (i : Nat) : Keeps s₀ (tpWord s t l i).1 := by
  unfold tpWord
  try dsimp only
  repeat' first | with_reducible assumption | with_reducible apply seqRead_keeps | (with_reducible apply keeps_foldl) | (with_reducible intro _ _ _) | (intro g; exact getTile_wf (by assumption) _ g) | with_reducible apply keeps_ite_snd | with_reducible apply keeps_ite_fst | split | (with_reducible intro _) | (dsimp only) | (with_reducible refine keeps_fst ?_ (by with_reducible assumption)) | (with_reducible refine keeps_snd ?_ (by with_reducible assumption)) | (with_reducible refine keeps_opt ?_ (by with_reducible assumption)) | with_reducible exact opt_none | with_reducible apply opt_some | (with_reducible apply tile_foldl) | (with_reducible refine tile_mk ?_ rfl)

theorem tpMore_keeps {s₀ : State} (t : TileId) (l : Launch) (r : State × Option (List Word)) (i : Nat) (hk : Keeps s₀ r.1) :
    Keeps s₀ (tpMore t l r i).1 := by
  obtain ⟨s, _ | ws⟩ := r
  · exact hk
  · have h := tpWord_keeps hk t l (l.pc + i)
    unfold tpMore
    dsimp only
    split <;> rename_i e <;> rw [e] at h <;> exact h

theorem tpFetch_keeps {s₀ s : State} (hk : Keeps s₀ s) (t : TileId) (q : Nat) (l : Launch) : Keeps s₀ (tpFetch s t q l).1 := by
  have h := foldl_inv (fun r => Keeps s₀ r.1) (tpMore t l) (fun r i => tpMore_keeps t l r i) (List.range (tpLen s t l)) (s, some []) hk
  unfold tpFetch
  split <;> rename_i e <;> rw [e] at h <;> exact h

theorem failProgram_keeps {s₀ s : State} (hk : Keeps s₀ s) (t : TileId) (q : Nat) (f : Failure) : Keeps s₀ (failProgram s t q f) := by
  unfold failProgram
  try dsimp only
  repeat' first | with_reducible assumption | with_reducible apply setRun_keeps | with_reducible apply modTile_keeps | with_reducible apply cancelQueue_keeps | (with_reducible apply keeps_foldl) | (with_reducible intro _ _ _) | (intro g; exact getTile_wf (by assumption) _ g) | with_reducible apply getTile_wf | with_reducible apply keeps_ite_snd | with_reducible apply keeps_ite_fst | split | (with_reducible intro _) | (dsimp only) | (with_reducible refine keeps_fst ?_ (by with_reducible assumption)) | (with_reducible refine keeps_snd ?_ (by with_reducible assumption)) | (with_reducible refine keeps_opt ?_ (by with_reducible assumption)) | with_reducible exact opt_none | with_reducible apply opt_some | (with_reducible refine keeps_mk ?_ rfl rfl rfl rfl rfl rfl rfl) | (with_reducible apply tile_foldl) | (with_reducible refine tile_mk ?_ rfl)

theorem programFault_keeps {s₀ s : State} (hk : Keeps s₀ s) (t : TileId) (q : Nat) (pc : Nat) : Keeps s₀ (programFault s t q pc) := by
  unfold programFault
  try dsimp only
  repeat' first | with_reducible assumption | with_reducible apply failProgram_keeps | (with_reducible apply keeps_foldl) | (with_reducible intro _ _ _) | (intro g; exact getTile_wf (by assumption) _ g) | with_reducible apply keeps_ite_snd | with_reducible apply keeps_ite_fst | split | (with_reducible intro _) | (dsimp only) | (with_reducible refine keeps_fst ?_ (by with_reducible assumption)) | (with_reducible refine keeps_snd ?_ (by with_reducible assumption)) | (with_reducible refine keeps_opt ?_ (by with_reducible assumption)) | with_reducible exact opt_none | with_reducible apply opt_some | (with_reducible apply tile_foldl) | (with_reducible refine tile_mk ?_ rfl)

theorem setQState_keeps {s₀ s : State} (hk : Keeps s₀ s) (t : TileId) (q : Nat) (v : Nat) : Keeps s₀ (setQState s t q v) := by
  unfold setQState
  try dsimp only
  repeat' first | with_reducible assumption | with_reducible apply setFld_keeps | (with_reducible apply keeps_foldl) | (with_reducible intro _ _ _) | (intro g; exact getTile_wf (by assumption) _ g) | with_reducible apply keeps_ite_snd | with_reducible apply keeps_ite_fst | split | (with_reducible intro _) | (dsimp only) | (with_reducible refine keeps_fst ?_ (by with_reducible assumption)) | (with_reducible refine keeps_snd ?_ (by with_reducible assumption)) | (with_reducible refine keeps_opt ?_ (by with_reducible assumption)) | with_reducible exact opt_none | with_reducible apply opt_some | (with_reducible apply tile_foldl) | (with_reducible refine tile_mk ?_ rfl)

theorem showPc_keeps {s₀ s : State} (hk : Keeps s₀ s) (t : TileId) (q : Nat) (pc : Nat) : Keeps s₀ (showPc s t q pc) := by
  unfold showPc
  try dsimp only
  repeat' first | with_reducible assumption | with_reducible apply setFld_keeps | (with_reducible apply keeps_foldl) | (with_reducible intro _ _ _) | (intro g; exact getTile_wf (by assumption) _ g) | with_reducible apply keeps_ite_snd | with_reducible apply keeps_ite_fst | split | (with_reducible intro _) | (dsimp only) | (with_reducible refine keeps_fst ?_ (by with_reducible assumption)) | (with_reducible refine keeps_snd ?_ (by with_reducible assumption)) | (with_reducible refine keeps_opt ?_ (by with_reducible assumption)) | with_reducible exact opt_none | with_reducible apply opt_some | (with_reducible apply tile_foldl) | (with_reducible refine tile_mk ?_ rfl)

theorem reach_keeps {s₀ s : State} (hk : Keeps s₀ s) (t : TileId) (q : Nat) : Keeps s₀ (reach s t q) := by
  unfold reach
  try dsimp only
  repeat' first | with_reducible assumption | with_reducible apply tpFetch_keeps | with_reducible apply programFault_keeps | (with_reducible apply keeps_foldl) | (with_reducible intro _ _ _) | (intro g; exact getTile_wf (by assumption) _ g) | with_reducible apply getTile_wf | with_reducible apply keeps_ite_snd | with_reducible apply keeps_ite_fst | split | (with_reducible intro _) | (dsimp only) | (with_reducible refine keeps_fst ?_ (by with_reducible assumption)) | (with_reducible refine keeps_snd ?_ (by with_reducible assumption)) | (with_reducible refine keeps_opt ?_ (by with_reducible assumption)) | with_reducible exact opt_none | with_reducible apply opt_some | (with_reducible apply tile_foldl) | (with_reducible refine tile_mk ?_ rfl)

theorem advance_keeps {s₀ s : State} (hk : Keeps s₀ s) (t : TileId) (q : Nat) (n : Nat) : Keeps s₀ (advance s t q n) := by
  unfold advance
  try dsimp only
  repeat' first | with_reducible assumption | with_reducible apply modRun_keeps | with_reducible apply reach_keeps | with_reducible apply showPc_keeps | (with_reducible apply keeps_foldl) | (with_reducible intro _ _ _) | (intro g; exact getTile_wf (by assumption) _ g) | with_reducible apply getTile_wf | with_reducible apply keeps_ite_snd | with_reducible apply keeps_ite_fst | split | (with_reducible intro _) | (dsimp only) | (with_reducible refine keeps_fst ?_ (by with_reducible assumption)) | (with_reducible refine keeps_snd ?_ (by with_reducible assumption)) | (with_reducible refine keeps_opt ?_ (by with_reducible assumption)) | with_reducible exact opt_none | with_reducible apply opt_some | (with_reducible refine keeps_mk ?_ rfl rfl rfl rfl rfl rfl rfl) | (with_reducible apply tile_foldl) | (with_reducible refine tile_mk ?_ rfl)

theorem tpIssue_keeps {s₀ s : State} (hk : Keeps s₀ s) (t : TileId) (q : Nat) (op : Nat) (f : State → Launch → List Word → State) (hf : ∀ s x0 x1, Keeps s₀ s → Keeps s₀ (f s x0 x1)) : Keeps s₀ (tpIssue s t q op f) := by
  unfold tpIssue
  try dsimp only
  repeat' first | with_reducible assumption | with_reducible apply tpFetch_keeps | with_reducible apply programFault_keeps | with_reducible apply hf | (with_reducible apply keeps_foldl) | (with_reducible intro _ _ _) | (intro g; exact getTile_wf (by assumption) _ g) | with_reducible apply getTile_wf | with_reducible apply keeps_ite_snd | with_reducible apply keeps_ite_fst | split | (with_reducible intro _) | (dsimp only) | (with_reducible refine keeps_fst ?_ (by with_reducible assumption)) | (with_reducible refine keeps_snd ?_ (by with_reducible assumption)) | (with_reducible refine keeps_opt ?_ (by with_reducible assumption)) | with_reducible exact opt_none | with_reducible apply opt_some | (with_reducible apply tile_foldl) | (with_reducible refine tile_mk ?_ rfl)

theorem waitHere_keeps {s₀ s : State} (hk : Keeps s₀ s) (t : TileId) (q : Nat) : Keeps s₀ (waitHere s t q) := by
  unfold waitHere
  try dsimp only
  repeat' first | with_reducible assumption | with_reducible apply modRun_keeps | (with_reducible apply keeps_foldl) | (with_reducible intro _ _ _) | (intro g; exact getTile_wf (by assumption) _ g) | with_reducible apply keeps_ite_snd | with_reducible apply keeps_ite_fst | split | (with_reducible intro _) | (dsimp only) | (with_reducible refine keeps_fst ?_ (by with_reducible assumption)) | (with_reducible refine keeps_snd ?_ (by with_reducible assumption)) | (with_reducible refine keeps_opt ?_ (by with_reducible assumption)) | with_reducible exact opt_none | with_reducible apply opt_some | (with_reducible refine keeps_mk ?_ rfl rfl rfl rfl rfl rfl rfl) | (with_reducible apply tile_foldl) | (with_reducible refine tile_mk ?_ rfl)

theorem issueWhen_keeps {s₀ s : State} (hk : Keeps s₀ s) (c : Bool) (t : TileId) (q : Nat) (f : State → State) (hf : ∀ s , Keeps s₀ s → Keeps s₀ (f s )) : Keeps s₀ (issueWhen c s t q f) := by
  unfold issueWhen
  try dsimp only
  repeat' first | with_reducible assumption | with_reducible apply waitHere_keeps | with_reducible apply hf | (with_reducible apply keeps_foldl) | (with_reducible intro _ _ _) | (intro g; exact getTile_wf (by assumption) _ g) | with_reducible apply keeps_ite_snd | with_reducible apply keeps_ite_fst | split | (with_reducible intro _) | (dsimp only) | (with_reducible refine keeps_fst ?_ (by with_reducible assumption)) | (with_reducible refine keeps_snd ?_ (by with_reducible assumption)) | (with_reducible refine keeps_opt ?_ (by with_reducible assumption)) | with_reducible exact opt_none | with_reducible apply opt_some | (with_reducible apply tile_foldl) | (with_reducible refine tile_mk ?_ rfl)

theorem addUnit_keeps {s₀ s : State} (hk : Keeps s₀ s) (t : TileId) (q : Nat) (u : UnitRec) : Keeps s₀ (addUnit s t q u) := by
  unfold addUnit
  try dsimp only
  repeat' first | with_reducible assumption | with_reducible apply modRun_keeps | (with_reducible apply keeps_foldl) | (with_reducible intro _ _ _) | (intro g; exact getTile_wf (by assumption) _ g) | with_reducible apply keeps_ite_snd | with_reducible apply keeps_ite_fst | split | (with_reducible intro _) | (dsimp only) | (with_reducible refine keeps_fst ?_ (by with_reducible assumption)) | (with_reducible refine keeps_snd ?_ (by with_reducible assumption)) | (with_reducible refine keeps_opt ?_ (by with_reducible assumption)) | with_reducible exact opt_none | with_reducible apply opt_some | (with_reducible refine keeps_mk ?_ rfl rfl rfl rfl rfl rfl rfl) | (with_reducible apply tile_foldl) | (with_reducible refine tile_mk ?_ rfl)

theorem unitEnded_keeps {s₀ s : State} (hk : Keeps s₀ s) (t : TileId) (q : Nat) (kind : Nat) (seq : Nat) (r : Report) : Keeps s₀ (unitEnded s t q kind seq r) := by
  unfold unitEnded
  try dsimp only
  repeat' first | with_reducible assumption | with_reducible apply setRun_keeps | with_reducible apply failProgram_keeps | (with_reducible apply keeps_foldl) | (with_reducible intro _ _ _) | (intro g; exact getTile_wf (by assumption) _ g) | with_reducible apply getTile_wf | with_reducible apply keeps_ite_snd | with_reducible apply keeps_ite_fst | split | (with_reducible intro _) | (dsimp only) | (with_reducible refine keeps_fst ?_ (by with_reducible assumption)) | (with_reducible refine keeps_snd ?_ (by with_reducible assumption)) | (with_reducible refine keeps_opt ?_ (by with_reducible assumption)) | with_reducible exact opt_none | with_reducible apply opt_some | (with_reducible refine keeps_mk ?_ rfl rfl rfl rfl rfl rfl rfl) | (with_reducible apply tile_foldl) | (with_reducible refine tile_mk ?_ rfl)

theorem holdProgram_keeps {s₀ s : State} (hk : Keeps s₀ s) (t : TileId) (q : Nat) (kind : Nat) (seq : Nat) : Keeps s₀ (holdProgram s t q kind seq) := by
  unfold holdProgram
  try dsimp only
  repeat' first | with_reducible assumption | with_reducible apply modRun_keeps | with_reducible apply abortPass_keeps | with_reducible apply cancelQueue_keeps | with_reducible apply modTile_keeps | with_reducible apply failProgram_keeps | with_reducible apply setQState_keeps | (with_reducible apply keeps_foldl) | (with_reducible intro _ _ _) | (intro g; exact getTile_wf (by assumption) _ g) | with_reducible apply getTile_wf | with_reducible apply keeps_ite_snd | with_reducible apply keeps_ite_fst | split | (with_reducible intro _) | (dsimp only) | (with_reducible refine keeps_fst ?_ (by with_reducible assumption)) | (with_reducible refine keeps_snd ?_ (by with_reducible assumption)) | (with_reducible refine keeps_opt ?_ (by with_reducible assumption)) | with_reducible exact opt_none | with_reducible apply opt_some | (with_reducible refine keeps_mk ?_ rfl rfl rfl rfl rfl rfl rfl) | (with_reducible apply tile_foldl) | (with_reducible refine tile_mk ?_ rfl)

theorem tileFault_keeps {s₀ s : State} (hk : Keeps s₀ s) (t : TileId) (q : Nat) (kind : Nat) (seq : Nat) (endIt : State → State) (hendIt : ∀ s , Keeps s₀ s → Keeps s₀ (endIt s )) : Keeps s₀ (tileFault s t q kind seq endIt) := by
  unfold tileFault
  try dsimp only
  repeat' first | with_reducible assumption | with_reducible apply modTile_keeps | with_reducible apply setFlag_keeps | with_reducible apply holdProgram_keeps | with_reducible apply tileFaultEvent_keeps | with_reducible apply hendIt | (with_reducible apply keeps_foldl) | (with_reducible intro _ _ _) | (intro g; exact getTile_wf (by assumption) _ g) | with_reducible apply keeps_ite_snd | with_reducible apply keeps_ite_fst | split | (with_reducible intro _) | (dsimp only) | (with_reducible refine keeps_fst ?_ (by with_reducible assumption)) | (with_reducible refine keeps_snd ?_ (by with_reducible assumption)) | (with_reducible refine keeps_opt ?_ (by with_reducible assumption)) | with_reducible exact opt_none | with_reducible apply opt_some | (with_reducible refine keeps_mk ?_ rfl rfl rfl rfl rfl rfl rfl) | (with_reducible apply tile_foldl) | (with_reducible refine tile_mk ?_ rfl)

theorem noteOutcome_wf {x : Tile} (hk : Tile.wf x = true) (seq : Nat) (status : Status) : Tile.wf (noteOutcome x seq status) = true := by
  unfold noteOutcome
  try dsimp only
  repeat' first | with_reducible assumption | split | (with_reducible apply tile_foldl) | (with_reducible intro _) | (with_reducible refine tile_mk ?_ rfl)

end Sys2Proof.Machine
end

