-- ==== Sys2Proof/Laws/KeepStreamRun.lean ====
section
/-! SUPPORT. What the operations of Machine/StreamRun.lean keep (see Laws/Keep.lean). -/

namespace Sys2Proof.Machine
open Sys2Proof

theorem clearMarks_wf {x : Tile} (hk : Tile.wf x = true) (gs : List Nat) : Tile.wf (clearMarks x gs) = true := by
  unfold clearMarks
  try dsimp only
  repeat' first | with_reducible assumption | split | (with_reducible apply tile_foldl) | (with_reducible intro _) | (with_reducible refine tile_mk ?_ rfl)

theorem tryGrant_keeps {s₀ s : State} (hk : Keeps s₀ s) (t : TileId) (c : Nat) : Keeps s₀ (tryGrant s t c) := by
  unfold tryGrant
  try dsimp only
  repeat' first | with_reducible assumption | with_reducible apply modTile_keeps | with_reducible apply tellPeer_keeps | with_reducible apply putStream_keeps | (with_reducible apply keeps_foldl) | (with_reducible intro _ _ _) | (intro g; exact getTile_wf (by assumption) _ g) | with_reducible apply getTile_wf | with_reducible apply keeps_ite_snd | with_reducible apply keeps_ite_fst | split | (with_reducible intro _) | (dsimp only) | (with_reducible refine keeps_fst ?_ (by with_reducible assumption)) | (with_reducible refine keeps_snd ?_ (by with_reducible assumption)) | (with_reducible refine keeps_opt ?_ (by with_reducible assumption)) | with_reducible exact opt_none | with_reducible apply opt_some | (with_reducible refine keeps_mk ?_ rfl rfl rfl rfl rfl rfl rfl) | (with_reducible apply tile_foldl) | (with_reducible refine tile_mk ?_ rfl)

theorem dropStream_keeps {s₀ s : State} (hk : Keeps s₀ s) (t : TileId) (c : Nat) (st : Stream) : Keeps s₀ (dropStream s t c st) := by
  unfold dropStream
  try dsimp only
  repeat' first | with_reducible assumption | with_reducible apply freeEntries_keeps | with_reducible apply modTile_keeps | with_reducible apply setFld_keeps | (with_reducible apply keeps_foldl) | (with_reducible intro _ _ _) | (intro g; exact getTile_wf (by assumption) _ g) | with_reducible apply setStream_wf | with_reducible apply keeps_ite_snd | with_reducible apply keeps_ite_fst | split | (with_reducible intro _) | (dsimp only) | (with_reducible refine keeps_fst ?_ (by with_reducible assumption)) | (with_reducible refine keeps_snd ?_ (by with_reducible assumption)) | (with_reducible refine keeps_opt ?_ (by with_reducible assumption)) | with_reducible exact opt_none | with_reducible apply opt_some | (with_reducible apply tile_foldl) | (with_reducible refine tile_mk ?_ rfl)

theorem releaseBufs_keeps {s₀ s : State} (hk : Keeps s₀ s) (t : TileId) (c : Nat) (ps : List Nat) : Keeps s₀ (releaseBufs s t c ps) := by
  unfold releaseBufs
  try dsimp only
  repeat' first | with_reducible assumption | with_reducible apply putStream_keeps | with_reducible apply tellPeer_keeps | with_reducible apply dropStream_keeps | (with_reducible apply keeps_foldl) | (with_reducible intro _ _ _) | (intro g; exact getTile_wf (by assumption) _ g) | with_reducible apply getTile_wf | with_reducible apply keeps_ite_snd | with_reducible apply keeps_ite_fst | split | (with_reducible intro _) | (dsimp only) | (with_reducible refine keeps_fst ?_ (by with_reducible assumption)) | (with_reducible refine keeps_snd ?_ (by with_reducible assumption)) | (with_reducible refine keeps_opt ?_ (by with_reducible assumption)) | with_reducible exact opt_none | with_reducible apply opt_some | (with_reducible refine keeps_mk ?_ rfl rfl rfl rfl rfl rfl rfl) | (with_reducible apply tile_foldl) | (with_reducible refine tile_mk ?_ rfl)

theorem markWritten_keeps {s₀ s : State} (hk : Keeps s₀ s) (t : TileId) (c : Nat) (ps : List Nat) : Keeps s₀ (markWritten s t c ps) := by
  unfold markWritten
  try dsimp only
  repeat' first | with_reducible assumption | with_reducible apply putStream_keeps | (with_reducible apply keeps_foldl) | (with_reducible intro _ _ _) | (intro g; exact getTile_wf (by assumption) _ g) | with_reducible apply getTile_wf | with_reducible apply keeps_ite_snd | with_reducible apply keeps_ite_fst | split | (with_reducible intro _) | (dsimp only) | (with_reducible refine keeps_fst ?_ (by with_reducible assumption)) | (with_reducible refine keeps_snd ?_ (by with_reducible assumption)) | (with_reducible refine keeps_opt ?_ (by with_reducible assumption)) | with_reducible exact opt_none | with_reducible apply opt_some | (with_reducible refine keeps_mk ?_ rfl rfl rfl rfl rfl rfl rfl) | (with_reducible apply tile_foldl) | (with_reducible refine tile_mk ?_ rfl)

theorem autoRelease_keeps {s₀ s : State} (hk : Keeps s₀ s) (t : TileId) : Keeps s₀ (autoRelease s t) := by
  unfold autoRelease
  try dsimp only
  repeat' first | with_reducible assumption | with_reducible apply releaseBufs_keeps | (with_reducible apply keeps_foldl) | (with_reducible intro _ _ _) | (intro g; exact getTile_wf (by assumption) _ g) | with_reducible apply getTile_wf | with_reducible apply keeps_ite_snd | with_reducible apply keeps_ite_fst | split | (with_reducible intro _) | (dsimp only) | (with_reducible refine keeps_fst ?_ (by with_reducible assumption)) | (with_reducible refine keeps_snd ?_ (by with_reducible assumption)) | (with_reducible refine keeps_opt ?_ (by with_reducible assumption)) | with_reducible exact opt_none | with_reducible apply opt_some | (with_reducible apply tile_foldl) | (with_reducible refine tile_mk ?_ rfl)

theorem autoWritten_keeps {s₀ s : State} (hk : Keeps s₀ s) (t : TileId) (rs : List (Nat × Nat)) : Keeps s₀ (autoWritten s t rs) := by
  unfold autoWritten
  try dsimp only
  repeat' first | with_reducible assumption | with_reducible apply markWritten_keeps | (with_reducible apply keeps_foldl) | (with_reducible intro _ _ _) | (intro g; exact getTile_wf (by assumption) _ g) | with_reducible apply getTile_wf | with_reducible apply keeps_ite_snd | with_reducible apply keeps_ite_fst | split | (with_reducible intro _) | (dsimp only) | (with_reducible refine keeps_fst ?_ (by with_reducible assumption)) | (with_reducible refine keeps_snd ?_ (by with_reducible assumption)) | (with_reducible refine keeps_opt ?_ (by with_reducible assumption)) | with_reducible exact opt_none | with_reducible apply opt_some | (with_reducible apply tile_foldl) | (with_reducible refine tile_mk ?_ rfl)

theorem holdBufs_wf {x : Tile} (hk : Tile.wf x = true) (rs : List (Nat × Nat)) : Tile.wf (holdBufs x rs) = true := by
  unfold holdBufs
  try dsimp only
  repeat' first | with_reducible assumption | with_reducible apply setStream_wf | split | (with_reducible apply tile_foldl) | (with_reducible intro _) | (with_reducible refine tile_mk ?_ rfl)

theorem tryCommit_keeps {s₀ s : State} (hk : Keeps s₀ s) (t : TileId) (c : Nat) : Keeps s₀ (tryCommit s t c) := by
  unfold tryCommit
  try dsimp only
  repeat' first | with_reducible assumption | with_reducible apply setFld_keeps | with_reducible apply putStream_keeps | with_reducible apply dropStream_keeps | with_reducible apply unitEnded_keeps | (with_reducible apply keeps_foldl) | (with_reducible intro _ _ _) | (intro g; exact getTile_wf (by assumption) _ g) | with_reducible apply getTile_wf | with_reducible apply keeps_ite_snd | with_reducible apply keeps_ite_fst | split | (with_reducible intro _) | (dsimp only) | (with_reducible refine keeps_fst ?_ (by with_reducible assumption)) | (with_reducible refine keeps_snd ?_ (by with_reducible assumption)) | (with_reducible refine keeps_opt ?_ (by with_reducible assumption)) | with_reducible exact opt_none | with_reducible apply opt_some | (with_reducible refine keeps_mk ?_ rfl rfl rfl rfl rfl rfl rfl) | (with_reducible apply tile_foldl) | (with_reducible refine tile_mk ?_ rfl)

theorem fillCheck_keeps {s₀ s : State} (hk : Keeps s₀ s) (t : TileId) (c : Nat) (p : Nat) : Keeps s₀ (fillCheck s t c p) := by
  unfold fillCheck
  try dsimp only
  repeat' first | with_reducible assumption | with_reducible apply tryCommit_keeps | with_reducible apply putStream_keeps | with_reducible apply cancelStream_keeps | (with_reducible apply keeps_foldl) | (with_reducible intro _ _ _) | (intro g; exact getTile_wf (by assumption) _ g) | with_reducible apply getTile_wf | with_reducible apply keeps_ite_snd | with_reducible apply keeps_ite_fst | split | (with_reducible intro _) | (dsimp only) | (with_reducible refine keeps_fst ?_ (by with_reducible assumption)) | (with_reducible refine keeps_snd ?_ (by with_reducible assumption)) | (with_reducible refine keeps_opt ?_ (by with_reducible assumption)) | with_reducible exact opt_none | with_reducible apply opt_some | (with_reducible refine keeps_mk ?_ rfl rfl rfl rfl rfl rfl rfl) | (with_reducible apply tile_foldl) | (with_reducible refine tile_mk ?_ rfl)

theorem drainCheck_keeps {s₀ s : State} (hk : Keeps s₀ s) (t : TileId) (c : Nat) (p : Nat) : Keeps s₀ (drainCheck s t c p) := by
  unfold drainCheck
  try dsimp only
  repeat' first | with_reducible assumption | with_reducible apply tryCommit_keeps | with_reducible apply putStream_keeps | (with_reducible apply keeps_foldl) | (with_reducible intro _ _ _) | (intro g; exact getTile_wf (by assumption) _ g) | with_reducible apply getTile_wf | with_reducible apply keeps_ite_snd | with_reducible apply keeps_ite_fst | split | (with_reducible intro _) | (dsimp only) | (with_reducible refine keeps_fst ?_ (by with_reducible assumption)) | (with_reducible refine keeps_snd ?_ (by with_reducible assumption)) | (with_reducible refine keeps_opt ?_ (by with_reducible assumption)) | with_reducible exact opt_none | with_reducible apply opt_some | (with_reducible apply tile_foldl) | (with_reducible refine tile_mk ?_ rfl)

theorem closeBuf_keeps {s₀ s : State} (hk : Keeps s₀ s) (t : TileId) (c : Nat) (n : Nat) : Keeps s₀ (closeBuf s t c n) := by
  unfold closeBuf
  try dsimp only
  repeat' first | with_reducible assumption | with_reducible apply modTile_keeps | with_reducible apply putStream_keeps | with_reducible apply fillCheck_keeps | with_reducible apply drainCheck_keeps | (with_reducible apply keeps_foldl) | (with_reducible intro _ _ _) | (intro g; exact getTile_wf (by assumption) _ g) | with_reducible apply getTile_wf | with_reducible apply tStore_wf | with_reducible apply keeps_ite_snd | with_reducible apply keeps_ite_fst | split | (with_reducible intro _) | (dsimp only) | (with_reducible refine keeps_fst ?_ (by with_reducible assumption)) | (with_reducible refine keeps_snd ?_ (by with_reducible assumption)) | (with_reducible refine keeps_opt ?_ (by with_reducible assumption)) | with_reducible exact opt_none | with_reducible apply opt_some | (with_reducible refine keeps_mk ?_ rfl rfl rfl rfl rfl rfl rfl) | (with_reducible apply tile_foldl) | (with_reducible refine tile_mk ?_ rfl)

end Sys2Proof.Machine
end

