-- ==== Sys2Proof/Laws/KeepStream.lean ====
section
/-! SUPPORT. What the operations of Machine/Stream.lean keep (see Laws/Keep.lean). -/

namespace Sys2Proof.Machine
open Sys2Proof

theorem seInstr_keeps {s₀ s : State} (hk : Keeps s₀ s) (t : TileId) (c : Nat) (op : Nat) (f : State → Stream → Word → State) (hf : ∀ s x0 x1, Keeps s₀ s → Keeps s₀ (f s x0 x1)) : Keeps s₀ (seInstr s t c op f) := by
  unfold seInstr
  try dsimp only
  repeat' first | with_reducible assumption | with_reducible apply hf | (with_reducible apply keeps_foldl) | (with_reducible intro _ _ _) | (intro g; exact getTile_wf (by assumption) _ g) | with_reducible apply getTile_wf | with_reducible apply keeps_ite_snd | with_reducible apply keeps_ite_fst | split | (with_reducible intro _) | (dsimp only) | (with_reducible refine keeps_fst ?_ (by with_reducible assumption)) | (with_reducible refine keeps_snd ?_ (by with_reducible assumption)) | (with_reducible refine keeps_opt ?_ (by with_reducible assumption)) | with_reducible exact opt_none | with_reducible apply opt_some | (with_reducible apply tile_foldl) | (with_reducible refine tile_mk ?_ rfl)

theorem execSeta_keeps {s₀ s : State} (hk : Keeps s₀ s) (t : TileId) (c : Fin 16) : OutKeeps s₀ (execSeta t c s) := by
  unfold execSeta
  first | apply whenRunning_keeps hk | apply out_next
  try dsimp only
  repeat' first | with_reducible assumption | with_reducible apply whenRunning_keeps | with_reducible apply seInstr_keeps | with_reducible apply putStream_keeps | (with_reducible apply keeps_foldl) | (with_reducible intro _ _ _) | (intro g; exact getTile_wf (by assumption) _ g) | with_reducible apply keeps_ite_snd | with_reducible apply keeps_ite_fst | split | (with_reducible intro _) | (dsimp only) | (with_reducible refine keeps_fst ?_ (by with_reducible assumption)) | (with_reducible refine keeps_snd ?_ (by with_reducible assumption)) | (with_reducible refine keeps_opt ?_ (by with_reducible assumption)) | with_reducible exact opt_none | with_reducible apply opt_some | (with_reducible refine keeps_mk ?_ rfl rfl rfl rfl rfl rfl rfl) | (with_reducible apply tile_foldl) | (with_reducible refine tile_mk ?_ rfl)

theorem execSetah_keeps {s₀ s : State} (hk : Keeps s₀ s) (t : TileId) (c : Fin 16) : OutKeeps s₀ (execSetah t c s) := by
  unfold execSetah
  first | apply whenRunning_keeps hk | apply out_next
  try dsimp only
  repeat' first | with_reducible assumption | with_reducible apply whenRunning_keeps | with_reducible apply seInstr_keeps | with_reducible apply putStream_keeps | (with_reducible apply keeps_foldl) | (with_reducible intro _ _ _) | (intro g; exact getTile_wf (by assumption) _ g) | with_reducible apply keeps_ite_snd | with_reducible apply keeps_ite_fst | split | (with_reducible intro _) | (dsimp only) | (with_reducible refine keeps_fst ?_ (by with_reducible assumption)) | (with_reducible refine keeps_snd ?_ (by with_reducible assumption)) | (with_reducible refine keeps_opt ?_ (by with_reducible assumption)) | with_reducible exact opt_none | with_reducible apply opt_some | (with_reducible refine keeps_mk ?_ rfl rfl rfl rfl rfl rfl rfl) | (with_reducible apply tile_foldl) | (with_reducible refine tile_mk ?_ rfl)

theorem execSett_keeps {s₀ s : State} (hk : Keeps s₀ s) (t : TileId) (c : Fin 16) : OutKeeps s₀ (execSett t c s) := by
  unfold execSett
  first | apply whenRunning_keeps hk | apply out_next
  try dsimp only
  repeat' first | with_reducible assumption | with_reducible apply whenRunning_keeps | with_reducible apply seInstr_keeps | with_reducible apply putStream_keeps | (with_reducible apply keeps_foldl) | (with_reducible intro _ _ _) | (intro g; exact getTile_wf (by assumption) _ g) | with_reducible apply keeps_ite_snd | with_reducible apply keeps_ite_fst | split | (with_reducible intro _) | (dsimp only) | (with_reducible refine keeps_fst ?_ (by with_reducible assumption)) | (with_reducible refine keeps_snd ?_ (by with_reducible assumption)) | (with_reducible refine keeps_opt ?_ (by with_reducible assumption)) | with_reducible exact opt_none | with_reducible apply opt_some | (with_reducible refine keeps_mk ?_ rfl rfl rfl rfl rfl rfl rfl) | (with_reducible apply tile_foldl) | (with_reducible refine tile_mk ?_ rfl)

theorem execAdda_keeps {s₀ s : State} (hk : Keeps s₀ s) (t : TileId) (c : Fin 16) : OutKeeps s₀ (execAdda t c s) := by
  unfold execAdda
  first | apply whenRunning_keeps hk | apply out_next
  try dsimp only
  repeat' first | with_reducible assumption | with_reducible apply whenRunning_keeps | with_reducible apply seInstr_keeps | with_reducible apply putStream_keeps | (with_reducible apply keeps_foldl) | (with_reducible intro _ _ _) | (intro g; exact getTile_wf (by assumption) _ g) | with_reducible apply keeps_ite_snd | with_reducible apply keeps_ite_fst | split | (with_reducible intro _) | (dsimp only) | (with_reducible refine keeps_fst ?_ (by with_reducible assumption)) | (with_reducible refine keeps_snd ?_ (by with_reducible assumption)) | (with_reducible refine keeps_opt ?_ (by with_reducible assumption)) | with_reducible exact opt_none | with_reducible apply opt_some | (with_reducible apply tile_foldl) | (with_reducible refine tile_mk ?_ rfl)

theorem execSeFor_keeps {s₀ s : State} (hk : Keeps s₀ s) (t : TileId) (c : Fin 16) : OutKeeps s₀ (execSeFor t c s) := by
  unfold execSeFor
  first | apply whenRunning_keeps hk | apply out_next
  try dsimp only
  repeat' first | with_reducible assumption | with_reducible apply whenRunning_keeps | with_reducible apply seInstr_keeps | with_reducible apply putStream_keeps | (with_reducible apply keeps_foldl) | (with_reducible intro _ _ _) | (intro g; exact getTile_wf (by assumption) _ g) | with_reducible apply keeps_ite_snd | with_reducible apply keeps_ite_fst | split | (with_reducible intro _) | (dsimp only) | (with_reducible refine keeps_fst ?_ (by with_reducible assumption)) | (with_reducible refine keeps_snd ?_ (by with_reducible assumption)) | (with_reducible refine keeps_opt ?_ (by with_reducible assumption)) | with_reducible exact opt_none | with_reducible apply opt_some | (with_reducible refine keeps_mk ?_ rfl rfl rfl rfl rfl rfl rfl) | (with_reducible apply tile_foldl) | (with_reducible refine tile_mk ?_ rfl)

theorem execSeNext_keeps {s₀ s : State} (hk : Keeps s₀ s) (t : TileId) (c : Fin 16) : OutKeeps s₀ (execSeNext t c s) := by
  unfold execSeNext
  first | apply whenRunning_keeps hk | apply out_next
  try dsimp only
  repeat' first | with_reducible assumption | with_reducible apply whenRunning_keeps | with_reducible apply seInstr_keeps | with_reducible apply putStream_keeps | (with_reducible apply keeps_foldl) | (with_reducible intro _ _ _) | (intro g; exact getTile_wf (by assumption) _ g) | with_reducible apply keeps_ite_snd | with_reducible apply keeps_ite_fst | split | (with_reducible intro _) | (dsimp only) | (with_reducible refine keeps_fst ?_ (by with_reducible assumption)) | (with_reducible refine keeps_snd ?_ (by with_reducible assumption)) | (with_reducible refine keeps_opt ?_ (by with_reducible assumption)) | with_reducible exact opt_none | with_reducible apply opt_some | (with_reducible refine keeps_mk ?_ rfl rfl rfl rfl rfl rfl rfl) | (with_reducible apply tile_foldl) | (with_reducible refine tile_mk ?_ rfl)

theorem execMove_keeps {s₀ s : State} (hk : Keeps s₀ s) (t : TileId) (c : Fin 16) : OutKeeps s₀ (execMove t c s) := by
  unfold execMove
  first | apply whenRunning_keeps hk | apply out_next
  try dsimp only
  repeat' first | with_reducible assumption | with_reducible apply whenRunning_keeps | with_reducible apply seInstr_keeps | with_reducible apply putStream_keeps | (with_reducible apply keeps_foldl) | (with_reducible intro _ _ _) | (intro g; exact getTile_wf (by assumption) _ g) | with_reducible apply keeps_ite_snd | with_reducible apply keeps_ite_fst | split | (with_reducible intro _) | (dsimp only) | (with_reducible refine keeps_fst ?_ (by with_reducible assumption)) | (with_reducible refine keeps_snd ?_ (by with_reducible assumption)) | (with_reducible refine keeps_opt ?_ (by with_reducible assumption)) | with_reducible exact opt_none | with_reducible apply opt_some | (with_reducible refine keeps_mk ?_ rfl rfl rfl rfl rfl rfl rfl) | (with_reducible apply tile_foldl) | (with_reducible refine tile_mk ?_ rfl)

theorem execGather_keeps {s₀ s : State} (hk : Keeps s₀ s) (t : TileId) (c : Fin 16) : OutKeeps s₀ (execGather t c s) := by
  unfold execGather
  first | apply whenRunning_keeps hk | apply out_next
  try dsimp only
  repeat' first | with_reducible assumption | with_reducible apply whenRunning_keeps | with_reducible apply seInstr_keeps | with_reducible apply cancelStream_keeps | with_reducible apply putStream_keeps | (with_reducible apply keeps_foldl) | (with_reducible intro _ _ _) | (intro g; exact getTile_wf (by assumption) _ g) | with_reducible apply getTile_wf | with_reducible apply keeps_ite_snd | with_reducible apply keeps_ite_fst | split | (with_reducible intro _) | (dsimp only) | (with_reducible refine keeps_fst ?_ (by with_reducible assumption)) | (with_reducible refine keeps_snd ?_ (by with_reducible assumption)) | (with_reducible refine keeps_opt ?_ (by with_reducible assumption)) | with_reducible exact opt_none | with_reducible apply opt_some | (with_reducible refine keeps_mk ?_ rfl rfl rfl rfl rfl rfl rfl) | (with_reducible apply tile_foldl) | (with_reducible refine tile_mk ?_ rfl)

theorem flushStream_keeps {s₀ s : State} (hk : Keeps s₀ s) (t : TileId) (c : Nat) (st : Stream) (n : Nat) : Keeps s₀ (flushStream s t c st n) := by
  unfold flushStream
  try dsimp only
  repeat' first | with_reducible assumption | with_reducible apply closeBuf_keeps | with_reducible apply putStream_keeps | (with_reducible apply keeps_foldl) | (with_reducible intro _ _ _) | (intro g; exact getTile_wf (by assumption) _ g) | with_reducible apply keeps_ite_snd | with_reducible apply keeps_ite_fst | split | (with_reducible intro _) | (dsimp only) | (with_reducible refine keeps_fst ?_ (by with_reducible assumption)) | (with_reducible refine keeps_snd ?_ (by with_reducible assumption)) | (with_reducible refine keeps_opt ?_ (by with_reducible assumption)) | with_reducible exact opt_none | with_reducible apply opt_some | (with_reducible apply tile_foldl) | (with_reducible refine tile_mk ?_ rfl)

theorem execFlush_keeps {s₀ s : State} (hk : Keeps s₀ s) (t : TileId) (c : Fin 16) : OutKeeps s₀ (execFlush t c s) := by
  unfold execFlush
  first | apply whenRunning_keeps hk | apply out_next
  try dsimp only
  repeat' first | with_reducible assumption | with_reducible apply whenRunning_keeps | with_reducible apply seInstr_keeps | with_reducible apply flushStream_keeps | (with_reducible apply keeps_foldl) | (with_reducible intro _ _ _) | (intro g; exact getTile_wf (by assumption) _ g) | with_reducible apply getTile_wf | with_reducible apply keeps_ite_snd | with_reducible apply keeps_ite_fst | split | (with_reducible intro _) | (dsimp only) | (with_reducible refine keeps_fst ?_ (by with_reducible assumption)) | (with_reducible refine keeps_snd ?_ (by with_reducible assumption)) | (with_reducible refine keeps_opt ?_ (by with_reducible assumption)) | with_reducible exact opt_none | with_reducible apply opt_some | (with_reducible apply tile_foldl) | (with_reducible refine tile_mk ?_ rfl)

theorem execStreamFence_keeps {s₀ s : State} (hk : Keeps s₀ s) (t : TileId) (c : Fin 16) : OutKeeps s₀ (execStreamFence t c s) := by
  unfold execStreamFence
  first | apply whenRunning_keeps hk | apply out_next
  try dsimp only
  repeat' first | with_reducible assumption | with_reducible apply whenRunning_keeps | with_reducible apply seInstr_keeps | with_reducible apply putStream_keeps | (with_reducible apply keeps_foldl) | (with_reducible intro _ _ _) | (intro g; exact getTile_wf (by assumption) _ g) | with_reducible apply keeps_ite_snd | with_reducible apply keeps_ite_fst | split | (with_reducible intro _) | (dsimp only) | (with_reducible refine keeps_fst ?_ (by with_reducible assumption)) | (with_reducible refine keeps_snd ?_ (by with_reducible assumption)) | (with_reducible refine keeps_opt ?_ (by with_reducible assumption)) | with_reducible exact opt_none | with_reducible apply opt_some | (with_reducible apply tile_foldl) | (with_reducible refine tile_mk ?_ rfl)

theorem execStreamEnd_keeps {s₀ s : State} (hk : Keeps s₀ s) (t : TileId) (c : Fin 16) : OutKeeps s₀ (execStreamEnd t c s) := by
  unfold execStreamEnd
  first | apply whenRunning_keeps hk | apply out_next
  try dsimp only
  repeat' first | with_reducible assumption | with_reducible apply whenRunning_keeps | with_reducible apply seInstr_keeps | with_reducible apply putStream_keeps | with_reducible apply tryCommit_keeps | with_reducible apply flushStream_keeps | (with_reducible apply keeps_foldl) | (with_reducible intro _ _ _) | (intro g; exact getTile_wf (by assumption) _ g) | with_reducible apply getTile_wf | with_reducible apply keeps_ite_snd | with_reducible apply keeps_ite_fst | split | (with_reducible intro _) | (dsimp only) | (with_reducible refine keeps_fst ?_ (by with_reducible assumption)) | (with_reducible refine keeps_snd ?_ (by with_reducible assumption)) | (with_reducible refine keeps_opt ?_ (by with_reducible assumption)) | with_reducible exact opt_none | with_reducible apply opt_some | (with_reducible refine keeps_mk ?_ rfl rfl rfl rfl rfl rfl rfl) | (with_reducible apply tile_foldl) | (with_reducible refine tile_mk ?_ rfl)

theorem skipPiece_keeps {s₀ s : State} (hk : Keeps s₀ s) (t : TileId) (c : Nat) (st : Stream) (r : SReq) : Keeps s₀ (skipPiece s t c st r) := by
  unfold skipPiece
  try dsimp only
  repeat' first | with_reducible assumption | with_reducible apply modTile_keeps | with_reducible apply putStream_keeps | with_reducible apply fillCheck_keeps | with_reducible apply drainCheck_keeps | (with_reducible apply keeps_foldl) | (with_reducible intro _ _ _) | (intro g; exact getTile_wf (by assumption) _ g) | with_reducible apply keeps_ite_snd | with_reducible apply keeps_ite_fst | split | (with_reducible intro _) | (dsimp only) | (with_reducible refine keeps_fst ?_ (by with_reducible assumption)) | (with_reducible refine keeps_snd ?_ (by with_reducible assumption)) | (with_reducible refine keeps_opt ?_ (by with_reducible assumption)) | with_reducible exact opt_none | with_reducible apply opt_some | (with_reducible refine keeps_mk ?_ rfl rfl rfl rfl rfl rfl rfl) | (with_reducible apply tile_foldl) | (with_reducible refine tile_mk ?_ rfl) | (refine poison_foldl_wf (m := Tile.mem _) ?_ _ _; assumption)

theorem sendReq_keeps {s₀ s : State} (hk : Keeps s₀ s) (t : TileId) (c : Nat) (st : Stream) (r : SReq) : Keeps s₀ (sendReq s t c st r) := by
  unfold sendReq
  try dsimp only
  repeat' first | with_reducible assumption | with_reducible apply cancelStream_keeps | with_reducible apply holdTag_keeps | with_reducible apply inject_keeps | with_reducible apply putStream_keeps | with_reducible apply tryCommit_keeps | (with_reducible apply keeps_foldl) | (with_reducible intro _ _ _) | (intro g; exact getTile_wf (by assumption) _ g) | with_reducible apply keeps_ite_snd | with_reducible apply keeps_ite_fst | split | (with_reducible intro _) | (dsimp only) | (with_reducible refine keeps_fst ?_ (by with_reducible assumption)) | (with_reducible refine keeps_snd ?_ (by with_reducible assumption)) | (with_reducible refine keeps_opt ?_ (by with_reducible assumption)) | with_reducible exact opt_none | with_reducible apply opt_some | (with_reducible apply tile_foldl) | (with_reducible refine tile_mk ?_ rfl)

theorem execStreamRequestIssue_keeps {s₀ s : State} (hk : Keeps s₀ s) (t : TileId) : OutKeeps s₀ (execStreamRequestIssue t s) := by
  unfold execStreamRequestIssue
  first | apply whenRunning_keeps hk | apply out_next
  try dsimp only
  repeat' first | with_reducible assumption | with_reducible apply whenRunning_keeps | with_reducible apply skipPiece_keeps | with_reducible apply sendReq_keeps | (with_reducible apply keeps_foldl) | (with_reducible intro _ _ _) | (intro g; exact getTile_wf (by assumption) _ g) | with_reducible apply keeps_ite_snd | with_reducible apply keeps_ite_fst | split | (with_reducible intro _) | (dsimp only) | (with_reducible refine keeps_fst ?_ (by with_reducible assumption)) | (with_reducible refine keeps_snd ?_ (by with_reducible assumption)) | (with_reducible refine keeps_opt ?_ (by with_reducible assumption)) | with_reducible exact opt_none | with_reducible apply opt_some | (with_reducible apply tile_foldl) | (with_reducible refine tile_mk ?_ rfl)

theorem placeBytes_keeps {s₀ s : State} (hk : Keeps s₀ s) (t : TileId) (c : Nat) (p : Nat) (off : Nat) (k : Nat) (d : List Byte) (mask : Nat) : Keeps s₀ (placeBytes s t c p off k d mask) := by
  unfold placeBytes
  try dsimp only
  repeat' first | with_reducible assumption | with_reducible apply modTile_keeps | with_reducible apply putStream_keeps | (with_reducible apply keeps_foldl) | (with_reducible intro _ _ _) | (intro g; exact getTile_wf (by assumption) _ g) | with_reducible apply getTile_wf | with_reducible apply tWrite_wf | with_reducible apply keeps_ite_snd | with_reducible apply keeps_ite_fst | split | (with_reducible intro _) | (dsimp only) | (with_reducible refine keeps_fst ?_ (by with_reducible assumption)) | (with_reducible refine keeps_snd ?_ (by with_reducible assumption)) | (with_reducible refine keeps_opt ?_ (by with_reducible assumption)) | with_reducible exact opt_none | with_reducible apply opt_some | (with_reducible refine keeps_mk ?_ rfl rfl rfl rfl rfl rfl rfl) | (with_reducible apply tile_foldl) | (with_reducible refine tile_mk ?_ rfl)

theorem tableAnswered_keeps {s₀ s : State} (hk : Keeps s₀ s) (u : StreamUse) (st : Stream) (b : Buf) (r : Packet) : Keeps s₀ (tableAnswered s u st b r) := by
  unfold tableAnswered
  try dsimp only
  repeat' first | with_reducible assumption | with_reducible apply drainCheck_keeps | with_reducible apply putStream_keeps | with_reducible apply fillCheck_keeps | (with_reducible apply keeps_foldl) | (with_reducible intro _ _ _) | (intro g; exact getTile_wf (by assumption) _ g) | with_reducible apply keeps_ite_snd | with_reducible apply keeps_ite_fst | split | (with_reducible intro _) | (dsimp only) | (with_reducible refine keeps_fst ?_ (by with_reducible assumption)) | (with_reducible refine keeps_snd ?_ (by with_reducible assumption)) | (with_reducible refine keeps_opt ?_ (by with_reducible assumption)) | with_reducible exact opt_none | with_reducible apply opt_some | (with_reducible refine keeps_mk ?_ rfl rfl rfl rfl rfl rfl rfl) | (with_reducible apply tile_foldl) | (with_reducible refine tile_mk ?_ rfl)

theorem applyResponse_keeps {s₀ s : State} (hk : Keeps s₀ s) (u : StreamUse) (r : Packet) : Keeps s₀ (applyResponse s u r) := by
  unfold applyResponse
  try dsimp only
  repeat' first | with_reducible assumption | with_reducible apply tableAnswered_keeps | with_reducible apply fillCheck_keeps | with_reducible apply placeBytes_keeps | with_reducible apply drainCheck_keeps | with_reducible apply putStream_keeps | with_reducible apply tryCommit_keeps | (with_reducible apply keeps_foldl) | (with_reducible intro _ _ _) | (intro g; exact getTile_wf (by assumption) _ g) | with_reducible apply getTile_wf | with_reducible apply keeps_ite_snd | with_reducible apply keeps_ite_fst | split | (with_reducible intro _) | (dsimp only) | (with_reducible refine keeps_fst ?_ (by with_reducible assumption)) | (with_reducible refine keeps_snd ?_ (by with_reducible assumption)) | (with_reducible refine keeps_opt ?_ (by with_reducible assumption)) | with_reducible exact opt_none | with_reducible apply opt_some | (with_reducible refine keeps_mk ?_ rfl rfl rfl rfl rfl rfl rfl) | (with_reducible apply tile_foldl) | (with_reducible refine tile_mk ?_ rfl)

theorem streamAnswered_keeps {s₀ s : State} (hk : Keeps s₀ s) (r : Packet) (u : TagUse) : Keeps s₀ (streamAnswered s r u) := by
  unfold streamAnswered
  try dsimp only
  repeat' first | with_reducible assumption | with_reducible apply putStream_keeps | with_reducible apply cancelStream_keeps | with_reducible apply applyResponse_keeps | (with_reducible apply keeps_foldl) | (with_reducible intro _ _ _) | (intro g; exact getTile_wf (by assumption) _ g) | with_reducible apply getTile_wf | with_reducible apply keeps_ite_snd | with_reducible apply keeps_ite_fst | split | (with_reducible intro _) | (dsimp only) | (with_reducible refine keeps_fst ?_ (by with_reducible assumption)) | (with_reducible refine keeps_snd ?_ (by with_reducible assumption)) | (with_reducible refine keeps_opt ?_ (by with_reducible assumption)) | with_reducible exact opt_none | with_reducible apply opt_some | (with_reducible refine keeps_mk ?_ rfl rfl rfl rfl rfl rfl rfl) | (with_reducible apply tile_foldl) | (with_reducible refine tile_mk ?_ rfl)

theorem streamResponseAt_keeps {s₀ s : State} (hk : Keeps s₀ s) (r : Packet) : Keeps s₀ (streamResponseAt s r) := by
  unfold streamResponseAt
  try dsimp only
  repeat' first | with_reducible assumption | with_reducible apply takePkt_keeps | with_reducible apply modTile_keeps | with_reducible apply streamAnswered_keeps | with_reducible apply freeTag_keeps | (with_reducible apply keeps_foldl) | (with_reducible intro _ _ _) | (intro g; exact getTile_wf (by assumption) _ g) | with_reducible apply keeps_ite_snd | with_reducible apply keeps_ite_fst | split | (with_reducible intro _) | (dsimp only) | (with_reducible refine keeps_fst ?_ (by with_reducible assumption)) | (with_reducible refine keeps_snd ?_ (by with_reducible assumption)) | (with_reducible refine keeps_opt ?_ (by with_reducible assumption)) | with_reducible exact opt_none | with_reducible apply opt_some | (with_reducible refine keeps_mk ?_ rfl rfl rfl rfl rfl rfl rfl) | (with_reducible apply tile_foldl) | (with_reducible refine tile_mk ?_ rfl)

theorem execStreamResponse_keeps {s₀ s : State} (hk : Keeps s₀ s) (p : Packet) : OutKeeps s₀ (execStreamResponse p s) := by
  unfold execStreamResponse
  first | apply whenRunning_keeps hk | apply out_next
  try dsimp only
  repeat' first | with_reducible assumption | with_reducible apply whenRunning_keeps | with_reducible apply streamResponseAt_keeps | with_reducible apply takePkt_keeps | (with_reducible apply keeps_foldl) | (with_reducible intro _ _ _) | (intro g; exact getTile_wf (by assumption) _ g) | with_reducible apply keeps_ite_snd | with_reducible apply keeps_ite_fst | split | (with_reducible intro _) | (dsimp only) | (with_reducible refine keeps_fst ?_ (by with_reducible assumption)) | (with_reducible refine keeps_snd ?_ (by with_reducible assumption)) | (with_reducible refine keeps_opt ?_ (by with_reducible assumption)) | with_reducible exact opt_none | with_reducible apply opt_some | (with_reducible apply tile_foldl) | (with_reducible refine tile_mk ?_ rfl)

theorem cancelBySeq_keeps {s₀ s : State} (hk : Keeps s₀ s) (t : TileId) (c : Nat) (seq : Nat) : Keeps s₀ (cancelBySeq s t c seq).2 := by
  unfold cancelBySeq
  try dsimp only
  repeat' first | with_reducible assumption | with_reducible apply cancelStream_keeps | (with_reducible apply keeps_foldl) | (with_reducible intro _ _ _) | (intro g; exact getTile_wf (by assumption) _ g) | with_reducible apply getTile_wf | with_reducible apply keeps_ite_snd | with_reducible apply keeps_ite_fst | split | (with_reducible intro _) | (dsimp only) | (with_reducible refine keeps_fst ?_ (by with_reducible assumption)) | (with_reducible refine keeps_snd ?_ (by with_reducible assumption)) | (with_reducible refine keeps_opt ?_ (by with_reducible assumption)) | with_reducible exact opt_none | with_reducible apply opt_some | (with_reducible apply tile_foldl) | (with_reducible refine tile_mk ?_ rfl)

theorem cancelCtx_keeps {s₀ s : State} (hk : Keeps s₀ s) (t : TileId) (c : Nat) (seq : Nat) : Keeps s₀ (cancelCtx s t c seq) := by
  unfold cancelCtx
  try dsimp only
  repeat' first | with_reducible assumption | with_reducible apply cancelBySeq_keeps | with_reducible apply setFld_keeps | (with_reducible apply keeps_foldl) | (with_reducible intro _ _ _) | (intro g; exact getTile_wf (by assumption) _ g) | with_reducible apply keeps_ite_snd | with_reducible apply keeps_ite_fst | split | (with_reducible intro _) | (dsimp only) | (with_reducible refine keeps_fst ?_ (by with_reducible assumption)) | (with_reducible refine keeps_snd ?_ (by with_reducible assumption)) | (with_reducible refine keeps_opt ?_ (by with_reducible assumption)) | with_reducible exact opt_none | with_reducible apply opt_some | (with_reducible apply tile_foldl) | (with_reducible refine tile_mk ?_ rfl)

theorem writeSeCancel_keeps {s₀ s : State} (hk : Keeps s₀ s) (t : TileId) (v : Word) : Keeps s₀ (writeSeCancel s t v) := by
  unfold writeSeCancel
  try dsimp only
  repeat' first | with_reducible assumption | with_reducible apply cancelCtx_keeps | (with_reducible apply keeps_foldl) | (with_reducible intro _ _ _) | (intro g; exact getTile_wf (by assumption) _ g) | with_reducible apply keeps_ite_snd | with_reducible apply keeps_ite_fst | split | (with_reducible intro _) | (dsimp only) | (with_reducible refine keeps_fst ?_ (by with_reducible assumption)) | (with_reducible refine keeps_snd ?_ (by with_reducible assumption)) | (with_reducible refine keeps_opt ?_ (by with_reducible assumption)) | with_reducible exact opt_none | with_reducible apply opt_some | (with_reducible apply tile_foldl) | (with_reducible refine tile_mk ?_ rfl)

theorem execSeCancel_keeps {s₀ s : State} (hk : Keeps s₀ s) (t : TileId) (v : Word) : OutKeeps s₀ (execSeCancel t v s) := by
  unfold execSeCancel
  first | apply whenRunning_keeps hk | apply out_next
  try dsimp only
  repeat' first | with_reducible assumption | with_reducible apply whenRunning_keeps | with_reducible apply writeSeCancel_keeps | (with_reducible apply keeps_foldl) | (with_reducible intro _ _ _) | (intro g; exact getTile_wf (by assumption) _ g) | with_reducible apply keeps_ite_snd | with_reducible apply keeps_ite_fst | split | (with_reducible intro _) | (dsimp only) | (with_reducible refine keeps_fst ?_ (by with_reducible assumption)) | (with_reducible refine keeps_snd ?_ (by with_reducible assumption)) | (with_reducible refine keeps_opt ?_ (by with_reducible assumption)) | with_reducible exact opt_none | with_reducible apply opt_some | (with_reducible apply tile_foldl) | (with_reducible refine tile_mk ?_ rfl)

theorem execStreamCancelReport_keeps {s₀ s : State} (hk : Keeps s₀ s) (t : TileId) (c : Fin 16) : OutKeeps s₀ (execStreamCancelReport t c s) := by
  unfold execStreamCancelReport
  first | apply whenRunning_keeps hk | apply out_next
  try dsimp only
  repeat' first | with_reducible assumption | with_reducible apply whenRunning_keeps | with_reducible apply dropStream_keeps | with_reducible apply setFld_keeps | with_reducible apply unitEnded_keeps | (with_reducible apply keeps_foldl) | (with_reducible intro _ _ _) | (intro g; exact getTile_wf (by assumption) _ g) | with_reducible apply getTile_wf | with_reducible apply keeps_ite_snd | with_reducible apply keeps_ite_fst | split | (with_reducible intro _) | (dsimp only) | (with_reducible refine keeps_fst ?_ (by with_reducible assumption)) | (with_reducible refine keeps_snd ?_ (by with_reducible assumption)) | (with_reducible refine keeps_opt ?_ (by with_reducible assumption)) | with_reducible exact opt_none | with_reducible apply opt_some | (with_reducible apply tile_foldl) | (with_reducible refine tile_mk ?_ rfl)

theorem clearRange_wf {x : Tile} (hk : Tile.wf x = true) (base : Nat) (count : Nat) : Tile.wf (clearRange x base count) = true := by
  unfold clearRange
  try dsimp only
  repeat' first | with_reducible assumption | split | (with_reducible apply tile_foldl) | (with_reducible intro _) | (with_reducible refine tile_mk ?_ rfl)

theorem writeSeClear_keeps {s₀ s : State} (hk : Keeps s₀ s) (t : TileId) (v : Word) : Keeps s₀ (writeSeClear s t v) := by
  unfold writeSeClear
  try dsimp only
  repeat' first | with_reducible assumption | with_reducible apply modTile_keeps | (with_reducible apply keeps_foldl) | (with_reducible intro _ _ _) | (intro g; exact getTile_wf (by assumption) _ g) | with_reducible apply clearRange_wf | with_reducible apply keeps_ite_snd | with_reducible apply keeps_ite_fst | split | (with_reducible intro _) | (dsimp only) | (with_reducible refine keeps_fst ?_ (by with_reducible assumption)) | (with_reducible refine keeps_snd ?_ (by with_reducible assumption)) | (with_reducible refine keeps_opt ?_ (by with_reducible assumption)) | with_reducible exact opt_none | with_reducible apply opt_some | (with_reducible apply tile_foldl) | (with_reducible refine tile_mk ?_ rfl)

theorem execSeClear_keeps {s₀ s : State} (hk : Keeps s₀ s) (t : TileId) (v : Word) : OutKeeps s₀ (execSeClear t v s) := by
  unfold execSeClear
  first | apply whenRunning_keeps hk | apply out_next
  try dsimp only
  repeat' first | with_reducible assumption | with_reducible apply whenRunning_keeps | with_reducible apply writeSeClear_keeps | (with_reducible apply keeps_foldl) | (with_reducible intro _ _ _) | (intro g; exact getTile_wf (by assumption) _ g) | with_reducible apply keeps_ite_snd | with_reducible apply keeps_ite_fst | split | (with_reducible intro _) | (dsimp only) | (with_reducible refine keeps_fst ?_ (by with_reducible assumption)) | (with_reducible refine keeps_snd ?_ (by with_reducible assumption)) | (with_reducible refine keeps_opt ?_ (by with_reducible assumption)) | with_reducible exact opt_none | with_reducible apply opt_some | (with_reducible apply tile_foldl) | (with_reducible refine tile_mk ?_ rfl)

theorem execStall_keeps {s₀ s : State} (hk : Keeps s₀ s) (d : Fin 4) : OutKeeps s₀ (execStall d s) := by
  unfold execStall
  first | apply whenRunning_keeps hk | apply out_next
  try dsimp only
  repeat' first | with_reducible assumption | with_reducible apply whenRunning_keeps | with_reducible apply putStream_keeps | with_reducible apply incFld_keeps | with_reducible apply cancelStream_keeps | (with_reducible apply keeps_foldl) | (with_reducible intro _ _ _) | (intro g; exact getTile_wf (by assumption) _ g) | with_reducible apply getTile_wf | with_reducible apply keeps_ite_snd | with_reducible apply keeps_ite_fst | split | (with_reducible intro _) | (dsimp only) | (with_reducible refine keeps_fst ?_ (by with_reducible assumption)) | (with_reducible refine keeps_snd ?_ (by with_reducible assumption)) | (with_reducible refine keeps_opt ?_ (by with_reducible assumption)) | with_reducible exact opt_none | with_reducible apply opt_some | (with_reducible apply tile_foldl) | (with_reducible refine tile_mk ?_ rfl)

theorem fenceStreams_keeps {s₀ s : State} (hk : Keeps s₀ s) (t : TileId) : Keeps s₀ (fenceStreams s t) := by
  unfold fenceStreams
  try dsimp only
  repeat' first | with_reducible assumption | with_reducible apply dropStream_keeps | with_reducible apply cancelStream_keeps | (with_reducible apply keeps_foldl) | (with_reducible intro _ _ _) | (intro g; exact getTile_wf (by assumption) _ g) | with_reducible apply getTile_wf | with_reducible apply keeps_ite_snd | with_reducible apply keeps_ite_fst | split | (with_reducible intro _) | (dsimp only) | (with_reducible refine keeps_fst ?_ (by with_reducible assumption)) | (with_reducible refine keeps_snd ?_ (by with_reducible assumption)) | (with_reducible refine keeps_opt ?_ (by with_reducible assumption)) | with_reducible exact opt_none | with_reducible apply opt_some | (with_reducible apply tile_foldl) | (with_reducible refine tile_mk ?_ rfl)

end Sys2Proof.Machine
end

