-- ==== Sys2Proof/Laws/KeepPass.lean ====
section
/-! SUPPORT. What the operations of Machine/Pass.lean keep (see Laws/Keep.lean). -/

namespace Sys2Proof.Machine
open Sys2Proof

theorem takeSeq_keeps {s₀ s : State} (hk : Keeps s₀ s) (t : TileId) : Keeps s₀ (takeSeq s t) := by
  unfold takeSeq
  try dsimp only
  repeat' first | with_reducible assumption | with_reducible apply incFld_keeps | (with_reducible apply keeps_foldl) | (with_reducible intro _ _ _) | (intro g; exact getTile_wf (by assumption) _ g) | with_reducible apply keeps_ite_snd | with_reducible apply keeps_ite_fst | split | (with_reducible intro _) | (dsimp only) | (with_reducible refine keeps_fst ?_ (by with_reducible assumption)) | (with_reducible refine keeps_snd ?_ (by with_reducible assumption)) | (with_reducible refine keeps_opt ?_ (by with_reducible assumption)) | with_reducible exact opt_none | with_reducible apply opt_some | (with_reducible apply tile_foldl) | (with_reducible refine tile_mk ?_ rfl)

theorem countEnd_keeps {s₀ s : State} (hk : Keeps s₀ s) (t : TileId) (seq : Nat) (status : Status) (committed : Bool) : Keeps s₀ (countEnd s t seq status committed) := by
  unfold countEnd
  try dsimp only
  repeat' first | with_reducible assumption | with_reducible apply modTile_keeps | with_reducible apply setFld_keeps | with_reducible apply incFld_keeps | (with_reducible apply keeps_foldl) | (with_reducible intro _ _ _) | (intro g; exact getTile_wf (by assumption) _ g) | with_reducible apply noteOutcome_wf | with_reducible apply keeps_ite_snd | with_reducible apply keeps_ite_fst | split | (with_reducible intro _) | (dsimp only) | (with_reducible refine keeps_fst ?_ (by with_reducible assumption)) | (with_reducible refine keeps_snd ?_ (by with_reducible assumption)) | (with_reducible refine keeps_opt ?_ (by with_reducible assumption)) | with_reducible exact opt_none | with_reducible apply opt_some | (with_reducible apply tile_foldl) | (with_reducible refine tile_mk ?_ rfl)

theorem refusePass_keeps {s₀ s : State} (hk : Keeps s₀ s) (t : TileId) (q : Nat) (pc : Nat) (status : Status) : Keeps s₀ (refusePass s t q pc status) := by
  unfold refusePass
  try dsimp only
  repeat' first | with_reducible assumption | with_reducible apply takeSeq_keeps | with_reducible apply modTile_keeps | with_reducible apply addUnit_keeps | with_reducible apply countEnd_keeps | with_reducible apply advance_keeps | with_reducible apply unitEnded_keeps | (with_reducible apply keeps_foldl) | (with_reducible intro _ _ _) | (intro g; exact getTile_wf (by assumption) _ g) | with_reducible apply getTile_wf | with_reducible apply keeps_ite_snd | with_reducible apply keeps_ite_fst | split | (with_reducible intro _) | (dsimp only) | (with_reducible refine keeps_fst ?_ (by with_reducible assumption)) | (with_reducible refine keeps_snd ?_ (by with_reducible assumption)) | (with_reducible refine keeps_opt ?_ (by with_reducible assumption)) | with_reducible exact opt_none | with_reducible apply opt_some | (with_reducible refine keeps_mk ?_ rfl rfl rfl rfl rfl rfl rfl) | (with_reducible apply tile_foldl) | (with_reducible refine tile_mk ?_ rfl)

theorem storeAcc_keeps {s₀ s : State} (hk : Keeps s₀ s) (t : TileId) (i : PassInstr) (ri : Nat) (cols : List (List Int)) : Keeps s₀ (storeAcc s t i ri cols) := by
  unfold storeAcc
  try dsimp only
  repeat' first | with_reducible assumption | with_reducible apply modTile_keeps | (with_reducible apply keeps_foldl) | (with_reducible intro _ _ _) | (intro g; exact getTile_wf (by assumption) _ g) | with_reducible apply tStore_wf | with_reducible apply keeps_ite_snd | with_reducible apply keeps_ite_fst | split | (with_reducible intro _) | (dsimp only) | (with_reducible refine keeps_fst ?_ (by with_reducible assumption)) | (with_reducible refine keeps_snd ?_ (by with_reducible assumption)) | (with_reducible refine keeps_opt ?_ (by with_reducible assumption)) | with_reducible exact opt_none | with_reducible apply opt_some | (with_reducible apply tile_foldl) | (with_reducible refine tile_mk ?_ rfl)

theorem storeScr_keeps {s₀ s : State} (hk : Keeps s₀ s) (t : TileId) (i : PassInstr) (ri : Nat) (vals : List Src) : Keeps s₀ (storeScr s t i ri vals).1 := by
  unfold storeScr
  try dsimp only
  repeat' first | with_reducible assumption | with_reducible apply modTile_keeps | (with_reducible apply keeps_foldl) | (with_reducible intro _ _ _) | (intro g; exact getTile_wf (by assumption) _ g) | with_reducible apply tStore_wf | with_reducible apply keeps_ite_snd | with_reducible apply keeps_ite_fst | split | (with_reducible intro _) | (dsimp only) | (with_reducible refine keeps_fst ?_ (by with_reducible assumption)) | (with_reducible refine keeps_snd ?_ (by with_reducible assumption)) | (with_reducible refine keeps_opt ?_ (by with_reducible assumption)) | with_reducible exact opt_none | with_reducible apply opt_some | (with_reducible apply tile_foldl) | (with_reducible refine tile_mk ?_ rfl)

theorem forwardRow_keeps {s₀ s : State} (hk : Keeps s₀ s) (t : TileId) (p : Pass) (ri : Nat) : Keeps s₀ (forwardRow s t p ri) := by
  unfold forwardRow
  try dsimp only
  repeat' first | with_reducible assumption | with_reducible apply modTile_keeps | (with_reducible apply keeps_foldl) | (with_reducible intro _ _ _) | (intro g; exact getTile_wf (by assumption) _ g) | with_reducible apply keeps_ite_snd | with_reducible apply keeps_ite_fst | split | (with_reducible intro _) | (dsimp only) | (with_reducible refine keeps_fst ?_ (by with_reducible assumption)) | (with_reducible refine keeps_snd ?_ (by with_reducible assumption)) | (with_reducible refine keeps_opt ?_ (by with_reducible assumption)) | with_reducible exact opt_none | with_reducible apply opt_some | (with_reducible refine keeps_mk ?_ rfl rfl rfl rfl rfl rfl rfl) | (with_reducible apply tile_foldl) | (with_reducible refine tile_mk ?_ rfl)

theorem leaveRow_keeps {s₀ s : State} (hk : Keeps s₀ s) (t : TileId) (i : PassInstr) (ri : Nat) (inits : List (Option Int)) (ts : List (Option Int × Nat)) : Keeps s₀ (leaveRow s t i ri inits ts).1 := by
  unfold leaveRow
  try dsimp only
  repeat' first | with_reducible assumption | with_reducible apply storeAcc_keeps | with_reducible apply storeScr_keeps | (with_reducible apply keeps_foldl) | (with_reducible intro _ _ _) | (intro g; exact getTile_wf (by assumption) _ g) | with_reducible apply keeps_ite_snd | with_reducible apply keeps_ite_fst | split | (with_reducible intro _) | (dsimp only) | (with_reducible refine keeps_fst ?_ (by with_reducible assumption)) | (with_reducible refine keeps_snd ?_ (by with_reducible assumption)) | (with_reducible refine keeps_opt ?_ (by with_reducible assumption)) | with_reducible exact opt_none | with_reducible apply opt_some | (with_reducible apply tile_foldl) | (with_reducible refine tile_mk ?_ rfl)

theorem makeReady_wf {x : Tile} (hk : Tile.wf x = true) (i : PassInstr) (q : Nat) (pc : Nat) : Tile.wf (makeReady x i q pc) = true := by
  unfold makeReady
  try dsimp only
  repeat' first | with_reducible assumption | split | (with_reducible apply tile_foldl) | (with_reducible intro _) | (with_reducible refine tile_mk ?_ rfl)

theorem execPass_keeps {s₀ s : State} (hk : Keeps s₀ s) (t : TileId) (q : Fin 2) : OutKeeps s₀ (execPass t q s) := by
  unfold execPass
  first | apply whenRunning_keeps hk | apply out_next
  try dsimp only
  repeat' first | with_reducible assumption | with_reducible apply whenRunning_keeps | with_reducible apply tpIssue_keeps | with_reducible apply waitHere_keeps | with_reducible apply refusePass_keeps | with_reducible apply issueWhen_keeps | with_reducible apply modTile_keeps | (with_reducible apply keeps_foldl) | (with_reducible intro _ _ _) | (intro g; exact getTile_wf (by assumption) _ g) | with_reducible apply getTile_wf | with_reducible apply makeReady_wf | with_reducible apply keeps_ite_snd | with_reducible apply keeps_ite_fst | split | (with_reducible intro _) | (dsimp only) | (with_reducible refine keeps_fst ?_ (by with_reducible assumption)) | (with_reducible refine keeps_snd ?_ (by with_reducible assumption)) | (with_reducible refine keeps_opt ?_ (by with_reducible assumption)) | with_reducible exact opt_none | with_reducible apply opt_some | (with_reducible apply tile_foldl) | (with_reducible refine tile_mk ?_ rfl)

theorem takeWeights_wf {x : Tile} (hk : Tile.wf x = true) (r : ReadyPass) : Tile.wf (takeWeights x r).1 = true := by
  unfold takeWeights
  dsimp only
  split
  · exact hk
  · split <;> exact hk

theorem startPass_keeps {s₀ s : State} (hk : Keeps s₀ s) (t : TileId) (r : ReadyPass) : Keeps s₀ (startPass s t r) := by
  unfold startPass
  extract_lets seq s1 x i lw w src x1 p x2 s2 s3 s4 s5 s6
  have h1 : Keeps s₀ s1 := takeSeq_keeps hk t
  have h2 : Keeps s₀ s2 := setTile_keeps h1 _ _ (fun g => by
    have hw : Tile.wf w.1 = true := takeWeights_wf (getTile_wf h1 t g) r
    show Tile.wf (holdBufs _ _) = true
    refine holdBufs_wf ?_ _
    exact hw)
  have h5 : Keeps s₀ s5 := addUnit_keeps (setFlag_keeps (setFld_keeps h2 _ _ _ _) _ _ _) _ _ _
  exact advance_keeps (keeps_ite (abortPass_keeps h5 _ _ _ _) h5) _ _ _

theorem execPassStart_keeps {s₀ s : State} (hk : Keeps s₀ s) (t : TileId) : OutKeeps s₀ (execPassStart t s) := by
  unfold execPassStart
  first | apply whenRunning_keeps hk | apply out_next
  try dsimp only
  repeat' first | with_reducible assumption | with_reducible apply whenRunning_keeps | with_reducible apply refusePass_keeps | with_reducible apply startPass_keeps | (with_reducible apply keeps_foldl) | (with_reducible intro _ _ _) | (intro g; exact getTile_wf (by assumption) _ g) | with_reducible apply getTile_wf | with_reducible apply keeps_ite_snd | with_reducible apply keeps_ite_fst | split | (with_reducible intro _) | (dsimp only) | (with_reducible refine keeps_fst ?_ (by with_reducible assumption)) | (with_reducible refine keeps_snd ?_ (by with_reducible assumption)) | (with_reducible refine keeps_opt ?_ (by with_reducible assumption)) | with_reducible exact opt_none | with_reducible apply opt_some | (with_reducible apply tile_foldl) | (with_reducible refine tile_mk ?_ rfl)

theorem commitPass_keeps {s₀ s : State} (hk : Keeps s₀ s) (t : TileId) (p : Pass) (flags : Nat) : Keeps s₀ (commitPass s t p flags) := by
  unfold commitPass
  try dsimp only
  repeat' first | with_reducible assumption | with_reducible apply modTile_keeps | with_reducible apply setFld_keeps | with_reducible apply countEnd_keeps | with_reducible apply autoRelease_keeps | with_reducible apply autoWritten_keeps | with_reducible apply unitEnded_keeps | (with_reducible apply keeps_foldl) | (with_reducible intro _ _ _) | (intro g; exact getTile_wf (by assumption) _ g) | with_reducible apply getTile_wf | with_reducible apply keeps_ite_snd | with_reducible apply keeps_ite_fst | split | (with_reducible intro _) | (dsimp only) | (with_reducible refine keeps_fst ?_ (by with_reducible assumption)) | (with_reducible refine keeps_snd ?_ (by with_reducible assumption)) | (with_reducible refine keeps_opt ?_ (by with_reducible assumption)) | with_reducible exact opt_none | with_reducible apply opt_some | (with_reducible refine keeps_mk ?_ rfl rfl rfl rfl rfl rfl rfl) | (with_reducible apply tile_foldl) | (with_reducible refine tile_mk ?_ rfl)

theorem putPass_keeps {s₀ s : State} (hk : Keeps s₀ s) (t : TileId) (p : Pass) : Keeps s₀ (putPass s t p) := by
  unfold putPass
  try dsimp only
  repeat' first | with_reducible assumption | with_reducible apply modTile_keeps | (with_reducible apply keeps_foldl) | (with_reducible intro _ _ _) | (intro g; exact getTile_wf (by assumption) _ g) | with_reducible apply keeps_ite_snd | with_reducible apply keeps_ite_fst | split | (with_reducible intro _) | (dsimp only) | (with_reducible refine keeps_fst ?_ (by with_reducible assumption)) | (with_reducible refine keeps_snd ?_ (by with_reducible assumption)) | (with_reducible refine keeps_opt ?_ (by with_reducible assumption)) | with_reducible exact opt_none | with_reducible apply opt_some | (with_reducible refine keeps_mk ?_ rfl rfl rfl rfl rfl rfl rfl) | (with_reducible apply tile_foldl) | (with_reducible refine tile_mk ?_ rfl)

theorem passStep_keeps {s₀ s : State} (hk : Keeps s₀ s) (t : TileId) (seq : Nat) : Keeps s₀ (passStep t s seq) := by
  unfold passStep
  try dsimp only
  repeat' first | with_reducible assumption | with_reducible apply abortPass_keeps | with_reducible apply putPass_keeps | with_reducible apply leaveRow_keeps | with_reducible apply forwardRow_keeps | with_reducible apply commitPass_keeps | (with_reducible apply keeps_foldl) | (with_reducible intro _ _ _) | (intro g; exact getTile_wf (by assumption) _ g) | with_reducible apply getTile_wf | with_reducible apply keeps_ite_snd | with_reducible apply keeps_ite_fst | split | (with_reducible intro _) | (dsimp only) | (with_reducible refine keeps_fst ?_ (by with_reducible assumption)) | (with_reducible refine keeps_snd ?_ (by with_reducible assumption)) | (with_reducible refine keeps_opt ?_ (by with_reducible assumption)) | with_reducible exact opt_none | with_reducible apply opt_some | (with_reducible refine keeps_mk ?_ rfl rfl rfl rfl rfl rfl rfl) | (with_reducible apply tile_foldl) | (with_reducible refine tile_mk ?_ rfl)

theorem passFault_keeps {s₀ s : State} (hk : Keeps s₀ s) (t : TileId) (seq : Nat) : Keeps s₀ (passFault s t seq) := by
  unfold passFault
  try dsimp only
  repeat' first | with_reducible assumption | with_reducible apply tileFault_keeps | with_reducible apply abortPass_keeps | (with_reducible apply keeps_foldl) | (with_reducible intro _ _ _) | (intro g; exact getTile_wf (by assumption) _ g) | with_reducible apply getTile_wf | with_reducible apply keeps_ite_snd | with_reducible apply keeps_ite_fst | split | (with_reducible intro _) | (dsimp only) | (with_reducible refine keeps_fst ?_ (by with_reducible assumption)) | (with_reducible refine keeps_snd ?_ (by with_reducible assumption)) | (with_reducible refine keeps_opt ?_ (by with_reducible assumption)) | with_reducible exact opt_none | with_reducible apply opt_some | (with_reducible apply tile_foldl) | (with_reducible refine tile_mk ?_ rfl)

theorem frontArrives_wf {x : Tile} (hk : Tile.wf x = true)  : Tile.wf (frontArrives x) = true := by
  unfold frontArrives
  try dsimp only
  repeat' first | with_reducible assumption | split | (with_reducible apply tile_foldl) | (with_reducible intro _) | (with_reducible refine tile_mk ?_ rfl)

theorem execPassCycle_keeps {s₀ s : State} (hk : Keeps s₀ s) (t : TileId) (fault : Option (BitVec 32)) : OutKeeps s₀ (execPassCycle t fault s) := by
  unfold execPassCycle
  first | apply whenRunning_keeps hk | apply out_next
  try dsimp only
  repeat' first | with_reducible assumption | with_reducible apply whenRunning_keeps | with_reducible apply passFault_keeps | with_reducible apply passStep_keeps | with_reducible apply modTile_keeps | (with_reducible apply keeps_foldl) | (with_reducible intro _ _ _) | (intro g; exact getTile_wf (by assumption) _ g) | with_reducible apply getTile_wf | with_reducible apply frontArrives_wf | with_reducible apply keeps_ite_snd | with_reducible apply keeps_ite_fst | split | (with_reducible intro _) | (dsimp only) | (with_reducible refine keeps_fst ?_ (by with_reducible assumption)) | (with_reducible refine keeps_snd ?_ (by with_reducible assumption)) | (with_reducible refine keeps_opt ?_ (by with_reducible assumption)) | with_reducible exact opt_none | with_reducible apply opt_some | (with_reducible refine keeps_mk ?_ rfl rfl rfl rfl rfl rfl rfl) | (with_reducible apply tile_foldl) | (with_reducible refine tile_mk ?_ rfl)

theorem execPassAbortReport_keeps {s₀ s : State} (hk : Keeps s₀ s) (t : TileId) (seq : BitVec 32) : OutKeeps s₀ (execPassAbortReport t seq s) := by
  unfold execPassAbortReport
  first | apply whenRunning_keeps hk | apply out_next
  try dsimp only
  repeat' first | with_reducible assumption | with_reducible apply whenRunning_keeps | with_reducible apply noFold_keeps | with_reducible apply modTile_keeps | with_reducible apply setFld_keeps | with_reducible apply autoRelease_keeps | with_reducible apply countEnd_keeps | with_reducible apply unitEnded_keeps | (with_reducible apply keeps_foldl) | (with_reducible intro _ _ _) | (intro g; exact getTile_wf (by assumption) _ g) | with_reducible apply getTile_wf | with_reducible apply keeps_ite_snd | with_reducible apply keeps_ite_fst | split | (with_reducible intro _) | (dsimp only) | (with_reducible refine keeps_fst ?_ (by with_reducible assumption)) | (with_reducible refine keeps_snd ?_ (by with_reducible assumption)) | (with_reducible refine keeps_opt ?_ (by with_reducible assumption)) | with_reducible exact opt_none | with_reducible apply opt_some | (with_reducible refine keeps_mk ?_ rfl rfl rfl rfl rfl rfl rfl) | (with_reducible apply tile_foldl) | (with_reducible refine tile_mk ?_ rfl)

theorem applyAccset_keeps {s₀ s : State} (hk : Keeps s₀ s) (t : TileId) (n : Nat) (v : Word) : Keeps s₀ (applyAccset s t n v) := by
  unfold applyAccset
  try dsimp only
  repeat' first | with_reducible assumption | with_reducible apply setFlag_keeps | with_reducible apply wr_keeps | (with_reducible apply keeps_foldl) | (with_reducible intro _ _ _) | (intro g; exact getTile_wf (by assumption) _ g) | with_reducible apply keeps_ite_snd | with_reducible apply keeps_ite_fst | split | (with_reducible intro _) | (dsimp only) | (with_reducible refine keeps_fst ?_ (by with_reducible assumption)) | (with_reducible refine keeps_snd ?_ (by with_reducible assumption)) | (with_reducible refine keeps_opt ?_ (by with_reducible assumption)) | with_reducible exact opt_none | with_reducible apply opt_some | (with_reducible apply tile_foldl) | (with_reducible refine tile_mk ?_ rfl)

theorem writeAccset_keeps {s₀ s : State} (hk : Keeps s₀ s) (t : TileId) (n : Nat) (v : Word) (p : Option Packet) : Keeps s₀ (writeAccset s t n v p) := by
  unfold writeAccset
  try dsimp only
  repeat' first | with_reducible assumption | with_reducible apply modTile_keeps | with_reducible apply applyAccset_keeps | (with_reducible apply keeps_foldl) | (with_reducible intro _ _ _) | (intro g; exact getTile_wf (by assumption) _ g) | with_reducible apply getTile_wf | with_reducible apply keeps_ite_snd | with_reducible apply keeps_ite_fst | split | (with_reducible intro _) | (dsimp only) | (with_reducible refine keeps_fst ?_ (by with_reducible assumption)) | (with_reducible refine keeps_snd ?_ (by with_reducible assumption)) | (with_reducible refine keeps_opt ?_ (by with_reducible assumption)) | with_reducible exact opt_none | with_reducible apply opt_some | (with_reducible refine keeps_mk ?_ rfl rfl rfl rfl rfl rfl rfl) | (with_reducible apply tile_foldl) | (with_reducible refine tile_mk ?_ rfl)

theorem execMtAccsetWrite_keeps {s₀ s : State} (hk : Keeps s₀ s) (t : TileId) (n : Fin 16) (v : Word) : OutKeeps s₀ (execMtAccsetWrite t n v s) := by
  unfold execMtAccsetWrite
  first | apply whenRunning_keeps hk | apply out_next
  try dsimp only
  repeat' first | with_reducible assumption | with_reducible apply whenRunning_keeps | with_reducible apply writeAccset_keeps | (with_reducible apply keeps_foldl) | (with_reducible intro _ _ _) | (intro g; exact getTile_wf (by assumption) _ g) | with_reducible apply keeps_ite_snd | with_reducible apply keeps_ite_fst | split | (with_reducible intro _) | (dsimp only) | (with_reducible refine keeps_fst ?_ (by with_reducible assumption)) | (with_reducible refine keeps_snd ?_ (by with_reducible assumption)) | (with_reducible refine keeps_opt ?_ (by with_reducible assumption)) | with_reducible exact opt_none | with_reducible apply opt_some | (with_reducible apply tile_foldl) | (with_reducible refine tile_mk ?_ rfl)

theorem execMtAccsetApply_keeps {s₀ s : State} (hk : Keeps s₀ s) (t : TileId) (n : Fin 16) : OutKeeps s₀ (execMtAccsetApply t n s) := by
  unfold execMtAccsetApply
  first | apply whenRunning_keeps hk | apply out_next
  try dsimp only
  repeat' first | with_reducible assumption | with_reducible apply whenRunning_keeps | with_reducible apply applyAccset_keeps | with_reducible apply setTile_keeps | with_reducible apply sendPkt_keeps | (with_reducible apply keeps_foldl) | (with_reducible intro _ _ _) | (intro g; exact getTile_wf (by assumption) _ g) | with_reducible apply getTile_wf | with_reducible apply keeps_ite_snd | with_reducible apply keeps_ite_fst | split | (with_reducible intro _) | (dsimp only) | (with_reducible refine keeps_fst ?_ (by with_reducible assumption)) | (with_reducible refine keeps_snd ?_ (by with_reducible assumption)) | (with_reducible refine keeps_opt ?_ (by with_reducible assumption)) | with_reducible exact opt_none | with_reducible apply opt_some | (with_reducible refine keeps_mk ?_ rfl rfl rfl rfl rfl rfl rfl) | (with_reducible apply tile_foldl) | (with_reducible refine tile_mk ?_ rfl)

end Sys2Proof.Machine
end

