-- ==== Sys2Proof/Laws/KeepKernelCore.lean ====
section
/-! SUPPORT. What the operations of Machine/KernelCore.lean keep (see Laws/Keep.lean). -/

namespace Sys2Proof.Machine
open Sys2Proof

theorem setLane_wf {x : Tile} (hk : Tile.wf x = true) (v : Nat) (i : Nat) (b : BitVec 64) : Tile.wf (setLane x v i b) = true := by
  unfold setLane
  try dsimp only
  repeat' first | with_reducible assumption | split | (with_reducible apply tile_foldl) | (with_reducible intro _) | (with_reducible refine tile_mk ?_ rfl)

theorem setVtag_wf {x : Tile} (hk : Tile.wf x = true) (v : Nat) (kind : Nat) (scale : Int) : Tile.wf (setVtag x v kind scale) = true := by
  unfold setVtag
  try dsimp only
  repeat' first | with_reducible assumption | split | (with_reducible apply tile_foldl) | (with_reducible intro _) | (with_reducible refine tile_mk ?_ rfl)

theorem setSreg_wf {x : Tile} (hk : Tile.wf x = true) (i : Nat) (v : BitVec 64) : Tile.wf (setSreg x i v) = true := by
  unfold setSreg
  try dsimp only
  repeat' first | with_reducible assumption | split | (with_reducible apply tile_foldl) | (with_reducible intro _) | (with_reducible refine tile_mk ?_ rfl)

theorem setMreg_wf {x : Tile} (hk : Tile.wf x = true) (i : Nat) (v : BitVec 128) : Tile.wf (setMreg x i v) = true := by
  unfold setMreg
  try dsimp only
  repeat' first | with_reducible assumption | split | (with_reducible apply tile_foldl) | (with_reducible intro _) | (with_reducible refine tile_mk ?_ rfl)

theorem writeVec_wf {x : Tile} (hk : Tile.wf x = true) (v : Nat) (m : BitVec 128) (f : Nat → BitVec 64) (kind : Nat) (scale : Int) : Tile.wf (writeVec x v m f kind scale) = true := by
  unfold writeVec
  try dsimp only
  repeat' first | with_reducible assumption | with_reducible apply setVtag_wf | with_reducible apply setLane_wf | split | (with_reducible apply tile_foldl) | (with_reducible intro _) | (with_reducible refine tile_mk ?_ rfl)

theorem writeMask_wf {x : Tile} (hk : Tile.wf x = true) (d : Nat) (m : BitVec 128) (f : Nat → Bool) : Tile.wf (writeMask x d m f) = true := by
  unfold writeMask
  try dsimp only
  repeat' first | with_reducible assumption | with_reducible apply setMreg_wf | split | (with_reducible apply tile_foldl) | (with_reducible intro _) | (with_reducible refine tile_mk ?_ rfl)

theorem setLastFlags_keeps {s₀ s : State} (hk : Keeps s₀ s) (t : TileId) (f : Nat) : Keeps s₀ (setLastFlags s t f) := by
  unfold setLastFlags
  try dsimp only
  repeat' first | with_reducible assumption | with_reducible apply setFld_keeps | (with_reducible apply keeps_foldl) | (with_reducible intro _ _ _) | (intro g; exact getTile_wf (by assumption) _ g) | with_reducible apply keeps_ite_snd | with_reducible apply keeps_ite_fst | split | (with_reducible intro _) | (dsimp only) | (with_reducible refine keeps_fst ?_ (by with_reducible assumption)) | (with_reducible refine keeps_snd ?_ (by with_reducible assumption)) | (with_reducible refine keeps_opt ?_ (by with_reducible assumption)) | with_reducible exact opt_none | with_reducible apply opt_some | (with_reducible apply tile_foldl) | (with_reducible refine tile_mk ?_ rfl)

theorem setRunning_keeps {s₀ s : State} (hk : Keeps s₀ s) (t : TileId) (b : Bool) : Keeps s₀ (setRunning s t b) := by
  unfold setRunning
  try dsimp only
  repeat' first | with_reducible assumption | with_reducible apply setFlag_keeps | (with_reducible apply keeps_foldl) | (with_reducible intro _ _ _) | (intro g; exact getTile_wf (by assumption) _ g) | with_reducible apply keeps_ite_snd | with_reducible apply keeps_ite_fst | split | (with_reducible intro _) | (dsimp only) | (with_reducible refine keeps_fst ?_ (by with_reducible assumption)) | (with_reducible refine keeps_snd ?_ (by with_reducible assumption)) | (with_reducible refine keeps_opt ?_ (by with_reducible assumption)) | with_reducible exact opt_none | with_reducible apply opt_some | (with_reducible apply tile_foldl) | (with_reducible refine tile_mk ?_ rfl)

theorem kernelFault_keeps {s₀ s : State} (hk : Keeps s₀ s) (t : TileId) (k : Kernel) : Keeps s₀ (kernelFault s t k) := by
  unfold kernelFault
  try dsimp only
  repeat' first | with_reducible assumption | with_reducible apply tileFault_keeps | with_reducible apply endKernel_keeps | (with_reducible apply keeps_foldl) | (with_reducible intro _ _ _) | (intro g; exact getTile_wf (by assumption) _ g) | with_reducible apply keeps_ite_snd | with_reducible apply keeps_ite_fst | split | (with_reducible intro _) | (dsimp only) | (with_reducible refine keeps_fst ?_ (by with_reducible assumption)) | (with_reducible refine keeps_snd ?_ (by with_reducible assumption)) | (with_reducible refine keeps_opt ?_ (by with_reducible assumption)) | with_reducible exact opt_none | with_reducible apply opt_some | (with_reducible apply tile_foldl) | (with_reducible refine tile_mk ?_ rfl)

theorem initRegs_wf {x : Tile} (hk : Tile.wf x = true) (args : List Word) : Tile.wf (initRegs x args) = true := by
  unfold initRegs
  try dsimp only
  repeat' first | with_reducible assumption | split | (with_reducible apply tile_foldl) | (with_reducible intro _) | (with_reducible refine tile_mk ?_ rfl)

theorem launchKernel_keeps {s₀ s : State} (hk : Keeps s₀ s) (t : TileId) (q : Nat) (l : Launch) (ws : List Word) : Keeps s₀ (launchKernel s t q l ws) := by
  unfold launchKernel
  try dsimp only
  repeat' first | with_reducible assumption | with_reducible apply takeSeq_keeps | with_reducible apply addUnit_keeps | with_reducible apply setLastFlags_keeps | with_reducible apply countEnd_keeps | with_reducible apply advance_keeps | with_reducible apply unitEnded_keeps | with_reducible apply modTile_keeps | with_reducible apply setRunning_keeps | with_reducible apply kernelFault_keeps | (with_reducible apply keeps_foldl) | (with_reducible intro _ _ _) | (intro g; exact getTile_wf (by assumption) _ g) | with_reducible apply getTile_wf | with_reducible apply initRegs_wf | with_reducible apply keeps_ite_snd | with_reducible apply keeps_ite_fst | split | (with_reducible intro _) | (dsimp only) | (with_reducible refine keeps_fst ?_ (by with_reducible assumption)) | (with_reducible refine keeps_snd ?_ (by with_reducible assumption)) | (with_reducible refine keeps_opt ?_ (by with_reducible assumption)) | with_reducible exact opt_none | with_reducible apply opt_some | (with_reducible refine keeps_mk ?_ rfl rfl rfl rfl rfl rfl rfl) | (with_reducible apply tile_foldl) | (with_reducible refine tile_mk ?_ rfl)

theorem kAdvance_keeps {s₀ s : State} (hk : Keeps s₀ s) (t : TileId) (k : Kernel) (pc : Nat) : Keeps s₀ (kAdvance s t k pc) := by
  unfold kAdvance
  try dsimp only
  repeat' first | with_reducible assumption | with_reducible apply modTile_keeps | with_reducible apply endKernel_keeps | (with_reducible apply keeps_foldl) | (with_reducible intro _ _ _) | (intro g; exact getTile_wf (by assumption) _ g) | with_reducible apply keeps_ite_snd | with_reducible apply keeps_ite_fst | split | (with_reducible intro _) | (dsimp only) | (with_reducible refine keeps_fst ?_ (by with_reducible assumption)) | (with_reducible refine keeps_snd ?_ (by with_reducible assumption)) | (with_reducible refine keeps_opt ?_ (by with_reducible assumption)) | with_reducible exact opt_none | with_reducible apply opt_some | (with_reducible refine keeps_mk ?_ rfl rfl rfl rfl rfl rfl rfl) | (with_reducible apply tile_foldl) | (with_reducible refine tile_mk ?_ rfl)

/-- What an instruction leaves as its tile has a canonical window. -/
def KWf : KOut → Prop
  | .stop _ => True
  | .done x _ _ => Tile.wf x = true
  | .jump x _ => Tile.wf x = true
theorem kstop (e : Status) : KWf (.stop e) := True.intro
theorem kdone {x : Tile} (h : Tile.wf x = true) (f c : Nat) : KWf (.done x f c) := h
theorem kjump {x : Tile} (h : Tile.wf x = true) (p : Nat) : KWf (.jump x p) := h
theorem kRun_keeps {s₀ s : State} (hk : Keeps s₀ s) (t : TileId) (op : Nat) (fault : Bool) (f : Tile → Kernel → Word → KOut)
    (hf : ∀ x k w, Tile.wf x = true → KWf (f x k w)) : Keeps s₀ (kRun s t op fault f) := by
  unfold kRun
  extract_lets x
  split
  · exact hk
  · rename_i k _
    split
    · exact hk
    · extract_lets w
      split
      · exact hk
      split
      · exact kernelFault_keeps hk _ _
      · have hw : Good s₀ → KWf (f x k w) := fun g => hf x k w (getTile_wf hk t g)
        split
        · exact endKernel_keeps hk _ _
        · rename_i y fl clr e
          have h1 : Keeps s₀ (setTile s t y) := setTile_keeps hk t y (fun g => by have := hw g; rw [e] at this; exact this)
          exact kAdvance_keeps (keeps_ite h1 (setFld_keeps h1 _ _ _ _)) _ _ _
        · rename_i y pc e
          have h1 : Keeps s₀ (setTile s t y) := setTile_keeps hk t y (fun g => by have := hw g; rw [e] at this; exact this)
          exact kAdvance_keeps h1 _ _ _

theorem setLa_wf {x : Tile} (hk : Tile.wf x = true) (k : Nat) (l : LongAcc) : Tile.wf (setLa x k l) = true := by
  unfold setLa
  try dsimp only
  repeat' first | with_reducible assumption | split | (with_reducible apply tile_foldl) | (with_reducible intro _) | (with_reducible refine tile_mk ?_ rfl)

end Sys2Proof.Machine
end

