-- ==== Sys2Proof/Laws/KeepKernel.lean ====
section
/-! SUPPORT. What the operations of Machine/Kernel.lean keep (see Laws/Keep.lean). -/

namespace Sys2Proof.Machine
open Sys2Proof

theorem execKernelLaunch_keeps {s₀ s : State} (hk : Keeps s₀ s) (t : TileId) (q : Fin 2) : OutKeeps s₀ (execKernelLaunch t q s) := by
  unfold execKernelLaunch
  first | apply whenRunning_keeps hk | apply out_next
  try dsimp only
  repeat' first | with_reducible assumption | with_reducible apply whenRunning_keeps | with_reducible apply tpIssue_keeps | with_reducible apply issueWhen_keeps | with_reducible apply launchKernel_keeps | (with_reducible apply keeps_foldl) | (with_reducible intro _ _ _) | (intro g; exact getTile_wf (by assumption) _ g) | with_reducible apply getTile_wf | with_reducible apply keeps_ite_snd | with_reducible apply keeps_ite_fst | split | (with_reducible intro _) | (dsimp only) | (with_reducible refine keeps_fst ?_ (by with_reducible assumption)) | (with_reducible refine keeps_snd ?_ (by with_reducible assumption)) | (with_reducible refine keeps_opt ?_ (by with_reducible assumption)) | with_reducible exact opt_none | with_reducible apply opt_some | (with_reducible apply tile_foldl) | (with_reducible refine tile_mk ?_ rfl)

theorem commitKernel_keeps {s₀ s : State} (hk : Keeps s₀ s) (t : TileId) (k : Kernel) : Keeps s₀ (commitKernel s t k) := by
  unfold commitKernel
  try dsimp only
  repeat' first | with_reducible assumption | with_reducible apply setRunning_keeps | with_reducible apply setTile_keeps | with_reducible apply setLastFlags_keeps | with_reducible apply countEnd_keeps | with_reducible apply autoWritten_keeps | with_reducible apply unitEnded_keeps | (with_reducible apply keeps_foldl) | (with_reducible intro _ _ _) | (intro g; exact getTile_wf (by assumption) _ g) | with_reducible apply getTile_wf | with_reducible apply keeps_ite_snd | with_reducible apply keeps_ite_fst | split | (with_reducible intro _) | (dsimp only) | (with_reducible refine keeps_fst ?_ (by with_reducible assumption)) | (with_reducible refine keeps_snd ?_ (by with_reducible assumption)) | (with_reducible refine keeps_opt ?_ (by with_reducible assumption)) | with_reducible exact opt_none | with_reducible apply opt_some | (with_reducible refine keeps_mk ?_ rfl rfl rfl rfl rfl rfl rfl) | (with_reducible apply tile_foldl) | (with_reducible refine tile_mk ?_ rfl)

theorem execKernelEnd_keeps {s₀ s : State} (hk : Keeps s₀ s) (t : TileId) (fault : Bool) : OutKeeps s₀ (execKernelEnd t fault s) := by
  unfold execKernelEnd
  first | apply whenRunning_keeps hk | apply out_next
  try dsimp only
  repeat' first | with_reducible assumption | with_reducible apply whenRunning_keeps | with_reducible apply kernelFault_keeps | with_reducible apply commitKernel_keeps | (with_reducible apply keeps_foldl) | (with_reducible intro _ _ _) | (intro g; exact getTile_wf (by assumption) _ g) | with_reducible apply getTile_wf | with_reducible apply keeps_ite_snd | with_reducible apply keeps_ite_fst | split | (with_reducible intro _) | (dsimp only) | (with_reducible refine keeps_fst ?_ (by with_reducible assumption)) | (with_reducible refine keeps_snd ?_ (by with_reducible assumption)) | (with_reducible refine keeps_opt ?_ (by with_reducible assumption)) | with_reducible exact opt_none | with_reducible apply opt_some | (with_reducible apply tile_foldl) | (with_reducible refine tile_mk ?_ rfl)

theorem execKernelLimit_keeps {s₀ s : State} (hk : Keeps s₀ s) (t : TileId) : OutKeeps s₀ (execKernelLimit t s) := by
  unfold execKernelLimit
  first | apply whenRunning_keeps hk | apply out_next
  try dsimp only
  repeat' first | with_reducible assumption | with_reducible apply whenRunning_keeps | with_reducible apply endKernel_keeps | (with_reducible apply keeps_foldl) | (with_reducible intro _ _ _) | (intro g; exact getTile_wf (by assumption) _ g) | with_reducible apply keeps_ite_snd | with_reducible apply keeps_ite_fst | split | (with_reducible intro _) | (dsimp only) | (with_reducible refine keeps_fst ?_ (by with_reducible assumption)) | (with_reducible refine keeps_snd ?_ (by with_reducible assumption)) | (with_reducible refine keeps_opt ?_ (by with_reducible assumption)) | with_reducible exact opt_none | with_reducible apply opt_some | (with_reducible apply tile_foldl) | (with_reducible refine tile_mk ?_ rfl)

theorem execKernelAbortReport_keeps {s₀ s : State} (hk : Keeps s₀ s) (t : TileId) : OutKeeps s₀ (execKernelAbortReport t s) := by
  unfold execKernelAbortReport
  first | apply whenRunning_keeps hk | apply out_next
  try dsimp only
  repeat' first | with_reducible assumption | with_reducible apply whenRunning_keeps | with_reducible apply setRunning_keeps | with_reducible apply setTile_keeps | with_reducible apply setLastFlags_keeps | with_reducible apply countEnd_keeps | with_reducible apply unitEnded_keeps | (with_reducible apply keeps_foldl) | (with_reducible intro _ _ _) | (intro g; exact getTile_wf (by assumption) _ g) | with_reducible apply getTile_wf | with_reducible apply keeps_ite_snd | with_reducible apply keeps_ite_fst | split | (with_reducible intro _) | (dsimp only) | (with_reducible refine keeps_fst ?_ (by with_reducible assumption)) | (with_reducible refine keeps_snd ?_ (by with_reducible assumption)) | (with_reducible refine keeps_opt ?_ (by with_reducible assumption)) | with_reducible exact opt_none | with_reducible apply opt_some | (with_reducible refine keeps_mk ?_ rfl rfl rfl rfl rfl rfl rfl) | (with_reducible apply tile_foldl) | (with_reducible refine tile_mk ?_ rfl)

theorem execKernelMemoryApply_keeps {s₀ s : State} (hk : Keeps s₀ s) (t : TileId) : OutKeeps s₀ (execKernelMemoryApply t s) := by
  unfold execKernelMemoryApply
  first | apply whenRunning_keeps hk | apply out_next
  try dsimp only
  repeat' first | with_reducible assumption | with_reducible apply whenRunning_keeps | with_reducible apply setTile_keeps | with_reducible apply windowWrite_keeps | with_reducible apply sendPkt_keeps | with_reducible apply streamResponseAt_keeps | (with_reducible apply keeps_foldl) | (with_reducible intro _ _ _) | (intro g; exact getTile_wf (by assumption) _ g) | with_reducible apply getTile_wf | with_reducible apply keeps_ite_snd | with_reducible apply keeps_ite_fst | split | (with_reducible intro _) | (dsimp only) | (with_reducible refine keeps_fst ?_ (by with_reducible assumption)) | (with_reducible refine keeps_snd ?_ (by with_reducible assumption)) | (with_reducible refine keeps_opt ?_ (by with_reducible assumption)) | with_reducible exact opt_none | with_reducible apply opt_some | (with_reducible refine keeps_mk ?_ rfl rfl rfl rfl rfl rfl rfl) | (with_reducible apply tile_foldl) | (with_reducible refine tile_mk ?_ rfl)

theorem execSli_keeps {s₀ s : State} (hk : Keeps s₀ s) (i : KernelStep) : OutKeeps s₀ (execSli i s) := by
  unfold execSli
  first | apply whenRunning_keeps hk | apply out_next
  try dsimp only
  repeat' first | with_reducible assumption | (with_reducible exact kstop _) | with_reducible apply kdone | with_reducible apply kjump | with_reducible apply setSreg_wf | (with_reducible intro _ _ _ _) | with_reducible apply whenRunning_keeps | with_reducible apply kRun_keeps | (with_reducible apply keeps_foldl) | (with_reducible intro _ _ _) | (intro g; exact getTile_wf (by assumption) _ g) | with_reducible apply setSreg_wf | with_reducible apply keeps_ite_snd | with_reducible apply keeps_ite_fst | split | (with_reducible intro _) | (dsimp only) | (with_reducible refine keeps_fst ?_ (by with_reducible assumption)) | (with_reducible refine keeps_snd ?_ (by with_reducible assumption)) | (with_reducible refine keeps_opt ?_ (by with_reducible assumption)) | with_reducible exact opt_none | with_reducible apply opt_some | (with_reducible apply tile_foldl) | (with_reducible refine tile_mk ?_ rfl)

theorem execSaddi_keeps {s₀ s : State} (hk : Keeps s₀ s) (i : KernelStep) : OutKeeps s₀ (execSaddi i s) := by
  unfold execSaddi
  first | apply whenRunning_keeps hk | apply out_next
  try dsimp only
  repeat' first | with_reducible assumption | (with_reducible exact kstop _) | with_reducible apply kdone | with_reducible apply kjump | with_reducible apply setSreg_wf | (with_reducible intro _ _ _ _) | with_reducible apply whenRunning_keeps | with_reducible apply kRun_keeps | (with_reducible apply keeps_foldl) | (with_reducible intro _ _ _) | (intro g; exact getTile_wf (by assumption) _ g) | with_reducible apply setSreg_wf | with_reducible apply keeps_ite_snd | with_reducible apply keeps_ite_fst | split | (with_reducible intro _) | (dsimp only) | (with_reducible refine keeps_fst ?_ (by with_reducible assumption)) | (with_reducible refine keeps_snd ?_ (by with_reducible assumption)) | (with_reducible refine keeps_opt ?_ (by with_reducible assumption)) | with_reducible exact opt_none | with_reducible apply opt_some | (with_reducible apply tile_foldl) | (with_reducible refine tile_mk ?_ rfl)

theorem execBnzd_keeps {s₀ s : State} (hk : Keeps s₀ s) (i : KernelStep) : OutKeeps s₀ (execBnzd i s) := by
  unfold execBnzd
  first | apply whenRunning_keeps hk | apply out_next
  try dsimp only
  repeat' first | with_reducible assumption | (with_reducible exact kstop _) | with_reducible apply kdone | with_reducible apply kjump | with_reducible apply setSreg_wf | (with_reducible intro _ _ _ _) | with_reducible apply whenRunning_keeps | with_reducible apply kRun_keeps | (with_reducible apply keeps_foldl) | (with_reducible intro _ _ _) | (intro g; exact getTile_wf (by assumption) _ g) | with_reducible apply setSreg_wf | with_reducible apply keeps_ite_snd | with_reducible apply keeps_ite_fst | split | (with_reducible intro _) | (dsimp only) | (with_reducible refine keeps_fst ?_ (by with_reducible assumption)) | (with_reducible refine keeps_snd ?_ (by with_reducible assumption)) | (with_reducible refine keeps_opt ?_ (by with_reducible assumption)) | with_reducible exact opt_none | with_reducible apply opt_some | (with_reducible apply tile_foldl) | (with_reducible refine tile_mk ?_ rfl)

theorem execBr_keeps {s₀ s : State} (hk : Keeps s₀ s) (i : KernelStep) : OutKeeps s₀ (execBr i s) := by
  unfold execBr
  first | apply whenRunning_keeps hk | apply out_next
  try dsimp only
  repeat' first | with_reducible assumption | (with_reducible exact kstop _) | with_reducible apply kdone | with_reducible apply kjump | (with_reducible intro _ _ _ _) | with_reducible apply whenRunning_keeps | with_reducible apply kRun_keeps | (with_reducible apply keeps_foldl) | (with_reducible intro _ _ _) | (intro g; exact getTile_wf (by assumption) _ g) | with_reducible apply keeps_ite_snd | with_reducible apply keeps_ite_fst | split | (with_reducible intro _) | (dsimp only) | (with_reducible refine keeps_fst ?_ (by with_reducible assumption)) | (with_reducible refine keeps_snd ?_ (by with_reducible assumption)) | (with_reducible refine keeps_opt ?_ (by with_reducible assumption)) | with_reducible exact opt_none | with_reducible apply opt_some | (with_reducible apply tile_foldl) | (with_reducible refine tile_mk ?_ rfl)

theorem execSld_keeps {s₀ s : State} (hk : Keeps s₀ s) (i : KernelStep) : OutKeeps s₀ (execSld i s) := by
  unfold execSld
  first | apply whenRunning_keeps hk | apply out_next
  try dsimp only
  repeat' first | with_reducible assumption | (with_reducible exact kstop _) | with_reducible apply kdone | with_reducible apply kjump | with_reducible apply setSreg_wf | (with_reducible intro _ _ _ _) | with_reducible apply whenRunning_keeps | with_reducible apply kRun_keeps | (with_reducible apply keeps_foldl) | (with_reducible intro _ _ _) | (intro g; exact getTile_wf (by assumption) _ g) | with_reducible apply setSreg_wf | with_reducible apply keeps_ite_snd | with_reducible apply keeps_ite_fst | split | (with_reducible intro _) | (dsimp only) | (with_reducible refine keeps_fst ?_ (by with_reducible assumption)) | (with_reducible refine keeps_snd ?_ (by with_reducible assumption)) | (with_reducible refine keeps_opt ?_ (by with_reducible assumption)) | with_reducible exact opt_none | with_reducible apply opt_some | (with_reducible apply tile_foldl) | (with_reducible refine tile_mk ?_ rfl)

theorem execSst_keeps {s₀ s : State} (hk : Keeps s₀ s) (i : KernelStep) : OutKeeps s₀ (execSst i s) := by
  unfold execSst
  first | apply whenRunning_keeps hk | apply out_next
  try dsimp only
  repeat' first | with_reducible assumption | (with_reducible exact kstop _) | with_reducible apply kdone | with_reducible apply kjump | with_reducible apply tStore_wf | (with_reducible intro _ _ _ _) | with_reducible apply whenRunning_keeps | with_reducible apply kRun_keeps | (with_reducible apply keeps_foldl) | (with_reducible intro _ _ _) | (intro g; exact getTile_wf (by assumption) _ g) | with_reducible apply tStore_wf | with_reducible apply keeps_ite_snd | with_reducible apply keeps_ite_fst | split | (with_reducible intro _) | (dsimp only) | (with_reducible refine keeps_fst ?_ (by with_reducible assumption)) | (with_reducible refine keeps_snd ?_ (by with_reducible assumption)) | (with_reducible refine keeps_opt ?_ (by with_reducible assumption)) | with_reducible exact opt_none | with_reducible apply opt_some | (with_reducible apply tile_foldl) | (with_reducible refine tile_mk ?_ rfl)

theorem vldDo_wf {x : Tile} (hk : Tile.wf x = true) (w : Word) (f : Nat) (a : Nat) (sb : Nat) (sc : Int) : Tile.wf (vldDo x w f a sb sc).1 = true := by
  unfold vldDo
  try dsimp only
  repeat' first | with_reducible assumption | (with_reducible exact kstop _) | with_reducible apply kdone | with_reducible apply kjump | with_reducible apply writeVec_wf | (with_reducible intro _ _ _ _) | (with_reducible apply keeps_foldl) | (with_reducible intro _ _ _) | (intro g; exact getTile_wf (by assumption) _ g) | with_reducible apply writeVec_wf | with_reducible apply keeps_ite_snd | with_reducible apply keeps_ite_fst | split | (with_reducible intro _) | (dsimp only) | (with_reducible refine keeps_fst ?_ (by with_reducible assumption)) | (with_reducible refine keeps_snd ?_ (by with_reducible assumption)) | (with_reducible refine keeps_opt ?_ (by with_reducible assumption)) | with_reducible exact opt_none | with_reducible apply opt_some | (with_reducible apply tile_foldl) | (with_reducible refine tile_mk ?_ rfl)

theorem execVld_keeps {s₀ s : State} (hk : Keeps s₀ s) (i : KernelStep) : OutKeeps s₀ (execVld i s) := by
  unfold execVld
  first | apply whenRunning_keeps hk | apply out_next
  try dsimp only
  repeat' first | with_reducible assumption | (with_reducible exact kstop _) | with_reducible apply kdone | with_reducible apply kjump | with_reducible apply vldDo_wf | (with_reducible intro _ _ _ _) | with_reducible apply whenRunning_keeps | with_reducible apply kRun_keeps | (with_reducible apply keeps_foldl) | (with_reducible intro _ _ _) | (intro g; exact getTile_wf (by assumption) _ g) | with_reducible apply vldDo_wf | with_reducible apply keeps_ite_snd | with_reducible apply keeps_ite_fst | split | (with_reducible intro _) | (dsimp only) | (with_reducible refine keeps_fst ?_ (by with_reducible assumption)) | (with_reducible refine keeps_snd ?_ (by with_reducible assumption)) | (with_reducible refine keeps_opt ?_ (by with_reducible assumption)) | with_reducible exact opt_none | with_reducible apply opt_some | (with_reducible apply tile_foldl) | (with_reducible refine tile_mk ?_ rfl)

theorem execVst_keeps {s₀ s : State} (hk : Keeps s₀ s) (t : TileId) (fault : Bool) : OutKeeps s₀ (execVst t fault s) := by
  unfold execVst
  first | apply whenRunning_keeps hk | apply out_next
  try dsimp only
  repeat' first | with_reducible assumption | (with_reducible exact kstop _) | with_reducible apply kdone | with_reducible apply kjump | with_reducible apply tStore_wf | (with_reducible intro _ _ _ _) | with_reducible apply whenRunning_keeps | with_reducible apply kRun_keeps | (with_reducible apply keeps_foldl) | (with_reducible intro _ _ _) | (intro g; exact getTile_wf (by assumption) _ g) | with_reducible apply tStore_wf | with_reducible apply keeps_ite_snd | with_reducible apply keeps_ite_fst | split | (with_reducible intro _) | (dsimp only) | (with_reducible refine keeps_fst ?_ (by with_reducible assumption)) | (with_reducible refine keeps_snd ?_ (by with_reducible assumption)) | (with_reducible refine keeps_opt ?_ (by with_reducible assumption)) | with_reducible exact opt_none | with_reducible apply opt_some | (with_reducible apply tile_foldl) | (with_reducible refine tile_mk ?_ rfl)

theorem execVcvt_keeps {s₀ s : State} (hk : Keeps s₀ s) (t : TileId) (fault : Bool) : OutKeeps s₀ (execVcvt t fault s) := by
  unfold execVcvt
  first | apply whenRunning_keeps hk | apply out_next
  try dsimp only
  repeat' first | with_reducible assumption | (with_reducible exact kstop _) | with_reducible apply kdone | with_reducible apply kjump | with_reducible apply tStore_wf | (with_reducible intro _ _ _ _) | with_reducible apply whenRunning_keeps | with_reducible apply kRun_keeps | (with_reducible apply keeps_foldl) | (with_reducible intro _ _ _) | (intro g; exact getTile_wf (by assumption) _ g) | with_reducible apply tStore_wf | with_reducible apply keeps_ite_snd | with_reducible apply keeps_ite_fst | split | (with_reducible intro _) | (dsimp only) | (with_reducible refine keeps_fst ?_ (by with_reducible assumption)) | (with_reducible refine keeps_snd ?_ (by with_reducible assumption)) | (with_reducible refine keeps_opt ?_ (by with_reducible assumption)) | with_reducible exact opt_none | with_reducible apply opt_some | (with_reducible apply tile_foldl) | (with_reducible refine tile_mk ?_ rfl)

theorem execVscl_keeps {s₀ s : State} (hk : Keeps s₀ s) (i : KernelStep) : OutKeeps s₀ (execVscl i s) := by
  unfold execVscl
  first | apply whenRunning_keeps hk | apply out_next
  try dsimp only
  repeat' first | with_reducible assumption | (with_reducible exact kstop _) | with_reducible apply kdone | with_reducible apply kjump | with_reducible apply writeVec_wf | (with_reducible intro _ _ _ _) | with_reducible apply whenRunning_keeps | with_reducible apply kRun_keeps | (with_reducible apply keeps_foldl) | (with_reducible intro _ _ _) | (intro g; exact getTile_wf (by assumption) _ g) | with_reducible apply writeVec_wf | with_reducible apply keeps_ite_snd | with_reducible apply keeps_ite_fst | split | (with_reducible intro _) | (dsimp only) | (with_reducible refine keeps_fst ?_ (by with_reducible assumption)) | (with_reducible refine keeps_snd ?_ (by with_reducible assumption)) | (with_reducible refine keeps_opt ?_ (by with_reducible assumption)) | with_reducible exact opt_none | with_reducible apply opt_some | (with_reducible apply tile_foldl) | (with_reducible refine tile_mk ?_ rfl)

theorem laneOp_wf {x : Tile} (hk : Tile.wf x = true) (w : Word) (kind : Nat) (scale : Int) (f : Nat → BitVec 64) : KWf (laneOp x w kind scale f) := by
  unfold laneOp
  try dsimp only
  repeat' first | with_reducible assumption | (with_reducible exact kstop _) | with_reducible apply kdone | with_reducible apply kjump | with_reducible apply writeVec_wf | (with_reducible intro _ _ _ _) | (with_reducible apply keeps_foldl) | (with_reducible intro _ _ _) | (intro g; exact getTile_wf (by assumption) _ g) | with_reducible apply writeVec_wf | with_reducible apply keeps_ite_snd | with_reducible apply keeps_ite_fst | split | (with_reducible intro _) | (dsimp only) | (with_reducible refine keeps_fst ?_ (by with_reducible assumption)) | (with_reducible refine keeps_snd ?_ (by with_reducible assumption)) | (with_reducible refine keeps_opt ?_ (by with_reducible assumption)) | with_reducible exact opt_none | with_reducible apply opt_some | (with_reducible apply tile_foldl) | (with_reducible refine tile_mk ?_ rfl)

theorem execVtag_keeps {s₀ s : State} (hk : Keeps s₀ s) (i : KernelStep) : OutKeeps s₀ (execVtag i s) := by
  unfold execVtag
  first | apply whenRunning_keeps hk | apply out_next
  try dsimp only
  repeat' first | with_reducible assumption | (with_reducible exact kstop _) | with_reducible apply kdone | with_reducible apply kjump | with_reducible apply laneOp_wf | (with_reducible intro _ _ _ _) | with_reducible apply whenRunning_keeps | with_reducible apply kRun_keeps | (with_reducible apply keeps_foldl) | (with_reducible intro _ _ _) | (intro g; exact getTile_wf (by assumption) _ g) | with_reducible apply laneOp_wf | with_reducible apply keeps_ite_snd | with_reducible apply keeps_ite_fst | split | (with_reducible intro _) | (dsimp only) | (with_reducible refine keeps_fst ?_ (by with_reducible assumption)) | (with_reducible refine keeps_snd ?_ (by with_reducible assumption)) | (with_reducible refine keeps_opt ?_ (by with_reducible assumption)) | with_reducible exact opt_none | with_reducible apply opt_some | (with_reducible apply tile_foldl) | (with_reducible refine tile_mk ?_ rfl)

theorem execViota_keeps {s₀ s : State} (hk : Keeps s₀ s) (i : KernelStep) : OutKeeps s₀ (execViota i s) := by
  unfold execViota
  first | apply whenRunning_keeps hk | apply out_next
  try dsimp only
  repeat' first | with_reducible assumption | (with_reducible exact kstop _) | with_reducible apply kdone | with_reducible apply kjump | with_reducible apply laneOp_wf | (with_reducible intro _ _ _ _) | with_reducible apply whenRunning_keeps | with_reducible apply kRun_keeps | (with_reducible apply keeps_foldl) | (with_reducible intro _ _ _) | (intro g; exact getTile_wf (by assumption) _ g) | with_reducible apply laneOp_wf | with_reducible apply keeps_ite_snd | with_reducible apply keeps_ite_fst | split | (with_reducible intro _) | (dsimp only) | (with_reducible refine keeps_fst ?_ (by with_reducible assumption)) | (with_reducible refine keeps_snd ?_ (by with_reducible assumption)) | (with_reducible refine keeps_opt ?_ (by with_reducible assumption)) | with_reducible exact opt_none | with_reducible apply opt_some | (with_reducible apply tile_foldl) | (with_reducible refine tile_mk ?_ rfl)

theorem execVsel_keeps {s₀ s : State} (hk : Keeps s₀ s) (i : KernelStep) : OutKeeps s₀ (execVsel i s) := by
  unfold execVsel
  first | apply whenRunning_keeps hk | apply out_next
  try dsimp only
  repeat' first | with_reducible assumption | (with_reducible exact kstop _) | with_reducible apply kdone | with_reducible apply kjump | with_reducible apply writeVec_wf | (with_reducible intro _ _ _ _) | with_reducible apply whenRunning_keeps | with_reducible apply kRun_keeps | (with_reducible apply keeps_foldl) | (with_reducible intro _ _ _) | (intro g; exact getTile_wf (by assumption) _ g) | with_reducible apply writeVec_wf | with_reducible apply keeps_ite_snd | with_reducible apply keeps_ite_fst | split | (with_reducible intro _) | (dsimp only) | (with_reducible refine keeps_fst ?_ (by with_reducible assumption)) | (with_reducible refine keeps_snd ?_ (by with_reducible assumption)) | (with_reducible refine keeps_opt ?_ (by with_reducible assumption)) | with_reducible exact opt_none | with_reducible apply opt_some | (with_reducible apply tile_foldl) | (with_reducible refine tile_mk ?_ rfl)

theorem execVrot_keeps {s₀ s : State} (hk : Keeps s₀ s) (i : KernelStep) : OutKeeps s₀ (execVrot i s) := by
  unfold execVrot
  first | apply whenRunning_keeps hk | apply out_next
  try dsimp only
  repeat' first | with_reducible assumption | (with_reducible exact kstop _) | with_reducible apply kdone | with_reducible apply kjump | with_reducible apply laneOp_wf | (with_reducible intro _ _ _ _) | with_reducible apply whenRunning_keeps | with_reducible apply kRun_keeps | (with_reducible apply keeps_foldl) | (with_reducible intro _ _ _) | (intro g; exact getTile_wf (by assumption) _ g) | with_reducible apply laneOp_wf | with_reducible apply keeps_ite_snd | with_reducible apply keeps_ite_fst | split | (with_reducible intro _) | (dsimp only) | (with_reducible refine keeps_fst ?_ (by with_reducible assumption)) | (with_reducible refine keeps_snd ?_ (by with_reducible assumption)) | (with_reducible refine keeps_opt ?_ (by with_reducible assumption)) | with_reducible exact opt_none | with_reducible apply opt_some | (with_reducible apply tile_foldl) | (with_reducible refine tile_mk ?_ rfl)

theorem execVand_keeps {s₀ s : State} (hk : Keeps s₀ s) (i : KernelStep) : OutKeeps s₀ (execVand i s) := by
  unfold execVand
  first | apply whenRunning_keeps hk | apply out_next
  try dsimp only
  repeat' first | with_reducible assumption | (with_reducible exact kstop _) | with_reducible apply kdone | with_reducible apply kjump | with_reducible apply laneOp_wf | (with_reducible intro _ _ _ _) | with_reducible apply whenRunning_keeps | with_reducible apply kRun_keeps | (with_reducible apply keeps_foldl) | (with_reducible intro _ _ _) | (intro g; exact getTile_wf (by assumption) _ g) | with_reducible apply laneOp_wf | with_reducible apply keeps_ite_snd | with_reducible apply keeps_ite_fst | split | (with_reducible intro _) | (dsimp only) | (with_reducible refine keeps_fst ?_ (by with_reducible assumption)) | (with_reducible refine keeps_snd ?_ (by with_reducible assumption)) | (with_reducible refine keeps_opt ?_ (by with_reducible assumption)) | with_reducible exact opt_none | with_reducible apply opt_some | (with_reducible apply tile_foldl) | (with_reducible refine tile_mk ?_ rfl)

theorem execVor_keeps {s₀ s : State} (hk : Keeps s₀ s) (i : KernelStep) : OutKeeps s₀ (execVor i s) := by
  unfold execVor
  first | apply whenRunning_keeps hk | apply out_next
  try dsimp only
  repeat' first | with_reducible assumption | (with_reducible exact kstop _) | with_reducible apply kdone | with_reducible apply kjump | with_reducible apply laneOp_wf | (with_reducible intro _ _ _ _) | with_reducible apply whenRunning_keeps | with_reducible apply kRun_keeps | (with_reducible apply keeps_foldl) | (with_reducible intro _ _ _) | (intro g; exact getTile_wf (by assumption) _ g) | with_reducible apply laneOp_wf | with_reducible apply keeps_ite_snd | with_reducible apply keeps_ite_fst | split | (with_reducible intro _) | (dsimp only) | (with_reducible refine keeps_fst ?_ (by with_reducible assumption)) | (with_reducible refine keeps_snd ?_ (by with_reducible assumption)) | (with_reducible refine keeps_opt ?_ (by with_reducible assumption)) | with_reducible exact opt_none | with_reducible apply opt_some | (with_reducible apply tile_foldl) | (with_reducible refine tile_mk ?_ rfl)

theorem execVxor_keeps {s₀ s : State} (hk : Keeps s₀ s) (i : KernelStep) : OutKeeps s₀ (execVxor i s) := by
  unfold execVxor
  first | apply whenRunning_keeps hk | apply out_next
  try dsimp only
  repeat' first | with_reducible assumption | (with_reducible exact kstop _) | with_reducible apply kdone | with_reducible apply kjump | with_reducible apply laneOp_wf | (with_reducible intro _ _ _ _) | with_reducible apply whenRunning_keeps | with_reducible apply kRun_keeps | (with_reducible apply keeps_foldl) | (with_reducible intro _ _ _) | (intro g; exact getTile_wf (by assumption) _ g) | with_reducible apply laneOp_wf | with_reducible apply keeps_ite_snd | with_reducible apply keeps_ite_fst | split | (with_reducible intro _) | (dsimp only) | (with_reducible refine keeps_fst ?_ (by with_reducible assumption)) | (with_reducible refine keeps_snd ?_ (by with_reducible assumption)) | (with_reducible refine keeps_opt ?_ (by with_reducible assumption)) | with_reducible exact opt_none | with_reducible apply opt_some | (with_reducible apply tile_foldl) | (with_reducible refine tile_mk ?_ rfl)

theorem execVshl_keeps {s₀ s : State} (hk : Keeps s₀ s) (i : KernelStep) : OutKeeps s₀ (execVshl i s) := by
  unfold execVshl
  first | apply whenRunning_keeps hk | apply out_next
  try dsimp only
  repeat' first | with_reducible assumption | (with_reducible exact kstop _) | with_reducible apply kdone | with_reducible apply kjump | with_reducible apply laneOp_wf | (with_reducible intro _ _ _ _) | with_reducible apply whenRunning_keeps | with_reducible apply kRun_keeps | (with_reducible apply keeps_foldl) | (with_reducible intro _ _ _) | (intro g; exact getTile_wf (by assumption) _ g) | with_reducible apply laneOp_wf | with_reducible apply keeps_ite_snd | with_reducible apply keeps_ite_fst | split | (with_reducible intro _) | (dsimp only) | (with_reducible refine keeps_fst ?_ (by with_reducible assumption)) | (with_reducible refine keeps_snd ?_ (by with_reducible assumption)) | (with_reducible refine keeps_opt ?_ (by with_reducible assumption)) | with_reducible exact opt_none | with_reducible apply opt_some | (with_reducible apply tile_foldl) | (with_reducible refine tile_mk ?_ rfl)

theorem execVshr_keeps {s₀ s : State} (hk : Keeps s₀ s) (i : KernelStep) : OutKeeps s₀ (execVshr i s) := by
  unfold execVshr
  first | apply whenRunning_keeps hk | apply out_next
  try dsimp only
  repeat' first | with_reducible assumption | (with_reducible exact kstop _) | with_reducible apply kdone | with_reducible apply kjump | with_reducible apply laneOp_wf | (with_reducible intro _ _ _ _) | with_reducible apply whenRunning_keeps | with_reducible apply kRun_keeps | (with_reducible apply keeps_foldl) | (with_reducible intro _ _ _) | (intro g; exact getTile_wf (by assumption) _ g) | with_reducible apply laneOp_wf | with_reducible apply keeps_ite_snd | with_reducible apply keeps_ite_fst | split | (with_reducible intro _) | (dsimp only) | (with_reducible refine keeps_fst ?_ (by with_reducible assumption)) | (with_reducible refine keeps_snd ?_ (by with_reducible assumption)) | (with_reducible refine keeps_opt ?_ (by with_reducible assumption)) | with_reducible exact opt_none | with_reducible apply opt_some | (with_reducible apply tile_foldl) | (with_reducible refine tile_mk ?_ rfl)

theorem execMlog_keeps {s₀ s : State} (hk : Keeps s₀ s) (i : KernelStep) : OutKeeps s₀ (execMlog i s) := by
  unfold execMlog
  first | apply whenRunning_keeps hk | apply out_next
  try dsimp only
  repeat' first | with_reducible assumption | (with_reducible exact kstop _) | with_reducible apply kdone | with_reducible apply kjump | with_reducible apply writeMask_wf | (with_reducible intro _ _ _ _) | with_reducible apply whenRunning_keeps | with_reducible apply kRun_keeps | (with_reducible apply keeps_foldl) | (with_reducible intro _ _ _) | (intro g; exact getTile_wf (by assumption) _ g) | with_reducible apply writeMask_wf | with_reducible apply keeps_ite_snd | with_reducible apply keeps_ite_fst | split | (with_reducible intro _) | (dsimp only) | (with_reducible refine keeps_fst ?_ (by with_reducible assumption)) | (with_reducible refine keeps_snd ?_ (by with_reducible assumption)) | (with_reducible refine keeps_opt ?_ (by with_reducible assumption)) | with_reducible exact opt_none | with_reducible apply opt_some | (with_reducible apply tile_foldl) | (with_reducible refine tile_mk ?_ rfl)

theorem i64Op_wf {x : Tile} (hk : Tile.wf x = true) (w : Word) (srcs : List Nat) (scale : Int) (f : Nat → Option Int × Nat) : KWf (i64Op x w srcs scale f) := by
  unfold i64Op
  try dsimp only
  repeat' first | with_reducible assumption | (with_reducible exact kstop _) | with_reducible apply kdone | with_reducible apply kjump | with_reducible apply writeVec_wf | (with_reducible intro _ _ _ _) | (with_reducible apply keeps_foldl) | (with_reducible intro _ _ _) | (intro g; exact getTile_wf (by assumption) _ g) | with_reducible apply writeVec_wf | with_reducible apply keeps_ite_snd | with_reducible apply keeps_ite_fst | split | (with_reducible intro _) | (dsimp only) | (with_reducible refine keeps_fst ?_ (by with_reducible assumption)) | (with_reducible refine keeps_snd ?_ (by with_reducible assumption)) | (with_reducible refine keeps_opt ?_ (by with_reducible assumption)) | with_reducible exact opt_none | with_reducible apply opt_some | (with_reducible apply tile_foldl) | (with_reducible refine tile_mk ?_ rfl)

theorem execVadd_keeps {s₀ s : State} (hk : Keeps s₀ s) (i : KernelStep) : OutKeeps s₀ (execVadd i s) := by
  unfold execVadd
  first | apply whenRunning_keeps hk | apply out_next
  try dsimp only
  repeat' first | with_reducible assumption | (with_reducible exact kstop _) | with_reducible apply kdone | with_reducible apply kjump | with_reducible apply i64Op_wf | (with_reducible intro _ _ _ _) | with_reducible apply whenRunning_keeps | with_reducible apply kRun_keeps | (with_reducible apply keeps_foldl) | (with_reducible intro _ _ _) | (intro g; exact getTile_wf (by assumption) _ g) | with_reducible apply i64Op_wf | with_reducible apply keeps_ite_snd | with_reducible apply keeps_ite_fst | split | (with_reducible intro _) | (dsimp only) | (with_reducible refine keeps_fst ?_ (by with_reducible assumption)) | (with_reducible refine keeps_snd ?_ (by with_reducible assumption)) | (with_reducible refine keeps_opt ?_ (by with_reducible assumption)) | with_reducible exact opt_none | with_reducible apply opt_some | (with_reducible apply tile_foldl) | (with_reducible refine tile_mk ?_ rfl)

theorem execVsub_keeps {s₀ s : State} (hk : Keeps s₀ s) (i : KernelStep) : OutKeeps s₀ (execVsub i s) := by
  unfold execVsub
  first | apply whenRunning_keeps hk | apply out_next
  try dsimp only
  repeat' first | with_reducible assumption | (with_reducible exact kstop _) | with_reducible apply kdone | with_reducible apply kjump | with_reducible apply i64Op_wf | (with_reducible intro _ _ _ _) | with_reducible apply whenRunning_keeps | with_reducible apply kRun_keeps | (with_reducible apply keeps_foldl) | (with_reducible intro _ _ _) | (intro g; exact getTile_wf (by assumption) _ g) | with_reducible apply i64Op_wf | with_reducible apply keeps_ite_snd | with_reducible apply keeps_ite_fst | split | (with_reducible intro _) | (dsimp only) | (with_reducible refine keeps_fst ?_ (by with_reducible assumption)) | (with_reducible refine keeps_snd ?_ (by with_reducible assumption)) | (with_reducible refine keeps_opt ?_ (by with_reducible assumption)) | with_reducible exact opt_none | with_reducible apply opt_some | (with_reducible apply tile_foldl) | (with_reducible refine tile_mk ?_ rfl)

theorem execVmul_keeps {s₀ s : State} (hk : Keeps s₀ s) (i : KernelStep) : OutKeeps s₀ (execVmul i s) := by
  unfold execVmul
  first | apply whenRunning_keeps hk | apply out_next
  try dsimp only
  repeat' first | with_reducible assumption | (with_reducible exact kstop _) | with_reducible apply kdone | with_reducible apply kjump | with_reducible apply i64Op_wf | (with_reducible intro _ _ _ _) | with_reducible apply whenRunning_keeps | with_reducible apply kRun_keeps | (with_reducible apply keeps_foldl) | (with_reducible intro _ _ _) | (intro g; exact getTile_wf (by assumption) _ g) | with_reducible apply i64Op_wf | with_reducible apply keeps_ite_snd | with_reducible apply keeps_ite_fst | split | (with_reducible intro _) | (dsimp only) | (with_reducible refine keeps_fst ?_ (by with_reducible assumption)) | (with_reducible refine keeps_snd ?_ (by with_reducible assumption)) | (with_reducible refine keeps_opt ?_ (by with_reducible assumption)) | with_reducible exact opt_none | with_reducible apply opt_some | (with_reducible apply tile_foldl) | (with_reducible refine tile_mk ?_ rfl)

theorem exactOp_wf {x : Tile} (hk : Tile.wf x = true) (w : Word) (f : Int → Int) : KWf (exactOp x w f) := by
  unfold exactOp
  try dsimp only
  repeat' first | with_reducible assumption | (with_reducible exact kstop _) | with_reducible apply kdone | with_reducible apply kjump | with_reducible apply i64Op_wf | (with_reducible intro _ _ _ _) | (with_reducible apply keeps_foldl) | (with_reducible intro _ _ _) | (intro g; exact getTile_wf (by assumption) _ g) | with_reducible apply i64Op_wf | with_reducible apply keeps_ite_snd | with_reducible apply keeps_ite_fst | split | (with_reducible intro _) | (dsimp only) | (with_reducible refine keeps_fst ?_ (by with_reducible assumption)) | (with_reducible refine keeps_snd ?_ (by with_reducible assumption)) | (with_reducible refine keeps_opt ?_ (by with_reducible assumption)) | with_reducible exact opt_none | with_reducible apply opt_some | (with_reducible apply tile_foldl) | (with_reducible refine tile_mk ?_ rfl)

theorem execVneg_keeps {s₀ s : State} (hk : Keeps s₀ s) (i : KernelStep) : OutKeeps s₀ (execVneg i s) := by
  unfold execVneg
  first | apply whenRunning_keeps hk | apply out_next
  try dsimp only
  repeat' first | with_reducible assumption | (with_reducible exact kstop _) | with_reducible apply kdone | with_reducible apply kjump | with_reducible apply exactOp_wf | (with_reducible intro _ _ _ _) | with_reducible apply whenRunning_keeps | with_reducible apply kRun_keeps | (with_reducible apply keeps_foldl) | (with_reducible intro _ _ _) | (intro g; exact getTile_wf (by assumption) _ g) | with_reducible apply exactOp_wf | with_reducible apply keeps_ite_snd | with_reducible apply keeps_ite_fst | split | (with_reducible intro _) | (dsimp only) | (with_reducible refine keeps_fst ?_ (by with_reducible assumption)) | (with_reducible refine keeps_snd ?_ (by with_reducible assumption)) | (with_reducible refine keeps_opt ?_ (by with_reducible assumption)) | with_reducible exact opt_none | with_reducible apply opt_some | (with_reducible apply tile_foldl) | (with_reducible refine tile_mk ?_ rfl)

theorem execVabs_keeps {s₀ s : State} (hk : Keeps s₀ s) (i : KernelStep) : OutKeeps s₀ (execVabs i s) := by
  unfold execVabs
  first | apply whenRunning_keeps hk | apply out_next
  try dsimp only
  repeat' first | with_reducible assumption | (with_reducible exact kstop _) | with_reducible apply kdone | with_reducible apply kjump | with_reducible apply exactOp_wf | (with_reducible intro _ _ _ _) | with_reducible apply whenRunning_keeps | with_reducible apply kRun_keeps | (with_reducible apply keeps_foldl) | (with_reducible intro _ _ _) | (intro g; exact getTile_wf (by assumption) _ g) | with_reducible apply exactOp_wf | with_reducible apply keeps_ite_snd | with_reducible apply keeps_ite_fst | split | (with_reducible intro _) | (dsimp only) | (with_reducible refine keeps_fst ?_ (by with_reducible assumption)) | (with_reducible refine keeps_snd ?_ (by with_reducible assumption)) | (with_reducible refine keeps_opt ?_ (by with_reducible assumption)) | with_reducible exact opt_none | with_reducible apply opt_some | (with_reducible apply tile_foldl) | (with_reducible refine tile_mk ?_ rfl)

theorem execVcmp_keeps {s₀ s : State} (hk : Keeps s₀ s) (i : KernelStep) : OutKeeps s₀ (execVcmp i s) := by
  unfold execVcmp
  first | apply whenRunning_keeps hk | apply out_next
  try dsimp only
  repeat' first | with_reducible assumption | (with_reducible exact kstop _) | with_reducible apply kdone | with_reducible apply kjump | with_reducible apply writeMask_wf | (with_reducible intro _ _ _ _) | with_reducible apply whenRunning_keeps | with_reducible apply kRun_keeps | (with_reducible apply keeps_foldl) | (with_reducible intro _ _ _) | (intro g; exact getTile_wf (by assumption) _ g) | with_reducible apply writeMask_wf | with_reducible apply keeps_ite_snd | with_reducible apply keeps_ite_fst | split | (with_reducible intro _) | (dsimp only) | (with_reducible refine keeps_fst ?_ (by with_reducible assumption)) | (with_reducible refine keeps_snd ?_ (by with_reducible assumption)) | (with_reducible refine keeps_opt ?_ (by with_reducible assumption)) | with_reducible exact opt_none | with_reducible apply opt_some | (with_reducible apply tile_foldl) | (with_reducible refine tile_mk ?_ rfl)

theorem execVmin_keeps {s₀ s : State} (hk : Keeps s₀ s) (i : KernelStep) : OutKeeps s₀ (execVmin i s) := by
  unfold execVmin
  first | apply whenRunning_keeps hk | apply out_next
  try dsimp only
  repeat' first | with_reducible assumption | (with_reducible exact kstop _) | with_reducible apply kdone | with_reducible apply kjump | with_reducible apply i64Op_wf | (with_reducible intro _ _ _ _) | with_reducible apply whenRunning_keeps | with_reducible apply kRun_keeps | (with_reducible apply keeps_foldl) | (with_reducible intro _ _ _) | (intro g; exact getTile_wf (by assumption) _ g) | with_reducible apply i64Op_wf | with_reducible apply keeps_ite_snd | with_reducible apply keeps_ite_fst | split | (with_reducible intro _) | (dsimp only) | (with_reducible refine keeps_fst ?_ (by with_reducible assumption)) | (with_reducible refine keeps_snd ?_ (by with_reducible assumption)) | (with_reducible refine keeps_opt ?_ (by with_reducible assumption)) | with_reducible exact opt_none | with_reducible apply opt_some | (with_reducible apply tile_foldl) | (with_reducible refine tile_mk ?_ rfl)

theorem execVmax_keeps {s₀ s : State} (hk : Keeps s₀ s) (i : KernelStep) : OutKeeps s₀ (execVmax i s) := by
  unfold execVmax
  first | apply whenRunning_keeps hk | apply out_next
  try dsimp only
  repeat' first | with_reducible assumption | (with_reducible exact kstop _) | with_reducible apply kdone | with_reducible apply kjump | with_reducible apply i64Op_wf | (with_reducible intro _ _ _ _) | with_reducible apply whenRunning_keeps | with_reducible apply kRun_keeps | (with_reducible apply keeps_foldl) | (with_reducible intro _ _ _) | (intro g; exact getTile_wf (by assumption) _ g) | with_reducible apply i64Op_wf | with_reducible apply keeps_ite_snd | with_reducible apply keeps_ite_fst | split | (with_reducible intro _) | (dsimp only) | (with_reducible refine keeps_fst ?_ (by with_reducible assumption)) | (with_reducible refine keeps_snd ?_ (by with_reducible assumption)) | (with_reducible refine keeps_opt ?_ (by with_reducible assumption)) | with_reducible exact opt_none | with_reducible apply opt_some | (with_reducible apply tile_foldl) | (with_reducible refine tile_mk ?_ rfl)

theorem searchOp_wf {x : Tile} (hk : Tile.wf x = true) (w : Word) (mx : Bool) : KWf (searchOp x w mx) := by
  unfold searchOp
  try dsimp only
  repeat' first | with_reducible assumption | (with_reducible exact kstop _) | with_reducible apply kdone | with_reducible apply kjump | with_reducible apply setSreg_wf | (with_reducible intro _ _ _ _) | (with_reducible apply keeps_foldl) | (with_reducible intro _ _ _) | (intro g; exact getTile_wf (by assumption) _ g) | with_reducible apply setSreg_wf | with_reducible apply keeps_ite_snd | with_reducible apply keeps_ite_fst | split | (with_reducible intro _) | (dsimp only) | (with_reducible refine keeps_fst ?_ (by with_reducible assumption)) | (with_reducible refine keeps_snd ?_ (by with_reducible assumption)) | (with_reducible refine keeps_opt ?_ (by with_reducible assumption)) | with_reducible exact opt_none | with_reducible apply opt_some | (with_reducible apply tile_foldl) | (with_reducible refine tile_mk ?_ rfl)

theorem execVrmin_keeps {s₀ s : State} (hk : Keeps s₀ s) (i : KernelStep) : OutKeeps s₀ (execVrmin i s) := by
  unfold execVrmin
  first | apply whenRunning_keeps hk | apply out_next
  try dsimp only
  repeat' first | with_reducible assumption | (with_reducible exact kstop _) | with_reducible apply kdone | with_reducible apply kjump | with_reducible apply searchOp_wf | (with_reducible intro _ _ _ _) | with_reducible apply whenRunning_keeps | with_reducible apply kRun_keeps | (with_reducible apply keeps_foldl) | (with_reducible intro _ _ _) | (intro g; exact getTile_wf (by assumption) _ g) | with_reducible apply searchOp_wf | with_reducible apply keeps_ite_snd | with_reducible apply keeps_ite_fst | split | (with_reducible intro _) | (dsimp only) | (with_reducible refine keeps_fst ?_ (by with_reducible assumption)) | (with_reducible refine keeps_snd ?_ (by with_reducible assumption)) | (with_reducible refine keeps_opt ?_ (by with_reducible assumption)) | with_reducible exact opt_none | with_reducible apply opt_some | (with_reducible apply tile_foldl) | (with_reducible refine tile_mk ?_ rfl)

theorem execVrmax_keeps {s₀ s : State} (hk : Keeps s₀ s) (i : KernelStep) : OutKeeps s₀ (execVrmax i s) := by
  unfold execVrmax
  first | apply whenRunning_keeps hk | apply out_next
  try dsimp only
  repeat' first | with_reducible assumption | (with_reducible exact kstop _) | with_reducible apply kdone | with_reducible apply kjump | with_reducible apply searchOp_wf | (with_reducible intro _ _ _ _) | with_reducible apply whenRunning_keeps | with_reducible apply kRun_keeps | (with_reducible apply keeps_foldl) | (with_reducible intro _ _ _) | (intro g; exact getTile_wf (by assumption) _ g) | with_reducible apply searchOp_wf | with_reducible apply keeps_ite_snd | with_reducible apply keeps_ite_fst | split | (with_reducible intro _) | (dsimp only) | (with_reducible refine keeps_fst ?_ (by with_reducible assumption)) | (with_reducible refine keeps_snd ?_ (by with_reducible assumption)) | (with_reducible refine keeps_opt ?_ (by with_reducible assumption)) | with_reducible exact opt_none | with_reducible apply opt_some | (with_reducible apply tile_foldl) | (with_reducible refine tile_mk ?_ rfl)

theorem execVpoly_keeps {s₀ s : State} (hk : Keeps s₀ s) (i : KernelStep) : OutKeeps s₀ (execVpoly i s) := by
  unfold execVpoly
  first | apply whenRunning_keeps hk | apply out_next
  try dsimp only
  repeat' first | with_reducible assumption | (with_reducible exact kstop _) | with_reducible apply kdone | with_reducible apply kjump | with_reducible apply i64Op_wf | (with_reducible intro _ _ _ _) | with_reducible apply whenRunning_keeps | with_reducible apply kRun_keeps | (with_reducible apply keeps_foldl) | (with_reducible intro _ _ _) | (intro g; exact getTile_wf (by assumption) _ g) | with_reducible apply i64Op_wf | with_reducible apply keeps_ite_snd | with_reducible apply keeps_ite_fst | split | (with_reducible intro _) | (dsimp only) | (with_reducible refine keeps_fst ?_ (by with_reducible assumption)) | (with_reducible refine keeps_snd ?_ (by with_reducible assumption)) | (with_reducible refine keeps_opt ?_ (by with_reducible assumption)) | with_reducible exact opt_none | with_reducible apply opt_some | (with_reducible apply tile_foldl) | (with_reducible refine tile_mk ?_ rfl)

theorem execVcrc_keeps {s₀ s : State} (hk : Keeps s₀ s) (i : KernelStep) : OutKeeps s₀ (execVcrc i s) := by
  unfold execVcrc
  first | apply whenRunning_keeps hk | apply out_next
  try dsimp only
  repeat' first | with_reducible assumption | (with_reducible exact kstop _) | with_reducible apply kdone | with_reducible apply kjump | with_reducible apply setSreg_wf | (with_reducible intro _ _ _ _) | with_reducible apply whenRunning_keeps | with_reducible apply kRun_keeps | (with_reducible apply keeps_foldl) | (with_reducible intro _ _ _) | (intro g; exact getTile_wf (by assumption) _ g) | with_reducible apply setSreg_wf | with_reducible apply keeps_ite_snd | with_reducible apply keeps_ite_fst | split | (with_reducible intro _) | (dsimp only) | (with_reducible refine keeps_fst ?_ (by with_reducible assumption)) | (with_reducible refine keeps_snd ?_ (by with_reducible assumption)) | (with_reducible refine keeps_opt ?_ (by with_reducible assumption)) | with_reducible exact opt_none | with_reducible apply opt_some | (with_reducible apply tile_foldl) | (with_reducible refine tile_mk ?_ rfl)

theorem execVmsum_keeps {s₀ s : State} (hk : Keeps s₀ s) (i : KernelStep) : OutKeeps s₀ (execVmsum i s) := by
  unfold execVmsum
  first | apply whenRunning_keeps hk | apply out_next
  try dsimp only
  repeat' first | with_reducible assumption | (with_reducible exact kstop _) | with_reducible apply kdone | with_reducible apply kjump | with_reducible apply setSreg_wf | (with_reducible intro _ _ _ _) | with_reducible apply whenRunning_keeps | with_reducible apply kRun_keeps | (with_reducible apply keeps_foldl) | (with_reducible intro _ _ _) | (intro g; exact getTile_wf (by assumption) _ g) | with_reducible apply setSreg_wf | with_reducible apply keeps_ite_snd | with_reducible apply keeps_ite_fst | split | (with_reducible intro _) | (dsimp only) | (with_reducible refine keeps_fst ?_ (by with_reducible assumption)) | (with_reducible refine keeps_snd ?_ (by with_reducible assumption)) | (with_reducible refine keeps_opt ?_ (by with_reducible assumption)) | with_reducible exact opt_none | with_reducible apply opt_some | (with_reducible apply tile_foldl) | (with_reducible refine tile_mk ?_ rfl)

theorem fOp_wf {x : Tile} (hk : Tile.wf x = true) (w : Word) (srcs : List Nat) (sf : Nat) (tf : Nat) (f : Nat → Nat × Nat) : KWf (fOp x w srcs sf tf f) := by
  unfold fOp
  try dsimp only
  repeat' first | with_reducible assumption | (with_reducible exact kstop _) | with_reducible apply kdone | with_reducible apply kjump | with_reducible apply writeVec_wf | (with_reducible intro _ _ _ _) | (with_reducible apply keeps_foldl) | (with_reducible intro _ _ _) | (intro g; exact getTile_wf (by assumption) _ g) | with_reducible apply writeVec_wf | with_reducible apply keeps_ite_snd | with_reducible apply keeps_ite_fst | split | (with_reducible intro _) | (dsimp only) | (with_reducible refine keeps_fst ?_ (by with_reducible assumption)) | (with_reducible refine keeps_snd ?_ (by with_reducible assumption)) | (with_reducible refine keeps_opt ?_ (by with_reducible assumption)) | with_reducible exact opt_none | with_reducible apply opt_some | (with_reducible apply tile_foldl) | (with_reducible refine tile_mk ?_ rfl)

theorem execFadd_keeps {s₀ s : State} (hk : Keeps s₀ s) (i : KernelStep) : OutKeeps s₀ (execFadd i s) := by
  unfold execFadd
  first | apply whenRunning_keeps hk | apply out_next
  try dsimp only
  repeat' first | with_reducible assumption | (with_reducible exact kstop _) | with_reducible apply kdone | with_reducible apply kjump | with_reducible apply fOp_wf | (with_reducible intro _ _ _ _) | with_reducible apply whenRunning_keeps | with_reducible apply kRun_keeps | (with_reducible apply keeps_foldl) | (with_reducible intro _ _ _) | (intro g; exact getTile_wf (by assumption) _ g) | with_reducible apply fOp_wf | with_reducible apply keeps_ite_snd | with_reducible apply keeps_ite_fst | split | (with_reducible intro _) | (dsimp only) | (with_reducible refine keeps_fst ?_ (by with_reducible assumption)) | (with_reducible refine keeps_snd ?_ (by with_reducible assumption)) | (with_reducible refine keeps_opt ?_ (by with_reducible assumption)) | with_reducible exact opt_none | with_reducible apply opt_some | (with_reducible apply tile_foldl) | (with_reducible refine tile_mk ?_ rfl)

theorem execFsub_keeps {s₀ s : State} (hk : Keeps s₀ s) (i : KernelStep) : OutKeeps s₀ (execFsub i s) := by
  unfold execFsub
  first | apply whenRunning_keeps hk | apply out_next
  try dsimp only
  repeat' first | with_reducible assumption | (with_reducible exact kstop _) | with_reducible apply kdone | with_reducible apply kjump | with_reducible apply fOp_wf | (with_reducible intro _ _ _ _) | with_reducible apply whenRunning_keeps | with_reducible apply kRun_keeps | (with_reducible apply keeps_foldl) | (with_reducible intro _ _ _) | (intro g; exact getTile_wf (by assumption) _ g) | with_reducible apply fOp_wf | with_reducible apply keeps_ite_snd | with_reducible apply keeps_ite_fst | split | (with_reducible intro _) | (dsimp only) | (with_reducible refine keeps_fst ?_ (by with_reducible assumption)) | (with_reducible refine keeps_snd ?_ (by with_reducible assumption)) | (with_reducible refine keeps_opt ?_ (by with_reducible assumption)) | with_reducible exact opt_none | with_reducible apply opt_some | (with_reducible apply tile_foldl) | (with_reducible refine tile_mk ?_ rfl)

theorem execFmul_keeps {s₀ s : State} (hk : Keeps s₀ s) (i : KernelStep) : OutKeeps s₀ (execFmul i s) := by
  unfold execFmul
  first | apply whenRunning_keeps hk | apply out_next
  try dsimp only
  repeat' first | with_reducible assumption | (with_reducible exact kstop _) | with_reducible apply kdone | with_reducible apply kjump | with_reducible apply fOp_wf | (with_reducible intro _ _ _ _) | with_reducible apply whenRunning_keeps | with_reducible apply kRun_keeps | (with_reducible apply keeps_foldl) | (with_reducible intro _ _ _) | (intro g; exact getTile_wf (by assumption) _ g) | with_reducible apply fOp_wf | with_reducible apply keeps_ite_snd | with_reducible apply keeps_ite_fst | split | (with_reducible intro _) | (dsimp only) | (with_reducible refine keeps_fst ?_ (by with_reducible assumption)) | (with_reducible refine keeps_snd ?_ (by with_reducible assumption)) | (with_reducible refine keeps_opt ?_ (by with_reducible assumption)) | with_reducible exact opt_none | with_reducible apply opt_some | (with_reducible apply tile_foldl) | (with_reducible refine tile_mk ?_ rfl)

theorem execFfma_keeps {s₀ s : State} (hk : Keeps s₀ s) (i : KernelStep) : OutKeeps s₀ (execFfma i s) := by
  unfold execFfma
  first | apply whenRunning_keeps hk | apply out_next
  try dsimp only
  repeat' first | with_reducible assumption | (with_reducible exact kstop _) | with_reducible apply kdone | with_reducible apply kjump | with_reducible apply fOp_wf | (with_reducible intro _ _ _ _) | with_reducible apply whenRunning_keeps | with_reducible apply kRun_keeps | (with_reducible apply keeps_foldl) | (with_reducible intro _ _ _) | (intro g; exact getTile_wf (by assumption) _ g) | with_reducible apply fOp_wf | with_reducible apply keeps_ite_snd | with_reducible apply keeps_ite_fst | split | (with_reducible intro _) | (dsimp only) | (with_reducible refine keeps_fst ?_ (by with_reducible assumption)) | (with_reducible refine keeps_snd ?_ (by with_reducible assumption)) | (with_reducible refine keeps_opt ?_ (by with_reducible assumption)) | with_reducible exact opt_none | with_reducible apply opt_some | (with_reducible apply tile_foldl) | (with_reducible refine tile_mk ?_ rfl)

theorem execFdiv_keeps {s₀ s : State} (hk : Keeps s₀ s) (i : KernelStep) : OutKeeps s₀ (execFdiv i s) := by
  unfold execFdiv
  first | apply whenRunning_keeps hk | apply out_next
  try dsimp only
  repeat' first | with_reducible assumption | (with_reducible exact kstop _) | with_reducible apply kdone | with_reducible apply kjump | with_reducible apply fOp_wf | (with_reducible intro _ _ _ _) | with_reducible apply whenRunning_keeps | with_reducible apply kRun_keeps | (with_reducible apply keeps_foldl) | (with_reducible intro _ _ _) | (intro g; exact getTile_wf (by assumption) _ g) | with_reducible apply fOp_wf | with_reducible apply keeps_ite_snd | with_reducible apply keeps_ite_fst | split | (with_reducible intro _) | (dsimp only) | (with_reducible refine keeps_fst ?_ (by with_reducible assumption)) | (with_reducible refine keeps_snd ?_ (by with_reducible assumption)) | (with_reducible refine keeps_opt ?_ (by with_reducible assumption)) | with_reducible exact opt_none | with_reducible apply opt_some | (with_reducible apply tile_foldl) | (with_reducible refine tile_mk ?_ rfl)

theorem execFsqrt_keeps {s₀ s : State} (hk : Keeps s₀ s) (i : KernelStep) : OutKeeps s₀ (execFsqrt i s) := by
  unfold execFsqrt
  first | apply whenRunning_keeps hk | apply out_next
  try dsimp only
  repeat' first | with_reducible assumption | (with_reducible exact kstop _) | with_reducible apply kdone | with_reducible apply kjump | with_reducible apply fOp_wf | (with_reducible intro _ _ _ _) | with_reducible apply whenRunning_keeps | with_reducible apply kRun_keeps | (with_reducible apply keeps_foldl) | (with_reducible intro _ _ _) | (intro g; exact getTile_wf (by assumption) _ g) | with_reducible apply fOp_wf | with_reducible apply keeps_ite_snd | with_reducible apply keeps_ite_fst | split | (with_reducible intro _) | (dsimp only) | (with_reducible refine keeps_fst ?_ (by with_reducible assumption)) | (with_reducible refine keeps_snd ?_ (by with_reducible assumption)) | (with_reducible refine keeps_opt ?_ (by with_reducible assumption)) | with_reducible exact opt_none | with_reducible apply opt_some | (with_reducible apply tile_foldl) | (with_reducible refine tile_mk ?_ rfl)

theorem execFcvt_keeps {s₀ s : State} (hk : Keeps s₀ s) (i : KernelStep) : OutKeeps s₀ (execFcvt i s) := by
  unfold execFcvt
  first | apply whenRunning_keeps hk | apply out_next
  try dsimp only
  repeat' first | with_reducible assumption | (with_reducible exact kstop _) | with_reducible apply kdone | with_reducible apply kjump | with_reducible apply fOp_wf | (with_reducible intro _ _ _ _) | with_reducible apply whenRunning_keeps | with_reducible apply kRun_keeps | (with_reducible apply keeps_foldl) | (with_reducible intro _ _ _) | (intro g; exact getTile_wf (by assumption) _ g) | with_reducible apply fOp_wf | with_reducible apply keeps_ite_snd | with_reducible apply keeps_ite_fst | split | (with_reducible intro _) | (dsimp only) | (with_reducible refine keeps_fst ?_ (by with_reducible assumption)) | (with_reducible refine keeps_snd ?_ (by with_reducible assumption)) | (with_reducible refine keeps_opt ?_ (by with_reducible assumption)) | with_reducible exact opt_none | with_reducible apply opt_some | (with_reducible apply tile_foldl) | (with_reducible refine tile_mk ?_ rfl)

theorem execFcmp_keeps {s₀ s : State} (hk : Keeps s₀ s) (i : KernelStep) : OutKeeps s₀ (execFcmp i s) := by
  unfold execFcmp
  first | apply whenRunning_keeps hk | apply out_next
  try dsimp only
  repeat' first | with_reducible assumption | (with_reducible exact kstop _) | with_reducible apply kdone | with_reducible apply kjump | with_reducible apply writeMask_wf | (with_reducible intro _ _ _ _) | with_reducible apply whenRunning_keeps | with_reducible apply kRun_keeps | (with_reducible apply keeps_foldl) | (with_reducible intro _ _ _) | (intro g; exact getTile_wf (by assumption) _ g) | with_reducible apply writeMask_wf | with_reducible apply keeps_ite_snd | with_reducible apply keeps_ite_fst | split | (with_reducible intro _) | (dsimp only) | (with_reducible refine keeps_fst ?_ (by with_reducible assumption)) | (with_reducible refine keeps_snd ?_ (by with_reducible assumption)) | (with_reducible refine keeps_opt ?_ (by with_reducible assumption)) | with_reducible exact opt_none | with_reducible apply opt_some | (with_reducible apply tile_foldl) | (with_reducible refine tile_mk ?_ rfl)

theorem execFmin_keeps {s₀ s : State} (hk : Keeps s₀ s) (i : KernelStep) : OutKeeps s₀ (execFmin i s) := by
  unfold execFmin
  first | apply whenRunning_keeps hk | apply out_next
  try dsimp only
  repeat' first | with_reducible assumption | (with_reducible exact kstop _) | with_reducible apply kdone | with_reducible apply kjump | with_reducible apply fOp_wf | (with_reducible intro _ _ _ _) | with_reducible apply whenRunning_keeps | with_reducible apply kRun_keeps | (with_reducible apply keeps_foldl) | (with_reducible intro _ _ _) | (intro g; exact getTile_wf (by assumption) _ g) | with_reducible apply fOp_wf | with_reducible apply keeps_ite_snd | with_reducible apply keeps_ite_fst | split | (with_reducible intro _) | (dsimp only) | (with_reducible refine keeps_fst ?_ (by with_reducible assumption)) | (with_reducible refine keeps_snd ?_ (by with_reducible assumption)) | (with_reducible refine keeps_opt ?_ (by with_reducible assumption)) | with_reducible exact opt_none | with_reducible apply opt_some | (with_reducible apply tile_foldl) | (with_reducible refine tile_mk ?_ rfl)

theorem execFmax_keeps {s₀ s : State} (hk : Keeps s₀ s) (i : KernelStep) : OutKeeps s₀ (execFmax i s) := by
  unfold execFmax
  first | apply whenRunning_keeps hk | apply out_next
  try dsimp only
  repeat' first | with_reducible assumption | (with_reducible exact kstop _) | with_reducible apply kdone | with_reducible apply kjump | with_reducible apply fOp_wf | (with_reducible intro _ _ _ _) | with_reducible apply whenRunning_keeps | with_reducible apply kRun_keeps | (with_reducible apply keeps_foldl) | (with_reducible intro _ _ _) | (intro g; exact getTile_wf (by assumption) _ g) | with_reducible apply fOp_wf | with_reducible apply keeps_ite_snd | with_reducible apply keeps_ite_fst | split | (with_reducible intro _) | (dsimp only) | (with_reducible refine keeps_fst ?_ (by with_reducible assumption)) | (with_reducible refine keeps_snd ?_ (by with_reducible assumption)) | (with_reducible refine keeps_opt ?_ (by with_reducible assumption)) | with_reducible exact opt_none | with_reducible apply opt_some | (with_reducible apply tile_foldl) | (with_reducible refine tile_mk ?_ rfl)

theorem execFminnum_keeps {s₀ s : State} (hk : Keeps s₀ s) (i : KernelStep) : OutKeeps s₀ (execFminnum i s) := by
  unfold execFminnum
  first | apply whenRunning_keeps hk | apply out_next
  try dsimp only
  repeat' first | with_reducible assumption | (with_reducible exact kstop _) | with_reducible apply kdone | with_reducible apply kjump | with_reducible apply fOp_wf | (with_reducible intro _ _ _ _) | with_reducible apply whenRunning_keeps | with_reducible apply kRun_keeps | (with_reducible apply keeps_foldl) | (with_reducible intro _ _ _) | (intro g; exact getTile_wf (by assumption) _ g) | with_reducible apply fOp_wf | with_reducible apply keeps_ite_snd | with_reducible apply keeps_ite_fst | split | (with_reducible intro _) | (dsimp only) | (with_reducible refine keeps_fst ?_ (by with_reducible assumption)) | (with_reducible refine keeps_snd ?_ (by with_reducible assumption)) | (with_reducible refine keeps_opt ?_ (by with_reducible assumption)) | with_reducible exact opt_none | with_reducible apply opt_some | (with_reducible apply tile_foldl) | (with_reducible refine tile_mk ?_ rfl)

theorem execFmaxnum_keeps {s₀ s : State} (hk : Keeps s₀ s) (i : KernelStep) : OutKeeps s₀ (execFmaxnum i s) := by
  unfold execFmaxnum
  first | apply whenRunning_keeps hk | apply out_next
  try dsimp only
  repeat' first | with_reducible assumption | (with_reducible exact kstop _) | with_reducible apply kdone | with_reducible apply kjump | with_reducible apply fOp_wf | (with_reducible intro _ _ _ _) | with_reducible apply whenRunning_keeps | with_reducible apply kRun_keeps | (with_reducible apply keeps_foldl) | (with_reducible intro _ _ _) | (intro g; exact getTile_wf (by assumption) _ g) | with_reducible apply fOp_wf | with_reducible apply keeps_ite_snd | with_reducible apply keeps_ite_fst | split | (with_reducible intro _) | (dsimp only) | (with_reducible refine keeps_fst ?_ (by with_reducible assumption)) | (with_reducible refine keeps_snd ?_ (by with_reducible assumption)) | (with_reducible refine keeps_opt ?_ (by with_reducible assumption)) | with_reducible exact opt_none | with_reducible apply opt_some | (with_reducible apply tile_foldl) | (with_reducible refine tile_mk ?_ rfl)

theorem execLclr_keeps {s₀ s : State} (hk : Keeps s₀ s) (i : KernelStep) : OutKeeps s₀ (execLclr i s) := by
  unfold execLclr
  first | apply whenRunning_keeps hk | apply out_next
  try dsimp only
  repeat' first | with_reducible assumption | (with_reducible exact kstop _) | with_reducible apply kdone | with_reducible apply kjump | with_reducible apply setLa_wf | (with_reducible intro _ _ _ _) | with_reducible apply whenRunning_keeps | with_reducible apply kRun_keeps | (with_reducible apply keeps_foldl) | (with_reducible intro _ _ _) | (intro g; exact getTile_wf (by assumption) _ g) | with_reducible apply setLa_wf | with_reducible apply keeps_ite_snd | with_reducible apply keeps_ite_fst | split | (with_reducible intro _) | (dsimp only) | (with_reducible refine keeps_fst ?_ (by with_reducible assumption)) | (with_reducible refine keeps_snd ?_ (by with_reducible assumption)) | (with_reducible refine keeps_opt ?_ (by with_reducible assumption)) | with_reducible exact opt_none | with_reducible apply opt_some | (with_reducible apply tile_foldl) | (with_reducible refine tile_mk ?_ rfl)

theorem insOp_wf {x : Tile} (hk : Tile.wf x = true) (s : State) (t : TileId) (w : Word) (two : Bool) (f : Src → Src → Src × Src) : KWf (insOp s t x w two f) := by
  unfold insOp
  try dsimp only
  repeat' first | with_reducible assumption | (with_reducible exact kstop _) | with_reducible apply kdone | with_reducible apply kjump | with_reducible apply setLa_wf | (with_reducible intro _ _ _ _) | (with_reducible apply keeps_foldl) | (with_reducible intro _ _ _) | (intro g; exact getTile_wf (by assumption) _ g) | with_reducible apply setLa_wf | with_reducible apply keeps_ite_snd | with_reducible apply keeps_ite_fst | split | (with_reducible intro _) | (dsimp only) | (with_reducible refine keeps_fst ?_ (by with_reducible assumption)) | (with_reducible refine keeps_snd ?_ (by with_reducible assumption)) | (with_reducible refine keeps_opt ?_ (by with_reducible assumption)) | with_reducible exact opt_none | with_reducible apply opt_some | (with_reducible apply tile_foldl) | (with_reducible refine tile_mk ?_ rfl)

theorem execLdot_keeps {s₀ s : State} (hk : Keeps s₀ s) (t : TileId) (fault : Bool) : OutKeeps s₀ (execLdot t fault s) := by
  unfold execLdot
  first | apply whenRunning_keeps hk | apply out_next
  try dsimp only
  repeat' first | with_reducible assumption | (with_reducible exact kstop _) | with_reducible apply kdone | with_reducible apply kjump | with_reducible apply insOp_wf | (with_reducible intro _ _ _ _) | with_reducible apply whenRunning_keeps | with_reducible apply kRun_keeps | (with_reducible apply keeps_foldl) | (with_reducible intro _ _ _) | (intro g; exact getTile_wf (by assumption) _ g) | with_reducible apply insOp_wf | with_reducible apply keeps_ite_snd | with_reducible apply keeps_ite_fst | split | (with_reducible intro _) | (dsimp only) | (with_reducible refine keeps_fst ?_ (by with_reducible assumption)) | (with_reducible refine keeps_snd ?_ (by with_reducible assumption)) | (with_reducible refine keeps_opt ?_ (by with_reducible assumption)) | with_reducible exact opt_none | with_reducible apply opt_some | (with_reducible apply tile_foldl) | (with_reducible refine tile_mk ?_ rfl)

theorem execLsum_keeps {s₀ s : State} (hk : Keeps s₀ s) (t : TileId) (fault : Bool) : OutKeeps s₀ (execLsum t fault s) := by
  unfold execLsum
  first | apply whenRunning_keeps hk | apply out_next
  try dsimp only
  repeat' first | with_reducible assumption | (with_reducible exact kstop _) | with_reducible apply kdone | with_reducible apply kjump | with_reducible apply insOp_wf | (with_reducible intro _ _ _ _) | with_reducible apply whenRunning_keeps | with_reducible apply kRun_keeps | (with_reducible apply keeps_foldl) | (with_reducible intro _ _ _) | (intro g; exact getTile_wf (by assumption) _ g) | with_reducible apply insOp_wf | with_reducible apply keeps_ite_snd | with_reducible apply keeps_ite_fst | split | (with_reducible intro _) | (dsimp only) | (with_reducible refine keeps_fst ?_ (by with_reducible assumption)) | (with_reducible refine keeps_snd ?_ (by with_reducible assumption)) | (with_reducible refine keeps_opt ?_ (by with_reducible assumption)) | with_reducible exact opt_none | with_reducible apply opt_some | (with_reducible apply tile_foldl) | (with_reducible refine tile_mk ?_ rfl)

theorem execLssq_keeps {s₀ s : State} (hk : Keeps s₀ s) (t : TileId) (fault : Bool) : OutKeeps s₀ (execLssq t fault s) := by
  unfold execLssq
  first | apply whenRunning_keeps hk | apply out_next
  try dsimp only
  repeat' first | with_reducible assumption | (with_reducible exact kstop _) | with_reducible apply kdone | with_reducible apply kjump | with_reducible apply insOp_wf | (with_reducible intro _ _ _ _) | with_reducible apply whenRunning_keeps | with_reducible apply kRun_keeps | (with_reducible apply keeps_foldl) | (with_reducible intro _ _ _) | (intro g; exact getTile_wf (by assumption) _ g) | with_reducible apply insOp_wf | with_reducible apply keeps_ite_snd | with_reducible apply keeps_ite_fst | split | (with_reducible intro _) | (dsimp only) | (with_reducible refine keeps_fst ?_ (by with_reducible assumption)) | (with_reducible refine keeps_snd ?_ (by with_reducible assumption)) | (with_reducible refine keeps_opt ?_ (by with_reducible assumption)) | with_reducible exact opt_none | with_reducible apply opt_some | (with_reducible apply tile_foldl) | (with_reducible refine tile_mk ?_ rfl)

theorem execLsabs_keeps {s₀ s : State} (hk : Keeps s₀ s) (t : TileId) (fault : Bool) : OutKeeps s₀ (execLsabs t fault s) := by
  unfold execLsabs
  first | apply whenRunning_keeps hk | apply out_next
  try dsimp only
  repeat' first | with_reducible assumption | (with_reducible exact kstop _) | with_reducible apply kdone | with_reducible apply kjump | with_reducible apply insOp_wf | (with_reducible intro _ _ _ _) | with_reducible apply whenRunning_keeps | with_reducible apply kRun_keeps | (with_reducible apply keeps_foldl) | (with_reducible intro _ _ _) | (intro g; exact getTile_wf (by assumption) _ g) | with_reducible apply insOp_wf | with_reducible apply keeps_ite_snd | with_reducible apply keeps_ite_fst | split | (with_reducible intro _) | (dsimp only) | (with_reducible refine keeps_fst ?_ (by with_reducible assumption)) | (with_reducible refine keeps_snd ?_ (by with_reducible assumption)) | (with_reducible refine keeps_opt ?_ (by with_reducible assumption)) | with_reducible exact opt_none | with_reducible apply opt_some | (with_reducible apply tile_foldl) | (with_reducible refine tile_mk ?_ rfl)

theorem execLrnd_keeps {s₀ s : State} (hk : Keeps s₀ s) (i : KernelStep) : OutKeeps s₀ (execLrnd i s) := by
  unfold execLrnd
  first | apply whenRunning_keeps hk | apply out_next
  try dsimp only
  repeat' first | with_reducible assumption | (with_reducible exact kstop _) | with_reducible apply kdone | with_reducible apply kjump | with_reducible apply setSreg_wf | (with_reducible intro _ _ _ _) | with_reducible apply whenRunning_keeps | with_reducible apply kRun_keeps | (with_reducible apply keeps_foldl) | (with_reducible intro _ _ _) | (intro g; exact getTile_wf (by assumption) _ g) | with_reducible apply setSreg_wf | with_reducible apply keeps_ite_snd | with_reducible apply keeps_ite_fst | split | (with_reducible intro _) | (dsimp only) | (with_reducible refine keeps_fst ?_ (by with_reducible assumption)) | (with_reducible refine keeps_snd ?_ (by with_reducible assumption)) | (with_reducible refine keeps_opt ?_ (by with_reducible assumption)) | with_reducible exact opt_none | with_reducible apply opt_some | (with_reducible apply tile_foldl) | (with_reducible refine tile_mk ?_ rfl)

theorem execLsave_keeps {s₀ s : State} (hk : Keeps s₀ s) (i : KernelStep) : OutKeeps s₀ (execLsave i s) := by
  unfold execLsave
  first | apply whenRunning_keeps hk | apply out_next
  try dsimp only
  repeat' first | with_reducible assumption | (with_reducible exact kstop _) | with_reducible apply kdone | with_reducible apply kjump | with_reducible apply tStore_wf | (with_reducible intro _ _ _ _) | with_reducible apply whenRunning_keeps | with_reducible apply kRun_keeps | (with_reducible apply keeps_foldl) | (with_reducible intro _ _ _) | (intro g; exact getTile_wf (by assumption) _ g) | with_reducible apply tStore_wf | with_reducible apply keeps_ite_snd | with_reducible apply keeps_ite_fst | split | (with_reducible intro _) | (dsimp only) | (with_reducible refine keeps_fst ?_ (by with_reducible assumption)) | (with_reducible refine keeps_snd ?_ (by with_reducible assumption)) | (with_reducible refine keeps_opt ?_ (by with_reducible assumption)) | with_reducible exact opt_none | with_reducible apply opt_some | (with_reducible apply tile_foldl) | (with_reducible refine tile_mk ?_ rfl)

theorem execLadd_keeps {s₀ s : State} (hk : Keeps s₀ s) (t : TileId) (fault : Bool) : OutKeeps s₀ (execLadd t fault s) := by
  unfold execLadd
  first | apply whenRunning_keeps hk | apply out_next
  try dsimp only
  repeat' first | with_reducible assumption | (with_reducible exact kstop _) | with_reducible apply kdone | with_reducible apply kjump | with_reducible apply setLa_wf | (with_reducible intro _ _ _ _) | with_reducible apply whenRunning_keeps | with_reducible apply kRun_keeps | (with_reducible apply keeps_foldl) | (with_reducible intro _ _ _) | (intro g; exact getTile_wf (by assumption) _ g) | with_reducible apply setLa_wf | with_reducible apply keeps_ite_snd | with_reducible apply keeps_ite_fst | split | (with_reducible intro _) | (dsimp only) | (with_reducible refine keeps_fst ?_ (by with_reducible assumption)) | (with_reducible refine keeps_snd ?_ (by with_reducible assumption)) | (with_reducible refine keeps_opt ?_ (by with_reducible assumption)) | with_reducible exact opt_none | with_reducible apply opt_some | (with_reducible apply tile_foldl) | (with_reducible refine tile_mk ?_ rfl)

end Sys2Proof.Machine
end

