-- ==== Sys2Proof/Laws/KeepSeq.lean ====
section
/-! SUPPORT. What the operations of Machine/Seq.lean keep (see Laws/Keep.lean). -/

namespace Sys2Proof.Machine
open Sys2Proof

theorem setHead_keeps {s₀ s : State} (hk : Keeps s₀ s) (t : TileId) (q : Nat) (v : Nat) : Keeps s₀ (setHead s t q v) := by
  unfold setHead
  try dsimp only
  repeat' first | with_reducible assumption | with_reducible apply setFld_keeps | (with_reducible apply keeps_foldl) | (with_reducible intro _ _ _) | (intro g; exact getTile_wf (by assumption) _ g) | with_reducible apply keeps_ite_snd | with_reducible apply keeps_ite_fst | split | (with_reducible intro _) | (dsimp only) | (with_reducible refine keeps_fst ?_ (by with_reducible assumption)) | (with_reducible refine keeps_snd ?_ (by with_reducible assumption)) | (with_reducible refine keeps_opt ?_ (by with_reducible assumption)) | with_reducible exact opt_none | with_reducible apply opt_some | (with_reducible apply tile_foldl) | (with_reducible refine tile_mk ?_ rfl)

theorem setTail_keeps {s₀ s : State} (hk : Keeps s₀ s) (t : TileId) (q : Nat) (v : Nat) : Keeps s₀ (setTail s t q v) := by
  unfold setTail
  try dsimp only
  repeat' first | with_reducible assumption | with_reducible apply setFlag_keeps | with_reducible apply setFld_keeps | (with_reducible apply keeps_foldl) | (with_reducible intro _ _ _) | (intro g; exact getTile_wf (by assumption) _ g) | with_reducible apply keeps_ite_snd | with_reducible apply keeps_ite_fst | split | (with_reducible intro _) | (dsimp only) | (with_reducible refine keeps_fst ?_ (by with_reducible assumption)) | (with_reducible refine keeps_snd ?_ (by with_reducible assumption)) | (with_reducible refine keeps_opt ?_ (by with_reducible assumption)) | with_reducible exact opt_none | with_reducible apply opt_some | (with_reducible apply tile_foldl) | (with_reducible refine tile_mk ?_ rfl)

theorem execTpDb_keeps {s₀ s : State} (hk : Keeps s₀ s) (t : TileId) (q : Fin 2) (v : Word) : OutKeeps s₀ (execTpDb t q v s) := by
  unfold execTpDb
  first | apply whenRunning_keeps hk | apply out_next
  try dsimp only
  repeat' first | with_reducible assumption | with_reducible apply whenRunning_keeps | with_reducible apply setTail_keeps | (with_reducible apply keeps_foldl) | (with_reducible intro _ _ _) | (intro g; exact getTile_wf (by assumption) _ g) | with_reducible apply keeps_ite_snd | with_reducible apply keeps_ite_fst | split | (with_reducible intro _) | (dsimp only) | (with_reducible refine keeps_fst ?_ (by with_reducible assumption)) | (with_reducible refine keeps_snd ?_ (by with_reducible assumption)) | (with_reducible refine keeps_opt ?_ (by with_reducible assumption)) | with_reducible exact opt_none | with_reducible apply opt_some | (with_reducible apply tile_foldl) | (with_reducible refine tile_mk ?_ rfl)

theorem writeGdb_keeps {s₀ s : State} (hk : Keeps s₀ s) (d : Fin 4) (half : Nat) (v : Word) : Keeps s₀ (writeGdb s d half v) := by
  unfold writeGdb
  try dsimp only
  repeat' first | with_reducible assumption | with_reducible apply setTail_keeps | (with_reducible apply keeps_foldl) | (with_reducible intro _ _ _) | (intro g; exact getTile_wf (by assumption) _ g) | with_reducible apply keeps_ite_snd | with_reducible apply keeps_ite_fst | split | (with_reducible intro _) | (dsimp only) | (with_reducible refine keeps_fst ?_ (by with_reducible assumption)) | (with_reducible refine keeps_snd ?_ (by with_reducible assumption)) | (with_reducible refine keeps_opt ?_ (by with_reducible assumption)) | with_reducible exact opt_none | with_reducible apply opt_some | (with_reducible apply tile_foldl) | (with_reducible refine tile_mk ?_ rfl)

theorem execTpGdb_keeps {s₀ s : State} (hk : Keeps s₀ s) (d : Fin 4) (half : Fin 2) (v : Word) : OutKeeps s₀ (execTpGdb d half v s) := by
  unfold execTpGdb
  first | apply whenRunning_keeps hk | apply out_next
  try dsimp only
  repeat' first | with_reducible assumption | with_reducible apply whenRunning_keeps | with_reducible apply writeGdb_keeps | (with_reducible apply keeps_foldl) | (with_reducible intro _ _ _) | (intro g; exact getTile_wf (by assumption) _ g) | with_reducible apply keeps_ite_snd | with_reducible apply keeps_ite_fst | split | (with_reducible intro _) | (dsimp only) | (with_reducible refine keeps_fst ?_ (by with_reducible assumption)) | (with_reducible refine keeps_snd ?_ (by with_reducible assumption)) | (with_reducible refine keeps_opt ?_ (by with_reducible assumption)) | with_reducible exact opt_none | with_reducible apply opt_some | (with_reducible apply tile_foldl) | (with_reducible refine tile_mk ?_ rfl)

theorem writeSq_keeps {s₀ s : State} (hk : Keeps s₀ s) (t : TileId) (q : Nat) (v : Word) : Keeps s₀ (writeSq s t q v) := by
  unfold writeSq
  try dsimp only
  repeat' first | with_reducible assumption | with_reducible apply setFlag_keeps | with_reducible apply plainWrite_keeps | (with_reducible apply keeps_foldl) | (with_reducible intro _ _ _) | (intro g; exact getTile_wf (by assumption) _ g) | with_reducible apply keeps_ite_snd | with_reducible apply keeps_ite_fst | split | (with_reducible intro _) | (dsimp only) | (with_reducible refine keeps_fst ?_ (by with_reducible assumption)) | (with_reducible refine keeps_snd ?_ (by with_reducible assumption)) | (with_reducible refine keeps_opt ?_ (by with_reducible assumption)) | with_reducible exact opt_none | with_reducible apply opt_some | (with_reducible apply tile_foldl) | (with_reducible refine tile_mk ?_ rfl)

theorem execTpSqWrite_keeps {s₀ s : State} (hk : Keeps s₀ s) (t : TileId) (q : Fin 2) (v : Word) : OutKeeps s₀ (execTpSqWrite t q v s) := by
  unfold execTpSqWrite
  first | apply whenRunning_keeps hk | apply out_next
  try dsimp only
  repeat' first | with_reducible assumption | with_reducible apply whenRunning_keeps | with_reducible apply writeSq_keeps | (with_reducible apply keeps_foldl) | (with_reducible intro _ _ _) | (intro g; exact getTile_wf (by assumption) _ g) | with_reducible apply keeps_ite_snd | with_reducible apply keeps_ite_fst | split | (with_reducible intro _) | (dsimp only) | (with_reducible refine keeps_fst ?_ (by with_reducible assumption)) | (with_reducible refine keeps_snd ?_ (by with_reducible assumption)) | (with_reducible refine keeps_opt ?_ (by with_reducible assumption)) | with_reducible exact opt_none | with_reducible apply opt_some | (with_reducible apply tile_foldl) | (with_reducible refine tile_mk ?_ rfl)

theorem setCqRecs_keeps {s₀ s : State} (hk : Keeps s₀ s) (d : Fin 4) (q : Nat) (l : List CRec) : Keeps s₀ (setCqRecs s d q l) := by
  unfold setCqRecs
  try dsimp only
  repeat' first | with_reducible assumption | (with_reducible apply keeps_foldl) | (with_reducible intro _ _ _) | (intro g; exact getTile_wf (by assumption) _ g) | with_reducible apply keeps_ite_snd | with_reducible apply keeps_ite_fst | split | (with_reducible intro _) | (dsimp only) | (with_reducible refine keeps_fst ?_ (by with_reducible assumption)) | (with_reducible refine keeps_snd ?_ (by with_reducible assumption)) | (with_reducible refine keeps_opt ?_ (by with_reducible assumption)) | with_reducible exact opt_none | with_reducible apply opt_some | (with_reducible refine keeps_mk ?_ rfl rfl rfl rfl rfl rfl rfl) | (with_reducible apply tile_foldl) | (with_reducible refine tile_mk ?_ rfl)

theorem showWait_keeps {s₀ s : State} (hk : Keeps s₀ s) (d : Fin 4) (slot : Nat) : Keeps s₀ (showWait d s slot) := by
  unfold showWait
  try dsimp only
  repeat' first | with_reducible assumption | with_reducible apply setFlag_keeps | (with_reducible apply keeps_foldl) | (with_reducible intro _ _ _) | (intro g; exact getTile_wf (by assumption) _ g) | with_reducible apply keeps_ite_snd | with_reducible apply keeps_ite_fst | split | (with_reducible intro _) | (dsimp only) | (with_reducible refine keeps_fst ?_ (by with_reducible assumption)) | (with_reducible refine keeps_snd ?_ (by with_reducible assumption)) | (with_reducible refine keeps_opt ?_ (by with_reducible assumption)) | with_reducible exact opt_none | with_reducible apply opt_some | (with_reducible apply tile_foldl) | (with_reducible refine tile_mk ?_ rfl)

theorem refreshCq_keeps {s₀ s : State} (hk : Keeps s₀ s) (d : Fin 4) (q : Nat) (more : List Nat) : Keeps s₀ (refreshCq s d q more) := by
  unfold refreshCq
  try dsimp only
  repeat' first | with_reducible assumption | with_reducible apply setCqRecs_keeps | with_reducible apply setFlag_keeps | with_reducible apply showWait_keeps | (with_reducible apply keeps_foldl) | (with_reducible intro _ _ _) | (intro g; exact getTile_wf (by assumption) _ g) | with_reducible apply keeps_ite_snd | with_reducible apply keeps_ite_fst | split | (with_reducible intro _) | (dsimp only) | (with_reducible refine keeps_fst ?_ (by with_reducible assumption)) | (with_reducible refine keeps_snd ?_ (by with_reducible assumption)) | (with_reducible refine keeps_opt ?_ (by with_reducible assumption)) | with_reducible exact opt_none | with_reducible apply opt_some | (with_reducible refine keeps_mk ?_ rfl rfl rfl rfl rfl rfl rfl) | (with_reducible apply tile_foldl) | (with_reducible refine tile_mk ?_ rfl)

theorem seqWrite_keeps {s₀ s : State} (hk : Keeps s₀ s) (t : TileId) (net : Status) (a : Nat) (d : List Byte) : OptKeeps s₀ (seqWrite s t net a d) := by
  unfold seqWrite
  try dsimp only
  repeat' first | with_reducible assumption | with_reducible apply hbmStore_keeps | (with_reducible apply keeps_foldl) | (with_reducible intro _ _ _) | (intro g; exact getTile_wf (by assumption) _ g) | with_reducible apply keeps_ite_snd | with_reducible apply keeps_ite_fst | split | (with_reducible intro _) | (dsimp only) | (with_reducible refine keeps_fst ?_ (by with_reducible assumption)) | (with_reducible refine keeps_snd ?_ (by with_reducible assumption)) | (with_reducible refine keeps_opt ?_ (by with_reducible assumption)) | with_reducible exact opt_none | with_reducible apply opt_some | (with_reducible apply tile_foldl) | (with_reducible refine tile_mk ?_ rfl)

theorem cqFail_keeps {s₀ s : State} (hk : Keeps s₀ s) (d : Fin 4) (q : Nat) : Keeps s₀ (cqFail s d q) := by
  unfold cqFail
  try dsimp only
  repeat' first | with_reducible assumption | with_reducible apply setFlag_keeps | with_reducible apply refreshCq_keeps | with_reducible apply setCqRecs_keeps | (with_reducible apply keeps_foldl) | (with_reducible intro _ _ _) | (intro g; exact getTile_wf (by assumption) _ g) | with_reducible apply keeps_ite_snd | with_reducible apply keeps_ite_fst | split | (with_reducible intro _) | (dsimp only) | (with_reducible refine keeps_fst ?_ (by with_reducible assumption)) | (with_reducible refine keeps_snd ?_ (by with_reducible assumption)) | (with_reducible refine keeps_opt ?_ (by with_reducible assumption)) | with_reducible exact opt_none | with_reducible apply opt_some | (with_reducible refine keeps_mk ?_ rfl rfl rfl rfl rfl rfl rfl) | (with_reducible apply tile_foldl) | (with_reducible refine tile_mk ?_ rfl)

theorem writeFirst_keeps {s₀ s : State} (hk : Keeps s₀ s) (d : Fin 4) (q : Nat) (net : Status) : Keeps s₀ (writeFirst s d q net) := by
  unfold writeFirst
  try dsimp only
  repeat' first | with_reducible assumption | with_reducible apply seqWrite_keeps | with_reducible apply cqFail_keeps | with_reducible apply awaitAck_keeps | with_reducible apply setCqRecs_keeps | (with_reducible apply keeps_foldl) | (with_reducible intro _ _ _) | (intro g; exact getTile_wf (by assumption) _ g) | with_reducible apply keeps_ite_snd | with_reducible apply keeps_ite_fst | split | (with_reducible intro _) | (dsimp only) | (with_reducible refine keeps_fst ?_ (by with_reducible assumption)) | (with_reducible refine keeps_snd ?_ (by with_reducible assumption)) | (with_reducible refine keeps_opt ?_ (by with_reducible assumption)) | with_reducible exact opt_none | with_reducible apply opt_some | (with_reducible refine keeps_mk ?_ rfl rfl rfl rfl rfl rfl rfl) | (with_reducible apply tile_foldl) | (with_reducible refine tile_mk ?_ rfl)

theorem recordDone_keeps {s₀ s : State} (hk : Keeps s₀ s) (d : Fin 4) (q : Nat) : Keeps s₀ (recordDone s d q) := by
  unfold recordDone
  try dsimp only
  repeat' first | with_reducible assumption | with_reducible apply incFld_keeps | with_reducible apply setCqRecs_keeps | with_reducible apply sendIrq_keeps | with_reducible apply refreshCq_keeps | (with_reducible apply keeps_foldl) | (with_reducible intro _ _ _) | (intro g; exact getTile_wf (by assumption) _ g) | with_reducible apply keeps_ite_snd | with_reducible apply keeps_ite_fst | split | (with_reducible intro _) | (dsimp only) | (with_reducible refine keeps_fst ?_ (by with_reducible assumption)) | (with_reducible refine keeps_snd ?_ (by with_reducible assumption)) | (with_reducible refine keeps_opt ?_ (by with_reducible assumption)) | with_reducible exact opt_none | with_reducible apply opt_some | (with_reducible apply tile_foldl) | (with_reducible refine tile_mk ?_ rfl)

theorem writeSecond_keeps {s₀ s : State} (hk : Keeps s₀ s) (d : Fin 4) (q : Nat) (net : Status) : Keeps s₀ (writeSecond s d q net) := by
  unfold writeSecond
  try dsimp only
  repeat' first | with_reducible assumption | with_reducible apply seqWrite_keeps | with_reducible apply cqFail_keeps | with_reducible apply awaitAck_keeps | with_reducible apply setCqRecs_keeps | with_reducible apply recordDone_keeps | (with_reducible apply keeps_foldl) | (with_reducible intro _ _ _) | (intro g; exact getTile_wf (by assumption) _ g) | with_reducible apply keeps_ite_snd | with_reducible apply keeps_ite_fst | split | (with_reducible intro _) | (dsimp only) | (with_reducible refine keeps_fst ?_ (by with_reducible assumption)) | (with_reducible refine keeps_snd ?_ (by with_reducible assumption)) | (with_reducible refine keeps_opt ?_ (by with_reducible assumption)) | with_reducible exact opt_none | with_reducible apply opt_some | (with_reducible refine keeps_mk ?_ rfl rfl rfl rfl rfl rfl rfl) | (with_reducible apply tile_foldl) | (with_reducible refine tile_mk ?_ rfl)

theorem execCompletionRecordHead_keeps {s₀ s : State} (hk : Keeps s₀ s) (d : Fin 4) (cq : Fin 64) (net : BitVec 8) : OutKeeps s₀ (execCompletionRecordHead d cq net s) := by
  unfold execCompletionRecordHead
  first | apply whenRunning_keeps hk | apply out_next
  try dsimp only
  repeat' first | with_reducible assumption | with_reducible apply whenRunning_keeps | with_reducible apply writeSecond_keeps | with_reducible apply writeFirst_keeps | (with_reducible apply keeps_foldl) | (with_reducible intro _ _ _) | (intro g; exact getTile_wf (by assumption) _ g) | with_reducible apply keeps_ite_snd | with_reducible apply keeps_ite_fst | split | (with_reducible intro _) | (dsimp only) | (with_reducible refine keeps_fst ?_ (by with_reducible assumption)) | (with_reducible refine keeps_snd ?_ (by with_reducible assumption)) | (with_reducible refine keeps_opt ?_ (by with_reducible assumption)) | with_reducible exact opt_none | with_reducible apply opt_some | (with_reducible apply tile_foldl) | (with_reducible refine tile_mk ?_ rfl)

theorem writeCqd_keeps {s₀ s : State} (hk : Keeps s₀ s) (d : Fin 4) (cq : Nat) (v : Word) : Keeps s₀ (writeCqd s d cq v) := by
  unfold writeCqd
  try dsimp only
  repeat' first | with_reducible assumption | with_reducible apply setFlag_keeps | with_reducible apply refreshCq_keeps | with_reducible apply plainWrite_keeps | (with_reducible apply keeps_foldl) | (with_reducible intro _ _ _) | (intro g; exact getTile_wf (by assumption) _ g) | with_reducible apply keeps_ite_snd | with_reducible apply keeps_ite_fst | split | (with_reducible intro _) | (dsimp only) | (with_reducible refine keeps_fst ?_ (by with_reducible assumption)) | (with_reducible refine keeps_snd ?_ (by with_reducible assumption)) | (with_reducible refine keeps_opt ?_ (by with_reducible assumption)) | with_reducible exact opt_none | with_reducible apply opt_some | (with_reducible apply tile_foldl) | (with_reducible refine tile_mk ?_ rfl)

theorem execTpCqdWrite_keeps {s₀ s : State} (hk : Keeps s₀ s) (d : Fin 4) (cq : Fin 64) (v : Word) : OutKeeps s₀ (execTpCqdWrite d cq v s) := by
  unfold execTpCqdWrite
  first | apply whenRunning_keeps hk | apply out_next
  try dsimp only
  repeat' first | with_reducible assumption | with_reducible apply whenRunning_keeps | with_reducible apply writeCqd_keeps | (with_reducible apply keeps_foldl) | (with_reducible intro _ _ _) | (intro g; exact getTile_wf (by assumption) _ g) | with_reducible apply keeps_ite_snd | with_reducible apply keeps_ite_fst | split | (with_reducible intro _) | (dsimp only) | (with_reducible refine keeps_fst ?_ (by with_reducible assumption)) | (with_reducible refine keeps_snd ?_ (by with_reducible assumption)) | (with_reducible refine keeps_opt ?_ (by with_reducible assumption)) | with_reducible exact opt_none | with_reducible apply opt_some | (with_reducible apply tile_foldl) | (with_reducible refine tile_mk ?_ rfl)

theorem writeCqh_keeps {s₀ s : State} (hk : Keeps s₀ s) (d : Fin 4) (cq : Nat) (v : Word) : Keeps s₀ (writeCqh s d cq v) := by
  unfold writeCqh
  try dsimp only
  repeat' first | with_reducible assumption | with_reducible apply refreshCq_keeps | with_reducible apply plainWrite_keeps | (with_reducible apply keeps_foldl) | (with_reducible intro _ _ _) | (intro g; exact getTile_wf (by assumption) _ g) | with_reducible apply keeps_ite_snd | with_reducible apply keeps_ite_fst | split | (with_reducible intro _) | (dsimp only) | (with_reducible refine keeps_fst ?_ (by with_reducible assumption)) | (with_reducible refine keeps_snd ?_ (by with_reducible assumption)) | (with_reducible refine keeps_opt ?_ (by with_reducible assumption)) | with_reducible exact opt_none | with_reducible apply opt_some | (with_reducible apply tile_foldl) | (with_reducible refine tile_mk ?_ rfl)

theorem execTpCqhWrite_keeps {s₀ s : State} (hk : Keeps s₀ s) (d : Fin 4) (cq : Fin 64) (v : Word) : OutKeeps s₀ (execTpCqhWrite d cq v s) := by
  unfold execTpCqhWrite
  first | apply whenRunning_keeps hk | apply out_next
  try dsimp only
  repeat' first | with_reducible assumption | with_reducible apply whenRunning_keeps | with_reducible apply writeCqh_keeps | (with_reducible apply keeps_foldl) | (with_reducible intro _ _ _) | (intro g; exact getTile_wf (by assumption) _ g) | with_reducible apply keeps_ite_snd | with_reducible apply keeps_ite_fst | split | (with_reducible intro _) | (dsimp only) | (with_reducible refine keeps_fst ?_ (by with_reducible assumption)) | (with_reducible refine keeps_snd ?_ (by with_reducible assumption)) | (with_reducible refine keeps_opt ?_ (by with_reducible assumption)) | with_reducible exact opt_none | with_reducible apply opt_some | (with_reducible apply tile_foldl) | (with_reducible refine tile_mk ?_ rfl)

theorem drawWords_keeps {s₀ s : State} (hk : Keeps s₀ s) (n : Nat) : Keeps s₀ (drawWords s n).1 := by
  unfold drawWords
  try dsimp only
  repeat' first | with_reducible assumption | (with_reducible apply keeps_foldl) | (with_reducible intro _ _ _) | (intro g; exact getTile_wf (by assumption) _ g) | with_reducible apply keeps_ite_snd | with_reducible apply keeps_ite_fst | split | (with_reducible intro _) | (dsimp only) | (with_reducible refine keeps_fst ?_ (by with_reducible assumption)) | (with_reducible refine keeps_snd ?_ (by with_reducible assumption)) | (with_reducible refine keeps_opt ?_ (by with_reducible assumption)) | with_reducible exact opt_none | with_reducible apply opt_some | (with_reducible refine keeps_mk ?_ rfl rfl rfl rfl rfl rfl rfl) | (with_reducible apply tile_foldl) | (with_reducible refine tile_mk ?_ rfl)

theorem startLaunch_keeps {s₀ s : State} (hk : Keeps s₀ s) (t : TileId) (q : Nat) (pos : Nat) (r : LaunchRec) (failed : Bool) : Keeps s₀ (startLaunch s t q pos r failed) := by
  unfold startLaunch
  try dsimp only
  repeat' first | with_reducible assumption | with_reducible apply wr_keeps | with_reducible apply setFld_keeps | with_reducible apply modTile_keeps | with_reducible apply showPc_keeps | with_reducible apply setQState_keeps | with_reducible apply setRun_keeps | with_reducible apply reach_keeps | (with_reducible apply keeps_foldl) | (with_reducible intro _ _ _) | (intro g; exact getTile_wf (by assumption) _ g) | with_reducible apply keeps_ite_snd | with_reducible apply keeps_ite_fst | split | (with_reducible intro _) | (dsimp only) | (with_reducible refine keeps_fst ?_ (by with_reducible assumption)) | (with_reducible refine keeps_snd ?_ (by with_reducible assumption)) | (with_reducible refine keeps_opt ?_ (by with_reducible assumption)) | with_reducible exact opt_none | with_reducible apply opt_some | (with_reducible refine keeps_mk ?_ rfl rfl rfl rfl rfl rfl rfl) | (with_reducible apply tile_foldl) | (with_reducible refine tile_mk ?_ rfl)

theorem execLaunchFetch_keeps {s₀ s : State} (hk : Keeps s₀ s) (t : TileId) (q : Fin 2) (net : BitVec 8) : OutKeeps s₀ (execLaunchFetch t q net s) := by
  unfold execLaunchFetch
  first | apply whenRunning_keeps hk | apply out_next
  try dsimp only
  repeat' first | with_reducible assumption | with_reducible apply whenRunning_keeps | with_reducible apply seqRead_keeps | with_reducible apply setHead_keeps | with_reducible apply startLaunch_keeps | with_reducible apply drawWords_keeps | (with_reducible apply keeps_foldl) | (with_reducible intro _ _ _) | (intro g; exact getTile_wf (by assumption) _ g) | with_reducible apply keeps_ite_snd | with_reducible apply keeps_ite_fst | split | (with_reducible intro _) | (dsimp only) | (with_reducible refine keeps_fst ?_ (by with_reducible assumption)) | (with_reducible refine keeps_snd ?_ (by with_reducible assumption)) | (with_reducible refine keeps_opt ?_ (by with_reducible assumption)) | with_reducible exact opt_none | with_reducible apply opt_some | (with_reducible apply tile_foldl) | (with_reducible refine tile_mk ?_ rfl)

theorem refuseStream_keeps {s₀ s : State} (hk : Keeps s₀ s) (t : TileId) (q : Nat) (c : Nat) (pc : Nat) : Keeps s₀ (refuseStream s t q c pc) := by
  unfold refuseStream
  try dsimp only
  repeat' first | with_reducible assumption | with_reducible apply setTile_keeps | with_reducible apply modTile_keeps | with_reducible apply setFld_keeps | with_reducible apply addUnit_keeps | with_reducible apply unitEnded_keeps | (with_reducible apply keeps_foldl) | (with_reducible intro _ _ _) | (intro g; exact getTile_wf (by assumption) _ g) | with_reducible apply getTile_wf | with_reducible apply keeps_ite_snd | with_reducible apply keeps_ite_fst | split | (with_reducible intro _) | (dsimp only) | (with_reducible refine keeps_fst ?_ (by with_reducible assumption)) | (with_reducible refine keeps_snd ?_ (by with_reducible assumption)) | (with_reducible refine keeps_opt ?_ (by with_reducible assumption)) | with_reducible exact opt_none | with_reducible apply opt_some | (with_reducible refine keeps_mk ?_ rfl rfl rfl rfl rfl rfl rfl) | (with_reducible apply tile_foldl) | (with_reducible refine tile_mk ?_ rfl)

theorem startStream_keeps {s₀ s : State} (hk : Keeps s₀ s) (t : TileId) (c : Nat) (st : Stream) : Keeps s₀ (startStream s t c st) := by
  unfold startStream
  try dsimp only
  repeat' first | with_reducible assumption | with_reducible apply setTile_keeps | with_reducible apply setFld_keeps | with_reducible apply putStream_keeps | with_reducible apply addUnit_keeps | with_reducible apply tryGrant_keeps | (with_reducible apply keeps_foldl) | (with_reducible intro _ _ _) | (intro g; exact getTile_wf (by assumption) _ g) | with_reducible apply getTile_wf | with_reducible apply clearMarks_wf | with_reducible apply keeps_ite_snd | with_reducible apply keeps_ite_fst | split | (with_reducible intro _) | (dsimp only) | (with_reducible refine keeps_fst ?_ (by with_reducible assumption)) | (with_reducible refine keeps_snd ?_ (by with_reducible assumption)) | (with_reducible refine keeps_opt ?_ (by with_reducible assumption)) | with_reducible exact opt_none | with_reducible apply opt_some | (with_reducible refine keeps_mk ?_ rfl rfl rfl rfl rfl rfl rfl) | (with_reducible apply tile_foldl) | (with_reducible refine tile_mk ?_ rfl)

theorem execSstart_keeps {s₀ s : State} (hk : Keeps s₀ s) (t : TileId) (q : Fin 2) : OutKeeps s₀ (execSstart t q s) := by
  unfold execSstart
  first | apply whenRunning_keeps hk | apply out_next
  try dsimp only
  repeat' first | with_reducible assumption | with_reducible apply whenRunning_keeps | with_reducible apply tpIssue_keeps | with_reducible apply refuseStream_keeps | with_reducible apply startStream_keeps | with_reducible apply advance_keeps | (with_reducible apply keeps_foldl) | (with_reducible intro _ _ _) | (intro g; exact getTile_wf (by assumption) _ g) | with_reducible apply getTile_wf | with_reducible apply keeps_ite_snd | with_reducible apply keeps_ite_fst | split | (with_reducible intro _) | (dsimp only) | (with_reducible refine keeps_fst ?_ (by with_reducible assumption)) | (with_reducible refine keeps_snd ?_ (by with_reducible assumption)) | (with_reducible refine keeps_opt ?_ (by with_reducible assumption)) | with_reducible exact opt_none | with_reducible apply opt_some | (with_reducible apply tile_foldl) | (with_reducible refine tile_mk ?_ rfl)

theorem execSwait_keeps {s₀ s : State} (hk : Keeps s₀ s) (t : TileId) (q : Fin 2) : OutKeeps s₀ (execSwait t q s) := by
  unfold execSwait
  first | apply whenRunning_keeps hk | apply out_next
  try dsimp only
  repeat' first | with_reducible assumption | with_reducible apply whenRunning_keeps | with_reducible apply tpIssue_keeps | with_reducible apply issueWhen_keeps | with_reducible apply advance_keeps | (with_reducible apply keeps_foldl) | (with_reducible intro _ _ _) | (intro g; exact getTile_wf (by assumption) _ g) | with_reducible apply getTile_wf | with_reducible apply keeps_ite_snd | with_reducible apply keeps_ite_fst | split | (with_reducible intro _) | (dsimp only) | (with_reducible refine keeps_fst ?_ (by with_reducible assumption)) | (with_reducible refine keeps_snd ?_ (by with_reducible assumption)) | (with_reducible refine keeps_opt ?_ (by with_reducible assumption)) | with_reducible exact opt_none | with_reducible apply opt_some | (with_reducible apply tile_foldl) | (with_reducible refine tile_mk ?_ rfl)

theorem execSrel_keeps {s₀ s : State} (hk : Keeps s₀ s) (t : TileId) (q : Fin 2) : OutKeeps s₀ (execSrel t q s) := by
  unfold execSrel
  first | apply whenRunning_keeps hk | apply out_next
  try dsimp only
  repeat' first | with_reducible assumption | with_reducible apply whenRunning_keeps | with_reducible apply tpIssue_keeps | with_reducible apply issueWhen_keeps | with_reducible apply advance_keeps | with_reducible apply releaseBufs_keeps | (with_reducible apply keeps_foldl) | (with_reducible intro _ _ _) | (intro g; exact getTile_wf (by assumption) _ g) | with_reducible apply getTile_wf | with_reducible apply keeps_ite_snd | with_reducible apply keeps_ite_fst | split | (with_reducible intro _) | (dsimp only) | (with_reducible refine keeps_fst ?_ (by with_reducible assumption)) | (with_reducible refine keeps_snd ?_ (by with_reducible assumption)) | (with_reducible refine keeps_opt ?_ (by with_reducible assumption)) | with_reducible exact opt_none | with_reducible apply opt_some | (with_reducible apply tile_foldl) | (with_reducible refine tile_mk ?_ rfl)

theorem execSwrt_keeps {s₀ s : State} (hk : Keeps s₀ s) (t : TileId) (q : Fin 2) : OutKeeps s₀ (execSwrt t q s) := by
  unfold execSwrt
  first | apply whenRunning_keeps hk | apply out_next
  try dsimp only
  repeat' first | with_reducible assumption | with_reducible apply whenRunning_keeps | with_reducible apply tpIssue_keeps | with_reducible apply issueWhen_keeps | with_reducible apply advance_keeps | with_reducible apply markWritten_keeps | (with_reducible apply keeps_foldl) | (with_reducible intro _ _ _) | (intro g; exact getTile_wf (by assumption) _ g) | with_reducible apply getTile_wf | with_reducible apply keeps_ite_snd | with_reducible apply keeps_ite_fst | split | (with_reducible intro _) | (dsimp only) | (with_reducible refine keeps_fst ?_ (by with_reducible assumption)) | (with_reducible refine keeps_snd ?_ (by with_reducible assumption)) | (with_reducible refine keeps_opt ?_ (by with_reducible assumption)) | with_reducible exact opt_none | with_reducible apply opt_some | (with_reducible apply tile_foldl) | (with_reducible refine tile_mk ?_ rfl)

theorem execScan_keeps {s₀ s : State} (hk : Keeps s₀ s) (t : TileId) (q : Fin 2) : OutKeeps s₀ (execScan t q s) := by
  unfold execScan
  first | apply whenRunning_keeps hk | apply out_next
  try dsimp only
  repeat' first | with_reducible assumption | with_reducible apply whenRunning_keeps | with_reducible apply tpIssue_keeps | with_reducible apply advance_keeps | with_reducible apply cancelCtx_keeps | with_reducible apply noFold_keeps | (with_reducible apply keeps_foldl) | (with_reducible intro _ _ _) | (intro g; exact getTile_wf (by assumption) _ g) | with_reducible apply getTile_wf | with_reducible apply keeps_ite_snd | with_reducible apply keeps_ite_fst | split | (with_reducible intro _) | (dsimp only) | (with_reducible refine keeps_fst ?_ (by with_reducible assumption)) | (with_reducible refine keeps_snd ?_ (by with_reducible assumption)) | (with_reducible refine keeps_opt ?_ (by with_reducible assumption)) | with_reducible exact opt_none | with_reducible apply opt_some | (with_reducible apply tile_foldl) | (with_reducible refine tile_mk ?_ rfl)

theorem execXwait_keeps {s₀ s : State} (hk : Keeps s₀ s) (t : TileId) (q : Fin 2) : OutKeeps s₀ (execXwait t q s) := by
  unfold execXwait
  first | apply whenRunning_keeps hk | apply out_next
  try dsimp only
  repeat' first | with_reducible assumption | with_reducible apply whenRunning_keeps | with_reducible apply tpIssue_keeps | with_reducible apply issueWhen_keeps | with_reducible apply advance_keeps | (with_reducible apply keeps_foldl) | (with_reducible intro _ _ _) | (intro g; exact getTile_wf (by assumption) _ g) | with_reducible apply keeps_ite_snd | with_reducible apply keeps_ite_fst | split | (with_reducible intro _) | (dsimp only) | (with_reducible refine keeps_fst ?_ (by with_reducible assumption)) | (with_reducible refine keeps_snd ?_ (by with_reducible assumption)) | (with_reducible refine keeps_opt ?_ (by with_reducible assumption)) | with_reducible exact opt_none | with_reducible apply opt_some | (with_reducible apply tile_foldl) | (with_reducible refine tile_mk ?_ rfl)

theorem execTpEnd_keeps {s₀ s : State} (hk : Keeps s₀ s) (t : TileId) (q : Fin 2) : OutKeeps s₀ (execTpEnd t q s) := by
  unfold execTpEnd
  first | apply whenRunning_keeps hk | apply out_next
  try dsimp only
  repeat' first | with_reducible assumption | with_reducible apply whenRunning_keeps | with_reducible apply tpIssue_keeps | with_reducible apply issueWhen_keeps | with_reducible apply showPc_keeps | with_reducible apply modRun_keeps | (with_reducible apply keeps_foldl) | (with_reducible intro _ _ _) | (intro g; exact getTile_wf (by assumption) _ g) | with_reducible apply keeps_ite_snd | with_reducible apply keeps_ite_fst | split | (with_reducible intro _) | (dsimp only) | (with_reducible refine keeps_fst ?_ (by with_reducible assumption)) | (with_reducible refine keeps_snd ?_ (by with_reducible assumption)) | (with_reducible refine keeps_opt ?_ (by with_reducible assumption)) | with_reducible exact opt_none | with_reducible apply opt_some | (with_reducible refine keeps_mk ?_ rfl rfl rfl rfl rfl rfl rfl) | (with_reducible apply tile_foldl) | (with_reducible refine tile_mk ?_ rfl)

theorem execSignal_keeps {s₀ s : State} (hk : Keeps s₀ s) (t : TileId) (q : Fin 2) : OutKeeps s₀ (execSignal t q s) := by
  unfold execSignal
  first | apply whenRunning_keeps hk | apply out_next
  try dsimp only
  repeat' first | with_reducible assumption | with_reducible apply whenRunning_keeps | with_reducible apply tpIssue_keeps | with_reducible apply issueWhen_keeps | with_reducible apply addUnit_keeps | with_reducible apply unitEnded_keeps | with_reducible apply holdTag_keeps | with_reducible apply inject_keeps | with_reducible apply advance_keeps | (with_reducible apply keeps_foldl) | (with_reducible intro _ _ _) | (intro g; exact getTile_wf (by assumption) _ g) | with_reducible apply keeps_ite_snd | with_reducible apply keeps_ite_fst | split | (with_reducible intro _) | (dsimp only) | (with_reducible refine keeps_fst ?_ (by with_reducible assumption)) | (with_reducible refine keeps_snd ?_ (by with_reducible assumption)) | (with_reducible refine keeps_opt ?_ (by with_reducible assumption)) | with_reducible exact opt_none | with_reducible apply opt_some | (with_reducible apply tile_foldl) | (with_reducible refine tile_mk ?_ rfl)

theorem execWait_keeps {s₀ s : State} (hk : Keeps s₀ s) (t : TileId) (q : Fin 2) : OutKeeps s₀ (execWait t q s) := by
  unfold execWait
  first | apply whenRunning_keeps hk | apply out_next
  try dsimp only
  repeat' first | with_reducible assumption | with_reducible apply whenRunning_keeps | with_reducible apply tpIssue_keeps | with_reducible apply issueWhen_keeps | with_reducible apply advance_keeps | (with_reducible apply keeps_foldl) | (with_reducible intro _ _ _) | (intro g; exact getTile_wf (by assumption) _ g) | with_reducible apply keeps_ite_snd | with_reducible apply keeps_ite_fst | split | (with_reducible intro _) | (dsimp only) | (with_reducible refine keeps_fst ?_ (by with_reducible assumption)) | (with_reducible refine keeps_snd ?_ (by with_reducible assumption)) | (with_reducible refine keeps_opt ?_ (by with_reducible assumption)) | with_reducible exact opt_none | with_reducible apply opt_some | (with_reducible apply tile_foldl) | (with_reducible refine tile_mk ?_ rfl)

theorem execChkpt_keeps {s₀ s : State} (hk : Keeps s₀ s) (t : TileId) (q : Fin 2) : OutKeeps s₀ (execChkpt t q s) := by
  unfold execChkpt
  first | apply whenRunning_keeps hk | apply out_next
  try dsimp only
  repeat' first | with_reducible assumption | with_reducible apply whenRunning_keeps | with_reducible apply tpIssue_keeps | with_reducible apply issueWhen_keeps | with_reducible apply wr_keeps | with_reducible apply advance_keeps | with_reducible apply modRun_keeps | (with_reducible apply keeps_foldl) | (with_reducible intro _ _ _) | (intro g; exact getTile_wf (by assumption) _ g) | with_reducible apply getTile_wf | with_reducible apply keeps_ite_snd | with_reducible apply keeps_ite_fst | split | (with_reducible intro _) | (dsimp only) | (with_reducible refine keeps_fst ?_ (by with_reducible assumption)) | (with_reducible refine keeps_snd ?_ (by with_reducible assumption)) | (with_reducible refine keeps_opt ?_ (by with_reducible assumption)) | with_reducible exact opt_none | with_reducible apply opt_some | (with_reducible refine keeps_mk ?_ rfl rfl rfl rfl rfl rfl rfl) | (with_reducible apply tile_foldl) | (with_reducible refine tile_mk ?_ rfl)

theorem execHint_keeps {s₀ s : State} (hk : Keeps s₀ s) (t : TileId) (q : Fin 2) : OutKeeps s₀ (execHint t q s) := by
  unfold execHint
  first | apply whenRunning_keeps hk | apply out_next
  try dsimp only
  repeat' first | with_reducible assumption | with_reducible apply whenRunning_keeps | with_reducible apply tpIssue_keeps | with_reducible apply advance_keeps | with_reducible apply setFld_keeps | with_reducible apply modRun_keeps | (with_reducible apply keeps_foldl) | (with_reducible intro _ _ _) | (intro g; exact getTile_wf (by assumption) _ g) | with_reducible apply keeps_ite_snd | with_reducible apply keeps_ite_fst | split | (with_reducible intro _) | (dsimp only) | (with_reducible refine keeps_fst ?_ (by with_reducible assumption)) | (with_reducible refine keeps_snd ?_ (by with_reducible assumption)) | (with_reducible refine keeps_opt ?_ (by with_reducible assumption)) | with_reducible exact opt_none | with_reducible apply opt_some | (with_reducible refine keeps_mk ?_ rfl rfl rfl rfl rfl rfl rfl) | (with_reducible apply tile_foldl) | (with_reducible refine tile_mk ?_ rfl)

theorem execWaitLimit_keeps {s₀ s : State} (hk : Keeps s₀ s) (t : TileId) (q : Fin 2) : OutKeeps s₀ (execWaitLimit t q s) := by
  unfold execWaitLimit
  first | apply whenRunning_keeps hk | apply out_next
  try dsimp only
  repeat' first | with_reducible assumption | with_reducible apply whenRunning_keeps | with_reducible apply failProgram_keeps | (with_reducible apply keeps_foldl) | (with_reducible intro _ _ _) | (intro g; exact getTile_wf (by assumption) _ g) | with_reducible apply getTile_wf | with_reducible apply keeps_ite_snd | with_reducible apply keeps_ite_fst | split | (with_reducible intro _) | (dsimp only) | (with_reducible refine keeps_fst ?_ (by with_reducible assumption)) | (with_reducible refine keeps_snd ?_ (by with_reducible assumption)) | (with_reducible refine keeps_opt ?_ (by with_reducible assumption)) | with_reducible exact opt_none | with_reducible apply opt_some | (with_reducible apply tile_foldl) | (with_reducible refine tile_mk ?_ rfl)

theorem execLaunchCommit_keeps {s₀ s : State} (hk : Keeps s₀ s) (t : TileId) (q : Fin 2) (net : BitVec 8) : OutKeeps s₀ (execLaunchCommit t q net s) := by
  unfold execLaunchCommit
  first | apply whenRunning_keeps hk | apply out_next
  try dsimp only
  repeat' first | with_reducible assumption | with_reducible apply whenRunning_keeps | with_reducible apply setQState_keeps | with_reducible apply setRun_keeps | with_reducible apply modTile_keeps | with_reducible apply setFld_keeps | with_reducible apply setCqRecs_keeps | with_reducible apply writeFirst_keeps | with_reducible apply refreshCq_keeps | (with_reducible apply keeps_foldl) | (with_reducible intro _ _ _) | (intro g; exact getTile_wf (by assumption) _ g) | with_reducible apply getTile_wf | with_reducible apply keeps_ite_snd | with_reducible apply keeps_ite_fst | split | (with_reducible intro _) | (dsimp only) | (with_reducible refine keeps_fst ?_ (by with_reducible assumption)) | (with_reducible refine keeps_snd ?_ (by with_reducible assumption)) | (with_reducible refine keeps_opt ?_ (by with_reducible assumption)) | with_reducible exact opt_none | with_reducible apply opt_some | (with_reducible refine keeps_mk ?_ rfl rfl rfl rfl rfl rfl rfl) | (with_reducible apply tile_foldl) | (with_reducible refine tile_mk ?_ rfl)

theorem abortReply_keeps {s₀ s : State} (hk : Keeps s₀ s) (t : TileId) (id : Nat) (r : Status) : Keeps s₀ (abortReply s t id r) := by
  unfold abortReply
  try dsimp only
  repeat' first | with_reducible assumption | with_reducible apply wr_keeps | (with_reducible apply keeps_foldl) | (with_reducible intro _ _ _) | (intro g; exact getTile_wf (by assumption) _ g) | with_reducible apply keeps_ite_snd | with_reducible apply keeps_ite_fst | split | (with_reducible intro _) | (dsimp only) | (with_reducible refine keeps_fst ?_ (by with_reducible assumption)) | (with_reducible refine keeps_snd ?_ (by with_reducible assumption)) | (with_reducible refine keeps_opt ?_ (by with_reducible assumption)) | with_reducible exact opt_none | with_reducible apply opt_some | (with_reducible apply tile_foldl) | (with_reducible refine tile_mk ?_ rfl)

theorem abortNumber_keeps {s₀ s : State} (hk : Keeps s₀ s) (t : TileId) (id : Nat) : Keeps s₀ (abortNumber s t id).2 := by
  unfold abortNumber
  extract_lets x back
  refine keeps_ite_snd hk ?_
  split
  · split
    · exact hk
    · exact keeps_ite_snd hk (abortPass_keeps hk _ _ _ _)
  · refine keeps_ite_snd ?_ hk
    split
    · exact hk
    · exact endKernel_keeps hk _ _
  · exact hk

theorem abortUnitWrite_keeps {s₀ s : State} (hk : Keeps s₀ s) (t : TileId) (id : Nat) : Keeps s₀ (abortUnitWrite s t id) := by
  unfold abortUnitWrite
  try dsimp only
  repeat' first | with_reducible assumption | with_reducible apply abortNumber_keeps | with_reducible apply abortReply_keeps | (with_reducible apply keeps_foldl) | (with_reducible intro _ _ _) | (intro g; exact getTile_wf (by assumption) _ g) | with_reducible apply keeps_ite_snd | with_reducible apply keeps_ite_fst | split | (with_reducible intro _) | (dsimp only) | (with_reducible refine keeps_fst ?_ (by with_reducible assumption)) | (with_reducible refine keeps_snd ?_ (by with_reducible assumption)) | (with_reducible refine keeps_opt ?_ (by with_reducible assumption)) | with_reducible exact opt_none | with_reducible apply opt_some | (with_reducible apply tile_foldl) | (with_reducible refine tile_mk ?_ rfl)

theorem execAbortUnit_keeps {s₀ s : State} (hk : Keeps s₀ s) (t : TileId) (id : BitVec 32) : OutKeeps s₀ (execAbortUnit t id s) := by
  unfold execAbortUnit
  first | apply whenRunning_keeps hk | apply out_next
  try dsimp only
  repeat' first | with_reducible assumption | with_reducible apply whenRunning_keeps | with_reducible apply abortUnitWrite_keeps | (with_reducible apply keeps_foldl) | (with_reducible intro _ _ _) | (intro g; exact getTile_wf (by assumption) _ g) | with_reducible apply keeps_ite_snd | with_reducible apply keeps_ite_fst | split | (with_reducible intro _) | (dsimp only) | (with_reducible refine keeps_fst ?_ (by with_reducible assumption)) | (with_reducible refine keeps_snd ?_ (by with_reducible assumption)) | (with_reducible refine keeps_opt ?_ (by with_reducible assumption)) | with_reducible exact opt_none | with_reducible apply opt_some | (with_reducible apply tile_foldl) | (with_reducible refine tile_mk ?_ rfl)

theorem abortProgram_keeps {s₀ s : State} (hk : Keeps s₀ s) (t : TileId) (q : Nat) (l : Launch) : Keeps s₀ (abortProgram s t q l) := by
  unfold abortProgram
  try dsimp only
  repeat' first | with_reducible assumption | with_reducible apply setRun_keeps | with_reducible apply modTile_keeps | with_reducible apply abortPass_keeps | with_reducible apply endKernel_keeps | with_reducible apply cancelQueue_keeps | (with_reducible apply keeps_foldl) | (with_reducible intro _ _ _) | (intro g; exact getTile_wf (by assumption) _ g) | with_reducible apply getTile_wf | with_reducible apply keeps_ite_snd | with_reducible apply keeps_ite_fst | split | (with_reducible intro _) | (dsimp only) | (with_reducible refine keeps_fst ?_ (by with_reducible assumption)) | (with_reducible refine keeps_snd ?_ (by with_reducible assumption)) | (with_reducible refine keeps_opt ?_ (by with_reducible assumption)) | with_reducible exact opt_none | with_reducible apply opt_some | (with_reducible refine keeps_mk ?_ rfl rfl rfl rfl rfl rfl rfl) | (with_reducible apply tile_foldl) | (with_reducible refine tile_mk ?_ rfl)

theorem abortQueued_keeps {s₀ s : State} (hk : Keeps s₀ s) (t : TileId) (q : Nat) (pos : Nat) (net : Status) : Keeps s₀ (abortQueued s t q pos net).2 := by
  unfold abortQueued
  try dsimp only
  repeat' first | with_reducible assumption | with_reducible apply seqWrite_keeps | (with_reducible apply keeps_foldl) | (with_reducible intro _ _ _) | (intro g; exact getTile_wf (by assumption) _ g) | with_reducible apply keeps_ite_snd | with_reducible apply keeps_ite_fst | split | (with_reducible intro _) | (dsimp only) | (with_reducible refine keeps_fst ?_ (by with_reducible assumption)) | (with_reducible refine keeps_snd ?_ (by with_reducible assumption)) | (with_reducible refine keeps_opt ?_ (by with_reducible assumption)) | with_reducible exact opt_none | with_reducible apply opt_some | (with_reducible apply tile_foldl) | (with_reducible refine tile_mk ?_ rfl)

theorem abortPosition_keeps {s₀ s : State} (hk : Keeps s₀ s) (t : TileId) (q pos : Nat) (net : Status) :
    Keeps s₀ (abortPosition s t q pos net).2 := by
  unfold abortPosition
  extract_lets d
  refine keeps_ite_snd hk (keeps_ite_snd (abortQueued_keeps hk _ _ _ _) ?_)
  split
  · exact keeps_ite_snd (abortProgram_keeps hk _ _ _) hk
  · exact hk

theorem abortLaunchWrite_keeps {s₀ s : State} (hk : Keeps s₀ s) (t : TileId) (q : Nat) (pos : Nat) (net : Status) : Keeps s₀ (abortLaunchWrite s t q pos net) := by
  unfold abortLaunchWrite
  try dsimp only
  repeat' first | with_reducible assumption | with_reducible apply abortPosition_keeps | with_reducible apply awaitAck_keeps | with_reducible apply abortReply_keeps | (with_reducible apply keeps_foldl) | (with_reducible intro _ _ _) | (intro g; exact getTile_wf (by assumption) _ g) | with_reducible apply keeps_ite_snd | with_reducible apply keeps_ite_fst | split | (with_reducible intro _) | (dsimp only) | (with_reducible refine keeps_fst ?_ (by with_reducible assumption)) | (with_reducible refine keeps_snd ?_ (by with_reducible assumption)) | (with_reducible refine keeps_opt ?_ (by with_reducible assumption)) | with_reducible exact opt_none | with_reducible apply opt_some | (with_reducible apply tile_foldl) | (with_reducible refine tile_mk ?_ rfl)

theorem execAbortLaunch_keeps {s₀ s : State} (hk : Keeps s₀ s) (t : TileId) (q : Fin 2) (pos : BitVec 32) (net : BitVec 8) : OutKeeps s₀ (execAbortLaunch t q pos net s) := by
  unfold execAbortLaunch
  first | apply whenRunning_keeps hk | apply out_next
  try dsimp only
  repeat' first | with_reducible assumption | with_reducible apply whenRunning_keeps | with_reducible apply abortLaunchWrite_keeps | (with_reducible apply keeps_foldl) | (with_reducible intro _ _ _) | (intro g; exact getTile_wf (by assumption) _ g) | with_reducible apply keeps_ite_snd | with_reducible apply keeps_ite_fst | split | (with_reducible intro _) | (dsimp only) | (with_reducible refine keeps_fst ?_ (by with_reducible assumption)) | (with_reducible refine keeps_snd ?_ (by with_reducible assumption)) | (with_reducible refine keeps_opt ?_ (by with_reducible assumption)) | with_reducible exact opt_none | with_reducible apply opt_some | (with_reducible apply tile_foldl) | (with_reducible refine tile_mk ?_ rfl)

theorem execPreempt_keeps {s₀ s : State} (hk : Keeps s₀ s) (t : TileId) : OutKeeps s₀ (execPreempt t s) := by
  unfold execPreempt
  first | apply whenRunning_keeps hk | apply out_next
  try dsimp only
  repeat' first | with_reducible assumption | with_reducible apply whenRunning_keeps | with_reducible apply modTile_keeps | with_reducible apply setFlag_keeps | (with_reducible apply keeps_foldl) | (with_reducible intro _ _ _) | (intro g; exact getTile_wf (by assumption) _ g) | with_reducible apply getTile_wf | with_reducible apply keeps_ite_snd | with_reducible apply keeps_ite_fst | split | (with_reducible intro _) | (dsimp only) | (with_reducible refine keeps_fst ?_ (by with_reducible assumption)) | (with_reducible refine keeps_snd ?_ (by with_reducible assumption)) | (with_reducible refine keeps_opt ?_ (by with_reducible assumption)) | with_reducible exact opt_none | with_reducible apply opt_some | (with_reducible refine keeps_mk ?_ rfl rfl rfl rfl rfl rfl rfl) | (with_reducible apply tile_foldl) | (with_reducible refine tile_mk ?_ rfl)

theorem execSuspend_keeps {s₀ s : State} (hk : Keeps s₀ s) (t : TileId) : OutKeeps s₀ (execSuspend t s) := by
  unfold execSuspend
  first | apply whenRunning_keeps hk | apply out_next
  try dsimp only
  repeat' first | with_reducible assumption | with_reducible apply whenRunning_keeps | with_reducible apply setTile_keeps | with_reducible apply setQState_keeps | with_reducible apply setRun_keeps | (with_reducible apply keeps_foldl) | (with_reducible intro _ _ _) | (intro g; exact getTile_wf (by assumption) _ g) | with_reducible apply getTile_wf | with_reducible apply keeps_ite_snd | with_reducible apply keeps_ite_fst | split | (with_reducible intro _) | (dsimp only) | (with_reducible refine keeps_fst ?_ (by with_reducible assumption)) | (with_reducible refine keeps_snd ?_ (by with_reducible assumption)) | (with_reducible refine keeps_opt ?_ (by with_reducible assumption)) | with_reducible exact opt_none | with_reducible apply opt_some | (with_reducible refine keeps_mk ?_ rfl rfl rfl rfl rfl rfl rfl) | (with_reducible apply tile_foldl) | (with_reducible refine tile_mk ?_ rfl)

theorem restartTimers_keeps {s₀ s : State} (hk : Keeps s₀ s) (t : TileId) (q : Nat) : Keeps s₀ (restartTimers s t q) := by
  unfold restartTimers
  try dsimp only
  repeat' first | with_reducible assumption | with_reducible apply putStream_keeps | (with_reducible apply keeps_foldl) | (with_reducible intro _ _ _) | (intro g; exact getTile_wf (by assumption) _ g) | with_reducible apply getTile_wf | with_reducible apply keeps_ite_snd | with_reducible apply keeps_ite_fst | split | (with_reducible intro _) | (dsimp only) | (with_reducible refine keeps_fst ?_ (by with_reducible assumption)) | (with_reducible refine keeps_snd ?_ (by with_reducible assumption)) | (with_reducible refine keeps_opt ?_ (by with_reducible assumption)) | with_reducible exact opt_none | with_reducible apply opt_some | (with_reducible apply tile_foldl) | (with_reducible refine tile_mk ?_ rfl)

theorem execProgramResume_keeps {s₀ s : State} (hk : Keeps s₀ s) (t : TileId) : OutKeeps s₀ (execProgramResume t s) := by
  unfold execProgramResume
  first | apply whenRunning_keeps hk | apply out_next
  try dsimp only
  repeat' first | with_reducible assumption | with_reducible apply whenRunning_keeps | with_reducible apply setFld_keeps | with_reducible apply setRun_keeps | with_reducible apply restartTimers_keeps | with_reducible apply setQState_keeps | (with_reducible apply keeps_foldl) | (with_reducible intro _ _ _) | (intro g; exact getTile_wf (by assumption) _ g) | with_reducible apply getTile_wf | with_reducible apply keeps_ite_snd | with_reducible apply keeps_ite_fst | split | (with_reducible intro _) | (dsimp only) | (with_reducible refine keeps_fst ?_ (by with_reducible assumption)) | (with_reducible refine keeps_snd ?_ (by with_reducible assumption)) | (with_reducible refine keeps_opt ?_ (by with_reducible assumption)) | with_reducible exact opt_none | with_reducible apply opt_some | (with_reducible refine keeps_mk ?_ rfl rfl rfl rfl rfl rfl rfl) | (with_reducible apply tile_foldl) | (with_reducible refine tile_mk ?_ rfl)

theorem clearForRestart_keeps {s₀ s : State} (hk : Keeps s₀ s) (t : TileId) : Keeps s₀ (clearForRestart s t) := by
  unfold clearForRestart
  try dsimp only
  repeat' first | with_reducible assumption | with_reducible apply setFlag_keeps | with_reducible apply modTile_keeps | (with_reducible apply keeps_foldl) | (with_reducible intro _ _ _) | (intro g; exact getTile_wf (by assumption) _ g) | with_reducible apply getTile_wf | with_reducible apply clearRange_wf | with_reducible apply keeps_ite_snd | with_reducible apply keeps_ite_fst | split | (with_reducible intro _) | (dsimp only) | (with_reducible refine keeps_fst ?_ (by with_reducible assumption)) | (with_reducible refine keeps_snd ?_ (by with_reducible assumption)) | (with_reducible refine keeps_opt ?_ (by with_reducible assumption)) | with_reducible exact opt_none | with_reducible apply opt_some | (with_reducible apply tile_foldl) | (with_reducible refine tile_mk ?_ rfl)

theorem restartAt_keeps {s₀ s : State} (hk : Keeps s₀ s) (t : TileId) (q : Nat) (f : Launch → Launch) : Keeps s₀ (restartAt s t q f) := by
  unfold restartAt
  try dsimp only
  repeat' first | with_reducible assumption | with_reducible apply clearForRestart_keeps | with_reducible apply modRun_keeps | with_reducible apply reach_keeps | with_reducible apply showPc_keeps | with_reducible apply setQState_keeps | (with_reducible apply keeps_foldl) | (with_reducible intro _ _ _) | (intro g; exact getTile_wf (by assumption) _ g) | with_reducible apply getTile_wf | with_reducible apply keeps_ite_snd | with_reducible apply keeps_ite_fst | split | (with_reducible intro _) | (dsimp only) | (with_reducible refine keeps_fst ?_ (by with_reducible assumption)) | (with_reducible refine keeps_snd ?_ (by with_reducible assumption)) | (with_reducible refine keeps_opt ?_ (by with_reducible assumption)) | with_reducible exact opt_none | with_reducible apply opt_some | (with_reducible refine keeps_mk ?_ rfl rfl rfl rfl rfl rfl rfl) | (with_reducible apply tile_foldl) | (with_reducible refine tile_mk ?_ rfl)

theorem execProgramRestart_keeps {s₀ s : State} (hk : Keeps s₀ s) (t : TileId) (q : Fin 2) : OutKeeps s₀ (execProgramRestart t q s) := by
  unfold execProgramRestart
  first | apply whenRunning_keeps hk | apply out_next
  try dsimp only
  repeat' first | with_reducible assumption | with_reducible apply whenRunning_keeps | with_reducible apply restartAt_keeps | with_reducible apply setFlag_keeps | with_reducible apply failProgram_keeps | with_reducible apply setRun_keeps | (with_reducible apply keeps_foldl) | (with_reducible intro _ _ _) | (intro g; exact getTile_wf (by assumption) _ g) | with_reducible apply getTile_wf | with_reducible apply keeps_ite_snd | with_reducible apply keeps_ite_fst | split | (with_reducible intro _) | (dsimp only) | (with_reducible refine keeps_fst ?_ (by with_reducible assumption)) | (with_reducible refine keeps_snd ?_ (by with_reducible assumption)) | (with_reducible refine keeps_opt ?_ (by with_reducible assumption)) | with_reducible exact opt_none | with_reducible apply opt_some | (with_reducible refine keeps_mk ?_ rfl rfl rfl rfl rfl rfl rfl) | (with_reducible apply tile_foldl) | (with_reducible refine tile_mk ?_ rfl)

theorem loseCompute_keeps {s₀ s : State} (hk : Keeps s₀ s) (t : TileId) : Keeps s₀ (loseCompute s t) := by
  unfold loseCompute
  try dsimp only
  repeat' first | with_reducible assumption | with_reducible apply modTile_keeps | with_reducible apply setFlag_keeps | (with_reducible apply keeps_foldl) | (with_reducible intro _ _ _) | (intro g; exact getTile_wf (by assumption) _ g) | with_reducible apply keeps_ite_snd | with_reducible apply keeps_ite_fst | split | (with_reducible intro _) | (dsimp only) | (with_reducible refine keeps_fst ?_ (by with_reducible assumption)) | (with_reducible refine keeps_snd ?_ (by with_reducible assumption)) | (with_reducible refine keeps_opt ?_ (by with_reducible assumption)) | with_reducible exact opt_none | with_reducible apply opt_some | (with_reducible refine keeps_mk ?_ rfl rfl rfl rfl rfl rfl rfl) | (with_reducible apply tile_foldl) | (with_reducible refine tile_mk ?_ rfl)

theorem execPowerDomainOff_keeps {s₀ s : State} (hk : Keeps s₀ s) (t : TileId) : OutKeeps s₀ (execPowerDomainOff t s) := by
  unfold execPowerDomainOff
  first | apply whenRunning_keeps hk | apply out_next
  try dsimp only
  repeat' first | with_reducible assumption | with_reducible apply whenRunning_keeps | with_reducible apply setFld_keeps | with_reducible apply loseCompute_keeps | (with_reducible apply keeps_foldl) | (with_reducible intro _ _ _) | (intro g; exact getTile_wf (by assumption) _ g) | with_reducible apply getTile_wf | with_reducible apply keeps_ite_snd | with_reducible apply keeps_ite_fst | split | (with_reducible intro _) | (dsimp only) | (with_reducible refine keeps_fst ?_ (by with_reducible assumption)) | (with_reducible refine keeps_snd ?_ (by with_reducible assumption)) | (with_reducible refine keeps_opt ?_ (by with_reducible assumption)) | with_reducible exact opt_none | with_reducible apply opt_some | (with_reducible apply tile_foldl) | (with_reducible refine tile_mk ?_ rfl)

theorem execPowerDomainWake_keeps {s₀ s : State} (hk : Keeps s₀ s) (t : TileId) : OutKeeps s₀ (execPowerDomainWake t s) := by
  unfold execPowerDomainWake
  first | apply whenRunning_keeps hk | apply out_next
  try dsimp only
  repeat' first | with_reducible assumption | with_reducible apply whenRunning_keeps | with_reducible apply setTile_keeps | with_reducible apply setFld_keeps | (with_reducible apply keeps_foldl) | (with_reducible intro _ _ _) | (intro g; exact getTile_wf (by assumption) _ g) | with_reducible apply getTile_wf | with_reducible apply keeps_ite_snd | with_reducible apply keeps_ite_fst | split | (with_reducible intro _) | (dsimp only) | (with_reducible refine keeps_fst ?_ (by with_reducible assumption)) | (with_reducible refine keeps_snd ?_ (by with_reducible assumption)) | (with_reducible refine keeps_opt ?_ (by with_reducible assumption)) | with_reducible exact opt_none | with_reducible apply opt_some | (with_reducible refine keeps_mk ?_ rfl rfl rfl rfl rfl rfl rfl) | (with_reducible apply tile_foldl) | (with_reducible refine tile_mk ?_ rfl)

end Sys2Proof.Machine
end

