-- ==== Sys2Proof/Laws/KeepQueue.lean ====
section
/-! SUPPORT. What the operations of Machine/Queue.lean keep (see Laws/Keep.lean). -/

namespace Sys2Proof.Machine
open Sys2Proof

theorem putQc_keeps {s₀ s : State} (hk : Keeps s₀ s) (d : Fin 4) (q : Nat) (x : QCtl) : Keeps s₀ (putQc s d q x) := by
  unfold putQc
  try dsimp only
  repeat' first | with_reducible assumption | with_reducible apply setFld_keeps | with_reducible apply setFlag_keeps | (with_reducible apply keeps_foldl) | (with_reducible intro _ _ _) | (intro g; exact getTile_wf (by assumption) _ g) | with_reducible apply keeps_ite_snd | with_reducible apply keeps_ite_fst | split | (with_reducible intro _) | (dsimp only) | (with_reducible refine keeps_fst ?_ (by with_reducible assumption)) | (with_reducible refine keeps_snd ?_ (by with_reducible assumption)) | (with_reducible refine keeps_opt ?_ (by with_reducible assumption)) | with_reducible exact opt_none | with_reducible apply opt_some | (with_reducible refine keeps_mk ?_ rfl rfl rfl rfl rfl rfl rfl) | (with_reducible apply tile_foldl) | (with_reducible refine tile_mk ?_ rfl)

theorem thrStep_keeps {s₀ s : State} (hk : Keeps s₀ s) (d : Fin 4) (q : Nat) (old : Nat) (new : Nat) : Keeps s₀ (thrStep s d q old new) := by
  unfold thrStep
  try dsimp only
  repeat' first | with_reducible assumption | with_reducible apply setFlag_keeps | with_reducible apply raiseIrq_keeps | (with_reducible apply keeps_foldl) | (with_reducible intro _ _ _) | (intro g; exact getTile_wf (by assumption) _ g) | with_reducible apply keeps_ite_snd | with_reducible apply keeps_ite_fst | split | (with_reducible intro _) | (dsimp only) | (with_reducible refine keeps_fst ?_ (by with_reducible assumption)) | (with_reducible refine keeps_snd ?_ (by with_reducible assumption)) | (with_reducible refine keeps_opt ?_ (by with_reducible assumption)) | with_reducible exact opt_none | with_reducible apply opt_some | (with_reducible apply tile_foldl) | (with_reducible refine tile_mk ?_ rfl)

theorem putWrite_keeps {s₀ s : State} (hk : Keeps s₀ s) (d : Fin 4) (q : Nat) (x : QCtl) : Keeps s₀ (putWrite s d q x) := by
  unfold putWrite
  try dsimp only
  repeat' first | with_reducible assumption | with_reducible apply thrStep_keeps | with_reducible apply putQc_keeps | (with_reducible apply keeps_foldl) | (with_reducible intro _ _ _) | (intro g; exact getTile_wf (by assumption) _ g) | with_reducible apply keeps_ite_snd | with_reducible apply keeps_ite_fst | split | (with_reducible intro _) | (dsimp only) | (with_reducible refine keeps_fst ?_ (by with_reducible assumption)) | (with_reducible refine keeps_snd ?_ (by with_reducible assumption)) | (with_reducible refine keeps_opt ?_ (by with_reducible assumption)) | with_reducible exact opt_none | with_reducible apply opt_some | (with_reducible refine keeps_mk ?_ rfl rfl rfl rfl rfl rfl rfl) | (with_reducible apply tile_foldl) | (with_reducible refine tile_mk ?_ rfl)

theorem qcTell_keeps {s₀ s : State} (hk : Keeps s₀ s) (d : Fin 4) (q : Fin 512) (peer : Word) (p : Packet) : Keeps s₀ (qcTell s d q peer p) := by
  unfold qcTell
  try dsimp only
  repeat' first | with_reducible assumption | with_reducible apply sendPkt_keeps | (with_reducible apply keeps_foldl) | (with_reducible intro _ _ _) | (intro g; exact getTile_wf (by assumption) _ g) | with_reducible apply keeps_ite_snd | with_reducible apply keeps_ite_fst | split | (with_reducible intro _) | (dsimp only) | (with_reducible refine keeps_fst ?_ (by with_reducible assumption)) | (with_reducible refine keeps_snd ?_ (by with_reducible assumption)) | (with_reducible refine keeps_opt ?_ (by with_reducible assumption)) | with_reducible exact opt_none | with_reducible apply opt_some | (with_reducible refine keeps_mk ?_ rfl rfl rfl rfl rfl rfl rfl) | (with_reducible apply tile_foldl) | (with_reducible refine tile_mk ?_ rfl)

theorem qcClose_keeps {s₀ s : State} (hk : Keeps s₀ s) (d : Fin 4) (q : Nat) (status : Status) : Keeps s₀ (qcClose s d q status) := by
  unfold qcClose
  try dsimp only
  repeat' first | with_reducible assumption | with_reducible apply setFlag_keeps | with_reducible apply setFld_keeps | (with_reducible apply keeps_foldl) | (with_reducible intro _ _ _) | (intro g; exact getTile_wf (by assumption) _ g) | with_reducible apply keeps_ite_snd | with_reducible apply keeps_ite_fst | split | (with_reducible intro _) | (dsimp only) | (with_reducible refine keeps_fst ?_ (by with_reducible assumption)) | (with_reducible refine keeps_snd ?_ (by with_reducible assumption)) | (with_reducible refine keeps_opt ?_ (by with_reducible assumption)) | with_reducible exact opt_none | with_reducible apply opt_some | (with_reducible apply tile_foldl) | (with_reducible refine tile_mk ?_ rfl)

theorem qcTryGrant_keeps {s₀ s : State} (hk : Keeps s₀ s) (d : Fin 4) (q : Fin 512) : Keeps s₀ (qcTryGrant s d q) := by
  unfold qcTryGrant
  try dsimp only
  repeat' first | with_reducible assumption | with_reducible apply putQc_keeps | with_reducible apply setFlag_keeps | with_reducible apply qcTell_keeps | (with_reducible apply keeps_foldl) | (with_reducible intro _ _ _) | (intro g; exact getTile_wf (by assumption) _ g) | with_reducible apply keeps_ite_snd | with_reducible apply keeps_ite_fst | split | (with_reducible intro _) | (dsimp only) | (with_reducible refine keeps_fst ?_ (by with_reducible assumption)) | (with_reducible refine keeps_snd ?_ (by with_reducible assumption)) | (with_reducible refine keeps_opt ?_ (by with_reducible assumption)) | with_reducible exact opt_none | with_reducible apply opt_some | (with_reducible refine keeps_mk ?_ rfl rfl rfl rfl rfl rfl rfl) | (with_reducible apply tile_foldl) | (with_reducible refine tile_mk ?_ rfl)

theorem qcHangUp_keeps {s₀ s : State} (hk : Keeps s₀ s) (d : Fin 4) (q : Fin 512) : Keeps s₀ (qcHangUp s d q) := by
  unfold qcHangUp
  try dsimp only
  repeat' first | with_reducible assumption | with_reducible apply qcTell_keeps | with_reducible apply qcClose_keeps | (with_reducible apply keeps_foldl) | (with_reducible intro _ _ _) | (intro g; exact getTile_wf (by assumption) _ g) | with_reducible apply keeps_ite_snd | with_reducible apply keeps_ite_fst | split | (with_reducible intro _) | (dsimp only) | (with_reducible refine keeps_fst ?_ (by with_reducible assumption)) | (with_reducible refine keeps_snd ?_ (by with_reducible assumption)) | (with_reducible refine keeps_opt ?_ (by with_reducible assumption)) | with_reducible exact opt_none | with_reducible apply opt_some | (with_reducible apply tile_foldl) | (with_reducible refine tile_mk ?_ rfl)

theorem qcOff_keeps {s₀ s : State} (hk : Keeps s₀ s) (d : Fin 4) (q : Fin 512) : Keeps s₀ (qcOff s d q) := by
  unfold qcOff
  try dsimp only
  repeat' first | with_reducible assumption | with_reducible apply putQc_keeps | with_reducible apply qcHangUp_keeps | with_reducible apply setFlag_keeps | (with_reducible apply keeps_foldl) | (with_reducible intro _ _ _) | (intro g; exact getTile_wf (by assumption) _ g) | with_reducible apply keeps_ite_snd | with_reducible apply keeps_ite_fst | split | (with_reducible intro _) | (dsimp only) | (with_reducible refine keeps_fst ?_ (by with_reducible assumption)) | (with_reducible refine keeps_snd ?_ (by with_reducible assumption)) | (with_reducible refine keeps_opt ?_ (by with_reducible assumption)) | with_reducible exact opt_none | with_reducible apply opt_some | (with_reducible apply tile_foldl) | (with_reducible refine tile_mk ?_ rfl)

theorem qcAsk_keeps {s₀ s : State} (hk : Keeps s₀ s) (d : Fin 4) (q : Fin 512) : Keeps s₀ (qcAsk s d q) := by
  unfold qcAsk
  try dsimp only
  repeat' first | with_reducible assumption | with_reducible apply putQc_keeps | with_reducible apply qcTell_keeps | with_reducible apply holdTag_keeps | with_reducible apply qcClose_keeps | (with_reducible apply keeps_foldl) | (with_reducible intro _ _ _) | (intro g; exact getTile_wf (by assumption) _ g) | with_reducible apply keeps_ite_snd | with_reducible apply keeps_ite_fst | split | (with_reducible intro _) | (dsimp only) | (with_reducible refine keeps_fst ?_ (by with_reducible assumption)) | (with_reducible refine keeps_snd ?_ (by with_reducible assumption)) | (with_reducible refine keeps_opt ?_ (by with_reducible assumption)) | with_reducible exact opt_none | with_reducible apply opt_some | (with_reducible refine keeps_mk ?_ rfl rfl rfl rfl rfl rfl rfl) | (with_reducible apply tile_foldl) | (with_reducible refine tile_mk ?_ rfl)

theorem qcStart_keeps {s₀ s : State} (hk : Keeps s₀ s) (d : Fin 4) (q : Fin 512) : Keeps s₀ (qcStart s d q) := by
  unfold qcStart
  try dsimp only
  repeat' first | with_reducible assumption | with_reducible apply qcAsk_keeps | with_reducible apply setFlag_keeps | with_reducible apply putQc_keeps | (with_reducible apply keeps_foldl) | (with_reducible intro _ _ _) | (intro g; exact getTile_wf (by assumption) _ g) | with_reducible apply keeps_ite_snd | with_reducible apply keeps_ite_fst | split | (with_reducible intro _) | (dsimp only) | (with_reducible refine keeps_fst ?_ (by with_reducible assumption)) | (with_reducible refine keeps_snd ?_ (by with_reducible assumption)) | (with_reducible refine keeps_opt ?_ (by with_reducible assumption)) | with_reducible exact opt_none | with_reducible apply opt_some | (with_reducible apply tile_foldl) | (with_reducible refine tile_mk ?_ rfl)

theorem writeQcCfg_keeps {s₀ s : State} (hk : Keeps s₀ s) (d : Fin 4) (q : Fin 512) (v : Word) : Keeps s₀ (writeQcCfg s d q v) := by
  unfold writeQcCfg
  try dsimp only
  repeat' first | with_reducible assumption | with_reducible apply setFlag_keeps | with_reducible apply plainWrite_keeps | with_reducible apply qcOff_keeps | with_reducible apply qcStart_keeps | (with_reducible apply keeps_foldl) | (with_reducible intro _ _ _) | (intro g; exact getTile_wf (by assumption) _ g) | with_reducible apply keeps_ite_snd | with_reducible apply keeps_ite_fst | split | (with_reducible intro _) | (dsimp only) | (with_reducible refine keeps_fst ?_ (by with_reducible assumption)) | (with_reducible refine keeps_snd ?_ (by with_reducible assumption)) | (with_reducible refine keeps_opt ?_ (by with_reducible assumption)) | with_reducible exact opt_none | with_reducible apply opt_some | (with_reducible apply tile_foldl) | (with_reducible refine tile_mk ?_ rfl)

theorem writeQcReg_keeps {s₀ s : State} (hk : Keeps s₀ s) (n : RegName) (d : Fin 4) (q : Fin 512) (off : Nat) (v : Word) : Keeps s₀ (writeQcReg s n d q off v) := by
  unfold writeQcReg
  try dsimp only
  repeat' first | with_reducible assumption | with_reducible apply plainWrite_keeps | (with_reducible apply keeps_foldl) | (with_reducible intro _ _ _) | (intro g; exact getTile_wf (by assumption) _ g) | with_reducible apply keeps_ite_snd | with_reducible apply keeps_ite_fst | split | (with_reducible intro _) | (dsimp only) | (with_reducible refine keeps_fst ?_ (by with_reducible assumption)) | (with_reducible refine keeps_snd ?_ (by with_reducible assumption)) | (with_reducible refine keeps_opt ?_ (by with_reducible assumption)) | with_reducible exact opt_none | with_reducible apply opt_some | (with_reducible apply tile_foldl) | (with_reducible refine tile_mk ?_ rfl)

theorem execQcEnable_keeps {s₀ s : State} (hk : Keeps s₀ s) (d : Fin 4) (qc : Fin 512) (v : Word) : OutKeeps s₀ (execQcEnable d qc v s) := by
  unfold execQcEnable
  first | apply whenRunning_keeps hk | apply out_next
  try dsimp only
  repeat' first | with_reducible assumption | with_reducible apply whenRunning_keeps | with_reducible apply writeQcCfg_keeps | (with_reducible apply keeps_foldl) | (with_reducible intro _ _ _) | (intro g; exact getTile_wf (by assumption) _ g) | with_reducible apply keeps_ite_snd | with_reducible apply keeps_ite_fst | split | (with_reducible intro _) | (dsimp only) | (with_reducible refine keeps_fst ?_ (by with_reducible assumption)) | (with_reducible refine keeps_snd ?_ (by with_reducible assumption)) | (with_reducible refine keeps_opt ?_ (by with_reducible assumption)) | with_reducible exact opt_none | with_reducible apply opt_some | (with_reducible apply tile_foldl) | (with_reducible refine tile_mk ?_ rfl)

theorem execQcDisable_keeps {s₀ s : State} (hk : Keeps s₀ s) (d : Fin 4) (qc : Fin 512) : OutKeeps s₀ (execQcDisable d qc s) := by
  unfold execQcDisable
  first | apply whenRunning_keeps hk | apply out_next
  try dsimp only
  repeat' first | with_reducible assumption | with_reducible apply whenRunning_keeps | with_reducible apply qcOff_keeps | (with_reducible apply keeps_foldl) | (with_reducible intro _ _ _) | (intro g; exact getTile_wf (by assumption) _ g) | with_reducible apply keeps_ite_snd | with_reducible apply keeps_ite_fst | split | (with_reducible intro _) | (dsimp only) | (with_reducible refine keeps_fst ?_ (by with_reducible assumption)) | (with_reducible refine keeps_snd ?_ (by with_reducible assumption)) | (with_reducible refine keeps_opt ?_ (by with_reducible assumption)) | with_reducible exact opt_none | with_reducible apply opt_some | (with_reducible apply tile_foldl) | (with_reducible refine tile_mk ?_ rfl)

theorem qcWriteEdge_keeps {s₀ s : State} (hk : Keeps s₀ s) (d : Fin 4) (q : Fin 512) (valid : Bool) (data : BitVec 72) : Keeps s₀ (qcWriteEdge s d q valid data) := by
  unfold qcWriteEdge
  try dsimp only
  repeat' first | with_reducible assumption | with_reducible apply satFld_keeps | with_reducible apply putWrite_keeps | with_reducible apply incFld_keeps | (with_reducible apply keeps_foldl) | (with_reducible intro _ _ _) | (intro g; exact getTile_wf (by assumption) _ g) | with_reducible apply keeps_ite_snd | with_reducible apply keeps_ite_fst | split | (with_reducible intro _) | (dsimp only) | (with_reducible refine keeps_fst ?_ (by with_reducible assumption)) | (with_reducible refine keeps_snd ?_ (by with_reducible assumption)) | (with_reducible refine keeps_opt ?_ (by with_reducible assumption)) | with_reducible exact opt_none | with_reducible apply opt_some | (with_reducible refine keeps_mk ?_ rfl rfl rfl rfl rfl rfl rfl) | (with_reducible apply tile_foldl) | (with_reducible refine tile_mk ?_ rfl)

theorem execQcWrite_keeps {s₀ s : State} (hk : Keeps s₀ s) (d : Fin 4) (qc : Fin 512) (valid : Bool) (data : BitVec 72) : OutKeeps s₀ (execQcWrite d qc valid data s) := by
  unfold execQcWrite
  first | apply whenRunning_keeps hk | apply out_next
  try dsimp only
  repeat' first | with_reducible assumption | with_reducible apply whenRunning_keeps | with_reducible apply qcWriteEdge_keeps | (with_reducible apply keeps_foldl) | (with_reducible intro _ _ _) | (intro g; exact getTile_wf (by assumption) _ g) | with_reducible apply keeps_ite_snd | with_reducible apply keeps_ite_fst | split | (with_reducible intro _) | (dsimp only) | (with_reducible refine keeps_fst ?_ (by with_reducible assumption)) | (with_reducible refine keeps_snd ?_ (by with_reducible assumption)) | (with_reducible refine keeps_opt ?_ (by with_reducible assumption)) | with_reducible exact opt_none | with_reducible apply opt_some | (with_reducible apply tile_foldl) | (with_reducible refine tile_mk ?_ rfl)

theorem qcCredit_keeps {s₀ s : State} (hk : Keeps s₀ s) (d : Fin 4) (q : Fin 512) (x : QCtl) : Keeps s₀ (qcCredit s d q x) := by
  unfold qcCredit
  try dsimp only
  repeat' first | with_reducible assumption | with_reducible apply putQc_keeps | with_reducible apply qcTell_keeps | (with_reducible apply keeps_foldl) | (with_reducible intro _ _ _) | (intro g; exact getTile_wf (by assumption) _ g) | with_reducible apply keeps_ite_snd | with_reducible apply keeps_ite_fst | split | (with_reducible intro _) | (dsimp only) | (with_reducible refine keeps_fst ?_ (by with_reducible assumption)) | (with_reducible refine keeps_snd ?_ (by with_reducible assumption)) | (with_reducible refine keeps_opt ?_ (by with_reducible assumption)) | with_reducible exact opt_none | with_reducible apply opt_some | (with_reducible refine keeps_mk ?_ rfl rfl rfl rfl rfl rfl rfl) | (with_reducible apply tile_foldl) | (with_reducible refine tile_mk ?_ rfl)

theorem qcEcc_keeps {s₀ s : State} (hk : Keeps s₀ s) (d : Fin 4) (q : Fin 512) (bad : Bool) (corrected : Bool) : Keeps s₀ (qcEcc s d q bad corrected) := by
  unfold qcEcc
  try dsimp only
  repeat' first | with_reducible assumption | with_reducible apply logEvent_keeps | with_reducible apply setFlag_keeps | (with_reducible apply keeps_foldl) | (with_reducible intro _ _ _) | (intro g; exact getTile_wf (by assumption) _ g) | with_reducible apply keeps_ite_snd | with_reducible apply keeps_ite_fst | split | (with_reducible intro _) | (dsimp only) | (with_reducible refine keeps_fst ?_ (by with_reducible assumption)) | (with_reducible refine keeps_snd ?_ (by with_reducible assumption)) | (with_reducible refine keeps_opt ?_ (by with_reducible assumption)) | with_reducible exact opt_none | with_reducible apply opt_some | (with_reducible apply tile_foldl) | (with_reducible refine tile_mk ?_ rfl)

theorem qcReadEdge_keeps {s₀ s : State} (hk : Keeps s₀ s) (d : Fin 4) (q : Fin 512) (take : Bool) (ecc : Ecc) : Keeps s₀ (qcReadEdge s d q take ecc) := by
  unfold qcReadEdge
  try dsimp only
  repeat' first | with_reducible assumption | with_reducible apply putQc_keeps | with_reducible apply qcEcc_keeps | with_reducible apply qcTryGrant_keeps | with_reducible apply qcCredit_keeps | (with_reducible apply keeps_foldl) | (with_reducible intro _ _ _) | (intro g; exact getTile_wf (by assumption) _ g) | with_reducible apply keeps_ite_snd | with_reducible apply keeps_ite_fst | split | (with_reducible intro _) | (dsimp only) | (with_reducible refine keeps_fst ?_ (by with_reducible assumption)) | (with_reducible refine keeps_snd ?_ (by with_reducible assumption)) | (with_reducible refine keeps_opt ?_ (by with_reducible assumption)) | with_reducible exact opt_none | with_reducible apply opt_some | (with_reducible refine keeps_mk ?_ rfl rfl rfl rfl rfl rfl rfl) | (with_reducible apply tile_foldl) | (with_reducible refine tile_mk ?_ rfl)

theorem execQcRead_keeps {s₀ s : State} (hk : Keeps s₀ s) (d : Fin 4) (qc : Fin 512) (ecc : Ecc) : OutKeeps s₀ (execQcRead d qc ecc s) := by
  unfold execQcRead
  first | apply whenRunning_keeps hk | apply out_next
  try dsimp only
  repeat' first | with_reducible assumption | with_reducible apply whenRunning_keeps | with_reducible apply qcReadEdge_keeps | (with_reducible apply keeps_foldl) | (with_reducible intro _ _ _) | (intro g; exact getTile_wf (by assumption) _ g) | with_reducible apply keeps_ite_snd | with_reducible apply keeps_ite_fst | split | (with_reducible intro _) | (dsimp only) | (with_reducible refine keeps_fst ?_ (by with_reducible assumption)) | (with_reducible refine keeps_snd ?_ (by with_reducible assumption)) | (with_reducible refine keeps_opt ?_ (by with_reducible assumption)) | with_reducible exact opt_none | with_reducible apply opt_some | (with_reducible apply tile_foldl) | (with_reducible refine tile_mk ?_ rfl)

theorem qinPlace_keeps {s₀ : State} (t : TileId) (c : Nat) (crc : Option (BitVec 32)) (mask : Nat) :
    ∀ (k off : Nat) (d : List Byte) {s : State}, Keeps s₀ s → Keeps s₀ (qinPlace t c crc mask k off d s)
  | 0, _, _, _, h => h
  | k + 1, off, d, s, h => by
    unfold qinPlace
    split
    · exact h
    · rename_i st _
      split
      · exact h
      · rename_i p b _
        extract_lets o here s1 s2 full s3 s4
        split
        · exact h
        · have h2 : Keeps s₀ s2 := placeBytes_keeps (putStream_keeps h _ _ _) _ _ _ _ _ _ _
          have h3 : Keeps s₀ s3 := by
            refine keeps_ite ?_ h2
            split
            · split
              · exact putStream_keeps h2 _ _ _
              · exact h2
            · exact h2
          have h4 : Keeps s₀ s4 := keeps_ite (fillCheck_keeps h3 _ _ _) h3
          exact qinPlace_keeps t c crc mask k _ _ h4

theorem qcCheckFail_keeps {s₀ s : State} (hk : Keeps s₀ s) (d : Fin 4) (q : Fin 512) (w : Word) : Keeps s₀ (qcCheckFail s d q w) := by
  unfold qcCheckFail
  try dsimp only
  repeat' first | with_reducible assumption | with_reducible apply setFlag_keeps | with_reducible apply putQc_keeps | with_reducible apply qcClose_keeps | with_reducible apply qcTell_keeps | (with_reducible apply keeps_foldl) | (with_reducible intro _ _ _) | (intro g; exact getTile_wf (by assumption) _ g) | with_reducible apply keeps_ite_snd | with_reducible apply keeps_ite_fst | split | (with_reducible intro _) | (dsimp only) | (with_reducible refine keeps_fst ?_ (by with_reducible assumption)) | (with_reducible refine keeps_snd ?_ (by with_reducible assumption)) | (with_reducible refine keeps_opt ?_ (by with_reducible assumption)) | with_reducible exact opt_none | with_reducible apply opt_some | (with_reducible refine keeps_mk ?_ rfl rfl rfl rfl rfl rfl rfl) | (with_reducible apply tile_foldl) | (with_reducible refine tile_mk ?_ rfl)

theorem tofabPush_keeps {s₀ s : State} (hk : Keeps s₀ s) (d : Fin 4) (q : Fin 512) (w : Word) (p : Packet) : Keeps s₀ (tofabPush s d q w p) := by
  unfold tofabPush
  try dsimp only
  repeat' first | with_reducible assumption | with_reducible apply putWrite_keeps | with_reducible apply qcCheckFail_keeps | (with_reducible apply keeps_foldl) | (with_reducible intro _ _ _) | (intro g; exact getTile_wf (by assumption) _ g) | with_reducible apply keeps_ite_snd | with_reducible apply keeps_ite_fst | split | (with_reducible intro _) | (dsimp only) | (with_reducible refine keeps_fst ?_ (by with_reducible assumption)) | (with_reducible refine keeps_snd ?_ (by with_reducible assumption)) | (with_reducible refine keeps_opt ?_ (by with_reducible assumption)) | with_reducible exact opt_none | with_reducible apply opt_some | (with_reducible refine keeps_mk ?_ rfl rfl rfl rfl rfl rfl rfl) | (with_reducible apply tile_foldl) | (with_reducible refine tile_mk ?_ rfl)

theorem pushAt_keeps {s₀ s : State} (hk : Keeps s₀ s) (p : Packet) : Keeps s₀ (pushAt s p).2 := by
  unfold pushAt
  try dsimp only
  repeat' first | with_reducible assumption | with_reducible apply qinPlace_keeps | with_reducible apply putStream_keeps | with_reducible apply tofabPush_keeps | (with_reducible apply keeps_foldl) | (with_reducible intro _ _ _) | (intro g; exact getTile_wf (by assumption) _ g) | with_reducible apply keeps_ite_snd | with_reducible apply keeps_ite_fst | split | (with_reducible intro _) | (dsimp only) | (with_reducible refine keeps_fst ?_ (by with_reducible assumption)) | (with_reducible refine keeps_snd ?_ (by with_reducible assumption)) | (with_reducible refine keeps_opt ?_ (by with_reducible assumption)) | with_reducible exact opt_none | with_reducible apply opt_some | (with_reducible apply tile_foldl) | (with_reducible refine tile_mk ?_ rfl)

theorem reserveAt_keeps {s₀ s : State} (hk : Keeps s₀ s) (p : Packet) : Keeps s₀ (reserveAt s p).2 := by
  unfold reserveAt
  try dsimp only
  repeat' first | with_reducible assumption | with_reducible apply tryGrant_keeps | with_reducible apply modTile_keeps | with_reducible apply qcTryGrant_keeps | with_reducible apply putQc_keeps | (with_reducible apply keeps_foldl) | (with_reducible intro _ _ _) | (intro g; exact getTile_wf (by assumption) _ g) | with_reducible apply getTile_wf | with_reducible apply keeps_ite_snd | with_reducible apply keeps_ite_fst | split | (with_reducible intro _) | (dsimp only) | (with_reducible refine keeps_fst ?_ (by with_reducible assumption)) | (with_reducible refine keeps_snd ?_ (by with_reducible assumption)) | (with_reducible refine keeps_opt ?_ (by with_reducible assumption)) | with_reducible exact opt_none | with_reducible apply opt_some | (with_reducible refine keeps_mk ?_ rfl rfl rfl rfl rfl rfl rfl) | (with_reducible apply tile_foldl) | (with_reducible refine tile_mk ?_ rfl)

theorem partialCrc_keeps {s₀ s : State} (hk : Keeps s₀ s) (t : TileId) (c : Nat) (st : Stream) (crc : Option (BitVec 32)) : Keeps s₀ (partialCrc s t c st crc) := by
  unfold partialCrc
  try dsimp only
  repeat' first | with_reducible assumption | with_reducible apply putStream_keeps | (with_reducible apply keeps_foldl) | (with_reducible intro _ _ _) | (intro g; exact getTile_wf (by assumption) _ g) | with_reducible apply keeps_ite_snd | with_reducible apply keeps_ite_fst | split | (with_reducible intro _) | (dsimp only) | (with_reducible refine keeps_fst ?_ (by with_reducible assumption)) | (with_reducible refine keeps_snd ?_ (by with_reducible assumption)) | (with_reducible refine keeps_opt ?_ (by with_reducible assumption)) | with_reducible exact opt_none | with_reducible apply opt_some | (with_reducible refine keeps_mk ?_ rfl rfl rfl rfl rfl rfl rfl) | (with_reducible apply tile_foldl) | (with_reducible refine tile_mk ?_ rfl)

theorem endmarkAt_keeps {s₀ s : State} (hk : Keeps s₀ s) (p : Packet) : Keeps s₀ (endmarkAt s p).2 := by
  unfold endmarkAt
  try dsimp only
  repeat' first | with_reducible assumption | with_reducible apply partialCrc_keeps | with_reducible apply putStream_keeps | with_reducible apply tryCommit_keeps | with_reducible apply closeBuf_keeps | with_reducible apply qcCheckFail_keeps | with_reducible apply qcTryGrant_keeps | with_reducible apply qcClose_keeps | with_reducible apply putWrite_keeps | (with_reducible apply keeps_foldl) | (with_reducible intro _ _ _) | (intro g; exact getTile_wf (by assumption) _ g) | with_reducible apply keeps_ite_snd | with_reducible apply keeps_ite_fst | split | (with_reducible intro _) | (dsimp only) | (with_reducible refine keeps_fst ?_ (by with_reducible assumption)) | (with_reducible refine keeps_snd ?_ (by with_reducible assumption)) | (with_reducible refine keeps_opt ?_ (by with_reducible assumption)) | with_reducible exact opt_none | with_reducible apply opt_some | (with_reducible refine keeps_mk ?_ rfl rfl rfl rfl rfl rfl rfl) | (with_reducible apply tile_foldl) | (with_reducible refine tile_mk ?_ rfl)

theorem creditProducer_keeps {s₀ s : State} (hk : Keeps s₀ s) (w : Word) (n : Nat) : Keeps s₀ (creditProducer s w n) := by
  unfold creditProducer
  try dsimp only
  repeat' first | with_reducible assumption | with_reducible apply tryCommit_keeps | with_reducible apply putStream_keeps | with_reducible apply putQc_keeps | with_reducible apply qcClose_keeps | (with_reducible apply keeps_foldl) | (with_reducible intro _ _ _) | (intro g; exact getTile_wf (by assumption) _ g) | with_reducible apply getTile_wf | with_reducible apply keeps_ite_snd | with_reducible apply keeps_ite_fst | split | (with_reducible intro _) | (dsimp only) | (with_reducible refine keeps_fst ?_ (by with_reducible assumption)) | (with_reducible refine keeps_snd ?_ (by with_reducible assumption)) | (with_reducible refine keeps_opt ?_ (by with_reducible assumption)) | with_reducible exact opt_none | with_reducible apply opt_some | (with_reducible refine keeps_mk ?_ rfl rfl rfl rfl rfl rfl rfl) | (with_reducible apply tile_foldl) | (with_reducible refine tile_mk ?_ rfl)

theorem creditConsumer_keeps {s₀ s : State} (hk : Keeps s₀ s) (p : Packet) : Keeps s₀ (creditConsumer s p) := by
  unfold creditConsumer
  try dsimp only
  repeat' first | with_reducible assumption | with_reducible apply tryGrant_keeps | with_reducible apply putStream_keeps | with_reducible apply cancelStream_keeps | with_reducible apply putQc_keeps | (with_reducible apply keeps_foldl) | (with_reducible intro _ _ _) | (intro g; exact getTile_wf (by assumption) _ g) | with_reducible apply getTile_wf | with_reducible apply keeps_ite_snd | with_reducible apply keeps_ite_fst | split | (with_reducible intro _) | (dsimp only) | (with_reducible refine keeps_fst ?_ (by with_reducible assumption)) | (with_reducible refine keeps_snd ?_ (by with_reducible assumption)) | (with_reducible refine keeps_opt ?_ (by with_reducible assumption)) | with_reducible exact opt_none | with_reducible apply opt_some | (with_reducible refine keeps_mk ?_ rfl rfl rfl rfl rfl rfl rfl) | (with_reducible apply tile_foldl) | (with_reducible refine tile_mk ?_ rfl)

theorem creditAt_keeps {s₀ s : State} (hk : Keeps s₀ s) (p : Packet) : Keeps s₀ (creditAt s p) := by
  unfold creditAt
  try dsimp only
  repeat' first | with_reducible assumption | with_reducible apply creditProducer_keeps | with_reducible apply creditConsumer_keeps | (with_reducible apply keeps_foldl) | (with_reducible intro _ _ _) | (intro g; exact getTile_wf (by assumption) _ g) | with_reducible apply keeps_ite_snd | with_reducible apply keeps_ite_fst | split | (with_reducible intro _) | (dsimp only) | (with_reducible refine keeps_fst ?_ (by with_reducible assumption)) | (with_reducible refine keeps_snd ?_ (by with_reducible assumption)) | (with_reducible refine keeps_opt ?_ (by with_reducible assumption)) | with_reducible exact opt_none | with_reducible apply opt_some | (with_reducible apply tile_foldl) | (with_reducible refine tile_mk ?_ rfl)

theorem returnGrant_keeps {s₀ s : State} (hk : Keeps s₀ s) (src : BitVec 12) (p : Packet) : Keeps s₀ (returnGrant s src p) := by
  unfold returnGrant
  try dsimp only
  repeat' first | with_reducible assumption | with_reducible apply sendPkt_keeps | (with_reducible apply keeps_foldl) | (with_reducible intro _ _ _) | (intro g; exact getTile_wf (by assumption) _ g) | with_reducible apply keeps_ite_snd | with_reducible apply keeps_ite_fst | split | (with_reducible intro _) | (dsimp only) | (with_reducible refine keeps_fst ?_ (by with_reducible assumption)) | (with_reducible refine keeps_snd ?_ (by with_reducible assumption)) | (with_reducible refine keeps_opt ?_ (by with_reducible assumption)) | with_reducible exact opt_none | with_reducible apply opt_some | (with_reducible apply tile_foldl) | (with_reducible refine tile_mk ?_ rfl)

theorem grantAt_keeps {s₀ s : State} (hk : Keeps s₀ s) (p : Packet) : Keeps s₀ (grantAt s p) := by
  unfold grantAt
  try dsimp only
  repeat' first | with_reducible assumption | with_reducible apply returnGrant_keeps | with_reducible apply cancelStream_keeps | with_reducible apply putStream_keeps | with_reducible apply qcClose_keeps | with_reducible apply putQc_keeps | with_reducible apply setFlag_keeps | (with_reducible apply keeps_foldl) | (with_reducible intro _ _ _) | (intro g; exact getTile_wf (by assumption) _ g) | with_reducible apply getTile_wf | with_reducible apply keeps_ite_snd | with_reducible apply keeps_ite_fst | split | (with_reducible intro _) | (dsimp only) | (with_reducible refine keeps_fst ?_ (by with_reducible assumption)) | (with_reducible refine keeps_snd ?_ (by with_reducible assumption)) | (with_reducible refine keeps_opt ?_ (by with_reducible assumption)) | with_reducible exact opt_none | with_reducible apply opt_some | (with_reducible refine keeps_mk ?_ rfl rfl rfl rfl rfl rfl rfl) | (with_reducible apply tile_foldl) | (with_reducible refine tile_mk ?_ rfl)

theorem qcAnswered_keeps {s₀ s : State} (hk : Keeps s₀ s) (d : Fin 4) (q : Fin 512) (status : Status) : Keeps s₀ (qcAnswered s d q status) := by
  unfold qcAnswered
  try dsimp only
  repeat' first | with_reducible assumption | with_reducible apply qcClose_keeps | with_reducible apply putQc_keeps | (with_reducible apply keeps_foldl) | (with_reducible intro _ _ _) | (intro g; exact getTile_wf (by assumption) _ g) | with_reducible apply keeps_ite_snd | with_reducible apply keeps_ite_fst | split | (with_reducible intro _) | (dsimp only) | (with_reducible refine keeps_fst ?_ (by with_reducible assumption)) | (with_reducible refine keeps_snd ?_ (by with_reducible assumption)) | (with_reducible refine keeps_opt ?_ (by with_reducible assumption)) | with_reducible exact opt_none | with_reducible apply opt_some | (with_reducible refine keeps_mk ?_ rfl rfl rfl rfl rfl rfl rfl) | (with_reducible apply tile_foldl) | (with_reducible refine tile_mk ?_ rfl)

theorem lanePush_keeps {s₀ s : State} (hk : Keeps s₀ s) (d : Fin 4) (q : Fin 512) (es : List (BitVec 72)) (p : Packet) : Keeps s₀ (lanePush s d q es p) := by
  unfold lanePush
  try dsimp only
  repeat' first | with_reducible assumption | with_reducible apply modRegion_keeps | with_reducible apply pushAt_keeps | with_reducible apply qcAnswered_keeps | (with_reducible apply keeps_foldl) | (with_reducible intro _ _ _) | (intro g; exact getTile_wf (by assumption) _ g) | with_reducible apply keeps_ite_snd | with_reducible apply keeps_ite_fst | split | (with_reducible intro _) | (dsimp only) | (with_reducible refine keeps_fst ?_ (by with_reducible assumption)) | (with_reducible refine keeps_snd ?_ (by with_reducible assumption)) | (with_reducible refine keeps_opt ?_ (by with_reducible assumption)) | with_reducible exact opt_none | with_reducible apply opt_some | (with_reducible refine keeps_mk ?_ rfl rfl rfl rfl rfl rfl rfl) | (with_reducible apply tile_foldl) | (with_reducible refine tile_mk ?_ rfl)

theorem sendPush_keeps {s₀ s : State} (hk : Keeps s₀ s) (d : Fin 4) (q : Fin 512) : Keeps s₀ (sendPush s d q) := by
  unfold sendPush
  try dsimp only
  repeat' first | with_reducible assumption | with_reducible apply qcEcc_keeps | with_reducible apply putQc_keeps | with_reducible apply lanePush_keeps | with_reducible apply qcTell_keeps | with_reducible apply holdTag_keeps | (with_reducible apply keeps_foldl) | (with_reducible intro _ _ _) | (intro g; exact getTile_wf (by assumption) _ g) | with_reducible apply keeps_ite_snd | with_reducible apply keeps_ite_fst | split | (with_reducible intro _) | (dsimp only) | (with_reducible refine keeps_fst ?_ (by with_reducible assumption)) | (with_reducible refine keeps_snd ?_ (by with_reducible assumption)) | (with_reducible refine keeps_opt ?_ (by with_reducible assumption)) | with_reducible exact opt_none | with_reducible apply opt_some | (with_reducible refine keeps_mk ?_ rfl rfl rfl rfl rfl rfl rfl) | (with_reducible apply tile_foldl) | (with_reducible refine tile_mk ?_ rfl)

theorem sendEnd_keeps {s₀ s : State} (hk : Keeps s₀ s) (d : Fin 4) (q : Fin 512) : Keeps s₀ (sendEnd s d q) := by
  unfold sendEnd
  try dsimp only
  repeat' first | with_reducible assumption | with_reducible apply holdTag_keeps | with_reducible apply putQc_keeps | with_reducible apply qcClose_keeps | with_reducible apply qcTell_keeps | (with_reducible apply keeps_foldl) | (with_reducible intro _ _ _) | (intro g; exact getTile_wf (by assumption) _ g) | with_reducible apply keeps_ite_snd | with_reducible apply keeps_ite_fst | split | (with_reducible intro _) | (dsimp only) | (with_reducible refine keeps_fst ?_ (by with_reducible assumption)) | (with_reducible refine keeps_snd ?_ (by with_reducible assumption)) | (with_reducible refine keeps_opt ?_ (by with_reducible assumption)) | with_reducible exact opt_none | with_reducible apply opt_some | (with_reducible refine keeps_mk ?_ rfl rfl rfl rfl rfl rfl rfl) | (with_reducible apply tile_foldl) | (with_reducible refine tile_mk ?_ rfl)

theorem execQcPush_keeps {s₀ s : State} (hk : Keeps s₀ s) (d : Fin 4) (qc : Fin 512) : OutKeeps s₀ (execQcPush d qc s) := by
  unfold execQcPush
  first | apply whenRunning_keeps hk | apply out_next
  try dsimp only
  repeat' first | with_reducible assumption | with_reducible apply whenRunning_keeps | with_reducible apply qcAsk_keeps | with_reducible apply sendEnd_keeps | with_reducible apply sendPush_keeps | (with_reducible apply keeps_foldl) | (with_reducible intro _ _ _) | (intro g; exact getTile_wf (by assumption) _ g) | with_reducible apply keeps_ite_snd | with_reducible apply keeps_ite_fst | split | (with_reducible intro _) | (dsimp only) | (with_reducible refine keeps_fst ?_ (by with_reducible assumption)) | (with_reducible refine keeps_snd ?_ (by with_reducible assumption)) | (with_reducible refine keeps_opt ?_ (by with_reducible assumption)) | with_reducible exact opt_none | with_reducible apply opt_some | (with_reducible apply tile_foldl) | (with_reducible refine tile_mk ?_ rfl)

theorem execPushwait_keeps {s₀ s : State} (hk : Keeps s₀ s) (d : Fin 4) (qc : Fin 512) : OutKeeps s₀ (execPushwait d qc s) := by
  unfold execPushwait
  first | apply whenRunning_keeps hk | apply out_next
  try dsimp only
  repeat' first | with_reducible assumption | with_reducible apply whenRunning_keeps | with_reducible apply sendPush_keeps | (with_reducible apply keeps_foldl) | (with_reducible intro _ _ _) | (intro g; exact getTile_wf (by assumption) _ g) | with_reducible apply keeps_ite_snd | with_reducible apply keeps_ite_fst | split | (with_reducible intro _) | (dsimp only) | (with_reducible refine keeps_fst ?_ (by with_reducible assumption)) | (with_reducible refine keeps_snd ?_ (by with_reducible assumption)) | (with_reducible refine keeps_opt ?_ (by with_reducible assumption)) | with_reducible exact opt_none | with_reducible apply opt_some | (with_reducible apply tile_foldl) | (with_reducible refine tile_mk ?_ rfl)

end Sys2Proof.Machine
end

