-- ==== Sys2Proof/Laws/KeepNocCore.lean ====
section
/-! SUPPORT. What the operations of Machine/NocCore.lean keep (see Laws/Keep.lean). -/

namespace Sys2Proof.Machine
open Sys2Proof

theorem signalEnded_keeps {s₀ s : State} (hk : Keeps s₀ s) (t : TileId) (q : Nat) (id : Nat) (e : Status) : Keeps s₀ (signalEnded s t q id e) := by
  unfold signalEnded
  try dsimp only
  repeat' first | with_reducible assumption | with_reducible apply unitEnded_keeps | (with_reducible apply keeps_foldl) | (with_reducible intro _ _ _) | (intro g; exact getTile_wf (by assumption) _ g) | with_reducible apply keeps_ite_snd | with_reducible apply keeps_ite_fst | split | (with_reducible intro _) | (dsimp only) | (with_reducible refine keeps_fst ?_ (by with_reducible assumption)) | (with_reducible refine keeps_snd ?_ (by with_reducible assumption)) | (with_reducible refine keeps_opt ?_ (by with_reducible assumption)) | with_reducible exact opt_none | with_reducible apply opt_some | (with_reducible apply tile_foldl) | (with_reducible refine tile_mk ?_ rfl)

theorem setMbox_keeps {s₀ s : State} (hk : Keeps s₀ s) (c : Nat) (m : MbMsg) : Keeps s₀ (setMbox s c m) := by
  unfold setMbox
  try dsimp only
  repeat' first | with_reducible assumption | with_reducible apply mgmt_keeps | (with_reducible apply keeps_foldl) | (with_reducible intro _ _ _) | (intro g; exact getTile_wf (by assumption) _ g) | with_reducible apply keeps_ite_snd | with_reducible apply keeps_ite_fst | split | (with_reducible intro _) | (dsimp only) | (with_reducible refine keeps_fst ?_ (by with_reducible assumption)) | (with_reducible refine keeps_snd ?_ (by with_reducible assumption)) | (with_reducible refine keeps_opt ?_ (by with_reducible assumption)) | with_reducible exact opt_none | with_reducible apply opt_some | (with_reducible refine keeps_mk ?_ rfl rfl rfl rfl rfl rfl rfl) | (with_reducible apply tile_foldl) | (with_reducible refine tile_mk ?_ rfl)

theorem mbEnd_keeps {s₀ s : State} (hk : Keeps s₀ s) (c : Nat) (e : Status) (rlen : Nat) : Keeps s₀ (mbEnd s c e rlen) := by
  unfold mbEnd
  try dsimp only
  repeat' first | with_reducible assumption | with_reducible apply mgmt_keeps | with_reducible apply setFld_keeps | with_reducible apply setFlag_keeps | with_reducible apply raiseIrq_keeps | (with_reducible apply keeps_foldl) | (with_reducible intro _ _ _) | (intro g; exact getTile_wf (by assumption) _ g) | with_reducible apply keeps_ite_snd | with_reducible apply keeps_ite_fst | split | (with_reducible intro _) | (dsimp only) | (with_reducible refine keeps_fst ?_ (by with_reducible assumption)) | (with_reducible refine keeps_snd ?_ (by with_reducible assumption)) | (with_reducible refine keeps_opt ?_ (by with_reducible assumption)) | with_reducible exact opt_none | with_reducible apply opt_some | (with_reducible refine keeps_mk ?_ rfl rfl rfl rfl rfl rfl rfl) | (with_reducible apply tile_foldl) | (with_reducible refine tile_mk ?_ rfl)

theorem mbSend_keeps {s₀ s : State} (hk : Keeps s₀ s) (c : Fin 2) (m : MbMsg) : Keeps s₀ (mbSend s c m) := by
  unfold mbSend
  try dsimp only
  repeat' first | with_reducible assumption | with_reducible apply mbEnd_keeps | with_reducible apply hbmRead_keeps | with_reducible apply setMbox_keeps | with_reducible apply holdTag_keeps | with_reducible apply sendPkt_keeps | (with_reducible apply keeps_foldl) | (with_reducible intro _ _ _) | (intro g; exact getTile_wf (by assumption) _ g) | with_reducible apply keeps_ite_snd | with_reducible apply keeps_ite_fst | split | (with_reducible intro _) | (dsimp only) | (with_reducible refine keeps_fst ?_ (by with_reducible assumption)) | (with_reducible refine keeps_snd ?_ (by with_reducible assumption)) | (with_reducible refine keeps_opt ?_ (by with_reducible assumption)) | with_reducible exact opt_none | with_reducible apply opt_some | (with_reducible refine keeps_mk ?_ rfl rfl rfl rfl rfl rfl rfl) | (with_reducible apply tile_foldl) | (with_reducible refine tile_mk ?_ rfl)

theorem mbStore_keeps {s₀ s : State} (hk : Keeps s₀ s) (c : Fin 2) (m : MbMsg) (d : List Byte) (e : Status) : Keeps s₀ (mbStore s c m d e) := by
  unfold mbStore
  try dsimp only
  repeat' first | with_reducible assumption | with_reducible apply mbEnd_keeps | with_reducible apply hbmWrite_keeps | (with_reducible apply keeps_foldl) | (with_reducible intro _ _ _) | (intro g; exact getTile_wf (by assumption) _ g) | with_reducible apply keeps_ite_snd | with_reducible apply keeps_ite_fst | split | (with_reducible intro _) | (dsimp only) | (with_reducible refine keeps_fst ?_ (by with_reducible assumption)) | (with_reducible refine keeps_snd ?_ (by with_reducible assumption)) | (with_reducible refine keeps_opt ?_ (by with_reducible assumption)) | with_reducible exact opt_none | with_reducible apply opt_some | (with_reducible apply tile_foldl) | (with_reducible refine tile_mk ?_ rfl)

theorem mbPump_keeps {s₀ s : State} (hk : Keeps s₀ s) (c : Fin 2) : Keeps s₀ (mbPump s c) := by
  unfold mbPump
  try dsimp only
  repeat' first | with_reducible assumption | with_reducible apply mbStore_keeps | with_reducible apply mbSend_keeps | (with_reducible apply keeps_foldl) | (with_reducible intro _ _ _) | (intro g; exact getTile_wf (by assumption) _ g) | with_reducible apply keeps_ite_snd | with_reducible apply keeps_ite_fst | split | (with_reducible intro _) | (dsimp only) | (with_reducible refine keeps_fst ?_ (by with_reducible assumption)) | (with_reducible refine keeps_snd ?_ (by with_reducible assumption)) | (with_reducible refine keeps_opt ?_ (by with_reducible assumption)) | with_reducible exact opt_none | with_reducible apply opt_some | (with_reducible apply tile_foldl) | (with_reducible refine tile_mk ?_ rfl)

theorem completeTag_keeps {s₀ s : State} (hk : Keeps s₀ s) (u : TagUse) (e : Status) : Keeps s₀ (completeTag s u e) := by
  unfold completeTag
  try dsimp only
  repeat' first | with_reducible assumption | with_reducible apply streamAnswered_keeps | with_reducible apply signalEnded_keeps | with_reducible apply qcAnswered_keeps | with_reducible apply mbEnd_keeps | (with_reducible apply keeps_foldl) | (with_reducible intro _ _ _) | (intro g; exact getTile_wf (by assumption) _ g) | with_reducible apply keeps_ite_snd | with_reducible apply keeps_ite_fst | split | (with_reducible intro _) | (dsimp only) | (with_reducible refine keeps_fst ?_ (by with_reducible assumption)) | (with_reducible refine keeps_snd ?_ (by with_reducible assumption)) | (with_reducible refine keeps_opt ?_ (by with_reducible assumption)) | with_reducible exact opt_none | with_reducible apply opt_some | (with_reducible refine keeps_mk ?_ rfl rfl rfl rfl rfl rfl rfl) | (with_reducible apply tile_foldl) | (with_reducible refine tile_mk ?_ rfl)

theorem abandonNode_keeps {s₀ s : State} (hk : Keeps s₀ s) (node : Nat) : Keeps s₀ (abandonNode s node) := by
  unfold abandonNode
  try dsimp only
  repeat' first | with_reducible assumption | with_reducible apply expireTag_keeps | with_reducible apply signalEnded_keeps | with_reducible apply noFold_keeps | with_reducible apply completeTag_keeps | (with_reducible apply keeps_foldl) | (with_reducible intro _ _ _) | (intro g; exact getTile_wf (by assumption) _ g) | with_reducible apply keeps_ite_snd | with_reducible apply keeps_ite_fst | split | (with_reducible intro _) | (dsimp only) | (with_reducible refine keeps_fst ?_ (by with_reducible assumption)) | (with_reducible refine keeps_snd ?_ (by with_reducible assumption)) | (with_reducible refine keeps_opt ?_ (by with_reducible assumption)) | with_reducible exact opt_none | with_reducible apply opt_some | (with_reducible apply tile_foldl) | (with_reducible refine tile_mk ?_ rfl)

theorem setFstate_keeps {s₀ s : State} (hk : Keeps s₀ s) (d : Nat) (ep : Nat) (v : Nat) : Keeps s₀ (setFstate s d ep v) := by
  unfold setFstate
  try dsimp only
  repeat' first | with_reducible assumption | with_reducible apply setFld_keeps | (with_reducible apply keeps_foldl) | (with_reducible intro _ _ _) | (intro g; exact getTile_wf (by assumption) _ g) | with_reducible apply keeps_ite_snd | with_reducible apply keeps_ite_fst | split | (with_reducible intro _) | (dsimp only) | (with_reducible refine keeps_fst ?_ (by with_reducible assumption)) | (with_reducible refine keeps_snd ?_ (by with_reducible assumption)) | (with_reducible refine keeps_opt ?_ (by with_reducible assumption)) | with_reducible exact opt_none | with_reducible apply opt_some | (with_reducible apply tile_foldl) | (with_reducible refine tile_mk ?_ rfl)

theorem setAbandon_keeps {s₀ s : State} (hk : Keeps s₀ s) (d : Nat) (ep : Nat) (b : Bool) : Keeps s₀ (setAbandon s d ep b) := by
  unfold setAbandon
  try dsimp only
  repeat' first | with_reducible assumption | (with_reducible apply keeps_foldl) | (with_reducible intro _ _ _) | (intro g; exact getTile_wf (by assumption) _ g) | with_reducible apply keeps_ite_snd | with_reducible apply keeps_ite_fst | split | (with_reducible intro _) | (dsimp only) | (with_reducible refine keeps_fst ?_ (by with_reducible assumption)) | (with_reducible refine keeps_snd ?_ (by with_reducible assumption)) | (with_reducible refine keeps_opt ?_ (by with_reducible assumption)) | with_reducible exact opt_none | with_reducible apply opt_some | (with_reducible refine keeps_mk ?_ rfl rfl rfl rfl rfl rfl rfl) | (with_reducible apply tile_foldl) | (with_reducible refine tile_mk ?_ rfl)

theorem fenceStart_keeps {s₀ s : State} (hk : Keeps s₀ s) (d : Nat) (ep : Nat) (abandon : Bool) : Keeps s₀ (fenceStart s d ep abandon) := by
  unfold fenceStart
  try dsimp only
  repeat' first | with_reducible assumption | with_reducible apply abandonNode_keeps | with_reducible apply setAbandon_keeps | with_reducible apply setFstate_keeps | (with_reducible apply keeps_foldl) | (with_reducible intro _ _ _) | (intro g; exact getTile_wf (by assumption) _ g) | with_reducible apply keeps_ite_snd | with_reducible apply keeps_ite_fst | split | (with_reducible intro _) | (dsimp only) | (with_reducible refine keeps_fst ?_ (by with_reducible assumption)) | (with_reducible refine keeps_snd ?_ (by with_reducible assumption)) | (with_reducible refine keeps_opt ?_ (by with_reducible assumption)) | with_reducible exact opt_none | with_reducible apply opt_some | (with_reducible apply tile_foldl) | (with_reducible refine tile_mk ?_ rfl)

theorem fenceFinish_keeps {s₀ s : State} (hk : Keeps s₀ s) (d : Nat) (ep : Nat) : Keeps s₀ (fenceFinish s d ep) := by
  unfold fenceFinish
  try dsimp only
  repeat' first | with_reducible assumption | with_reducible apply sendPkt_keeps | with_reducible apply setFstate_keeps | (with_reducible apply keeps_foldl) | (with_reducible intro _ _ _) | (intro g; exact getTile_wf (by assumption) _ g) | with_reducible apply keeps_ite_snd | with_reducible apply keeps_ite_fst | split | (with_reducible intro _) | (dsimp only) | (with_reducible refine keeps_fst ?_ (by with_reducible assumption)) | (with_reducible refine keeps_snd ?_ (by with_reducible assumption)) | (with_reducible refine keeps_opt ?_ (by with_reducible assumption)) | with_reducible exact opt_none | with_reducible apply opt_some | (with_reducible apply tile_foldl) | (with_reducible refine tile_mk ?_ rfl)

theorem unfenceEp_keeps {s₀ s : State} (hk : Keeps s₀ s) (d : Nat) (ep : Nat) : Keeps s₀ (unfenceEp s d ep) := by
  unfold unfenceEp
  try dsimp only
  repeat' first | with_reducible assumption | with_reducible apply setFstate_keeps | (with_reducible apply keeps_foldl) | (with_reducible intro _ _ _) | (intro g; exact getTile_wf (by assumption) _ g) | with_reducible apply keeps_ite_snd | with_reducible apply keeps_ite_fst | split | (with_reducible intro _) | (dsimp only) | (with_reducible refine keeps_fst ?_ (by with_reducible assumption)) | (with_reducible refine keeps_snd ?_ (by with_reducible assumption)) | (with_reducible refine keeps_opt ?_ (by with_reducible assumption)) | with_reducible exact opt_none | with_reducible apply opt_some | (with_reducible apply tile_foldl) | (with_reducible refine tile_mk ?_ rfl)

theorem throughFence_keeps {s₀ s : State} (hk : Keeps s₀ s) (p : Packet) (f : State → State) (hf : ∀ s , Keeps s₀ s → Keeps s₀ (f s )) : Keeps s₀ (throughFence s p f) := by
  unfold throughFence
  try dsimp only
  repeat' first | with_reducible assumption | with_reducible apply answer_keeps | with_reducible apply takePkt_keeps | with_reducible apply hf | (with_reducible apply keeps_foldl) | (with_reducible intro _ _ _) | (intro g; exact getTile_wf (by assumption) _ g) | with_reducible apply keeps_ite_snd | with_reducible apply keeps_ite_fst | split | (with_reducible intro _) | (dsimp only) | (with_reducible refine keeps_fst ?_ (by with_reducible assumption)) | (with_reducible refine keeps_snd ?_ (by with_reducible assumption)) | (with_reducible refine keeps_opt ?_ (by with_reducible assumption)) | with_reducible exact opt_none | with_reducible apply opt_some | (with_reducible apply tile_foldl) | (with_reducible refine tile_mk ?_ rfl)

theorem writeNocEp_keeps {s₀ s : State} (hk : Keeps s₀ s) (d : Nat) (ep : Nat) (v : Word) : Keeps s₀ (writeNocEp s d ep v) := by
  unfold writeNocEp
  try dsimp only
  repeat' first | with_reducible assumption | with_reducible apply fenceStart_keeps | with_reducible apply unfenceEp_keeps | (with_reducible apply keeps_foldl) | (with_reducible intro _ _ _) | (intro g; exact getTile_wf (by assumption) _ g) | with_reducible apply keeps_ite_snd | with_reducible apply keeps_ite_fst | split | (with_reducible intro _) | (dsimp only) | (with_reducible refine keeps_fst ?_ (by with_reducible assumption)) | (with_reducible refine keeps_snd ?_ (by with_reducible assumption)) | (with_reducible refine keeps_opt ?_ (by with_reducible assumption)) | with_reducible exact opt_none | with_reducible apply opt_some | (with_reducible apply tile_foldl) | (with_reducible refine tile_mk ?_ rfl)

end Sys2Proof.Machine
end

