-- ==== Sys2Proof/Laws/KeepFabricCore.lean ====
section
/-! SUPPORT. What the operations of Machine/FabricCore.lean keep (see Laws/Keep.lean). -/

namespace Sys2Proof.Machine
open Sys2Proof

theorem setFab_keeps {s₀ s : State} (hk : Keeps s₀ s) (f : Fabric) (hf : Good s → f.ctxs.length ≤ 8192) :
    Keeps s₀ (setFab s f) :=
  ⟨hk.1, hk.2.1, fun g => let q := hk.2.2 g; ⟨q.regs, q.table, q.mems, q.main, q.room, hf q⟩⟩

theorem sendFabric_keeps {s₀ s : State} (hk : Keeps s₀ s) (dev : Nat) (p : Packet) : Keeps s₀ (sendFabric s dev p) := by
  unfold sendFabric
  try dsimp only
  repeat' first | with_reducible assumption | with_reducible apply sendLink_keeps | (with_reducible apply keeps_foldl) | (with_reducible intro _ _ _) | (intro g; exact getTile_wf (by assumption) _ g) | with_reducible apply keeps_ite_snd | with_reducible apply keeps_ite_fst | split | (with_reducible intro _) | (dsimp only) | (with_reducible refine keeps_fst ?_ (by with_reducible assumption)) | (with_reducible refine keeps_snd ?_ (by with_reducible assumption)) | (with_reducible refine keeps_opt ?_ (by with_reducible assumption)) | with_reducible exact opt_none | with_reducible apply opt_some | (with_reducible apply tile_foldl) | (with_reducible refine tile_mk ?_ rfl)

theorem takeFabric_keeps {s₀ s : State} (hk : Keeps s₀ s) (p : Packet) : Keeps s₀ (takeFabric s p) := by
  unfold takeFabric
  try dsimp only
  repeat' first | with_reducible assumption | (with_reducible apply keeps_foldl) | (with_reducible intro _ _ _) | (intro g; exact getTile_wf (by assumption) _ g) | with_reducible apply keeps_ite_snd | with_reducible apply keeps_ite_fst | split | (with_reducible intro _) | (dsimp only) | (with_reducible refine keeps_fst ?_ (by with_reducible assumption)) | (with_reducible refine keeps_snd ?_ (by with_reducible assumption)) | (with_reducible refine keeps_opt ?_ (by with_reducible assumption)) | with_reducible exact opt_none | with_reducible apply opt_some | (with_reducible refine keeps_mk ?_ rfl rfl rfl rfl rfl rfl rfl) | (with_reducible apply tile_foldl) | (with_reducible refine tile_mk ?_ rfl)

theorem openCtx_keeps {s₀ s : State} (hk : Keeps s₀ s) (dev : Nat) : OptKeeps s₀ (openCtx s dev) := by
  unfold openCtx
  split
  · exact opt_some hk
  · split
    · exact opt_none
    · rename_i h
      have hl : s.fabric.ctxs.length < 8192 := by simp only [Bool.or_eq_true, decide_eq_true_eq, not_or] at h; omega
      extract_lets used c src s1
      have h1 : Keeps s₀ s1 := setFab_keeps hk _ (fun _ => by
        simp only [List.length_append, List.length_cons, List.length_nil]; omega)
      exact opt_some (incFld_keeps (setFld_keeps h1 _ _ _ _) _ _ _)

theorem fabTry_keeps {s₀ s : State} (hk : Keeps s₀ s) (r : FabReq) : Keeps s₀ (fabTry s r) := by
  unfold fabTry
  split
  · exact hk
  · split
    · exact hk
    · rename_i s1 e1
      have h1 : Keeps s₀ s1 := openCtx_keeps hk _ _ e1
      split
      · exact h1
      · exact sendLink_keeps (setFab_keeps h1 _ (fun g => by
          have := g.peers; simpa [bumpSeq] using this)) _

theorem fabPump_keeps {s₀ s : State} (hk : Keeps s₀ s)  : Keeps s₀ (fabPump s) := by
  unfold fabPump
  try dsimp only
  repeat' first | with_reducible assumption | with_reducible apply fabTry_keeps | (with_reducible apply keeps_foldl) | (with_reducible intro _ _ _) | (intro g; exact getTile_wf (by assumption) _ g) | with_reducible apply keeps_ite_snd | with_reducible apply keeps_ite_fst | split | (with_reducible intro _) | (dsimp only) | (with_reducible refine keeps_fst ?_ (by with_reducible assumption)) | (with_reducible refine keeps_snd ?_ (by with_reducible assumption)) | (with_reducible refine keeps_opt ?_ (by with_reducible assumption)) | with_reducible exact opt_none | with_reducible apply opt_some | (with_reducible apply tile_foldl) | (with_reducible refine tile_mk ?_ rfl)

theorem setRing_keeps {s₀ s : State} (hk : Keeps s₀ s) (r : Nat) (x : Ring) : Keeps s₀ (setRing s r x) := by
  unfold setRing
  try dsimp only
  repeat' first | with_reducible assumption | with_reducible apply setFab_keeps | (with_reducible apply keeps_foldl) | (with_reducible intro _ _ _) | (intro g; exact getTile_wf (by assumption) _ g) | (intro g; exact g.peers) | with_reducible apply keeps_ite_snd | with_reducible apply keeps_ite_fst | split | (with_reducible intro _) | (dsimp only) | (with_reducible refine keeps_fst ?_ (by with_reducible assumption)) | (with_reducible refine keeps_snd ?_ (by with_reducible assumption)) | (with_reducible refine keeps_opt ?_ (by with_reducible assumption)) | with_reducible exact opt_none | with_reducible apply opt_some | (with_reducible refine keeps_mk ?_ rfl rfl rfl rfl rfl rfl rfl) | (with_reducible apply tile_foldl) | (with_reducible refine tile_mk ?_ rfl)

theorem ringEnd_keeps {s₀ s : State} (hk : Keeps s₀ s) (j : RingJob) : Keeps s₀ (ringEnd s j) := by
  unfold ringEnd
  try dsimp only
  repeat' first | with_reducible assumption | with_reducible apply setRing_keeps | with_reducible apply sendIrq_keeps | (with_reducible apply keeps_foldl) | (with_reducible intro _ _ _) | (intro g; exact getTile_wf (by assumption) _ g) | with_reducible apply keeps_ite_snd | with_reducible apply keeps_ite_fst | split | (with_reducible intro _) | (dsimp only) | (with_reducible refine keeps_fst ?_ (by with_reducible assumption)) | (with_reducible refine keeps_snd ?_ (by with_reducible assumption)) | (with_reducible refine keeps_opt ?_ (by with_reducible assumption)) | with_reducible exact opt_none | with_reducible apply opt_some | (with_reducible apply tile_foldl) | (with_reducible refine tile_mk ?_ rfl)

theorem ringWrite_keeps {s₀ s : State} (hk : Keeps s₀ s) (j : RingJob) (stage : Nat) (a : Nat) (d : List Byte) (mask : Nat) (next : State → State) (hnext : ∀ s , Keeps s₀ s → Keeps s₀ (next s )) : Keeps s₀ (ringWrite s j stage a d mask next) := by
  unfold ringWrite
  try dsimp only
  repeat' first | with_reducible assumption | with_reducible apply hbmStore_keeps | with_reducible apply awaitAck_keeps | with_reducible apply hnext | (with_reducible apply keeps_foldl) | (with_reducible intro _ _ _) | (intro g; exact getTile_wf (by assumption) _ g) | with_reducible apply keeps_ite_snd | with_reducible apply keeps_ite_fst | split | (with_reducible intro _) | (dsimp only) | (with_reducible refine keeps_fst ?_ (by with_reducible assumption)) | (with_reducible refine keeps_snd ?_ (by with_reducible assumption)) | (with_reducible refine keeps_opt ?_ (by with_reducible assumption)) | with_reducible exact opt_none | with_reducible apply opt_some | (with_reducible refine keeps_mk ?_ rfl rfl rfl rfl rfl rfl rfl) | (with_reducible apply tile_foldl) | (with_reducible refine tile_mk ?_ rfl)

theorem ringDone_keeps {s₀ s : State} (hk : Keeps s₀ s) (j : RingJob) : Keeps s₀ (ringDone s j) := by
  unfold ringDone
  try dsimp only
  repeat' first | with_reducible assumption | with_reducible apply ringWrite_keeps | with_reducible apply ringEnd_keeps | (with_reducible apply keeps_foldl) | (with_reducible intro _ _ _) | (intro g; exact getTile_wf (by assumption) _ g) | with_reducible apply keeps_ite_snd | with_reducible apply keeps_ite_fst | split | (with_reducible intro _) | (dsimp only) | (with_reducible refine keeps_fst ?_ (by with_reducible assumption)) | (with_reducible refine keeps_snd ?_ (by with_reducible assumption)) | (with_reducible refine keeps_opt ?_ (by with_reducible assumption)) | with_reducible exact opt_none | with_reducible apply opt_some | (with_reducible apply tile_foldl) | (with_reducible refine tile_mk ?_ rfl)

theorem ringResult_keeps {s₀ s : State} (hk : Keeps s₀ s) (j : RingJob) : Keeps s₀ (ringResult s j) := by
  unfold ringResult
  try dsimp only
  repeat' first | with_reducible assumption | with_reducible apply ringWrite_keeps | with_reducible apply ringDone_keeps | (with_reducible apply keeps_foldl) | (with_reducible intro _ _ _) | (intro g; exact getTile_wf (by assumption) _ g) | with_reducible apply keeps_ite_snd | with_reducible apply keeps_ite_fst | split | (with_reducible intro _) | (dsimp only) | (with_reducible refine keeps_fst ?_ (by with_reducible assumption)) | (with_reducible refine keeps_snd ?_ (by with_reducible assumption)) | (with_reducible refine keeps_opt ?_ (by with_reducible assumption)) | with_reducible exact opt_none | with_reducible apply opt_some | (with_reducible apply tile_foldl) | (with_reducible refine tile_mk ?_ rfl)

theorem ringAcked_keeps {s₀ s : State} (hk : Keeps s₀ s) (j : RingJob) : ∀ n : Nat, Keeps s₀ (ringAcked s j n)
  | 0 => ringResult_keeps hk j
  | 1 => ringDone_keeps hk j
  | _ + 2 => ringEnd_keeps hk j

theorem ringAnswer_keeps {s₀ s : State} (hk : Keeps s₀ s) (r : Nat) (entry : Nat) (irq : Bool) (laddr : Nat) (req : Packet) (resp : Packet) (status : Status) : Keeps s₀ (ringAnswer s r entry irq laddr req resp status) := by
  unfold ringAnswer
  try dsimp only
  repeat' first | with_reducible assumption | with_reducible apply ringWrite_keeps | with_reducible apply ringResult_keeps | (with_reducible apply keeps_foldl) | (with_reducible intro _ _ _) | (intro g; exact getTile_wf (by assumption) _ g) | with_reducible apply keeps_ite_snd | with_reducible apply keeps_ite_fst | split | (with_reducible intro _) | (dsimp only) | (with_reducible refine keeps_fst ?_ (by with_reducible assumption)) | (with_reducible refine keeps_snd ?_ (by with_reducible assumption)) | (with_reducible refine keeps_opt ?_ (by with_reducible assumption)) | with_reducible exact opt_none | with_reducible apply opt_some | (with_reducible apply tile_foldl) | (with_reducible refine tile_mk ?_ rfl)

theorem fabAnswer_keeps {s₀ s : State} (hk : Keeps s₀ s) (o : FabOrigin) (req : Packet) (resp : Packet) (status : Status) : Keeps s₀ (fabAnswer s o req resp status) := by
  unfold fabAnswer
  try dsimp only
  repeat' first | with_reducible assumption | with_reducible apply sendPkt_keeps | with_reducible apply ringAnswer_keeps | (with_reducible apply keeps_foldl) | (with_reducible intro _ _ _) | (intro g; exact getTile_wf (by assumption) _ g) | with_reducible apply keeps_ite_snd | with_reducible apply keeps_ite_fst | split | (with_reducible intro _) | (dsimp only) | (with_reducible refine keeps_fst ?_ (by with_reducible assumption)) | (with_reducible refine keeps_snd ?_ (by with_reducible assumption)) | (with_reducible refine keeps_opt ?_ (by with_reducible assumption)) | with_reducible exact opt_none | with_reducible apply opt_some | (with_reducible apply tile_foldl) | (with_reducible refine tile_mk ?_ rfl)

theorem fabIssue_keeps {s₀ s : State} (hk : Keeps s₀ s) (o : FabOrigin) (p : Packet) (dev : Nat) : Keeps s₀ (fabIssue s o p dev) := by
  unfold fabIssue
  try dsimp only
  repeat' first | with_reducible assumption | with_reducible apply fabAnswer_keeps | with_reducible apply fabPump_keeps | with_reducible apply setFab_keeps | (with_reducible apply keeps_foldl) | (with_reducible intro _ _ _) | (intro g; exact getTile_wf (by assumption) _ g) | (intro g; exact g.peers) | with_reducible apply keeps_ite_snd | with_reducible apply keeps_ite_fst | split | (with_reducible intro _) | (dsimp only) | (with_reducible refine keeps_fst ?_ (by with_reducible assumption)) | (with_reducible refine keeps_snd ?_ (by with_reducible assumption)) | (with_reducible refine keeps_opt ?_ (by with_reducible assumption)) | with_reducible exact opt_none | with_reducible apply opt_some | (with_reducible refine keeps_mk ?_ rfl rfl rfl rfl rfl rfl rfl) | (with_reducible apply tile_foldl) | (with_reducible refine tile_mk ?_ rfl)

theorem fabAccept_keeps {s₀ s : State} (hk : Keeps s₀ s) (p : Packet) : Keeps s₀ (fabAccept s p) := by
  unfold fabAccept
  try dsimp only
  repeat' first | with_reducible assumption | with_reducible apply fabIssue_keeps | with_reducible apply takePkt_keeps | (with_reducible apply keeps_foldl) | (with_reducible intro _ _ _) | (intro g; exact getTile_wf (by assumption) _ g) | with_reducible apply keeps_ite_snd | with_reducible apply keeps_ite_fst | split | (with_reducible intro _) | (dsimp only) | (with_reducible refine keeps_fst ?_ (by with_reducible assumption)) | (with_reducible refine keeps_snd ?_ (by with_reducible assumption)) | (with_reducible refine keeps_opt ?_ (by with_reducible assumption)) | with_reducible exact opt_none | with_reducible apply opt_some | (with_reducible apply tile_foldl) | (with_reducible refine tile_mk ?_ rfl)

theorem fabReply_keeps {s₀ s : State} (hk : Keeps s₀ s) (p : Packet) (status : Status) (data : List Byte) (poison : Nat) : Keeps s₀ (fabReply s p status data poison) := by
  unfold fabReply
  try dsimp only
  repeat' first | with_reducible assumption | with_reducible apply sendFabric_keeps | (with_reducible apply keeps_foldl) | (with_reducible intro _ _ _) | (intro g; exact getTile_wf (by assumption) _ g) | with_reducible apply keeps_ite_snd | with_reducible apply keeps_ite_fst | split | (with_reducible intro _) | (dsimp only) | (with_reducible refine keeps_fst ?_ (by with_reducible assumption)) | (with_reducible refine keeps_snd ?_ (by with_reducible assumption)) | (with_reducible refine keeps_opt ?_ (by with_reducible assumption)) | with_reducible exact opt_none | with_reducible apply opt_some | (with_reducible apply tile_foldl) | (with_reducible refine tile_mk ?_ rfl)

theorem keepRec_keeps {s₀ s : State} (hk : Keeps s₀ s) (r : DedupRec) : Keeps s₀ (keepRec s r) := by
  unfold keepRec
  try dsimp only
  repeat' first | with_reducible assumption | with_reducible apply setFab_keeps | (with_reducible apply keeps_foldl) | (with_reducible intro _ _ _) | (intro g; exact getTile_wf (by assumption) _ g) | (intro g; exact g.peers) | with_reducible apply keeps_ite_snd | with_reducible apply keeps_ite_fst | split | (with_reducible intro _) | (dsimp only) | (with_reducible refine keeps_fst ?_ (by with_reducible assumption)) | (with_reducible refine keeps_snd ?_ (by with_reducible assumption)) | (with_reducible refine keeps_opt ?_ (by with_reducible assumption)) | with_reducible exact opt_none | with_reducible apply opt_some | (with_reducible refine keeps_mk ?_ rfl rfl rfl rfl rfl rfl rfl) | (with_reducible apply tile_foldl) | (with_reducible refine tile_mk ?_ rfl)

theorem setCopy_keeps {s₀ s : State} (hk : Keeps s₀ s) (c : Copy) : Keeps s₀ (setCopy s c) := by
  unfold setCopy
  try dsimp only
  repeat' first | with_reducible assumption | with_reducible apply setFab_keeps | (with_reducible apply keeps_foldl) | (with_reducible intro _ _ _) | (intro g; exact getTile_wf (by assumption) _ g) | (intro g; exact g.peers) | with_reducible apply keeps_ite_snd | with_reducible apply keeps_ite_fst | split | (with_reducible intro _) | (dsimp only) | (with_reducible refine keeps_fst ?_ (by with_reducible assumption)) | (with_reducible refine keeps_snd ?_ (by with_reducible assumption)) | (with_reducible refine keeps_opt ?_ (by with_reducible assumption)) | with_reducible exact opt_none | with_reducible apply opt_some | (with_reducible refine keeps_mk ?_ rfl rfl rfl rfl rfl rfl rfl) | (with_reducible apply tile_foldl) | (with_reducible refine tile_mk ?_ rfl)

theorem copyNext_keeps {s₀ s : State} (hk : Keeps s₀ s) (c : Copy) : Keeps s₀ (copyNext s c) := by
  unfold copyNext
  try dsimp only
  repeat' first | with_reducible assumption | with_reducible apply setCopy_keeps | with_reducible apply hbmRead_keeps | with_reducible apply fabIssue_keeps | (with_reducible apply keeps_foldl) | (with_reducible intro _ _ _) | (intro g; exact getTile_wf (by assumption) _ g) | with_reducible apply keeps_ite_snd | with_reducible apply keeps_ite_fst | split | (with_reducible intro _) | (dsimp only) | (with_reducible refine keeps_fst ?_ (by with_reducible assumption)) | (with_reducible refine keeps_snd ?_ (by with_reducible assumption)) | (with_reducible refine keeps_opt ?_ (by with_reducible assumption)) | with_reducible exact opt_none | with_reducible apply opt_some | (with_reducible refine keeps_mk ?_ rfl rfl rfl rfl rfl rfl rfl) | (with_reducible apply tile_foldl) | (with_reducible refine tile_mk ?_ rfl)

theorem copyFill_keeps {s₀ : State} (id : Nat) : ∀ (k : Nat) {s : State}, Keeps s₀ s → Keeps s₀ (copyFill id k s)
  | 0, _, h => h
  | k + 1, s, h => by
    unfold copyFill
    split
    · exact h
    · split
      · exact copyFill_keeps id k (copyNext_keeps h _)
      · exact h

theorem copyCheck_keeps {s₀ s : State} (hk : Keeps s₀ s) (id : Nat) : Keeps s₀ (copyCheck s id) := by
  unfold copyCheck
  try dsimp only
  repeat' first | with_reducible assumption | with_reducible apply setFab_keeps | with_reducible apply fabReply_keeps | with_reducible apply keepRec_keeps | (with_reducible apply keeps_foldl) | (with_reducible intro _ _ _) | (intro g; exact getTile_wf (by assumption) _ g) | (intro g; exact g.peers) | with_reducible apply keeps_ite_snd | with_reducible apply keeps_ite_fst | split | (with_reducible intro _) | (dsimp only) | (with_reducible refine keeps_fst ?_ (by with_reducible assumption)) | (with_reducible refine keeps_snd ?_ (by with_reducible assumption)) | (with_reducible refine keeps_opt ?_ (by with_reducible assumption)) | with_reducible exact opt_none | with_reducible apply opt_some | (with_reducible refine keeps_mk ?_ rfl rfl rfl rfl rfl rfl rfl) | (with_reducible apply tile_foldl) | (with_reducible refine tile_mk ?_ rfl)

theorem copyAnswered_keeps {s₀ s : State} (hk : Keeps s₀ s) (id : Nat) (n : Nat) (status : Status) : Keeps s₀ (copyAnswered s id n status) := by
  unfold copyAnswered
  try dsimp only
  repeat' first | with_reducible assumption | with_reducible apply setCopy_keeps | with_reducible apply copyCheck_keeps | with_reducible apply copyFill_keeps | (with_reducible apply keeps_foldl) | (with_reducible intro _ _ _) | (intro g; exact getTile_wf (by assumption) _ g) | with_reducible apply keeps_ite_snd | with_reducible apply keeps_ite_fst | split | (with_reducible intro _) | (dsimp only) | (with_reducible refine keeps_fst ?_ (by with_reducible assumption)) | (with_reducible refine keeps_snd ?_ (by with_reducible assumption)) | (with_reducible refine keeps_opt ?_ (by with_reducible assumption)) | with_reducible exact opt_none | with_reducible apply opt_some | (with_reducible refine keeps_mk ?_ rfl rfl rfl rfl rfl rfl rfl) | (with_reducible apply tile_foldl) | (with_reducible refine tile_mk ?_ rfl)

theorem copyPump_keeps {s₀ s : State} (hk : Keeps s₀ s)  : Keeps s₀ (copyPump s) := by
  unfold copyPump
  try dsimp only
  repeat' first | with_reducible assumption | with_reducible apply copyCheck_keeps | with_reducible apply copyFill_keeps | (with_reducible apply keeps_foldl) | (with_reducible intro _ _ _) | (intro g; exact getTile_wf (by assumption) _ g) | with_reducible apply keeps_ite_snd | with_reducible apply keeps_ite_fst | split | (with_reducible intro _) | (dsimp only) | (with_reducible refine keeps_fst ?_ (by with_reducible assumption)) | (with_reducible refine keeps_snd ?_ (by with_reducible assumption)) | (with_reducible refine keeps_opt ?_ (by with_reducible assumption)) | with_reducible exact opt_none | with_reducible apply opt_some | (with_reducible apply tile_foldl) | (with_reducible refine tile_mk ?_ rfl)

theorem fabComplete_keeps {s₀ s : State} (hk : Keeps s₀ s) (r : FabReq) (resp : Packet) (status : Status) : Keeps s₀ (fabComplete s r resp status) := by
  unfold fabComplete
  try dsimp only
  repeat' first | with_reducible assumption | with_reducible apply setFab_keeps | with_reducible apply copyAnswered_keeps | with_reducible apply fabAnswer_keeps | with_reducible apply fabPump_keeps | (with_reducible apply keeps_foldl) | (with_reducible intro _ _ _) | (intro g; exact getTile_wf (by assumption) _ g) | (intro g; exact g.peers) | with_reducible apply keeps_ite_snd | with_reducible apply keeps_ite_fst | split | (with_reducible intro _) | (dsimp only) | (with_reducible refine keeps_fst ?_ (by with_reducible assumption)) | (with_reducible refine keeps_snd ?_ (by with_reducible assumption)) | (with_reducible refine keeps_opt ?_ (by with_reducible assumption)) | with_reducible exact opt_none | with_reducible apply opt_some | (with_reducible refine keeps_mk ?_ rfl rfl rfl rfl rfl rfl rfl) | (with_reducible apply tile_foldl) | (with_reducible refine tile_mk ?_ rfl)

end Sys2Proof.Machine
end

