-- ==== Sys2Proof/Laws/KeepFabric.lean ====
section
/-! SUPPORT. What the operations of Machine/Fabric.lean keep (see Laws/Keep.lean). -/

namespace Sys2Proof.Machine
open Sys2Proof

theorem incCheck_keeps {s₀ s : State} (hk : Keeps s₀ s) (p : Packet) : OptKeeps s₀ (incCheck s p) := by
  unfold incCheck
  try dsimp only
  repeat' first | with_reducible assumption | with_reducible apply setFab_keeps | (with_reducible apply keeps_foldl) | (with_reducible intro _ _ _) | (intro g; exact getTile_wf (by assumption) _ g) | (intro g; exact g.peers) | with_reducible apply keeps_ite_snd | with_reducible apply keeps_ite_fst | split | (with_reducible intro _) | (dsimp only) | (with_reducible refine keeps_fst ?_ (by with_reducible assumption)) | (with_reducible refine keeps_snd ?_ (by with_reducible assumption)) | (with_reducible refine keeps_opt ?_ (by with_reducible assumption)) | with_reducible exact opt_none | with_reducible apply opt_some | (with_reducible refine keeps_mk ?_ rfl rfl rfl rfl rfl rfl rfl) | (with_reducible apply tile_foldl) | (with_reducible refine tile_mk ?_ rfl)

/-- The state that an executed operation leaves, when there is one, keeps what `a` had. -/
def DoneKeeps (a : State) (o : Option Done) : Prop := ∀ d, o = some d → Keeps a d.st
theorem done_none {a : State} : DoneKeeps a none := fun _ e => by cases e
theorem done_some {a : State} {d : Done} (h : Keeps a d.st) : DoneKeeps a (some d) := fun _ e => by cases e; exact h
theorem finishHome_keeps {s₀ : State} (p : Packet) (marked cover : Bool) {d : Done} (hk : Keeps s₀ d.st) :
    Keeps s₀ (finishHome p marked cover d) := by
  unfold finishHome
  extract_lets e s1
  have h1 : Keeps s₀ s1 := keeps_ite (keepRec_keeps hk _) hk
  clear_value s1
  split
  · exact h1
  · exact fabReply_keeps h1 _ _ _ _

theorem admitPeer_keeps {s₀ s : State} (hk : Keeps s₀ s) (p : Packet) : OptKeeps s₀ (admitPeer s p) := by
  unfold admitPeer
  try dsimp only
  repeat' first | with_reducible assumption | with_reducible apply openCtx_keeps | (with_reducible apply keeps_foldl) | (with_reducible intro _ _ _) | (intro g; exact getTile_wf (by assumption) _ g) | with_reducible apply keeps_ite_snd | with_reducible apply keeps_ite_fst | split | (with_reducible intro _) | (dsimp only) | (with_reducible refine keeps_fst ?_ (by with_reducible assumption)) | (with_reducible refine keeps_snd ?_ (by with_reducible assumption)) | (with_reducible refine keeps_opt ?_ (by with_reducible assumption)) | with_reducible exact opt_none | with_reducible apply opt_some | (with_reducible apply tile_foldl) | (with_reducible refine tile_mk ?_ rfl)

theorem homeServe_keeps {s₀ s : State} (hk : Keeps s₀ s) (p : Packet) (marked cover : Bool) (body : State → Option Done)
    (hb : ∀ s, Keeps s₀ s → DoneKeeps s₀ (body s)) : Keeps s₀ (homeServe s p marked cover body) := by
  unfold homeServe
  split
  · exact hk
  · rename_i s1 e1
    have h1 : Keeps s₀ s1 := incCheck_keeps hk p _ e1
    split
    · refine keeps_ite h1 (fabReply_keeps h1 _ _ _ _)
    · refine keeps_ite h1 ?_
      split
      · exact fabReply_keeps (incFld_keeps h1 _ _ _) _ _ _ _
      · rename_i s2 e2
        have h2 : Keeps s₀ s2 := admitPeer_keeps h1 p _ e2
        refine keeps_ite (setFab_keeps h2 _ (fun g => g.peers)) ?_
        split
        · exact h2
        · rename_i d e3
          exact finishHome_keeps _ _ _ (hb s2 h2 d e3)

theorem arrive_keeps {s₀ s : State} (hk : Keeps s₀ s) (p : Packet) (marked : Bool) (body : Bool → State → Option Done)
    (hb : ∀ c s, Keeps s₀ s → DoneKeeps s₀ (body c s)) : Keeps s₀ (arrive s p marked body) := by
  have h1 : Keeps s₀ (takeFabric s p) := takeFabric_keeps hk p
  unfold arrive
  split
  · exact keeps_ite hk (homeServe_keeps h1 _ _ _ _ (hb _))
  · exact sendFabric_keeps h1 _ _
  · exact sendFabric_keeps h1 _ _
  · exact h1
  · exact h1

theorem refused_keeps {s₀ s : State} (hk : Keeps s₀ s) (e : Status) : DoneKeeps s₀ (refused s e) := done_some hk

theorem freadBody_keeps {s₀ s : State} (hk : Keeps s₀ s) (p : Packet) (cover : Bool) : DoneKeeps s₀ (freadBody p cover s) := by
  unfold freadBody
  extract_lets a e r
  split
  · exact refused_keeps hk _
  · exact done_some (hbmRead_keeps hk _ _)

theorem homeStore_keeps {s₀ s : State} (hk : Keeps s₀ s) (p : Packet) (a : Nat) (d : List Byte) (mask : Nat) (code : Status)
    (data : List Byte) : Keeps s₀ (homeStore s p a d mask code data).st := hbmStore_keeps hk _ _

theorem fwriteBody_keeps {s₀ s : State} (hk : Keeps s₀ s) (p : Packet) (cover : Bool) : DoneKeeps s₀ (fwriteBody p cover s) := by
  unfold fwriteBody
  extract_lets a n e
  split
  · exact refused_keeps hk _
  · exact done_some (homeStore_keeps hk _ _ _ _ _ _)

theorem fatomicBody_keeps {s₀ s : State} (hk : Keeps s₀ s) (p : Packet) (cover : Bool) : DoneKeeps s₀ (fatomicBody p cover s) := by
  unfold fatomicBody
  extract_lets a w e r
  have h1 : Keeps s₀ r.1 := hbmRead_keeps hk _ _
  clear_value r
  split
  · exact refused_keeps hk _
  · split
    · exact refused_keeps h1 _
    · split
      · exact refused_keeps hk _
      · exact done_some h1
      · exact done_some (homeStore_keeps h1 _ _ _ _ _ _)

theorem doFread_keeps {s₀ s : State} (hk : Keeps s₀ s) (p : Packet) : Keeps s₀ (doFread s p) :=
  arrive_keeps hk p _ _ (fun c _ h => freadBody_keeps h p c)

theorem doFwrite_keeps {s₀ s : State} (hk : Keeps s₀ s) (p : Packet) : Keeps s₀ (doFwrite s p) :=
  arrive_keeps hk p _ _ (fun c _ h => fwriteBody_keeps h p c)

theorem doFatomic_keeps {s₀ s : State} (hk : Keeps s₀ s) (p : Packet) : Keeps s₀ (doFatomic s p) :=
  arrive_keeps hk p _ _ (fun c _ h => fatomicBody_keeps h p c)

theorem execFread_keeps {s₀ s : State} (hk : Keeps s₀ s) (p : Packet) : OutKeeps s₀ (execFread p s) := by
  unfold execFread
  first | apply whenRunning_keeps hk | apply out_next
  try dsimp only
  repeat' first | with_reducible assumption | with_reducible apply whenRunning_keeps | with_reducible apply doFread_keeps | (with_reducible apply keeps_foldl) | (with_reducible intro _ _ _) | (intro g; exact getTile_wf (by assumption) _ g) | with_reducible apply keeps_ite_snd | with_reducible apply keeps_ite_fst | split | (with_reducible intro _) | (dsimp only) | (with_reducible refine keeps_fst ?_ (by with_reducible assumption)) | (with_reducible refine keeps_snd ?_ (by with_reducible assumption)) | (with_reducible refine keeps_opt ?_ (by with_reducible assumption)) | with_reducible exact opt_none | with_reducible apply opt_some | (with_reducible apply tile_foldl) | (with_reducible refine tile_mk ?_ rfl)

theorem execFwrite_keeps {s₀ s : State} (hk : Keeps s₀ s) (p : Packet) : OutKeeps s₀ (execFwrite p s) := by
  unfold execFwrite
  first | apply whenRunning_keeps hk | apply out_next
  try dsimp only
  repeat' first | with_reducible assumption | with_reducible apply whenRunning_keeps | with_reducible apply doFwrite_keeps | (with_reducible apply keeps_foldl) | (with_reducible intro _ _ _) | (intro g; exact getTile_wf (by assumption) _ g) | with_reducible apply keeps_ite_snd | with_reducible apply keeps_ite_fst | split | (with_reducible intro _) | (dsimp only) | (with_reducible refine keeps_fst ?_ (by with_reducible assumption)) | (with_reducible refine keeps_snd ?_ (by with_reducible assumption)) | (with_reducible refine keeps_opt ?_ (by with_reducible assumption)) | with_reducible exact opt_none | with_reducible apply opt_some | (with_reducible apply tile_foldl) | (with_reducible refine tile_mk ?_ rfl)

theorem execFatomic_keeps {s₀ s : State} (hk : Keeps s₀ s) (p : Packet) : OutKeeps s₀ (execFatomic p s) := by
  unfold execFatomic
  first | apply whenRunning_keeps hk | apply out_next
  try dsimp only
  repeat' first | with_reducible assumption | with_reducible apply whenRunning_keeps | with_reducible apply doFatomic_keeps | (with_reducible apply keeps_foldl) | (with_reducible intro _ _ _) | (intro g; exact getTile_wf (by assumption) _ g) | with_reducible apply keeps_ite_snd | with_reducible apply keeps_ite_fst | split | (with_reducible intro _) | (dsimp only) | (with_reducible refine keeps_fst ?_ (by with_reducible assumption)) | (with_reducible refine keeps_snd ?_ (by with_reducible assumption)) | (with_reducible refine keeps_opt ?_ (by with_reducible assumption)) | with_reducible exact opt_none | with_reducible apply opt_some | (with_reducible apply tile_foldl) | (with_reducible refine tile_mk ?_ rfl)

theorem copyStart_keeps {s₀ s : State} (hk : Keeps s₀ s) (p : Packet) (cover : Bool) : Keeps s₀ (copyStart s p cover) := by
  unfold copyStart
  extract_lets len src e f c
  refine keeps_ite (finishHome_keeps _ _ _ hk) ?_
  exact copyCheck_keeps (copyFill_keeps _ _ (setFab_keeps hk _ (by intro g; exact g.peers))) _

theorem doFcopy_keeps {s₀ s : State} (hk : Keeps s₀ s) (p : Packet) : Keeps s₀ (doFcopy s p) := by
  have h0 : Keeps s₀ (takeFabric s p) := takeFabric_keeps hk p
  unfold doFcopy
  split
  · split
    · exact h0
    · rename_i s1 e1
      have h1 : Keeps s₀ s1 := incCheck_keeps h0 p _ e1
      split
      · exact fabReply_keeps h1 _ _ _ _
      · refine keeps_ite h1 ?_
        split
        · exact fabReply_keeps (incFld_keeps h1 _ _ _) _ _ _ _
        · rename_i s2 e2
          have h2 : Keeps s₀ s2 := admitPeer_keeps h1 p _ e2
          exact keeps_ite (setFab_keeps h2 _ (fun g => g.peers)) (copyStart_keeps h2 _ _)
  · exact arrive_keeps hk p _ _ (fun _ _ _ => done_none)

theorem execFcopy_keeps {s₀ s : State} (hk : Keeps s₀ s) (p : Packet) : OutKeeps s₀ (execFcopy p s) := by
  unfold execFcopy
  first | apply whenRunning_keeps hk | apply out_next
  try dsimp only
  repeat' first | with_reducible assumption | with_reducible apply whenRunning_keeps | with_reducible apply doFcopy_keeps | (with_reducible apply keeps_foldl) | (with_reducible intro _ _ _) | (intro g; exact getTile_wf (by assumption) _ g) | with_reducible apply keeps_ite_snd | with_reducible apply keeps_ite_fst | split | (with_reducible intro _) | (dsimp only) | (with_reducible refine keeps_fst ?_ (by with_reducible assumption)) | (with_reducible refine keeps_snd ?_ (by with_reducible assumption)) | (with_reducible refine keeps_opt ?_ (by with_reducible assumption)) | with_reducible exact opt_none | with_reducible apply opt_some | (with_reducible apply tile_foldl) | (with_reducible refine tile_mk ?_ rfl)

theorem signalAt_keeps {s₀ s : State} (hk : Keeps s₀ s) (w0 : Word) (w1 : Word) : Keeps s₀ (signalAt s w0 w1).2 := by
  unfold signalAt
  try dsimp only
  repeat' first | with_reducible assumption | with_reducible apply setFld_keeps | (with_reducible apply keeps_foldl) | (with_reducible intro _ _ _) | (intro g; exact getTile_wf (by assumption) _ g) | with_reducible apply keeps_ite_snd | with_reducible apply keeps_ite_fst | split | (with_reducible intro _) | (dsimp only) | (with_reducible refine keeps_fst ?_ (by with_reducible assumption)) | (with_reducible refine keeps_snd ?_ (by with_reducible assumption)) | (with_reducible refine keeps_opt ?_ (by with_reducible assumption)) | with_reducible exact opt_none | with_reducible apply opt_some | (with_reducible apply tile_foldl) | (with_reducible refine tile_mk ?_ rfl)

theorem fsignalBody_keeps {s₀ s : State} (hk : Keeps s₀ s) (p : Packet) (cover : Bool) : DoneKeeps s₀ (fsignalBody p cover s) := by
  unfold fsignalBody
  extract_lets r
  split
  · exact refused_keeps hk _
  · exact done_some (signalAt_keeps hk _ _)

theorem doFsignal_keeps {s₀ s : State} (hk : Keeps s₀ s) (p : Packet) : Keeps s₀ (doFsignal s p) :=
  arrive_keeps hk p _ _ (fun c _ h => fsignalBody_keeps h p c)

theorem execFsignal_keeps {s₀ s : State} (hk : Keeps s₀ s) (p : Packet) : OutKeeps s₀ (execFsignal p s) := by
  unfold execFsignal
  first | apply whenRunning_keeps hk | apply out_next
  try dsimp only
  repeat' first | with_reducible assumption | with_reducible apply whenRunning_keeps | with_reducible apply doFsignal_keeps | (with_reducible apply keeps_foldl) | (with_reducible intro _ _ _) | (intro g; exact getTile_wf (by assumption) _ g) | with_reducible apply keeps_ite_snd | with_reducible apply keeps_ite_fst | split | (with_reducible intro _) | (dsimp only) | (with_reducible refine keeps_fst ?_ (by with_reducible assumption)) | (with_reducible refine keeps_snd ?_ (by with_reducible assumption)) | (with_reducible refine keeps_opt ?_ (by with_reducible assumption)) | with_reducible exact opt_none | with_reducible apply opt_some | (with_reducible apply tile_foldl) | (with_reducible refine tile_mk ?_ rfl)

theorem queueBody_keeps {s₀ s : State} (hk : Keeps s₀ s) (f : State → Packet → Status × State) (p : Packet) (cover : Bool)
    (hf : ∀ s, Keeps s₀ s → Keeps s₀ (f s p).2) : DoneKeeps s₀ (queueBody f p cover s) := by
  unfold queueBody
  extract_lets r
  split
  · exact refused_keeps hk _
  · exact done_some (hf s hk)

theorem doFpush_keeps {s₀ s : State} (hk : Keeps s₀ s) (p : Packet) : Keeps s₀ (doFpush s p) :=
  arrive_keeps hk p _ _ (fun _ _ h => queueBody_keeps h _ p _ (fun _ h => pushAt_keeps h p))

theorem doFreserve_keeps {s₀ s : State} (hk : Keeps s₀ s) (p : Packet) : Keeps s₀ (doFreserve s p) :=
  arrive_keeps hk p _ _ (fun _ _ h => queueBody_keeps h _ p _ (fun _ h => reserveAt_keeps h p))

theorem doFcredit_keeps {s₀ s : State} (hk : Keeps s₀ s) (p : Packet) : Keeps s₀ (doFcredit s p) :=
  arrive_keeps hk p _ _ (fun _ _ h => queueBody_keeps h _ p _ (fun _ h => creditAt_keeps h p))

theorem doFgrant_keeps {s₀ s : State} (hk : Keeps s₀ s) (p : Packet) : Keeps s₀ (doFgrant s p) :=
  arrive_keeps hk p _ _ (fun _ _ h => queueBody_keeps h _ p _ (fun _ h => grantAt_keeps h p))

theorem doFendmark_keeps {s₀ s : State} (hk : Keeps s₀ s) (p : Packet) : Keeps s₀ (doFendmark s p) :=
  arrive_keeps hk p _ _ (fun _ _ h => queueBody_keeps h _ p _ (fun _ h => endmarkAt_keeps h p))

theorem execFpush_keeps {s₀ s : State} (hk : Keeps s₀ s) (p : Packet) : OutKeeps s₀ (execFpush p s) := by
  unfold execFpush
  first | apply whenRunning_keeps hk | apply out_next
  try dsimp only
  repeat' first | with_reducible assumption | with_reducible apply whenRunning_keeps | with_reducible apply doFpush_keeps | (with_reducible apply keeps_foldl) | (with_reducible intro _ _ _) | (intro g; exact getTile_wf (by assumption) _ g) | with_reducible apply keeps_ite_snd | with_reducible apply keeps_ite_fst | split | (with_reducible intro _) | (dsimp only) | (with_reducible refine keeps_fst ?_ (by with_reducible assumption)) | (with_reducible refine keeps_snd ?_ (by with_reducible assumption)) | (with_reducible refine keeps_opt ?_ (by with_reducible assumption)) | with_reducible exact opt_none | with_reducible apply opt_some | (with_reducible apply tile_foldl) | (with_reducible refine tile_mk ?_ rfl)

theorem execFreserve_keeps {s₀ s : State} (hk : Keeps s₀ s) (p : Packet) : OutKeeps s₀ (execFreserve p s) := by
  unfold execFreserve
  first | apply whenRunning_keeps hk | apply out_next
  try dsimp only
  repeat' first | with_reducible assumption | with_reducible apply whenRunning_keeps | with_reducible apply doFreserve_keeps | (with_reducible apply keeps_foldl) | (with_reducible intro _ _ _) | (intro g; exact getTile_wf (by assumption) _ g) | with_reducible apply keeps_ite_snd | with_reducible apply keeps_ite_fst | split | (with_reducible intro _) | (dsimp only) | (with_reducible refine keeps_fst ?_ (by with_reducible assumption)) | (with_reducible refine keeps_snd ?_ (by with_reducible assumption)) | (with_reducible refine keeps_opt ?_ (by with_reducible assumption)) | with_reducible exact opt_none | with_reducible apply opt_some | (with_reducible apply tile_foldl) | (with_reducible refine tile_mk ?_ rfl)

theorem execFcredit_keeps {s₀ s : State} (hk : Keeps s₀ s) (p : Packet) : OutKeeps s₀ (execFcredit p s) := by
  unfold execFcredit
  first | apply whenRunning_keeps hk | apply out_next
  try dsimp only
  repeat' first | with_reducible assumption | with_reducible apply whenRunning_keeps | with_reducible apply doFcredit_keeps | (with_reducible apply keeps_foldl) | (with_reducible intro _ _ _) | (intro g; exact getTile_wf (by assumption) _ g) | with_reducible apply keeps_ite_snd | with_reducible apply keeps_ite_fst | split | (with_reducible intro _) | (dsimp only) | (with_reducible refine keeps_fst ?_ (by with_reducible assumption)) | (with_reducible refine keeps_snd ?_ (by with_reducible assumption)) | (with_reducible refine keeps_opt ?_ (by with_reducible assumption)) | with_reducible exact opt_none | with_reducible apply opt_some | (with_reducible apply tile_foldl) | (with_reducible refine tile_mk ?_ rfl)

theorem execFgrant_keeps {s₀ s : State} (hk : Keeps s₀ s) (p : Packet) : OutKeeps s₀ (execFgrant p s) := by
  unfold execFgrant
  first | apply whenRunning_keeps hk | apply out_next
  try dsimp only
  repeat' first | with_reducible assumption | with_reducible apply whenRunning_keeps | with_reducible apply doFgrant_keeps | (with_reducible apply keeps_foldl) | (with_reducible intro _ _ _) | (intro g; exact getTile_wf (by assumption) _ g) | with_reducible apply keeps_ite_snd | with_reducible apply keeps_ite_fst | split | (with_reducible intro _) | (dsimp only) | (with_reducible refine keeps_fst ?_ (by with_reducible assumption)) | (with_reducible refine keeps_snd ?_ (by with_reducible assumption)) | (with_reducible refine keeps_opt ?_ (by with_reducible assumption)) | with_reducible exact opt_none | with_reducible apply opt_some | (with_reducible apply tile_foldl) | (with_reducible refine tile_mk ?_ rfl)

theorem execFendmark_keeps {s₀ s : State} (hk : Keeps s₀ s) (p : Packet) : OutKeeps s₀ (execFendmark p s) := by
  unfold execFendmark
  first | apply whenRunning_keeps hk | apply out_next
  try dsimp only
  repeat' first | with_reducible assumption | with_reducible apply whenRunning_keeps | with_reducible apply doFendmark_keeps | (with_reducible apply keeps_foldl) | (with_reducible intro _ _ _) | (intro g; exact getTile_wf (by assumption) _ g) | with_reducible apply keeps_ite_snd | with_reducible apply keeps_ite_fst | split | (with_reducible intro _) | (dsimp only) | (with_reducible refine keeps_fst ?_ (by with_reducible assumption)) | (with_reducible refine keeps_snd ?_ (by with_reducible assumption)) | (with_reducible refine keeps_opt ?_ (by with_reducible assumption)) | with_reducible exact opt_none | with_reducible apply opt_some | (with_reducible apply tile_foldl) | (with_reducible refine tile_mk ?_ rfl)

theorem fabricArrives_keeps {s₀ s : State} (hk : Keeps s₀ s) (p : Packet) : Keeps s₀ (fabricArrives s p) := by
  unfold fabricArrives
  try dsimp only
  repeat' first | with_reducible assumption | with_reducible apply doFread_keeps | with_reducible apply doFwrite_keeps | with_reducible apply doFatomic_keeps | with_reducible apply doFcopy_keeps | with_reducible apply doFsignal_keeps | with_reducible apply doFpush_keeps | with_reducible apply doFreserve_keeps | with_reducible apply doFcredit_keeps | with_reducible apply doFgrant_keeps | with_reducible apply doFendmark_keeps | (with_reducible apply keeps_foldl) | (with_reducible intro _ _ _) | (intro g; exact getTile_wf (by assumption) _ g) | with_reducible apply keeps_ite_snd | with_reducible apply keeps_ite_fst | split | (with_reducible intro _) | (dsimp only) | (with_reducible refine keeps_fst ?_ (by with_reducible assumption)) | (with_reducible refine keeps_snd ?_ (by with_reducible assumption)) | (with_reducible refine keeps_opt ?_ (by with_reducible assumption)) | with_reducible exact opt_none | with_reducible apply opt_some | (with_reducible apply tile_foldl) | (with_reducible refine tile_mk ?_ rfl)

theorem execRecordExpiry_keeps {s₀ s : State} (hk : Keeps s₀ s) (key : DedupKey) : OutKeeps s₀ (execRecordExpiry key s) := by
  unfold execRecordExpiry
  first | apply whenRunning_keeps hk | apply out_next
  try dsimp only
  repeat' first | with_reducible assumption | with_reducible apply whenRunning_keeps | with_reducible apply setFab_keeps | with_reducible apply fabricArrives_keeps | (with_reducible apply keeps_foldl) | (with_reducible intro _ _ _) | (intro g; exact getTile_wf (by assumption) _ g) | (intro g; exact g.peers) | with_reducible apply keeps_ite_snd | with_reducible apply keeps_ite_fst | split | (with_reducible intro _) | (dsimp only) | (with_reducible refine keeps_fst ?_ (by with_reducible assumption)) | (with_reducible refine keeps_snd ?_ (by with_reducible assumption)) | (with_reducible refine keeps_opt ?_ (by with_reducible assumption)) | with_reducible exact opt_none | with_reducible apply opt_some | (with_reducible refine keeps_mk ?_ rfl rfl rfl rfl rfl rfl rfl) | (with_reducible apply tile_foldl) | (with_reducible refine tile_mk ?_ rfl)

theorem execFabricResponse_keeps {s₀ s : State} (hk : Keeps s₀ s) (p : Packet) : OutKeeps s₀ (execFabricResponse p s) := by
  unfold execFabricResponse
  first | apply whenRunning_keeps hk | apply out_next
  try dsimp only
  repeat' first | with_reducible assumption | with_reducible apply whenRunning_keeps | with_reducible apply takeFabric_keeps | with_reducible apply sendFabric_keeps | with_reducible apply fabComplete_keeps | (with_reducible apply keeps_foldl) | (with_reducible intro _ _ _) | (intro g; exact getTile_wf (by assumption) _ g) | with_reducible apply keeps_ite_snd | with_reducible apply keeps_ite_fst | split | (with_reducible intro _) | (dsimp only) | (with_reducible refine keeps_fst ?_ (by with_reducible assumption)) | (with_reducible refine keeps_snd ?_ (by with_reducible assumption)) | (with_reducible refine keeps_opt ?_ (by with_reducible assumption)) | with_reducible exact opt_none | with_reducible apply opt_some | (with_reducible apply tile_foldl) | (with_reducible refine tile_mk ?_ rfl)

theorem execAdmitWait_keeps {s₀ s : State} (hk : Keeps s₀ s) (p : Packet) (age : Nat) : OutKeeps s₀ (execAdmitWait p age s) := by
  unfold execAdmitWait
  first | apply whenRunning_keeps hk | apply out_next
  try dsimp only
  repeat' first | with_reducible assumption | with_reducible apply whenRunning_keeps | with_reducible apply takeFabric_keeps | with_reducible apply setFab_keeps | (with_reducible apply keeps_foldl) | (with_reducible intro _ _ _) | (intro g; exact getTile_wf (by assumption) _ g) | (intro g; exact g.peers) | with_reducible apply keeps_ite_snd | with_reducible apply keeps_ite_fst | split | (with_reducible intro _) | (dsimp only) | (with_reducible refine keeps_fst ?_ (by with_reducible assumption)) | (with_reducible refine keeps_snd ?_ (by with_reducible assumption)) | (with_reducible refine keeps_opt ?_ (by with_reducible assumption)) | with_reducible exact opt_none | with_reducible apply opt_some | (with_reducible refine keeps_mk ?_ rfl rfl rfl rfl rfl rfl rfl) | (with_reducible apply tile_foldl) | (with_reducible refine tile_mk ?_ rfl)

theorem execFabricRetry_keeps {s₀ s : State} (hk : Keeps s₀ s) (id : Nat) : OutKeeps s₀ (execFabricRetry id s) := by
  unfold execFabricRetry
  first | apply whenRunning_keeps hk | apply out_next
  try dsimp only
  repeat' first | with_reducible assumption | with_reducible apply whenRunning_keeps | with_reducible apply sendFabric_keeps | (with_reducible apply keeps_foldl) | (with_reducible intro _ _ _) | (intro g; exact getTile_wf (by assumption) _ g) | with_reducible apply keeps_ite_snd | with_reducible apply keeps_ite_fst | split | (with_reducible intro _) | (dsimp only) | (with_reducible refine keeps_fst ?_ (by with_reducible assumption)) | (with_reducible refine keeps_snd ?_ (by with_reducible assumption)) | (with_reducible refine keeps_opt ?_ (by with_reducible assumption)) | with_reducible exact opt_none | with_reducible apply opt_some | (with_reducible refine keeps_mk ?_ rfl rfl rfl rfl rfl rfl rfl) | (with_reducible apply tile_foldl) | (with_reducible refine tile_mk ?_ rfl)

theorem execFabricTimeout_keeps {s₀ s : State} (hk : Keeps s₀ s) (id : Nat) : OutKeeps s₀ (execFabricTimeout id s) := by
  unfold execFabricTimeout
  first | apply whenRunning_keeps hk | apply out_next
  try dsimp only
  repeat' first | with_reducible assumption | with_reducible apply whenRunning_keeps | with_reducible apply fabComplete_keeps | (with_reducible apply keeps_foldl) | (with_reducible intro _ _ _) | (intro g; exact getTile_wf (by assumption) _ g) | with_reducible apply keeps_ite_snd | with_reducible apply keeps_ite_fst | split | (with_reducible intro _) | (dsimp only) | (with_reducible refine keeps_fst ?_ (by with_reducible assumption)) | (with_reducible refine keeps_snd ?_ (by with_reducible assumption)) | (with_reducible refine keeps_opt ?_ (by with_reducible assumption)) | with_reducible exact opt_none | with_reducible apply opt_some | (with_reducible apply tile_foldl) | (with_reducible refine tile_mk ?_ rfl)

theorem execHoldLimit_keeps {s₀ s : State} (hk : Keeps s₀ s) (id : Nat) : OutKeeps s₀ (execHoldLimit id s) := by
  unfold execHoldLimit
  first | apply whenRunning_keeps hk | apply out_next
  try dsimp only
  repeat' first | with_reducible assumption | with_reducible apply whenRunning_keeps | with_reducible apply fabComplete_keeps | (with_reducible apply keeps_foldl) | (with_reducible intro _ _ _) | (intro g; exact getTile_wf (by assumption) _ g) | with_reducible apply keeps_ite_snd | with_reducible apply keeps_ite_fst | split | (with_reducible intro _) | (dsimp only) | (with_reducible refine keeps_fst ?_ (by with_reducible assumption)) | (with_reducible refine keeps_snd ?_ (by with_reducible assumption)) | (with_reducible refine keeps_opt ?_ (by with_reducible assumption)) | with_reducible exact opt_none | with_reducible apply opt_some | (with_reducible apply tile_foldl) | (with_reducible refine tile_mk ?_ rfl)

theorem execTokenGain_keeps {s₀ s : State} (hk : Keeps s₀ s)  : OutKeeps s₀ (execTokenGain s) := by
  unfold execTokenGain
  first | apply whenRunning_keeps hk | apply out_next
  try dsimp only
  repeat' first | with_reducible assumption | with_reducible apply whenRunning_keeps | with_reducible apply fabPump_keeps | with_reducible apply setFld_keeps | (with_reducible apply keeps_foldl) | (with_reducible intro _ _ _) | (intro g; exact getTile_wf (by assumption) _ g) | with_reducible apply keeps_ite_snd | with_reducible apply keeps_ite_fst | split | (with_reducible intro _) | (dsimp only) | (with_reducible refine keeps_fst ?_ (by with_reducible assumption)) | (with_reducible refine keeps_snd ?_ (by with_reducible assumption)) | (with_reducible refine keeps_opt ?_ (by with_reducible assumption)) | with_reducible exact opt_none | with_reducible apply opt_some | (with_reducible apply tile_foldl) | (with_reducible refine tile_mk ?_ rfl)

theorem execContextReuse_keeps {s₀ s : State} (hk : Keeps s₀ s) (peer : BitVec 20) : OutKeeps s₀ (execContextReuse peer s) := by
  unfold execContextReuse
  apply whenRunning_keeps hk
  refine keeps_ite hk (fabPump_keeps (setFab_keeps hk _ (fun g => ?_)))
  exact Nat.le_trans (List.length_filter_le _ _) g.peers

theorem fxErr_keeps {s₀ s : State} (hk : Keeps s₀ s)  : Keeps s₀ (fxErr s) := by
  unfold fxErr
  try dsimp only
  repeat' first | with_reducible assumption | with_reducible apply setFlag_keeps | (with_reducible apply keeps_foldl) | (with_reducible intro _ _ _) | (intro g; exact getTile_wf (by assumption) _ g) | with_reducible apply keeps_ite_snd | with_reducible apply keeps_ite_fst | split | (with_reducible intro _) | (dsimp only) | (with_reducible refine keeps_fst ?_ (by with_reducible assumption)) | (with_reducible refine keeps_snd ?_ (by with_reducible assumption)) | (with_reducible refine keeps_opt ?_ (by with_reducible assumption)) | with_reducible exact opt_none | with_reducible apply opt_some | (with_reducible apply tile_foldl) | (with_reducible refine tile_mk ?_ rfl)

theorem setRingTail_keeps {s₀ s : State} (hk : Keeps s₀ s) (r : Nat) (v : Nat) : Keeps s₀ (setRingTail s r v) := by
  unfold setRingTail
  try dsimp only
  repeat' first | with_reducible assumption | with_reducible apply fxErr_keeps | with_reducible apply setFld_keeps | (with_reducible apply keeps_foldl) | (with_reducible intro _ _ _) | (intro g; exact getTile_wf (by assumption) _ g) | with_reducible apply keeps_ite_snd | with_reducible apply keeps_ite_fst | split | (with_reducible intro _) | (dsimp only) | (with_reducible refine keeps_fst ?_ (by with_reducible assumption)) | (with_reducible refine keeps_snd ?_ (by with_reducible assumption)) | (with_reducible refine keeps_opt ?_ (by with_reducible assumption)) | with_reducible exact opt_none | with_reducible apply opt_some | (with_reducible apply tile_foldl) | (with_reducible refine tile_mk ?_ rfl)

theorem execFxCqdb_keeps {s₀ s : State} (hk : Keeps s₀ s) (ring : Fin 16) (v : Word) : OutKeeps s₀ (execFxCqdb ring v s) := by
  unfold execFxCqdb
  first | apply whenRunning_keeps hk | apply out_next
  try dsimp only
  repeat' first | with_reducible assumption | with_reducible apply whenRunning_keeps | with_reducible apply setRingTail_keeps | (with_reducible apply keeps_foldl) | (with_reducible intro _ _ _) | (intro g; exact getTile_wf (by assumption) _ g) | with_reducible apply keeps_ite_snd | with_reducible apply keeps_ite_fst | split | (with_reducible intro _) | (dsimp only) | (with_reducible refine keeps_fst ?_ (by with_reducible assumption)) | (with_reducible refine keeps_snd ?_ (by with_reducible assumption)) | (with_reducible refine keeps_opt ?_ (by with_reducible assumption)) | with_reducible exact opt_none | with_reducible apply opt_some | (with_reducible apply tile_foldl) | (with_reducible refine tile_mk ?_ rfl)

theorem descRequest_keeps {s₀ s : State} (hk : Keeps s₀ s) (w : List Word) : Keeps s₀ (descRequest s w).1 := by
  unfold descRequest
  try dsimp only
  repeat' first | with_reducible assumption | with_reducible apply hbmRead_keeps | (with_reducible apply keeps_foldl) | (with_reducible intro _ _ _) | (intro g; exact getTile_wf (by assumption) _ g) | with_reducible apply keeps_ite_snd | with_reducible apply keeps_ite_fst | split | (with_reducible intro _) | (dsimp only) | (with_reducible refine keeps_fst ?_ (by with_reducible assumption)) | (with_reducible refine keeps_snd ?_ (by with_reducible assumption)) | (with_reducible refine keeps_opt ?_ (by with_reducible assumption)) | with_reducible exact opt_none | with_reducible apply opt_some | (with_reducible refine keeps_mk ?_ rfl rfl rfl rfl rfl rfl rfl) | (with_reducible apply tile_foldl) | (with_reducible refine tile_mk ?_ rfl)

theorem execDescriptor_keeps {s₀ s : State} (hk : Keeps s₀ s) (ring : Fin 16) : OutKeeps s₀ (execDescriptor ring s) := by
  unfold execDescriptor
  first | apply whenRunning_keeps hk | apply out_next
  try dsimp only
  repeat' first | with_reducible assumption | with_reducible apply whenRunning_keeps | with_reducible apply hbmRead_keeps | with_reducible apply setRing_keeps | with_reducible apply setFld_keeps | with_reducible apply ringResult_keeps | with_reducible apply descRequest_keeps | with_reducible apply fabIssue_keeps | (with_reducible apply keeps_foldl) | (with_reducible intro _ _ _) | (intro g; exact getTile_wf (by assumption) _ g) | with_reducible apply keeps_ite_snd | with_reducible apply keeps_ite_fst | split | (with_reducible intro _) | (dsimp only) | (with_reducible refine keeps_fst ?_ (by with_reducible assumption)) | (with_reducible refine keeps_snd ?_ (by with_reducible assumption)) | (with_reducible refine keeps_opt ?_ (by with_reducible assumption)) | with_reducible exact opt_none | with_reducible apply opt_some | (with_reducible apply tile_foldl) | (with_reducible refine tile_mk ?_ rfl)

end Sys2Proof.Machine
end

