-- ==== Sys2Proof/Laws/KeepLogic.lean ====
section
/-! SUPPORT. What the operations of Machine/Logic.lean keep (see Laws/Keep.lean). -/

namespace Sys2Proof.Machine
open Sys2Proof

theorem assertNets_keeps {s₀ s : State} (hk : Keeps s₀ s) (r : RegionId) : Keeps s₀ (assertNets s r) := by
  unfold assertNets
  try dsimp only
  repeat' first | with_reducible assumption | with_reducible apply setRegion_keeps | (with_reducible apply keeps_foldl) | (with_reducible intro _ _ _) | (intro g; exact getTile_wf (by assumption) _ g) | with_reducible apply keeps_ite_snd | with_reducible apply keeps_ite_fst | split | (with_reducible intro _) | (dsimp only) | (with_reducible refine keeps_fst ?_ (by with_reducible assumption)) | (with_reducible refine keeps_snd ?_ (by with_reducible assumption)) | (with_reducible refine keeps_opt ?_ (by with_reducible assumption)) | with_reducible exact opt_none | with_reducible apply opt_some | (with_reducible refine keeps_mk ?_ rfl rfl rfl rfl rfl rfl rfl) | (with_reducible apply tile_foldl) | (with_reducible refine tile_mk ?_ rfl)

theorem qcTick_keeps {s₀ : State} (s0 : State) (r : RegionId) {s : State} (q : Fin 512) (hk : Keeps s₀ s) : Keeps s₀ (qcTick s0 r s q) := by
  unfold qcTick
  extract_lets d a w t s1 s2
  have h1 : Keeps s₀ s1 := keeps_ite (putWrite_keeps hk _ _ _) (keeps_ite (qcWriteEdge_keeps hk _ _ _ _) hk)
  have h2 : Keeps s₀ s2 := keeps_ite (putQc_keeps h1 _ _ _) (keeps_ite (qcReadEdge_keeps h1 _ _ _ _) h1)
  exact qcAsk_keeps (qcTryGrant_keeps h2 _ _) _ _

theorem cvTake_keeps {s₀ : State} (s0 : State) (r : RegionId) (u : CvId) (a : Nat) {s : State} (hk : Keeps s₀ s) :
    Keeps s₀ (cvTake s0 r u a s) := by
  unfold cvTake
  extract_lets t c
  generalize c / 32 = c1
  generalize c % 2 = c2
  split
  · exact cvClearEdge_keeps hk _
  · split
    · exact cvFeedEdge_keeps hk _ _ _ _
    · exact hk

theorem cvTick_keeps {s₀ : State} (s0 : State) (r : RegionId) {s : State} (i : Nat) (hk : Keeps s₀ s) : Keeps s₀ (cvTick s0 r s i) := by
  unfold cvTick
  extract_lets u
  exact keeps_ite (cvTake_keeps s0 r u _ (setCv_keeps hk _ _)) hk

theorem pinTick_keeps {s₀ : State} (s0 : State) (r : RegionId) {s : State} (i : Nat) (hk : Keeps s₀ s) : Keeps s₀ (pinTick s0 r s i) := hk

theorem blocksTick_keeps {s₀ : State} (s0 : State) {s : State} (r : RegionId) (hk : Keeps s₀ s) : Keeps s₀ (blocksTick s0 s r) := by
  unfold blocksTick
  extract_lets s1 s2
  have h1 : Keeps s₀ s1 := keeps_foldl (fun _ q h => qcTick_keeps s0 r q h) _ hk
  have h2 : Keeps s₀ s2 := keeps_foldl (fun _ i h => cvTick_keeps s0 r i h) _ h1
  exact keeps_ite (keeps_foldl (fun _ i h => pinTick_keeps s0 r i h) _ h2) h2

theorem logicTick_keeps {s₀ s : State} (hk : Keeps s₀ s) : Keeps s₀ (logicTick s) := by
  unfold logicTick
  extract_lets rs s1 s2 s3
  have h1 : Keeps s₀ s1 := keeps_foldl (fun _ _ h => setRegion_keeps h _ _) _ hk
  have h2 : Keeps s₀ s2 := keeps_foldl (fun _ r h => blocksTick_keeps s r h) _ h1
  have h3 : Keeps s₀ s3 := keeps_foldl (fun _ r h => assertNets_keeps h r) _ h2
  exact keeps_ite hk h3

end Sys2Proof.Machine
end

