-- ==== Sys2Proof/Laws/KeepDict.lean ====
section
/-! SUPPORT. What the operations of Machine/Dict.lean keep (see Laws/Keep.lean). -/

namespace Sys2Proof.Machine
open Sys2Proof

theorem setRegionOp_keeps {s₀ s : State} (hk : Keeps s₀ s) (o : Option (Nat × Nat)) : Keeps s₀ (setRegionOp s o) := by
  unfold setRegionOp
  try dsimp only
  repeat' first | with_reducible assumption | with_reducible apply mgmt_keeps | (with_reducible apply keeps_foldl) | (with_reducible intro _ _ _) | (intro g; exact getTile_wf (by assumption) _ g) | with_reducible apply keeps_ite_snd | with_reducible apply keeps_ite_fst | split | (with_reducible intro _) | (dsimp only) | (with_reducible refine keeps_fst ?_ (by with_reducible assumption)) | (with_reducible refine keeps_snd ?_ (by with_reducible assumption)) | (with_reducible refine keeps_opt ?_ (by with_reducible assumption)) | with_reducible exact opt_none | with_reducible apply opt_some | (with_reducible refine keeps_mk ?_ rfl rfl rfl rfl rfl rfl rfl) | (with_reducible apply tile_foldl) | (with_reducible refine tile_mk ?_ rfl)

theorem endRegionOp_keeps {s₀ s : State} (hk : Keeps s₀ s) (e : Status) : Keeps s₀ (endRegionOp s e) := by
  unfold endRegionOp
  try dsimp only
  repeat' first | with_reducible assumption | with_reducible apply objSetN_keeps | with_reducible apply setRegionOp_keeps | (with_reducible apply keeps_foldl) | (with_reducible intro _ _ _) | (intro g; exact getTile_wf (by assumption) _ g) | with_reducible apply keeps_ite_snd | with_reducible apply keeps_ite_fst | split | (with_reducible intro _) | (dsimp only) | (with_reducible refine keeps_fst ?_ (by with_reducible assumption)) | (with_reducible refine keeps_snd ?_ (by with_reducible assumption)) | (with_reducible refine keeps_opt ?_ (by with_reducible assumption)) | with_reducible exact opt_none | with_reducible apply opt_some | (with_reducible apply tile_foldl) | (with_reducible refine tile_mk ?_ rfl)

theorem endNow_keeps {s₀ s : State} (hk : Keeps s₀ s) (r : RegionId) : Keeps s₀ (endNow s r) := by
  unfold endNow
  try dsimp only
  repeat' first | with_reducible assumption | with_reducible apply endRegionOp_keeps | (with_reducible apply keeps_foldl) | (with_reducible intro _ _ _) | (intro g; exact getTile_wf (by assumption) _ g) | with_reducible apply keeps_ite_snd | with_reducible apply keeps_ite_fst | split | (with_reducible intro _) | (dsimp only) | (with_reducible refine keeps_fst ?_ (by with_reducible assumption)) | (with_reducible refine keeps_snd ?_ (by with_reducible assumption)) | (with_reducible refine keeps_opt ?_ (by with_reducible assumption)) | with_reducible exact opt_none | with_reducible apply opt_some | (with_reducible apply tile_foldl) | (with_reducible refine tile_mk ?_ rfl)

theorem regionStep_keeps {s₀ s : State} (hk : Keeps s₀ s)  : Keeps s₀ (regionStep s) := by
  unfold regionStep
  try dsimp only
  repeat' first | with_reducible assumption | with_reducible apply endRegionOp_keeps | with_reducible apply endNow_keeps | with_reducible apply doBegin_keeps | with_reducible apply setRegionOp_keeps | with_reducible apply setFld_keeps | with_reducible apply doFetch_keeps | with_reducible apply doCommit_keeps | with_reducible apply doRelease_keeps | with_reducible apply doClear_keeps | with_reducible apply doHalt_keeps | with_reducible apply doResume_keeps | (with_reducible apply keeps_foldl) | (with_reducible intro _ _ _) | (intro g; exact getTile_wf (by assumption) _ g) | with_reducible apply keeps_ite_snd | with_reducible apply keeps_ite_fst | split | (with_reducible intro _) | (dsimp only) | (with_reducible refine keeps_fst ?_ (by with_reducible assumption)) | (with_reducible refine keeps_snd ?_ (by with_reducible assumption)) | (with_reducible refine keeps_opt ?_ (by with_reducible assumption)) | with_reducible exact opt_none | with_reducible apply opt_some | (with_reducible apply tile_foldl) | (with_reducible refine tile_mk ?_ rfl)

theorem startRegionOp_keeps {s₀ s : State} (hk : Keeps s₀ s) (op : Nat) : Keeps s₀ (startRegionOp s op) := by
  unfold startRegionOp
  try dsimp only
  repeat' first | with_reducible assumption | with_reducible apply regionStep_keeps | with_reducible apply setRegionOp_keeps | with_reducible apply objSetN_keeps | (with_reducible apply keeps_foldl) | (with_reducible intro _ _ _) | (intro g; exact getTile_wf (by assumption) _ g) | with_reducible apply keeps_ite_snd | with_reducible apply keeps_ite_fst | split | (with_reducible intro _) | (dsimp only) | (with_reducible refine keeps_fst ?_ (by with_reducible assumption)) | (with_reducible refine keeps_snd ?_ (by with_reducible assumption)) | (with_reducible refine keeps_opt ?_ (by with_reducible assumption)) | with_reducible exact opt_none | with_reducible apply opt_some | (with_reducible apply tile_foldl) | (with_reducible refine tile_mk ?_ rfl)

theorem regionCommand_keeps {s₀ s : State} (hk : Keeps s₀ s) (op : Nat) : OutKeeps s₀ (regionCommand op s) := by
  unfold regionCommand
  first | apply whenRunning_keeps hk | apply out_next
  try dsimp only
  repeat' first | with_reducible assumption | with_reducible apply startRegionOp_keeps | with_reducible apply regionStep_keeps | (with_reducible apply keeps_foldl) | (with_reducible intro _ _ _) | (intro g; exact getTile_wf (by assumption) _ g) | with_reducible apply keeps_ite_snd | with_reducible apply keeps_ite_fst | split | (with_reducible intro _) | (dsimp only) | (with_reducible refine keeps_fst ?_ (by with_reducible assumption)) | (with_reducible refine keeps_snd ?_ (by with_reducible assumption)) | (with_reducible refine keeps_opt ?_ (by with_reducible assumption)) | with_reducible exact opt_none | with_reducible apply opt_some | (with_reducible apply tile_foldl) | (with_reducible refine tile_mk ?_ rfl)

theorem execRegionLoad_keeps {s₀ s : State} (hk : Keeps s₀ s) : OutKeeps s₀ (execRegionLoad s) := regionCommand_keeps hk 1

theorem execRegionClear_keeps {s₀ s : State} (hk : Keeps s₀ s) : OutKeeps s₀ (execRegionClear s) := regionCommand_keeps hk 2

theorem execRegionHalt_keeps {s₀ s : State} (hk : Keeps s₀ s) : OutKeeps s₀ (execRegionHalt s) := regionCommand_keeps hk 3

theorem execRegionResume_keeps {s₀ s : State} (hk : Keeps s₀ s) : OutKeeps s₀ (execRegionResume s) := regionCommand_keeps hk 4

theorem readEntry_keeps {s₀ s : State} (hk : Keeps s₀ s) (v : DictVia) (o : DictRef) : Keeps s₀ (readEntry s v o).2.2 := by
  unfold readEntry
  try dsimp only
  repeat' first | with_reducible assumption | with_reducible apply doReport_keeps | with_reducible apply doReadout_keeps | (with_reducible apply keeps_foldl) | (with_reducible intro _ _ _) | (intro g; exact getTile_wf (by assumption) _ g) | with_reducible apply keeps_ite_snd | with_reducible apply keeps_ite_fst | split | (with_reducible intro _) | (dsimp only) | (with_reducible refine keeps_fst ?_ (by with_reducible assumption)) | (with_reducible refine keeps_snd ?_ (by with_reducible assumption)) | (with_reducible refine keeps_opt ?_ (by with_reducible assumption)) | with_reducible exact opt_none | with_reducible apply opt_some | (with_reducible apply tile_foldl) | (with_reducible refine tile_mk ?_ rfl)

theorem doUpdOp_keeps {s₀ s : State} (hk : Keeps s₀ s) (host : Bool) (op : Nat) : Keeps s₀ (doUpdOp s host op).2 := by
  unfold doUpdOp
  try dsimp only
  repeat' first | with_reducible assumption | with_reducible apply doUpdCommit_keeps | with_reducible apply setUpd_keeps | with_reducible apply doUpdReset_keeps | (with_reducible apply keeps_foldl) | (with_reducible intro _ _ _) | (intro g; exact getTile_wf (by assumption) _ g) | with_reducible apply keeps_ite_snd | with_reducible apply keeps_ite_fst | split | (with_reducible intro _) | (dsimp only) | (with_reducible refine keeps_fst ?_ (by with_reducible assumption)) | (with_reducible refine keeps_snd ?_ (by with_reducible assumption)) | (with_reducible refine keeps_opt ?_ (by with_reducible assumption)) | with_reducible exact opt_none | with_reducible apply opt_some | (with_reducible apply tile_foldl) | (with_reducible refine tile_mk ?_ rfl)

theorem noteUnapplied_keeps {s₀ s : State} (hk : Keeps s₀ s) (o : DictRef) : Keeps s₀ (noteUnapplied s o) := by
  unfold noteUnapplied
  try dsimp only
  repeat' first | with_reducible assumption | with_reducible apply mgmt_keeps | (with_reducible apply keeps_foldl) | (with_reducible intro _ _ _) | (intro g; exact getTile_wf (by assumption) _ g) | with_reducible apply keeps_ite_snd | with_reducible apply keeps_ite_fst | split | (with_reducible intro _) | (dsimp only) | (with_reducible refine keeps_fst ?_ (by with_reducible assumption)) | (with_reducible refine keeps_snd ?_ (by with_reducible assumption)) | (with_reducible refine keeps_opt ?_ (by with_reducible assumption)) | with_reducible exact opt_none | with_reducible apply opt_some | (with_reducible refine keeps_mk ?_ rfl rfl rfl rfl rfl rfl rfl) | (with_reducible apply tile_foldl) | (with_reducible refine tile_mk ?_ rfl)

theorem applyWrite_keeps {s₀ s : State} (hk : Keeps s₀ s) (o : DictRef) (v : List Byte) : Keeps s₀ (applyWrite s o v).2 := by
  unfold applyWrite
  try dsimp only
  repeat' first | with_reducible assumption | with_reducible apply doFreeze_keeps | with_reducible apply doThaw_keeps | with_reducible apply setDevnum_keeps | with_reducible apply doYield_keeps | with_reducible apply doRestore_keeps | with_reducible apply doMirrorChange_keeps | with_reducible apply objSet_keeps | with_reducible apply startRegionOp_keeps | with_reducible apply doOwnerKey_keeps | with_reducible apply mgmt_keeps | with_reducible apply doUpdOp_keeps | with_reducible apply doManifest_keeps | with_reducible apply doData_keeps | with_reducible apply noteUnapplied_keeps | (with_reducible apply keeps_foldl) | (with_reducible intro _ _ _) | (intro g; exact getTile_wf (by assumption) _ g) | with_reducible apply keeps_ite_snd | with_reducible apply keeps_ite_fst | split | (with_reducible intro _) | (dsimp only) | (with_reducible refine keeps_fst ?_ (by with_reducible assumption)) | (with_reducible refine keeps_snd ?_ (by with_reducible assumption)) | (with_reducible refine keeps_opt ?_ (by with_reducible assumption)) | with_reducible exact opt_none | with_reducible apply opt_some | (with_reducible apply tile_foldl) | (with_reducible refine tile_mk ?_ rfl)

theorem writeEntry_keeps {s₀ s : State} (hk : Keeps s₀ s) (v : DictVia) (o : DictRef) (x : List Byte) : Keeps s₀ (writeEntry s v o x).2.1 := by
  unfold writeEntry
  try dsimp only
  repeat' first | with_reducible assumption | with_reducible apply applyWrite_keeps | (with_reducible apply keeps_foldl) | (with_reducible intro _ _ _) | (intro g; exact getTile_wf (by assumption) _ g) | with_reducible apply keeps_ite_snd | with_reducible apply keeps_ite_fst | split | (with_reducible intro _) | (dsimp only) | (with_reducible refine keeps_fst ?_ (by with_reducible assumption)) | (with_reducible refine keeps_snd ?_ (by with_reducible assumption)) | (with_reducible refine keeps_opt ?_ (by with_reducible assumption)) | with_reducible exact opt_none | with_reducible apply opt_some | (with_reducible apply tile_foldl) | (with_reducible refine tile_mk ?_ rfl)

theorem readAll_keeps {s₀ : State} (v : DictVia) : ∀ (es : List DictRef) (failed : Bool) {s : State}, Keeps s₀ s →
    Keeps s₀ (readAll v es failed s).2
  | [], _, _, h => h
  | o :: r, failed, s, h => by
    unfold readAll
    refine keeps_ite_snd ?_ ?_
    · exact readAll_keeps v r true h
    · exact readAll_keeps v r _ (readEntry_keeps h v o)

theorem writeAll_keeps {s₀ : State} (v : DictVia) : ∀ (es : List (DictRef × List Byte)) (failed : Bool) {s : State},
    Keeps s₀ s → Keeps s₀ (writeAll v es failed s).2.1
  | [], _, _, h => h
  | o :: r, failed, s, h => by
    unfold writeAll
    split
    · exact writeAll_keeps v r true h
    · exact writeAll_keeps v r _ (writeEntry_keeps h v o.1 o.2)

end Sys2Proof.Machine
end

