-- ==== Sys2Proof/Laws/KeepThauno.lean ====
section
/-! SUPPORT. What the operations of Machine/Thauno.lean keep (see Laws/Keep.lean). -/

namespace Sys2Proof.Machine
open Sys2Proof

theorem sendFrags_keeps {s₀ s : State} (hk : Keeps s₀ s) (addr : BitVec 128) (port : BitVec 16) (fs : List (List Byte)) : Keeps s₀ (sendFrags s addr port fs) := by
  unfold sendFrags
  try dsimp only
  repeat' first | with_reducible assumption | (with_reducible apply keeps_foldl) | (with_reducible intro _ _ _) | (intro g; exact getTile_wf (by assumption) _ g) | with_reducible apply keeps_ite_snd | with_reducible apply keeps_ite_fst | split | (with_reducible intro _) | (dsimp only) | (with_reducible refine keeps_fst ?_ (by with_reducible assumption)) | (with_reducible refine keeps_snd ?_ (by with_reducible assumption)) | (with_reducible refine keeps_opt ?_ (by with_reducible assumption)) | with_reducible exact opt_none | with_reducible apply opt_some | (with_reducible refine keeps_mk ?_ rfl rfl rfl rfl rfl rfl rfl) | (with_reducible apply tile_foldl) | (with_reducible refine tile_mk ?_ rfl)

theorem sendBare_keeps {s₀ s : State} (hk : Keeps s₀ s) (addr : BitVec 128) (port : BitVec 16) (ty : Nat) (sess : Nat) (pay : List Byte) : Keeps s₀ (sendBare s addr port ty sess pay) := by
  unfold sendBare
  try dsimp only
  repeat' first | with_reducible assumption | with_reducible apply sendFrags_keeps | (with_reducible apply keeps_foldl) | (with_reducible intro _ _ _) | (intro g; exact getTile_wf (by assumption) _ g) | with_reducible apply keeps_ite_snd | with_reducible apply keeps_ite_fst | split | (with_reducible intro _) | (dsimp only) | (with_reducible refine keeps_fst ?_ (by with_reducible assumption)) | (with_reducible refine keeps_snd ?_ (by with_reducible assumption)) | (with_reducible refine keeps_opt ?_ (by with_reducible assumption)) | with_reducible exact opt_none | with_reducible apply opt_some | (with_reducible apply tile_foldl) | (with_reducible refine tile_mk ?_ rfl)

theorem modSession_keeps {s₀ s : State} (hk : Keeps s₀ s) (n : Nat) (f : Session → Session) : Keeps s₀ (modSession s n f) := by
  unfold modSession
  try dsimp only
  repeat' first | with_reducible assumption | with_reducible apply mgmt_keeps | (with_reducible apply keeps_foldl) | (with_reducible intro _ _ _) | (intro g; exact getTile_wf (by assumption) _ g) | with_reducible apply keeps_ite_snd | with_reducible apply keeps_ite_fst | split | (with_reducible intro _) | (dsimp only) | (with_reducible refine keeps_fst ?_ (by with_reducible assumption)) | (with_reducible refine keeps_snd ?_ (by with_reducible assumption)) | (with_reducible refine keeps_opt ?_ (by with_reducible assumption)) | with_reducible exact opt_none | with_reducible apply opt_some | (with_reducible refine keeps_mk ?_ rfl rfl rfl rfl rfl rfl rfl) | (with_reducible apply tile_foldl) | (with_reducible refine tile_mk ?_ rfl)

theorem endSession_keeps {s₀ s : State} (hk : Keeps s₀ s) (n : Nat) : Keeps s₀ (endSession s n) := by
  unfold endSession
  try dsimp only
  repeat' first | with_reducible assumption | with_reducible apply mgmt_keeps | (with_reducible apply keeps_foldl) | (with_reducible intro _ _ _) | (intro g; exact getTile_wf (by assumption) _ g) | with_reducible apply keeps_ite_snd | with_reducible apply keeps_ite_fst | split | (with_reducible intro _) | (dsimp only) | (with_reducible refine keeps_fst ?_ (by with_reducible assumption)) | (with_reducible refine keeps_snd ?_ (by with_reducible assumption)) | (with_reducible refine keeps_opt ?_ (by with_reducible assumption)) | with_reducible exact opt_none | with_reducible apply opt_some | (with_reducible refine keeps_mk ?_ rfl rfl rfl rfl rfl rfl rfl) | (with_reducible apply tile_foldl) | (with_reducible refine tile_mk ?_ rfl)

theorem sendIn_keeps {s₀ s : State} (hk : Keeps s₀ s) (n : Nat) (ty : Nat) (pay : List Byte) (keep : Bool) : Keeps s₀ (sendIn s n ty pay keep) := by
  unfold sendIn
  try dsimp only
  repeat' first | with_reducible assumption | with_reducible apply modSession_keeps | with_reducible apply sendFrags_keeps | (with_reducible apply keeps_foldl) | (with_reducible intro _ _ _) | (intro g; exact getTile_wf (by assumption) _ g) | with_reducible apply keeps_ite_snd | with_reducible apply keeps_ite_fst | split | (with_reducible intro _) | (dsimp only) | (with_reducible refine keeps_fst ?_ (by with_reducible assumption)) | (with_reducible refine keeps_snd ?_ (by with_reducible assumption)) | (with_reducible refine keeps_opt ?_ (by with_reducible assumption)) | with_reducible exact opt_none | with_reducible apply opt_some | (with_reducible refine keeps_mk ?_ rfl rfl rfl rfl rfl rfl rfl) | (with_reducible apply tile_foldl) | (with_reducible refine tile_mk ?_ rfl)

theorem mbFail_keeps {s₀ s : State} (hk : Keeps s₀ s) (c : Fin 2) : Keeps s₀ (mbFail s c) := by
  unfold mbFail
  try dsimp only
  repeat' first | with_reducible assumption | with_reducible apply mbEnd_keeps | (with_reducible apply keeps_foldl) | (with_reducible intro _ _ _) | (intro g; exact getTile_wf (by assumption) _ g) | with_reducible apply keeps_ite_snd | with_reducible apply keeps_ite_fst | split | (with_reducible intro _) | (dsimp only) | (with_reducible refine keeps_fst ?_ (by with_reducible assumption)) | (with_reducible refine keeps_snd ?_ (by with_reducible assumption)) | (with_reducible refine keeps_opt ?_ (by with_reducible assumption)) | with_reducible exact opt_none | with_reducible apply opt_some | (with_reducible refine keeps_mk ?_ rfl rfl rfl rfl rfl rfl rfl) | (with_reducible apply tile_foldl) | (with_reducible refine tile_mk ?_ rfl)

theorem mbRespond_keeps {s₀ s : State} (hk : Keeps s₀ s) (c : Fin 2) (ty : Nat) (pay : List Byte) (e : Status) : Keeps s₀ (mbRespond s c ty pay e) := by
  unfold mbRespond
  try dsimp only
  repeat' first | with_reducible assumption | with_reducible apply mbFail_keeps | with_reducible apply mbPump_keeps | with_reducible apply setMbox_keeps | (with_reducible apply keeps_foldl) | (with_reducible intro _ _ _) | (intro g; exact getTile_wf (by assumption) _ g) | with_reducible apply keeps_ite_snd | with_reducible apply keeps_ite_fst | split | (with_reducible intro _) | (dsimp only) | (with_reducible refine keeps_fst ?_ (by with_reducible assumption)) | (with_reducible refine keeps_snd ?_ (by with_reducible assumption)) | (with_reducible refine keeps_opt ?_ (by with_reducible assumption)) | with_reducible exact opt_none | with_reducible apply opt_some | (with_reducible refine keeps_mk ?_ rfl rfl rfl rfl rfl rfl rfl) | (with_reducible apply tile_foldl) | (with_reducible refine tile_mk ?_ rfl)

theorem respond_keeps {s₀ s : State} (hk : Keeps s₀ s) (q : MgmtReq) (pay : List Byte) : Keeps s₀ (respond s q pay) := by
  unfold respond
  try dsimp only
  repeat' first | with_reducible assumption | with_reducible apply requestDone_keeps | with_reducible apply sendBare_keeps | with_reducible apply sendIn_keeps | with_reducible apply mbRespond_keeps | (with_reducible apply keeps_foldl) | (with_reducible intro _ _ _) | (intro g; exact getTile_wf (by assumption) _ g) | with_reducible apply keeps_ite_snd | with_reducible apply keeps_ite_fst | split | (with_reducible intro _) | (dsimp only) | (with_reducible refine keeps_fst ?_ (by with_reducible assumption)) | (with_reducible refine keeps_snd ?_ (by with_reducible assumption)) | (with_reducible refine keeps_opt ?_ (by with_reducible assumption)) | with_reducible exact opt_none | with_reducible apply opt_some | (with_reducible apply tile_foldl) | (with_reducible refine tile_mk ?_ rfl)

theorem serveReq_keeps {s₀ s : State} (hk : Keeps s₀ s) (q : MgmtReq) : Keeps s₀ (serveReq s q) := by
  unfold serveReq
  try dsimp only
  repeat' first | with_reducible assumption | with_reducible apply readAll_keeps | with_reducible apply respond_keeps | with_reducible apply writeAll_keeps | with_reducible apply mgmt_keeps | (with_reducible apply keeps_foldl) | (with_reducible intro _ _ _) | (intro g; exact getTile_wf (by assumption) _ g) | with_reducible apply keeps_ite_snd | with_reducible apply keeps_ite_fst | split | (with_reducible intro _) | (dsimp only) | (with_reducible refine keeps_fst ?_ (by with_reducible assumption)) | (with_reducible refine keeps_snd ?_ (by with_reducible assumption)) | (with_reducible refine keeps_opt ?_ (by with_reducible assumption)) | with_reducible exact opt_none | with_reducible apply opt_some | (with_reducible refine keeps_mk ?_ rfl rfl rfl rfl rfl rfl rfl) | (with_reducible apply tile_foldl) | (with_reducible refine tile_mk ?_ rfl)

theorem mgmt_keeps {s₀ s : State} (hk : Keeps s₀ s) (m : Mgmt) : Keeps s₀ { s with mgmt := m } :=
  keeps_mk hk rfl rfl rfl rfl rfl rfl rfl

theorem serveQueue_keeps {s₀ : State} : ∀ (n : Nat) {s : State}, Keeps s₀ s → Keeps s₀ (serveQueue n s)
  | 0, _, h => h
  | n + 1, s, h => by
    unfold serveQueue
    refine keeps_ite h ?_
    split
    · exact h
    · exact serveQueue_keeps n (serveReq_keeps (mgmt_keeps h _) _)

theorem submit_keeps {s₀ s : State} (hk : Keeps s₀ s) (q : MgmtReq) : Keeps s₀ (submit s q) := by
  unfold submit
  exact serveQueue_keeps _ (mgmt_keeps hk _)

theorem execFlashWriteDone_keeps {s₀ s : State} (hk : Keeps s₀ s)  : OutKeeps s₀ (execFlashWriteDone s) := by
  unfold execFlashWriteDone
  refine out_next (keeps_ite ?_ hk)
  extract_lets h m s2 s3
  have h2 : Keeps s₀ s2 := mgmt_keeps hk _
  have h3 : Keeps s₀ s3 := by
    clear_value s2 h
    simp only [s3]
    split
    · exact respond_keeps h2 _ _
    · exact h2
  exact serveQueue_keeps _ h3

theorem request_keeps {s₀ s : State} (hk : Keeps s₀ s) (v : DictVia) (mtype : Nat) (es : List (DictRef × List Byte)) : Keeps s₀ (request s v mtype es) := by
  unfold request
  try dsimp only
  repeat' first | with_reducible assumption | with_reducible apply modSession_keeps | with_reducible apply submit_keeps | (with_reducible apply keeps_foldl) | (with_reducible intro _ _ _) | (intro g; exact getTile_wf (by assumption) _ g) | with_reducible apply keeps_ite_snd | with_reducible apply keeps_ite_fst | split | (with_reducible intro _) | (dsimp only) | (with_reducible refine keeps_fst ?_ (by with_reducible assumption)) | (with_reducible refine keeps_snd ?_ (by with_reducible assumption)) | (with_reducible refine keeps_opt ?_ (by with_reducible assumption)) | with_reducible exact opt_none | with_reducible apply opt_some | (with_reducible refine keeps_mk ?_ rfl rfl rfl rfl rfl rfl rfl) | (with_reducible apply tile_foldl) | (with_reducible refine tile_mk ?_ rfl)

theorem execDictRead_keeps {s₀ s : State} (hk : Keeps s₀ s) (via : DictVia) (es : List DictRef) : OutKeeps s₀ (execDictRead via es s) := by
  unfold execDictRead
  first | apply whenRunning_keeps hk | apply out_next
  try dsimp only
  repeat' first | with_reducible assumption | with_reducible apply request_keeps | (with_reducible apply keeps_foldl) | (with_reducible intro _ _ _) | (intro g; exact getTile_wf (by assumption) _ g) | with_reducible apply keeps_ite_snd | with_reducible apply keeps_ite_fst | split | (with_reducible intro _) | (dsimp only) | (with_reducible refine keeps_fst ?_ (by with_reducible assumption)) | (with_reducible refine keeps_snd ?_ (by with_reducible assumption)) | (with_reducible refine keeps_opt ?_ (by with_reducible assumption)) | with_reducible exact opt_none | with_reducible apply opt_some | (with_reducible apply tile_foldl) | (with_reducible refine tile_mk ?_ rfl)

theorem execDictWrite_keeps {s₀ s : State} (hk : Keeps s₀ s) (via : DictVia) (es : List (DictRef × List Byte)) : OutKeeps s₀ (execDictWrite via es s) := by
  unfold execDictWrite
  first | apply whenRunning_keeps hk | apply out_next
  try dsimp only
  repeat' first | with_reducible assumption | with_reducible apply request_keeps | (with_reducible apply keeps_foldl) | (with_reducible intro _ _ _) | (intro g; exact getTile_wf (by assumption) _ g) | with_reducible apply keeps_ite_snd | with_reducible apply keeps_ite_fst | split | (with_reducible intro _) | (dsimp only) | (with_reducible refine keeps_fst ?_ (by with_reducible assumption)) | (with_reducible refine keeps_snd ?_ (by with_reducible assumption)) | (with_reducible refine keeps_opt ?_ (by with_reducible assumption)) | with_reducible exact opt_none | with_reducible apply opt_some | (with_reducible apply tile_foldl) | (with_reducible refine tile_mk ?_ rfl)

theorem execDescribe_keeps {s₀ s : State} (hk : Keeps s₀ s) (via : DictVia) (es : List DictRef) : OutKeeps s₀ (execDescribe via es s) := by
  unfold execDescribe
  first | apply whenRunning_keeps hk | apply out_next
  try dsimp only
  repeat' first | with_reducible assumption | with_reducible apply request_keeps | (with_reducible apply keeps_foldl) | (with_reducible intro _ _ _) | (intro g; exact getTile_wf (by assumption) _ g) | with_reducible apply keeps_ite_snd | with_reducible apply keeps_ite_fst | split | (with_reducible intro _) | (dsimp only) | (with_reducible refine keeps_fst ?_ (by with_reducible assumption)) | (with_reducible refine keeps_snd ?_ (by with_reducible assumption)) | (with_reducible refine keeps_opt ?_ (by with_reducible assumption)) | with_reducible exact opt_none | with_reducible apply opt_some | (with_reducible apply tile_foldl) | (with_reducible refine tile_mk ?_ rfl)

theorem doOpen_keeps {s₀ s : State} (hk : Keeps s₀ s) (src : BitVec 128) (port : BitVec 16) (level : Byte) (x : List Byte) (kem : List Byte) (nonce : List Byte) : Keeps s₀ (doOpen s src port level x kem nonce) := by
  unfold doOpen
  refine keeps_ite hk (keeps_ite (sendBare_keeps hk _ _ _ _ _) ?_)
  extract_lets
  exact sendBare_keeps (mgmt_keeps hk _) _ _ _ _ _

theorem execSessionOpen_keeps {s₀ s : State} (hk : Keeps s₀ s) (src : BitVec 128) (srcPort : BitVec 16) (level : BitVec 8) (x25519 : List Byte) (kem : List Byte) (nonce : List Byte) : OutKeeps s₀ (execSessionOpen src srcPort level x25519 kem nonce s) := by
  unfold execSessionOpen
  first | apply whenRunning_keeps hk | apply out_next
  try dsimp only
  repeat' first | with_reducible assumption | with_reducible apply doOpen_keeps | (with_reducible apply keeps_foldl) | (with_reducible intro _ _ _) | (intro g; exact getTile_wf (by assumption) _ g) | with_reducible apply keeps_ite_snd | with_reducible apply keeps_ite_fst | split | (with_reducible intro _) | (dsimp only) | (with_reducible refine keeps_fst ?_ (by with_reducible assumption)) | (with_reducible refine keeps_snd ?_ (by with_reducible assumption)) | (with_reducible refine keeps_opt ?_ (by with_reducible assumption)) | with_reducible exact opt_none | with_reducible apply opt_some | (with_reducible apply tile_foldl) | (with_reducible refine tile_mk ?_ rfl)

theorem doProve_keeps {s₀ s : State} (hk : Keeps s₀ s) (n : Nat) (ed : List Byte) (ml : List Byte) (late : Bool) : Keeps s₀ (doProve s n ed ml late) := by
  unfold doProve
  try dsimp only
  repeat' first | with_reducible assumption | with_reducible apply modSession_keeps | with_reducible apply endSession_keeps | with_reducible apply sendBare_keeps | (with_reducible apply keeps_foldl) | (with_reducible intro _ _ _) | (intro g; exact getTile_wf (by assumption) _ g) | with_reducible apply keeps_ite_snd | with_reducible apply keeps_ite_fst | split | (with_reducible intro _) | (dsimp only) | (with_reducible refine keeps_fst ?_ (by with_reducible assumption)) | (with_reducible refine keeps_snd ?_ (by with_reducible assumption)) | (with_reducible refine keeps_opt ?_ (by with_reducible assumption)) | with_reducible exact opt_none | with_reducible apply opt_some | (with_reducible refine keeps_mk ?_ rfl rfl rfl rfl rfl rfl rfl) | (with_reducible apply tile_foldl) | (with_reducible refine tile_mk ?_ rfl)

theorem execProve_keeps {s₀ s : State} (hk : Keeps s₀ s) (sess : Nat) (sigEd : List Byte) (sigMl : List Byte) (late : Bool) : OutKeeps s₀ (execProve sess sigEd sigMl late s) := by
  unfold execProve
  first | apply whenRunning_keeps hk | apply out_next
  try dsimp only
  repeat' first | with_reducible assumption | with_reducible apply doProve_keeps | (with_reducible apply keeps_foldl) | (with_reducible intro _ _ _) | (intro g; exact getTile_wf (by assumption) _ g) | with_reducible apply keeps_ite_snd | with_reducible apply keeps_ite_fst | split | (with_reducible intro _) | (dsimp only) | (with_reducible refine keeps_fst ?_ (by with_reducible assumption)) | (with_reducible refine keeps_snd ?_ (by with_reducible assumption)) | (with_reducible refine keeps_opt ?_ (by with_reducible assumption)) | with_reducible exact opt_none | with_reducible apply opt_some | (with_reducible apply tile_foldl) | (with_reducible refine tile_mk ?_ rfl)

theorem doClose_keeps {s₀ s : State} (hk : Keeps s₀ s) (n : Nat) : Keeps s₀ (doClose s n) := by
  unfold doClose
  try dsimp only
  repeat' first | with_reducible assumption | with_reducible apply endSession_keeps | with_reducible apply sendIn_keeps | (with_reducible apply keeps_foldl) | (with_reducible intro _ _ _) | (intro g; exact getTile_wf (by assumption) _ g) | with_reducible apply keeps_ite_snd | with_reducible apply keeps_ite_fst | split | (with_reducible intro _) | (dsimp only) | (with_reducible refine keeps_fst ?_ (by with_reducible assumption)) | (with_reducible refine keeps_snd ?_ (by with_reducible assumption)) | (with_reducible refine keeps_opt ?_ (by with_reducible assumption)) | with_reducible exact opt_none | with_reducible apply opt_some | (with_reducible apply tile_foldl) | (with_reducible refine tile_mk ?_ rfl)

theorem execSessionClose_keeps {s₀ s : State} (hk : Keeps s₀ s) (sess : Nat) : OutKeeps s₀ (execSessionClose sess s) := by
  unfold execSessionClose
  first | apply whenRunning_keeps hk | apply out_next
  try dsimp only
  repeat' first | with_reducible assumption | with_reducible apply doClose_keeps | (with_reducible apply keeps_foldl) | (with_reducible intro _ _ _) | (intro g; exact getTile_wf (by assumption) _ g) | with_reducible apply keeps_ite_snd | with_reducible apply keeps_ite_fst | split | (with_reducible intro _) | (dsimp only) | (with_reducible refine keeps_fst ?_ (by with_reducible assumption)) | (with_reducible refine keeps_snd ?_ (by with_reducible assumption)) | (with_reducible refine keeps_opt ?_ (by with_reducible assumption)) | with_reducible exact opt_none | with_reducible apply opt_some | (with_reducible apply tile_foldl) | (with_reducible refine tile_mk ?_ rfl)

theorem doSubscribe_keeps {s₀ s : State} (hk : Keeps s₀ s) (n : Nat) : Keeps s₀ (doSubscribe s n) := by
  unfold doSubscribe
  try dsimp only
  repeat' first | with_reducible assumption | with_reducible apply modSession_keeps | (with_reducible apply keeps_foldl) | (with_reducible intro _ _ _) | (intro g; exact getTile_wf (by assumption) _ g) | with_reducible apply keeps_ite_snd | with_reducible apply keeps_ite_fst | split | (with_reducible intro _) | (dsimp only) | (with_reducible refine keeps_fst ?_ (by with_reducible assumption)) | (with_reducible refine keeps_snd ?_ (by with_reducible assumption)) | (with_reducible refine keeps_opt ?_ (by with_reducible assumption)) | with_reducible exact opt_none | with_reducible apply opt_some | (with_reducible refine keeps_mk ?_ rfl rfl rfl rfl rfl rfl rfl) | (with_reducible apply tile_foldl) | (with_reducible refine tile_mk ?_ rfl)

theorem execSubscribe_keeps {s₀ s : State} (hk : Keeps s₀ s) (sess : Nat) : OutKeeps s₀ (execSubscribe sess s) := by
  unfold execSubscribe
  first | apply whenRunning_keeps hk | apply out_next
  try dsimp only
  repeat' first | with_reducible assumption | with_reducible apply doSubscribe_keeps | (with_reducible apply keeps_foldl) | (with_reducible intro _ _ _) | (intro g; exact getTile_wf (by assumption) _ g) | with_reducible apply keeps_ite_snd | with_reducible apply keeps_ite_fst | split | (with_reducible intro _) | (dsimp only) | (with_reducible refine keeps_fst ?_ (by with_reducible assumption)) | (with_reducible refine keeps_snd ?_ (by with_reducible assumption)) | (with_reducible refine keeps_opt ?_ (by with_reducible assumption)) | with_reducible exact opt_none | with_reducible apply opt_some | (with_reducible apply tile_foldl) | (with_reducible refine tile_mk ?_ rfl)

theorem feedOne_keeps {s₀ s : State} (hk : Keeps s₀ s) (x : Session) : Keeps s₀ (feedOne s x) := by
  unfold feedOne
  try dsimp only
  repeat' first | with_reducible assumption | with_reducible apply sendFrags_keeps | with_reducible apply modSession_keeps | (with_reducible apply keeps_foldl) | (with_reducible intro _ _ _) | (intro g; exact getTile_wf (by assumption) _ g) | with_reducible apply keeps_ite_snd | with_reducible apply keeps_ite_fst | split | (with_reducible intro _) | (dsimp only) | (with_reducible refine keeps_fst ?_ (by with_reducible assumption)) | (with_reducible refine keeps_snd ?_ (by with_reducible assumption)) | (with_reducible refine keeps_opt ?_ (by with_reducible assumption)) | with_reducible exact opt_none | with_reducible apply opt_some | (with_reducible refine keeps_mk ?_ rfl rfl rfl rfl rfl rfl rfl) | (with_reducible apply tile_foldl) | (with_reducible refine tile_mk ?_ rfl)

theorem feedPump_keeps {s₀ s : State} (hk : Keeps s₀ s)  : Keeps s₀ (feedPump s) := by
  unfold feedPump
  try dsimp only
  repeat' first | with_reducible assumption | with_reducible apply feedOne_keeps | (with_reducible apply keeps_foldl) | (with_reducible intro _ _ _) | (intro g; exact getTile_wf (by assumption) _ g) | with_reducible apply keeps_ite_snd | with_reducible apply keeps_ite_fst | split | (with_reducible intro _) | (dsimp only) | (with_reducible refine keeps_fst ?_ (by with_reducible assumption)) | (with_reducible refine keeps_snd ?_ (by with_reducible assumption)) | (with_reducible refine keeps_opt ?_ (by with_reducible assumption)) | with_reducible exact opt_none | with_reducible apply opt_some | (with_reducible apply tile_foldl) | (with_reducible refine tile_mk ?_ rfl)

theorem feedOn_keeps {s₀ s : State} (hk : Keeps s₀ s) (n : Nat) (newest : Nat) : Keeps s₀ (feedOn s n newest) := by
  unfold feedOn
  try dsimp only
  repeat' first | with_reducible assumption | with_reducible apply feedPump_keeps | with_reducible apply modSession_keeps | (with_reducible apply keeps_foldl) | (with_reducible intro _ _ _) | (intro g; exact getTile_wf (by assumption) _ g) | with_reducible apply keeps_ite_snd | with_reducible apply keeps_ite_fst | split | (with_reducible intro _) | (dsimp only) | (with_reducible refine keeps_fst ?_ (by with_reducible assumption)) | (with_reducible refine keeps_snd ?_ (by with_reducible assumption)) | (with_reducible refine keeps_opt ?_ (by with_reducible assumption)) | with_reducible exact opt_none | with_reducible apply opt_some | (with_reducible refine keeps_mk ?_ rfl rfl rfl rfl rfl rfl rfl) | (with_reducible apply tile_foldl) | (with_reducible refine tile_mk ?_ rfl)

theorem doEventAck_keeps {s₀ s : State} (hk : Keeps s₀ s) (n : Nat) (lsn : Nat) : Keeps s₀ (doEventAck s n lsn) := by
  unfold doEventAck
  try dsimp only
  repeat' first | with_reducible assumption | with_reducible apply feedOn_keeps | (with_reducible apply keeps_foldl) | (with_reducible intro _ _ _) | (intro g; exact getTile_wf (by assumption) _ g) | with_reducible apply keeps_ite_snd | with_reducible apply keeps_ite_fst | split | (with_reducible intro _) | (dsimp only) | (with_reducible refine keeps_fst ?_ (by with_reducible assumption)) | (with_reducible refine keeps_snd ?_ (by with_reducible assumption)) | (with_reducible refine keeps_opt ?_ (by with_reducible assumption)) | with_reducible exact opt_none | with_reducible apply opt_some | (with_reducible apply tile_foldl) | (with_reducible refine tile_mk ?_ rfl)

theorem execEventAck_keeps {s₀ s : State} (hk : Keeps s₀ s) (sess : Nat) (lsn : BitVec 64) : OutKeeps s₀ (execEventAck sess lsn s) := by
  unfold execEventAck
  first | apply whenRunning_keeps hk | apply out_next
  try dsimp only
  repeat' first | with_reducible assumption | with_reducible apply doEventAck_keeps | (with_reducible apply keeps_foldl) | (with_reducible intro _ _ _) | (intro g; exact getTile_wf (by assumption) _ g) | with_reducible apply keeps_ite_snd | with_reducible apply keeps_ite_fst | split | (with_reducible intro _) | (dsimp only) | (with_reducible refine keeps_fst ?_ (by with_reducible assumption)) | (with_reducible refine keeps_snd ?_ (by with_reducible assumption)) | (with_reducible refine keeps_opt ?_ (by with_reducible assumption)) | with_reducible exact opt_none | with_reducible apply opt_some | (with_reducible apply tile_foldl) | (with_reducible refine tile_mk ?_ rfl)

theorem execEventResend_keeps {s₀ s : State} (hk : Keeps s₀ s) (sess : Nat) : OutKeeps s₀ (execEventResend sess s) := by
  unfold execEventResend
  first | apply whenRunning_keeps hk | apply out_next
  try dsimp only
  repeat' first | with_reducible assumption | with_reducible apply sendFrags_keeps | with_reducible apply modSession_keeps | with_reducible apply feedOn_keeps | (with_reducible apply keeps_foldl) | (with_reducible intro _ _ _) | (intro g; exact getTile_wf (by assumption) _ g) | with_reducible apply keeps_ite_snd | with_reducible apply keeps_ite_fst | split | (with_reducible intro _) | (dsimp only) | (with_reducible refine keeps_fst ?_ (by with_reducible assumption)) | (with_reducible refine keeps_snd ?_ (by with_reducible assumption)) | (with_reducible refine keeps_opt ?_ (by with_reducible assumption)) | with_reducible exact opt_none | with_reducible apply opt_some | (with_reducible refine keeps_mk ?_ rfl rfl rfl rfl rfl rfl rfl) | (with_reducible apply tile_foldl) | (with_reducible refine tile_mk ?_ rfl)

theorem execSessionTimeout_keeps {s₀ s : State} (hk : Keeps s₀ s) (sess : Nat) : OutKeeps s₀ (execSessionTimeout sess s) := by
  unfold execSessionTimeout
  first | apply whenRunning_keeps hk | apply out_next
  try dsimp only
  repeat' first | with_reducible assumption | with_reducible apply endSession_keeps | (with_reducible apply keeps_foldl) | (with_reducible intro _ _ _) | (intro g; exact getTile_wf (by assumption) _ g) | with_reducible apply keeps_ite_snd | with_reducible apply keeps_ite_fst | split | (with_reducible intro _) | (dsimp only) | (with_reducible refine keeps_fst ?_ (by with_reducible assumption)) | (with_reducible refine keeps_snd ?_ (by with_reducible assumption)) | (with_reducible refine keeps_opt ?_ (by with_reducible assumption)) | with_reducible exact opt_none | with_reducible apply opt_some | (with_reducible apply tile_foldl) | (with_reducible refine tile_mk ?_ rfl)

theorem execReassemblyTimeout_keeps {s₀ s : State} (hk : Keeps s₀ s) (sess : Nat) : OutKeeps s₀ (execReassemblyTimeout sess s) := by
  unfold execReassemblyTimeout
  exact out_next (keeps_ite (mgmt_keeps hk _) (modSession_keeps hk _ _))

theorem bareMessage_keeps {s₀ s : State} (hk : Keeps s₀ s) (src : BitVec 128) (port : BitVec 16) (ty : Nat) (d : List Byte) : Keeps s₀ (bareMessage s src port ty d) := by
  unfold bareMessage
  try dsimp only
  repeat' first | with_reducible assumption | with_reducible apply doOpen_keeps | with_reducible apply submit_keeps | (with_reducible apply keeps_foldl) | (with_reducible intro _ _ _) | (intro g; exact getTile_wf (by assumption) _ g) | with_reducible apply keeps_ite_snd | with_reducible apply keeps_ite_fst | split | (with_reducible intro _) | (dsimp only) | (with_reducible refine keeps_fst ?_ (by with_reducible assumption)) | (with_reducible refine keeps_snd ?_ (by with_reducible assumption)) | (with_reducible refine keeps_opt ?_ (by with_reducible assumption)) | with_reducible exact opt_none | with_reducible apply opt_some | (with_reducible apply tile_foldl) | (with_reducible refine tile_mk ?_ rfl)

theorem sessionMessage_keeps {s₀ s : State} (hk : Keeps s₀ s) (x : Session) (ty : Nat) (ctr : Nat) (d : List Byte) : Keeps s₀ (sessionMessage s x ty ctr d) := by
  unfold sessionMessage
  try dsimp only
  repeat' first | with_reducible assumption | with_reducible apply sendFrags_keeps | with_reducible apply modSession_keeps | with_reducible apply submit_keeps | with_reducible apply doClose_keeps | with_reducible apply doSubscribe_keeps | with_reducible apply doEventAck_keeps | (with_reducible apply keeps_foldl) | (with_reducible intro _ _ _) | (intro g; exact getTile_wf (by assumption) _ g) | with_reducible apply keeps_ite_snd | with_reducible apply keeps_ite_fst | split | (with_reducible intro _) | (dsimp only) | (with_reducible refine keeps_fst ?_ (by with_reducible assumption)) | (with_reducible refine keeps_snd ?_ (by with_reducible assumption)) | (with_reducible refine keeps_opt ?_ (by with_reducible assumption)) | with_reducible exact opt_none | with_reducible apply opt_some | (with_reducible refine keeps_mk ?_ rfl rfl rfl rfl rfl rfl rfl) | (with_reducible apply tile_foldl) | (with_reducible refine tile_mk ?_ rfl)

theorem handshakeMessage_keeps {s₀ s : State} (hk : Keeps s₀ s) (x : Session) (ty : Nat) (d : List Byte) : Keeps s₀ (handshakeMessage s x ty d) := by
  unfold handshakeMessage
  try dsimp only
  repeat' first | with_reducible assumption | with_reducible apply doProve_keeps | (with_reducible apply keeps_foldl) | (with_reducible intro _ _ _) | (intro g; exact getTile_wf (by assumption) _ g) | with_reducible apply keeps_ite_snd | with_reducible apply keeps_ite_fst | split | (with_reducible intro _) | (dsimp only) | (with_reducible refine keeps_fst ?_ (by with_reducible assumption)) | (with_reducible refine keeps_snd ?_ (by with_reducible assumption)) | (with_reducible refine keeps_opt ?_ (by with_reducible assumption)) | with_reducible exact opt_none | with_reducible apply opt_some | (with_reducible apply tile_foldl) | (with_reducible refine tile_mk ?_ rfl)

theorem bareFragment_keeps {s₀ s : State} (hk : Keeps s₀ s) (src : BitVec 128) (port : BitVec 16) (dg : List Byte) : Keeps s₀ (bareFragment s src port dg) := by
  unfold bareFragment
  extract_lets old rest g
  clear_value old rest g
  split
  · exact bareMessage_keeps (mgmt_keeps hk _) _ _ _ _
  · exact mgmt_keeps hk _

theorem sessionFragment_keeps {s₀ s : State} (hk : Keeps s₀ s) (x : Session) (dg : List Byte) : Keeps s₀ (sessionFragment s x dg) := by
  unfold sessionFragment
  try dsimp only
  repeat' first | with_reducible assumption | with_reducible apply modSession_keeps | with_reducible apply sessionMessage_keeps | with_reducible apply handshakeMessage_keeps | (with_reducible apply keeps_foldl) | (with_reducible intro _ _ _) | (intro g; exact getTile_wf (by assumption) _ g) | with_reducible apply keeps_ite_snd | with_reducible apply keeps_ite_fst | split | (with_reducible intro _) | (dsimp only) | (with_reducible refine keeps_fst ?_ (by with_reducible assumption)) | (with_reducible refine keeps_snd ?_ (by with_reducible assumption)) | (with_reducible refine keeps_opt ?_ (by with_reducible assumption)) | with_reducible exact opt_none | with_reducible apply opt_some | (with_reducible refine keeps_mk ?_ rfl rfl rfl rfl rfl rfl rfl) | (with_reducible apply tile_foldl) | (with_reducible refine tile_mk ?_ rfl)

theorem execThaunoFragment_keeps {s₀ s : State} (hk : Keeps s₀ s) (src : BitVec 128) (srcPort : BitVec 16) (dg : List Byte) : OutKeeps s₀ (execThaunoFragment src srcPort dg s) := by
  unfold execThaunoFragment
  first | apply whenRunning_keeps hk | apply out_next
  try dsimp only
  repeat' first | with_reducible assumption | with_reducible apply bareFragment_keeps | with_reducible apply sessionFragment_keeps | (with_reducible apply keeps_foldl) | (with_reducible intro _ _ _) | (intro g; exact getTile_wf (by assumption) _ g) | with_reducible apply keeps_ite_snd | with_reducible apply keeps_ite_fst | split | (with_reducible intro _) | (dsimp only) | (with_reducible refine keeps_fst ?_ (by with_reducible assumption)) | (with_reducible refine keeps_snd ?_ (by with_reducible assumption)) | (with_reducible refine keeps_opt ?_ (by with_reducible assumption)) | with_reducible exact opt_none | with_reducible apply opt_some | (with_reducible apply tile_foldl) | (with_reducible refine tile_mk ?_ rfl)

theorem execNeighborSolicitation_keeps {s₀ s : State} (hk : Keeps s₀ s) (target : BitVec 128) (src : BitVec 128) : OutKeeps s₀ (execNeighborSolicitation target src s) := by
  unfold execNeighborSolicitation
  first | apply whenRunning_keeps hk | apply out_next
  try dsimp only
  repeat' first | with_reducible assumption | (with_reducible apply keeps_foldl) | (with_reducible intro _ _ _) | (intro g; exact getTile_wf (by assumption) _ g) | with_reducible apply keeps_ite_snd | with_reducible apply keeps_ite_fst | split | (with_reducible intro _) | (dsimp only) | (with_reducible refine keeps_fst ?_ (by with_reducible assumption)) | (with_reducible refine keeps_snd ?_ (by with_reducible assumption)) | (with_reducible refine keeps_opt ?_ (by with_reducible assumption)) | with_reducible exact opt_none | with_reducible apply opt_some | (with_reducible refine keeps_mk ?_ rfl rfl rfl rfl rfl rfl rfl) | (with_reducible apply tile_foldl) | (with_reducible refine tile_mk ?_ rfl)

theorem writeMbCtl_keeps {s₀ s : State} (hk : Keeps s₀ s) (c : Fin 2) (v : Word) : Keeps s₀ (writeMbCtl s c v) := by
  unfold writeMbCtl
  try dsimp only
  repeat' first | with_reducible assumption | with_reducible apply plainWrite_keeps | with_reducible apply setFlag_keeps | with_reducible apply mbFail_keeps | with_reducible apply mbPump_keeps | with_reducible apply setMbox_keeps | (with_reducible apply keeps_foldl) | (with_reducible intro _ _ _) | (intro g; exact getTile_wf (by assumption) _ g) | with_reducible apply keeps_ite_snd | with_reducible apply keeps_ite_fst | split | (with_reducible intro _) | (dsimp only) | (with_reducible refine keeps_fst ?_ (by with_reducible assumption)) | (with_reducible refine keeps_snd ?_ (by with_reducible assumption)) | (with_reducible refine keeps_opt ?_ (by with_reducible assumption)) | with_reducible exact opt_none | with_reducible apply opt_some | (with_reducible apply tile_foldl) | (with_reducible refine tile_mk ?_ rfl)

theorem execMbGo_keeps {s₀ s : State} (hk : Keeps s₀ s) (ch : Fin 2) (v : Word) : OutKeeps s₀ (execMbGo ch v s) := by
  unfold execMbGo
  first | apply whenRunning_keeps hk | apply out_next
  try dsimp only
  repeat' first | with_reducible assumption | with_reducible apply whenRunning_keeps | with_reducible apply writeMbCtl_keeps | (with_reducible apply keeps_foldl) | (with_reducible intro _ _ _) | (intro g; exact getTile_wf (by assumption) _ g) | with_reducible apply keeps_ite_snd | with_reducible apply keeps_ite_fst | split | (with_reducible intro _) | (dsimp only) | (with_reducible refine keeps_fst ?_ (by with_reducible assumption)) | (with_reducible refine keeps_snd ?_ (by with_reducible assumption)) | (with_reducible refine keeps_opt ?_ (by with_reducible assumption)) | with_reducible exact opt_none | with_reducible apply opt_some | (with_reducible apply tile_foldl) | (with_reducible refine tile_mk ?_ rfl)

theorem mbMessage_keeps {s₀ s : State} (hk : Keeps s₀ s) (c : Fin 2) (dg : List Byte) : Keeps s₀ (mbMessage s c dg) := by
  unfold mbMessage
  try dsimp only
  repeat' first | with_reducible assumption | with_reducible apply mbFail_keeps | with_reducible apply mbRespond_keeps | with_reducible apply submit_keeps | (with_reducible apply keeps_foldl) | (with_reducible intro _ _ _) | (intro g; exact getTile_wf (by assumption) _ g) | with_reducible apply keeps_ite_snd | with_reducible apply keeps_ite_fst | split | (with_reducible intro _) | (dsimp only) | (with_reducible refine keeps_fst ?_ (by with_reducible assumption)) | (with_reducible refine keeps_snd ?_ (by with_reducible assumption)) | (with_reducible refine keeps_opt ?_ (by with_reducible assumption)) | with_reducible exact opt_none | with_reducible apply opt_some | (with_reducible apply tile_foldl) | (with_reducible refine tile_mk ?_ rfl)

theorem mbReceive_keeps {s₀ s : State} (hk : Keeps s₀ s) (c : Fin 2) (m : MbMsg) (p : Packet) : Keeps s₀ (mbReceive s c m p) := by
  unfold mbReceive
  try dsimp only
  repeat' first | with_reducible assumption | with_reducible apply setMbox_keeps | with_reducible apply mbEnd_keeps | with_reducible apply mbMessage_keeps | (with_reducible apply keeps_foldl) | (with_reducible intro _ _ _) | (intro g; exact getTile_wf (by assumption) _ g) | with_reducible apply keeps_ite_snd | with_reducible apply keeps_ite_fst | split | (with_reducible intro _) | (dsimp only) | (with_reducible refine keeps_fst ?_ (by with_reducible assumption)) | (with_reducible refine keeps_snd ?_ (by with_reducible assumption)) | (with_reducible refine keeps_opt ?_ (by with_reducible assumption)) | with_reducible exact opt_none | with_reducible apply opt_some | (with_reducible refine keeps_mk ?_ rfl rfl rfl rfl rfl rfl rfl) | (with_reducible apply tile_foldl) | (with_reducible refine tile_mk ?_ rfl)

theorem execMgmt_keeps {s₀ s : State} (hk : Keeps s₀ s) (p : Packet) : OutKeeps s₀ (execMgmt p s) := by
  unfold execMgmt
  first | apply whenRunning_keeps hk | apply out_next
  try dsimp only
  repeat' first | with_reducible assumption | with_reducible apply whenRunning_keeps | with_reducible apply mbReceive_keeps | with_reducible apply answer_keeps | (with_reducible apply keeps_foldl) | (with_reducible intro _ _ _) | (intro g; exact getTile_wf (by assumption) _ g) | with_reducible apply keeps_ite_snd | with_reducible apply keeps_ite_fst | split | (with_reducible intro _) | (dsimp only) | (with_reducible refine keeps_fst ?_ (by with_reducible assumption)) | (with_reducible refine keeps_snd ?_ (by with_reducible assumption)) | (with_reducible refine keeps_opt ?_ (by with_reducible assumption)) | with_reducible exact opt_none | with_reducible apply opt_some | (with_reducible apply tile_foldl) | (with_reducible refine tile_mk ?_ rfl)

end Sys2Proof.Machine
end

