-- ==== Sys2Proof/Laws/KeepCsr.lean ====
section
/-! SUPPORT. What the operations of Machine/Csr.lean keep (see Laws/Keep.lean). -/

namespace Sys2Proof.Machine
open Sys2Proof

theorem writeSeLimit_keeps {s₀ s : State} (hk : Keeps s₀ s) (a : Nat) (v : Word) : Keeps s₀ (writeSeLimit s a v) := by
  unfold writeSeLimit
  try dsimp only
  repeat' first | with_reducible assumption | with_reducible apply plainWrite_keeps | with_reducible apply setFlag_keeps | (with_reducible apply keeps_foldl) | (with_reducible intro _ _ _) | (intro g; exact getTile_wf (by assumption) _ g) | with_reducible apply keeps_ite_snd | with_reducible apply keeps_ite_fst | split | (with_reducible intro _) | (dsimp only) | (with_reducible refine keeps_fst ?_ (by with_reducible assumption)) | (with_reducible refine keeps_snd ?_ (by with_reducible assumption)) | (with_reducible refine keeps_opt ?_ (by with_reducible assumption)) | with_reducible exact opt_none | with_reducible apply opt_some | (with_reducible apply tile_foldl) | (with_reducible refine tile_mk ?_ rfl)

theorem writeRanged_keeps {s₀ s : State} (hk : Keeps s₀ s) (n : RegName) (a : Nat) (v : Word) (hi : Nat) (lo : Nat) (least : Nat) (most : Nat) : Keeps s₀ (writeRanged s n a v hi lo least most) := by
  unfold writeRanged
  try dsimp only
  repeat' first | with_reducible assumption | with_reducible apply plainWrite_keeps | (with_reducible apply keeps_foldl) | (with_reducible intro _ _ _) | (intro g; exact getTile_wf (by assumption) _ g) | with_reducible apply keeps_ite_snd | with_reducible apply keeps_ite_fst | split | (with_reducible intro _) | (dsimp only) | (with_reducible refine keeps_fst ?_ (by with_reducible assumption)) | (with_reducible refine keeps_snd ?_ (by with_reducible assumption)) | (with_reducible refine keeps_opt ?_ (by with_reducible assumption)) | with_reducible exact opt_none | with_reducible apply opt_some | (with_reducible apply tile_foldl) | (with_reducible refine tile_mk ?_ rfl)

theorem writeAbort_keeps {s₀ s : State} (hk : Keeps s₀ s) (t : TileId) (v : Word) : Keeps s₀ (writeAbort s t v) := by
  unfold writeAbort
  try dsimp only
  repeat' first | with_reducible assumption | with_reducible apply abortUnitWrite_keeps | with_reducible apply abortLaunchWrite_keeps | (with_reducible apply keeps_foldl) | (with_reducible intro _ _ _) | (intro g; exact getTile_wf (by assumption) _ g) | with_reducible apply keeps_ite_snd | with_reducible apply keeps_ite_fst | split | (with_reducible intro _) | (dsimp only) | (with_reducible refine keeps_fst ?_ (by with_reducible assumption)) | (with_reducible refine keeps_snd ?_ (by with_reducible assumption)) | (with_reducible refine keeps_opt ?_ (by with_reducible assumption)) | with_reducible exact opt_none | with_reducible apply opt_some | (with_reducible apply tile_foldl) | (with_reducible refine tile_mk ?_ rfl)

theorem writeFxCtl_keeps {s₀ s : State} (hk : Keeps s₀ s) (v : Word) : Keeps s₀ (writeFxCtl s v) := by
  unfold writeFxCtl
  try dsimp only
  repeat' first | with_reducible assumption | with_reducible apply plainWrite_keeps | with_reducible apply fxErr_keeps | (with_reducible apply keeps_foldl) | (with_reducible intro _ _ _) | (intro g; exact getTile_wf (by assumption) _ g) | with_reducible apply keeps_ite_snd | with_reducible apply keeps_ite_fst | split | (with_reducible intro _) | (dsimp only) | (with_reducible refine keeps_fst ?_ (by with_reducible assumption)) | (with_reducible refine keeps_snd ?_ (by with_reducible assumption)) | (with_reducible refine keeps_opt ?_ (by with_reducible assumption)) | with_reducible exact opt_none | with_reducible apply opt_some | (with_reducible apply tile_foldl) | (with_reducible refine tile_mk ?_ rfl)

theorem writeFxCq_keeps {s₀ s : State} (hk : Keeps s₀ s) (r : Nat) (v : Word) : Keeps s₀ (writeFxCq s r v) := by
  unfold writeFxCq
  try dsimp only
  repeat' first | with_reducible assumption | with_reducible apply plainWrite_keeps | with_reducible apply fxErr_keeps | (with_reducible apply keeps_foldl) | (with_reducible intro _ _ _) | (intro g; exact getTile_wf (by assumption) _ g) | with_reducible apply keeps_ite_snd | with_reducible apply keeps_ite_fst | split | (with_reducible intro _) | (dsimp only) | (with_reducible refine keeps_fst ?_ (by with_reducible assumption)) | (with_reducible refine keeps_snd ?_ (by with_reducible assumption)) | (with_reducible refine keeps_opt ?_ (by with_reducible assumption)) | with_reducible exact opt_none | with_reducible apply opt_some | (with_reducible apply tile_foldl) | (with_reducible refine tile_mk ?_ rfl)

theorem csrWrite_keeps {s₀ s : State} (hk : Keeps s₀ s) (i : Initiator) (p : Option Packet) (a : Nat) (v : Word) : Keeps s₀ (csrWrite s i p a v) := by
  unfold csrWrite
  try dsimp only
  repeat' first | with_reducible assumption | with_reducible apply writeAccset_keeps | with_reducible apply writeSeLimit_keeps | with_reducible apply writeSeCancel_keeps | with_reducible apply writeSeClear_keeps | with_reducible apply writeRanged_keeps | with_reducible apply writeSq_keeps | with_reducible apply setTail_keeps | with_reducible apply writeAbort_keeps | with_reducible apply writeCqd_keeps | with_reducible apply writeCqh_keeps | with_reducible apply writeGdb_keeps | with_reducible apply writeQcCfg_keeps | with_reducible apply writeQcReg_keeps | with_reducible apply writeLrClk_keeps | with_reducible apply writePll_keeps | with_reducible apply writeIoPin_keeps | with_reducible apply writeIoBank_keeps | with_reducible apply writeCfgCtl_keeps | with_reducible apply writeCfgScrub_keeps | with_reducible apply startSwap_keeps | with_reducible apply writeRtw_keeps | with_reducible apply writeNocEp_keeps | with_reducible apply writeHbmMap_keeps | with_reducible apply writeHbmHash_keeps | with_reducible apply writeDlydat_keeps | with_reducible apply writeHbmCheck_keeps | with_reducible apply writeHbmRepair_keeps | with_reducible apply writeHbmCh_keeps | with_reducible apply writeFxCtl_keeps | with_reducible apply writeFxCq_keeps | with_reducible apply setRingTail_keeps | with_reducible apply writePctl_keeps | with_reducible apply writePinj_keeps | with_reducible apply writeLctl_keeps | with_reducible apply writeLerr_keeps | with_reducible apply writeCvCfg_keeps | with_reducible apply writeCvSeed_keeps | with_reducible apply writeTmove_keeps | with_reducible apply writeCspare_keeps | with_reducible apply writeSram_keeps | with_reducible apply writeWdog_keeps | with_reducible apply writeMbCtl_keeps | with_reducible apply sendMsix_keeps | with_reducible apply writeGrPcie_keeps | with_reducible apply writePwCtl_keeps | with_reducible apply plainWrite_keeps | (with_reducible apply keeps_foldl) | (with_reducible intro _ _ _) | (intro g; exact getTile_wf (by assumption) _ g) | with_reducible apply keeps_ite_snd | with_reducible apply keeps_ite_fst | split | (with_reducible intro _) | (dsimp only) | (with_reducible refine keeps_fst ?_ (by with_reducible assumption)) | (with_reducible refine keeps_snd ?_ (by with_reducible assumption)) | (with_reducible refine keeps_opt ?_ (by with_reducible assumption)) | with_reducible exact opt_none | with_reducible apply opt_some | (with_reducible apply tile_foldl) | (with_reducible refine tile_mk ?_ rfl)

theorem csrWriteReq_keeps {s₀ s : State} (hk : Keeps s₀ s) (p : Packet) : Keeps s₀ (csrWriteReq s p) := by
  unfold csrWriteReq
  try dsimp only
  repeat' first | with_reducible assumption | with_reducible apply answer_keeps | with_reducible apply takePkt_keeps | with_reducible apply csrWrite_keeps | with_reducible apply sendPkt_keeps | (with_reducible apply keeps_foldl) | (with_reducible intro _ _ _) | (intro g; exact getTile_wf (by assumption) _ g) | with_reducible apply keeps_ite_snd | with_reducible apply keeps_ite_fst | split | (with_reducible intro _) | (dsimp only) | (with_reducible refine keeps_fst ?_ (by with_reducible assumption)) | (with_reducible refine keeps_snd ?_ (by with_reducible assumption)) | (with_reducible refine keeps_opt ?_ (by with_reducible assumption)) | with_reducible exact opt_none | with_reducible apply opt_some | (with_reducible apply tile_foldl) | (with_reducible refine tile_mk ?_ rfl)

theorem csrReadReq_keeps {s₀ s : State} (hk : Keeps s₀ s) (p : Packet) : Keeps s₀ (csrReadReq s p) := by
  unfold csrReadReq
  try dsimp only
  repeat' first | with_reducible assumption | with_reducible apply answer_keeps | with_reducible apply sendPkt_keeps | with_reducible apply takePkt_keeps | (with_reducible apply keeps_foldl) | (with_reducible intro _ _ _) | (intro g; exact getTile_wf (by assumption) _ g) | with_reducible apply keeps_ite_snd | with_reducible apply keeps_ite_fst | split | (with_reducible intro _) | (dsimp only) | (with_reducible refine keeps_fst ?_ (by with_reducible assumption)) | (with_reducible refine keeps_snd ?_ (by with_reducible assumption)) | (with_reducible refine keeps_opt ?_ (by with_reducible assumption)) | with_reducible exact opt_none | with_reducible apply opt_some | (with_reducible apply tile_foldl) | (with_reducible refine tile_mk ?_ rfl)

theorem resolved_keeps {s₀ s : State} (hk : Keeps s₀ s) (p : Packet) (f : State → State) (hf : ∀ s , Keeps s₀ s → Keeps s₀ (f s )) : Keeps s₀ (resolved s p f) := by
  unfold resolved
  try dsimp only
  repeat' first | with_reducible assumption | with_reducible apply answer_keeps | with_reducible apply throughFence_keeps | with_reducible apply hf | (with_reducible apply keeps_foldl) | (with_reducible intro _ _ _) | (intro g; exact getTile_wf (by assumption) _ g) | with_reducible apply keeps_ite_snd | with_reducible apply keeps_ite_fst | split | (with_reducible intro _) | (dsimp only) | (with_reducible refine keeps_fst ?_ (by with_reducible assumption)) | (with_reducible refine keeps_snd ?_ (by with_reducible assumption)) | (with_reducible refine keeps_opt ?_ (by with_reducible assumption)) | with_reducible exact opt_none | with_reducible apply opt_some | (with_reducible apply tile_foldl) | (with_reducible refine tile_mk ?_ rfl)

theorem execCsrWrite_keeps {s₀ s : State} (hk : Keeps s₀ s) (p : Packet) : OutKeeps s₀ (execCsrWrite p s) := by
  unfold execCsrWrite
  first | apply whenRunning_keeps hk | apply out_next
  try dsimp only
  repeat' first | with_reducible assumption | with_reducible apply whenRunning_keeps | with_reducible apply resolved_keeps | with_reducible apply csrWriteReq_keeps | (with_reducible apply keeps_foldl) | (with_reducible intro _ _ _) | (intro g; exact getTile_wf (by assumption) _ g) | with_reducible apply keeps_ite_snd | with_reducible apply keeps_ite_fst | split | (with_reducible intro _) | (dsimp only) | (with_reducible refine keeps_fst ?_ (by with_reducible assumption)) | (with_reducible refine keeps_snd ?_ (by with_reducible assumption)) | (with_reducible refine keeps_opt ?_ (by with_reducible assumption)) | with_reducible exact opt_none | with_reducible apply opt_some | (with_reducible apply tile_foldl) | (with_reducible refine tile_mk ?_ rfl)

end Sys2Proof.Machine
end

