-- ==== Sys2Proof/Laws/State.lean ====
section
/-! SUPPORT. What each named update of the state leaves in each field, and reading back what was stored. -/

namespace Sys2Proof.Machine
open Sys2Proof

/-! ### Registers -/

@[simp] theorem rd_wr_same (s : State) (a : Nat) (v : Word) : rd (wr s a v) a = v := by simp [rd, wr]
theorem rd_wr_ne (s : State) {a b : Nat} (v : Word) (h : b ≠ a) : rd (wr s a v) b = rd s b := by
  simp [rd, wr, mget_mset_ne _ _ _ _ h]

theorem setFld_eq (s : State) (a hi lo v : Nat) : setFld s a hi lo v = wr s a (setBits (rd s a) hi lo v) := rfl
theorem setFlag_eq (s : State) (a i : Nat) (b : Bool) : setFlag s a i b = wr s a (setBit (rd s a) i b) := rfl

/-- A field reads as what was put in it. -/
theorem fld_setFld_same (s : State) (a : Nat) {hi lo : Nat} (v : Nat) (h : lo ≤ hi) (h64 : hi < 64) :
    fld (setFld s a hi lo v) a hi lo = v % 2 ^ (hi + 1 - lo) := by
  simp [fld, setFld, bits_setBits_same _ v h h64]
/-- Another field of the register reads as before. -/
theorem fld_setFld_ne (s : State) (a : Nat) {hi lo hi' lo' : Nat} (v : Nat) (h : hi' < lo ∨ hi < lo') :
    fld (setFld s a hi lo v) a hi' lo' = fld s a hi' lo' := by
  simp [fld, setFld, bits_setBits_ne _ v h]
/-- A field of another register reads as before. -/
theorem fld_setFld_other (s : State) {a b : Nat} (hi lo v hi' lo' : Nat) (h : b ≠ a) :
    fld (setFld s a hi lo v) b hi' lo' = fld s b hi' lo' := by
  simp [fld, setFld, rd_wr_ne _ _ h]
theorem flag_setFlag_same (s : State) (a : Nat) {i : Nat} (b : Bool) (h : i < 64) : flag (setFlag s a i b) a i = b := by
  simp [flag, setFlag, bit_setBit_same _ b h]
theorem flag_setFlag_ne (s : State) (a : Nat) {i j : Nat} (b : Bool) (h : j ≠ i) : flag (setFlag s a i b) a j = flag s a j := by
  simp [flag, setFlag, bit_setBit_ne _ b h]
theorem flag_setFlag_other (s : State) {a c : Nat} (i j : Nat) (b : Bool) (h : c ≠ a) : flag (setFlag s a i b) c j = flag s c j := by
  simp [flag, setFlag, rd_wr_ne _ _ h]
theorem flag_setFld_ne (s : State) (a : Nat) {hi lo v j : Nat} (h : j < lo ∨ hi < j) : flag (setFld s a hi lo v) a j = flag s a j := by
  simp [flag, setFld, bit_setBits_ne _ h]
theorem fld_setFlag_ne (s : State) (a : Nat) {i hi lo : Nat} (b : Bool) (h : i < lo ∨ hi < i) :
    fld (setFlag s a i b) a hi lo = fld s a hi lo := by
  simp [fld, setFlag, bits_setBit_ne _ b h]
@[simp] theorem getTile_setFld (s : State) (a hi lo v : Nat) (t : TileId) : getTile (setFld s a hi lo v) t = getTile s t := rfl
@[simp] theorem getTile_setFlag (s : State) (a i : Nat) (b : Bool) (t : TileId) : getTile (setFlag s a i b) t = getTile s t := rfl

/-! ### Tiles -/

/-- Two tiles with one key are the same tile. -/
theorem tileKey_inj {t u : TileId} (h : tileKey t = tileKey u) : t = u := by
  obtain ⟨⟨d, hd⟩, ⟨n, hn⟩⟩ := t
  obtain ⟨⟨e, he⟩, ⟨m, hm⟩⟩ := u
  simp only [tileKey] at h
  have h1 : d = e := by omega
  have h2 : n = m := by omega
  subst h1; subst h2; rfl

@[simp] theorem getTile_setTile_same (s : State) (t : TileId) (x : Tile) : getTile (setTile s t x) t = x := by
  simp [getTile, setTile]
theorem getTile_setTile_ne (s : State) {t u : TileId} (x : Tile) (h : u ≠ t) : getTile (setTile s t x) u = getTile s u := by
  simp only [getTile, setTile]
  exact mget_mset_ne _ _ _ _ (fun e => h (tileKey_inj e))

@[simp] theorem rd_setTile (s : State) (t : TileId) (x : Tile) (a : Nat) : rd (setTile s t x) a = rd s a := rfl
@[simp] theorem getTile_wr (s : State) (t : TileId) (a : Nat) (v : Word) : getTile (wr s a v) t = getTile s t := rfl
theorem modTile_eq (s : State) (t : TileId) (f : Tile → Tile) : modTile s t f = setTile s t (f (getTile s t)) := rfl

/-! ### Physical tiles, tags and packets -/

@[simp] theorem getPhys_setPhys_same (s : State) (d e : Nat) (x : PhysTile) : getPhys (setPhys s d e x) d e = x := by
  simp [getPhys, setPhys]
@[simp] theorem rd_setPhys (s : State) (d e : Nat) (x : PhysTile) (a : Nat) : rd (setPhys s d e x) a = rd s a := rfl
@[simp] theorem getTag_setTag_same (s : State) (node tag : Nat) (r : TagRec) : getTag (setTag s node tag r) node tag = r := by
  simp [getTag, setTag]
@[simp] theorem rd_setTag (s : State) (node tag : Nat) (r : TagRec) (a : Nat) : rd (setTag s node tag r) a = rd s a := rfl
@[simp] theorem sendPkt_out (s : State) (p : Packet) : (sendPkt s p).out = s.out ++ [p] := rfl
@[simp] theorem rd_sendPkt (s : State) (p : Packet) (a : Nat) : rd (sendPkt s p) a = rd s a := rfl
@[simp] theorem takePkt_out (s : State) (p : Packet) : (takePkt s p).out = s.out.erase p := rfl
@[simp] theorem rd_takePkt (s : State) (p : Packet) (a : Nat) : rd (takePkt s p) a = rd s a := rfl
@[simp] theorem sendLink_linkOut (s : State) (m : LinkMsg) : (sendLink s m).linkOut = s.linkOut ++ [m] := rfl
@[simp] theorem rd_sendLink (s : State) (m : LinkMsg) (a : Nat) : rd (sendLink s m) a = rd s a := rfl

/-! ### Objects -/

@[simp] theorem rd_objSet (s : State) (idx sub : Nat) (b : List Byte) (a : Nat) : rd (objSet s idx sub b) a = rd s a := rfl

/-- An object reads as what was stored. -/
theorem objGet_objSet_same (s : State) (idx sub : Nat) (b : List Byte) : objGet (objSet s idx sub b) idx sub = b := by
  simp [objGet, objSet, mfind_mset_same]
/-- Another object reads as before. -/
theorem objGet_objSet_ne (s : State) {idx sub idx' sub' : Nat} (b : List Byte) (h : idx' * 256 + sub' ≠ idx * 256 + sub) :
    objGet (objSet s idx sub b) idx' sub' = objGet s idx' sub' := by
  simp [objGet, objSet, mfind_mset_ne _ _ _ h]

/-! ### Each update, field by field -/

@[simp] theorem wr_part (s : State) (a : Nat) (v : Word) : (wr s a v).part = s.part := rfl
@[simp] theorem wr_tiles (s : State) (a : Nat) (v : Word) : (wr s a v).tiles = s.tiles := rfl
@[simp] theorem wr_phys (s : State) (a : Nat) (v : Word) : (wr s a v).phys = s.phys := rfl
@[simp] theorem wr_cqs (s : State) (a : Nat) (v : Word) : (wr s a v).cqs = s.cqs := rfl
@[simp] theorem wr_qcs (s : State) (a : Nat) (v : Word) : (wr s a v).qcs = s.qcs := rfl
@[simp] theorem wr_regions (s : State) (a : Nat) (v : Word) : (wr s a v).regions = s.regions := rfl
@[simp] theorem wr_cvs (s : State) (a : Nat) (v : Word) : (wr s a v).cvs = s.cvs := rfl
@[simp] theorem wr_taps (s : State) (a : Nat) (v : Word) : (wr s a v).taps = s.taps := rfl
@[simp] theorem wr_iopins (s : State) (a : Nat) (v : Word) : (wr s a v).iopins = s.iopins := rfl
@[simp] theorem wr_supply (s : State) (a : Nat) (v : Word) : (wr s a v).supply = s.supply := rfl
@[simp] theorem wr_noc (s : State) (a : Nat) (v : Word) : (wr s a v).noc = s.noc := rfl
@[simp] theorem wr_hbm (s : State) (a : Nat) (v : Word) : (wr s a v).hbm = s.hbm := rfl
@[simp] theorem wr_fabric (s : State) (a : Nat) (v : Word) : (wr s a v).fabric = s.fabric := rfl
@[simp] theorem wr_twin (s : State) (a : Nat) (v : Word) : (wr s a v).twin = s.twin := rfl
@[simp] theorem wr_ports (s : State) (a : Nat) (v : Word) : (wr s a v).ports = s.ports := rfl
@[simp] theorem wr_moving (s : State) (a : Nat) (v : Word) : (wr s a v).moving = s.moving := rfl
@[simp] theorem wr_sparing (s : State) (a : Nat) (v : Word) : (wr s a v).sparing = s.sparing := rfl
@[simp] theorem wr_log (s : State) (a : Nat) (v : Word) : (wr s a v).log = s.log := rfl
@[simp] theorem wr_mgmt (s : State) (a : Nat) (v : Word) : (wr s a v).mgmt = s.mgmt := rfl
@[simp] theorem wr_pins (s : State) (a : Nat) (v : Word) : (wr s a v).pins = s.pins := rfl
@[simp] theorem wr_bootStep (s : State) (a : Nat) (v : Word) : (wr s a v).bootStep = s.bootStep := rfl
@[simp] theorem wr_failed (s : State) (a : Nat) (v : Word) : (wr s a v).failed = s.failed := rfl
@[simp] theorem wr_ts (s : State) (a : Nat) (v : Word) : (wr s a v).ts = s.ts := rfl
@[simp] theorem wr_beat (s : State) (a : Nat) (v : Word) : (wr s a v).beat = s.beat := rfl
@[simp] theorem wr_imsic (s : State) (a : Nat) (v : Word) : (wr s a v).imsic = s.imsic := rfl
@[simp] theorem wr_bar2 (s : State) (a : Nat) (v : Word) : (wr s a v).bar2 = s.bar2 := rfl
@[simp] theorem wr_hot (s : State) (a : Nat) (v : Word) : (wr s a v).hot = s.hot := rfl
@[simp] theorem wr_levelAt (s : State) (a : Nat) (v : Word) : (wr s a v).levelAt = s.levelAt := rfl
@[simp] theorem wr_tripAt (s : State) (a : Nat) (v : Word) : (wr s a v).tripAt = s.tripAt := rfl
@[simp] theorem wr_out (s : State) (a : Nat) (v : Word) : (wr s a v).out = s.out := rfl
@[simp] theorem wr_linkOut (s : State) (a : Nat) (v : Word) : (wr s a v).linkOut = s.linkOut := rfl
@[simp] theorem wr_dgrams (s : State) (a : Nat) (v : Word) : (wr s a v).dgrams = s.dgrams := rfl
@[simp] theorem wr_pcieOut (s : State) (a : Nat) (v : Word) : (wr s a v).pcieOut = s.pcieOut := rfl
@[simp] theorem wr_freeCtr (s : State) (a : Nat) (v : Word) : (wr s a v).freeCtr = s.freeCtr := rfl
@[simp] theorem wr_pending (s : State) (a : Nat) (v : Word) : (wr s a v).pending = s.pending := rfl

@[simp] theorem setFld_part (s : State) (a hi lo v : Nat) : (setFld s a hi lo v).part = s.part := rfl
@[simp] theorem setFld_tiles (s : State) (a hi lo v : Nat) : (setFld s a hi lo v).tiles = s.tiles := rfl
@[simp] theorem setFld_phys (s : State) (a hi lo v : Nat) : (setFld s a hi lo v).phys = s.phys := rfl
@[simp] theorem setFld_cqs (s : State) (a hi lo v : Nat) : (setFld s a hi lo v).cqs = s.cqs := rfl
@[simp] theorem setFld_qcs (s : State) (a hi lo v : Nat) : (setFld s a hi lo v).qcs = s.qcs := rfl
@[simp] theorem setFld_regions (s : State) (a hi lo v : Nat) : (setFld s a hi lo v).regions = s.regions := rfl
@[simp] theorem setFld_cvs (s : State) (a hi lo v : Nat) : (setFld s a hi lo v).cvs = s.cvs := rfl
@[simp] theorem setFld_taps (s : State) (a hi lo v : Nat) : (setFld s a hi lo v).taps = s.taps := rfl
@[simp] theorem setFld_iopins (s : State) (a hi lo v : Nat) : (setFld s a hi lo v).iopins = s.iopins := rfl
@[simp] theorem setFld_supply (s : State) (a hi lo v : Nat) : (setFld s a hi lo v).supply = s.supply := rfl
@[simp] theorem setFld_noc (s : State) (a hi lo v : Nat) : (setFld s a hi lo v).noc = s.noc := rfl
@[simp] theorem setFld_hbm (s : State) (a hi lo v : Nat) : (setFld s a hi lo v).hbm = s.hbm := rfl
@[simp] theorem setFld_fabric (s : State) (a hi lo v : Nat) : (setFld s a hi lo v).fabric = s.fabric := rfl
@[simp] theorem setFld_twin (s : State) (a hi lo v : Nat) : (setFld s a hi lo v).twin = s.twin := rfl
@[simp] theorem setFld_ports (s : State) (a hi lo v : Nat) : (setFld s a hi lo v).ports = s.ports := rfl
@[simp] theorem setFld_moving (s : State) (a hi lo v : Nat) : (setFld s a hi lo v).moving = s.moving := rfl
@[simp] theorem setFld_sparing (s : State) (a hi lo v : Nat) : (setFld s a hi lo v).sparing = s.sparing := rfl
@[simp] theorem setFld_log (s : State) (a hi lo v : Nat) : (setFld s a hi lo v).log = s.log := rfl
@[simp] theorem setFld_mgmt (s : State) (a hi lo v : Nat) : (setFld s a hi lo v).mgmt = s.mgmt := rfl
@[simp] theorem setFld_pins (s : State) (a hi lo v : Nat) : (setFld s a hi lo v).pins = s.pins := rfl
@[simp] theorem setFld_bootStep (s : State) (a hi lo v : Nat) : (setFld s a hi lo v).bootStep = s.bootStep := rfl
@[simp] theorem setFld_failed (s : State) (a hi lo v : Nat) : (setFld s a hi lo v).failed = s.failed := rfl
@[simp] theorem setFld_ts (s : State) (a hi lo v : Nat) : (setFld s a hi lo v).ts = s.ts := rfl
@[simp] theorem setFld_beat (s : State) (a hi lo v : Nat) : (setFld s a hi lo v).beat = s.beat := rfl
@[simp] theorem setFld_imsic (s : State) (a hi lo v : Nat) : (setFld s a hi lo v).imsic = s.imsic := rfl
@[simp] theorem setFld_bar2 (s : State) (a hi lo v : Nat) : (setFld s a hi lo v).bar2 = s.bar2 := rfl
@[simp] theorem setFld_hot (s : State) (a hi lo v : Nat) : (setFld s a hi lo v).hot = s.hot := rfl
@[simp] theorem setFld_levelAt (s : State) (a hi lo v : Nat) : (setFld s a hi lo v).levelAt = s.levelAt := rfl
@[simp] theorem setFld_tripAt (s : State) (a hi lo v : Nat) : (setFld s a hi lo v).tripAt = s.tripAt := rfl
@[simp] theorem setFld_out (s : State) (a hi lo v : Nat) : (setFld s a hi lo v).out = s.out := rfl
@[simp] theorem setFld_linkOut (s : State) (a hi lo v : Nat) : (setFld s a hi lo v).linkOut = s.linkOut := rfl
@[simp] theorem setFld_dgrams (s : State) (a hi lo v : Nat) : (setFld s a hi lo v).dgrams = s.dgrams := rfl
@[simp] theorem setFld_pcieOut (s : State) (a hi lo v : Nat) : (setFld s a hi lo v).pcieOut = s.pcieOut := rfl
@[simp] theorem setFld_freeCtr (s : State) (a hi lo v : Nat) : (setFld s a hi lo v).freeCtr = s.freeCtr := rfl
@[simp] theorem setFld_pending (s : State) (a hi lo v : Nat) : (setFld s a hi lo v).pending = s.pending := rfl

@[simp] theorem setFlag_part (s : State) (a i : Nat) (b : Bool) : (setFlag s a i b).part = s.part := rfl
@[simp] theorem setFlag_tiles (s : State) (a i : Nat) (b : Bool) : (setFlag s a i b).tiles = s.tiles := rfl
@[simp] theorem setFlag_phys (s : State) (a i : Nat) (b : Bool) : (setFlag s a i b).phys = s.phys := rfl
@[simp] theorem setFlag_cqs (s : State) (a i : Nat) (b : Bool) : (setFlag s a i b).cqs = s.cqs := rfl
@[simp] theorem setFlag_qcs (s : State) (a i : Nat) (b : Bool) : (setFlag s a i b).qcs = s.qcs := rfl
@[simp] theorem setFlag_regions (s : State) (a i : Nat) (b : Bool) : (setFlag s a i b).regions = s.regions := rfl
@[simp] theorem setFlag_cvs (s : State) (a i : Nat) (b : Bool) : (setFlag s a i b).cvs = s.cvs := rfl
@[simp] theorem setFlag_taps (s : State) (a i : Nat) (b : Bool) : (setFlag s a i b).taps = s.taps := rfl
@[simp] theorem setFlag_iopins (s : State) (a i : Nat) (b : Bool) : (setFlag s a i b).iopins = s.iopins := rfl
@[simp] theorem setFlag_supply (s : State) (a i : Nat) (b : Bool) : (setFlag s a i b).supply = s.supply := rfl
@[simp] theorem setFlag_noc (s : State) (a i : Nat) (b : Bool) : (setFlag s a i b).noc = s.noc := rfl
@[simp] theorem setFlag_hbm (s : State) (a i : Nat) (b : Bool) : (setFlag s a i b).hbm = s.hbm := rfl
@[simp] theorem setFlag_fabric (s : State) (a i : Nat) (b : Bool) : (setFlag s a i b).fabric = s.fabric := rfl
@[simp] theorem setFlag_twin (s : State) (a i : Nat) (b : Bool) : (setFlag s a i b).twin = s.twin := rfl
@[simp] theorem setFlag_ports (s : State) (a i : Nat) (b : Bool) : (setFlag s a i b).ports = s.ports := rfl
@[simp] theorem setFlag_moving (s : State) (a i : Nat) (b : Bool) : (setFlag s a i b).moving = s.moving := rfl
@[simp] theorem setFlag_sparing (s : State) (a i : Nat) (b : Bool) : (setFlag s a i b).sparing = s.sparing := rfl
@[simp] theorem setFlag_log (s : State) (a i : Nat) (b : Bool) : (setFlag s a i b).log = s.log := rfl
@[simp] theorem setFlag_mgmt (s : State) (a i : Nat) (b : Bool) : (setFlag s a i b).mgmt = s.mgmt := rfl
@[simp] theorem setFlag_pins (s : State) (a i : Nat) (b : Bool) : (setFlag s a i b).pins = s.pins := rfl
@[simp] theorem setFlag_bootStep (s : State) (a i : Nat) (b : Bool) : (setFlag s a i b).bootStep = s.bootStep := rfl
@[simp] theorem setFlag_failed (s : State) (a i : Nat) (b : Bool) : (setFlag s a i b).failed = s.failed := rfl
@[simp] theorem setFlag_ts (s : State) (a i : Nat) (b : Bool) : (setFlag s a i b).ts = s.ts := rfl
@[simp] theorem setFlag_beat (s : State) (a i : Nat) (b : Bool) : (setFlag s a i b).beat = s.beat := rfl
@[simp] theorem setFlag_imsic (s : State) (a i : Nat) (b : Bool) : (setFlag s a i b).imsic = s.imsic := rfl
@[simp] theorem setFlag_bar2 (s : State) (a i : Nat) (b : Bool) : (setFlag s a i b).bar2 = s.bar2 := rfl
@[simp] theorem setFlag_hot (s : State) (a i : Nat) (b : Bool) : (setFlag s a i b).hot = s.hot := rfl
@[simp] theorem setFlag_levelAt (s : State) (a i : Nat) (b : Bool) : (setFlag s a i b).levelAt = s.levelAt := rfl
@[simp] theorem setFlag_tripAt (s : State) (a i : Nat) (b : Bool) : (setFlag s a i b).tripAt = s.tripAt := rfl
@[simp] theorem setFlag_out (s : State) (a i : Nat) (b : Bool) : (setFlag s a i b).out = s.out := rfl
@[simp] theorem setFlag_linkOut (s : State) (a i : Nat) (b : Bool) : (setFlag s a i b).linkOut = s.linkOut := rfl
@[simp] theorem setFlag_dgrams (s : State) (a i : Nat) (b : Bool) : (setFlag s a i b).dgrams = s.dgrams := rfl
@[simp] theorem setFlag_pcieOut (s : State) (a i : Nat) (b : Bool) : (setFlag s a i b).pcieOut = s.pcieOut := rfl
@[simp] theorem setFlag_freeCtr (s : State) (a i : Nat) (b : Bool) : (setFlag s a i b).freeCtr = s.freeCtr := rfl
@[simp] theorem setFlag_pending (s : State) (a i : Nat) (b : Bool) : (setFlag s a i b).pending = s.pending := rfl

@[simp] theorem setTile_part (s : State) (t : TileId) (x : Tile) : (setTile s t x).part = s.part := rfl
@[simp] theorem setTile_csr (s : State) (t : TileId) (x : Tile) : (setTile s t x).csr = s.csr := rfl
@[simp] theorem setTile_phys (s : State) (t : TileId) (x : Tile) : (setTile s t x).phys = s.phys := rfl
@[simp] theorem setTile_cqs (s : State) (t : TileId) (x : Tile) : (setTile s t x).cqs = s.cqs := rfl
@[simp] theorem setTile_qcs (s : State) (t : TileId) (x : Tile) : (setTile s t x).qcs = s.qcs := rfl
@[simp] theorem setTile_regions (s : State) (t : TileId) (x : Tile) : (setTile s t x).regions = s.regions := rfl
@[simp] theorem setTile_cvs (s : State) (t : TileId) (x : Tile) : (setTile s t x).cvs = s.cvs := rfl
@[simp] theorem setTile_taps (s : State) (t : TileId) (x : Tile) : (setTile s t x).taps = s.taps := rfl
@[simp] theorem setTile_iopins (s : State) (t : TileId) (x : Tile) : (setTile s t x).iopins = s.iopins := rfl
@[simp] theorem setTile_supply (s : State) (t : TileId) (x : Tile) : (setTile s t x).supply = s.supply := rfl
@[simp] theorem setTile_noc (s : State) (t : TileId) (x : Tile) : (setTile s t x).noc = s.noc := rfl
@[simp] theorem setTile_hbm (s : State) (t : TileId) (x : Tile) : (setTile s t x).hbm = s.hbm := rfl
@[simp] theorem setTile_fabric (s : State) (t : TileId) (x : Tile) : (setTile s t x).fabric = s.fabric := rfl
@[simp] theorem setTile_twin (s : State) (t : TileId) (x : Tile) : (setTile s t x).twin = s.twin := rfl
@[simp] theorem setTile_ports (s : State) (t : TileId) (x : Tile) : (setTile s t x).ports = s.ports := rfl
@[simp] theorem setTile_moving (s : State) (t : TileId) (x : Tile) : (setTile s t x).moving = s.moving := rfl
@[simp] theorem setTile_sparing (s : State) (t : TileId) (x : Tile) : (setTile s t x).sparing = s.sparing := rfl
@[simp] theorem setTile_log (s : State) (t : TileId) (x : Tile) : (setTile s t x).log = s.log := rfl
@[simp] theorem setTile_mgmt (s : State) (t : TileId) (x : Tile) : (setTile s t x).mgmt = s.mgmt := rfl
@[simp] theorem setTile_pins (s : State) (t : TileId) (x : Tile) : (setTile s t x).pins = s.pins := rfl
@[simp] theorem setTile_bootStep (s : State) (t : TileId) (x : Tile) : (setTile s t x).bootStep = s.bootStep := rfl
@[simp] theorem setTile_failed (s : State) (t : TileId) (x : Tile) : (setTile s t x).failed = s.failed := rfl
@[simp] theorem setTile_ts (s : State) (t : TileId) (x : Tile) : (setTile s t x).ts = s.ts := rfl
@[simp] theorem setTile_beat (s : State) (t : TileId) (x : Tile) : (setTile s t x).beat = s.beat := rfl
@[simp] theorem setTile_imsic (s : State) (t : TileId) (x : Tile) : (setTile s t x).imsic = s.imsic := rfl
@[simp] theorem setTile_bar2 (s : State) (t : TileId) (x : Tile) : (setTile s t x).bar2 = s.bar2 := rfl
@[simp] theorem setTile_hot (s : State) (t : TileId) (x : Tile) : (setTile s t x).hot = s.hot := rfl
@[simp] theorem setTile_levelAt (s : State) (t : TileId) (x : Tile) : (setTile s t x).levelAt = s.levelAt := rfl
@[simp] theorem setTile_tripAt (s : State) (t : TileId) (x : Tile) : (setTile s t x).tripAt = s.tripAt := rfl
@[simp] theorem setTile_out (s : State) (t : TileId) (x : Tile) : (setTile s t x).out = s.out := rfl
@[simp] theorem setTile_linkOut (s : State) (t : TileId) (x : Tile) : (setTile s t x).linkOut = s.linkOut := rfl
@[simp] theorem setTile_dgrams (s : State) (t : TileId) (x : Tile) : (setTile s t x).dgrams = s.dgrams := rfl
@[simp] theorem setTile_pcieOut (s : State) (t : TileId) (x : Tile) : (setTile s t x).pcieOut = s.pcieOut := rfl
@[simp] theorem setTile_freeCtr (s : State) (t : TileId) (x : Tile) : (setTile s t x).freeCtr = s.freeCtr := rfl
@[simp] theorem setTile_pending (s : State) (t : TileId) (x : Tile) : (setTile s t x).pending = s.pending := rfl

@[simp] theorem setPhys_part (s : State) (d e : Nat) (x : PhysTile) : (setPhys s d e x).part = s.part := rfl
@[simp] theorem setPhys_csr (s : State) (d e : Nat) (x : PhysTile) : (setPhys s d e x).csr = s.csr := rfl
@[simp] theorem setPhys_tiles (s : State) (d e : Nat) (x : PhysTile) : (setPhys s d e x).tiles = s.tiles := rfl
@[simp] theorem setPhys_cqs (s : State) (d e : Nat) (x : PhysTile) : (setPhys s d e x).cqs = s.cqs := rfl
@[simp] theorem setPhys_qcs (s : State) (d e : Nat) (x : PhysTile) : (setPhys s d e x).qcs = s.qcs := rfl
@[simp] theorem setPhys_regions (s : State) (d e : Nat) (x : PhysTile) : (setPhys s d e x).regions = s.regions := rfl
@[simp] theorem setPhys_cvs (s : State) (d e : Nat) (x : PhysTile) : (setPhys s d e x).cvs = s.cvs := rfl
@[simp] theorem setPhys_taps (s : State) (d e : Nat) (x : PhysTile) : (setPhys s d e x).taps = s.taps := rfl
@[simp] theorem setPhys_iopins (s : State) (d e : Nat) (x : PhysTile) : (setPhys s d e x).iopins = s.iopins := rfl
@[simp] theorem setPhys_supply (s : State) (d e : Nat) (x : PhysTile) : (setPhys s d e x).supply = s.supply := rfl
@[simp] theorem setPhys_noc (s : State) (d e : Nat) (x : PhysTile) : (setPhys s d e x).noc = s.noc := rfl
@[simp] theorem setPhys_hbm (s : State) (d e : Nat) (x : PhysTile) : (setPhys s d e x).hbm = s.hbm := rfl
@[simp] theorem setPhys_fabric (s : State) (d e : Nat) (x : PhysTile) : (setPhys s d e x).fabric = s.fabric := rfl
@[simp] theorem setPhys_twin (s : State) (d e : Nat) (x : PhysTile) : (setPhys s d e x).twin = s.twin := rfl
@[simp] theorem setPhys_ports (s : State) (d e : Nat) (x : PhysTile) : (setPhys s d e x).ports = s.ports := rfl
@[simp] theorem setPhys_moving (s : State) (d e : Nat) (x : PhysTile) : (setPhys s d e x).moving = s.moving := rfl
@[simp] theorem setPhys_sparing (s : State) (d e : Nat) (x : PhysTile) : (setPhys s d e x).sparing = s.sparing := rfl
@[simp] theorem setPhys_log (s : State) (d e : Nat) (x : PhysTile) : (setPhys s d e x).log = s.log := rfl
@[simp] theorem setPhys_mgmt (s : State) (d e : Nat) (x : PhysTile) : (setPhys s d e x).mgmt = s.mgmt := rfl
@[simp] theorem setPhys_pins (s : State) (d e : Nat) (x : PhysTile) : (setPhys s d e x).pins = s.pins := rfl
@[simp] theorem setPhys_bootStep (s : State) (d e : Nat) (x : PhysTile) : (setPhys s d e x).bootStep = s.bootStep := rfl
@[simp] theorem setPhys_failed (s : State) (d e : Nat) (x : PhysTile) : (setPhys s d e x).failed = s.failed := rfl
@[simp] theorem setPhys_ts (s : State) (d e : Nat) (x : PhysTile) : (setPhys s d e x).ts = s.ts := rfl
@[simp] theorem setPhys_beat (s : State) (d e : Nat) (x : PhysTile) : (setPhys s d e x).beat = s.beat := rfl
@[simp] theorem setPhys_imsic (s : State) (d e : Nat) (x : PhysTile) : (setPhys s d e x).imsic = s.imsic := rfl
@[simp] theorem setPhys_bar2 (s : State) (d e : Nat) (x : PhysTile) : (setPhys s d e x).bar2 = s.bar2 := rfl
@[simp] theorem setPhys_hot (s : State) (d e : Nat) (x : PhysTile) : (setPhys s d e x).hot = s.hot := rfl
@[simp] theorem setPhys_levelAt (s : State) (d e : Nat) (x : PhysTile) : (setPhys s d e x).levelAt = s.levelAt := rfl
@[simp] theorem setPhys_tripAt (s : State) (d e : Nat) (x : PhysTile) : (setPhys s d e x).tripAt = s.tripAt := rfl
@[simp] theorem setPhys_out (s : State) (d e : Nat) (x : PhysTile) : (setPhys s d e x).out = s.out := rfl
@[simp] theorem setPhys_linkOut (s : State) (d e : Nat) (x : PhysTile) : (setPhys s d e x).linkOut = s.linkOut := rfl
@[simp] theorem setPhys_dgrams (s : State) (d e : Nat) (x : PhysTile) : (setPhys s d e x).dgrams = s.dgrams := rfl
@[simp] theorem setPhys_pcieOut (s : State) (d e : Nat) (x : PhysTile) : (setPhys s d e x).pcieOut = s.pcieOut := rfl
@[simp] theorem setPhys_freeCtr (s : State) (d e : Nat) (x : PhysTile) : (setPhys s d e x).freeCtr = s.freeCtr := rfl
@[simp] theorem setPhys_pending (s : State) (d e : Nat) (x : PhysTile) : (setPhys s d e x).pending = s.pending := rfl

@[simp] theorem setTag_part (s : State) (node tag : Nat) (r : TagRec) : (setTag s node tag r).part = s.part := rfl
@[simp] theorem setTag_csr (s : State) (node tag : Nat) (r : TagRec) : (setTag s node tag r).csr = s.csr := rfl
@[simp] theorem setTag_tiles (s : State) (node tag : Nat) (r : TagRec) : (setTag s node tag r).tiles = s.tiles := rfl
@[simp] theorem setTag_phys (s : State) (node tag : Nat) (r : TagRec) : (setTag s node tag r).phys = s.phys := rfl
@[simp] theorem setTag_cqs (s : State) (node tag : Nat) (r : TagRec) : (setTag s node tag r).cqs = s.cqs := rfl
@[simp] theorem setTag_qcs (s : State) (node tag : Nat) (r : TagRec) : (setTag s node tag r).qcs = s.qcs := rfl
@[simp] theorem setTag_regions (s : State) (node tag : Nat) (r : TagRec) : (setTag s node tag r).regions = s.regions := rfl
@[simp] theorem setTag_cvs (s : State) (node tag : Nat) (r : TagRec) : (setTag s node tag r).cvs = s.cvs := rfl
@[simp] theorem setTag_taps (s : State) (node tag : Nat) (r : TagRec) : (setTag s node tag r).taps = s.taps := rfl
@[simp] theorem setTag_iopins (s : State) (node tag : Nat) (r : TagRec) : (setTag s node tag r).iopins = s.iopins := rfl
@[simp] theorem setTag_supply (s : State) (node tag : Nat) (r : TagRec) : (setTag s node tag r).supply = s.supply := rfl
@[simp] theorem setTag_hbm (s : State) (node tag : Nat) (r : TagRec) : (setTag s node tag r).hbm = s.hbm := rfl
@[simp] theorem setTag_fabric (s : State) (node tag : Nat) (r : TagRec) : (setTag s node tag r).fabric = s.fabric := rfl
@[simp] theorem setTag_twin (s : State) (node tag : Nat) (r : TagRec) : (setTag s node tag r).twin = s.twin := rfl
@[simp] theorem setTag_ports (s : State) (node tag : Nat) (r : TagRec) : (setTag s node tag r).ports = s.ports := rfl
@[simp] theorem setTag_moving (s : State) (node tag : Nat) (r : TagRec) : (setTag s node tag r).moving = s.moving := rfl
@[simp] theorem setTag_sparing (s : State) (node tag : Nat) (r : TagRec) : (setTag s node tag r).sparing = s.sparing := rfl
@[simp] theorem setTag_log (s : State) (node tag : Nat) (r : TagRec) : (setTag s node tag r).log = s.log := rfl
@[simp] theorem setTag_mgmt (s : State) (node tag : Nat) (r : TagRec) : (setTag s node tag r).mgmt = s.mgmt := rfl
@[simp] theorem setTag_pins (s : State) (node tag : Nat) (r : TagRec) : (setTag s node tag r).pins = s.pins := rfl
@[simp] theorem setTag_bootStep (s : State) (node tag : Nat) (r : TagRec) : (setTag s node tag r).bootStep = s.bootStep := rfl
@[simp] theorem setTag_failed (s : State) (node tag : Nat) (r : TagRec) : (setTag s node tag r).failed = s.failed := rfl
@[simp] theorem setTag_ts (s : State) (node tag : Nat) (r : TagRec) : (setTag s node tag r).ts = s.ts := rfl
@[simp] theorem setTag_beat (s : State) (node tag : Nat) (r : TagRec) : (setTag s node tag r).beat = s.beat := rfl
@[simp] theorem setTag_imsic (s : State) (node tag : Nat) (r : TagRec) : (setTag s node tag r).imsic = s.imsic := rfl
@[simp] theorem setTag_bar2 (s : State) (node tag : Nat) (r : TagRec) : (setTag s node tag r).bar2 = s.bar2 := rfl
@[simp] theorem setTag_hot (s : State) (node tag : Nat) (r : TagRec) : (setTag s node tag r).hot = s.hot := rfl
@[simp] theorem setTag_levelAt (s : State) (node tag : Nat) (r : TagRec) : (setTag s node tag r).levelAt = s.levelAt := rfl
@[simp] theorem setTag_tripAt (s : State) (node tag : Nat) (r : TagRec) : (setTag s node tag r).tripAt = s.tripAt := rfl
@[simp] theorem setTag_out (s : State) (node tag : Nat) (r : TagRec) : (setTag s node tag r).out = s.out := rfl
@[simp] theorem setTag_linkOut (s : State) (node tag : Nat) (r : TagRec) : (setTag s node tag r).linkOut = s.linkOut := rfl
@[simp] theorem setTag_dgrams (s : State) (node tag : Nat) (r : TagRec) : (setTag s node tag r).dgrams = s.dgrams := rfl
@[simp] theorem setTag_pcieOut (s : State) (node tag : Nat) (r : TagRec) : (setTag s node tag r).pcieOut = s.pcieOut := rfl
@[simp] theorem setTag_freeCtr (s : State) (node tag : Nat) (r : TagRec) : (setTag s node tag r).freeCtr = s.freeCtr := rfl
@[simp] theorem setTag_pending (s : State) (node tag : Nat) (r : TagRec) : (setTag s node tag r).pending = s.pending := rfl

@[simp] theorem sendPkt_part (s : State) (p : Packet) : (sendPkt s p).part = s.part := rfl
@[simp] theorem sendPkt_csr (s : State) (p : Packet) : (sendPkt s p).csr = s.csr := rfl
@[simp] theorem sendPkt_tiles (s : State) (p : Packet) : (sendPkt s p).tiles = s.tiles := rfl
@[simp] theorem sendPkt_phys (s : State) (p : Packet) : (sendPkt s p).phys = s.phys := rfl
@[simp] theorem sendPkt_cqs (s : State) (p : Packet) : (sendPkt s p).cqs = s.cqs := rfl
@[simp] theorem sendPkt_qcs (s : State) (p : Packet) : (sendPkt s p).qcs = s.qcs := rfl
@[simp] theorem sendPkt_regions (s : State) (p : Packet) : (sendPkt s p).regions = s.regions := rfl
@[simp] theorem sendPkt_cvs (s : State) (p : Packet) : (sendPkt s p).cvs = s.cvs := rfl
@[simp] theorem sendPkt_taps (s : State) (p : Packet) : (sendPkt s p).taps = s.taps := rfl
@[simp] theorem sendPkt_iopins (s : State) (p : Packet) : (sendPkt s p).iopins = s.iopins := rfl
@[simp] theorem sendPkt_supply (s : State) (p : Packet) : (sendPkt s p).supply = s.supply := rfl
@[simp] theorem sendPkt_noc (s : State) (p : Packet) : (sendPkt s p).noc = s.noc := rfl
@[simp] theorem sendPkt_hbm (s : State) (p : Packet) : (sendPkt s p).hbm = s.hbm := rfl
@[simp] theorem sendPkt_fabric (s : State) (p : Packet) : (sendPkt s p).fabric = s.fabric := rfl
@[simp] theorem sendPkt_twin (s : State) (p : Packet) : (sendPkt s p).twin = s.twin := rfl
@[simp] theorem sendPkt_ports (s : State) (p : Packet) : (sendPkt s p).ports = s.ports := rfl
@[simp] theorem sendPkt_moving (s : State) (p : Packet) : (sendPkt s p).moving = s.moving := rfl
@[simp] theorem sendPkt_sparing (s : State) (p : Packet) : (sendPkt s p).sparing = s.sparing := rfl
@[simp] theorem sendPkt_log (s : State) (p : Packet) : (sendPkt s p).log = s.log := rfl
@[simp] theorem sendPkt_mgmt (s : State) (p : Packet) : (sendPkt s p).mgmt = s.mgmt := rfl
@[simp] theorem sendPkt_pins (s : State) (p : Packet) : (sendPkt s p).pins = s.pins := rfl
@[simp] theorem sendPkt_bootStep (s : State) (p : Packet) : (sendPkt s p).bootStep = s.bootStep := rfl
@[simp] theorem sendPkt_failed (s : State) (p : Packet) : (sendPkt s p).failed = s.failed := rfl
@[simp] theorem sendPkt_ts (s : State) (p : Packet) : (sendPkt s p).ts = s.ts := rfl
@[simp] theorem sendPkt_beat (s : State) (p : Packet) : (sendPkt s p).beat = s.beat := rfl
@[simp] theorem sendPkt_imsic (s : State) (p : Packet) : (sendPkt s p).imsic = s.imsic := rfl
@[simp] theorem sendPkt_bar2 (s : State) (p : Packet) : (sendPkt s p).bar2 = s.bar2 := rfl
@[simp] theorem sendPkt_hot (s : State) (p : Packet) : (sendPkt s p).hot = s.hot := rfl
@[simp] theorem sendPkt_levelAt (s : State) (p : Packet) : (sendPkt s p).levelAt = s.levelAt := rfl
@[simp] theorem sendPkt_tripAt (s : State) (p : Packet) : (sendPkt s p).tripAt = s.tripAt := rfl
@[simp] theorem sendPkt_linkOut (s : State) (p : Packet) : (sendPkt s p).linkOut = s.linkOut := rfl
@[simp] theorem sendPkt_dgrams (s : State) (p : Packet) : (sendPkt s p).dgrams = s.dgrams := rfl
@[simp] theorem sendPkt_pcieOut (s : State) (p : Packet) : (sendPkt s p).pcieOut = s.pcieOut := rfl
@[simp] theorem sendPkt_freeCtr (s : State) (p : Packet) : (sendPkt s p).freeCtr = s.freeCtr := rfl
@[simp] theorem sendPkt_pending (s : State) (p : Packet) : (sendPkt s p).pending = s.pending := rfl

@[simp] theorem takePkt_part (s : State) (p : Packet) : (takePkt s p).part = s.part := rfl
@[simp] theorem takePkt_csr (s : State) (p : Packet) : (takePkt s p).csr = s.csr := rfl
@[simp] theorem takePkt_tiles (s : State) (p : Packet) : (takePkt s p).tiles = s.tiles := rfl
@[simp] theorem takePkt_phys (s : State) (p : Packet) : (takePkt s p).phys = s.phys := rfl
@[simp] theorem takePkt_cqs (s : State) (p : Packet) : (takePkt s p).cqs = s.cqs := rfl
@[simp] theorem takePkt_qcs (s : State) (p : Packet) : (takePkt s p).qcs = s.qcs := rfl
@[simp] theorem takePkt_regions (s : State) (p : Packet) : (takePkt s p).regions = s.regions := rfl
@[simp] theorem takePkt_cvs (s : State) (p : Packet) : (takePkt s p).cvs = s.cvs := rfl
@[simp] theorem takePkt_taps (s : State) (p : Packet) : (takePkt s p).taps = s.taps := rfl
@[simp] theorem takePkt_iopins (s : State) (p : Packet) : (takePkt s p).iopins = s.iopins := rfl
@[simp] theorem takePkt_supply (s : State) (p : Packet) : (takePkt s p).supply = s.supply := rfl
@[simp] theorem takePkt_hbm (s : State) (p : Packet) : (takePkt s p).hbm = s.hbm := rfl
@[simp] theorem takePkt_fabric (s : State) (p : Packet) : (takePkt s p).fabric = s.fabric := rfl
@[simp] theorem takePkt_twin (s : State) (p : Packet) : (takePkt s p).twin = s.twin := rfl
@[simp] theorem takePkt_ports (s : State) (p : Packet) : (takePkt s p).ports = s.ports := rfl
@[simp] theorem takePkt_moving (s : State) (p : Packet) : (takePkt s p).moving = s.moving := rfl
@[simp] theorem takePkt_sparing (s : State) (p : Packet) : (takePkt s p).sparing = s.sparing := rfl
@[simp] theorem takePkt_log (s : State) (p : Packet) : (takePkt s p).log = s.log := rfl
@[simp] theorem takePkt_mgmt (s : State) (p : Packet) : (takePkt s p).mgmt = s.mgmt := rfl
@[simp] theorem takePkt_pins (s : State) (p : Packet) : (takePkt s p).pins = s.pins := rfl
@[simp] theorem takePkt_bootStep (s : State) (p : Packet) : (takePkt s p).bootStep = s.bootStep := rfl
@[simp] theorem takePkt_failed (s : State) (p : Packet) : (takePkt s p).failed = s.failed := rfl
@[simp] theorem takePkt_ts (s : State) (p : Packet) : (takePkt s p).ts = s.ts := rfl
@[simp] theorem takePkt_beat (s : State) (p : Packet) : (takePkt s p).beat = s.beat := rfl
@[simp] theorem takePkt_imsic (s : State) (p : Packet) : (takePkt s p).imsic = s.imsic := rfl
@[simp] theorem takePkt_bar2 (s : State) (p : Packet) : (takePkt s p).bar2 = s.bar2 := rfl
@[simp] theorem takePkt_hot (s : State) (p : Packet) : (takePkt s p).hot = s.hot := rfl
@[simp] theorem takePkt_levelAt (s : State) (p : Packet) : (takePkt s p).levelAt = s.levelAt := rfl
@[simp] theorem takePkt_tripAt (s : State) (p : Packet) : (takePkt s p).tripAt = s.tripAt := rfl
@[simp] theorem takePkt_linkOut (s : State) (p : Packet) : (takePkt s p).linkOut = s.linkOut := rfl
@[simp] theorem takePkt_dgrams (s : State) (p : Packet) : (takePkt s p).dgrams = s.dgrams := rfl
@[simp] theorem takePkt_pcieOut (s : State) (p : Packet) : (takePkt s p).pcieOut = s.pcieOut := rfl
@[simp] theorem takePkt_freeCtr (s : State) (p : Packet) : (takePkt s p).freeCtr = s.freeCtr := rfl
@[simp] theorem takePkt_pending (s : State) (p : Packet) : (takePkt s p).pending = s.pending := rfl

@[simp] theorem sendLink_part (s : State) (m : LinkMsg) : (sendLink s m).part = s.part := rfl
@[simp] theorem sendLink_csr (s : State) (m : LinkMsg) : (sendLink s m).csr = s.csr := rfl
@[simp] theorem sendLink_tiles (s : State) (m : LinkMsg) : (sendLink s m).tiles = s.tiles := rfl
@[simp] theorem sendLink_phys (s : State) (m : LinkMsg) : (sendLink s m).phys = s.phys := rfl
@[simp] theorem sendLink_cqs (s : State) (m : LinkMsg) : (sendLink s m).cqs = s.cqs := rfl
@[simp] theorem sendLink_qcs (s : State) (m : LinkMsg) : (sendLink s m).qcs = s.qcs := rfl
@[simp] theorem sendLink_regions (s : State) (m : LinkMsg) : (sendLink s m).regions = s.regions := rfl
@[simp] theorem sendLink_cvs (s : State) (m : LinkMsg) : (sendLink s m).cvs = s.cvs := rfl
@[simp] theorem sendLink_taps (s : State) (m : LinkMsg) : (sendLink s m).taps = s.taps := rfl
@[simp] theorem sendLink_iopins (s : State) (m : LinkMsg) : (sendLink s m).iopins = s.iopins := rfl
@[simp] theorem sendLink_supply (s : State) (m : LinkMsg) : (sendLink s m).supply = s.supply := rfl
@[simp] theorem sendLink_noc (s : State) (m : LinkMsg) : (sendLink s m).noc = s.noc := rfl
@[simp] theorem sendLink_hbm (s : State) (m : LinkMsg) : (sendLink s m).hbm = s.hbm := rfl
@[simp] theorem sendLink_fabric (s : State) (m : LinkMsg) : (sendLink s m).fabric = s.fabric := rfl
@[simp] theorem sendLink_twin (s : State) (m : LinkMsg) : (sendLink s m).twin = s.twin := rfl
@[simp] theorem sendLink_ports (s : State) (m : LinkMsg) : (sendLink s m).ports = s.ports := rfl
@[simp] theorem sendLink_moving (s : State) (m : LinkMsg) : (sendLink s m).moving = s.moving := rfl
@[simp] theorem sendLink_sparing (s : State) (m : LinkMsg) : (sendLink s m).sparing = s.sparing := rfl
@[simp] theorem sendLink_log (s : State) (m : LinkMsg) : (sendLink s m).log = s.log := rfl
@[simp] theorem sendLink_mgmt (s : State) (m : LinkMsg) : (sendLink s m).mgmt = s.mgmt := rfl
@[simp] theorem sendLink_pins (s : State) (m : LinkMsg) : (sendLink s m).pins = s.pins := rfl
@[simp] theorem sendLink_bootStep (s : State) (m : LinkMsg) : (sendLink s m).bootStep = s.bootStep := rfl
@[simp] theorem sendLink_failed (s : State) (m : LinkMsg) : (sendLink s m).failed = s.failed := rfl
@[simp] theorem sendLink_ts (s : State) (m : LinkMsg) : (sendLink s m).ts = s.ts := rfl
@[simp] theorem sendLink_beat (s : State) (m : LinkMsg) : (sendLink s m).beat = s.beat := rfl
@[simp] theorem sendLink_imsic (s : State) (m : LinkMsg) : (sendLink s m).imsic = s.imsic := rfl
@[simp] theorem sendLink_bar2 (s : State) (m : LinkMsg) : (sendLink s m).bar2 = s.bar2 := rfl
@[simp] theorem sendLink_hot (s : State) (m : LinkMsg) : (sendLink s m).hot = s.hot := rfl
@[simp] theorem sendLink_levelAt (s : State) (m : LinkMsg) : (sendLink s m).levelAt = s.levelAt := rfl
@[simp] theorem sendLink_tripAt (s : State) (m : LinkMsg) : (sendLink s m).tripAt = s.tripAt := rfl
@[simp] theorem sendLink_out (s : State) (m : LinkMsg) : (sendLink s m).out = s.out := rfl
@[simp] theorem sendLink_dgrams (s : State) (m : LinkMsg) : (sendLink s m).dgrams = s.dgrams := rfl
@[simp] theorem sendLink_pcieOut (s : State) (m : LinkMsg) : (sendLink s m).pcieOut = s.pcieOut := rfl
@[simp] theorem sendLink_freeCtr (s : State) (m : LinkMsg) : (sendLink s m).freeCtr = s.freeCtr := rfl
@[simp] theorem sendLink_pending (s : State) (m : LinkMsg) : (sendLink s m).pending = s.pending := rfl

@[simp] theorem objSet_part (s : State) (idx sub : Nat) (b : List Byte) : (objSet s idx sub b).part = s.part := rfl
@[simp] theorem objSet_csr (s : State) (idx sub : Nat) (b : List Byte) : (objSet s idx sub b).csr = s.csr := rfl
@[simp] theorem objSet_tiles (s : State) (idx sub : Nat) (b : List Byte) : (objSet s idx sub b).tiles = s.tiles := rfl
@[simp] theorem objSet_phys (s : State) (idx sub : Nat) (b : List Byte) : (objSet s idx sub b).phys = s.phys := rfl
@[simp] theorem objSet_cqs (s : State) (idx sub : Nat) (b : List Byte) : (objSet s idx sub b).cqs = s.cqs := rfl
@[simp] theorem objSet_qcs (s : State) (idx sub : Nat) (b : List Byte) : (objSet s idx sub b).qcs = s.qcs := rfl
@[simp] theorem objSet_regions (s : State) (idx sub : Nat) (b : List Byte) : (objSet s idx sub b).regions = s.regions := rfl
@[simp] theorem objSet_cvs (s : State) (idx sub : Nat) (b : List Byte) : (objSet s idx sub b).cvs = s.cvs := rfl
@[simp] theorem objSet_taps (s : State) (idx sub : Nat) (b : List Byte) : (objSet s idx sub b).taps = s.taps := rfl
@[simp] theorem objSet_iopins (s : State) (idx sub : Nat) (b : List Byte) : (objSet s idx sub b).iopins = s.iopins := rfl
@[simp] theorem objSet_supply (s : State) (idx sub : Nat) (b : List Byte) : (objSet s idx sub b).supply = s.supply := rfl
@[simp] theorem objSet_noc (s : State) (idx sub : Nat) (b : List Byte) : (objSet s idx sub b).noc = s.noc := rfl
@[simp] theorem objSet_hbm (s : State) (idx sub : Nat) (b : List Byte) : (objSet s idx sub b).hbm = s.hbm := rfl
@[simp] theorem objSet_fabric (s : State) (idx sub : Nat) (b : List Byte) : (objSet s idx sub b).fabric = s.fabric := rfl
@[simp] theorem objSet_twin (s : State) (idx sub : Nat) (b : List Byte) : (objSet s idx sub b).twin = s.twin := rfl
@[simp] theorem objSet_ports (s : State) (idx sub : Nat) (b : List Byte) : (objSet s idx sub b).ports = s.ports := rfl
@[simp] theorem objSet_moving (s : State) (idx sub : Nat) (b : List Byte) : (objSet s idx sub b).moving = s.moving := rfl
@[simp] theorem objSet_sparing (s : State) (idx sub : Nat) (b : List Byte) : (objSet s idx sub b).sparing = s.sparing := rfl
@[simp] theorem objSet_log (s : State) (idx sub : Nat) (b : List Byte) : (objSet s idx sub b).log = s.log := rfl
@[simp] theorem objSet_pins (s : State) (idx sub : Nat) (b : List Byte) : (objSet s idx sub b).pins = s.pins := rfl
@[simp] theorem objSet_bootStep (s : State) (idx sub : Nat) (b : List Byte) : (objSet s idx sub b).bootStep = s.bootStep := rfl
@[simp] theorem objSet_failed (s : State) (idx sub : Nat) (b : List Byte) : (objSet s idx sub b).failed = s.failed := rfl
@[simp] theorem objSet_ts (s : State) (idx sub : Nat) (b : List Byte) : (objSet s idx sub b).ts = s.ts := rfl
@[simp] theorem objSet_beat (s : State) (idx sub : Nat) (b : List Byte) : (objSet s idx sub b).beat = s.beat := rfl
@[simp] theorem objSet_imsic (s : State) (idx sub : Nat) (b : List Byte) : (objSet s idx sub b).imsic = s.imsic := rfl
@[simp] theorem objSet_bar2 (s : State) (idx sub : Nat) (b : List Byte) : (objSet s idx sub b).bar2 = s.bar2 := rfl
@[simp] theorem objSet_hot (s : State) (idx sub : Nat) (b : List Byte) : (objSet s idx sub b).hot = s.hot := rfl
@[simp] theorem objSet_levelAt (s : State) (idx sub : Nat) (b : List Byte) : (objSet s idx sub b).levelAt = s.levelAt := rfl
@[simp] theorem objSet_tripAt (s : State) (idx sub : Nat) (b : List Byte) : (objSet s idx sub b).tripAt = s.tripAt := rfl
@[simp] theorem objSet_out (s : State) (idx sub : Nat) (b : List Byte) : (objSet s idx sub b).out = s.out := rfl
@[simp] theorem objSet_linkOut (s : State) (idx sub : Nat) (b : List Byte) : (objSet s idx sub b).linkOut = s.linkOut := rfl
@[simp] theorem objSet_dgrams (s : State) (idx sub : Nat) (b : List Byte) : (objSet s idx sub b).dgrams = s.dgrams := rfl
@[simp] theorem objSet_pcieOut (s : State) (idx sub : Nat) (b : List Byte) : (objSet s idx sub b).pcieOut = s.pcieOut := rfl
@[simp] theorem objSet_freeCtr (s : State) (idx sub : Nat) (b : List Byte) : (objSet s idx sub b).freeCtr = s.freeCtr := rfl
@[simp] theorem objSet_pending (s : State) (idx sub : Nat) (b : List Byte) : (objSet s idx sub b).pending = s.pending := rfl

@[simp] theorem setHbm_part (s : State) (h : Hbm) : (setHbm s h).part = s.part := rfl
@[simp] theorem setHbm_csr (s : State) (h : Hbm) : (setHbm s h).csr = s.csr := rfl
@[simp] theorem setHbm_tiles (s : State) (h : Hbm) : (setHbm s h).tiles = s.tiles := rfl
@[simp] theorem setHbm_phys (s : State) (h : Hbm) : (setHbm s h).phys = s.phys := rfl
@[simp] theorem setHbm_cqs (s : State) (h : Hbm) : (setHbm s h).cqs = s.cqs := rfl
@[simp] theorem setHbm_qcs (s : State) (h : Hbm) : (setHbm s h).qcs = s.qcs := rfl
@[simp] theorem setHbm_regions (s : State) (h : Hbm) : (setHbm s h).regions = s.regions := rfl
@[simp] theorem setHbm_cvs (s : State) (h : Hbm) : (setHbm s h).cvs = s.cvs := rfl
@[simp] theorem setHbm_taps (s : State) (h : Hbm) : (setHbm s h).taps = s.taps := rfl
@[simp] theorem setHbm_iopins (s : State) (h : Hbm) : (setHbm s h).iopins = s.iopins := rfl
@[simp] theorem setHbm_supply (s : State) (h : Hbm) : (setHbm s h).supply = s.supply := rfl
@[simp] theorem setHbm_noc (s : State) (h : Hbm) : (setHbm s h).noc = s.noc := rfl
@[simp] theorem setHbm_fabric (s : State) (h : Hbm) : (setHbm s h).fabric = s.fabric := rfl
@[simp] theorem setHbm_twin (s : State) (h : Hbm) : (setHbm s h).twin = s.twin := rfl
@[simp] theorem setHbm_ports (s : State) (h : Hbm) : (setHbm s h).ports = s.ports := rfl
@[simp] theorem setHbm_moving (s : State) (h : Hbm) : (setHbm s h).moving = s.moving := rfl
@[simp] theorem setHbm_sparing (s : State) (h : Hbm) : (setHbm s h).sparing = s.sparing := rfl
@[simp] theorem setHbm_log (s : State) (h : Hbm) : (setHbm s h).log = s.log := rfl
@[simp] theorem setHbm_mgmt (s : State) (h : Hbm) : (setHbm s h).mgmt = s.mgmt := rfl
@[simp] theorem setHbm_pins (s : State) (h : Hbm) : (setHbm s h).pins = s.pins := rfl
@[simp] theorem setHbm_bootStep (s : State) (h : Hbm) : (setHbm s h).bootStep = s.bootStep := rfl
@[simp] theorem setHbm_failed (s : State) (h : Hbm) : (setHbm s h).failed = s.failed := rfl
@[simp] theorem setHbm_ts (s : State) (h : Hbm) : (setHbm s h).ts = s.ts := rfl
@[simp] theorem setHbm_beat (s : State) (h : Hbm) : (setHbm s h).beat = s.beat := rfl
@[simp] theorem setHbm_imsic (s : State) (h : Hbm) : (setHbm s h).imsic = s.imsic := rfl
@[simp] theorem setHbm_bar2 (s : State) (h : Hbm) : (setHbm s h).bar2 = s.bar2 := rfl
@[simp] theorem setHbm_hot (s : State) (h : Hbm) : (setHbm s h).hot = s.hot := rfl
@[simp] theorem setHbm_levelAt (s : State) (h : Hbm) : (setHbm s h).levelAt = s.levelAt := rfl
@[simp] theorem setHbm_tripAt (s : State) (h : Hbm) : (setHbm s h).tripAt = s.tripAt := rfl
@[simp] theorem setHbm_out (s : State) (h : Hbm) : (setHbm s h).out = s.out := rfl
@[simp] theorem setHbm_linkOut (s : State) (h : Hbm) : (setHbm s h).linkOut = s.linkOut := rfl
@[simp] theorem setHbm_dgrams (s : State) (h : Hbm) : (setHbm s h).dgrams = s.dgrams := rfl
@[simp] theorem setHbm_pcieOut (s : State) (h : Hbm) : (setHbm s h).pcieOut = s.pcieOut := rfl
@[simp] theorem setHbm_freeCtr (s : State) (h : Hbm) : (setHbm s h).freeCtr = s.freeCtr := rfl
@[simp] theorem setHbm_pending (s : State) (h : Hbm) : (setHbm s h).pending = s.pending := rfl

@[simp] theorem setPc_part (s : State) (d ch pc : Nat) (x : PcState) : (setPc s d ch pc x).part = s.part := rfl
@[simp] theorem setPc_csr (s : State) (d ch pc : Nat) (x : PcState) : (setPc s d ch pc x).csr = s.csr := rfl
@[simp] theorem setPc_tiles (s : State) (d ch pc : Nat) (x : PcState) : (setPc s d ch pc x).tiles = s.tiles := rfl
@[simp] theorem setPc_phys (s : State) (d ch pc : Nat) (x : PcState) : (setPc s d ch pc x).phys = s.phys := rfl
@[simp] theorem setPc_cqs (s : State) (d ch pc : Nat) (x : PcState) : (setPc s d ch pc x).cqs = s.cqs := rfl
@[simp] theorem setPc_qcs (s : State) (d ch pc : Nat) (x : PcState) : (setPc s d ch pc x).qcs = s.qcs := rfl
@[simp] theorem setPc_regions (s : State) (d ch pc : Nat) (x : PcState) : (setPc s d ch pc x).regions = s.regions := rfl
@[simp] theorem setPc_cvs (s : State) (d ch pc : Nat) (x : PcState) : (setPc s d ch pc x).cvs = s.cvs := rfl
@[simp] theorem setPc_taps (s : State) (d ch pc : Nat) (x : PcState) : (setPc s d ch pc x).taps = s.taps := rfl
@[simp] theorem setPc_iopins (s : State) (d ch pc : Nat) (x : PcState) : (setPc s d ch pc x).iopins = s.iopins := rfl
@[simp] theorem setPc_supply (s : State) (d ch pc : Nat) (x : PcState) : (setPc s d ch pc x).supply = s.supply := rfl
@[simp] theorem setPc_noc (s : State) (d ch pc : Nat) (x : PcState) : (setPc s d ch pc x).noc = s.noc := rfl
@[simp] theorem setPc_fabric (s : State) (d ch pc : Nat) (x : PcState) : (setPc s d ch pc x).fabric = s.fabric := rfl
@[simp] theorem setPc_twin (s : State) (d ch pc : Nat) (x : PcState) : (setPc s d ch pc x).twin = s.twin := rfl
@[simp] theorem setPc_ports (s : State) (d ch pc : Nat) (x : PcState) : (setPc s d ch pc x).ports = s.ports := rfl
@[simp] theorem setPc_moving (s : State) (d ch pc : Nat) (x : PcState) : (setPc s d ch pc x).moving = s.moving := rfl
@[simp] theorem setPc_sparing (s : State) (d ch pc : Nat) (x : PcState) : (setPc s d ch pc x).sparing = s.sparing := rfl
@[simp] theorem setPc_log (s : State) (d ch pc : Nat) (x : PcState) : (setPc s d ch pc x).log = s.log := rfl
@[simp] theorem setPc_mgmt (s : State) (d ch pc : Nat) (x : PcState) : (setPc s d ch pc x).mgmt = s.mgmt := rfl
@[simp] theorem setPc_pins (s : State) (d ch pc : Nat) (x : PcState) : (setPc s d ch pc x).pins = s.pins := rfl
@[simp] theorem setPc_bootStep (s : State) (d ch pc : Nat) (x : PcState) : (setPc s d ch pc x).bootStep = s.bootStep := rfl
@[simp] theorem setPc_failed (s : State) (d ch pc : Nat) (x : PcState) : (setPc s d ch pc x).failed = s.failed := rfl
@[simp] theorem setPc_ts (s : State) (d ch pc : Nat) (x : PcState) : (setPc s d ch pc x).ts = s.ts := rfl
@[simp] theorem setPc_beat (s : State) (d ch pc : Nat) (x : PcState) : (setPc s d ch pc x).beat = s.beat := rfl
@[simp] theorem setPc_imsic (s : State) (d ch pc : Nat) (x : PcState) : (setPc s d ch pc x).imsic = s.imsic := rfl
@[simp] theorem setPc_bar2 (s : State) (d ch pc : Nat) (x : PcState) : (setPc s d ch pc x).bar2 = s.bar2 := rfl
@[simp] theorem setPc_hot (s : State) (d ch pc : Nat) (x : PcState) : (setPc s d ch pc x).hot = s.hot := rfl
@[simp] theorem setPc_levelAt (s : State) (d ch pc : Nat) (x : PcState) : (setPc s d ch pc x).levelAt = s.levelAt := rfl
@[simp] theorem setPc_tripAt (s : State) (d ch pc : Nat) (x : PcState) : (setPc s d ch pc x).tripAt = s.tripAt := rfl
@[simp] theorem setPc_out (s : State) (d ch pc : Nat) (x : PcState) : (setPc s d ch pc x).out = s.out := rfl
@[simp] theorem setPc_linkOut (s : State) (d ch pc : Nat) (x : PcState) : (setPc s d ch pc x).linkOut = s.linkOut := rfl
@[simp] theorem setPc_dgrams (s : State) (d ch pc : Nat) (x : PcState) : (setPc s d ch pc x).dgrams = s.dgrams := rfl
@[simp] theorem setPc_pcieOut (s : State) (d ch pc : Nat) (x : PcState) : (setPc s d ch pc x).pcieOut = s.pcieOut := rfl
@[simp] theorem setPc_freeCtr (s : State) (d ch pc : Nat) (x : PcState) : (setPc s d ch pc x).freeCtr = s.freeCtr := rfl
@[simp] theorem setPc_pending (s : State) (d ch pc : Nat) (x : PcState) : (setPc s d ch pc x).pending = s.pending := rfl

@[simp] theorem setPortQueue_part (s : State) (d ep : Nat) (l : List HReq) : (setPortQueue s d ep l).part = s.part := rfl
@[simp] theorem setPortQueue_csr (s : State) (d ep : Nat) (l : List HReq) : (setPortQueue s d ep l).csr = s.csr := rfl
@[simp] theorem setPortQueue_tiles (s : State) (d ep : Nat) (l : List HReq) : (setPortQueue s d ep l).tiles = s.tiles := rfl
@[simp] theorem setPortQueue_phys (s : State) (d ep : Nat) (l : List HReq) : (setPortQueue s d ep l).phys = s.phys := rfl
@[simp] theorem setPortQueue_cqs (s : State) (d ep : Nat) (l : List HReq) : (setPortQueue s d ep l).cqs = s.cqs := rfl
@[simp] theorem setPortQueue_qcs (s : State) (d ep : Nat) (l : List HReq) : (setPortQueue s d ep l).qcs = s.qcs := rfl
@[simp] theorem setPortQueue_regions (s : State) (d ep : Nat) (l : List HReq) : (setPortQueue s d ep l).regions = s.regions := rfl
@[simp] theorem setPortQueue_cvs (s : State) (d ep : Nat) (l : List HReq) : (setPortQueue s d ep l).cvs = s.cvs := rfl
@[simp] theorem setPortQueue_taps (s : State) (d ep : Nat) (l : List HReq) : (setPortQueue s d ep l).taps = s.taps := rfl
@[simp] theorem setPortQueue_iopins (s : State) (d ep : Nat) (l : List HReq) : (setPortQueue s d ep l).iopins = s.iopins := rfl
@[simp] theorem setPortQueue_supply (s : State) (d ep : Nat) (l : List HReq) : (setPortQueue s d ep l).supply = s.supply := rfl
@[simp] theorem setPortQueue_noc (s : State) (d ep : Nat) (l : List HReq) : (setPortQueue s d ep l).noc = s.noc := rfl
@[simp] theorem setPortQueue_fabric (s : State) (d ep : Nat) (l : List HReq) : (setPortQueue s d ep l).fabric = s.fabric := rfl
@[simp] theorem setPortQueue_twin (s : State) (d ep : Nat) (l : List HReq) : (setPortQueue s d ep l).twin = s.twin := rfl
@[simp] theorem setPortQueue_ports (s : State) (d ep : Nat) (l : List HReq) : (setPortQueue s d ep l).ports = s.ports := rfl
@[simp] theorem setPortQueue_moving (s : State) (d ep : Nat) (l : List HReq) : (setPortQueue s d ep l).moving = s.moving := rfl
@[simp] theorem setPortQueue_sparing (s : State) (d ep : Nat) (l : List HReq) : (setPortQueue s d ep l).sparing = s.sparing := rfl
@[simp] theorem setPortQueue_log (s : State) (d ep : Nat) (l : List HReq) : (setPortQueue s d ep l).log = s.log := rfl
@[simp] theorem setPortQueue_mgmt (s : State) (d ep : Nat) (l : List HReq) : (setPortQueue s d ep l).mgmt = s.mgmt := rfl
@[simp] theorem setPortQueue_pins (s : State) (d ep : Nat) (l : List HReq) : (setPortQueue s d ep l).pins = s.pins := rfl
@[simp] theorem setPortQueue_bootStep (s : State) (d ep : Nat) (l : List HReq) : (setPortQueue s d ep l).bootStep = s.bootStep := rfl
@[simp] theorem setPortQueue_failed (s : State) (d ep : Nat) (l : List HReq) : (setPortQueue s d ep l).failed = s.failed := rfl
@[simp] theorem setPortQueue_ts (s : State) (d ep : Nat) (l : List HReq) : (setPortQueue s d ep l).ts = s.ts := rfl
@[simp] theorem setPortQueue_beat (s : State) (d ep : Nat) (l : List HReq) : (setPortQueue s d ep l).beat = s.beat := rfl
@[simp] theorem setPortQueue_imsic (s : State) (d ep : Nat) (l : List HReq) : (setPortQueue s d ep l).imsic = s.imsic := rfl
@[simp] theorem setPortQueue_bar2 (s : State) (d ep : Nat) (l : List HReq) : (setPortQueue s d ep l).bar2 = s.bar2 := rfl
@[simp] theorem setPortQueue_hot (s : State) (d ep : Nat) (l : List HReq) : (setPortQueue s d ep l).hot = s.hot := rfl
@[simp] theorem setPortQueue_levelAt (s : State) (d ep : Nat) (l : List HReq) : (setPortQueue s d ep l).levelAt = s.levelAt := rfl
@[simp] theorem setPortQueue_tripAt (s : State) (d ep : Nat) (l : List HReq) : (setPortQueue s d ep l).tripAt = s.tripAt := rfl
@[simp] theorem setPortQueue_out (s : State) (d ep : Nat) (l : List HReq) : (setPortQueue s d ep l).out = s.out := rfl
@[simp] theorem setPortQueue_linkOut (s : State) (d ep : Nat) (l : List HReq) : (setPortQueue s d ep l).linkOut = s.linkOut := rfl
@[simp] theorem setPortQueue_dgrams (s : State) (d ep : Nat) (l : List HReq) : (setPortQueue s d ep l).dgrams = s.dgrams := rfl
@[simp] theorem setPortQueue_pcieOut (s : State) (d ep : Nat) (l : List HReq) : (setPortQueue s d ep l).pcieOut = s.pcieOut := rfl
@[simp] theorem setPortQueue_freeCtr (s : State) (d ep : Nat) (l : List HReq) : (setPortQueue s d ep l).freeCtr = s.freeCtr := rfl
@[simp] theorem setPortQueue_pending (s : State) (d ep : Nat) (l : List HReq) : (setPortQueue s d ep l).pending = s.pending := rfl

@[simp] theorem setRegion_part (s : State) (r : RegionId) (x : Region) : (setRegion s r x).part = s.part := rfl
@[simp] theorem setRegion_csr (s : State) (r : RegionId) (x : Region) : (setRegion s r x).csr = s.csr := rfl
@[simp] theorem setRegion_tiles (s : State) (r : RegionId) (x : Region) : (setRegion s r x).tiles = s.tiles := rfl
@[simp] theorem setRegion_phys (s : State) (r : RegionId) (x : Region) : (setRegion s r x).phys = s.phys := rfl
@[simp] theorem setRegion_cqs (s : State) (r : RegionId) (x : Region) : (setRegion s r x).cqs = s.cqs := rfl
@[simp] theorem setRegion_qcs (s : State) (r : RegionId) (x : Region) : (setRegion s r x).qcs = s.qcs := rfl
@[simp] theorem setRegion_cvs (s : State) (r : RegionId) (x : Region) : (setRegion s r x).cvs = s.cvs := rfl
@[simp] theorem setRegion_taps (s : State) (r : RegionId) (x : Region) : (setRegion s r x).taps = s.taps := rfl
@[simp] theorem setRegion_iopins (s : State) (r : RegionId) (x : Region) : (setRegion s r x).iopins = s.iopins := rfl
@[simp] theorem setRegion_supply (s : State) (r : RegionId) (x : Region) : (setRegion s r x).supply = s.supply := rfl
@[simp] theorem setRegion_noc (s : State) (r : RegionId) (x : Region) : (setRegion s r x).noc = s.noc := rfl
@[simp] theorem setRegion_hbm (s : State) (r : RegionId) (x : Region) : (setRegion s r x).hbm = s.hbm := rfl
@[simp] theorem setRegion_fabric (s : State) (r : RegionId) (x : Region) : (setRegion s r x).fabric = s.fabric := rfl
@[simp] theorem setRegion_twin (s : State) (r : RegionId) (x : Region) : (setRegion s r x).twin = s.twin := rfl
@[simp] theorem setRegion_ports (s : State) (r : RegionId) (x : Region) : (setRegion s r x).ports = s.ports := rfl
@[simp] theorem setRegion_moving (s : State) (r : RegionId) (x : Region) : (setRegion s r x).moving = s.moving := rfl
@[simp] theorem setRegion_sparing (s : State) (r : RegionId) (x : Region) : (setRegion s r x).sparing = s.sparing := rfl
@[simp] theorem setRegion_log (s : State) (r : RegionId) (x : Region) : (setRegion s r x).log = s.log := rfl
@[simp] theorem setRegion_mgmt (s : State) (r : RegionId) (x : Region) : (setRegion s r x).mgmt = s.mgmt := rfl
@[simp] theorem setRegion_pins (s : State) (r : RegionId) (x : Region) : (setRegion s r x).pins = s.pins := rfl
@[simp] theorem setRegion_bootStep (s : State) (r : RegionId) (x : Region) : (setRegion s r x).bootStep = s.bootStep := rfl
@[simp] theorem setRegion_failed (s : State) (r : RegionId) (x : Region) : (setRegion s r x).failed = s.failed := rfl
@[simp] theorem setRegion_ts (s : State) (r : RegionId) (x : Region) : (setRegion s r x).ts = s.ts := rfl
@[simp] theorem setRegion_beat (s : State) (r : RegionId) (x : Region) : (setRegion s r x).beat = s.beat := rfl
@[simp] theorem setRegion_imsic (s : State) (r : RegionId) (x : Region) : (setRegion s r x).imsic = s.imsic := rfl
@[simp] theorem setRegion_bar2 (s : State) (r : RegionId) (x : Region) : (setRegion s r x).bar2 = s.bar2 := rfl
@[simp] theorem setRegion_hot (s : State) (r : RegionId) (x : Region) : (setRegion s r x).hot = s.hot := rfl
@[simp] theorem setRegion_levelAt (s : State) (r : RegionId) (x : Region) : (setRegion s r x).levelAt = s.levelAt := rfl
@[simp] theorem setRegion_tripAt (s : State) (r : RegionId) (x : Region) : (setRegion s r x).tripAt = s.tripAt := rfl
@[simp] theorem setRegion_out (s : State) (r : RegionId) (x : Region) : (setRegion s r x).out = s.out := rfl
@[simp] theorem setRegion_linkOut (s : State) (r : RegionId) (x : Region) : (setRegion s r x).linkOut = s.linkOut := rfl
@[simp] theorem setRegion_dgrams (s : State) (r : RegionId) (x : Region) : (setRegion s r x).dgrams = s.dgrams := rfl
@[simp] theorem setRegion_pcieOut (s : State) (r : RegionId) (x : Region) : (setRegion s r x).pcieOut = s.pcieOut := rfl
@[simp] theorem setRegion_freeCtr (s : State) (r : RegionId) (x : Region) : (setRegion s r x).freeCtr = s.freeCtr := rfl
@[simp] theorem setRegion_pending (s : State) (r : RegionId) (x : Region) : (setRegion s r x).pending = s.pending := rfl

/-- A field that no register write changes. -/
theorem putQc_field {α : Type} (f : State → α) (h : ∀ s a v, f (wr s a v) = f s) (s : State) (d : Fin 4) (q : Nat) (x : QCtl) :
    f (putQc s d q x) = f { s with qcs := mset {} s.qcs (qcKey d q) x } := by
  simp only [putQc, setFlag_eq, setFld_eq, h]
@[simp] theorem putQc_part (s : State) (d : Fin 4) (q : Nat) (x : QCtl) : (putQc s d q x).part = s.part := putQc_field State.part (fun _ _ _ => rfl) s d q x
@[simp] theorem putQc_tiles (s : State) (d : Fin 4) (q : Nat) (x : QCtl) : (putQc s d q x).tiles = s.tiles := putQc_field State.tiles (fun _ _ _ => rfl) s d q x
@[simp] theorem putQc_phys (s : State) (d : Fin 4) (q : Nat) (x : QCtl) : (putQc s d q x).phys = s.phys := putQc_field State.phys (fun _ _ _ => rfl) s d q x
@[simp] theorem putQc_cqs (s : State) (d : Fin 4) (q : Nat) (x : QCtl) : (putQc s d q x).cqs = s.cqs := putQc_field State.cqs (fun _ _ _ => rfl) s d q x
@[simp] theorem putQc_regions (s : State) (d : Fin 4) (q : Nat) (x : QCtl) : (putQc s d q x).regions = s.regions := putQc_field State.regions (fun _ _ _ => rfl) s d q x
@[simp] theorem putQc_cvs (s : State) (d : Fin 4) (q : Nat) (x : QCtl) : (putQc s d q x).cvs = s.cvs := putQc_field State.cvs (fun _ _ _ => rfl) s d q x
@[simp] theorem putQc_taps (s : State) (d : Fin 4) (q : Nat) (x : QCtl) : (putQc s d q x).taps = s.taps := putQc_field State.taps (fun _ _ _ => rfl) s d q x
@[simp] theorem putQc_iopins (s : State) (d : Fin 4) (q : Nat) (x : QCtl) : (putQc s d q x).iopins = s.iopins := putQc_field State.iopins (fun _ _ _ => rfl) s d q x
@[simp] theorem putQc_supply (s : State) (d : Fin 4) (q : Nat) (x : QCtl) : (putQc s d q x).supply = s.supply := putQc_field State.supply (fun _ _ _ => rfl) s d q x
@[simp] theorem putQc_noc (s : State) (d : Fin 4) (q : Nat) (x : QCtl) : (putQc s d q x).noc = s.noc := putQc_field State.noc (fun _ _ _ => rfl) s d q x
@[simp] theorem putQc_hbm (s : State) (d : Fin 4) (q : Nat) (x : QCtl) : (putQc s d q x).hbm = s.hbm := putQc_field State.hbm (fun _ _ _ => rfl) s d q x
@[simp] theorem putQc_fabric (s : State) (d : Fin 4) (q : Nat) (x : QCtl) : (putQc s d q x).fabric = s.fabric := putQc_field State.fabric (fun _ _ _ => rfl) s d q x
@[simp] theorem putQc_twin (s : State) (d : Fin 4) (q : Nat) (x : QCtl) : (putQc s d q x).twin = s.twin := putQc_field State.twin (fun _ _ _ => rfl) s d q x
@[simp] theorem putQc_ports (s : State) (d : Fin 4) (q : Nat) (x : QCtl) : (putQc s d q x).ports = s.ports := putQc_field State.ports (fun _ _ _ => rfl) s d q x
@[simp] theorem putQc_moving (s : State) (d : Fin 4) (q : Nat) (x : QCtl) : (putQc s d q x).moving = s.moving := putQc_field State.moving (fun _ _ _ => rfl) s d q x
@[simp] theorem putQc_sparing (s : State) (d : Fin 4) (q : Nat) (x : QCtl) : (putQc s d q x).sparing = s.sparing := putQc_field State.sparing (fun _ _ _ => rfl) s d q x
@[simp] theorem putQc_log (s : State) (d : Fin 4) (q : Nat) (x : QCtl) : (putQc s d q x).log = s.log := putQc_field State.log (fun _ _ _ => rfl) s d q x
@[simp] theorem putQc_mgmt (s : State) (d : Fin 4) (q : Nat) (x : QCtl) : (putQc s d q x).mgmt = s.mgmt := putQc_field State.mgmt (fun _ _ _ => rfl) s d q x
@[simp] theorem putQc_pins (s : State) (d : Fin 4) (q : Nat) (x : QCtl) : (putQc s d q x).pins = s.pins := putQc_field State.pins (fun _ _ _ => rfl) s d q x
@[simp] theorem putQc_bootStep (s : State) (d : Fin 4) (q : Nat) (x : QCtl) : (putQc s d q x).bootStep = s.bootStep := putQc_field State.bootStep (fun _ _ _ => rfl) s d q x
@[simp] theorem putQc_failed (s : State) (d : Fin 4) (q : Nat) (x : QCtl) : (putQc s d q x).failed = s.failed := putQc_field State.failed (fun _ _ _ => rfl) s d q x
@[simp] theorem putQc_ts (s : State) (d : Fin 4) (q : Nat) (x : QCtl) : (putQc s d q x).ts = s.ts := putQc_field State.ts (fun _ _ _ => rfl) s d q x
@[simp] theorem putQc_beat (s : State) (d : Fin 4) (q : Nat) (x : QCtl) : (putQc s d q x).beat = s.beat := putQc_field State.beat (fun _ _ _ => rfl) s d q x
@[simp] theorem putQc_imsic (s : State) (d : Fin 4) (q : Nat) (x : QCtl) : (putQc s d q x).imsic = s.imsic := putQc_field State.imsic (fun _ _ _ => rfl) s d q x
@[simp] theorem putQc_bar2 (s : State) (d : Fin 4) (q : Nat) (x : QCtl) : (putQc s d q x).bar2 = s.bar2 := putQc_field State.bar2 (fun _ _ _ => rfl) s d q x
@[simp] theorem putQc_hot (s : State) (d : Fin 4) (q : Nat) (x : QCtl) : (putQc s d q x).hot = s.hot := putQc_field State.hot (fun _ _ _ => rfl) s d q x
@[simp] theorem putQc_levelAt (s : State) (d : Fin 4) (q : Nat) (x : QCtl) : (putQc s d q x).levelAt = s.levelAt := putQc_field State.levelAt (fun _ _ _ => rfl) s d q x
@[simp] theorem putQc_tripAt (s : State) (d : Fin 4) (q : Nat) (x : QCtl) : (putQc s d q x).tripAt = s.tripAt := putQc_field State.tripAt (fun _ _ _ => rfl) s d q x
@[simp] theorem putQc_out (s : State) (d : Fin 4) (q : Nat) (x : QCtl) : (putQc s d q x).out = s.out := putQc_field State.out (fun _ _ _ => rfl) s d q x
@[simp] theorem putQc_linkOut (s : State) (d : Fin 4) (q : Nat) (x : QCtl) : (putQc s d q x).linkOut = s.linkOut := putQc_field State.linkOut (fun _ _ _ => rfl) s d q x
@[simp] theorem putQc_dgrams (s : State) (d : Fin 4) (q : Nat) (x : QCtl) : (putQc s d q x).dgrams = s.dgrams := putQc_field State.dgrams (fun _ _ _ => rfl) s d q x
@[simp] theorem putQc_pcieOut (s : State) (d : Fin 4) (q : Nat) (x : QCtl) : (putQc s d q x).pcieOut = s.pcieOut := putQc_field State.pcieOut (fun _ _ _ => rfl) s d q x
@[simp] theorem putQc_freeCtr (s : State) (d : Fin 4) (q : Nat) (x : QCtl) : (putQc s d q x).freeCtr = s.freeCtr := putQc_field State.freeCtr (fun _ _ _ => rfl) s d q x
@[simp] theorem putQc_pending (s : State) (d : Fin 4) (q : Nat) (x : QCtl) : (putQc s d q x).pending = s.pending := putQc_field State.pending (fun _ _ _ => rfl) s d q x

@[simp] theorem setCqRecs_part (s : State) (d : Fin 4) (q : Nat) (l : List CRec) : (setCqRecs s d q l).part = s.part := rfl
@[simp] theorem setCqRecs_csr (s : State) (d : Fin 4) (q : Nat) (l : List CRec) : (setCqRecs s d q l).csr = s.csr := rfl
@[simp] theorem setCqRecs_tiles (s : State) (d : Fin 4) (q : Nat) (l : List CRec) : (setCqRecs s d q l).tiles = s.tiles := rfl
@[simp] theorem setCqRecs_phys (s : State) (d : Fin 4) (q : Nat) (l : List CRec) : (setCqRecs s d q l).phys = s.phys := rfl
@[simp] theorem setCqRecs_qcs (s : State) (d : Fin 4) (q : Nat) (l : List CRec) : (setCqRecs s d q l).qcs = s.qcs := rfl
@[simp] theorem setCqRecs_regions (s : State) (d : Fin 4) (q : Nat) (l : List CRec) : (setCqRecs s d q l).regions = s.regions := rfl
@[simp] theorem setCqRecs_cvs (s : State) (d : Fin 4) (q : Nat) (l : List CRec) : (setCqRecs s d q l).cvs = s.cvs := rfl
@[simp] theorem setCqRecs_taps (s : State) (d : Fin 4) (q : Nat) (l : List CRec) : (setCqRecs s d q l).taps = s.taps := rfl
@[simp] theorem setCqRecs_iopins (s : State) (d : Fin 4) (q : Nat) (l : List CRec) : (setCqRecs s d q l).iopins = s.iopins := rfl
@[simp] theorem setCqRecs_supply (s : State) (d : Fin 4) (q : Nat) (l : List CRec) : (setCqRecs s d q l).supply = s.supply := rfl
@[simp] theorem setCqRecs_noc (s : State) (d : Fin 4) (q : Nat) (l : List CRec) : (setCqRecs s d q l).noc = s.noc := rfl
@[simp] theorem setCqRecs_hbm (s : State) (d : Fin 4) (q : Nat) (l : List CRec) : (setCqRecs s d q l).hbm = s.hbm := rfl
@[simp] theorem setCqRecs_fabric (s : State) (d : Fin 4) (q : Nat) (l : List CRec) : (setCqRecs s d q l).fabric = s.fabric := rfl
@[simp] theorem setCqRecs_twin (s : State) (d : Fin 4) (q : Nat) (l : List CRec) : (setCqRecs s d q l).twin = s.twin := rfl
@[simp] theorem setCqRecs_ports (s : State) (d : Fin 4) (q : Nat) (l : List CRec) : (setCqRecs s d q l).ports = s.ports := rfl
@[simp] theorem setCqRecs_moving (s : State) (d : Fin 4) (q : Nat) (l : List CRec) : (setCqRecs s d q l).moving = s.moving := rfl
@[simp] theorem setCqRecs_sparing (s : State) (d : Fin 4) (q : Nat) (l : List CRec) : (setCqRecs s d q l).sparing = s.sparing := rfl
@[simp] theorem setCqRecs_log (s : State) (d : Fin 4) (q : Nat) (l : List CRec) : (setCqRecs s d q l).log = s.log := rfl
@[simp] theorem setCqRecs_mgmt (s : State) (d : Fin 4) (q : Nat) (l : List CRec) : (setCqRecs s d q l).mgmt = s.mgmt := rfl
@[simp] theorem setCqRecs_pins (s : State) (d : Fin 4) (q : Nat) (l : List CRec) : (setCqRecs s d q l).pins = s.pins := rfl
@[simp] theorem setCqRecs_bootStep (s : State) (d : Fin 4) (q : Nat) (l : List CRec) : (setCqRecs s d q l).bootStep = s.bootStep := rfl
@[simp] theorem setCqRecs_failed (s : State) (d : Fin 4) (q : Nat) (l : List CRec) : (setCqRecs s d q l).failed = s.failed := rfl
@[simp] theorem setCqRecs_ts (s : State) (d : Fin 4) (q : Nat) (l : List CRec) : (setCqRecs s d q l).ts = s.ts := rfl
@[simp] theorem setCqRecs_beat (s : State) (d : Fin 4) (q : Nat) (l : List CRec) : (setCqRecs s d q l).beat = s.beat := rfl
@[simp] theorem setCqRecs_imsic (s : State) (d : Fin 4) (q : Nat) (l : List CRec) : (setCqRecs s d q l).imsic = s.imsic := rfl
@[simp] theorem setCqRecs_bar2 (s : State) (d : Fin 4) (q : Nat) (l : List CRec) : (setCqRecs s d q l).bar2 = s.bar2 := rfl
@[simp] theorem setCqRecs_hot (s : State) (d : Fin 4) (q : Nat) (l : List CRec) : (setCqRecs s d q l).hot = s.hot := rfl
@[simp] theorem setCqRecs_levelAt (s : State) (d : Fin 4) (q : Nat) (l : List CRec) : (setCqRecs s d q l).levelAt = s.levelAt := rfl
@[simp] theorem setCqRecs_tripAt (s : State) (d : Fin 4) (q : Nat) (l : List CRec) : (setCqRecs s d q l).tripAt = s.tripAt := rfl
@[simp] theorem setCqRecs_out (s : State) (d : Fin 4) (q : Nat) (l : List CRec) : (setCqRecs s d q l).out = s.out := rfl
@[simp] theorem setCqRecs_linkOut (s : State) (d : Fin 4) (q : Nat) (l : List CRec) : (setCqRecs s d q l).linkOut = s.linkOut := rfl
@[simp] theorem setCqRecs_dgrams (s : State) (d : Fin 4) (q : Nat) (l : List CRec) : (setCqRecs s d q l).dgrams = s.dgrams := rfl
@[simp] theorem setCqRecs_pcieOut (s : State) (d : Fin 4) (q : Nat) (l : List CRec) : (setCqRecs s d q l).pcieOut = s.pcieOut := rfl
@[simp] theorem setCqRecs_freeCtr (s : State) (d : Fin 4) (q : Nat) (l : List CRec) : (setCqRecs s d q l).freeCtr = s.freeCtr := rfl
@[simp] theorem setCqRecs_pending (s : State) (d : Fin 4) (q : Nat) (l : List CRec) : (setCqRecs s d q l).pending = s.pending := rfl

@[simp] theorem setCv_part (s : State) (u : CvId) (x : CvUnit) : (setCv s u x).part = s.part := rfl
@[simp] theorem setCv_csr (s : State) (u : CvId) (x : CvUnit) : (setCv s u x).csr = s.csr := rfl
@[simp] theorem setCv_tiles (s : State) (u : CvId) (x : CvUnit) : (setCv s u x).tiles = s.tiles := rfl
@[simp] theorem setCv_phys (s : State) (u : CvId) (x : CvUnit) : (setCv s u x).phys = s.phys := rfl
@[simp] theorem setCv_cqs (s : State) (u : CvId) (x : CvUnit) : (setCv s u x).cqs = s.cqs := rfl
@[simp] theorem setCv_qcs (s : State) (u : CvId) (x : CvUnit) : (setCv s u x).qcs = s.qcs := rfl
@[simp] theorem setCv_regions (s : State) (u : CvId) (x : CvUnit) : (setCv s u x).regions = s.regions := rfl
@[simp] theorem setCv_taps (s : State) (u : CvId) (x : CvUnit) : (setCv s u x).taps = s.taps := rfl
@[simp] theorem setCv_iopins (s : State) (u : CvId) (x : CvUnit) : (setCv s u x).iopins = s.iopins := rfl
@[simp] theorem setCv_supply (s : State) (u : CvId) (x : CvUnit) : (setCv s u x).supply = s.supply := rfl
@[simp] theorem setCv_noc (s : State) (u : CvId) (x : CvUnit) : (setCv s u x).noc = s.noc := rfl
@[simp] theorem setCv_hbm (s : State) (u : CvId) (x : CvUnit) : (setCv s u x).hbm = s.hbm := rfl
@[simp] theorem setCv_fabric (s : State) (u : CvId) (x : CvUnit) : (setCv s u x).fabric = s.fabric := rfl
@[simp] theorem setCv_twin (s : State) (u : CvId) (x : CvUnit) : (setCv s u x).twin = s.twin := rfl
@[simp] theorem setCv_ports (s : State) (u : CvId) (x : CvUnit) : (setCv s u x).ports = s.ports := rfl
@[simp] theorem setCv_moving (s : State) (u : CvId) (x : CvUnit) : (setCv s u x).moving = s.moving := rfl
@[simp] theorem setCv_sparing (s : State) (u : CvId) (x : CvUnit) : (setCv s u x).sparing = s.sparing := rfl
@[simp] theorem setCv_log (s : State) (u : CvId) (x : CvUnit) : (setCv s u x).log = s.log := rfl
@[simp] theorem setCv_mgmt (s : State) (u : CvId) (x : CvUnit) : (setCv s u x).mgmt = s.mgmt := rfl
@[simp] theorem setCv_pins (s : State) (u : CvId) (x : CvUnit) : (setCv s u x).pins = s.pins := rfl
@[simp] theorem setCv_bootStep (s : State) (u : CvId) (x : CvUnit) : (setCv s u x).bootStep = s.bootStep := rfl
@[simp] theorem setCv_failed (s : State) (u : CvId) (x : CvUnit) : (setCv s u x).failed = s.failed := rfl
@[simp] theorem setCv_ts (s : State) (u : CvId) (x : CvUnit) : (setCv s u x).ts = s.ts := rfl
@[simp] theorem setCv_beat (s : State) (u : CvId) (x : CvUnit) : (setCv s u x).beat = s.beat := rfl
@[simp] theorem setCv_imsic (s : State) (u : CvId) (x : CvUnit) : (setCv s u x).imsic = s.imsic := rfl
@[simp] theorem setCv_bar2 (s : State) (u : CvId) (x : CvUnit) : (setCv s u x).bar2 = s.bar2 := rfl
@[simp] theorem setCv_hot (s : State) (u : CvId) (x : CvUnit) : (setCv s u x).hot = s.hot := rfl
@[simp] theorem setCv_levelAt (s : State) (u : CvId) (x : CvUnit) : (setCv s u x).levelAt = s.levelAt := rfl
@[simp] theorem setCv_tripAt (s : State) (u : CvId) (x : CvUnit) : (setCv s u x).tripAt = s.tripAt := rfl
@[simp] theorem setCv_out (s : State) (u : CvId) (x : CvUnit) : (setCv s u x).out = s.out := rfl
@[simp] theorem setCv_linkOut (s : State) (u : CvId) (x : CvUnit) : (setCv s u x).linkOut = s.linkOut := rfl
@[simp] theorem setCv_dgrams (s : State) (u : CvId) (x : CvUnit) : (setCv s u x).dgrams = s.dgrams := rfl
@[simp] theorem setCv_pcieOut (s : State) (u : CvId) (x : CvUnit) : (setCv s u x).pcieOut = s.pcieOut := rfl
@[simp] theorem setCv_freeCtr (s : State) (u : CvId) (x : CvUnit) : (setCv s u x).freeCtr = s.freeCtr := rfl
@[simp] theorem setCv_pending (s : State) (u : CvId) (x : CvUnit) : (setCv s u x).pending = s.pending := rfl

@[simp] theorem setPin_part (s : State) (d : Fin 4) (p : Nat) (x : IoPin) : (setPin s d p x).part = s.part := rfl
@[simp] theorem setPin_csr (s : State) (d : Fin 4) (p : Nat) (x : IoPin) : (setPin s d p x).csr = s.csr := rfl
@[simp] theorem setPin_tiles (s : State) (d : Fin 4) (p : Nat) (x : IoPin) : (setPin s d p x).tiles = s.tiles := rfl
@[simp] theorem setPin_phys (s : State) (d : Fin 4) (p : Nat) (x : IoPin) : (setPin s d p x).phys = s.phys := rfl
@[simp] theorem setPin_cqs (s : State) (d : Fin 4) (p : Nat) (x : IoPin) : (setPin s d p x).cqs = s.cqs := rfl
@[simp] theorem setPin_qcs (s : State) (d : Fin 4) (p : Nat) (x : IoPin) : (setPin s d p x).qcs = s.qcs := rfl
@[simp] theorem setPin_regions (s : State) (d : Fin 4) (p : Nat) (x : IoPin) : (setPin s d p x).regions = s.regions := rfl
@[simp] theorem setPin_cvs (s : State) (d : Fin 4) (p : Nat) (x : IoPin) : (setPin s d p x).cvs = s.cvs := rfl
@[simp] theorem setPin_taps (s : State) (d : Fin 4) (p : Nat) (x : IoPin) : (setPin s d p x).taps = s.taps := rfl
@[simp] theorem setPin_supply (s : State) (d : Fin 4) (p : Nat) (x : IoPin) : (setPin s d p x).supply = s.supply := rfl
@[simp] theorem setPin_noc (s : State) (d : Fin 4) (p : Nat) (x : IoPin) : (setPin s d p x).noc = s.noc := rfl
@[simp] theorem setPin_hbm (s : State) (d : Fin 4) (p : Nat) (x : IoPin) : (setPin s d p x).hbm = s.hbm := rfl
@[simp] theorem setPin_fabric (s : State) (d : Fin 4) (p : Nat) (x : IoPin) : (setPin s d p x).fabric = s.fabric := rfl
@[simp] theorem setPin_twin (s : State) (d : Fin 4) (p : Nat) (x : IoPin) : (setPin s d p x).twin = s.twin := rfl
@[simp] theorem setPin_ports (s : State) (d : Fin 4) (p : Nat) (x : IoPin) : (setPin s d p x).ports = s.ports := rfl
@[simp] theorem setPin_moving (s : State) (d : Fin 4) (p : Nat) (x : IoPin) : (setPin s d p x).moving = s.moving := rfl
@[simp] theorem setPin_sparing (s : State) (d : Fin 4) (p : Nat) (x : IoPin) : (setPin s d p x).sparing = s.sparing := rfl
@[simp] theorem setPin_log (s : State) (d : Fin 4) (p : Nat) (x : IoPin) : (setPin s d p x).log = s.log := rfl
@[simp] theorem setPin_mgmt (s : State) (d : Fin 4) (p : Nat) (x : IoPin) : (setPin s d p x).mgmt = s.mgmt := rfl
@[simp] theorem setPin_pins (s : State) (d : Fin 4) (p : Nat) (x : IoPin) : (setPin s d p x).pins = s.pins := rfl
@[simp] theorem setPin_bootStep (s : State) (d : Fin 4) (p : Nat) (x : IoPin) : (setPin s d p x).bootStep = s.bootStep := rfl
@[simp] theorem setPin_failed (s : State) (d : Fin 4) (p : Nat) (x : IoPin) : (setPin s d p x).failed = s.failed := rfl
@[simp] theorem setPin_ts (s : State) (d : Fin 4) (p : Nat) (x : IoPin) : (setPin s d p x).ts = s.ts := rfl
@[simp] theorem setPin_beat (s : State) (d : Fin 4) (p : Nat) (x : IoPin) : (setPin s d p x).beat = s.beat := rfl
@[simp] theorem setPin_imsic (s : State) (d : Fin 4) (p : Nat) (x : IoPin) : (setPin s d p x).imsic = s.imsic := rfl
@[simp] theorem setPin_bar2 (s : State) (d : Fin 4) (p : Nat) (x : IoPin) : (setPin s d p x).bar2 = s.bar2 := rfl
@[simp] theorem setPin_hot (s : State) (d : Fin 4) (p : Nat) (x : IoPin) : (setPin s d p x).hot = s.hot := rfl
@[simp] theorem setPin_levelAt (s : State) (d : Fin 4) (p : Nat) (x : IoPin) : (setPin s d p x).levelAt = s.levelAt := rfl
@[simp] theorem setPin_tripAt (s : State) (d : Fin 4) (p : Nat) (x : IoPin) : (setPin s d p x).tripAt = s.tripAt := rfl
@[simp] theorem setPin_out (s : State) (d : Fin 4) (p : Nat) (x : IoPin) : (setPin s d p x).out = s.out := rfl
@[simp] theorem setPin_linkOut (s : State) (d : Fin 4) (p : Nat) (x : IoPin) : (setPin s d p x).linkOut = s.linkOut := rfl
@[simp] theorem setPin_dgrams (s : State) (d : Fin 4) (p : Nat) (x : IoPin) : (setPin s d p x).dgrams = s.dgrams := rfl
@[simp] theorem setPin_pcieOut (s : State) (d : Fin 4) (p : Nat) (x : IoPin) : (setPin s d p x).pcieOut = s.pcieOut := rfl
@[simp] theorem setPin_freeCtr (s : State) (d : Fin 4) (p : Nat) (x : IoPin) : (setPin s d p x).freeCtr = s.freeCtr := rfl
@[simp] theorem setPin_pending (s : State) (d : Fin 4) (p : Nat) (x : IoPin) : (setPin s d p x).pending = s.pending := rfl

@[simp] theorem setPort_part (s : State) (p : PortId) (x : Port) : (setPort s p x).part = s.part := rfl
@[simp] theorem setPort_csr (s : State) (p : PortId) (x : Port) : (setPort s p x).csr = s.csr := rfl
@[simp] theorem setPort_tiles (s : State) (p : PortId) (x : Port) : (setPort s p x).tiles = s.tiles := rfl
@[simp] theorem setPort_phys (s : State) (p : PortId) (x : Port) : (setPort s p x).phys = s.phys := rfl
@[simp] theorem setPort_cqs (s : State) (p : PortId) (x : Port) : (setPort s p x).cqs = s.cqs := rfl
@[simp] theorem setPort_qcs (s : State) (p : PortId) (x : Port) : (setPort s p x).qcs = s.qcs := rfl
@[simp] theorem setPort_regions (s : State) (p : PortId) (x : Port) : (setPort s p x).regions = s.regions := rfl
@[simp] theorem setPort_cvs (s : State) (p : PortId) (x : Port) : (setPort s p x).cvs = s.cvs := rfl
@[simp] theorem setPort_taps (s : State) (p : PortId) (x : Port) : (setPort s p x).taps = s.taps := rfl
@[simp] theorem setPort_iopins (s : State) (p : PortId) (x : Port) : (setPort s p x).iopins = s.iopins := rfl
@[simp] theorem setPort_supply (s : State) (p : PortId) (x : Port) : (setPort s p x).supply = s.supply := rfl
@[simp] theorem setPort_noc (s : State) (p : PortId) (x : Port) : (setPort s p x).noc = s.noc := rfl
@[simp] theorem setPort_hbm (s : State) (p : PortId) (x : Port) : (setPort s p x).hbm = s.hbm := rfl
@[simp] theorem setPort_fabric (s : State) (p : PortId) (x : Port) : (setPort s p x).fabric = s.fabric := rfl
@[simp] theorem setPort_twin (s : State) (p : PortId) (x : Port) : (setPort s p x).twin = s.twin := rfl
@[simp] theorem setPort_moving (s : State) (p : PortId) (x : Port) : (setPort s p x).moving = s.moving := rfl
@[simp] theorem setPort_sparing (s : State) (p : PortId) (x : Port) : (setPort s p x).sparing = s.sparing := rfl
@[simp] theorem setPort_log (s : State) (p : PortId) (x : Port) : (setPort s p x).log = s.log := rfl
@[simp] theorem setPort_mgmt (s : State) (p : PortId) (x : Port) : (setPort s p x).mgmt = s.mgmt := rfl
@[simp] theorem setPort_pins (s : State) (p : PortId) (x : Port) : (setPort s p x).pins = s.pins := rfl
@[simp] theorem setPort_bootStep (s : State) (p : PortId) (x : Port) : (setPort s p x).bootStep = s.bootStep := rfl
@[simp] theorem setPort_failed (s : State) (p : PortId) (x : Port) : (setPort s p x).failed = s.failed := rfl
@[simp] theorem setPort_ts (s : State) (p : PortId) (x : Port) : (setPort s p x).ts = s.ts := rfl
@[simp] theorem setPort_beat (s : State) (p : PortId) (x : Port) : (setPort s p x).beat = s.beat := rfl
@[simp] theorem setPort_imsic (s : State) (p : PortId) (x : Port) : (setPort s p x).imsic = s.imsic := rfl
@[simp] theorem setPort_bar2 (s : State) (p : PortId) (x : Port) : (setPort s p x).bar2 = s.bar2 := rfl
@[simp] theorem setPort_hot (s : State) (p : PortId) (x : Port) : (setPort s p x).hot = s.hot := rfl
@[simp] theorem setPort_levelAt (s : State) (p : PortId) (x : Port) : (setPort s p x).levelAt = s.levelAt := rfl
@[simp] theorem setPort_tripAt (s : State) (p : PortId) (x : Port) : (setPort s p x).tripAt = s.tripAt := rfl
@[simp] theorem setPort_out (s : State) (p : PortId) (x : Port) : (setPort s p x).out = s.out := rfl
@[simp] theorem setPort_linkOut (s : State) (p : PortId) (x : Port) : (setPort s p x).linkOut = s.linkOut := rfl
@[simp] theorem setPort_dgrams (s : State) (p : PortId) (x : Port) : (setPort s p x).dgrams = s.dgrams := rfl
@[simp] theorem setPort_pcieOut (s : State) (p : PortId) (x : Port) : (setPort s p x).pcieOut = s.pcieOut := rfl
@[simp] theorem setPort_freeCtr (s : State) (p : PortId) (x : Port) : (setPort s p x).freeCtr = s.freeCtr := rfl
@[simp] theorem setPort_pending (s : State) (p : PortId) (x : Port) : (setPort s p x).pending = s.pending := rfl

@[simp] theorem setFab_part (s : State) (f : Fabric) : (setFab s f).part = s.part := rfl
@[simp] theorem setFab_csr (s : State) (f : Fabric) : (setFab s f).csr = s.csr := rfl
@[simp] theorem setFab_tiles (s : State) (f : Fabric) : (setFab s f).tiles = s.tiles := rfl
@[simp] theorem setFab_phys (s : State) (f : Fabric) : (setFab s f).phys = s.phys := rfl
@[simp] theorem setFab_cqs (s : State) (f : Fabric) : (setFab s f).cqs = s.cqs := rfl
@[simp] theorem setFab_qcs (s : State) (f : Fabric) : (setFab s f).qcs = s.qcs := rfl
@[simp] theorem setFab_regions (s : State) (f : Fabric) : (setFab s f).regions = s.regions := rfl
@[simp] theorem setFab_cvs (s : State) (f : Fabric) : (setFab s f).cvs = s.cvs := rfl
@[simp] theorem setFab_taps (s : State) (f : Fabric) : (setFab s f).taps = s.taps := rfl
@[simp] theorem setFab_iopins (s : State) (f : Fabric) : (setFab s f).iopins = s.iopins := rfl
@[simp] theorem setFab_supply (s : State) (f : Fabric) : (setFab s f).supply = s.supply := rfl
@[simp] theorem setFab_noc (s : State) (f : Fabric) : (setFab s f).noc = s.noc := rfl
@[simp] theorem setFab_hbm (s : State) (f : Fabric) : (setFab s f).hbm = s.hbm := rfl
@[simp] theorem setFab_twin (s : State) (f : Fabric) : (setFab s f).twin = s.twin := rfl
@[simp] theorem setFab_ports (s : State) (f : Fabric) : (setFab s f).ports = s.ports := rfl
@[simp] theorem setFab_moving (s : State) (f : Fabric) : (setFab s f).moving = s.moving := rfl
@[simp] theorem setFab_sparing (s : State) (f : Fabric) : (setFab s f).sparing = s.sparing := rfl
@[simp] theorem setFab_log (s : State) (f : Fabric) : (setFab s f).log = s.log := rfl
@[simp] theorem setFab_mgmt (s : State) (f : Fabric) : (setFab s f).mgmt = s.mgmt := rfl
@[simp] theorem setFab_pins (s : State) (f : Fabric) : (setFab s f).pins = s.pins := rfl
@[simp] theorem setFab_bootStep (s : State) (f : Fabric) : (setFab s f).bootStep = s.bootStep := rfl
@[simp] theorem setFab_failed (s : State) (f : Fabric) : (setFab s f).failed = s.failed := rfl
@[simp] theorem setFab_ts (s : State) (f : Fabric) : (setFab s f).ts = s.ts := rfl
@[simp] theorem setFab_beat (s : State) (f : Fabric) : (setFab s f).beat = s.beat := rfl
@[simp] theorem setFab_imsic (s : State) (f : Fabric) : (setFab s f).imsic = s.imsic := rfl
@[simp] theorem setFab_bar2 (s : State) (f : Fabric) : (setFab s f).bar2 = s.bar2 := rfl
@[simp] theorem setFab_hot (s : State) (f : Fabric) : (setFab s f).hot = s.hot := rfl
@[simp] theorem setFab_levelAt (s : State) (f : Fabric) : (setFab s f).levelAt = s.levelAt := rfl
@[simp] theorem setFab_tripAt (s : State) (f : Fabric) : (setFab s f).tripAt = s.tripAt := rfl
@[simp] theorem setFab_out (s : State) (f : Fabric) : (setFab s f).out = s.out := rfl
@[simp] theorem setFab_linkOut (s : State) (f : Fabric) : (setFab s f).linkOut = s.linkOut := rfl
@[simp] theorem setFab_dgrams (s : State) (f : Fabric) : (setFab s f).dgrams = s.dgrams := rfl
@[simp] theorem setFab_pcieOut (s : State) (f : Fabric) : (setFab s f).pcieOut = s.pcieOut := rfl
@[simp] theorem setFab_freeCtr (s : State) (f : Fabric) : (setFab s f).freeCtr = s.freeCtr := rfl
@[simp] theorem setFab_pending (s : State) (f : Fabric) : (setFab s f).pending = s.pending := rfl

@[simp] theorem setTwin_part (s : State) (t : Twin) : (setTwin s t).part = s.part := rfl
@[simp] theorem setTwin_csr (s : State) (t : Twin) : (setTwin s t).csr = s.csr := rfl
@[simp] theorem setTwin_tiles (s : State) (t : Twin) : (setTwin s t).tiles = s.tiles := rfl
@[simp] theorem setTwin_phys (s : State) (t : Twin) : (setTwin s t).phys = s.phys := rfl
@[simp] theorem setTwin_cqs (s : State) (t : Twin) : (setTwin s t).cqs = s.cqs := rfl
@[simp] theorem setTwin_qcs (s : State) (t : Twin) : (setTwin s t).qcs = s.qcs := rfl
@[simp] theorem setTwin_regions (s : State) (t : Twin) : (setTwin s t).regions = s.regions := rfl
@[simp] theorem setTwin_cvs (s : State) (t : Twin) : (setTwin s t).cvs = s.cvs := rfl
@[simp] theorem setTwin_taps (s : State) (t : Twin) : (setTwin s t).taps = s.taps := rfl
@[simp] theorem setTwin_iopins (s : State) (t : Twin) : (setTwin s t).iopins = s.iopins := rfl
@[simp] theorem setTwin_supply (s : State) (t : Twin) : (setTwin s t).supply = s.supply := rfl
@[simp] theorem setTwin_noc (s : State) (t : Twin) : (setTwin s t).noc = s.noc := rfl
@[simp] theorem setTwin_hbm (s : State) (t : Twin) : (setTwin s t).hbm = s.hbm := rfl
@[simp] theorem setTwin_fabric (s : State) (t : Twin) : (setTwin s t).fabric = s.fabric := rfl
@[simp] theorem setTwin_ports (s : State) (t : Twin) : (setTwin s t).ports = s.ports := rfl
@[simp] theorem setTwin_moving (s : State) (t : Twin) : (setTwin s t).moving = s.moving := rfl
@[simp] theorem setTwin_sparing (s : State) (t : Twin) : (setTwin s t).sparing = s.sparing := rfl
@[simp] theorem setTwin_log (s : State) (t : Twin) : (setTwin s t).log = s.log := rfl
@[simp] theorem setTwin_mgmt (s : State) (t : Twin) : (setTwin s t).mgmt = s.mgmt := rfl
@[simp] theorem setTwin_pins (s : State) (t : Twin) : (setTwin s t).pins = s.pins := rfl
@[simp] theorem setTwin_bootStep (s : State) (t : Twin) : (setTwin s t).bootStep = s.bootStep := rfl
@[simp] theorem setTwin_failed (s : State) (t : Twin) : (setTwin s t).failed = s.failed := rfl
@[simp] theorem setTwin_ts (s : State) (t : Twin) : (setTwin s t).ts = s.ts := rfl
@[simp] theorem setTwin_beat (s : State) (t : Twin) : (setTwin s t).beat = s.beat := rfl
@[simp] theorem setTwin_imsic (s : State) (t : Twin) : (setTwin s t).imsic = s.imsic := rfl
@[simp] theorem setTwin_bar2 (s : State) (t : Twin) : (setTwin s t).bar2 = s.bar2 := rfl
@[simp] theorem setTwin_hot (s : State) (t : Twin) : (setTwin s t).hot = s.hot := rfl
@[simp] theorem setTwin_levelAt (s : State) (t : Twin) : (setTwin s t).levelAt = s.levelAt := rfl
@[simp] theorem setTwin_tripAt (s : State) (t : Twin) : (setTwin s t).tripAt = s.tripAt := rfl
@[simp] theorem setTwin_out (s : State) (t : Twin) : (setTwin s t).out = s.out := rfl
@[simp] theorem setTwin_linkOut (s : State) (t : Twin) : (setTwin s t).linkOut = s.linkOut := rfl
@[simp] theorem setTwin_dgrams (s : State) (t : Twin) : (setTwin s t).dgrams = s.dgrams := rfl
@[simp] theorem setTwin_pcieOut (s : State) (t : Twin) : (setTwin s t).pcieOut = s.pcieOut := rfl
@[simp] theorem setTwin_freeCtr (s : State) (t : Twin) : (setTwin s t).freeCtr = s.freeCtr := rfl
@[simp] theorem setTwin_pending (s : State) (t : Twin) : (setTwin s t).pending = s.pending := rfl

@[simp] theorem setMbox_part (s : State) (c : Nat) (m : MbMsg) : (setMbox s c m).part = s.part := rfl
@[simp] theorem setMbox_csr (s : State) (c : Nat) (m : MbMsg) : (setMbox s c m).csr = s.csr := rfl
@[simp] theorem setMbox_tiles (s : State) (c : Nat) (m : MbMsg) : (setMbox s c m).tiles = s.tiles := rfl
@[simp] theorem setMbox_phys (s : State) (c : Nat) (m : MbMsg) : (setMbox s c m).phys = s.phys := rfl
@[simp] theorem setMbox_cqs (s : State) (c : Nat) (m : MbMsg) : (setMbox s c m).cqs = s.cqs := rfl
@[simp] theorem setMbox_qcs (s : State) (c : Nat) (m : MbMsg) : (setMbox s c m).qcs = s.qcs := rfl
@[simp] theorem setMbox_regions (s : State) (c : Nat) (m : MbMsg) : (setMbox s c m).regions = s.regions := rfl
@[simp] theorem setMbox_cvs (s : State) (c : Nat) (m : MbMsg) : (setMbox s c m).cvs = s.cvs := rfl
@[simp] theorem setMbox_taps (s : State) (c : Nat) (m : MbMsg) : (setMbox s c m).taps = s.taps := rfl
@[simp] theorem setMbox_iopins (s : State) (c : Nat) (m : MbMsg) : (setMbox s c m).iopins = s.iopins := rfl
@[simp] theorem setMbox_supply (s : State) (c : Nat) (m : MbMsg) : (setMbox s c m).supply = s.supply := rfl
@[simp] theorem setMbox_noc (s : State) (c : Nat) (m : MbMsg) : (setMbox s c m).noc = s.noc := rfl
@[simp] theorem setMbox_hbm (s : State) (c : Nat) (m : MbMsg) : (setMbox s c m).hbm = s.hbm := rfl
@[simp] theorem setMbox_fabric (s : State) (c : Nat) (m : MbMsg) : (setMbox s c m).fabric = s.fabric := rfl
@[simp] theorem setMbox_twin (s : State) (c : Nat) (m : MbMsg) : (setMbox s c m).twin = s.twin := rfl
@[simp] theorem setMbox_ports (s : State) (c : Nat) (m : MbMsg) : (setMbox s c m).ports = s.ports := rfl
@[simp] theorem setMbox_moving (s : State) (c : Nat) (m : MbMsg) : (setMbox s c m).moving = s.moving := rfl
@[simp] theorem setMbox_sparing (s : State) (c : Nat) (m : MbMsg) : (setMbox s c m).sparing = s.sparing := rfl
@[simp] theorem setMbox_log (s : State) (c : Nat) (m : MbMsg) : (setMbox s c m).log = s.log := rfl
@[simp] theorem setMbox_pins (s : State) (c : Nat) (m : MbMsg) : (setMbox s c m).pins = s.pins := rfl
@[simp] theorem setMbox_bootStep (s : State) (c : Nat) (m : MbMsg) : (setMbox s c m).bootStep = s.bootStep := rfl
@[simp] theorem setMbox_failed (s : State) (c : Nat) (m : MbMsg) : (setMbox s c m).failed = s.failed := rfl
@[simp] theorem setMbox_ts (s : State) (c : Nat) (m : MbMsg) : (setMbox s c m).ts = s.ts := rfl
@[simp] theorem setMbox_beat (s : State) (c : Nat) (m : MbMsg) : (setMbox s c m).beat = s.beat := rfl
@[simp] theorem setMbox_imsic (s : State) (c : Nat) (m : MbMsg) : (setMbox s c m).imsic = s.imsic := rfl
@[simp] theorem setMbox_bar2 (s : State) (c : Nat) (m : MbMsg) : (setMbox s c m).bar2 = s.bar2 := rfl
@[simp] theorem setMbox_hot (s : State) (c : Nat) (m : MbMsg) : (setMbox s c m).hot = s.hot := rfl
@[simp] theorem setMbox_levelAt (s : State) (c : Nat) (m : MbMsg) : (setMbox s c m).levelAt = s.levelAt := rfl
@[simp] theorem setMbox_tripAt (s : State) (c : Nat) (m : MbMsg) : (setMbox s c m).tripAt = s.tripAt := rfl
@[simp] theorem setMbox_out (s : State) (c : Nat) (m : MbMsg) : (setMbox s c m).out = s.out := rfl
@[simp] theorem setMbox_linkOut (s : State) (c : Nat) (m : MbMsg) : (setMbox s c m).linkOut = s.linkOut := rfl
@[simp] theorem setMbox_dgrams (s : State) (c : Nat) (m : MbMsg) : (setMbox s c m).dgrams = s.dgrams := rfl
@[simp] theorem setMbox_pcieOut (s : State) (c : Nat) (m : MbMsg) : (setMbox s c m).pcieOut = s.pcieOut := rfl
@[simp] theorem setMbox_freeCtr (s : State) (c : Nat) (m : MbMsg) : (setMbox s c m).freeCtr = s.freeCtr := rfl
@[simp] theorem setMbox_pending (s : State) (c : Nat) (m : MbMsg) : (setMbox s c m).pending = s.pending := rfl

@[simp] theorem setRegionOp_part (s : State) (o : Option (Nat × Nat)) : (setRegionOp s o).part = s.part := rfl
@[simp] theorem setRegionOp_csr (s : State) (o : Option (Nat × Nat)) : (setRegionOp s o).csr = s.csr := rfl
@[simp] theorem setRegionOp_tiles (s : State) (o : Option (Nat × Nat)) : (setRegionOp s o).tiles = s.tiles := rfl
@[simp] theorem setRegionOp_phys (s : State) (o : Option (Nat × Nat)) : (setRegionOp s o).phys = s.phys := rfl
@[simp] theorem setRegionOp_cqs (s : State) (o : Option (Nat × Nat)) : (setRegionOp s o).cqs = s.cqs := rfl
@[simp] theorem setRegionOp_qcs (s : State) (o : Option (Nat × Nat)) : (setRegionOp s o).qcs = s.qcs := rfl
@[simp] theorem setRegionOp_regions (s : State) (o : Option (Nat × Nat)) : (setRegionOp s o).regions = s.regions := rfl
@[simp] theorem setRegionOp_cvs (s : State) (o : Option (Nat × Nat)) : (setRegionOp s o).cvs = s.cvs := rfl
@[simp] theorem setRegionOp_taps (s : State) (o : Option (Nat × Nat)) : (setRegionOp s o).taps = s.taps := rfl
@[simp] theorem setRegionOp_iopins (s : State) (o : Option (Nat × Nat)) : (setRegionOp s o).iopins = s.iopins := rfl
@[simp] theorem setRegionOp_supply (s : State) (o : Option (Nat × Nat)) : (setRegionOp s o).supply = s.supply := rfl
@[simp] theorem setRegionOp_noc (s : State) (o : Option (Nat × Nat)) : (setRegionOp s o).noc = s.noc := rfl
@[simp] theorem setRegionOp_hbm (s : State) (o : Option (Nat × Nat)) : (setRegionOp s o).hbm = s.hbm := rfl
@[simp] theorem setRegionOp_fabric (s : State) (o : Option (Nat × Nat)) : (setRegionOp s o).fabric = s.fabric := rfl
@[simp] theorem setRegionOp_twin (s : State) (o : Option (Nat × Nat)) : (setRegionOp s o).twin = s.twin := rfl
@[simp] theorem setRegionOp_ports (s : State) (o : Option (Nat × Nat)) : (setRegionOp s o).ports = s.ports := rfl
@[simp] theorem setRegionOp_moving (s : State) (o : Option (Nat × Nat)) : (setRegionOp s o).moving = s.moving := rfl
@[simp] theorem setRegionOp_sparing (s : State) (o : Option (Nat × Nat)) : (setRegionOp s o).sparing = s.sparing := rfl
@[simp] theorem setRegionOp_log (s : State) (o : Option (Nat × Nat)) : (setRegionOp s o).log = s.log := rfl
@[simp] theorem setRegionOp_pins (s : State) (o : Option (Nat × Nat)) : (setRegionOp s o).pins = s.pins := rfl
@[simp] theorem setRegionOp_bootStep (s : State) (o : Option (Nat × Nat)) : (setRegionOp s o).bootStep = s.bootStep := rfl
@[simp] theorem setRegionOp_failed (s : State) (o : Option (Nat × Nat)) : (setRegionOp s o).failed = s.failed := rfl
@[simp] theorem setRegionOp_ts (s : State) (o : Option (Nat × Nat)) : (setRegionOp s o).ts = s.ts := rfl
@[simp] theorem setRegionOp_beat (s : State) (o : Option (Nat × Nat)) : (setRegionOp s o).beat = s.beat := rfl
@[simp] theorem setRegionOp_imsic (s : State) (o : Option (Nat × Nat)) : (setRegionOp s o).imsic = s.imsic := rfl
@[simp] theorem setRegionOp_bar2 (s : State) (o : Option (Nat × Nat)) : (setRegionOp s o).bar2 = s.bar2 := rfl
@[simp] theorem setRegionOp_hot (s : State) (o : Option (Nat × Nat)) : (setRegionOp s o).hot = s.hot := rfl
@[simp] theorem setRegionOp_levelAt (s : State) (o : Option (Nat × Nat)) : (setRegionOp s o).levelAt = s.levelAt := rfl
@[simp] theorem setRegionOp_tripAt (s : State) (o : Option (Nat × Nat)) : (setRegionOp s o).tripAt = s.tripAt := rfl
@[simp] theorem setRegionOp_out (s : State) (o : Option (Nat × Nat)) : (setRegionOp s o).out = s.out := rfl
@[simp] theorem setRegionOp_linkOut (s : State) (o : Option (Nat × Nat)) : (setRegionOp s o).linkOut = s.linkOut := rfl
@[simp] theorem setRegionOp_dgrams (s : State) (o : Option (Nat × Nat)) : (setRegionOp s o).dgrams = s.dgrams := rfl
@[simp] theorem setRegionOp_pcieOut (s : State) (o : Option (Nat × Nat)) : (setRegionOp s o).pcieOut = s.pcieOut := rfl
@[simp] theorem setRegionOp_freeCtr (s : State) (o : Option (Nat × Nat)) : (setRegionOp s o).freeCtr = s.freeCtr := rfl
@[simp] theorem setRegionOp_pending (s : State) (o : Option (Nat × Nat)) : (setRegionOp s o).pending = s.pending := rfl

/-! ### Reading back what was stored -/

@[simp] theorem setHbm_hbm (s : State) (h : Hbm) : (setHbm s h).hbm = h := rfl
@[simp] theorem setFab_fabric (s : State) (f : Fabric) : (setFab s f).fabric = f := rfl
@[simp] theorem setTwin_twin (s : State) (t : Twin) : (setTwin s t).twin = t := rfl
@[simp] theorem setRegionOp_regionOp (s : State) (o : Option (Nat × Nat)) : (setRegionOp s o).mgmt.regionOp = o := rfl
@[simp] theorem getRegion_setRegion_same (s : State) (r : RegionId) (x : Region) : getRegion (setRegion s r x) r = x := by
  simp [getRegion, setRegion]
@[simp] theorem getCv_setCv_same (s : State) (u : CvId) (x : CvUnit) : getCv (setCv s u x) u = x := by simp [getCv, setCv]
@[simp] theorem getPort_setPort_same (s : State) (p : PortId) (x : Port) : getPort (setPort s p x) p = x := by simp [getPort, setPort]
@[simp] theorem getPin_setPin_same (s : State) (d : Fin 4) (p : Nat) (x : IoPin) : getPin (setPin s d p x) d p = x := by simp [getPin, setPin]
@[simp] theorem getPc_setPc_same (s : State) (d ch pc : Nat) (x : PcState) : getPc (setPc s d ch pc x) d ch pc = x := by
  simp [getPc, setPc, setHbm]
@[simp] theorem portQueue_setPortQueue_same (s : State) (d ep : Nat) (l : List HReq) : portQueue (setPortQueue s d ep l) d ep = l := by
  simp [portQueue, setPortQueue, setHbm]
@[simp] theorem getQc_putQc_same (s : State) (d : Fin 4) (q : Nat) (x : QCtl) : getQc (putQc s d q x) d q = x := by
  rw [getQc, putQc_field State.qcs (fun _ _ _ => rfl)]; exact mget_mset_same _ _ _ _

end Sys2Proof.Machine
end

