-- ==== Sys2Proof/Laws/Kernel.lean ====
section
/-! SUPPORT. What the shared operation that runs one kernel instruction does, by what the instruction answers. -/

namespace Sys2Proof.Machine
open Sys2Proof

theorem kAdvance_tile (s : State) (t : TileId) (k : Kernel) (pc : Nat) (h : pc < k.len) :
    kAdvance s t k pc = modTile s t (fun x => { x with kernel := some { k with pc := pc } }) := by
  unfold kAdvance
  have : ¬ k.len ≤ pc := by omega
  simp [this]

/-- The other tiles and every other field are as before, and the tile is what was stored last. -/
theorem kAdvance_spec (s : State) (t : TileId) (k : Kernel) (y : Tile) (pc : Nat) (h : pc < k.len) :
    let u := kAdvance (setTile s t y) t k pc
    getTile u t = { y with kernel := some { k with pc := pc } } ∧ (∀ v, v ≠ t → getTile u v = getTile s v) ∧
      u = { s with tiles := u.tiles } := by
  intro u
  have e : u = modTile (setTile s t y) t (fun x => { x with kernel := some { k with pc := pc } }) := kAdvance_tile _ _ _ _ h
  refine ⟨?_, ?_, ?_⟩
  · rw [e, modTile_eq]; simp
  · intro v hv
    rw [e, modTile_eq, getTile_setTile_ne _ _ hv, getTile_setTile_ne _ _ hv]
  · rw [e]; rfl

/-- An instruction that answers a new tile and clears no mark retires: the tile is that one with the kernel moved on by
one and its flags raised. -/
theorem kRun_done {s : State} {t : TileId} {k : Kernel} {op : Nat} {f : Tile → Kernel → Word → KOut} {y : Tile} {fl : Nat}
    (hk : (getTile s t).kernel = some k) (hw : kWordBad (getTile s t) k = false) (he : k.ending = none)
    (ho : bits (kWord (getTile s t) k k.pc) 63 56 = op) (hf : f (getTile s t) k (kWord (getTile s t) k k.pc) = .done y fl 0)
    (hl : k.pc + 1 < k.len) :
    getTile (kRun s t op false f) t = { y with kernel := some { k with flags := k.flags ||| fl, pc := k.pc + 1 } } ∧
      (∀ v, v ≠ t → getTile (kRun s t op false f) v = getTile s v) ∧ kRun s t op false f = { s with tiles := (kRun s t op false f).tiles } := by
  have hn : ¬ k.len ≤ k.pc := by omega
  have : kRun s t op false f = kAdvance (setTile s t y) t { k with flags := k.flags ||| fl } (k.pc + 1) := by
    unfold kRun
    simp only [hk]
    simp [he, hn, ho, hw, hf]
  rw [this]
  exact kAdvance_spec s t { k with flags := k.flags ||| fl } y (k.pc + 1) hl

/-- A branch retires at its target. -/
theorem kRun_jump {s : State} {t : TileId} {k : Kernel} {op : Nat} {f : Tile → Kernel → Word → KOut} {y : Tile} {pc : Nat}
    (hk : (getTile s t).kernel = some k) (hw : kWordBad (getTile s t) k = false) (he : k.ending = none) (hp : k.pc < k.len)
    (ho : bits (kWord (getTile s t) k k.pc) 63 56 = op) (hf : f (getTile s t) k (kWord (getTile s t) k k.pc) = .jump y pc)
    (hl : pc < k.len) :
    getTile (kRun s t op false f) t = { y with kernel := some { k with pc := pc } } ∧
      (∀ v, v ≠ t → getTile (kRun s t op false f) v = getTile s v) ∧ kRun s t op false f = { s with tiles := (kRun s t op false f).tiles } := by
  have hn : ¬ k.len ≤ k.pc := by omega
  have : kRun s t op false f = kAdvance (setTile s t y) t k pc := by
    unfold kRun
    simp only [hk]
    simp [he, hn, ho, hw, hf]
  rw [this]
  exact kAdvance_spec s t k y pc hl

/-- An instruction that stops ends the kernel with the status. -/
theorem kRun_stop {s : State} {t : TileId} {k : Kernel} {op : Nat} {f : Tile → Kernel → Word → KOut} {e : Status}
    (hk : (getTile s t).kernel = some k) (hw : kWordBad (getTile s t) k = false) (he : k.ending = none) (hp : k.pc < k.len)
    (ho : bits (kWord (getTile s t) k k.pc) 63 56 = op) (hf : f (getTile s t) k (kWord (getTile s t) k k.pc) = .stop e) :
    kRun s t op false f = endKernel s t e := by
  have hn : ¬ k.len ≤ k.pc := by omega
  unfold kRun
  simp only [hk]
  simp [he, hn, ho, hw, hf]

/-- An instruction with a fault, or at a word that is uncorrectable, ends the kernel with TILE_FAULT (R160). -/
theorem kRun_fault {s : State} {t : TileId} {k : Kernel} {op : Nat} {fault : Bool} {f : Tile → Kernel → Word → KOut}
    (hk : (getTile s t).kernel = some k) (he : k.ending = none) (hp : k.pc < k.len)
    (ho : bits (kWord (getTile s t) k k.pc) 63 56 = op) (hf : fault = true ∨ kWordBad (getTile s t) k = true) :
    kRun s t op fault f = kernelFault s t k := by
  have hn : ¬ k.len ≤ k.pc := by omega
  unfold kRun
  rcases hf with hf | hf <;> simp [hk, he, hn, ho, hf]

end Sys2Proof.Machine
end

