-- ==== Sys2Proof/WellFormed.lean ====
section
/-! DEFINITION. Which commands a sender can form: the operands that the layouts of the spec can express. A command
that is not well-formed still has its meaning; nothing in the model rests on this check. -/

namespace Sys2Proof

/-- A packet of one of the opcodes, with at most `max` payload bytes; a read or a write names 1 to 256 (R300, R301). -/
def Packet.wf (p : Packet) (ops : List (BitVec 8)) (max : Nat) : Bool :=
  ops.contains p.op && p.data.length ≤ max && p.len ≤ max

/-- A packet that names 1 to 256 bytes, and carries them where `payload` is set (R300, R349). -/
def Packet.wfBytes (p : Packet) (op : BitVec 8) (payload : Bool) : Bool :=
  p.wf [op] 256 && 1 ≤ p.len && p.data.length == (if payload then p.len else 0)

/-- A response: its opcode has bit 7 set (R301). -/
def Packet.wfResponse (p : Packet) (req : BitVec 8) : Bool := p.wf [req ||| 0x80] 256

/-- The seven aspects of a block-memory port, by width (R249). -/
def BramAccess.wf (a : BramAccess) : Bool :=
  match a.width with
  | 1 => a.addr < 65536
  | 2 => a.addr < 32768
  | 4 => a.addr < 16384
  | 9 => a.addr < 8192
  | 18 => a.addr < 4096
  | 36 => a.addr < 2048
  | 72 => a.addr < 1024
  | _ => false

/-- An 8-byte word of a scratch window, of accumulator memory or of kernel memory at its window offset, or one of the
1,024 block memories of a die (R29, R111, R429). -/
def SramTarget.wf : SramTarget → Bool
  | .scratch _ o => o % 8 == 0 && o < 0x400000
  | .accum _ o => o % 8 == 0 && 0x400000 ≤ o && o < 0x700000
  | .kernelMem _ o => o % 8 == 0 && 0x100000 ≤ o && o < 0x110000
  | .blockMem n w => n < 1024 && w < 1024
  | .queueMem n e => n < 512 && e < 4096

/-- A request at the PCIe port: BAR0 or BAR2 from the board host, and as many bytes as it writes (R470). -/
def PcieRequest.wf (r : PcieRequest) : Bool :=
  (r.bar == 0 || r.bar == 2) && r.len ≤ 4096 && (!r.isWrite || r.data.length == r.len)

/-- What a sender can form of each command. -/
def Instr.wf : Instr → Bool
  | .csrWrite p | .write p => p.wfBytes 0x02 true
  | .read p => p.wfBytes 0x01 false
  | .readResp p => p.wfResponse 0x01
  | .writeAck p => p.wfResponse 0x02
  | .push p => p.wfBytes 0x10 true
  | .pushAck p => p.wfResponse 0x10
  | .credit p => p.wf [0x11] 0
  | .reserve p => p.wf [0x12] 0
  | .reserveAck p => p.wfResponse 0x12
  | .grant p => p.wf [0x13] 0
  | .endmark p => p.wf [0x15] 0
  | .signalPacket p => p.wf [0x20] 256
  | .signalAck p => p.wfResponse 0x20
  | .mirrorWr p _ => p.wfBytes 0x30 true
  | .mirrorAck p => p.wfResponse 0x30
  | .mgmt p => p.wf [0x60] 256
  | .fread p => p.wfBytes 0x40 false
  | .fwrite p => p.wfBytes 0x41 true
  | .fatomic p => p.wf [0x42] 64
  | .fcopy p => p.wf [0x43] 64
  | .fsignal p => p.wf [0x44] 64
  | .fpush p => p.wf [0x45] 256
  | .freserve p => p.wf [0x46] 256
  | .fcredit p => p.wf [0x47] 256
  | .fgrant p => p.wf [0x48] 256
  | .fendmark p => p.wf [0x49] 256
  | .fabricResponse p => p.wf [0xC0, 0xC1, 0xC2, 0xC3, 0xC4, 0xC5, 0xC6, 0xC7, 0xC8, 0xC9] 256
  | .endpointRequest _ w _ _ len _ d _ => 1 ≤ len && len ≤ 256 && d.length == (if w then len else 0)
  | .bramAccess _ _ _ a _ => a.wf
  | .twinSync (some x) => x.2.1.length ≤ 65536
  | .twinLinkActive i => i.table.length ≤ 192
  | .mirrorChangeApply (some c) => c.op == 1 || c.op == 2
  | .cdrLockLoss ls => !ls.isEmpty
  | .linkFlit _ m p _ => m.length == 514 && p.length == 30
  | .capabilityRecord _ r => r.version == 1
  | .transitPacket _ _ age _ _ p => age ≤ 4095 && p.data.length ≤ 256
  | .routerHop _ _ p => p.data.length ≤ 256
  | .sramScrub _ t _ => t.wf
  | .dictRead _ es | .describe _ es => 1 ≤ es.length && es.length ≤ 64
  | .dictWrite _ es => 1 ≤ es.length && es.length ≤ 64
  | .thaunoFragment _ _ d => 32 ≤ d.length && d.length ≤ 1232
  | .sessionOpen _ _ _ x k n => x.length == 32 && k.length == 1184 && n.length == 32
  | .prove _ e m _ => e.length == 64 && m.length == 3309
  | .ownerKeyWrite m k => k.length == 0 || k.length == (if m then 1952 else 32)
  | .manifest _ m => m.length == 5512
  | .nonce v => v.length ≤ 32
  | .updData _ d => d.length ≤ 16384
  | .pcieRequest r => r.wf
  | .irq .. | .fenceDone .. | .linkReplay .. | .ucieModule .. | .initiatorTimeout .. | .nocRtw .. | .swap ..
  | .routeSwapDone .. | .nocRouteFail .. | .fenceDrain .. | .fenceAbandon .. | .unfence .. | .tpDb ..
  | .tpGdb .. | .tpSqWrite .. | .launchFetch .. | .sstart .. | .swait .. | .srel .. | .swrt .. | .scan ..
  | .pass .. | .passStart .. | .passCycle .. | .passAbortReport .. | .xwait .. | .kernelLaunch ..
  | .kernelEnd .. | .sli .. | .saddi .. | .bnzd .. | .br .. | .sld .. | .sst .. | .vld .. | .vst .. | .vcvt ..
  | .vscl .. | .vtag .. | .viota .. | .vadd .. | .vsub .. | .vmul .. | .vneg .. | .vabs .. | .vcmp ..
  | .vsel .. | .vrot .. | .vand .. | .vor .. | .vxor .. | .vshl .. | .vshr .. | .mlog .. | .vmin .. | .vmax ..
  | .vrmin .. | .vrmax .. | .vpoly .. | .vcrc .. | .vmsum .. | .fadd .. | .fsub .. | .fmul .. | .ffma ..
  | .fdiv .. | .fsqrt .. | .fcvt .. | .fcmp .. | .fmin .. | .fmax .. | .fminnum .. | .fmaxnum .. | .lclr ..
  | .ldot .. | .lsum .. | .lssq .. | .lsabs .. | .lrnd .. | .lsave .. | .ladd .. | .kernelLimit ..
  | .kernelAbortReport .. | .kernelMemoryApply .. | .mtAccsetWrite .. | .mtAccsetApply .. | .abortUnit ..
  | .abortLaunch .. | .tpEnd .. | .signal .. | .wait .. | .chkpt .. | .hint .. | .waitLimit ..
  | .launchCommit .. | .completionRecordHead .. | .tpCqdWrite .. | .tpCqhWrite .. | .preempt .. | .suspend ..
  | .programResume .. | .programRestart .. | .powerDomainOff .. | .powerDomainWake .. | .streamRequestIssue ..
  | .seta .. | .setah .. | .sett .. | .adda .. | .seFor .. | .seNext .. | .move .. | .gather .. | .flush ..
  | .streamFence .. | .streamEnd .. | .streamResponse .. | .seCancel .. | .streamCancelReport .. | .seClear ..
  | .stall .. | .qcWrite .. | .qcRead .. | .qcEnable .. | .qcDisable .. | .qcPush .. | .pushwait ..
  | .lrPllWrite .. | .pllLock .. | .locklost .. | .clockSelect .. | .clockSwitchDone .. | .forced ..
  | .clockDivide .. | .clockEnable .. | .clockDisable .. | .overspeed .. | .ioBank .. | .ioBankLock ..
  | .ioDelayStep .. | .cfgBegin .. | .cfgFetch .. | .cfgCommit .. | .commitReadbackDone .. | .cfgRelease ..
  | .cfgHalt .. | .cfgResume .. | .cfgClear .. | .cfgClearDone .. | .cfgFetchDone .. | .cfgFrame ..
  | .loadPortWrite .. | .cfgScrubRead .. | .amberN .. | .freeze .. | .freezeMessage .. | .thaw .. | .readout
  | .hbmAccept .. | .hbmAdmit .. | .hbmCommandSlot .. | .refresh .. | .refreshManagement .. | .sentinelRead ..
  | .patrolScrub .. | .hbmCheck .. | .checkWindow .. | .recheckDue .. | .hbmRepair .. | .hbmDlydat ..
  | .apply .. | .applyAtRefresh .. | .trained .. | .zero .. | .zeroDone .. | .lock | .admitWait ..
  | .fabricRetry .. | .fabricTimeout .. | .holdLimit .. | .recordExpiry .. | .tokenGain | .fxCqdb ..
  | .descriptor .. | .heartbeatSend | .heartbeat .. | .heartbeatLoss | .failNotice | .leaseSend | .lease ..
  | .leaseResponse .. | .leaseTimeout | .yield .. | .yieldComplete | .cutoverStart | .cutover .. | .restore ..
  | .mirrorAdd | .mirrorRemove | .mirrorSyncDone .. | .devnum .. | .portBringUp .. | .portTakeDown ..
  | .portRetrain .. | .portTest .. | .portStageComplete .. | .stageTimeout .. | .slip .. | .replayTimeout ..
  | .readyTimeout .. | .laneErrorWindow .. | .uplinkRoute .. | .cvFeed .. | .cvClear .. | .cvBlockDone ..
  | .cvCompare .. | .cvGo .. | .cvRunDone .. | .cvTwinChunk .. | .tileMoveFault .. | .tileMoveRotate ..
  | .tileMoved .. | .clusterSpared .. | .telemetrySample .. | .beat | .watchdogExpiry | .lockstepMismatch
  | .routerFault .. | .sessionClose .. | .subscribe .. | .eventAck .. | .eventResend .. | .sessionTimeout ..
  | .reassemblyTimeout .. | .flashWriteDone | .policyApply .. | .mbGo .. | .regionLoad | .regionClear
  | .regionHalt | .regionResume | .updCommit .. | .updAbort .. | .updReset | .report | .stbyGood
  | .pwrGoodRise .. | .bootStage .. | .fabricReady | .recoveryFetch .. | .recoveryRetry | .pwrGoodFall | .rstN
  | .railFault .. | .refclkLoss .. | .currentSample .. | .temperatureLimit .. | .powerCapUpdate .. | .msix ..
  | .pcieLinkDown | .markerLock .. | .cdrLock .. | .prbsLock .. | .contextReuse .. | .clusterSpareDone ..
  | .hbmRepairDone .. | .neighborSolicitation .. | .pcieLinkUp .. | .stbyGoodFall | .ucieLaneRepair ..
  | .controlCompareMismatch .. | .shaleCompareMismatch .. | .twinSync none | .mirrorChangeApply none => true

end Sys2Proof
end

