-- ==== Sys2Proof/Tests/Slice0.lean ====
section
/-! SUPPORT. The package's own tests: ill-formed commands refused by name, witnesses that meet the hypotheses of
each statement, and the worked examples of the spec. -/

namespace Sys2Proof.Tests
set_option Elab.async false
open Sys2Proof Sys2Proof.Machine

/-! ### States that the witnesses share -/

/-- C0:V0. -/
def vt0 : TileId := ⟨0, 64⟩
/-- C0:M0. -/
def mt0 : TileId := ⟨0, 0⟩
/-- A kernel of four words whose only output range is the first 4 KiB of scratch. -/
def kern : Kernel :=
  { seq := 1, q := 0, tpc := 0, hofs := 0, len := 4, cyclim := 1, strict := false, lamask := 1, out0b := 0, out0l := 4096, out1b := 0, out1l := 0 }
/-- A word of an opcode with its other fields. -/
def wordOf (op f : Nat) : Word := BitVec.ofNat 64 (op * 2 ^ 56 + f)
/-- A tile that runs `kern` with a word first. -/
def kTile (x : Tile) (w : Word) : Tile := tStore { x with kernel := some kern } (kmBase + 32) (leBytes 8 w.toNat)
/-- C0:V0 runs `kern` with a word first, on a device after reset. -/
def kState (x : Tile) (w : Word) : State := setTile State.reset vt0 (kTile x w)
/-- Registers v0-v3 of one kind. -/
def kinds (n : Nat) : Tile := (List.range 4).foldl (fun x v => setVtag x v n 0) {}
/-- The word stands at the program counter of `kern`, another follows it, and its opcode is `op`. -/
def atWord (x : Tile) (op f : Nat) : Bool :=
  let s := kState x (wordOf op f)
  running s && (getTile s vt0).kernel == some kern && kern.ending == none && decide (kern.pc < kern.len) &&
    kWord (getTile s vt0) kern kern.pc == wordOf op f && !kWordBad (getTile s vt0) kern && bits (wordOf op f) 63 56 == op &&
    decide (kern.pc + 1 < kern.len)
theorem atWord_says {x : Tile} {op f : Nat} (h : atWord x op f = true) :
    NextWord (kState x (wordOf op f)) vt0 kern (wordOf op f) ∧ bits (wordOf op f) 63 56 = op ∧ kern.pc + 1 < kern.len := by
  simpa [atWord, NextWord, and_assoc] using h

/-! ### What a sender can form: one ill-formed command for each check -/

/-- A codeword of zeros, and flits of no slots. -/
def zeroCode : List (BitVec 10) := List.replicate 544 0
def zeroFlit : LinkFlit :=
  { slot0 := ⟨0, 0, 0, List.replicate 64 0⟩, slot1 := ⟨0, 0, 0, List.replicate 64 0⟩, seq := 0, ackSeq := 0, ackV := false, nak := false,
    limits := List.replicate 8 0, ready := false, amber := false, amberPair := false, amberHops := 0 }
def bram (width addr : Nat) : BramAccess := { width, addr, en := true, we := 0, din := 0, wmode := 0, clash := [] }

theorem test_wf_packets : (Instr.read { op := 0x01, len := 256 }).wf = true ∧ (Instr.read { op := 0x01, len := 257 }).wf = false ∧
    (Instr.read { op := 0x01, len := 0 }).wf = false ∧ (Instr.read { op := 0x02, len := 8 }).wf = false ∧
    (Instr.write { op := 0x02, len := 2, data := [1] }).wf = false ∧ (Instr.readResp { op := 0x01 }).wf = false ∧
    (Instr.credit { op := 0x11, len := 1 }).wf = false ∧ (Instr.fabricResponse { op := 0x81 }).wf = false := by decide
theorem test_wf_ports : (Instr.bramAccess ⟨0, 0⟩ 0 false (bram 9 8191) .good).wf = true ∧
    (Instr.bramAccess ⟨0, 0⟩ 0 false (bram 9 8192) .good).wf = false ∧ (Instr.bramAccess ⟨0, 0⟩ 0 false (bram 8 0) .good).wf = false ∧
    (Instr.endpointRequest ⟨0, 0⟩ true false 0 4 0 [1] 0).wf = false ∧
    (Instr.pcieRequest { fromBoard := true, bar := 1, isWrite := false, offset := 0, len := 4, data := [], iommu := none }).wf = false ∧
    (Instr.sramScrub 0 (.scratch mt0 0x400000) .good).wf = false ∧ (Instr.sramScrub 0 (.accum mt0 0x400004) .good).wf = false ∧
    (Instr.sramScrub 0 (.kernelMem vt0 0x110000) .good).wf = false ∧ (Instr.sramScrub 0 (.blockMem 1024 0) .good).wf = false ∧
    (Instr.sramScrub 0 (.queueMem 512 0) .good).wf = false := by decide
theorem test_wf_links : (Instr.linkFlit ⟨0, 0⟩ (zeroCode.take 514) (zeroCode.drop 514) 0).wf = true ∧
    (Instr.linkFlit ⟨0, 0⟩ [] [] 0).wf = false ∧ (Instr.mgmt { op := 0x60, len := 257 }).wf = false ∧ (Instr.cdrLockLoss []).wf = false ∧
    (Instr.transitPacket none 0 4096 false 0 { op := 0x01 }).wf = false ∧
    (Instr.mirrorChangeApply (some { op := 3, owner := 0, base := 0, len := 0, here := false, result := 0 })).wf = false := by decide +kernel
theorem test_wf_dictionary : (Instr.dictRead .bare []).wf = false ∧ (Instr.dictWrite .bare (List.replicate 65 (⟨0x1000, 1⟩, []))).wf = false ∧
    (Instr.nonce (List.replicate 33 0)).wf = false ∧ (Instr.manifest true []).wf = false ∧ (Instr.ownerKeyWrite false [1]).wf = false ∧
    (Instr.ownerKeyWrite false []).wf = true ∧
    (Instr.sessionOpen 0 0 0 [] [] []).wf = false ∧ (Instr.prove 1 [] [] false).wf = false ∧ (Instr.thaunoFragment 0 0 []).wf = false := by decide +kernel

/-! ### Witnesses: kernels -/

theorem witness_ScalarInstructionsRetire :
    atWord {} 0x01 0 ∧ atWord {} 0x02 0 ∧ (atWord (setSreg {} 1 2) 0x03 (2 ^ 52 + 3) ∧ sreg (kTile (setSreg {} 1 2) (wordOf 0x03 (2 ^ 52 + 3))) 1 ≠ 1) ∧
    (atWord (setSreg {} 1 1) 0x03 (2 ^ 52) ∧ sreg (kTile (setSreg {} 1 1) (wordOf 0x03 (2 ^ 52))) 1 = 1) ∧ atWord {} 0x04 3 ∧
    (atWord {} 0x05 (2 ^ 52 + 0xFFFF8) ∧ readStop (kTile {} (wordOf 0x05 0xFFFF8)) 0xFFFF8 8 = 0) ∧
    (atWord {} 0x06 (2 ^ 52 + 4088) ∧ writeStop kern 4088 8 = 0) := by decide +kernel

theorem witness_LaneMovesRetire :
    atWord {} 0x14 (2 ^ 50 + 5) ∧ atWord {} 0x15 0 ∧ atWord {} 0x27 127 ∧ atWord {} 0x28 0 ∧ atWord {} 0x29 0 ∧ atWord {} 0x2A 0 ∧
    atWord {} 0x2B 63 ∧ atWord {} 0x2C 63 ∧ atWord {} 0x26 0 := by decide +kernel

theorem witness_IntegerLanesRetire :
    (vtag (kTile (kinds 1) 0) 0).kind = 1 ∧
    atWord (kinds 1) 0x20 0 ∧ atWord (kinds 1) 0x21 0 ∧ atWord (kinds 1) 0x30 0 ∧ atWord (kinds 1) 0x31 0 ∧ atWord (kinds 1) 0x22 63 ∧
    atWord (kinds 1) 0x23 0 ∧ atWord (kinds 1) 0x24 0 ∧
    (atWord (setSreg (kinds 1) 1 32767) 0x13 (2 ^ 38) ∧ sInt (kTile (setSreg (kinds 1) 1 32767) (wordOf 0x13 (2 ^ 38))) 1 = 32767) := by decide +kernel

theorem witness_MasksAndReductionsRetire :
    (vtag (kTile (kinds 1) 0) 0).kind = 1 ∧ (vtag (kTile (kinds 5) 0) 0).kind = 4 + fFmt (wordOf 0x67 0) ∧
    atWord (kinds 1) 0x25 5 ∧ atWord (kinds 5) 0x67 0 ∧ atWord {} 0x2D 3 ∧ atWord {} 0x51 0 ∧
    (atWord {} 0x50 16 ∧ readStop (kTile {} (wordOf 0x50 16)) 0 16 = 0) ∧ atWord (kinds 1) 0x32 0 ∧ atWord (kinds 1) 0x33 1 := by decide +kernel

theorem witness_FloatLanesRetire :
    (vtag (kTile (kinds 5) 0) 0).kind = 4 + 1 ∧ (vtag (kTile (kinds 6) 0) 0).kind = 4 + 2 ∧
    (∀ op ∈ [0x60, 0x61, 0x62, 0x63, 0x64, 0x65, 0x68, 0x69, 0x6A, 0x6B], atWord (kinds 5) op 0 ∧ atWord (kinds 6) op 1) ∧
    (vtag (kTile (kinds 4) 0) 0).kind = 4 + bits (wordOf 0x66 8) 2 1 ∧ atWord (kinds 4) 0x66 8 := by decide +kernel

/-- VectorWritesFillMask: lane 3 is on in the mask and lane 4 is off; registers 2 and 5 differ, and so do s0, s1 and s2. -/
theorem witness_VectorWritesFillMask :
    (8 : BitVec 128).getLsbD 3 = true ∧ (8 : BitVec 128).getLsbD 4 = false ∧ (5 : Nat) ≠ 2 ∧
    lane (writeVec {} 2 8 (fun _ => 7) 1 0) 2 3 = 7 ∧ lane (writeVec {} 2 8 (fun _ => 7) 1 0) 2 4 = 0 ∧
    sreg (setSreg {} 1 9) 1 = 9 ∧ sreg (setSreg {} 1 9) 2 = 0 ∧ sreg (setSreg {} 0 9) 0 = 0 := by decide +kernel
/-- A header of a polynomial table with one segment of degree 1 at the window address 0. -/
def polyTile : Tile := tStore (kinds 1) 16 [1]

theorem witness_VectorMemoryRetires :
    (atWord {} 0x10 0 ∧ readStop (kTile {} (wordOf 0x10 0)) 0 (planeBytes 0 128) = 0 ∧ readStop (kTile {} (wordOf 0x10 0)) 0 (scaleBytes 0 128) = 0) ∧
    (atWord {} 0x10 (3 * 2 ^ 46) ∧ sInt (kTile {} (wordOf 0x10 (3 * 2 ^ 46))) 0 ≤ 32767) ∧
    (atWord {} 0x11 (8 * 2 ^ 46) ∧ (vstData (kTile {} (wordOf 0x11 (8 * 2 ^ 46))) false 0 8 0).isSome = true ∧ writeStop kern 0 1024 = 0) ∧
    (atWord (kinds 1) 0x11 (2 ^ 46) ∧ ((vstData (kTile (kinds 1) (wordOf 0x11 (2 ^ 46))) false 0 1 0).map (fun d => d.1.length)) = some 128 ∧ writeStop kern 0 128 = 0) ∧
    (atWord {} 0x12 (7 * 2 ^ 52 + 2 ^ 48) ∧ readStop (kTile {} (wordOf 0x12 (7 * 2 ^ 52 + 2 ^ 48))) 0 (elemBytes 7 1) = 0 ∧
      (let x := kTile {} (wordOf 0x12 (7 * 2 ^ 52 + 2 ^ 48))
       let r := putElems 1 false 0 0 ((List.range 1).map (srcAt (memByte x.mem) 7 0 0 0))
       r.1.length = 32 ∧ writeStop kern 0 r.1.length = 0 ∧ r.2.1.length = 1 ∧ writeStop kern 0 r.2.1.length = 0)) ∧
    (atWord polyTile 0x40 0 ∧ polyBad (polyTab (kTile polyTile (wordOf 0x40 0)) 0) = false ∧ readStop (kTile polyTile (wordOf 0x40 0)) 0 64 = 0 ∧
      readStop (kTile polyTile (wordOf 0x40 0)) 64 16 = 0 ∧ (vtag (kTile polyTile 0) 0).kind = 1) := by decide +kernel

theorem witness_LongAccumulatorsRetire :
    laInvalid (kState {} (wordOf 0x71 0)) vt0 7 = false ∧ readStop (kTile {} (wordOf 0x71 0)) 0 4 = 0 ∧ writeStop kern 0 576 = 0 ∧
    readStop (kTile {} (wordOf 0x77 0)) 0 576 = 0 ∧ (∀ op ∈ [0x70, 0x71, 0x72, 0x73, 0x74, 0x75, 0x76, 0x77], atWord {} op 0) := by decide +kernel

theorem witness_KernelInstructionStops :
    (atWord {} 0x20 0 ∧ (vtag (kTile {} 0) 0).kind ≠ 1) ∧ (atWord {} 0x60 0 ∧ (vtag (kTile {} 0) 0).kind ≠ 4 + fFmt (wordOf 0x60 0)) ∧
    (atWord {} 0x05 0xFFFFC ∧ readStop (kTile {} (wordOf 0x05 0xFFFFC)) (sAddr (kTile {} (wordOf 0x05 0xFFFFC)) 0 0xFFFFC 1) 8 = stKernelFault) ∧
    (atWord {} 0x06 4092 ∧ writeStop kern (sAddr (kTile {} 0) 0 4092 1) 8 = stKernelFault) ∧
    (∀ op ∈ [0x11, 0x12, 0x71, 0x77], atWord {} op 0) ∧
    (kWord (getTile (setFlag (kState {} (wordOf 0x75 0)) (stAt vt0) 48 true) vt0) kern 0 = wordOf 0x75 0 ∧
      laInvalid (setFlag (kState {} (wordOf 0x75 0)) (stAt vt0) 48 true) vt0 (fLA (wordOf 0x75 0)) = true) ∧
    (∀ e ∈ kernelOps vt0 false, let x : Tile := { kTile {} (wordOf e.1 0) with accUe := [((kmBase + 32) / 8, true)] }
      x.kernel = some kern ∧ bits (kWord x kern kern.pc) 63 56 = e.1 ∧ kWordBad x kern = true) := by decide +kernel

/-! ### Witnesses: passes, launches, tile programs -/

/-- The HBM map is locked, channel 0 of C0 is trained, and words stand at HBM address 0. -/
def hbmWith (s : State) (ws : List Word) : State :=
  hbmPut (setFlag (setFlag s hbmMap 63 true) (hbmChAt 0 0) 63 true) 0 (ws.flatMap (fun w => leBytes 8 w.toNat)) (fun _ => false)
/-- A launch whose program stands at HBM address 0. -/
def launch : Launch := { lrec := { format := 1, plen := 16, prog := 0, waitlim := 1 }, pos := 0, tStart := 0, pc := 0 }
/-- Tile t, otherwise x, runs `l` in queue 0 with a program of the words ws. -/
def progState (s : State) (t : TileId) (x : Tile) (l : Launch) (ws : List Word) : State :=
  setTile (hbmWith s ws) t { x with run := mset none [] 0 (some l) }
/-- The program may issue, and its next instruction is ws with the opcode op. -/
def atProg (s : State) (t : TileId) (x : Tile) (l : Launch) (op : Nat) (ws : List Word) : Bool :=
  let u := progState s t x l ws
  running u && getRun (getTile u t) 0 == some l && canIssue l && !tpBusy u t l && (tpFetch u t 0 l).2 == some ws && bits (ws.headD 0) 63 56 == op
/-- The state after its fetch. -/
def fetched (s : State) (t : TileId) (x : Tile) (l : Launch) (ws : List Word) : State := (tpFetch (progState s t x l ws) t 0 l).1
theorem atProg_says {s : State} {t : TileId} {x : Tile} {l : Launch} {op : Nat} {ws : List Word} (h : atProg s t x l op ws = true) :
    NextInstr (progState s t x l ws) t 0 op l ws (fetched s t x l ws) := by
  simp only [atProg, Bool.and_eq_true, Bool.not_eq_true', beq_iff_eq] at h
  exact ⟨h.1.1.1.1.1, h.1.1.1.1.2, h.1.1.1.2, h.1.1.2, Prod.ext rfl h.1.2, h.2⟩

/-- A PASS of one vector into row 0 of accumulator set 0, with no weights. -/
def passWords : List Word := [wordOf 0x21 (2 ^ 46), 0, 0, 0]
/-- Accumulator set 0 of C0:M0 is enabled with one row. -/
def accOn (s : State) : State := wr s (accAt mt0 0) (BitVec.ofNat 64 (2 ^ 63 + 2 ^ 26))
def mOn : Tile := { computeOn := true }
def readyPass : ReadyPass := { ins := parsePass passWords, q := 0, pc := 0, cycle := 0 }
def somePass : Pass := { seq := 7, ins := parsePass passWords, q := 0, pc := 0, start := 0, loadW := false, ending := some stTileFault }

theorem witness_PassLifeCompletes :
    (atProg State.reset mt0 mOn launch 0x21 passWords ∧ passVerdict (fetched State.reset mt0 mOn launch passWords) mt0 (parsePass passWords) ≠ 0 ∧
      (getTile (fetched State.reset mt0 mOn launch passWords) mt0).ready = none ∧ (getTile (fetched State.reset mt0 mOn launch passWords) mt0).preempted = false) ∧
    (atProg (accOn State.reset) mt0 mOn launch 0x21 passWords ∧
      let u := fetched (accOn State.reset) mt0 mOn launch passWords
      passVerdict u mt0 (parsePass passWords) = 0 ∧ passResident (getTile u mt0) (parsePass passWords) = true ∧ (getTile u mt0).computeOn = true ∧ tileOpen u mt0 = true) ∧
    (let u := setTile (accOn State.reset) mt0 { mOn with ready := some readyPass }
     (getTile u mt0).ready = some readyPass ∧ passInvalid u mt0 readyPass.ins (loadsW (getTile u mt0) readyPass.ins) = false ∧
       startCycle (getTile u mt0) readyPass ≤ (getTile u mt0).cycle) ∧
    (let u := setTile State.reset mt0 { mOn with ready := some readyPass }
     passInvalid u mt0 readyPass.ins (loadsW (getTile u mt0) readyPass.ins) = true) ∧
    startDue mOn = false ∧ (mOn.passes = [] ∧ mOn.ready = none) ∧
    (([somePass].find? (fun p => p.seq == 7)) = some somePass ∧ somePass.ending = some stTileFault ∧ somePass.nofold = false) ∧
    (0 < (parsePass passWords).m ∧ (parsePass passWords).k = 0) ∧
    startDue { mOn with ready := some readyPass } = true ∧
    (accsetNamed mOn 0 = false ∧ mOn.heldAcc.any (fun e => e.1 == 0) = false ∧ accsetBad State.reset mt0 0 (BitVec.ofNat 64 (2 ^ 63 + 2 ^ 26)) = false ∧ accsetBad State.reset mt0 0 0 = true ∧
      accsetBad State.reset mt0 0 (BitVec.ofNat 64 (2 ^ 63 + 4096 * 2 ^ 26)) = false ∧
      accsetBad State.reset mt0 0 (BitVec.ofNat 64 (2 ^ 63 + 2 ^ 39 + 4096 * 2 ^ 26)) = true) ∧
    accsetNamed { mOn with passes := [somePass] } 0 = true ∧
    ([((0 : Nat), (0 : Word), (none : Option Packet))].find? (fun e => e.1 == (0 : Fin 16).val) = some (0, 0, none)) ∧
    (let h : List (Nat × Word × Option Packet) := [(0, 0, some { op := 0x02 }), (1, 0, some { op := 0x02 })]
     h.find? (fun e => e.1 == 0) = some (0, 0, some { op := 0x02 }) ∧ (h.erase (0, 0, some { op := 0x02 })).any (fun e => e.2.2 == some { op := 0x02 }) = true ∧
     ((h.erase (1, 0, some { op := 0x02 })).erase (0, 0, some { op := 0x02 })).any (fun e => e.2.2 == some { op := 0x02 }) = false) := by decide +kernel

/-- A kernel header at the start of kernel memory: one word of code, one cycle unit, no output range. -/
def kmTile : Tile := tStore { computeOn := true } kmBase (leBytes 8 (2 ^ 43 + 2 ^ 30))
theorem witness_KernelLifeCompletes :
    (atProg State.reset vt0 kmTile launch 0x30 (wordOf 0x30 0 :: List.replicate 8 0) ∧
      let u := fetched State.reset vt0 kmTile launch (wordOf 0x30 0 :: List.replicate 8 0)
      kernelReady u (getTile u vt0) 0 0 = true ∧ (getTile u vt0).preempted = false ∧ tileOpen u vt0 = true) ∧
    atWord {} 0x00 0 ∧ isV vt0 = true ∧
    ({ (kTile {} 0) with kernel := some { kern with ending := some 4 } }).kernel = some { kern with ending := some 4 } ∧ kern.ending = none ∧
    (({ op := 0x02, addr := 0x100000 } : Packet).op = 0x02 ∧ ({ heldKm := [{ op := 0x02 }] } : Tile).kernel = none ∧
      ({ heldKm := [{ op := 0x01, addr := 0x100000, len := 8 }] } : Tile).heldKm = { op := 0x01, addr := 0x100000, len := 8 } :: []) := by decide +kernel

def runs (x : Tile) (q : Nat) (l : Launch) : Tile := { x with run := mset none x.run q (some l) }
/-- TP_SQ0 of C0:V0 is enabled with 16 records at HBM address 0. -/
def sqReady : State := wr (hbmWith State.reset (List.replicate 8 0)) (sqAt vt0 0) (BitVec.ofNat 64 (2 ^ 63 + 4 * 2 ^ 58))
theorem witness_LaunchQueuesComplete :
    (running sqReady = true ∧ sqOn sqReady vt0 0 = true ∧ sub32 (bits 16 31 0) (sqHead sqReady vt0 0) ≤ 2 ^ sqLog2 sqReady vt0 0) ∧
    (2 ^ sqLog2 sqReady vt0 0 < sub32 (bits 17 31 0) (sqHead sqReady vt0 0)) ∧ sqOn State.reset vt0 0 = false ∧
    (4 ≤ bits (BitVec.ofNat 64 (4 * 2 ^ 58)) 62 58 ∧ bits (BitVec.ofNat 64 (16 * 2 ^ 58)) 62 58 ≤ 16 ∧ sqHead sqReady vt0 0 = sqTail sqReady vt0 0) ∧
    (bits (BitVec.ofNat 64 (3 * 2 ^ 58)) 62 58 < 4 ∧ 16 < bits (BitVec.ofNat 64 (17 * 2 ^ 58)) 62 58) ∧
    (let u := setFld sqReady (dbAt vt0 0) 31 0 1
     mayFetch u vt0 0 = true ∧ seqBusy u vt0 0 (recAt u vt0 0 (sqHead u vt0 0)) 64 = false ∧ (seqRead u vt0 0 (recAt u vt0 0 (sqHead u vt0 0)) 8).2.isSome = true ∧
       seqBusy u vt0 0x10 (recAt u vt0 0 (sqHead u vt0 0)) 64 = false ∧ (seqRead u vt0 0x10 (recAt u vt0 0 (sqHead u vt0 0)) 8).2 = none) ∧
    (sqOn (setFld sqReady (dbAt vt0 0) 31 0 1) vt0 0 = true ∧ sqHead (setFld sqReady (dbAt vt0 0) 31 0 1) vt0 0 ≠ sqTail (setFld sqReady (dbAt vt0 0) 31 0 1) vt0 0) ∧
    (getRun (runs {} 0 { launch with ended := true }) 0 = some { launch with ended := true } ∧ canCommit { launch with ended := true } = true ∧
      cqRecs State.reset 0 0 = [] ∧
      cqRecs (setCqRecs State.reset 0 0 [{ slot := 0, q := 0, irq := false, words := [] }]) 0 0 ≠ []) := by decide +kernel

/-- Counter 0 of C0:V0 at a value. -/
def ctrIs (v : Nat) : State := setFld State.reset (ctrAt vt0 0) 31 0 v
theorem witness_ProgramSynchronisation :
    (atProg State.reset vt0 {} { launch with live := [{ kind := 3, seq := 1, ctx := 0, pc := 0 }] } 0x22 [wordOf 0x22 0]) ∧
    (atProg State.reset vt0 {} { launch with live := [{ kind := 1, seq := 1, ctx := 0, pc := 0 }] } 0x22 [wordOf 0x22 0]) ∧
    (atProg State.reset vt0 {} launch 0x3F [wordOf 0x3F 0] ∧ launch.live = []) ∧
    (atProg State.reset vt0 {} { launch with live := [{ kind := 4, seq := 1, ctx := 0, pc := 0 }] } 0x3F [wordOf 0x3F 0]) ∧
    (atProg (ctrIs 5) vt0 {} launch 0x41 [wordOf 0x41 5] ∧
      sub32 (fld (fetched (ctrIs 5) vt0 {} launch [wordOf 0x41 5]) (ctrAt vt0 0) 31 0) 5 < 2 ^ 31) ∧
    (atProg (ctrIs 5) vt0 {} launch 0x41 [wordOf 0x41 6] ∧
      2 ^ 31 ≤ sub32 (fld (fetched (ctrIs 5) vt0 {} launch [wordOf 0x41 6]) (ctrAt vt0 0) 31 0) 6) ∧
    (atProg State.reset vt0 {} launch 0x50 [wordOf 0x50 0] ∧ ∀ c ∈ queueCtxs 0, getStream {} c = none) ∧
    (atProg State.reset vt0 {} launch 0x60 [wordOf 0x60 (2 * 2 ^ 48)]) ∧
    (atProg State.reset vt0 {} launch 0x40 [wordOf 0x40 0, BitVec.ofNat 64 (0xFFFFF * 2 ^ 44)] ∧
      let u := fetched State.reset vt0 {} launch [wordOf 0x40 0, BitVec.ofNat 64 (0xFFFFF * 2 ^ 44)]
      (seqTag u (tileNode u vt0)).isSome = true ∧ bits (BitVec.ofNat 64 (0xFFFFF * 2 ^ 44)) 39 33 < 96) ∧
    (let ws := [wordOf 0x40 0, BitVec.ofNat 64 (0xFFFFF * 2 ^ 44 + 96 * 2 ^ 33)]
     atProg State.reset vt0 {} launch 0x40 ws ∧ peerDev (fetched State.reset vt0 {} launch ws) (ws.getD 1 0) = ownDev (fetched State.reset vt0 {} launch ws) ∧
       96 ≤ bits (ws.getD 1 0) 39 33 ∧ (seqTag (fetched State.reset vt0 {} launch ws) (tileNode State.reset vt0)).isSome = true) ∧
    (let l := { launch with live := [{ kind := 4, seq := 1, ctx := 0, pc := 0 }] }
     bit (wordOf 0x40 (2 ^ 55)) 55 = true ∧ atProg State.reset vt0 {} l 0x40 [wordOf 0x40 (2 ^ 55), 0] = true ∧ ∀ u ∈ l.live, u.kind = 4) ∧
    (getRun (runs {} 0 { launch with waiting := true }) 0 = some { launch with waiting := true } ∧ canIssue { launch with waiting := true } = true ∧
      canIssue launch = true ∧ ({ mOn with ready := some readyPass } : Tile).ready = some readyPass ∧ readyPass.q = (0 : Fin 2).val) := by decide +kernel

/-- A stream header: IN, automatic release off, one buffer of 64 bytes at the window address 0x1000, one program word. -/
def streamTile : Tile :=
  tStore (tStore (tStore {} 0 (leBytes 8 (2 ^ 58 + 2 ^ 35 + 0x40 * 2 ^ 18 + 1))) 8 (leBytes 8 (2 ^ 58 + 2 ^ 48))) 32 (leBytes 8 (0x3F * 2 ^ 56))
def str : Stream :=
  { seq := 3, q := 0, tpc := 0, kind := 0, release := 1, crc := 0, nbuf := 1, bufsz := 64, base := 0x1000, period := 1, outmax := 1, resv := 0, nblk := 0,
    crcaddr := 0, crcfab := false, peer := 0, prog := [] }
def withStream (st : Stream) : Tile := { streams := mset none [] 0 (some st) }
def fullBuf : Stream := { str with bufs := [{ entry := 0, gen := 0, state := 2, idx := 0, size := 64 }] }
def outBuf : Stream := { str with kind := 1, bufs := [{ entry := 0, gen := 0, state := 3, idx := 0, size := 64 }] }
theorem witness_ProgramStreamInstructions :
    (atProg State.reset vt0 streamTile launch 0x10 [wordOf 0x10 0] ∧
      let x := getTile (fetched State.reset vt0 streamTile launch [wordOf 0x10 0]) vt0
      (parseStream x true 0 0 0).map (fun st => (getStream x 0).isNone && decide (st.nbuf ≤ (freeList x).length) &&
        !ringTaken x st.base (st.nbuf * st.bufsz)) = some true) ∧
    (atProg State.reset vt0 {} launch 0x10 [wordOf 0x10 0] ∧
      parseStream (getTile (fetched State.reset vt0 {} launch [wordOf 0x10 0]) vt0) true 0 0 0 = none) ∧
    (atProg State.reset vt0 {} launch 0x11 [wordOf 0x11 0] ∧ getStream ({} : Tile) 0 = none) ∧
    (atProg State.reset vt0 (withStream { str with committed := true }) launch 0x11 [wordOf 0x11 0] ∧
      getStream (withStream { str with committed := true }) 0 = some { str with committed := true }) ∧
    (atProg State.reset vt0 (withStream fullBuf) launch 0x12 [wordOf 0x12 1] ∧ srelTargets (withStream fullBuf) 0 1 = some [0]) ∧
    (atProg State.reset vt0 streamTile launch 0x10 [wordOf 0x10 0] ∧
      let y := { streamTile with streams := mset none [] 0 (some str) }
      getStream y 0 ≠ none ∧ ringTaken { streamTile with streams := mset none [] 1 (some { str with bufs := [{ entry := 0, gen := 0, state := 0, idx := 0, size := 64 }] }) } 0x1000 64 = true ∧
      (freeList { streamTile with entryUse := (List.range 256).map (fun i => (i, true)) }).length < 1) ∧
    (atProg State.reset vt0 (withStream outBuf) launch 0x13 [wordOf 0x13 1] ∧ swrtTargets (fetched State.reset vt0 (withStream outBuf) launch [wordOf 0x13 1]) vt0 (withStream outBuf) 0 1 = some [0]) ∧
    (∀ st ∈ [str, { str with committed := true }, { str with ending := some stStall }],
      atProg (setFld State.reset (seStatAt vt0 0) 63 32 3) vt0 (withStream st) launch 0x14 [wordOf 0x14 0] ∧ getStream (withStream st) 0 = some st ∧
        st.seq = fld (fetched (setFld State.reset (seStatAt vt0 0) 63 32 3) vt0 (withStream st) launch [wordOf 0x14 0]) (seStatAt vt0 0) 63 32) ∧
    (isRunning str = true ∧ ({ str with committed := true } : Stream).ending = none) ∧
    (atProg State.reset vt0 {} launch 0x14 [wordOf 0x14 0]) := by decide +kernel

theorem witness_TileControlCompletes :
    (sub32 (sqTail State.reset vt0 0) 0 = 0) ∧
    (let u := setHead (setFld (setTile State.reset vt0 (runs {} 0 launch)) (dbAt vt0 0) 31 0 1) vt0 0 1
     getRun (getTile u vt0) 0 = some launch ∧ launch.pos = 0 ∧ sub32 (sqTail u vt0 0) 0 ≠ 0 ∧ sub32 (sqTail u vt0 0) 0 < 2 ^ 31 ∧
       sub32 (sqTail u vt0 0) (sqHead u vt0 0) ≤ sub32 0 (sqHead u vt0 0)) ∧
    (let u := setFld (setTile State.reset vt0 (runs {} 0 launch)) (dbAt vt0 1) 31 0 1
     getRun (getTile u vt0) 0 = some launch ∧ sqHead u vt0 1 ≠ sqTail u vt0 1 ∧ launch.suspended = false ∧ launch.held = false) ∧
    (let x := { runs {} 0 launch with preempted := true }
     getRun x 0 = some launch ∧ x.preempted = true ∧ x.passes = [] ∧ x.kernel = none) ∧
    (getRun (runs {} 0 { launch with suspended := true }) 0 = some { launch with suspended := true } ∧ queueIdle State.reset vt0 1 = true) ∧
    (let l := { launch with held := true }
     let u := setFlag (setTile State.reset vt0 (runs {} 0 l)) (ckptAt vt0 0) 24 true
     getRun (getTile u vt0) 0 = some l ∧ l.live = [] ∧ tileOpen u vt0 = true ∧ l.moved = false ∧ flag u (ckptAt vt0 0) 24 = true ∧
       flag State.reset (ckptAt vt0 0) 24 = false) ∧
    (hasSpare ((List.range 2).foldl (fun s e => setPhys s 0 (100 + e) {}) State.reset) vt0 = false) ∧
    (queueIdle State.reset vt0 0 = true ∧ queueIdle State.reset vt0 1 = true) ∧
    (mapped State.reset vt0 = true ∧ queueIdle (setFld State.reset (dbAt vt0 0) 31 0 1) vt0 0 = false) := by decide +kernel

/-! ### Witnesses: the whole machine, storage, arithmetic -/

/-- A device whose power failed: no clocked part runs. -/
def dark : State := { State.reset with pins := { State.reset.pins with pwrGood := false } }

theorem witness_StepRunsFront : ({ State.reset with pending := [.rstN, .beat] } : State).pending = .rstN :: [.beat] := by decide +kernel
theorem witness_IdleStepTicks : State.reset.pending = [] ∧ running State.reset = true ∧ running dark = false := by decide +kernel
/-- A device after an interrupt is enabled and a tile's window is written, with a command waiting. -/
def someState : State := { setTile (setFlag State.reset (grIrqAt 3) 63 true) vt0 polyTile with pending := [.beat, .rstN] }
theorem witness_StepKeepsGood : Good someState ∧ someState.csr ≠ [] ∧ someState.tiles ≠ [] ∧
    step someState = .next { someState with pending := [.rstN], beat := nowNs someState 4 } :=
  ⟨⟨by decide +kernel, by decide +kernel, by decide +kernel, by decide +kernel, by decide +kernel, by decide +kernel⟩, by decide +kernel,
    by decide +kernel, rfl⟩
theorem witness_CommandsKeepQueue : exec .beat someState = .next { someState with beat := nowNs someState 4 } := rfl
theorem witness_StoppedDeviceUnchanged : running dark = false ∧ running (objSetN State.reset 0xF012 1 2) = false := by decide +kernel
theorem witness_StorageReadsBack : carveEnd State.reset.part - 1 + [(7 : Byte)].length ≤ carveEnd State.reset.part ∧ (0 ≤ 63 ∧ 63 < 64) ∧ (5 ≤ 5 ∧ 5 < 64) := by
  decide +kernel
theorem witness_BlockElementsDecode :
    ((0x80 : Byte) = 0x80 ∧ (0x81 : Byte) ≠ 0x80) ∧
    (let m : ByteAt := fun a => if a = 0 then 0x80 else 0
     codeAt m 0 0 1 = narCode 0 ∧ codeAt m 0 0 0 ≠ narCode 0 ∧ m 1 ≠ 0x80 ∧ codeAt m 1 0 0 = narCode 1 ∧ codeAt m 1 0 1 = 0) ∧
    (let m : ByteAt := fun a => if a = 1 then 0x80 else 0
     codeAt m 2 0 0 = narCode 2 ∧ codeAt m 2 0 1 = 0 ∧ numAt m 0 2 = 0x8000 ∧ numAt m 8 2 ≠ 0x8000) ∧
    (let m : ByteAt := fun a => if a = 7 then 0x80 else 0
     numAt m 0 8 = 0x8000000000000000 ∧ numAt m 16 8 ≠ 0x8000000000000000) := by decide +kernel
theorem witness_ConversionIntoA48 :
    ((0 : Int) ≤ 0 ∧ (-1 : Int) < 0) ∧ (2 ^ 47 - 1 < (2 ^ 47 : Int) * 2 ^ (0 - 0 : Int).toNat) ∧ ((-(2 ^ 47) : Int) < -(2 ^ 47 - 1)) ∧
    NearestEven 5 1 2 ∧ NearestEven 7 1 4 ∧ NearestEven (-5) 1 (-2) := by
  unfold NearestEven; decide +kernel
theorem witness_DigitsAreExact : ((-(2 ^ 63) : Int) ≤ 2 ^ 63 ∧ (2 ^ 63 : Int) ≤ 2 ^ 63) ∧ ((-32768 : Int) ≤ -32768 ∧ (-32768 : Int) ≤ 32767) := by decide
theorem witness_NativePassArithmetic :
    (parsePass [wordOf 0x21 0, 0, 0, 0]).mode ≠ 4 ∧ (({ c := 3, e := 0, nar := true } : Elem).nar = true ∧ ({ c := 3, e := 0, nar := false } : Elem).nar = false) ∧
    ((3 : Int) * 5 ≠ 0 ∧ (0 : Int) ≤ 1 + 1 - 0 ∧ (1 : Int) + 1 - 3 < 0 ∧ NearestEven 15 1 8) ∧
    ([(some 1, 0), (some 2, 0)] : List (Option Int × Nat)).map (·.1) = ([1, 2] : List Int).map some ∧
    ([(none, fNar)] : List (Option Int × Nat)).all (fun t => t.1 == none) = true ∧
    ([(some 2, 0), (some 1, 0)] : List (Option Int × Nat)).Perm [(some 1, 0), (some 2, 0)] := by
  unfold NearestEven; decide +kernel
theorem witness_LongAccumulatorOrder : ([(srcOne, srcOne)] : List (Src × Src)).Perm [(srcOne, srcOne)] := by decide
theorem witness_HbmMapOneToOne : carveEnd State.reset.part - 1 < carveEnd State.reset.part ∧ hbmKey State.reset 0 = hbmKey State.reset 0 := by
  decide +kernel
theorem witness_PoisonGranules :
    (64 + 32 ≤ carveEnd State.reset.part ∧ 64 * 1 < carveEnd State.reset.part) ∧
    ((64 : Nat) < 64 * 1 + 64 ∧ 64 * 1 < 64 + 32) ∧ ((0 : Nat) ≤ 64 * 1 ∧ 64 * 1 + 64 ≤ 0 + 128) ∧ (64 + 32 < 64 * 1 + 64) ∧
    ((96 : Nat) = 64 * 1 + 32 ∧ 96 < 100 + 8 ∧ 100 < 96 + 32 ∧ ¬(100 ≤ 96 ∧ 96 + 32 ≤ 100 + 8) ∧ 100 > 64 * 1) ∧
    granPoison (hbmPut State.reset 64 [1] (fun _ => true)).hbm.mem (hbmKey State.reset 64 / 64) = true := by decide +kernel

/-! ### Witnesses: streams and queue controllers -/

/-- Context 0 of C0:V0 runs a stream of these words, otherwise st. -/
def seState (st : Stream) (ws : List Word) : State := setTile State.reset vt0 (withStream { st with prog := ws })
/-- The word of an opcode is next in context 0 of `seState`. -/
def atStream (st : Stream) (op f : Nat) : Bool :=
  let s := seState st [wordOf op f]
  let st := { st with prog := [wordOf op f] }
  running s && getStream (getTile s vt0) 0 == some st && isRunning st && !st.ended && st.prog[st.pc]? == some (wordOf op f) &&
    bits (wordOf op f) 63 56 == op
theorem atStream_says {st : Stream} {op f : Nat} (h : atStream st op f = true) :
    NextStreamWord (seState st [wordOf op f]) vt0 0 op { st with prog := [wordOf op f] } (wordOf op f) := by
  simpa [atStream, NextStreamWord, and_assoc] using h
def loop (left : Nat) : Stream := { str with loops := [{ level := 0, areg := 0, treg := 0, left := left, body := 0 }] }
theorem witness_StreamProgramInstructions :
    (∀ op ∈ [0x01, 0x02, 0x03, 0x04, 0x08, 0x10, 0x11, 0x20, 0x21, 0x3F], atStream str op 0) ∧ atStream str 0x10 (2 ^ 40) ∧
    (atStream (loop 0) 0x09 0 ∧ atStream (loop 1) 0x09 0) ∧ str.moves = [] ∧ str.outst = 0 ∧
    (let x := getTile (seState str [wordOf 0x20 0]) vt0; ringBusy x str = false) ∧
    (let x := getTile (seState str [wordOf 0x11 (2 ^ 8)]) vt0
     atStream str 0x11 (2 ^ 8) ∧ inWindow (isV vt0) 0 4 = true ∧ anyInvalid x 0 4 = false ∧ bufsOver x 0 4 = [] ∧
     bits (wordOf 0x11 (2 ^ 8)) 31 8 + 1 ≠ str.gk + 1) := by decide +kernel


/-- A stream that reads HBM with a move of one element left, whose index was poisoned or not. -/
def moving (skip : Bool) : Stream :=
  { str with bufs := [{ entry := 0, gen := 0, state := 0, idx := 0, size := 64 }], moves := [{ addr := 0, fab := false, pos := 0, left := 64, skip := skip }] }
def seTile (st : Stream) : State := setTile State.reset vt0 (withStream st)
/-- A piece of 64 bytes of context 0 of C0:V0, and its tag. -/
def piece : StreamUse := { t := vt0, c := 0, seq := 3, entry := 0, len := 64 }
def streamTag (s : State) : State := setTag s (tileNode State.reset vt0) 5 { gen := 2, use := some (.stream piece) }
/-- A running kernel holds what a response brings for kernel memory. -/
def kmStream : Tile := { withStream { str with base := 0x100000 } with kernel := some kern }
theorem witness_StreamEngineCompletes :
    running (seTile (moving false)) = true ∧
    ((chooseStream (seTile (moving false)) vt0).map (fun e => e.2.2.skip) = some false) ∧
    ((chooseStream (seTile (moving true)) vt0).map (fun e => e.2.2.skip) = some true) ∧
    (let p : Packet := { op := 0x81, dest := nodeOf 0 (epOf State.reset vt0), tag := 5, gen := 2 }
     let s := streamTag (seTile (moving false))
     let k := streamTag (setTile State.reset vt0 kmStream)
     getTag s p.dest.toNat p.tag.toNat = { gen := p.gen, use := some (.stream piece) } ∧ responseHeld s p (.stream piece) = false ∧
       responseHeld k p (.stream piece) = true ∧ responseHeld k { p with status := 0x14 } (.stream piece) = false ∧
       (getTag s p.dest.toNat p.tag.toNat).gen ≠ ({ p with gen := 1 } : Packet).gen) ∧
    (let st := { str with ending := some stStall }; getStream (withStream st) 0 = some st ∧ st.outst = 0 ∧ st.endOwed = false) ∧
    (bits (BitVec.ofNat 64 (2 ^ 11)) 28 11 ≠ 0 ∧ bits (BitVec.ofNat 64 (2 ^ 11)) 28 11 ≤ 131072 ∧ bits (BitVec.ofNat 64 (131072 * 2 ^ 11)) 28 11 ≤ 131072) ∧
    (stallVictim (stallCandidates { seTile str with ts := [(0, 10 ^ 9)] } 0)).map (fun e => (e.1, e.2.1)) = some (vt0, 0) := by decide +kernel

/-- Region L0 of C0 is released and its trees 0 run from the global clock. -/
def region0 : RegionId := ⟨0, 0⟩
def live : State := setFld (setFld (setRegState State.reset region0 3) (lrClkAt 0 0 0) 63 63 1) (lrClkAt 0 0 0) 62 60 4
/-- Queue controller 0 of C0 is enabled in a mode, lossy or not, both of its clocks one clock, and is otherwise x. -/
def qcIs (mode : Nat) (lossy : Bool) (x : QCtl) : State :=
  putQc (setFlag (setFlag (setFld (setFlag live (qcCfg 0 0) 63 true) (qcCfg 0 0) 62 61 mode) (qcCfg 0 0) 60 lossy) (qcCfg 0 0) 58 true) 0 0 x
/-- Entries stored, and the write pointer that counts them. -/
def holding (es : List (BitVec 72)) : QCtl := { entries := es, wp := BitVec.ofNat 13 es.length }
def pushing (es : List (BitVec 72)) : State := qcIs 2 false { holding es with peer := some 0, granted := true, credits := 1 }
theorem witness_QueueControllersComplete :
    (running live = true ∧ qcWriteEnd live 0 0 = false ∧ qcReadEnd live 0 0 = false ∧ qcWriteEnd (qcIs 1 false {}) 0 0 = false ∧
      qcReadEnd (qcIs 2 false {}) 0 0 = false) ∧
    (∀ m ∈ [0, 2], let s := qcIs m false {}
      running s = true ∧ qcWriteEnd s 0 0 = true ∧ treeRuns s (qcRegion 0 0) (qcWtree s 0 0) = true ∧ flag s (qcCfg 0 0) 60 = false) ∧
    freeOf (qcIs 0 false (holding (List.replicate 4095 0))) 0 0 (holding (List.replicate 4095 0)) = 1 ∧
    freeOf (qcIs 0 false (holding (List.replicate 4096 0))) 0 0 (holding (List.replicate 4096 0)) = 0 ∧
    (flag (qcIs 0 true {}) (qcCfg 0 0) 60 = true ∧ qcWriteEnd (qcIs 0 true {}) 0 0 = true ∧
      freeOf (qcIs 0 true {}) 0 0 (holding (List.replicate 4094 0)) = 2 ∧ freeOf (qcIs 0 true {}) 0 0 (holding (List.replicate 4095 0)) = 1 ∧
      (getQc (qcIs 0 true { pending := 1 }) 0 0).pending ≠ 0) ∧
    (∀ m ∈ [0, 1], let s := qcIs m false (holding [7])
      qcReadEnd s 0 0 = true ∧ treeRuns s (qcRegion 0 0) (qcRtree s 0 0) = true ∧ (getQc s 0 0).entries = 7 :: [] ∧
        qcRlevel s 0 0 (getQc s 0 0) ≠ 0 ∧ qcMode s 0 0 = m ∧ sideEnd 7 = false ∧ (getQc (qcIs m false {}) 0 0).entries = []) ∧
    (regionLive live (qcRegion 0 0) = true ∧ qcOn live 0 0 = false ∧ qcIllegal (setBit 0 63 true) = false ∧
      qcIllegal (setBit (BitVec.ofNat 64 (2 ^ 57)) 63 true) = true ∧ bits (0 : Word) 62 61 ≠ 3 ∧ regionLive State.reset (qcRegion 0 0) = false) ∧
    (let s := qcIs 0 false {}
     qcOn s 0 0 = true ∧ qcFixed (setBit (rd s (qcCfg 0 0)) 63 true) = qcFixed (rd s (qcCfg 0 0)) ∧
       qcFixed (setBit 0 63 true) ≠ qcFixed (rd s (qcCfg 0 0))) ∧
    (canPush live 0 0 = false ∧ canPush (pushing []) 0 0 = true ∧ pushable (pushing []) 0 0 = []) ∧
    (canPush (pushing [endEntry]) 0 0 = true ∧ pushable (pushing [endEntry]) 0 0 = endEntry :: [] ∧ sideEnd endEntry = true) ∧
    (let s := pushing (List.replicate 32 1)
     canPush s 0 0 = true ∧ pushable s 0 0 = 1 :: List.replicate 31 1 ∧ sideEnd 1 = false ∧ 1 ≤ (getQc s 0 0).credits ∧ 32 ≤ (pushRun s 0 0).length) ∧
    (let s := pushing [1, endEntry]
     canPush s 0 0 = true ∧ sideEnd 1 = false ∧ 1 ≤ (getQc s 0 0).credits ∧ ((pushable s 0 0).take 33).any sideEnd = true) ∧
    (let s := pushing (List.replicate 31 1)
     canPush s 0 0 = true ∧ (pushRun s 0 0).length < 32 ∧ ((pushable s 0 0).take 33).any sideEnd = false) ∧
    (let s := setFld (pushing [1]) (qcCfg 0 0) 32 17 1
     canPush s 0 0 = true ∧ 1 ≤ (getQc s 0 0).credits ∧ fld s (qcCfg 0 0) 32 17 ≠ 0 ∧ pushRun s 0 0 ≠ [] ∧ fld (pushing [1]) (qcCfg 0 0) 32 17 = 0) := by
  decide +kernel

theorem witness_QueuePacketsComplete : running State.reset = true ∧
    (∀ op ∈ ([0x10, 0x12, 0x15, 0x11, 0x13] : List (BitVec 8)), let p : Packet := { op }
      arrived State.reset p = true ∧ destFence State.reset p = 0 ∧ p.fab = false ∧ p.op = op ∧ isRequest p = true ∧ isRequest { p with vc := 1 } = false ∧
        destFence (setFld State.reset (nocEpAt 0 0) 55 54 2) p = 2) := by decide +kernel

/-- The scratch window of C0:V0 and the CSR space of C0. -/
def vWindow : BitVec 64 := 0x100020000000
theorem witness_NetworkRequestsComplete :
    (let r : Packet := { op := 0x01, len := 8, addr := 0x200000600000, src := nodeOf 8 3 }
     let w : Packet := { op := 0x02, len := 8, addr := 0x200000600000, data := List.replicate 8 0, src := nodeOf 8 3 }
     running State.reset = true ∧ arrived State.reset r = true ∧ destFence State.reset r = 0 ∧ formed r = true ∧ formed w = true ∧ r.fab = false ∧
       isCsr State.reset.part r.addr.toNat = true ∧ inCsrSpace State.reset.part w.addr.toNat = true ∧ w.data.length = w.len ∧
       mapStatus State.reset.part (initiatorOf State.reset r) r.addr.toNat r.len = 0) ∧
    (∀ n ∈ [1, 256], let r : Packet := { op := 0x01, len := n, addr := vWindow }
     formed r = true ∧ isCsr State.reset.part r.addr.toNat = false ∧ classify State.reset.part r.addr.toNat = .scratch vt0 0 ∧
       mapStatus State.reset.part (initiatorOf State.reset r) r.addr.toNat r.len = 0 ∧ kmBehind State.reset vt0 0 r = false) ∧
    (let w : Packet := { op := 0x02, len := 8, addr := vWindow, data := List.replicate 8 0 }
     formed w = true ∧ mapStatus State.reset.part (initiatorOf State.reset w) w.addr.toNat w.len = 0 ∧ kmHeld State.reset vt0 0 w = false) ∧
    (let s := kState {} 0
     let w : Packet := { op := 0x02, len := 8, addr := vWindow + 0x100000, data := List.replicate 8 0 }
     running s = true ∧ formed w = true ∧ classify s.part w.addr.toNat = .scratch vt0 0x100000 ∧
       mapStatus s.part (initiatorOf s w) w.addr.toNat w.len = 0 ∧ kmHeld s vt0 0x100000 w = true ∧ windowRefusal s vt0 0x100000 w.len = 0) ∧
    (let r : Packet := { op := 0x01, len := 8, addr := 0x0F0000000000 }
     mapStatus State.reset.part (initiatorOf State.reset r) r.addr.toNat r.len ≠ 0 ∧ formed r = true) ∧
    (let w : Packet := { op := 0x02, len := 8, addr := 0x2000000FFFF8, data := List.replicate 8 0 }
     inCsrSpace State.reset.part w.addr.toNat = true ∧ w.data.length = w.len ∧
       mapStatus State.reset.part (initiatorOf State.reset w) w.addr.toNat w.len ≠ 0) ∧
    (∀ e ∈ ([(0, .userHbm), (0x2B80000000, .firmware), (0x2C80000000, .carveOut), (0x300001000000, .cfg 0 0 0x1000000)] : List (BitVec 64 × AddrClass)),
     let s : State := { State.reset with part := .m8x2 }
     let r : Packet := { op := 0x01, len := 8, addr := e.1, src := nodeOf 8 3 }
     formed r = true ∧ isCsr s.part e.1.toNat = false ∧ classify s.part e.1.toNat = e.2 ∧ mapStatus s.part (initiatorOf s r) e.1.toNat 8 = 0) ∧
    (flag (setFlag State.reset (grIrqAt 1023) 63 true) (grIrqAt ((1023 : BitVec 64).toNat % 1024)) 63 = true ∧ flag State.reset (grIrqAt 0) 63 = false) := by decide +kernel

theorem witness_NetworkResponsesComplete :
    (∀ op ∈ ([0x81, 0x82, 0x95, 0xE0, 0x90, 0x92, 0xA0] : List (BitVec 8)), let p : Packet := { op }
      isRequest p = false ∧ destFence State.reset p ≠ 2 ∧ arrived State.reset p = true) ∧
    running State.reset = true ∧ (getTag State.reset 0 0).use = none ∧
    (∀ u ∈ [TagUse.signal vt0 0 3, .qc 0 0, .pcie, .endpoint region0, .mailbox 0, .mailbox 1, .other, .stream piece],
      (getTag (setTag State.reset 0 0 { gen := 0, use := some u }) (0 : BitVec 12).toNat (0 : BitVec 10).toNat) = { gen := 0, use := some u }) ∧
    (getTag (setTag State.reset 0 0 { gen := 1, use := some .pcie }) 0 0).gen ≠ 0 := by decide +kernel

def pkt (dest : BitVec 12) : Packet := { op := 0x01, len := 8, dest }
/-- The packets inside the network. -/
def netWith (fs : List Flight) : State := { State.reset with noc := { State.reset.noc with flights := fs } }
/-- The entry of endpoint 5 of C0 at router 0 holds k. -/
def routed (k : Nat) (s : State) : State := { s with noc := { s.noc with active := [(routeKey 0 0 false 5, 8 + k)] } }
/-- A packet from Granite for endpoint 5 of C0, one for C1 that waits in router 0, and eight flits before it there. -/
def fromG : Packet := { pkt 5 with src := nodeOf 8 2 }
def toC1 : Packet := pkt (nodeOf 1 5)
def crowd : List Flight := List.replicate 8 { p := { fromG with tag := 9 }, place := .buffer 0 76 6 }
theorem witness_NetworkPartsComplete :
    (running State.reset = true ∧ mget false State.reset.noc.stopped (128 * (0 : Fin 4).val + (0 : Fin 128).val) = false ∧
      mget false { State.reset.noc with stopped := [(0, true)] }.stopped (128 * (0 : Fin 4).val + (0 : Fin 128).val) = true) ∧
    (badHeader { pkt 0 with op := 0x03 } = true ∧ badHeader fromG = false ∧ isRequest fromG = true ∧ isRequest { pkt 0 with op := 0x81 } = false ∧
      badHeader { pkt 0 with op := 0x81 } = false) ∧
    (flightOf State.reset fromG = none ∧ entryPort State.reset 0 76 fromG = some 6 ∧ inOrder State.reset fromG = true ∧ draining State.reset 0 = false ∧
      portRoom State.reset 0 76 6 { fromG with dclass := false } = true ∧ entryPort State.reset 0 75 fromG = none ∧
      portRoom (netWith crowd) 0 76 6 { fromG with dclass := false } = false ∧ draining (setFld State.reset (rtctl 0) 62 61 1) 0 = true) ∧
    (flightOf (netWith [⟨fromG, .link 0 0 1⟩]) fromG = some ⟨fromG, .link 0 0 1⟩) ∧
    (∀ k ∈ [7, 4, 5], let s := routed k (netWith [⟨fromG, .buffer 0 0 6⟩])
      flightOf s fromG = some ⟨fromG, .buffer 0 0 6⟩ ∧ portFor s 0 0 fromG = k) ∧
    (let s := netWith [⟨toC1, .buffer 0 0 4⟩]
     flightOf s toC1 = some ⟨toC1, .buffer 0 0 4⟩ ∧ portFor s 0 0 toC1 = 6 ∧ granted s 0 0 6 = some ⟨toC1, .buffer 0 0 4⟩ ∧ linkOf 0 6 = some 256 ∧
       nextPlace s 0 0 6 toC1 = some (toC1, .bridge 0 0 1)) ∧
    (let s := netWith [⟨toC1, .bridge 0 0 1⟩]
     flightOf s toC1 = some ⟨toC1, .bridge 0 0 1⟩ ∧ farDie 0 0 = (1 : Fin 4).val ∧ (enterRouters 1 0).contains 0 = true ∧ draining s 1 = false ∧
       portRoom s 1 0 6 { toC1 with dclass := false } = true) ∧
    (let w : WireFlit := { data := [1], side := 0, crc := 0 }
     linkCrc w.data w.side ≠ w.crc.toNat ∧ linkState State.reset 0 0 ≠ 2 ∧ linkState (setFld State.reset (nocLinkAt 0 0) 63 62 2) 0 0 = 2 ∧
       linkCrc [] 0 = (0 : BitVec 16).toNat) ∧
    (mget 0 State.reset.noc.fails (512 * (0 : Fin 4).val + (265 : Fin 266).val) < 7 ∧
     (let s := setFails State.reset 0 265 7; linkState s 0 265 = 0 ∧ mget 0 s.noc.fails (512 * (0 : Fin 4).val + (265 : Fin 266).val) = 7)) ∧
    (let s := setFails (setFld State.reset (nocLinkAt 0 3) 63 56 64) 0 3 7; linkState s 0 3 = 1 ∧ mget 0 s.noc.fails (512 * (0 : Fin 4).val + (3 : Fin 266).val) = 7) ∧
    (moduleUp State.reset 0 0 0 = true ∧ moduleUp State.reset 0 4 1 = false) ∧ (getTag State.reset (7 : Fin 4096) (9 : Fin 1024)).use = none ∧
    (getTag (setTag State.reset 7 9 { gen := 0, use := some .pcie }) (7 : Fin 4096) (9 : Fin 1024)).use = some .pcie := by decide +kernel

theorem witness_RouteChangesAndFences :
    (running State.reset = true ∧ rtState State.reset 0 ≠ 1 ∧ rtState (setFld State.reset (rtctl 0) 62 61 1) 0 = 1 ∧
      bit (BitVec.ofNat 64 0) 56 = false ∧ bits (BitVec.ofNat 64 (2 ^ 56 + 8 * 2 ^ 48)) 55 48 ≤ 8 ∧ 8 < bits (BitVec.ofNat 64 (2 ^ 56 + 9 * 2 ^ 48)) 55 48) ∧
    (State.reset.noc.flights.any (fun f => onDie 0 f.place) = false ∧ (netWith crowd).noc.flights.any (fun f => onDie 0 f.place) = true) ∧
    (epPresent State.reset.part 0 = true ∧ epPresent .m8x2 141 = false ∧ fstate State.reset 0 0 = 0 ∧ tagsOf State.reset (0 * 256 + 0) = []) ∧
    (let s := setFld State.reset (nocEpAt 0 118) 55 54 2
     epPresent s.part 118 = true ∧ fstate s 0 118 = 2 ∧ epPowered s 0 118 = true) ∧
    (let s := setFld State.reset (nocEpAt 0 101) 55 54 2; fstate s 0 101 = 2 ∧ (101 < 102)) ∧
    (∀ v ∈ [3, 4, 2], let s := setFld (setFld State.reset (nocEpAt 0 102) 55 54 2) (cfgAt 0 0 8) 63 60 v
      fstate s 0 102 = 2 ∧ fld s (cfgAt 0 (102 - 102) 8) 63 60 = v) ∧
    (let s := setFld State.reset (nocEpAt 0 0) 55 54 1
     fstate s 0 0 = 1 ∧ abandoning s 0 0 = false ∧ abandoning (setAbandon s 0 0 true) 0 0 = true ∧ tagsOf s (0 * 256 + 0) = [] ∧ epServed s 0 0 = true ∧
       tagsOf (setTag s 0 0 { gen := 0, use := some .pcie }) (0 * 256 + 0) ≠ [] ∧
       epServed (setPortQueue s 0 118 [{ p := pkt 0, ts := 0 }]) 0 118 = false) ∧
    (let s := setFld State.reset (nocEpAt 0 0) 55 54 2
     let p : Packet := { op := 0x01, len := 8, addr := 0x100020000000, dest := nodeOf (0 : Fin 4).val (0 : Fin 256).val }
     fstate s 0 0 ≠ 0 ∧ p.vc = 0 ∧ formed p = true ∧ arrived s p = true ∧ mapStatus s.part (initiatorOf s p) p.addr.toNat p.len = 0) := by decide +kernel

theorem witness_RegionBlocksComplete :
    (let e := BitVec.ofNat 64 (2 ^ 63 + 20 * 2 ^ 56 + 4 * 2 ^ 48)
     pllBad 0 e = false ∧ bit e 63 = true ∧ pllBad 0 (BitVec.ofNat 64 (2 ^ 63 + 19 * 2 ^ 56 + 4 * 2 ^ 48)) = true ∧
     pllBad 0 (BitVec.ofNat 64 (2 ^ 63 + 40 * 2 ^ 56 + 128 * 2 ^ 48)) = false) ∧
    (let s := setFlag State.reset (lrPllAt 0 0) 63 true
     flag s (lrPllAt 0 0) 63 = true ∧ flag (setFlag s (lrPllAt 0 0) 47 true) (lrPllAt 0 0) 47 = true ∧ flag State.reset (lrPllAt 0 0) 63 = false) ∧
    (bits (BitVec.ofNat 64 (4 * 2 ^ 60)) 62 60 = fld live (lrClkAt 0 0 0) 62 60 ∧ flag live (lrClkAt 0 0 0) 63 = true ∧
      bits (BitVec.ofNat 64 0) 62 60 ≠ fld live (lrClkAt 0 0 0) 62 60 ∧ flag (setFlag live (lrClkAt 0 0 0) 51 true) (lrClkAt 0 0 0) 51 = true) ∧
    (1020 < 1021 ∧ treeRuns live region0 0 = true ∧ treeRuns State.reset region0 0 = false) ∧
    (flag State.reset (ioBankAt 0) 62 = false ∧ flag State.reset (ioBankAt 0) 62 ≠ true) ∧
    (treeRuns live region0 (bram 9 8191).tree = true ∧ (bram 9 8191).en = true ∧ (bram 9 8191).width = 9 ∧ (bram 9 8191).clash = [] ∧ (bram 9 8191).addr < 8192 ∧
      (bram 9 0).we.getLsbD 0 = false ∧ ({ bram 9 0 with we := 1 }).we.getLsbD 0 = true ∧ (bram 9 0).wmode = 0 ∧ ({ bram 9 0 with oreg := true }).oreg = true ∧
      mget false (getRegion live region0).bramUe (bramPhys 0 8191) = false ∧ (bram 8 0).width ∉ [1, 2, 4, 9, 18, 36, 72]) ∧
    (endpointClocked live region0 = true ∧ endpointClocked State.reset region0 = false ∧ fstate (unfenceEp live 0 102) (0 : Fin 4) (102 + region0.n.val) = 0 ∧
      (getTag live (regNode region0) 0).use = none ∧ endpointOk false 0 256 [] = true ∧ endpointOk false 0 257 [] = false ∧
      mapStatus live.part .region 0 256 = 0 ∧ mapStatus live.part .region 0x0F0000000000 8 ≠ 0) := by decide +kernel

/-! ### Witnesses: configuration, freeze, HBM -/

/-- Region L0 of C0 in a state of CFG_STAT with no command running. -/
def regIn (st : Nat) (x : Region) : State := setRegion (setRegState State.reset region0 st) region0 x
/-- The magic number, the version, the frame count and zeros: a bitstream header. -/
def headerBytes (frames : Nat) : List Byte := leBytes 4 0x4C5A4342 ++ leBytes 2 1 ++ leBytes 2 0 ++ leBytes 4 frames ++ List.replicate 3508 0
/-- A complete load of no frames' bytes whose header carries a digest. -/
def loaded (digest : List Byte) : Region := { header := some { frames := 1730, crc := 0, digest }, seen := List.range 1730 }
theorem witness_ConfigurationCompletes :
    (∀ st ∈ [0, 1, 2, 3, 4, 5], running (regIn st {}) = true ∧ regState (regIn st {}) region0 = st ∧ regBusy (regIn st {}) region0 = false) ∧
    ((getRegion (regIn 1 { busy := 7 }) region0).busy = 7 ∧ (getRegion (regIn 1 { busy := 1 }) region0).busy = 1 ∧
      (getRegion (regIn 1 { busy := 2 }) region0).busy = 2 ∧ (getRegion (regIn 1 { busy := 2 }) region0).fetching = 0 ∧ loadReady (getRegion (regIn 1 { busy := 2 }) region0) = false) ∧
    (let s := setFlag (setFlag (regIn 1 {}) hbmMap 63 true) (hbmChAt 0 0) 63 true
     let t := setFld (regIn 1 {}) (cfgReg region0 0x18) 31 0 256
     fld s (cfgReg region0 0x10) 47 0 = 0 ∧ fld s (cfgReg region0 0x18) 31 0 = 0 ∧ 0 + 0 ≤ userEnd s.part ∧ rangeRefusal s .region 0 0 = 0 ∧
       rangeRefusal s .region 0 256 = 0 ∧ fld t (cfgReg region0 0x18) 31 0 = 256 ∧ rangeRefusal t .region 0 256 ≠ 0 ∧
       userEnd s.part < fld (setFld s (cfgReg region0 0x10) 47 0 (userEnd s.part)) (cfgReg region0 0x10) 47 0 + 1) ∧
    (let x : Region := { load := List.replicate 1048 0, header := some { frames := 1730, crc := 0, digest := [] } }
     loadReady x = true ∧ (getRegion (regIn 1 x) region0) = x ∧ x.fetching = 0) ∧
    (∀ n ∈ [1730, 2306], let x : Region := { load := headerBytes n }
      loadReady x = true ∧ x.header = none ∧ (parseHeader (x.load.take 3520)).isSome = true) ∧
    (let x : Region := { load := List.replicate 3520 0 }; loadReady x = true ∧ x.header = none ∧ parseHeader (x.load.take 3520) = none) ∧
    (let x := loaded []
     loadReady x = false ∧ x.seen.length = 1730 ∧ (x.seen.filter (· < 1730)).length = 1730 ∧ ({ x with seen := [] } : Region).seen.length ≠ 1730 ∧
       loadReady {} = false ∧ ({} : Region).header = none) ∧
    (let x : Region := { busy := 3, header := some { frames := 1730, crc := 5, digest := [] } }; x.busy = 3 ∧ x.header.map (·.crc) = some 5) ∧
    (2 ≤ regState (regIn 2 {}) region0 ∧ 221439 < 221440) := by decide +kernel
theorem witness_ConfigurationDigest : leBytes 64 (Config.sha512 (loaded (leBytes 64 (Config.sha512 []).toNat)).frames).toNat = leBytes 64 (Config.sha512 []).toNat ∧
    leBytes 64 (Config.sha512 (loaded []).frames).toNat ≠ [] := ⟨rfl, nofun⟩

/-- Device 4 with rings of 8 in the dimension of its witness; port S0:P0 has its twin as a partner. -/
def dev4 : State := { objSetN (objSetN State.reset 0x0A30 4 8) 0x0A30 3 2 with fabric := { State.reset.fabric with dev := some 4 } }
def record : CapRecord :=
  { version := 1, devset := true, device := 5, part := 0, port := 1, shale := 0, switch := false, ready := true, twin := 0, incarn := 0, rings := 0, tier := 0, plane := 0 }
def twinPortUp (p : PortId) : State := setPortState (setPort dev4 p { partner := some record }) p 6
theorem witness_FreezeCompletes :
    (amberState State.reset = 0 ∧ State.reset.pins.pwrGood = true) ∧
    (let s := twinPortUp ⟨0, 6⟩; portState s ⟨0, 6⟩ = 6 ∧ freezeAccepted s ⟨0, 6⟩ true = true ∧ ⟨0, 6⟩ ∈ allPorts s ∧ 2 ≤ portState s ⟨0, 6⟩ ∧ freezeAccepted (objSetN s 0xF011 1 0) ⟨0, 6⟩ false = false ∧ amberState s = 0) ∧
    portState State.reset ⟨0, 0⟩ ≠ 6 ∧
    (2 ≤ ({ State.reset with bootStep := 2 }).bootStep ∧ State.reset.bootStep < 2 ∧ (255 < 256 ∧ 2 ^ 32 - 1 < 2 ^ 32)) ∧
    (let s := objSetN State.reset 0xF012 1 2; amberState s = 2 ∧ s.pins.amberN = true ∧ amberState s ≠ 0) := by decide +kernel

/-- HBM is served: the map is locked and channel 0 of C0 trained. -/
def hbmUp : State := hbmWith State.reset []
def hostRead : Packet := { op := 0x01, len := 8, addr := 64, src := nodeOf 8 2 }
def hostWrite : Packet := { op := 0x02, len := 8, addr := 64, src := nodeOf 8 2, data := List.replicate 8 0 }
def queued (p : Packet) : HReq := { p, ts := 0 }
theorem witness_HbmRequestsComplete :
    (running hbmUp = true ∧ isHbmReq hbmUp hostRead = true ∧ isHbmReq hbmUp hostWrite = true ∧ isHbmReq hbmUp { hostRead with op := 0x10 } = false ∧
      arrived hbmUp hostRead = true ∧ destFence hbmUp hostRead = 0 ∧ hbmScreen hbmUp hostRead = 0 ∧ hbmScreen State.reset hostRead ≠ 0 ∧
      destFence (setFld hbmUp (nocEpAt 0 0) 55 54 1) { hostRead with dest := 0 } ≠ 0 ∧
      hbmDie hbmUp 64 = 0 ∧ hbmJ hbmUp 64 = 0 ∧ hbmPc hbmUp 64 = 0 ∧ (portQueue hbmUp 0 (hbmPortEp hbmUp.part 0)).length < 256 ∧
      256 ≤ (portQueue (setPortQueue hbmUp 0 118 (List.replicate 256 (queued hostRead))) 0 118).length) ∧
    (∀ p ∈ [hostRead, hostWrite],
      (let s := setPortQueue hbmUp 0 (hbmPortEp hbmUp.part 0) [queued p]
       (getPc s 0 0 0).queue.length < 64 ∧ chZeroing s 0 0 = false ∧
         admitChoice s 0 (unblocked [] ((portQueue s 0 (hbmPortEp s.part 0)).filter (fun r => hbmJ s (offsetOf r.p) == 0 && hbmPc s (offsetOf r.p) == 0))) = some (queued p)) ∧
      (let s := setPc hbmUp 0 0 0 { queue := [queued p] }
       chZeroing s 0 0 = false ∧ slotChoice s 0 (getPc s 0 0 0) = some (queued p) ∧ chTrained s 0 0 = true ∧
         chTrained (setFlag s (hbmChAt 0 0) 63 false) 0 0 = false ∧ slotChoice (setFlag s (hbmChAt 0 0) 63 false) 0 (getPc s 0 0 0) = some (queued p) ∧
         slotChoice s 0 { getPc s 0 0 0 with holdBank := some (hbmBank s 64) } = none ∧
         hbmScreen (setFlag s (hbmChAt 0 0) 63 false) p ≠ 0)) := by decide +kernel

/-- No bank stands at its postponement limit, whatever the limit is: each has had a refresh and none is due. -/
theorem witness_HbmRefreshed : refreshFirst hbmUp 0 0 { refreshed := (List.range 32).map (·, 1) } = false := by
  have h : ∀ b ∈ List.range 32, mget 0 ((List.range 32).map (·, 1)) b = 1 := by decide +kernel
  have t : nowNs hbmUp 0 = 0 := by decide +kernel
  simp only [refreshFirst, List.any_eq_false, decide_eq_true_eq]
  intro b hb
  rw [h b hb, refreshesDue, t]
  simp [mget]

theorem witness_HbmChannelsComplete :
    (running State.reset = true ∧ chFitted State.reset.part (31 : Fin 48).val = true ∧ chFitted State.reset.part (32 : Fin 48).val = false) ∧
    (0 < 3 ∧ 3 ≤ mget 0 (getPc (setPc State.reset 0 0 0 { acts := [(31, 3)] }) 0 0 0).acts (31 : Fin 32).val) ∧
    (chTrained hbmUp 0 0 = true ∧ chTrained State.reset 0 0 = false ∧ chZeroing (setFlag hbmUp (hbmChAt 0 0) 62 true) 0 0 = true ∧
      flag State.reset (hbmChAt 0 0) 59 = false) ∧
    (flag State.reset (hbmChAt 0 0) 60 = false ∧ flag (setFlag State.reset (hbmChAt 0 0) 60 true) (hbmChAt 0 0) 60 = true) ∧
    (let v : Word := BitVec.ofNat 64 (2 ^ 63 + 2 ^ 50)
     fld State.reset (hbmCheckAt 0) 49 48 ≠ 1 ∧ bits v 55 50 ≠ 0 ∧ bits v 62 57 = (0 : Fin 48).val ∧ bit v 63 = true) ∧
    (fld (setFld State.reset (hbmCheckAt 0) 49 48 1) (hbmCheckAt 0) 49 48 = 1 ∧ checkAllowed State.reset 0 {} = true ∧
      checkAllowed State.reset 0 { checkAt := some 0 } = false ∧ checkAllowed { State.reset with ts := [(0, 100000)] } 0 { checkAt := some 0 } = true) ∧
    (let v : Word := BitVec.ofNat 64 (2 ^ 63 + 2 ^ 56 + 24575 * 2 ^ 36)
     fld hbmUp (hbmRepairAt 0) 35 34 ≠ 1 ∧ bit v 63 = true ∧ bits v 62 57 = (0 : Fin 48).val ∧ bits v 56 56 = (1 : Fin 2).val ∧ bits v 50 36 < 24576 ∧
       24576 ≤ bits (BitVec.ofNat 64 (2 ^ 63 + 24576 * 2 ^ 36)) 50 36) ∧
    fld (setFld State.reset (hbmRepairAt 0) 35 34 1) (hbmRepairAt 0) 35 34 = 1 ∧
    (selLegal State.reset 0 = true ∧ flag State.reset (hbmChAt 0 (fld State.reset (dlysel 0) 63 58)) 61 = false ∧
      selLegal (setFld State.reset (dlysel 0) 54 49 35) 0 = true ∧ selLegal (setFld State.reset (dlysel 0) 54 49 36) 0 = false) ∧
    (flag hbmUp (hbmChAt 0 0) 61 = false ∧ (let s := setFlag hbmUp (hbmChAt 0 0) 61 true
     flag s (hbmChAt 0 0) 61 = true ∧ (getPc s 0 0 0).applied = false ∧ (getPc s 0 0 1).applied = false)) ∧
    (scrubBursts - 1 < scrubBursts ∧ chZeroing hbmUp 0 0 = false ∧ (getPc hbmUp 0 0 0).queue = [] ∧ (getPc hbmUp 0 0 0).holdBank ≠ some ((scrubBursts - 1) / 32 % 32) ∧
      scrubBehind { hbmUp with ts := [(0, 10 ^ 12)] } 0 {} = true) := by decide +kernel

/-! ### Witnesses: fabric and twins -/

/-- Device 4 serves its fabric memory space and has a context open for device 9. -/
def home : State :=
  let s := setTwinState (setFld (hbmWith dev4 []) (grAt 0) 63 60 3) 1
  { s with fabric := { s.fabric with ctxs := [{ peer := 9, idx := 0 }] } }
/-- HBM bytes 64-127 are written there. -/
def home64 : State := hbmPut home 64 (List.replicate 64 1) (fun _ => false)
def fabReq (op : BitVec 8) (aop : BitVec 4) (data : List Byte) : Packet :=
  { op, fab := true, len := 8, addr := BitVec.ofNat 64 (4 * 2 ^ 44 + 64), data, od := { reqdev := 9, aop, width := true } }
/-- The state in which the operation of a request that `home64` serves runs. -/
def servedIn (p : Packet) : State := ((incCheck (takeFabric home64 p) p).bind (fun s0 => admitPeer s0 p)).getD home64
def servesB (p : Packet) : Bool :=
  running home64 && homeVerdict home64 p == .serve false && !portBusy home64 p &&
    (match incCheck (takeFabric home64 p) p with
     | some s0 => findRec s0 (keyOf p) == none && !inProgress s0 p && admitPeer s0 p == some (servedIn p) && recRoom (servedIn p)
     | none => false)
theorem servesB_says {p : Packet} (h : servesB p = true) : Serves home64 p (servedIn p) := by
  simp only [servesB, Bool.and_eq_true, beq_iff_eq, Bool.not_eq_true'] at h
  obtain ⟨⟨⟨a, b⟩, c⟩, d⟩ := h
  refine ⟨a, b, c, ?_⟩
  cases e : incCheck (takeFabric home64 p) p with
  | none => simp [e] at d
  | some s0 =>
    simp only [e, Bool.and_eq_true, beq_iff_eq, Bool.not_eq_true'] at d
    exact ⟨s0, rfl, d.1.1.1, d.1.1.2, d.1.2, d.2⟩
/-- SOURCE and length of a copy of n bytes. -/
def copyData (n : Nat) : List Byte := leBytes 8 (9 * 2 ^ 44) ++ leBytes 4 n
theorem witness_FabricOperationsComplete :
    (servesB (fabReq 0x40 0 []) ∧ sizeLegal 64 8 = true ∧ sizeLegal 64 192 = true ∧ sizeLegal 64 193 = false ∧
      remoteScreen (servedIn (fabReq 0x40 0 [])) false 64 8 = 0) ∧
    (servesB (fabReq 0x41 0 [1, 2]) ∧ remoteScreen (servedIn (fabReq 0x41 0 [1, 2])) false 64 2 = 0 ∧
      homeCheck (servedIn (fabReq 0x41 0 [])) false (!sizeLegal 64 0) 64 0 ≠ 0 ∧ homeCheck (servedIn (fabReq 0x40 0 [])) false (!sizeLegal 64 193) 64 193 ≠ 0) ∧
    (∀ aop ∈ ([0, 1, 2, 3, 4, 5, 6, 7, 8, 9] : List (BitVec 4)), let p := fabReq 0x42 aop (List.replicate 16 1)
      servesB p ∧ remoteScreen (servedIn p) false 64 8 = 0 ∧ (hbmRead (servedIn p) 64 8).2.2 = 0 ∧
        leNat (hbmRead (servedIn p) 64 8).2.1 = leNat ((p.data.drop 8).take 8)) ∧
    (let p := fabReq 0x42 5 (List.replicate 16 2); servesB p ∧ leNat (hbmRead (servedIn p) 64 8).2.1 ≠ leNat ((p.data.drop 8).take 8)) ∧
    (let p := fabReq 0x42 10 (List.replicate 16 2); servesB p ∧ 9 < p.od.aop.toNat) ∧
    (∀ n ∈ [1, 2 ^ 30], let p := fabReq 0x43 0 (copyData n)
      servesB p ∧ leNat ((p.data.drop 8).take 4) = n ∧ 64 + n ≤ userEnd (servedIn p).part) ∧
    (∀ n ∈ [0, 2 ^ 30 + 1], let p := fabReq 0x43 0 (copyData n); servesB p ∧ leNat ((p.data.drop 8).take 4) = n) ∧
    (∀ op ∈ ([0x44, 0x45, 0x46, 0x47, 0x48, 0x49] : List (BitVec 8)), servesB (fabReq op 0 (List.replicate 16 0))) := by decide +kernel

/-- The response of a request is kept. -/
def homeRec (p : Packet) : State := { home64 with fabric := { home64.fabric with recs := [{ key := keyOf p, status := 0, data := [] }] } }
theorem witness_DuplicateRequestsAnswered :
    ∀ op ∈ ([0x41, 0x42, 0x44, 0x45, 0x46, 0x47, 0x48, 0x49] : List (BitVec 8)), let p := fabReq op 0 (List.replicate 16 0)
      running (homeRec p) = true ∧ homeVerdict (homeRec p) p = .serve false ∧ portBusy (homeRec p) p = false ∧
      (incCheck (takeFabric (homeRec p) p) p).map (fun s0 => (findRec s0 (keyOf p), inProgress s0 p)) = some (some { key := keyOf p, status := 0, data := [] }, false) := by
  decide +kernel

def outReq : FabReq := { id := 3, origin := .copy 1, pkt := fabReq 0x40 0 [], dev := 9, sent := true }
/-- `home64` has a request to device 9 outstanding. -/
def asking : State := { home64 with fabric := { home64.fabric with outst := [outReq] } }
def reply (status : BitVec 8) : Packet := { op := 0xC0, fab := true, status, od := outReq.pkt.od }
/-- Command ring 0 of 16 descriptors stands at HBM address 64, and its first descriptor has these words. -/
def ring0 (ws : List Word) : State :=
  let s := hbmPut home 64 (ws.flatMap (fun w => leBytes 8 w.toNat)) (fun _ => false)
  wr (wr s (cqRingAt 0) (BitVec.ofNat 64 (2 ^ 63 + 4 * 2 ^ 58 + 2 ^ 6))) (cqdbAt 0) 1
/-- A descriptor of an 8-byte FREAD, and one whose length is 0. -/
def desc (n : Nat) : List Word := [BitVec.ofNat 64 (0x40 * 2 ^ 56 + n), BitVec.ofNat 64 (9 * 2 ^ 44 + 64), BitVec.ofNat 64 256, 0, 0, 0, 0, 0]
theorem witness_FabricRequesterCompletes :
    (running asking = true ∧ answered (takeFabric asking (reply 0)) (reply 0) = some outReq ∧ (reply 0).status.toNat ≠ stAdmitWait ∧
      answered (takeFabric home64 (reply 0)) (reply 0) = none ∧ answerFree (takeFabric asking (reply 0)) outReq (reply 0) = true) ∧
    (let r := { outReq with origin := .ring 0 64 false 64, pkt := fabReq 0x40 0 [] }
     let s := setPortQueue { home64 with fabric := { home64.fabric with outst := [r] } } 0 118 [queued hostWrite]
     answered (takeFabric s (reply 0)) (reply 0) = some r ∧ answerFree (takeFabric s (reply 0)) r { reply 0 with data := List.replicate 8 0 } = false) ∧
    (let p := reply (BitVec.ofNat 8 stAdmitWait); answered (takeFabric asking p) p = some outReq ∧ p.status.toNat = stAdmitWait ∧ 400 ≤ 400) ∧
    (findReq asking 3 = some outReq ∧ outReq.sent = true ∧ answerFree asking outReq { op := outReq.pkt.op } = true ∧ findReq asking 4 = none ∧
      ctxOfPeer home64 8 = none ∧ home64.fabric.ctxs.length < 8192) ∧ home64.fabric.heldReq = [] ∧ fabricReadyNow home64 = true ∧
    asking.fabric.outst.any (fun r => r.dev == 8 && r.sent) = false ∧
    (let s := ring0 (desc 8)
     ringOn s 0 = true ∧ sub32 (bits 16 31 0) (ringHead s 0) ≤ 2 ^ ringLog2 s 0 ∧ 2 ^ ringLog2 s 0 < sub32 (bits 17 31 0) (ringHead s 0) ∧ ringOn State.reset 0 = false) ∧
    (∀ n ∈ [8, 0], let s := ring0 (desc n)
      let rd := hbmRead s (descAt s 0) 64
      let w := (List.range 8).map (fun i => BitVec.ofNat 64 (leNat ((rd.2.1.drop (8 * i)).take 8)))
      ringHead s 0 ≠ ringTail s 0 ∧ (getRing s 0).outst < 64 ∧ fabRoom s = true ∧ hbmFree s (descAt s 0) 64 = true ∧ inSeqRange s.part (descAt s 0) 64 = true ∧ hbmRefusal s .host (descAt s 0) = 0 ∧
        rd.2.2 = 0 ∧ descRefused s w = (n == 0) ∧ bits (w.getD 0 0) 63 56 ≠ 0x4F ∧
        (n = 8 → (descRequest (setFld rd.1 (cqdbAt 0) 63 32 (ringHead s 0 + 1)) w).2.2 = 0)) ∧
    (let w : List Word := BitVec.ofNat 64 (0x4F * 2 ^ 56) :: List.replicate 7 0; descRefused home w = false ∧ bits (w.getD 0 0) 63 56 = 0x4F) := by decide +kernel

def inTwin (v : Nat) (f : Twin → Twin) : State := { setTwinState home v with twin := f home.twin }
/-- The same, in a pair that has no witness. -/
def lone (s : State) : State := objSetN (objSetN (objSetN (objSetN s 0x0A30 4 2) 0x0A30 3 1) 0x0A30 2 1) 0x0A30 1 1
theorem witness_TwinStatesComplete :
    (fabricReadyNow home = true ∧ home.fabric.dev.isSome = true ∧ home.failed = false ∧ running home = true ∧ fabricReadyNow dev4 = false) ∧
    (∀ v ∈ [0, 1, 4, 5], twinState (inTwin v id) ≠ 2 ∧ twinState (inTwin v id) ≠ 3) ∧
    (twinState (inTwin 2 id) = 2 ∧ twinState (inTwin 3 id) = 3 ∧ (inTwin 2 id).twin.declared = 0 ∧ (pairWitness (inTwin 2 id)).isSome = true ∧
      pairWitness (lone (inTwin 2 id)) = none ∧ twinState (lone (inTwin 2 id)) = 2 ∧ parity (lone (inTwin 2 id)) = 0 ∧
      parity (lone { inTwin 2 id with fabric := { home.fabric with dev := some 5 } }) ≠ 0) ∧
    (let s := inTwin 2 (fun t => { t with declared := 1 }); twinState s = 2 ∧ s.twin.declared ≠ 0 ∧ (pairWitness s).isSome = true) ∧
    (let s := inTwin 3 (fun t => { t with cutover := true }); twinState s = 3 ∧ s.twin.cutover = true ∧ (inTwin 3 id).twin.cutover = false) ∧
    (let s := inTwin 1 (fun t => { t with leases := [(3, (1, 6))] })
     let w := inTwin 1 (fun t => { t with leases := [(3, (1, 6))], waitAck := [({ op := 0x30 }, .lease 6 1)] })
     answersFor home (6 : BitVec 20).toNat = true ∧ answersFor home (4 : BitVec 20).toNat = false ∧ (leaseOf home ((6 : BitVec 20).toNat / 2)).1 ≤ (0 : BitVec 32).toNat ∧
       (0 : BitVec 32).toNat < (leaseOf s ((6 : BitVec 20).toNat / 2)).1 ∧ leaseOf s 3 = ((0 + 1 : BitVec 32).toNat, (6 : BitVec 20).toNat) ∧
       leaseOf s 3 ≠ ((0 + 1 : BitVec 32).toNat, (7 : BitVec 20).toNat) ∧ s.twin.waitAck.any (fun e => e.2 == .lease 6 (0 + 1)) = false ∧
       w.twin.waitAck.any (fun e => e.2 == .lease 6 (0 + 1)) = true) ∧
    (let s := inTwin 2 (fun t => { t with yielding := true }); s.twin.yielding = true ∧ homeIdle s = true) ∧
    ((0xFFFFF : BitVec 32).toNat ≤ 0xFFFFF ∧ 0xFFFFF < (0x100000 : BitVec 32).toNat ∧ State.reset.fabric.dev = none) := by decide +kernel

/-- Mirror entry 0 holds the first 2 MiB, owned by the even twin, in an MSTATE. -/
def mir (s : State) (m : Nat) : State := wr s (mirAt 0) (BitVec.ofNat 64 (2 ^ 63 + m * 2 ^ 60 + 2 ^ 24))
def waiter : Packet × AckFor := ({ op := 0x41, addr := 64 }, .packet { op := 0x41, addr := 64 })
def mack : Packet := { waiter.1 with op := 0xB0 }
def change : MirrorChange := { op := 1, owner := 0, base := 0, len := 0x200000, here := false, result := 0 }
/-- Resynchronising with the copy at a position, a millisecond after it began. -/
def syncing (pos : Nat) : State := { mir (inTwin 3 (fun t => { t with syncPos := some pos })) 2 with ts := [(4, 1000000)] }
theorem witness_MirrorCompletes :
    (∀ v ∈ [2, 4], let s := mir (inTwin v id) 1
      running s = true ∧ twinState s = v ∧ (mirOf s 64).isSome = true ∧ hbmFree s 64 8 = true ∧ recRoom s = true ∧ mirOf s 0x200000 = none ∧
        hbmFree (setPortQueue s 0 118 [queued hostWrite]) 64 8 = false) ∧
    (let s := inTwin 2 (fun t => { t with waitAck := [waiter] })
     s.twin.waitAck.find? (ackMatches mack) = some waiter ∧ mack.op = 0xB0 ∧ ackFree s waiter = true ∧
       (inTwin 2 id).twin.waitAck.find? (ackMatches mack) = none ∧
       ackFree (setPortQueue s 0 118 [queued hostWrite]) (waiter.1, .ring { r := 0, entry := 64, irq := false, status := 0, result := 0 } 1) = false) ∧
    (twinState (syncing 0) = 3 ∧ (syncing 0).twin.syncPos = some 0 ∧ nextChunk (syncing 0) 0 = some 0 ∧ hbmFree (syncing 0) 0 65536 = true ∧
      hbmFree (setPortQueue (syncing 0) 0 118 [queued hostWrite]) 0 65536 = false ∧ cutReady (syncing 0) = false) ∧
    (let s := syncing 0x200000
     s.twin.syncPos = some 0x200000 ∧ nextChunk s 0x200000 = none ∧ cutReady s = true ∧ s.twin.cutEpoch = none ∧ homeIdle s = true ∧ (pairWitness s).isSome = true ∧
       pairWitness (lone s) = none ∧ cutReady { s with ts := [(4, 999999)] } = false) ∧
    (let s := mir (inTwin 2 id) 0; syncingHere s = some 0 ∧ syncingHere (inTwin 2 id) = none ∧ hbmFree s (mirBase s 0 + 65536 * syncDone s 0) 65536 = true) ∧
    (let s := mir (inTwin 4 id) 1; mirValid s 0 = true ∧ mirState (mir (inTwin 4 id) 2) 0 = 2) ∧
    (home.twin.changeOpen = false ∧ twinState home ≠ 2 ∧ twinState (inTwin 2 id) = 2 ∧ parity (inTwin 2 id) = 0) ∧
    (let s := inTwin 2 (fun t => { t with changes := [change] })
     s.twin.changes = change :: [] ∧ change.here = false ∧ change.phase = 0 ∧ ({ change with phase := 1 } : MirrorChange).phase ≠ 0 ∧ changeStatus s change = 0 ∧
       changeStatus (mir s 1) change ≠ 0) ∧
    (let s := mir (inTwin 2 (fun t => { t with entrySync := [(0, 32)] })) 0
     mirValid s 0 = true ∧ mirState s 0 = 0 ∧ syncAll s 0 ≤ syncDone s 0 ∧ syncDone (mir (inTwin 2 id) 0) 0 < syncAll s 0) := by decide +kernel

/-! ### Witnesses: links, check values, repair -/

def pIn (v : Nat) : State := setPortState (setPort dev4 ⟨0, 2⟩ { replay := [zeroFlit], partner := some record }) ⟨0, 2⟩ v
def pt : PortId := ⟨0, 2⟩
/-- All lanes of S0:P2 have locked their clocks and markers but the last. -/
def almostLocked : State := ([8, 9, 10] : List (Fin 36)).foldl (fun s l => setFlag (setFlag s (lstat ⟨0, l⟩) 63 true) (lstat ⟨0, l⟩) 62 true) (pIn 3)
def allLocked : State := setFlag (setFlag almostLocked (lstat ⟨0, 11⟩) 63 true) (lstat ⟨0, 11⟩) 62 true
/-- M8X2 has two Shale dies. -/
def noShale : State := { State.reset with part := .m8x2 }
theorem witness_PortStagesComplete :
    (∀ v ∈ [0, 8, 9], running (pIn v) = true ∧ shaleFitted (pIn v) pt.shale = true ∧ ringOne (objSetN (pIn v) 0x0A30 2 2) pt = false ∧
      portState (objSetN (pIn v) 0x0A30 2 2) pt = v) ∧ ringOne (objSetN (pIn 0) 0x0A30 2 1) pt = true ∧ shaleFitted noShale (2 : Fin 4) = false ∧
    (∀ v ∈ [1, 2, 3, 4, 5, 6, 7], portState (pIn v) pt = v) ∧
    (portState allLocked pt = 3 ∧ lanesLocked allLocked pt = true ∧ lanesLocked almostLocked pt = false ∧
      (List.finRange 4).filter (fun i => !cdrLocked almostLocked (servingLane almostLocked pt i)) = [3] ∧
      ((List.finRange 4).filter (fun i => !cdrLocked (pIn 3) (servingLane (pIn 3) pt i))).length ≠ 1) ∧
    (lanesNamed (pIn 4) pt = false ∧ lanesNamed (([0, 1, 2, 3] : List (Fin 4)).foldl (fun s i => setFld s (lstat ⟨0, ⟨8 + i.val, by omega⟩⟩) 57 56 i.val) (pIn 4)) pt = true) ∧
    ((getPort (pIn 5) pt).replays < 8 ∧ 8 ≤ (getPort (setPort (pIn 5) pt { replays := 8 }) pt).replays ∧ (getPort (setPort (pIn 5) pt { replays := 8 }) pt).partner = none ∧
      fld (pIn 5) (pstat pt) 58 51 ≠ stCapMismatch ∧ fld (setFld (pIn 5) (pstat pt) 58 51 stCapMismatch) (pstat pt) 58 51 = stCapMismatch) ∧
    ((getPort (pIn 6) pt).replay ≠ [] ∧ (getPort (pIn 6) pt).replays < 7 ∧ (getPort (setPort (pIn 6) pt {}) pt).replay = [] ∧
      7 ≤ (getPort (setPort (pIn 6) pt { replay := [zeroFlit], replays := 7 }) pt).replays ∧ partnerReady (pIn 6) pt = false ∧
      partnerReady (setFlag (pIn 6) (pstat pt) 59 true) pt = true) := by decide +kernel
theorem witness_LanesComplete :
    (running (pIn 3) = true ∧ shaleFitted (pIn 3) (0 : Fin 4) = true ∧ shaleFitted noShale (2 : Fin 4) = false ∧
      portState (pIn 3) (lanePort (pIn 3) ⟨0, 11⟩) = 3 ∧ portState (pIn 4) (lanePort (pIn 4) ⟨0, 11⟩) = 4 ∧ portState (pIn 6) (lanePort (pIn 6) ⟨0, 11⟩) = 6) ∧
    (readMarker (laneMarker 2 none) = some (2, none) ∧ readMarker (laneMarker 2 (some 3)) = some (2, some 3) ∧ Option.bind (some 0) readMarker = none ∧
      Option.bind none readMarker = none) ∧
    ((16 : Nat) ≤ 16 ∧ 15 < 16 ∧ 4 ≤ 4 ∧ 3 < 4) ∧
    (let s := setFlag (pIn 9) (lctl ⟨0, 11⟩) 59 true; patternLane s ⟨0, 11⟩ = true ∧ flag s (lctl ⟨0, 11⟩) 59 = true ∧ patternLane (pIn 6) ⟨0, 11⟩ = false) ∧
    (let n := fld (pIn 6) (pctl (lanePort (pIn 6) ⟨0, 11⟩)) 60 41
     windowErrors (pIn 6) ⟨0, 11⟩ + n ≤ n ∧ n < windowErrors (pIn 6) ⟨0, 11⟩ + (n + 1) ∧
       (List.finRange 4).find? (fun i => servingLane (pIn 6) pt i == ⟨0, 11⟩) = some 3) ∧
    (∀ p ∈ allPorts (pIn 3), portState (pIn 3) p ≠ 6) := by decide +kernel
/-- A record of the device one step up the ring of dimension 0, at the port opposite to S0:P0. -/
def beside (s : State) (good : Bool) : CapRecord :=
  { record with device := BitVec.ofNat 20 (setCoord (ownDev s) (portDim ⟨0, 0⟩) (if portPlus ⟨0, 0⟩ then 1 else 2)), rings := BitVec.ofNat 16 (ownRings s), switch := !good }
/-- Rings of 3 in every dimension but the last; S0:P0 in CAPEX. -/
def capex : State := setPortState (objSetN (objSetN (objSetN dev4 0x0A30 1 3) 0x0A30 2 3) 0x0A30 3 3) ⟨0, 0⟩ 5
/-- A record of a switch of plane 0, at S1:P0. -/
def uplink : CapRecord := { record with switch := true, tier := 1 }
/-- S0:P0 is usable, with credits. -/
def torusUp : State := setFlag (setPort (setPortState capex ⟨0, 0⟩ 6) ⟨0, 0⟩ { partner := some record, limit := List.replicate 8 100 }) (pstat ⟨0, 0⟩) 59 true
/-- The device that `beside` names. -/
def devUp : BitVec 20 := (beside capex true).device
def farPkt : Packet := { op := 0x40, fab := true, addr := BitVec.ofNat 64 (0x12004 * 2 ^ 44) }
/-- `farPkt` waits for an uplink; S1:P0 is usable or not, with credits or not. -/
def leaving (st credits : Nat) : State :=
  let s := objSetN { dev4 with linkOut := [.fabric (BitVec.ofNat 20 (packetDev farPkt)) farPkt] } 0x0A30 5 1
  setFlag (setPort (setPortState s ⟨1, 0⟩ st) ⟨1, 0⟩ { partner := some uplink, limit := List.replicate 8 (BitVec.ofNat 16 credits) }) (pstat ⟨1, 0⟩) 59 true
theorem witness_LinkTrafficCompletes :
    (running (pIn 6) = true ∧ portState (pIn 6) pt = 6 ∧ portState (pIn 5) pt = 5 ∧ zeroFlit.amber = false ∧ zeroFlit.nak = false ∧ (getPort (pIn 6) pt).uncorr < 7 ∧
      sparedLane (setFld (pIn 6) (pstat pt) 50 48 2) pt ≠ 7 ∧ (let s := setFld (setPort (pIn 6) pt { uncorr := 7 }) (pstat pt) 50 48 7
        7 ≤ (getPort s pt).uncorr ∧ sparedLane s pt = 7)) ∧
    (portState capex ⟨0, 0⟩ = 5 ∧ isTorus ⟨0, 0⟩ = true ∧ capex.fabric.dev.isSome = true ∧ (beside capex true).devset = true ∧
      torusPasses (showPartner capex ⟨0, 0⟩ (beside capex true)) ⟨0, 0⟩ (beside capex true) = true ∧
      torusPasses (showPartner capex ⟨0, 0⟩ (beside capex false)) ⟨0, 0⟩ (beside capex false) = false ∧ isTorus ⟨1, 0⟩ = false ∧
      uplinkPasses ⟨1, 0⟩ uplink = true ∧ uplinkPasses ⟨1, 0⟩ record = false ∧ (getPort (showPartner capex ⟨0, 0⟩ uplink) ⟨0, 0⟩).replay = [] ∧
      (getPort (showPartner (pIn 5) pt record) pt).replay ≠ []) ∧
    ((4 : BitVec 20).toNat = ownDev dev4 ∧ (5 : BitVec 20).toNat ≠ ownDev dev4 ∧ 2000 < ageOut 2000 1 ∧ ageOut 1997 500 ≤ 2000 ∧ State.reset.fabric.dev = none) ∧
    (devUp.toNat ≠ ownDev torusUp ∧ pod devUp.toNat = pod (ownDev torusUp) ∧ pod (0x12004 : BitVec 20).toNat ≠ pod (ownDev torusUp) ∧
      (let k : Packet := { op := 0x40, fab := true, len := 8 }
       (torusRoute torusUp (some 1) devUp.toNat false false).isSome = true ∧ torusRoute capex (some 1) devUp.toNat false false = none ∧
         (sendOnPort torusUp ⟨0, 0⟩ k 3 false).isSome = true ∧ sendOnPort capex ⟨0, 0⟩ k 3 false = none ∧ k.op.toNat < 0x80 ∧ k.od.redir = false ∧
         twinOf (5 : BitVec 20).toNat = ownDev dev4 ∧ torusRoute dev4 (some 1) (5 : BitVec 20).toNat false false = none)) ∧
    (pod (packetDev farPkt) ≠ pod (ownDev (leaving 6 100)) ∧ .fabric (BitVec.ofNat 20 (packetDev farPkt)) farPkt ∈ (leaving 6 100).linkOut ∧
      portUsable (leaving 6 100) ⟨1, 0⟩ = true ∧ portUsable (leaving 5 100) ⟨1, 0⟩ = false ∧ objN (leaving 6 100) 0x0A30 5 = 1 ∧
      (sendOnPort (leaving 6 100) ⟨1, 0⟩ farPkt 2 false).isSome = true ∧ sendOnPort (leaving 6 0) ⟨1, 0⟩ farPkt 2 false = none) := by decide +kernel

theorem gfMulN_zero : ∀ n b, gfMulN n 0 b = 0
  | 0, _ => rfl
  | n + 1, b => by simp [gfMulN, gfDouble, gfMulN_zero n]
/-- Zeros before a codeword leave its syndromes as they are. -/
theorem rsSyndromes_zeros (n : Nat) (t : List Nat) : rsSyndromes (List.replicate n 0 ++ t) = rsSyndromes t := by
  have h : ∀ j n : Nat, (List.replicate n 0).foldl (fun a v => gfMul a (gfAlpha j) ^^^ v) 0 = 0 := by
    intro j n
    induction n with
    | zero => rfl
    | succ n ih => simpa [List.replicate_succ, gfMul, gfMulN_zero] using ih
  simp only [rsSyndromes, List.foldl_append, h]
theorem rsDecode_good {n : Nat} {t : List Nat} (h : (rsSyndromes t).all (· == 0) = true) :
    rsDecode (List.replicate n 0 ++ t) = some (List.replicate n 0 ++ t, []) := by
  unfold rsDecode; rw [rsSyndromes_zeros, if_pos h]
theorem rsDecode_bad {n : Nat} {t : List Nat} (h : (rsSyndromes t).all (· == 0) = false) (l : (rsLocate (rsSyndromes t)).l ≤ 15 → False) :
    rsDecode (List.replicate n 0 ++ t) = none := by
  unfold rsDecode; rw [rsSyndromes_zeros, if_neg (by rw [h]; exact Bool.false_ne_true)]
  exact if_neg (fun e => by simp only [Bool.and_eq_true, decide_eq_true_eq] at e; exact l e.1.1)
/-- The symbols from 488 on of a codeword whose fourth flit is `zeroFlit` with an empty header in slot 0, without its other sync bits. -/
def lastFlit : List Nat :=
  [16, 0, 0, 0, 0, 0, 0, 0, 0, 0, 0, 0, 0, 0, 0, 0, 0, 0, 0, 0, 0, 0, 768, 926, 880, 805] ++
  [655, 535, 150, 271, 629, 86, 89, 901, 294, 913, 812, 14, 993, 2, 497] ++ [792, 228, 326, 278, 92, 274, 738, 135, 584, 82, 727, 223, 146, 890, 223]
def goodWord : List Nat := List.replicate 488 0 ++ lastFlit
/-- A codeword is taken as it is and its fourth flit holds; the first, of zeros, has no good CRC. -/
theorem witness_CodewordGood :
    rsDecode goodWord = some (goodWord, []) ∧ flitCrcOk (flitOf goodWord 3) = true ∧
      (parseFlit (flitOf goodWord 3)).slot0.stype ≠ 0 ∧ (parseFlit (flitOf goodWord 3)).amber = false ∧
      (parseFlit (flitOf goodWord 3)).seq = (getPort (pIn 6) pt).rxNext ∧ flitCrcOk (flitOf goodWord 0) = false :=
  ⟨rsDecode_good (by decide +kernel), by decide +kernel⟩
/-- A codeword with sixteen symbols in error is not corrected. -/
theorem witness_CodewordBad : rsDecode (List.replicate 528 0 ++ List.replicate 16 1) = none := rsDecode_bad (by decide +kernel) (by decide +kernel)

/-- Unit 0 of C0, and its partner, are enabled on a running tree with a CMP mode. -/
def cvIs (cmp : Nat) (x y : CvUnit) : State :=
  setCv (setCv (setFld (setFld live (cvReg ⟨0, 0⟩ 0) 63 59 (16 + cmp)) (cvReg ⟨0, 1⟩ 0) 63 59 (16 + cmp)) ⟨0, 0⟩ x) ⟨0, 1⟩ y
/-- Unit 0 of S0 is enabled with a CMP mode and BUSY, in a state of the device. -/
def cvsOn (s : State) (cmp : Nat) : State := setCv (setFlag (setFld s (cvReg ⟨4, 0⟩ 0) 63 59 (16 + cmp)) (cvStatAt ⟨4, 0⟩) 60 true) ⟨4, 0⟩ { runEnd := 64 }
def cvsIs (cmp : Nat) : State := cvsOn State.reset cmp
theorem witness_CheckValueUnitsComplete :
    (running (cvIs 0 {} {}) = true ∧ cvLive (cvIs 0 {} {}) ⟨0, 0⟩ = true ∧ cvLive State.reset ⟨0, 0⟩ = false ∧ cvPoly (cvIs 0 {} {}) ⟨0, 0⟩ ≠ 2 ∧ cvCmp (cvIs 0 {} {}) ⟨0, 0⟩ = 0) ∧
    (let s := cvIs 2 { closed := 1 } {}; cvCmp s ⟨0, 0⟩ = 2 ∧ (getCv s (cvPartner ⟨0, 0⟩)).closed + 1 ≤ (getCv s ⟨0, 0⟩).closed) ∧
    ((getCv (cvIs 0 { closing := [7] } {}) ⟨0, 0⟩).closing = 7 :: [] ∧ (getCv (cvIs 0 {} {}) ⟨0, 0⟩).closing = []) ∧
    (let s := cvIs 1 { toCompare := [0] } {}; cvLive s ⟨0, 0⟩ = true ∧ (getCv s ⟨0, 0⟩).toCompare = 0 :: [] ∧ cvCmp s ⟨0, 0⟩ = 1 ∧ 0 = rd s (cvReg ⟨0, 0⟩ 0x10) ∧
      7 ≠ rd s (cvReg ⟨0, 0⟩ 0x10)) ∧
    (let s := cvIs 2 { toCompare := [0] } { toCompare := [1] }
     cvLive s ⟨0, 0⟩ = true ∧ (getCv s ⟨0, 0⟩).toCompare = 0 :: [] ∧ (getCv s (cvPartner ⟨0, 0⟩)).toCompare = 1 :: [] ∧ cvCmp s ⟨0, 0⟩ = 2 ∧ (0 : Word) ≠ 1) ∧
    (cvExists ⟨4, 31⟩ = true ∧ cvExists ⟨4, 32⟩ = false ∧ cvCfgBad (cvsIs 0) ⟨4, 0⟩ (setBit (BitVec.ofNat 64 (3 * 2 ^ 61)) 43 true) = true ∧
      cvCfgBad (cvsIs 0) ⟨4, 0⟩ (setBit (BitVec.ofNat 64 (2 ^ 63)) 43 true) = false ∧ cvOnS0 ⟨4, 0⟩ = true ∧ cvOnS0 ⟨0, 0⟩ = false ∧ cvEn (cvsIs 0) ⟨4, 0⟩ = true ∧
      flag State.reset (cvStatAt ⟨4, 0⟩) 60 = false ∧ userEnd State.reset.part < 2 ^ 48 - 64 + 64) ∧
    (let s := cvsIs 0
     let x := getCv s ⟨4, 0⟩
     flag s (cvStatAt ⟨4, 0⟩) 60 = true ∧ cvCmp s ⟨4, 0⟩ = 0 ∧ hbmFree s x.runAddr (x.runEnd - x.runAddr) = true ∧
       hbmFree (setPortQueue s 0 118 [queued hostWrite]) x.runAddr (x.runEnd - x.runAddr) = false ∧
       (cvGranules (cvPoly s ⟨4, 0⟩) ((x.runEnd - x.runAddr) / 64) x.runAddr (s, (rd s (cvReg ⟨4, 0⟩ 8)).toNat, 0)).2.2 ≠ 0) ∧
    (∀ cmp ∈ [0, 1], let s := cvsOn (hbmPut hbmUp 0 (List.replicate 64 0) (fun _ => false)) cmp
      let r := cvGranules (cvPoly s ⟨4, 0⟩) 1 0 (s, (rd s (cvReg ⟨4, 0⟩ 8)).toNat, 0)
      cvCmp s ⟨4, 0⟩ = cmp ∧ r.2.2 = 0 ∧ BitVec.ofNat 64 r.2.1 ≠ rd (incFld (wr r.1 (cvReg ⟨4, 0⟩ 0x18) (BitVec.ofNat 64 r.2.1)) (cvStatAt ⟨4, 0⟩) 51 20) (cvReg ⟨4, 0⟩ 0x10)) ∧
    (cvCmp (cvsIs 3) ⟨4, 0⟩ = 3 ∧ flag (cvsIs 3) (cvStatAt ⟨4, 0⟩) 60 = true ∧ twinState (cvsIs 3) ≠ 2) ∧
    (let s := cvsOn (hbmPut (mir (inTwin 2 id) 1) 0 (List.replicate 64 0) (fun _ => false)) 3
     let x := getCv s ⟨4, 0⟩
     let b := min x.runEnd ((x.runAddr / 16384 + 1) * 16384)
     cvCmp s ⟨4, 0⟩ = 3 ∧ twinState s = 2 ∧ twinRunStatus s 0 64 = stOk ∧ twinRunStatus (cvsIs 3) 0 64 ≠ stOk ∧ hbmFree s x.runAddr (b - x.runAddr) = true ∧ x.runEnd ≤ b ∧
       (cvGranules (cvPoly s ⟨4, 0⟩) ((b - x.runAddr) / 64) x.runAddr (s, (rd s (cvReg ⟨4, 0⟩ 8)).toNat, 0)).2.2 = 0 ∧
       min 16448 ((0 / 16384 + 1) * 16384) < 16448) := by decide +kernel
/-- RL_TMOVE for M0 with the spare at endpoint 64, and for a V-tile that does not exist. -/
def mv : Word := BitVec.ofNat 64 (64 * 2 ^ 48)
def mvBad : Word := BitVec.ofNat 64 (2 ^ 61 + 32 * 2 ^ 55)
def moveRuns (v : Word) : State := { wr State.reset (tmoveAt 0) (setBits v 47 46 1) with moving := [(0, v)] }
def spareRegion (st n : Nat) : State := setRegion (setRegState State.reset region0 st) region0 { spares := List.replicate n 3 }
theorem witness_SparingCompletes :
    (running State.reset = true ∧ tmoveState State.reset 0 ≠ 1 ∧ tmoveTile 0 (setBits mv 63 62 2) = some mt0 ∧ tmoveTile 0 (setBits mvBad 63 62 2) = none ∧
      tmoveState (moveRuns mv) 0 = 1) ∧
    (let s1 := plainWrite State.reset .rlTmove (tmoveAt 0) (setBits mv 63 62 2)
     let v := setBits mv 63 62 2
     spareOk { s1 with moving := mset 0 s1.moving 0 v } 0 v = true ∧
       spareOk { s1 with moving := mset 0 s1.moving 0 v } 0 (BitVec.ofNat 64 (65 * 2 ^ 48)) = true ∧
       spareOk { s1 with moving := mset 0 s1.moving 0 v } 0 (BitVec.ofNat 64 (3 * 2 ^ 48)) = false) ∧
    (let v := setBits mv 63 62 3
     let s1 := plainWrite State.reset .rlTmove (tmoveAt 0) v
     let s2 : State := { s1 with moving := mset 0 s1.moving 0 v }
     tmoveTile 0 v = some mt0 ∧ spareOk s2 0 v = true ∧ quiesced s2 mt0 = true ∧ quiesced { s2 with out := [{ op := 0x01, dest := BitVec.ofNat 12 (tileNode s2 mt0) }] } mt0 = false) ∧
    (tmoveTile 0 (mget 0 (moveRuns mv).moving 0) = some mt0 ∧ tmoveTile 0 (mget 0 (moveRuns mvBad).moving 0) = none ∧
      (getTile (moveRuns mv) mt0).passes = [] ∧ (getTile (moveRuns mv) mt0).kernel = none ∧
      (getTile (setTile (moveRuns mv) mt0 { passes := [somePass] }) mt0).passes ≠ [] ∧ epOf (moveRuns mv) mt0 ≠ tmoveSpare (mget 0 (moveRuns mv).moving 0)) ∧
    (cspareState State.reset 0 ≠ 1 ∧
      (let v : Word := BitVec.ofNat 64 (199 * 2 ^ 51)
       let w := fun s => plainWrite s .rlCspare (cspareAt 0) (setBit v 63 true)
       cspareRegion 0 (setBit v 63 true) = region0 ∧ regState (w State.reset) region0 < 2 ∧ bits v 58 51 < 200 ∧ 200 ≤ bits (BitVec.ofNat 64 (200 * 2 ^ 51)) 58 51 ∧
       (∀ st ∈ [2, 4], cspareState (spareRegion st 1) 0 ≠ 1 ∧ regState (w (spareRegion st 1)) region0 = st ∧ regBusy (w (spareRegion st 1)) region0 = false ∧
         (getRegion (spareRegion st 1) region0).spares.length < 2 ∧ 2 ≤ (getRegion (spareRegion st 2) region0).spares.length) ∧ 4 < regState (w (spareRegion 5 1)) region0)) ∧
    cspareState (setFld State.reset (cspareAt 0) 50 49 1) 0 = 1 := by decide +kernel
theorem witness_FaultsComplete :
    (∀ x ∈ [SramTarget.scratch mt0 0x3FFFF8, .scratch vt0 0xFFFF8, .accum mt0 0x400000, .accum mt0 0x6FFFF8, .kernelMem vt0 0x100000, .kernelMem vt0 0x10FFF8,
      .blockMem 1023 1023, .queueMem 511 4095], sramValid 0 x = true) ∧
    (sramValid 0 (.scratch mt0 0x400000) = false ∧ sramValid 0 (.accum mt0 0x3FFFF8) = false ∧ sramValid 1 (.scratch mt0 0) = false) ∧
    (flag State.reset wdogAt 62 = false ∧ flag (setFlag State.reset wdogAt 62 true) wdogAt 62 = true) ∧ shaleFitted State.reset (0 : Fin 4).val = true ∧
    shaleFitted noShale (2 : Fin 4).val = false ∧ mapped State.reset mt0 = true ∧
    mapped ((List.range 102).foldl (fun s e => setPhys s 0 e { status := 2 }) State.reset) mt0 = false := by decide +kernel

/-! ### Witnesses: boot, updates, dictionary, power, PCIe -/

def boots (n st : Nat) : State := { setStage State.reset st 0 with bootStep := n }
/-- A manifest of a signed image of one byte, in the layout of R472, with the digest of that byte. -/
def goodManifest : List Byte :=
  leBytes 4 0x4C5A464D ++ leBytes 2 1 ++ List.replicate 10 0 ++ leBytes 4 1 ++ List.replicate 4 0 ++ sha [7] ++ sha [] ++ List.replicate 5360 0
/-- A manifest that no slot accepts. -/
def badManifest : List Byte := [1]
def withSlot (s : State) (m image : List Byte) : State := setSlot s false { manifest := m, image }
/-- Every fitted channel is trained. -/
def trainedAll (s : State) : State := allChannels.foldl (fun s c => setFlag s (hbmChAt c.1 c.2) 63 true) s
theorem witness_BootCompletes :
    (({ State.reset with pins := { State.reset.pins with stbyGood := false } }).pins.stbyGood = false ∧ State.reset.pins.stbyGood = true) ∧
    (∀ st ∈ [4, 5], running (boots 0 st) = true ∧ stage (boots 0 st) = st) ∧ (stage (boots 0 0) = 0 ∧ (boots 1 0).bootStep = 1) ∧
    manifestCheck (withSlot (boots 2 0) badManifest []) false badManifest ≠ 0 ∧
    (slotOf (withSlot (boots 2 0) badManifest []) false).manifest = badManifest ∧ updState (boots 2 0) false ∉ [1, 2, 4] ∧
    (let s := { trainedAll (boots 9 2) with fabric := { State.reset.fabric with dev := some 4 } }
     s.bootStep = 9 ∧ stage s = 2 ∧ allTrained s = true ∧ s.fabric.dev.isSome = true ∧ s.failed = false ∧ s.twin.partner = none) ∧
    (let s : State := { State.reset with mgmt := { State.reset.mgmt with retryWait := true, fetchTries := 2 } }; s.mgmt.retryWait = true ∧ s.mgmt.fetchTries < 3) ∧
    (let s := setPortState (objSetN { boots 2 4 with fabric := { State.reset.fabric with dev := some 4 } } 0x0221 1 1) ⟨0, 6⟩ 6
     stage s = 4 ∧ objN s 0x0221 1 = 1 ∧ s.fabric.dev.isSome = true ∧ updState s false = 0 ∧ s.mgmt.retryWait = false ∧ s.mgmt.fetchTries < 3 ∧
       twinPort s = ⟨0, 6⟩ ∧ portState s ⟨0, 6⟩ = 6 ∧ s.mgmt.fetching = false ∧
       portState (setPortState s ⟨0, 6⟩ 0) ⟨0, 6⟩ < 5 ∧
       (let f : State := { s with mgmt := { s.mgmt with fetching := true } }; f.mgmt.fetching = true ∧ manifestCheck f false badManifest ≠ 0)) := by decide +kernel
/-- The digests of an image slot may hold, and a digest of another length fails. -/
theorem witness_Digests : digest1Ok { manifest := goodManifest, image := [7] } = true ∧ digest2Ok { manifest := goodManifest, image := [7] } = true ∧
    digest1Ok { manifest := [], image := [] } = false ∧ digest2Ok { manifest := [], image := [] } = false :=
  ⟨beq_iff_eq.2 rfl, beq_iff_eq.2 rfl, rfl, rfl⟩
/-- The channels are trained, with what they hold or without; one of them is not; and the slots hold nothing that is taken. -/
theorem witness_BootTrains : allTrained (allChannels.foldl (bootChannel { failedTiles := [], untrained := [], keepHbm := true }) (boots 5 1)) = true := by decide +kernel
theorem witness_BootTrainsNot : allTrained (allChannels.foldl (bootChannel { failedTiles := [], untrained := [65], keepHbm := false }) (boots 5 1)) = false := by
  decide +kernel
theorem witness_BootSlots : digest2Ok (slotOf (withSlot (boots 6 1) [] []) false) = false ∧ (boots 8 2).bootStep = 8 ∧ allTrained (boots 8 2) = false ∧
    (let s := setSlot (boots 8 2) true { manifest := badManifest, image := [] }; s.bootStep = 8 ∧ manifestCheck s true (slotOf s true).manifest ≠ 0) :=
  ⟨by rw [show slotOf (withSlot (boots 6 1) [] []) false = { manifest := [], image := [] } from by decide +kernel]; exact witness_Digests.2.2.2, by decide +kernel⟩
/-- A manifest is accepted where its key set and its signatures are: the verification has no body here (log 8). -/
theorem witness_ManifestAccepted (k : keyId (mpart goodManifest 152 32) (mpart goodManifest 184 1952) = leBytes 64 (Config.otpKey 0).toNat)
    (e : Config.edVerify (mpart goodManifest 152 32) (goodManifest.take 2136) (mpart goodManifest 2136 64) = true)
    (l : Config.mlVerify (mpart goodManifest 184 1952) (goodManifest.take 2136) (mpart goodManifest 2200 3309) = true) :
    manifestCheck (boots 2 0) false goodManifest = 0 := by
  have h1 : manifestLegal false goodManifest = true := by decide +kernel
  have h2 : mfield goodManifest 6 1 = 0 := by decide +kernel
  have h3 : mfield goodManifest 12 2 = 0 := by decide +kernel
  have h4 : (revoked (boots 2 0)).testBit 0 = false := by decide +kernel
  have h5 : svnFused (boots 2 0) = 0 := by decide +kernel
  simp [manifestCheck, h1, h2, h3, h4, h5, k, e, l]

/-- The firmware runs after Fabric Ready and the segment link is up. -/
def up : State := { boots 9 3 with mgmt := { State.reset.mgmt with segUp := true } }
theorem witness_ResetsComplete :
    (State.reset.pins.pwrGood = true ∧ State.reset.pins.stbyGood = true ∧ dark.pins.pwrGood = false ∧ dark.pins.stbyGood = true) ∧
    ({ dark with pins := { dark.pins with stbyGood := false } }).pins.stbyGood = false ∧
    (State.reset.part.dieFitted (3 : Fin 4).val = true ∧ amberState State.reset = 0) ∧
    (∀ v ∈ [0, 3], let s := objSetN up 0x0220 5 v; updServed s false = true ∧ s.pins.pwrGood = true ∧ updState s false = v) ∧
    (amberState (objSetN State.reset 0xF012 1 2) ≠ 0) := by decide +kernel
theorem witness_UpdatesComplete :
    (∀ h ∈ [true, false], updServed up h = true ∧ manifestCheck up false badManifest ≠ 0 ∧ manifestCheck up true badManifest ≠ 0 ∧ updState up h ≠ 1) ∧
    (∀ h ∈ [true, false], let s := setSlot (objSetN up (updIdx h) 5 1) h { manifest := goodManifest, image := [] }
      updServed s h = true ∧ updState s h = 1 ∧ objN s (updIdx h) 3 + [(7 : Byte)].length ≤ imageLen (slotOf s h).manifest) ∧
    slotOf (setSlot up true { manifest := [], image := [] }) true = { manifest := [], image := [] } ∧
    (up.pins.stbyGood = true ∧ up.mgmt.segUp = true ∧ (List.replicate 1952 (3 : Byte)).length = ownerKeyLen true ∧ (List.replicate 32 (3 : Byte)).length = ownerKeyLen false) ∧
    (fwRuns up = true ∧ (List.replicate 32 (0 : Byte)).length ≤ 32 ∧ objGet up 0x0231 1 = [] ∧ objGet (objSet up 0x0231 1 [1]) 0x0231 1 ≠ []) ∧
    (let s : State := { up with mgmt := { up.mgmt with unapplied := [⟨0x1030, 1⟩] } }; fwRuns s = true ∧ s.mgmt.unapplied.contains ⟨0x1030, 1⟩ = true) ∧
    up.mgmt.regionOp = none ∧ (up.mgmt.fetching = false ∧ accepted up.mgmt = 0 ∧
      accepted { up.mgmt with queue := [{ via := .bare, mtype := 1, es := [(⟨0x1000, 1⟩, [])] }] } ≠ 0 ∧ ({ up.mgmt with fetching := true } : Mgmt).fetching = true) ∧
    (∀ k ∈ [1, 2, 3, 4], let s := setRegionOp up (some (k, 0)); fwRuns s = true ∧ s.mgmt.regionOp = some (k, 0)) ∧
    (let s := setRegionOp up (some (2, 1)); fwRuns s = true ∧ s.mgmt.regionOp = some (2, 1) ∧ regBusy s (opRegion s) = false) ∧
    bitSigsOk (setRegionOp (objSet up 0x0C10 1 [1]) (some (1, 0))) = false := by decide +kernel

/-- An open Operator session 5, an Owner session 6 that has not proved itself, and what they are otherwise. -/
def sess (f : Session → Session) : State :=
  { up with mgmt := { up.mgmt with sessions :=
    [f { id := 5, level := 1, opened := true, key := [], transcript := [], addr := 1, port := 2 },
     { id := 6, level := 2, opened := false, key := [], transcript := [], addr := 1, port := 2 }], nextSess := 7 } }
theorem witness_DictionaryCompletes :
    (segServed up = true ∧ (List.replicate 64 (⟨0x1000, 1⟩ : DictRef)).length ≤ 64 ∧ 64 < (List.replicate 65 ((⟨0x1000, 1⟩, []) : DictRef × List Byte)).length) ∧
    (let s : State := { up with mgmt := { up.mgmt with flashBusy := true } }
     segServed s = true ∧ s.mgmt.flashBusy = true ∧ s.mgmt.queue = [] ∧ s.mgmt.heldReply = none ∧ up.mgmt.flashBusy = false ∧ up.mgmt.ownerEnds = none) ∧
    (let q : MgmtReq := { via := .bare, mtype := 1, es := [(⟨0x1000, 1⟩, [])] }
     let s : State := { up with mgmt := { up.mgmt with flashBusy := true, heldReply := some (q, [0]) } }
     s.mgmt.flashBusy = true ∧ s.pins.stbyGood = true ∧ s.mgmt.heldReply = some (q, [0])) ∧
    (viaUp up .bare = true ∧ viaUp up (.session 5) = false ∧ viaUp up (.mailbox 0) = true) ∧
    (let s := sess id
     screen s (.session 5) 0x1030 1 3 = 0 ∧
       (rowOf s.part 0x1030 1).map (fun i => (typeOk i 0x1030 (leBytes 2 1000), rangeOk i 0x1030 1 (leBytes 2 1000))) = some (true, true) ∧
       objBusy s 0x1030 1 = false ∧ objAbsent s.part 0x1030 1 = false ∧ 0x1000 ≤ (0x1030 : BitVec 16).toNat ∧ (0x1030 : BitVec 16).toNat ≤ 0x1FFF) := by decide +kernel

def full : State := { up with mgmt := { up.mgmt with sessions := List.replicate 8 { id := 1, level := 1, opened := true, key := [], transcript := [], addr := 1, port := 2 } } }
/-- A fragment of a READ outside a session, by the header of R456. -/
def bareRead : List Byte := makeFrag none 0x01 0 0 0 1 [0, 0x10, 1]
theorem witness_SessionsComplete :
    (segServed full = true ∧ 8 ≤ openCount full ∧ openCount up < 8 ∧ segServed up = true ∧ (List.replicate 1184 (0 : Byte)).length = 1184 ∧
      (List.replicate 32 (0 : Byte)).length = 32) ∧
    ((findSession (sess id) 6).map (fun x => (x.opened, proveStatus (sess id) x [] [] true)) = some (false, stDictSession) ∧ stDictSession ≠ 0) ∧
    ((openSession (sess id) 5).isSome = true ∧ (openSession (sess id) 6).isSome = false) ∧
    (let s := sess (fun x => { x with unacked := some (9, [1]) }); (openSession s 5).map (fun x => (x.unacked, x.resends)) = some (some (9, [1]), 0) ∧
      9 ≤ (9 : BitVec 64).toNat) ∧
    (let s := sess (fun x => { x with unacked := some (9, [1]), resends := 20 }); (openSession s 5).map (·.resends) = some 20) ∧
    (headerOk bareRead = true ∧ mfield bareRead 4 4 = 0 ∧ headerOk [] = false) := by decide +kernel
/-- C0's mailbox request of 320 bytes is on its way. -/
def mbSet (len : Nat) : State :=
  let a := fwEnd up.part
  let s := setFlag (setFlag up hbmMap 63 true) (hbmChAt (hbmDie up a) (hbmJ up a)) 63 true
  setFld (wr s (mbAt 0 0) (BitVec.ofNat 64 (fwEnd up.part))) (mbCtl 0) 61 47 len
def goWord (len : Nat) : Word := BitVec.ofNat 64 (2 ^ 63 + len * 2 ^ 47)
def mbSent : State := match execMbGo 0 (goWord 320) (hbmPut (mbSet 0) (fwEnd up.part) (List.replicate 320 0) (fun _ => false)) with
  | .next s => s
  | _ => up
def mbPkt : Packet := mbSent.out.getD 0 { op := 0 }
theorem witness_MailboxCompletes :
    (let c : Fin 2 := 0
     let s2 := fun len => setFlag (plainWrite (mbSet 0) .mbCtl (mbCtl c) (setBit (goWord len) 63 true)) (mbCtl c) 62 true
     running (mbSet 0) = true ∧ flag (plainWrite (mbSet 0) .mbCtl (mbCtl c) (setBit (goWord 96) 63 true)) (mbCtl c) 62 = false ∧
       mbBuffer (s2 96) c = some (fwEnd up.part) ∧ fld (s2 96) (mbCtl c) 61 47 = 96 ∧ fld (s2 31) (mbCtl c) 61 47 = 31 ∧
       fld (s2 19233) (mbCtl c) 61 47 = 19233 ∧ mbBuffer up c = none) ∧
    (let s := setFlag up (mbCtl 0) 62 true; running s = true ∧ flag (plainWrite s .mbCtl (mbCtl 0) (setBit 0 63 true)) (mbCtl (0 : Fin 2)) 62 = true) ∧
    (running up = true ∧ (nodeOf 4 3 : BitVec 12) ≠ 0 ∧ arrived up { op := 0x60, dest := nodeOf 4 3 } = true ∧ mfind up.mgmt.mbox (0 : Fin 2).val = none) ∧
    (let s := mbSent
     let p := mbPkt
     let g := getTag s p.src.toNat p.tag.toNat
     running s = true ∧ p.op = 0x60 ∧ p.dest = nodeOf 4 3 ∧ arrived s p = true ∧ p.src = mbNode 0 ∧ nodeEp p.src = 3 ∧ g.use = some (.mailbox 0) ∧ g.gen = p.gen ∧
       (match mfind s.mgmt.mbox (0 : Fin 2).val with
        | some m => m.len == 320 && m.got.length + p.data.length < m.len && decide (m.len ≤ m.got.length + 320) && !m.bad
        | none => false) = true) := by decide +kernel
theorem leBytes_leNat : ∀ l : List Byte, leBytes l.length (leNat l) = l
  | [] => rfl
  | b :: r => by
    have h1 : BitVec.ofNat 8 (b.toNat + 256 * leNat r) = b := by have := b.isLt; apply BitVec.eq_of_toNat_eq; simp; omega
    have h2 : (b.toNat + 256 * leNat r) / 256 = leNat r := by have := b.isLt; omega
    simp [leBytes, leNat, h1, h2, leBytes_leNat r]
theorem leNat_lt : ∀ l : List Byte, leNat l < 256 ^ l.length
  | [] => by decide
  | b :: r => by have := b.isLt; have := leNat_lt r; simp only [leNat, List.length_cons, Nat.pow_succ]; omega
theorem addrBytes_leNat (l : List Byte) (n : l.length = 16) : addrBytes (BitVec.ofNat 128 (leNat l.reverse)) = l := by
  have h := leNat_lt l.reverse
  have e := leBytes_leNat l.reverse
  rw [List.length_reverse, n] at h e
  have h' : leNat l.reverse < 2 ^ 128 := h
  rw [addrBytes, BitVec.toNat_ofNat, Nat.mod_eq_of_lt h', e, List.reverse_reverse]
/-- The link-local address is one that a neighbour can ask for. -/
theorem witness_LinkLocal : addrBytes (BitVec.ofNat 128 (leNat linkLocal.reverse)) = linkLocal := addrBytes_leNat _ rfl
/-- A proof of a session that its keys verify is accepted: the verification has no body here (log 8). -/
theorem witness_SessionProved (x : Session) (k : List Byte × List Byte) (h : levelKeys up x.level = some k)
    (e : Config.edVerify k.1 (x.transcript ++ [0x12]) [] = true) (l : Config.mlVerify k.2 (x.transcript ++ [0x12]) [] = true) :
    proveStatus up x [] [] false = 0 := by
  have h1 : openCount up = 0 := by decide +kernel
  have e' : Config.edVerify k.1 (x.transcript ++ [18#8]) [] = true := e
  have l' : Config.mlVerify k.2 (x.transcript ++ [18#8]) [] = true := l
  simp [proveStatus, h, e', l', h1, stOk]

/-- C0 is stretched by its bit TRIP, and hot by HOT or not. -/
def tripped (b : Bool) : State := setFlag State.reset (pwStat 0) 60 b
theorem witness_PowerCompletes :
    (running State.reset = true ∧ (1200 : Nat) ≤ 1200 ∧ (1000 : Nat) ≤ 1000 ∧ (999 : Nat) < 1000 ∧ (105 : Int) ≤ 105 ∧ (104 : Int) < 105 ∧ (115 : Int) ≤ 115 ∧ (114 : Int) < 115) ∧
    (let s1 := setDieHot (tripped true) 0 (decide ((95 : Int) ≤ 50)) (([] : List Int).take State.reset.part.positions)
     flag s1 (pwStat 0) 60 = true ∧ nowNs s1 0 < mget 0 s1.tripAt (0 : Fin 4).val + 10000) ∧
    (let s2 := setFlag (setDieHot (tripped false) 0 (decide ((95 : Int) ≤ 50)) (([] : List Int).take State.reset.part.positions)) (pwStat 0) 60 false
     flag s2 (pwStat 0) 60 = false ∧ limitA s2 0 < 1001 ∧ flag s2 (pwStat 0) 59 = false ∧ stretch s2 0 < 7 ∧ 95 * limitA s2 0 ≤ 100 * limitA s2 0 ∧
       100 * 0 < 95 * limitA s2 0 ∧ mget 0 s2.levelAt 0 + 1000 ≤ nowNs { s2 with ts := [(0, 1000)] } 0 ∧
       mget 0 s2.levelAt 0 + 10000 ≤ nowNs { s2 with ts := [(0, 10000)] } 0) ∧
    (State.reset.part.dieFitted (8 : Fin 9).val = true ∧ State.reset.part.dieFitted (0 : Fin 4).val = true ∧ noShale.part.dieFitted (7 : Fin 9).val = false) ∧
    (flag (setDieHot State.reset 0 true []) (pwStat 0) 59 = true ∧ flag State.reset (pwStat 0) 59 = false) ∧ fwRuns up = true ∧ fwRuns State.reset = false := by decide +kernel

/-- The PCIe link is up, as an endpoint or as a root port. -/
def linkUp : State := setFld State.reset grPcie 62 55 (16 + 2 ^ 5)
def endpointUp : State := setFlag linkUp grPcie 63 true
theorem witness_PcieCompletes :
    (running linkUp = true ∧ pcieUp linkUp = true ∧ pcieUp State.reset = false) ∧
    (pcieEndpoint linkUp = false ∧ pcieEndpoint endpointUp = true ∧ pcieUp endpointUp = true ∧ running endpointUp = true) ∧
    (leNat (bar2Bytes linkUp (16 * 63 + 12) 1) % 2 = 1 ∧ leNat (bar2Bytes { endpointUp with bar2 := [(16 * 63 + 12, 0)] } (16 * 63 + 12) 1) % 2 = 0) ∧
    (2 ^ 30 - 4 + 4 ≤ 2 ^ 30 ∧ 4092 + 4 ≤ 4096) ∧
    (let r : PcieRequest := { fromBoard := true, bar := 2, isWrite := true, offset := 4092, len := 4, data := [1, 2, 3, 4], iommu := none }
     pcieUp endpointUp = true ∧ r.len ≠ 0 ∧ r.data.length = r.len ∧ pcieEndpoint endpointUp = r.fromBoard ∧ r.offset + r.len ≤ 4096) ∧
    (let r : PcieRequest := { fromBoard := false, bar := 0, isWrite := false, offset := 0, len := 512, data := [], iommu := some 64 }
     pcieUp linkUp = true ∧ pcieEndpoint linkUp = r.fromBoard ∧ mapStatus linkUp.part .host 64 r.len = 0 ∧ (pieces 64 r.len).length = 3 ∧
       mapStatus linkUp.part .host (2 ^ 52) 4 ≠ 0) := by decide +kernel

/-! ### The spec's own examples -/

/-- Binary32 encodings as sources. -/
def b32 (ws : List Nat) : List Src := ws.map (ieeeDec 1)
/-- Chapter 2, "a binary32 block into Q8". -/
theorem test_binary32_into_q8 :
    putElems 1 false 0 0 (b32 [0x447F0000, 0x447A0000, 0xC1400000, 0x41A00000, 0x7FC00000, 0x80000000, 0x3D000000] ++ b32 (List.replicate 25 0)) =
      (([0x40, 0x3E, 0xFF, 0x01, 0x80, 0x00, 0x00] : List Byte) ++ List.replicate 25 0, [0x04], 0x0006) := by decide +kernel
/-- Chapter 2, "Q8 into binary16 under each rounding direction": the rows of RNE, RTZ, RDN, RUP and RNA. -/
theorem test_q8_into_binary16 :
    let l : List Src := [.fin 127 10 false, .fin (-127) 10 false, .fin 3 10 false, .nar]
    let row := fun dir => (putElems 5 false 0 dir l).1
    row 0 = [0x00, 0x7C, 0x00, 0xFC, 0x00, 0x6A, 0x00, 0x7E] ∧ row 1 = [0xFF, 0x7B, 0xFF, 0xFB, 0x00, 0x6A, 0x00, 0x7E] ∧
    row 2 = [0xFF, 0x7B, 0x00, 0xFC, 0x00, 0x6A, 0x00, 0x7E] ∧ row 3 = [0x00, 0x7C, 0xFF, 0xFB, 0x00, 0x6A, 0x00, 0x7E] ∧
    row 4 = [0x00, 0x7C, 0x00, 0xFC, 0x00, 0x6A, 0x00, 0x7E] ∧
    (∀ dir ∈ [0, 1, 2, 3, 4], (putElems 5 false 0 dir l).2.2 = 0x000A ∧ (putElems 5 true 0 dir l).2.2 = 0x140A) := by decide +kernel
/-- Chapter 2, "binary64 into QP16 with a low word". -/
theorem test_binary64_into_qp16 :
    let r := putElems 4 false 0 0 (([0x4270000000000000, 0x3FF0000000000001].map (ieeeDec 2)) ++ List.replicate 30 (ieeeDec 2 0))
    r.2.1 = [0xEA, 0xFF] ∧ r.2.2 = 0 ∧ leNat (r.1.take 8) = 0x4000000000000000 ∧ leNat ((r.1.drop 8).take 8) = 0 ∧
      leNat ((r.1.drop 16).take 8) = 0x400000 ∧ leNat ((r.1.drop 24).take 8) = 0x200000000 := by decide +kernel
/-- Chapter 3, "a NaR meets an overflow": the terms, the column, the column without its NaR row, and the drain. -/
theorem test_nar_meets_overflow :
    let t := fun e₁ (a : Int) e₂ (b : Int) => term { mode := 1 } (-6) { c := a, e := e₁ } { c := b, e := e₂ }
    let rows := [t 20 127 20 100, t (-3) 5 (-2) (-7), t (-4) 11 (-4) 3, t (-4) 10 (-4) 3]
    rows = [(some 0x7FFFFFFFFFFF, fOvf), (some (-70), 0), (some 8, fInx), (some 8, fInx)] ∧
    (column (some 0) (sumTerms ((none, fNar) :: rows))).1 = none ∧ (column (some 0) (sumTerms rows)).1 = some 0x7FFFFFFFFFC9 ∧
    ((putElems 1 false 0 0 (([.nar, .fin 3200 (-6) false, .fin (-640) (-6) false] : List Src) ++ List.replicate 29 (.fin 0 (-6) false))).1.take 4,
      (putElems 1 false 0 0 (([.nar, .fin 3200 (-6) false, .fin (-640) (-6) false] : List Src) ++ List.replicate 29 (.fin 0 (-6) false))).2.1) =
      ([0x80, 0x64, 0xEC, 0x00], [0xFF]) := by decide +kernel
/-- Chapter 3, "Q16 digits": high and low digits of the weight and of the activation. -/
theorem test_q16_digits : q16Digit 32704 1 = 128 ∧ q16Digit 32704 0 = -64 ∧ q16Digit (-253) 1 = -1 ∧ q16Digit (-253) 0 = 3 := by decide
/-- Chapter 3, "strict dot products": sets A, B and the set of zeros. -/
theorem test_strict_dot_products :
    let dot := fun ps : List (Nat × Nat) => (laInserts {} (ps.map (fun p => (ieeeDec 2 p.1, ieeeDec 2 p.2)))).1
    let a := dot [(0x43B0000000000000, 0x3FF0000000000000), (0x3FF0000000000000, 0x3C30000000000000), (0xC3B0000000000000, 0x3FF0000000000000)]
    let b := dot [(0x3FF0000000000000, 0x3FF0000000000000), (0x3CA0000000000000, 0x3FF0000000000000), (0x3CA0000000000000, 0x3CB0000000000000)]
    let z := dot [(0x8000000000000000, 0x4014000000000000), (0x4008000000000000, 0)]
    (∀ dir ∈ [0, 1, 2, 3, 4], laRound a 2 dir = (0x3C30000000000000, 0)) ∧ (∀ dir ∈ [0, 3, 4], laRound b 2 dir = (0x3FF0000000000001, 0x1004)) ∧
    (∀ dir ∈ [1, 2], laRound b 2 dir = (0x3FF0000000000000, 0x1004)) ∧ (∀ dir ∈ [0, 1, 3, 4], laRound z 2 dir = (0, 0)) ∧
    laRound z 2 2 = (0x8000000000000000, 0) := by decide +kernel
/-- Chapter 4, "four passes in a row": the starts of B, C and D. -/
theorem test_four_passes :
    let ins := fun w (m : Nat) => ({ m, k := 128, n := 128, wmode := w } : PassInstr)
    let run := fun (start m commit : Nat) => ({ passes := [somePass], prev := some { start, c := 1, m, commit, dir := false, k0 := false } } : Tile)
    startCycle (run 0 300 559) { ins := ins 0 100, q := 0, pc := 0, cycle := 40 } = 300 ∧ startCycle (run 300 100 659) { ins := ins 1 200, q := 0, pc := 0, cycle := 350 } = 528 ∧
    startCycle { run 528 200 987 with wtag := some { wbase := 0, wscl := 0, mode := 0, k := 128, n := 128, digit := 0, inx := false } }
      { ins := { ins 2 50 with dir := true }, q := 0, pc := 0, cycle := 700 } = 988 ∧
    commitAfter (ins 0 300) = 559 ∧ commitAfter (ins 0 50) = 309 := by decide +kernel
/-- Chapter 5, "a load and a search across a NaR block": the register after VLD, its scale and the flags. -/
def nanTile : Tile := tStore (tStore (tStore (tStore (tStore {} 0 [0x80, 0, 0, 100]) 39 [50]) 100 [127]) 0 []) 0x200 [2, 3, 0x80, 0xC0]
theorem test_load_across_nar :
    let x := setSreg nanTile 2 0x200
    let w := wordOf 0x10 (2 * 2 ^ 50 + 2 ^ 46)
    let r := vldDo x w 1 0 0x200 (autoScale x 1 0x200)
    autoScale x 1 0x200 = -52 ∧ lane r.1 2 0 = BitVec.ofNat 64 (2 ^ 63) ∧ lane r.1 2 3 = 0x1900000000000000 ∧ lane r.1 2 39 = 0x1900000000000000 ∧
      lane r.1 2 64 = BitVec.ofNat 64 (2 ^ 63) ∧ lane r.1 2 100 = 0 ∧ lane r.1 2 1 = 0 ∧ r.2 = 0x0006 := by decide +kernel
/-- R160: the check values over the nine bytes "123456789". -/
theorem test_check_values : crc32c 0 [0x31, 0x32, 0x33, 0x34, 0x35, 0x36, 0x37, 0x38, 0x39] = 0xE3069283 ∧
    crc64 0 [0x31, 0x32, 0x33, 0x34, 0x35, 0x36, 0x37, 0x38, 0x39] = 0x995DC9BBDF1939FA := by decide +kernel
/-- Chapter 6, "a strided load": its header. -/
theorem test_strided_load_header :
    let words : List Nat := [0x00040401000003E8, 0x1840000000000000, 0, 0, 0x0100000012340000, 0x0300000000002000, 0x080000003F000000, 0x1001FE0000000000, 0x0900000000000000, 0x3F00000000000000]
    let x := tStore {} 0 (words.flatMap (leBytes 8))
    ((parseStream x false 0 0 0).map (fun st => [st.kind, st.release, st.nbuf, st.bufsz, st.base, st.period, st.outmax, st.prog.length]) : Option (List Nat)) =
      some [0, 0, 2, 8192, 0x100000, 1000, 64, 6] := by decide +kernel
/-- Chapter 8, "a lossy queue under pressure": the marker of cycle 4, and the entries and counts after cycles 0 and 4. -/
def pressed (n pending : Nat) : State := setFld (qcIs 0 true { holding (List.replicate n 0) with pending }) (qcAt 0 0 0x18) 12 0 4095
theorem test_lossy_queue :
    gapMarker 4 = BitVec.ofNat 72 0x800000000000000004 ∧
    (match exec (.qcWrite 0 0 true 7) (pressed 4094 0) with | .next s => level (getQc s 0 0) == 4095 && (getQc s 0 0).pending == 0 | _ => false) = true ∧
    (match exec (.qcWrite 0 0 true 7) (pressed 4095 2) with | .next s => level (getQc s 0 0) == 4095 && (getQc s 0 0).pending == 3 | _ => false) = true ∧
    (match exec (.qcWrite 0 0 true 7) (pressed 4094 3) with
      | .next s => level (getQc s 0 0) == 4095 && (getQc s 0 0).pending == 0 && (getQc s 0 0).entries.getLast? == some (gapMarker 4) &&
          fld s (qcAt 0 0 0x18) 31 16 == 1 && fld s (qcAt 0 0 0x18) 63 32 == 1
      | _ => false) = true := by decide +kernel
/-- Chapter 11, "one address under two maps": its first column; the second by R319 from 0x123400 = 1,192,960 (the column
prints 1,193,984). -/
def hashed (s : State) (g : Nat) : State :=
  wr (wr (wr (setFld s hbmMap 62 59 g) (hbmAt 0 8) (BitVec.ofNat 64 0x0000000610000000)) (hbmAt 0 16) (BitVec.ofNat 64 0x0000000830000072)) (hbmAt 0 24) (BitVec.ofNat 64 0x0000000A50000094)
theorem test_one_address_two_maps :
    (let s := hashed State.reset 4
     hbmCh s 0x12340000 = 64 ∧ hbmDie s 0x12340000 = 0 ∧ hbmJ s 0x12340000 = 16 ∧ hbmL s 0x12340000 = 0x246000 ∧ hbmPc s 0x12340000 = 0 ∧ hbmRow s 0x12340000 = 36 ∧
       hbmBank s 0x12340000 = 9 ∧ hbmPortEp s.part 16 = 122) ∧
    (let s := hashed { State.reset with part := .m12x2 } 0
     hbmCh s 0x12340000 = 64 ∧ hbmL s 0x12340000 = 0x184500 ∧ hbmRow s 0x12340000 = 24) := by decide +kernel
/-- Chapter 1, "locating a scratch address", and chapter 12, "naming a byte". -/
theorem test_addresses :
    classify .m8x2 0x100088C00000 = .scratch ⟨2, 17⟩ 0x400000 ∧ classify .m8x2 0x100022800000 = .scratch ⟨0, 69⟩ 0 ∧
    classify .m8x2 0x100022900000 = .scratch ⟨0, 69⟩ 0x100000 ∧
    pod 0x03546 = 3 ∧ (List.range 4).map (coord 0x03546) = [2, 5, 0, 6] ∧ twinOf 0x03546 = 0x03547 ∧
    witnessOf (objSetN State.reset 0x0A30 4 8) 0x03546 = some 0x03544 ∧ addrDev (BitVec.ofNat 64 0x0354601234000000) = 0x03546 := by decide +kernel

end Sys2Proof.Tests
end

section
/-! SUPPORT. The commands keep the part and the queue. -/

namespace Sys2Proof.Machine
open Sys2Proof

/-- Every command keeps what every shared operation keeps: the part, the queue, and the legality of the state. -/
theorem exec_keeps {a s : State} (h : Keeps a s) (c : Instr) : OutKeeps a (exec c s) :=
  match c with
  | .csrWrite p => execCsrWrite_keeps h p
  | .read p => execRead_keeps h p
  | .write p => execWrite_keeps h p
  | .readResp p => execReadResp_keeps h p
  | .writeAck p => execWriteAck_keeps h p
  | .push p => execPush_keeps h p
  | .pushAck p => execPushAck_keeps h p
  | .credit p => execCredit_keeps h p
  | .reserve p => execReserve_keeps h p
  | .reserveAck p => execReserveAck_keeps h p
  | .grant p => execGrant_keeps h p
  | .endmark p => execEndmark_keeps h p
  | .signalPacket p => execSignalPacket_keeps h p
  | .signalAck p => execSignalAck_keeps h p
  | .mirrorWr p note => execMirrorWr_keeps h p note
  | .mirrorAck p => execMirrorAck_keeps h p
  | .mgmt p => execMgmt_keeps h p
  | .irq p => execIrq_keeps h p
  | .fenceDone d ep => execFenceDone_keeps h d ep
  | .routerHop d router p => execRouterHop_keeps h d router p
  | .linkReplay d link got => execLinkReplay_keeps h d link got
  | .ucieModule d bridge module lost => execUcieModule_keeps h d bridge module lost
  | .initiatorTimeout node tag => execInitiatorTimeout_keeps h node tag
  | .nocRtw d v => execNocRtw_keeps h d v
  | .swap d => execSwap_keeps h d
  | .routeSwapDone d => execRouteSwapDone_keeps h d
  | .nocRouteFail d => execNocRouteFail_keeps h d
  | .fenceDrain d ep => execFenceDrain_keeps h d ep
  | .fenceAbandon d ep => execFenceAbandon_keeps h d ep
  | .unfence d ep => execUnfence_keeps h d ep
  | .tpDb t q v => execTpDb_keeps h t q v
  | .tpGdb d half v => execTpGdb_keeps h d half v
  | .tpSqWrite t q v => execTpSqWrite_keeps h t q v
  | .launchFetch t q net => execLaunchFetch_keeps h t q net
  | .sstart t q => execSstart_keeps h t q
  | .swait t q => execSwait_keeps h t q
  | .srel t q => execSrel_keeps h t q
  | .swrt t q => execSwrt_keeps h t q
  | .scan t q => execScan_keeps h t q
  | .pass t q => execPass_keeps h t q
  | .passStart t => execPassStart_keeps h t
  | .passCycle t fault => execPassCycle_keeps h t fault
  | .passAbortReport t seq => execPassAbortReport_keeps h t seq
  | .xwait t q => execXwait_keeps h t q
  | .kernelLaunch t q => execKernelLaunch_keeps h t q
  | .kernelEnd t fault => execKernelEnd_keeps h t fault
  | .sli t => execSli_keeps h t
  | .saddi t => execSaddi_keeps h t
  | .bnzd t => execBnzd_keeps h t
  | .br t => execBr_keeps h t
  | .sld t => execSld_keeps h t
  | .sst t => execSst_keeps h t
  | .vld t => execVld_keeps h t
  | .vst t fault => execVst_keeps h t fault
  | .vcvt t fault => execVcvt_keeps h t fault
  | .vscl t => execVscl_keeps h t
  | .vtag t => execVtag_keeps h t
  | .viota t => execViota_keeps h t
  | .vadd t => execVadd_keeps h t
  | .vsub t => execVsub_keeps h t
  | .vmul t => execVmul_keeps h t
  | .vneg t => execVneg_keeps h t
  | .vabs t => execVabs_keeps h t
  | .vcmp t => execVcmp_keeps h t
  | .vsel t => execVsel_keeps h t
  | .vrot t => execVrot_keeps h t
  | .vand t => execVand_keeps h t
  | .vor t => execVor_keeps h t
  | .vxor t => execVxor_keeps h t
  | .vshl t => execVshl_keeps h t
  | .vshr t => execVshr_keeps h t
  | .mlog t => execMlog_keeps h t
  | .vmin t => execVmin_keeps h t
  | .vmax t => execVmax_keeps h t
  | .vrmin t => execVrmin_keeps h t
  | .vrmax t => execVrmax_keeps h t
  | .vpoly t => execVpoly_keeps h t
  | .vcrc t => execVcrc_keeps h t
  | .vmsum t => execVmsum_keeps h t
  | .fadd t => execFadd_keeps h t
  | .fsub t => execFsub_keeps h t
  | .fmul t => execFmul_keeps h t
  | .ffma t => execFfma_keeps h t
  | .fdiv t => execFdiv_keeps h t
  | .fsqrt t => execFsqrt_keeps h t
  | .fcvt t => execFcvt_keeps h t
  | .fcmp t => execFcmp_keeps h t
  | .fmin t => execFmin_keeps h t
  | .fmax t => execFmax_keeps h t
  | .fminnum t => execFminnum_keeps h t
  | .fmaxnum t => execFmaxnum_keeps h t
  | .lclr t => execLclr_keeps h t
  | .ldot t fault => execLdot_keeps h t fault
  | .lsum t fault => execLsum_keeps h t fault
  | .lssq t fault => execLssq_keeps h t fault
  | .lsabs t fault => execLsabs_keeps h t fault
  | .lrnd t => execLrnd_keeps h t
  | .lsave t => execLsave_keeps h t
  | .ladd t fault => execLadd_keeps h t fault
  | .kernelLimit t => execKernelLimit_keeps h t
  | .kernelAbortReport t => execKernelAbortReport_keeps h t
  | .kernelMemoryApply t => execKernelMemoryApply_keeps h t
  | .mtAccsetWrite t n v => execMtAccsetWrite_keeps h t n v
  | .mtAccsetApply t n => execMtAccsetApply_keeps h t n
  | .abortUnit t id => execAbortUnit_keeps h t id
  | .abortLaunch t q pos net => execAbortLaunch_keeps h t q pos net
  | .tpEnd t q => execTpEnd_keeps h t q
  | .signal t q => execSignal_keeps h t q
  | .wait t q => execWait_keeps h t q
  | .chkpt t q => execChkpt_keeps h t q
  | .hint t q => execHint_keeps h t q
  | .waitLimit t q => execWaitLimit_keeps h t q
  | .launchCommit t q net => execLaunchCommit_keeps h t q net
  | .completionRecordHead d cq net => execCompletionRecordHead_keeps h d cq net
  | .tpCqdWrite d cq v => execTpCqdWrite_keeps h d cq v
  | .tpCqhWrite d cq v => execTpCqhWrite_keeps h d cq v
  | .preempt t => execPreempt_keeps h t
  | .suspend t => execSuspend_keeps h t
  | .programResume t => execProgramResume_keeps h t
  | .programRestart t q => execProgramRestart_keeps h t q
  | .powerDomainOff t => execPowerDomainOff_keeps h t
  | .powerDomainWake t => execPowerDomainWake_keeps h t
  | .streamRequestIssue t => execStreamRequestIssue_keeps h t
  | .seta t c => execSeta_keeps h t c
  | .setah t c => execSetah_keeps h t c
  | .sett t c => execSett_keeps h t c
  | .adda t c => execAdda_keeps h t c
  | .seFor t c => execSeFor_keeps h t c
  | .seNext t c => execSeNext_keeps h t c
  | .move t c => execMove_keeps h t c
  | .gather t c => execGather_keeps h t c
  | .flush t c => execFlush_keeps h t c
  | .streamFence t c => execStreamFence_keeps h t c
  | .streamEnd t c => execStreamEnd_keeps h t c
  | .streamResponse p => execStreamResponse_keeps h p
  | .seCancel t v => execSeCancel_keeps h t v
  | .streamCancelReport t c => execStreamCancelReport_keeps h t c
  | .seClear t v => execSeClear_keeps h t v
  | .stall d => execStall_keeps h d
  | .qcWrite d qc valid data => execQcWrite_keeps h d qc valid data
  | .qcRead d qc ecc => execQcRead_keeps h d qc ecc
  | .qcEnable d qc v => execQcEnable_keeps h d qc v
  | .qcDisable d qc => execQcDisable_keeps h d qc
  | .qcPush d qc => execQcPush_keeps h d qc
  | .pushwait d qc => execPushwait_keeps h d qc
  | .endpointRequest r isWrite fab addr len ord data tag => execEndpointRequest_keeps h r isWrite fab addr len ord data tag
  | .bramAccess r m portB a ecc => execBramAccess_keeps h r m portB a ecc
  | .lrPllWrite d u v => execLrPllWrite_keeps h d u v
  | .pllLock d u => execPllLock_keeps h d u
  | .locklost d u => execLocklost_keeps h d u
  | .clockSelect r k v => execClockSelect_keeps h r k v
  | .clockSwitchDone r k => execClockSwitchDone_keeps h r k
  | .forced r k => execForced_keeps h r k
  | .clockDivide r k v => execClockDivide_keeps h r k v
  | .clockEnable r k => execClockEnable_keeps h r k
  | .clockDisable r k => execClockDisable_keeps h r k
  | .overspeed r k edges => execOverspeed_keeps h r k edges
  | .ioBank d supply18 => execIoBank_keeps h d supply18
  | .ioBankLock d => execIoBankLock_keeps h d
  | .ioDelayStep d pin output => execIoDelayStep_keeps h d pin output
  | .cfgBegin r => execCfgBegin_keeps h r
  | .cfgFetch r => execCfgFetch_keeps h r
  | .cfgCommit r => execCfgCommit_keeps h r
  | .commitReadbackDone r => execCommitReadbackDone_keeps h r
  | .cfgRelease r => execCfgRelease_keeps h r
  | .cfgHalt r => execCfgHalt_keeps h r
  | .cfgResume r => execCfgResume_keeps h r
  | .cfgClear r => execCfgClear_keeps h r
  | .cfgClearDone r => execCfgClearDone_keeps h r
  | .cfgFetchDone r => execCfgFetchDone_keeps h r
  | .cfgFrame r => execCfgFrame_keeps h r
  | .loadPortWrite r data => execLoadPortWrite_keeps h r data
  | .cfgScrubRead r word ecc again => execCfgScrubRead_keeps h r word ecc again
  | .amberN low => execAmberN_keeps h low
  | .freeze v => execFreeze_keeps h v
  | .freezeMessage port pair hops => execFreezeMessage_keeps h port pair hops
  | .thaw v => execThaw_keeps h v
  | .readout => execReadout_keeps h
  | .hbmAccept p => execHbmAccept_keeps h p
  | .hbmAdmit d ch pc => execHbmAdmit_keeps h d ch pc
  | .hbmCommandSlot d ch pc errs => execHbmCommandSlot_keeps h d ch pc errs
  | .refresh d ch pc bank seen => execRefresh_keeps h d ch pc bank seen
  | .refreshManagement d ch pc bank threshold => execRefreshManagement_keeps h d ch pc bank threshold
  | .sentinelRead d ch pc ok => execSentinelRead_keeps h d ch pc ok
  | .patrolScrub d ch pc burst ecc => execPatrolScrub_keeps h d ch pc burst ecc
  | .hbmCheck d v => execHbmCheck_keeps h d v
  | .checkWindow d failmask => execCheckWindow_keeps h d failmask
  | .recheckDue d ch => execRecheckDue_keeps h d ch
  | .hbmRepair d v => execHbmRepair_keeps h d v
  | .hbmDlydat d v => execHbmDlydat_keeps h d v
  | .apply d ch => execApply_keeps h d ch
  | .applyAtRefresh d ch pc => execApplyAtRefresh_keeps h d ch pc
  | .trained d ch on => execTrained_keeps h d ch on
  | .zero d ch => execZero_keeps h d ch
  | .zeroDone d ch => execZeroDone_keeps h d ch
  | .lock => execLock_keeps h
  | .fread p => execFread_keeps h p
  | .fwrite p => execFwrite_keeps h p
  | .fatomic p => execFatomic_keeps h p
  | .fcopy p => execFcopy_keeps h p
  | .fsignal p => execFsignal_keeps h p
  | .fpush p => execFpush_keeps h p
  | .freserve p => execFreserve_keeps h p
  | .fcredit p => execFcredit_keeps h p
  | .fgrant p => execFgrant_keeps h p
  | .fendmark p => execFendmark_keeps h p
  | .fabricResponse p => execFabricResponse_keeps h p
  | .admitWait p age => execAdmitWait_keeps h p age
  | .fabricRetry id => execFabricRetry_keeps h id
  | .fabricTimeout id => execFabricTimeout_keeps h id
  | .holdLimit id => execHoldLimit_keeps h id
  | .recordExpiry key => execRecordExpiry_keeps h key
  | .tokenGain => execTokenGain_keeps h
  | .fxCqdb ring v => execFxCqdb_keeps h ring v
  | .descriptor ring => execDescriptor_keeps h ring
  | .heartbeatSend => execHeartbeatSend_keeps h
  | .heartbeat direct => execHeartbeat_keeps h direct
  | .heartbeatLoss => execHeartbeatLoss_keeps h
  | .failNotice => execFailNotice_keeps h
  | .leaseSend => execLeaseSend_keeps h
  | .lease dev epoch => execLease_keeps h dev epoch
  | .leaseResponse granted epoch => execLeaseResponse_keeps h granted epoch
  | .leaseTimeout => execLeaseTimeout_keeps h
  | .yield v => execYield_keeps h v
  | .yieldComplete => execYieldComplete_keeps h
  | .twinLinkActive info => execTwinLinkActive_keeps h info
  | .twinSync rx => execTwinSync_keeps h rx
  | .cutoverStart => execCutoverStart_keeps h
  | .cutover epoch => execCutover_keeps h epoch
  | .restore v => execRestore_keeps h v
  | .mirrorAdd => execMirrorAdd_keeps h
  | .mirrorRemove => execMirrorRemove_keeps h
  | .mirrorChangeApply rx => execMirrorChangeApply_keeps h rx
  | .mirrorSyncDone entry => execMirrorSyncDone_keeps h entry
  | .devnum v => execDevnum_keeps h v
  | .portBringUp port => execPortBringUp_keeps h port
  | .portTakeDown port => execPortTakeDown_keeps h port
  | .portRetrain port => execPortRetrain_keeps h port
  | .portTest port => execPortTest_keeps h port
  | .portStageComplete port => execPortStageComplete_keeps h port
  | .stageTimeout port => execStageTimeout_keeps h port
  | .slip lane => execSlip_keeps h lane
  | .cdrLockLoss lanes => execCdrLockLoss_keeps h lanes
  | .linkFlit port message parity k => execLinkFlit_keeps h port message parity k
  | .replayTimeout port => execReplayTimeout_keeps h port
  | .capabilityRecord port r => execCapabilityRecord_keeps h port r
  | .readyTimeout port => execReadyTimeout_keeps h port
  | .laneErrorWindow lane errors => execLaneErrorWindow_keeps h lane errors
  | .transitPacket arrival dst age longway spent p => execTransitPacket_keeps h arrival dst age longway spent p
  | .uplinkRoute p => execUplinkRoute_keeps h p
  | .cvFeed u data nb last => execCvFeed_keeps h u data nb last
  | .cvClear u => execCvClear_keeps h u
  | .cvBlockDone u => execCvBlockDone_keeps h u
  | .cvCompare u => execCvCompare_keeps h u
  | .cvGo u v => execCvGo_keeps h u v
  | .cvRunDone u => execCvRunDone_keeps h u
  | .cvTwinChunk u twinValue => execCvTwinChunk_keeps h u twinValue
  | .tileMoveFault d v => execTileMoveFault_keeps h d v
  | .tileMoveRotate d v readback => execTileMoveRotate_keeps h d v readback
  | .tileMoved d => execTileMoved_keeps h d
  | .clusterSpared d v => execClusterSpared_keeps h d v
  | .sramScrub d target ecc => execSramScrub_keeps h d target ecc
  | .telemetrySample die tempMilli powerMilli amps stackTemps => execTelemetrySample_keeps h die tempMilli powerMilli amps stackTemps
  | .beat => execBeat_keeps h
  | .watchdogExpiry => execWatchdogExpiry_keeps h
  | .lockstepMismatch => execLockstepMismatch_keeps h
  | .routerFault d router => execRouterFault_keeps h d router
  | .dictRead via es => execDictRead_keeps h via es
  | .dictWrite via es => execDictWrite_keeps h via es
  | .describe via es => execDescribe_keeps h via es
  | .thaunoFragment src srcPort dg => execThaunoFragment_keeps h src srcPort dg
  | .sessionOpen src srcPort level x25519 kem nonce => execSessionOpen_keeps h src srcPort level x25519 kem nonce
  | .prove sess sigEd sigMl late => execProve_keeps h sess sigEd sigMl late
  | .sessionClose sess => execSessionClose_keeps h sess
  | .subscribe sess => execSubscribe_keeps h sess
  | .eventAck sess lsn => execEventAck_keeps h sess lsn
  | .eventResend sess => execEventResend_keeps h sess
  | .sessionTimeout sess => execSessionTimeout_keeps h sess
  | .reassemblyTimeout sess => execReassemblyTimeout_keeps h sess
  | .flashWriteDone => execFlashWriteDone_keeps h
  | .policyApply obj => execPolicyApply_keeps h obj
  | .mbGo ch v => execMbGo_keeps h ch v
  | .regionLoad => execRegionLoad_keeps h
  | .regionClear => execRegionClear_keeps h
  | .regionHalt => execRegionHalt_keeps h
  | .regionResume => execRegionResume_keeps h
  | .ownerKeyWrite mldsa key => execOwnerKeyWrite_keeps h mldsa key
  | .manifest host m => execManifest_keeps h host m
  | .updData host data => execUpdData_keeps h host data
  | .updCommit host => execUpdCommit_keeps h host
  | .updAbort host => execUpdAbort_keeps h host
  | .updReset => execUpdReset_keeps h
  | .nonce v => execNonce_keeps h v
  | .report => execReport_keeps h
  | .stbyGood => execStbyGood_keeps h
  | .pwrGoodRise gmode => execPwrGoodRise_keeps h gmode
  | .bootStage outcome => execBootStage_keeps h outcome
  | .fabricReady => execFabricReady_keeps h
  | .recoveryFetch twinServes m image => execRecoveryFetch_keeps h twinServes m image
  | .recoveryRetry => execRecoveryRetry_keeps h
  | .pwrGoodFall => execPwrGoodFall_keeps h
  | .rstN => execRstN_keeps h
  | .railFault die => execRailFault_keeps h die
  | .refclkLoss both => execRefclkLoss_keeps h both
  | .currentSample d amps overFor dieTemp stackTemp => execCurrentSample_keeps h d amps overFor dieTemp stackTemp
  | .temperatureLimit die temp => execTemperatureLimit_keeps h die temp
  | .powerCapUpdate pkgPower => execPowerCapUpdate_keeps h pkgPower
  | .msix entry => execMsix_keeps h entry
  | .pcieLinkDown => execPcieLinkDown_keeps h
  | .markerLock lane marker frames => execMarkerLock_keeps h lane marker frames
  | .cdrLock lane => execCdrLock_keeps h lane
  | .prbsLock lane errors => execPrbsLock_keeps h lane errors
  | .contextReuse peer => execContextReuse_keeps h peer
  | .clusterSpareDone d readback => execClusterSpareDone_keeps h d readback
  | .hbmRepairDone d spare bad => execHbmRepairDone_keeps h d spare bad
  | .neighborSolicitation target src => execNeighborSolicitation_keeps h target src
  | .pcieLinkUp speed width => execPcieLinkUp_keeps h speed width
  | .pcieRequest r => execPcieRequest_keeps h r
  | .stbyGoodFall => execStbyGoodFall_keeps h
  | .ucieLaneRepair d bridge module => execUcieLaneRepair_keeps h d bridge module
  | .controlCompareMismatch t => execControlCompareMismatch_keeps h t
  | .shaleCompareMismatch shale => execShaleCompareMismatch_keeps h shale

/-- Settles O5: what `Keeps` says of the state before the command itself. -/
theorem commandsKeepQueue : Obligations.CommandsKeepQueue := by
  intro c s t e
  obtain ⟨hpart, hqueue, -⟩ := exec_keeps (Keeps.refl s) c t e
  exact ⟨hpart, hqueue⟩

end Sys2Proof.Machine
end

section
/-! SUPPORT. The idle step: what its clocked part advances, and what its event feeds leave alone. -/

namespace Sys2Proof.Machine
open Sys2Proof

/-- `u` has the counters, the registers, the tiles, HBM, the network and the regions of `s`: what R290 stops with the clocks. -/
def SameClocked (s u : State) : Prop :=
  u.ts = s.ts ∧ u.csr = s.csr ∧ u.tiles = s.tiles ∧ u.hbm = s.hbm ∧ u.noc = s.noc ∧ u.regions = s.regions

theorem SameClocked.refl (s : State) : SameClocked s s := ⟨rfl, rfl, rfl, rfl, rfl, rfl⟩

theorem SameClocked.trans {s u v : State} (h : SameClocked s u) (k : SameClocked u v) : SameClocked s v := by
  obtain ⟨hts, hcsr, htiles, hhbm, hnoc, hregions⟩ := h
  obtain ⟨kts, kcsr, ktiles, khbm, knoc, kregions⟩ := k
  exact ⟨kts.trans hts, kcsr.trans hcsr, ktiles.trans htiles, khbm.trans hhbm, knoc.trans hnoc, kregions.trans hregions⟩

/-- R461: an EVENT of a feed changes its session and leaves as a datagram, and reaches nothing else. -/
theorem feedOne_sameClocked (s : State) (x : Session) : SameClocked s (feedOne s x) := by
  unfold feedOne
  dsimp only
  split
  case h_1 => exact SameClocked.refl s
  case h_2 =>
    split
    · exact ⟨rfl, rfl, rfl, rfl, rfl, rfl⟩
    · exact SameClocked.refl s

theorem feedPump_sameClocked (s : State) : SameClocked s (feedPump s) := by
  unfold feedPump
  split
  · exact foldl_inv (SameClocked s) feedOne (fun _ x h => h.trans (feedOne_sameClocked _ x)) _ _ (SameClocked.refl s)
  · exact SameClocked.refl s

/-- Counters that are advanced in turn: each listed once is one ahead, the others stand. -/
theorem mget_foldl_tickDie (d : Nat) : ∀ (l : List Nat) (s : State), l.Nodup →
    mget 0 (l.foldl tickDie s).ts d = if d ∈ l then mget 0 s.ts d + 1 else mget 0 s.ts d
  | [], s, _ => by simp
  | e :: l, s, hl => by
    obtain ⟨he, hl⟩ := List.nodup_cons.1 hl
    rw [List.foldl_cons, mget_foldl_tickDie d l _ hl]
    by_cases hd : d = e
    · subst hd; simp [tickDie, he]
    · simp [tickDie, mget_mset_ne _ _ _ _ hd, hd]

/-- Advancing counters changes no field but the counters. -/
theorem foldl_tickDie_eq (l : List Nat) : ∀ s : State, l.foldl tickDie s = { s with ts := (l.foldl tickDie s).ts } := by
  induction l with
  | nil => exact fun _ => rfl
  | cons e l ih => exact fun s => ih (tickDie s e)

/-- R14: while the dies run, the nine counters advance by one. -/
theorem tickTs_ts {s : State} (h : running s = true) (d : Nat) :
    mget 0 (tickTs s).ts d = if d < 9 then mget 0 s.ts d + 1 else mget 0 s.ts d := by
  simpa [tickTs, h] using mget_foldl_tickDie d (List.range 9) s List.nodup_range

theorem step_idle {s : State} (h : s.pending = []) : step s = .next (tick s) := by
  simp [step, h]

theorem tick_running {s : State} (h : running s = true) :
    tick s = feedPump ([0, 1].foldl mbPump (copyPump (wardenTick (pathTick (linkTick (hourTick (tickTs (logicTick s)))))))) := by
  simp [tick, tickClocked, h]

theorem tick_stopped {s : State} (h : running s = false) : tick s = feedPump s := by
  simp [tick, tickClocked, h]

/-- Settles O2: an idle step is `tick`, whose clocked part runs or stands with the dies and whose feeds reach no clocked field. -/
theorem idleStepTicks : Obligations.IdleStepTicks := by
  refine ⟨fun s hidle => ⟨tick s, step_idle hidle, ?_⟩, fun s hrun => ⟨fun d hd => ?_, fun d hd => ?_, ?_⟩⟩
  · obtain ⟨hpart, hqueue, -⟩ := tick_keeps (Keeps.refl s)
    refine ⟨hqueue.trans hidle, hpart, fun hstop => ?_, tick_running⟩
    rw [tick_stopped hstop]
    exact feedPump_sameClocked s
  · rw [tickTs_ts hrun, if_pos hd]
  · rw [tickTs_ts hrun, if_neg (by omega)]
  · unfold tickTs
    rw [if_pos hrun]
    exact foldl_tickDie_eq (List.range 9) s

end Sys2Proof.Machine
end

section
/-! SUPPORT. HBM as a memory: where a byte lies, that no two bytes lie at one place, and what an access leaves; storage reads back. -/

namespace Sys2Proof.Machine
open Sys2Proof

/-! ### Where a byte of HBM lies depends on the part and on the map's registers (R319-R321) -/

/-- `u` is the same part as `s`, and the registers of the HBM map read in it as in `s`. -/
structure SameMap (s u : State) : Prop where
  part : u.part = s.part
  map : ∀ o, o < 32 → rd u (hbmAt 0 o) = rd s (hbmAt 0 o)

theorem SameMap.fld_eq {s u : State} (h : SameMap s u) {o : Nat} (ho : o < 32) (hi lo : Nat) :
    fld u (hbmAt 0 o) hi lo = fld s (hbmAt 0 o) hi lo := by
  rw [fld, fld, h.map o ho]

theorem SameMap.hbmG_eq {s u : State} (h : SameMap s u) : hbmG u = hbmG s := by
  rw [hbmG, hbmG, hbmMap, h.fld_eq (by decide)]

theorem SameMap.hbmL_eq {s u : State} (h : SameMap s u) (a : Nat) : hbmL u a = hbmL s a := by
  rw [hbmL, hbmL, h.hbmG_eq, h.part]

theorem SameMap.hbmCh_eq {s u : State} (h : SameMap s u) (a : Nat) : hbmCh u a = hbmCh s a := by
  rw [hbmCh, hbmCh, h.hbmG_eq, h.part]

theorem SameMap.hashBit_eq {s u : State} (h : SameMap s u) (l : Nat) {i : Nat} (hi : i < 6) : hashBit u l i = hashBit s l i := by
  simp only [hashBit, h.fld_eq (show 8 + 8 * (i / 2) < 32 by omega)]

theorem SameMap.hbmPc_eq {s u : State} (h : SameMap s u) (a : Nat) : hbmPc u a = hbmPc s a := by
  rw [hbmPc, hbmPc, h.hbmL_eq, h.hashBit_eq _ (by decide)]

theorem hbmBank_eq_hashBits (s : State) (a : Nat) : hbmBank s a = hashBit s (hbmL s a) 1 + hashBit s (hbmL s a) 2 * 2 +
    hashBit s (hbmL s a) 3 * 4 + hashBit s (hbmL s a) 4 * 8 + hashBit s (hbmL s a) 5 * 16 := by
  have hrange : List.range 5 = [0, 1, 2, 3, 4] := by decide
  simp only [hbmBank, hrange, List.foldl_cons, List.foldl_nil, Nat.zero_add, Nat.reduceAdd, Nat.reducePow, Nat.mul_one]

theorem SameMap.hbmBank_eq {s u : State} (h : SameMap s u) (a : Nat) : hbmBank u a = hbmBank s a := by
  rw [hbmBank_eq_hashBits, hbmBank_eq_hashBits, h.hbmL_eq, h.hashBit_eq _ (i := 1) (by decide), h.hashBit_eq _ (i := 2) (by decide),
    h.hashBit_eq _ (i := 3) (by decide), h.hashBit_eq _ (i := 4) (by decide), h.hashBit_eq _ (i := 5) (by decide)]

theorem SameMap.hbmKey_eq {s u : State} (h : SameMap s u) (a : Nat) : hbmKey u a = hbmKey s a := by
  simp only [hbmKey, hbmDie, hbmJ, h.hbmCh_eq, h.hbmL_eq, h.hbmBank_eq, h.hbmPc_eq]

/-! ### No two bytes lie at one place (R320, R321) -/

/-- One selector of a hash: the bit of the row that it names, or none. -/
theorem hashStep_inj {l l' b b' : Nat} (c : Nat) (hrow : l / 2 ^ 16 = l' / 2 ^ 16) (hb : b < 2) (hb' : b' < 2)
    (h : (if c = 0 then b else (b + l / 2 ^ (15 + c)) % 2) = if c = 0 then b' else (b' + l' / 2 ^ (15 + c)) % 2) : b = b' := by
  cases c with
  | zero => simpa using h
  | succ c =>
    have hc : l / 2 ^ (15 + (c + 1)) = l' / 2 ^ (15 + (c + 1)) := by
      rw [show 15 + (c + 1) = 16 + c by omega, Nat.pow_add, ← Nat.div_div_eq_div_mul, ← Nat.div_div_eq_div_mul, hrow]
    rw [if_neg (Nat.succ_ne_zero c), if_neg (Nat.succ_ne_zero c), hc] at h
    omega

theorem hashStep_lt {l b : Nat} (c : Nat) (hb : b < 2) : (if c = 0 then b else (b + l / 2 ^ (15 + c)) % 2) < 2 := by
  split <;> omega

/-- The bit that a fold over the selectors starts from shows in its result when the row is the same. -/
theorem hashFold_inj {l l' : Nat} (sel : Nat → Nat) (hrow : l / 2 ^ 16 = l' / 2 ^ 16) : ∀ (ts : List Nat) (b b' : Nat), b < 2 → b' < 2 →
    ts.foldl (fun b t => if sel t = 0 then b else (b + l / 2 ^ (15 + sel t)) % 2) b =
      ts.foldl (fun b t => if sel t = 0 then b else (b + l' / 2 ^ (15 + sel t)) % 2) b' → b = b'
  | [], _, _, _, _, h => h
  | t :: ts, _, _, hb, hb', h =>
    hashStep_inj (sel t) hrow hb hb' (hashFold_inj sel hrow ts _ _ (hashStep_lt _ hb) (hashStep_lt _ hb') h)

/-- R321: within a row, a hashed bit tells its own bit. -/
theorem hashBit_inj {s : State} {l l' i : Nat} (hrow : l / 2 ^ 16 = l' / 2 ^ 16) (h : hashBit s l i = hashBit s l' i) :
    l / 2 ^ (10 + i) % 2 = l' / 2 ^ (10 + i) % 2 :=
  hashFold_inj _ hrow _ _ _ (Nat.mod_lt _ (by decide)) (Nat.mod_lt _ (by decide)) h

theorem hashBit_lt (s : State) (l i : Nat) : hashBit s l i < 2 :=
  foldl_inv (· < 2) _ (fun _ _ hb => hashStep_lt _ hb) _ _ (Nat.mod_lt _ (by decide))

theorem hbmPc_lt (s : State) (a : Nat) : hbmPc s a < 2 := hashBit_lt s _ 0

theorem hbmBank_lt (s : State) (a : Nat) : hbmBank s a < 32 := by
  have hbit := hashBit_lt s (hbmL s a)
  have := hbit 1; have := hbit 2; have := hbit 3; have := hbit 4; have := hbit 5
  rw [hbmBank_eq_hashBits]
  omega

/-- The bank and the pseudo-channel tell every hashed bit. -/
theorem hashBit_eq_of_bank {s : State} {a b : Nat} (hbank : hbmBank s a = hbmBank s b) (hpc : hbmPc s a = hbmPc s b) :
    ∀ i, i < 6 → hashBit s (hbmL s a) i = hashBit s (hbmL s b) i := by
  have ha := hashBit_lt s (hbmL s a)
  have hb := hashBit_lt s (hbmL s b)
  rw [hbmBank_eq_hashBits, hbmBank_eq_hashBits] at hbank
  have := ha 1; have := ha 2; have := ha 3; have := ha 4; have := ha 5
  have := hb 1; have := hb 2; have := hb 3; have := hb 4; have := hb 5
  exact fun
    | 0, _ => hpc
    | 1, _ | 2, _ | 3, _ | 4, _ | 5, _ => by omega
    | _ + 6, hi => absurd hi (by omega)

/-- A channel-local address is its row, its hashed bits and its column. -/
theorem eq_of_row_bits_column {l l' : Nat} (hrow : l / 2 ^ 16 = l' / 2 ^ 16)
    (hbits : ∀ i, i < 6 → l / 2 ^ (10 + i) % 2 = l' / 2 ^ (10 + i) % 2) (hcol : l % 2 ^ 10 = l' % 2 ^ 10) : l = l' := by
  refine Nat.eq_of_testBit_eq fun j => ?_
  obtain hj | hj | hj : j < 10 ∨ (10 ≤ j ∧ j < 16) ∨ 16 ≤ j := by omega
  · simpa only [Nat.testBit_mod_two_pow, hj, decide_true, Bool.true_and] using congrArg (Nat.testBit · j) hcol
  · have hbit := hbits (j - 10) (by omega)
    rw [Nat.add_sub_cancel' hj.1] at hbit
    rw [Nat.testBit_eq_decide_div_mod_eq, Nat.testBit_eq_decide_div_mod_eq, hbit]
  · simpa only [Nat.testBit_div_two_pow, Nat.sub_add_cancel hj] using congrArg (Nat.testBit · (j - 16)) hrow

theorem hbmChannels_pos (p : Part) : 0 < hbmChannels p := by cases p <;> decide

theorem hbmCh_lt (s : State) (a : Nat) : hbmCh s a < hbmChannels s.part := Nat.mod_lt _ (hbmChannels_pos _)

/-- R318: a die has fewer than 64 channels. -/
theorem hbmJ_lt (s : State) (a : Nat) : hbmJ s a < 64 := by
  have hch := hbmCh_lt s a
  have hpart : hbmChannels s.part ≤ 192 := by cases s.part <;> decide
  unfold hbmJ
  omega

theorem hbmL_div (s : State) (a : Nat) : hbmL s a / 2 ^ hbmG s = a / 2 ^ hbmG s / hbmChannels s.part := by
  have hlt : a % 2 ^ hbmG s < 2 ^ hbmG s := Nat.mod_lt _ (Nat.two_pow_pos _)
  rw [hbmL, Nat.mul_comm, Nat.mul_add_div (Nat.two_pow_pos _), Nat.div_eq_of_lt hlt, Nat.add_zero]

theorem hbmL_mod (s : State) (a : Nat) : hbmL s a % 2 ^ hbmG s = a % 2 ^ hbmG s := by
  rw [hbmL, Nat.mul_comm, Nat.mul_add_mod, Nat.mod_mod]

/-- R319: an address is its channel and its address within the channel. -/
theorem hbm_addr_eq (s : State) (a : Nat) :
    a = (hbmChannels s.part * (hbmL s a / 2 ^ hbmG s) + hbmCh s a) * 2 ^ hbmG s + hbmL s a % 2 ^ hbmG s := by
  rw [hbmL_div, hbmL_mod, hbmCh, Nat.div_add_mod, Nat.div_add_mod']

/-- Every channel holds 3 * 2^29 bytes (R318). -/
theorem hbmL_lt {s : State} {a : Nat} (ha : a < carveEnd s.part) : hbmL s a < 2 ^ 31 := by
  have hg : hbmG s ≤ 23 := by
    have := bits_lt (rd s hbmMap) 62 59
    unfold hbmG fld
    omega
  have hsize : carveEnd s.part = 2 ^ hbmG s * (hbmChannels s.part * (3 * 2 ^ (29 - hbmG s))) := by
    have hpow : 2 ^ hbmG s * 2 ^ (29 - hbmG s) = 2 ^ 29 := by rw [← Nat.pow_add]; congr 1; omega
    calc carveEnd s.part = hbmChannels s.part * 3 * 2 ^ 29 := by cases s.part <;> rfl
      _ = _ := by rw [← hpow, Nat.mul_assoc, Nat.mul_left_comm 3, Nat.mul_left_comm]
  have hgrain : hbmL s a / 2 ^ hbmG s < 3 * 2 ^ (29 - hbmG s) := by
    rw [hbmL_div]
    exact Nat.div_lt_of_lt_mul (Nat.div_lt_of_lt_mul (hsize ▸ ha))
  calc hbmL s a < 3 * 2 ^ (29 - hbmG s) * 2 ^ hbmG s := (Nat.div_lt_iff_lt_mul (Nat.two_pow_pos _)).1 hgrain
    _ = 3 * 2 ^ 29 := by rw [Nat.mul_assoc, ← Nat.pow_add, Nat.sub_add_cancel (by omega)]
    _ < 2 ^ 31 := by decide

/-- R321: two addresses of HBM at one place are one address. -/
theorem hbmKey_inj {s : State} {a b : Nat} (ha : a < carveEnd s.part) (hb : b < carveEnd s.part)
    (h : hbmKey s a = hbmKey s b) : a = b := by
  have hla := hbmL_lt ha
  have hlb := hbmL_lt hb
  have hja := hbmJ_lt s a
  have hjb := hbmJ_lt s b
  have hba := hbmBank_lt s a
  have hbb := hbmBank_lt s b
  have hpa := hbmPc_lt s a
  have hpb := hbmPc_lt s b
  simp only [hbmKey] at h
  have hdie : hbmDie s a = hbmDie s b := by omega
  have hj : hbmJ s a = hbmJ s b := by omega
  have hrow : hbmL s a / 2 ^ 16 = hbmL s b / 2 ^ 16 := by omega
  have hbank : hbmBank s a = hbmBank s b := by omega
  have hpc : hbmPc s a = hbmPc s b := by omega
  have hcol : hbmL s a % 2 ^ 10 = hbmL s b % 2 ^ 10 := by omega
  have hl : hbmL s a = hbmL s b :=
    eq_of_row_bits_column hrow (fun i hi => hashBit_inj hrow (hashBit_eq_of_bank hbank hpc i hi)) hcol
  have hch : hbmCh s a = hbmCh s b := by
    unfold hbmDie at hdie
    unfold hbmJ at hj
    omega
  rw [hbm_addr_eq s a, hbm_addr_eq s b, hl, hch]

/-! ### What an HBM access leaves: the map and the bytes -/

/-- `u` holds the bytes of HBM that `s` holds, under the same map. -/
structure SameBytes (s u : State) : Prop extends SameMap s u where
  bytes : u.hbm.mem.bytes = s.hbm.mem.bytes

theorem SameMap.refl (s : State) : SameMap s s := ⟨rfl, fun _ _ => rfl⟩
theorem SameBytes.refl (s : State) : SameBytes s s := ⟨SameMap.refl s, rfl⟩

theorem SameBytes.hbmByte_eq {s u : State} (h : SameBytes s u) (b : Nat) : hbmByte u b = hbmByte s b := by
  rw [hbmByte, hbmByte, memByte, memByte, h.hbmKey_eq, h.bytes]

/-- A state that differs in other fields only. -/
theorem sameMap_frame {s u v : State} (h : SameMap s u) (hpart : v.part = u.part) (hcsr : v.csr = u.csr) : SameMap s v := by
  refine ⟨hpart.trans h.part, fun o ho => ?_⟩
  rw [← h.map o ho, rd, rd, hpart, hcsr]

theorem sameBytes_frame {s u v : State} (h : SameBytes s u) (hpart : v.part = u.part) (hcsr : v.csr = u.csr)
    (hbytes : v.hbm.mem.bytes = u.hbm.mem.bytes) : SameBytes s v :=
  ⟨sameMap_frame h.toSameMap hpart hcsr, hbytes.trans h.bytes⟩

/-- A write beyond the registers of the map: those of the channels and of the log lie there. -/
theorem wr_sameBytes {s u : State} (h : SameBytes s u) {x : Nat} (hx : hbmAt 0 32 ≤ x) (v : Word) : SameBytes s (wr u x v) := by
  refine ⟨⟨h.part, fun o ho => ?_⟩, h.bytes⟩
  rw [rd_wr_ne _ _ (by unfold hbmAt csrAt at *; omega), h.map o ho]

theorem hbmAt_le_hbmChAt (d j : Nat) : hbmAt 0 32 ≤ hbmChAt d j := by
  unfold hbmChAt hbmAt csrAt csrBase
  omega

theorem logEvent_sameBytes {s u : State} (h : SameBytes s u) (code die unit sev detail : Nat) :
    SameBytes s (logEvent u code die unit sev detail) := by
  unfold logEvent
  have hcount : SameBytes s (if sev = 0 then u else objSetN u 0x0E01 sev (objN u 0x0E01 sev + 1)) := by
    split
    · exact h
    · exact sameBytes_frame h rfl rfl rfl
  generalize (if sev = 0 then u else objSetN u 0x0E01 sev (objN u 0x0E01 sev + 1)) = u' at hcount ⊢
  have hnew := wr_sameBytes hcount (x := logNewAt) (by decide) (BitVec.ofNat 64 ((rd u' logNewAt).toNat + 1))
  dsimp only
  split
  · exact sameBytes_frame hcount rfl rfl rfl
  · split
    · refine wr_sameBytes (x := logOvrAt) ?_ (by decide) _
      exact sameBytes_frame hnew rfl rfl rfl
    · exact sameBytes_frame hnew rfl rfl rfl

theorem repairDue_sameBytes {s u : State} (h : SameBytes s u) (row : Nat) : SameBytes s (repairDue u row) := by
  unfold repairDue
  split
  · exact h
  · exact sameBytes_frame h rfl rfl rfl

theorem meetUe_sameBytes {s u : State} (h : SameBytes s u) (k a : Nat) : SameBytes s (meetUe u k a) := by
  unfold meetUe
  refine logEvent_sameBytes (wr_sameBytes (repairDue_sameBytes ?_ _) (hbmAt_le_hbmChAt _ _) _) _ _ _ _ _
  exact sameBytes_frame h rfl rfl rfl

theorem meetCe_sameBytes {s u : State} (h : SameBytes s u) (k a : Nat) : SameBytes s (meetCe u k a) := by
  unfold meetCe
  dsimp only
  refine logEvent_sameBytes (wr_sameBytes ?_ (hbmAt_le_hbmChAt _ _) _) _ _ _ _ _
  split
  · refine repairDue_sameBytes ?_ _
    exact sameBytes_frame h rfl rfl rfl
  · exact sameBytes_frame h rfl rfl rfl

/-- R334, R335: reading a burst changes its marks and counters, not its bytes. -/
theorem readBurst_sameBytes {s u : State} (h : SameBytes s u) (b : Nat) : SameBytes s (readBurst u b) := by
  unfold readBurst
  split
  · exact meetUe_sameBytes h _ _
  · exact meetCe_sameBytes h _ _
  · exact h

theorem mergeBurst_sameBytes {s u : State} (h : SameBytes s u) (a n b : Nat) : SameBytes s (mergeBurst a n u b) := by
  unfold mergeBurst
  split
  · exact h
  · exact readBurst_sameBytes h b

theorem touchRows_sameBytes {s u : State} (h : SameBytes s u) (a n : Nat) : SameBytes s (touchRows u a n) :=
  foldl_inv (SameBytes s) touchRow (fun _ _ hu => sameBytes_frame hu rfl rfl rfl) _ _ h

/-- R326: the merges before a write change no byte. -/
theorem merges_sameBytes (s : State) (a n : Nat) :
    SameBytes s ((bursts a n).foldl (mergeBurst a n) (touchRows s a n)) :=
  foldl_inv (SameBytes s) _ (fun _ b hu => mergeBurst_sameBytes hu a n b) _ _ (touchRows_sameBytes (SameBytes.refl s) a n)

/-! ### Storing a list of values under keys -/

section
variable {α : Type} [DecidableEq α] (d : α) (key : Nat → Nat) (v : Nat → α) (m : SMap α)

theorem mget_stores_other (j : Nat) : ∀ n, (∀ i, i < n → key i ≠ j) →
    mget d ((List.range n).foldl (fun m i => mset d m (key i) (v i)) m) j = mget d m j
  | 0, _ => rfl
  | n + 1, h => by
    rw [List.range_succ, List.foldl_append, List.foldl_cons, List.foldl_nil, mget_mset_ne _ _ _ _ (h n (by omega)).symm]
    exact mget_stores_other j n fun i hi => h i (by omega)

theorem mget_stores (k : Nat) : ∀ n, (∀ i, i < n → k < n → key i = key k → i = k) → k < n →
    mget d ((List.range n).foldl (fun m i => mset d m (key i) (v i)) m) (key k) = v k
  | n + 1, h, hk => by
    rw [List.range_succ, List.foldl_append, List.foldl_cons, List.foldl_nil]
    by_cases hn : k = n
    · rw [← hn, mget_mset_same]
    · rw [mget_mset_ne _ _ _ _ fun e => hn (h n (by omega) hk e.symm).symm]
      exact mget_stores k n (fun i hi _ => h i (by omega) hk) (by omega)

end

/-! ### Reading back (R12, R25, R317, R336) -/

theorem hbmPut_sameMap (s : State) (a : Nat) (d : List Byte) (pg : Nat → Bool) : SameMap s (hbmPut s a d pg) :=
  sameMap_frame (SameMap.refl s) rfl rfl

theorem hbmByte_hbmPut (s : State) (a : Nat) (d : List Byte) (pg : Nat → Bool) (b : Nat) :
    hbmByte (hbmPut s a d pg) b =
      mget 0 ((List.range d.length).foldl (fun l i => mset 0 l (hbmKey s (a + i)) (d.getD i 0)) s.hbm.mem.bytes) (hbmKey s b) := by
  rw [hbmByte, (hbmPut_sameMap s a d pg).hbmKey_eq]
  rfl

theorem hbmByte_hbmPut_in {s : State} {a : Nat} {d : List Byte} (pg : Nat → Bool) (h : a + d.length ≤ carveEnd s.part)
    {i : Nat} (hi : i < d.length) : hbmByte (hbmPut s a d pg) (a + i) = d.getD i 0 := by
  rw [hbmByte_hbmPut]
  refine mget_stores 0 (fun i => hbmKey s (a + i)) (d.getD · 0) _ i _ (fun j hj _ e => ?_) hi
  have := hbmKey_inj (by omega) (by omega) e
  omega

theorem hbmByte_hbmPut_out {s : State} {a : Nat} {d : List Byte} (pg : Nat → Bool) (h : a + d.length ≤ carveEnd s.part)
    {b : Nat} (hb : b < carveEnd s.part) (hout : b < a ∨ a + d.length ≤ b) : hbmByte (hbmPut s a d pg) b = hbmByte s b := by
  rw [hbmByte_hbmPut]
  refine mget_stores_other 0 (fun i => hbmKey s (a + i)) (d.getD · 0) _ _ _ fun i hi e => ?_
  have := hbmKey_inj (by omega) hb e
  omega

/-- Settles O7: a store of bytes reads back because no two bytes lie at one place, and a field because its bits are its own. -/
theorem storageReadsBack : Obligations.StorageReadsBack := by
  refine ⟨fun x a d pg => ⟨memByte_memWrite_in x.mem a d pg, memByte_memWrite_out x.mem a d pg, memBytes_memWrite x.mem a d pg⟩,
    fun s a d pg hend => ?_, fun s a hi lo v hle h64 =>
      ⟨fld_setFld_same s a v hle h64, fun _ _ => fld_setFld_ne s a v, fun _ => rd_wr_ne s _⟩⟩
  have merged := merges_sameBytes s a d.length
  rw [← merged.part] at hend
  refine ⟨fun i => hbmByte_hbmPut_in pg hend, fun b hb hout => ?_⟩
  rw [← merged.part] at hb
  exact (hbmByte_hbmPut_out pg hend hb hout).trans (merged.hbmByte_eq b)

end Sys2Proof.Machine
end

section
/-! SUPPORT. Requests of the on-package network: refused by the map, or served at the endpoint that the address selects. -/

namespace Sys2Proof.Machine
open Sys2Proof

/-! ### When a request is refused, answered, served -/

theorem whenRunning_running {s : State} (h : running s = true) (f : State → State) : whenRunning s f = .next (f s) := by
  simp [whenRunning, h]

/-- R313: a packet that has come to an open endpoint is taken there. -/
theorem throughFence_open {s : State} {p : Packet} (harr : arrived s p = true) (hopen : destFence s p = 0) (f : State → State) :
    throughFence s p f = f s := by
  simp [throughFence, harr, hopen]

/-- R33: a request that the map refuses is answered with the map's status wherever it was going. -/
theorem resolved_refused {s : State} {p : Packet} (h : mapStatus s.part (initiatorOf s p) p.addr.toNat p.len ≠ 0)
    (f : State → State) : resolved s p f = answer s p (mapStatus s.part (initiatorOf s p) p.addr.toNat p.len) := by
  simp [resolved, h]

theorem resolved_open {s : State} {p : Packet} (hmap : mapStatus s.part (initiatorOf s p) p.addr.toNat p.len = 0)
    (harr : arrived s p = true) (hopen : destFence s p = 0) (f : State → State) : resolved s p f = f s := by
  simp [resolved, hmap, throughFence_open harr hopen]

theorem netRw_formed {s : State} {p : Packet} (hfab : p.fab = false) (hform : formed p = true) :
    netRw s p = resolved s p (fun s => rwReq s p) := by
  simp [netRw, hfab, hform]

theorem exec_read {s : State} {p : Packet} (hrun : running s = true) (hop : p.op = 0x01) : exec (.read p) s = .next (netRw s p) := by
  change execRead p s = _
  rw [execRead, whenRunning_running hrun, if_pos hop]

theorem exec_write {s : State} {p : Packet} (hrun : running s = true) (hop : p.op = 0x02) : exec (.write p) s = .next (netRw s p) := by
  change execWrite p s = _
  rw [execWrite, whenRunning_running hrun, if_pos hop]

theorem exec_csrWrite {s : State} {p : Packet} (hrun : running s = true) (hop : p.op = 0x02)
    (haddr : inCsrSpace s.part p.addr.toNat = true) (hlen : p.data.length = p.len) :
    exec (.csrWrite p) s = .next (resolved s p (fun s => csrWriteReq s p)) := by
  change execCsrWrite p s = _
  rw [execCsrWrite, whenRunning_running hrun, if_pos (by simp [hop, haddr, hlen])]

/-! ### Where an address leads -/

theorem rwReq_csr {s : State} {p : Packet} (h : isCsr s.part p.addr.toNat = true) :
    rwReq s p = if p.op = 0x01 then csrReadReq s p else csrWriteReq s p := by
  simp [rwReq, h]

theorem rwReq_window {s : State} {p : Packet} {t : TileId} {off : Nat} (hcsr : isCsr s.part p.addr.toNat = false)
    (h : classify s.part p.addr.toNat = .scratch t off) : rwReq s p = windowReq s t off p := by
  simp [rwReq, hcsr, h]

theorem rwReq_cfg {s : State} {p : Packet} {die n off : Nat} (hcsr : isCsr s.part p.addr.toNat = false)
    (h : classify s.part p.addr.toNat = .cfg die n off) : rwReq s p = cfgReq s (regionAt die n) off p := by
  simp [rwReq, hcsr, h]

theorem rwReq_hbm {s : State} {p : Packet} (hcsr : isCsr s.part p.addr.toNat = false)
    (h : classify s.part p.addr.toNat = .userHbm ∨ classify s.part p.addr.toNat = .firmware ∨
      classify s.part p.addr.toNat = .carveOut) : rwReq s p = hbmReq s p := by
  rcases h with h | h | h <;> simp [rwReq, hcsr, h]

/-! ### Requests at a tile's window (R133, R304) -/

theorem windowReq_read {s : State} {t : TileId} {off : Nat} {p : Packet} (hop : p.op = 0x01) (hfree : kmBehind s t off p = false) :
    windowReq s t off p = sendPkt (takePkt s p)
      (response p (windowRead s t off p.len).1 (windowRead s t off p.len).2.1 (windowRead s t off p.len).2.2) := by
  simp [windowReq, hop, hfree]

theorem windowReq_write {s : State} {t : TileId} {off : Nat} {p : Packet} (hop : p.op = 0x02) (hfree : kmBehind s t off p = false)
    (hheld : kmHeld s t off p = false) :
    windowReq s t off p = answer (windowWrite s t off p.data p.poison.toNat).2 p (windowWrite s t off p.data p.poison.toNat).1 := by
  simp [windowReq, hop, hfree, hheld]

/-- A write of kernel memory that nothing else refuses waits for the kernel's end, behind earlier ones or first. -/
theorem windowReq_held {s : State} {t : TileId} {off : Nat} {p : Packet} (hop : p.op = 0x02) (hheld : kmHeld s t off p = true)
    (hserved : windowRefusal s t off p.len = 0) :
    windowReq s t off p = modTile (takePkt s p) t (fun x => { x with heldKm := x.heldKm ++ [p] }) := by
  cases hbehind : kmBehind s t off p <;> simp [windowReq, hop, hheld, hserved, hbehind]

/-! ### Signals and interrupts -/

theorem servedAt_open {s : State} {p : Packet} (hfab : p.fab = false) (harr : arrived s p = true) (hopen : destFence s p = 0)
    (f : State → Status × State) : servedAt s p f = answer (f s).2 p (f s).1 := by
  simp [servedAt, throughFence_open harr hopen, hfab]

theorem exec_signalPacket {s : State} {p : Packet} (hrun : running s = true) (hop : p.op = 0x20) :
    exec (.signalPacket p) s = .next (servedAt s p fun s =>
      signalAt s (BitVec.ofNat 64 (0x40 * 2 ^ 56 + p.od.aop.toNat * 2 ^ 53 + p.od.seq.toNat)) p.addr) := by
  change execSignalPacket p s = _
  rw [execSignalPacket, whenRunning_running hrun, if_pos hop]

theorem exec_irq_enabled {s : State} {p : Packet} (hrun : running s = true) (hop : p.op = 0x61) (harr : arrived s p = true)
    (hon : flag s (grIrqAt (p.addr.toNat % 1024)) 63 = true) : exec (.irq p) s = .next
      { takePkt s p with
        imsic := mset false s.imsic (2048 * fld s (grIrqAt (p.addr.toNat % 1024)) 62 59 + p.addr.toNat % 1024 + 1) true } := by
  change execIrq p s = _
  rw [execIrq, whenRunning_running hrun, if_pos ⟨hop, harr⟩]
  exact congrArg Host.Outcome.next (if_pos hon)

theorem exec_irq_disabled {s : State} {p : Packet} (hrun : running s = true) (hop : p.op = 0x61) (harr : arrived s p = true)
    (hoff : flag s (grIrqAt (p.addr.toNat % 1024)) 63 = false) : exec (.irq p) s = .next (takePkt s p) := by
  change execIrq p s = _
  rw [execIrq, whenRunning_running hrun, if_pos ⟨hop, harr⟩]
  exact congrArg Host.Outcome.next (if_neg (Bool.eq_false_iff.1 hoff))

/-- Settles O34: the map first (R33, R298), then the endpoint that the address selects. -/
theorem networkRequestsComplete : Obligations.NetworkRequestsComplete := by
  intro s p hrun hfab
  refine ⟨fun hform hmap => ?_, fun hop haddr hlen hmap => ?_, fun harr hopen hmap => ?_, fun harr hopen hop => ?_,
    fun harr hop => ⟨exec_irq_enabled hrun hop harr, exec_irq_disabled hrun hop harr⟩⟩
  case refine_1 =>
    have refused := (netRw_formed hfab hform).trans (resolved_refused hmap fun s => rwReq s p)
    exact ⟨fun hop => by rw [exec_read hrun hop, refused], fun hop => by rw [exec_write hrun hop, refused]⟩
  case refine_2 => rw [exec_csrWrite hrun hop haddr hlen, resolved_refused hmap]
  case refine_4 => rw [exec_signalPacket hrun hop, servedAt_open hfab harr hopen]
  case refine_3 =>
    have served : formed p = true → netRw s p = rwReq s p := fun hform => by
      rw [netRw_formed hfab hform, resolved_open hmap harr hopen]
    have read : p.op = 0x01 → formed p = true → exec (.read p) s = .next (rwReq s p) := fun hop hform => by
      rw [exec_read hrun hop, served hform]
    have write : p.op = 0x02 → formed p = true → exec (.write p) s = .next (rwReq s p) := fun hop hform => by
      rw [exec_write hrun hop, served hform]
    refine ⟨fun hop hform hcsr => ?_, fun hop hform hcsr => ?_, fun hop haddr hlen => ?_, fun t off hform hcsr hcls => ?_,
      fun hform hcsr hcls => ?_, fun die n off hform hcsr hcls => ?_⟩
    · simp [read hop hform, rwReq_csr hcsr, hop]
    · simp [write hop hform, rwReq_csr hcsr, hop]
    · rw [exec_csrWrite hrun hop haddr hlen, resolved_open hmap harr hopen]
    · refine ⟨fun hop hfree => ?_, fun hop hfree hheld => ?_, fun hop hheld hserved => ?_⟩
      · rw [read hop hform, rwReq_window hcsr hcls, windowReq_read hop hfree]
      · rw [write hop hform, rwReq_window hcsr hcls, windowReq_write hop hfree hheld]
      · rw [write hop hform, rwReq_window hcsr hcls, windowReq_held hop hheld hserved]
    · exact ⟨fun hop => by rw [read hop hform, rwReq_hbm hcsr hcls], fun hop => by rw [write hop hform, rwReq_hbm hcsr hcls]⟩
    · exact ⟨fun hop => by rw [read hop hform, rwReq_cfg hcsr hcls], fun hop => by rw [write hop hform, rwReq_cfg hcsr hcls]⟩

end Sys2Proof.Machine
end

section
/-! SUPPORT. Fabric requests at their home: one that is served runs its operation in the state that admits it, and is answered. -/

namespace Sys2Proof.Machine
open Sys2Proof

/-! ### A served request reaches its operation (R357, R358, R396) -/

/-- A served request is answered with what its operation gives in the admitting state. -/
theorem arrive_serves {s s1 : State} {p : Packet} (h : Serves s p s1) {marked : Bool} {body : Bool → State → Option Done} {d : Done}
    (hbody : body false s1 = some d) : arrive s p marked body = finishHome p marked false d := by
  obtain ⟨-, hserve, hport, s0, hinc, hrec, hprog, hadmit, hroom⟩ := h
  simp [arrive, homeServe, hserve, hport, hinc, hrec, hprog, hadmit, hroom, hbody]

/-- A served copy starts in the admitting state. -/
theorem doFcopy_serves {s s1 : State} {p : Packet} (h : Serves s p s1) : doFcopy s p = copyStart s1 p false := by
  obtain ⟨-, hserve, -, s0, hinc, hrec, hprog, hadmit, hroom⟩ := h
  simp [doFcopy, hserve, hinc, hrec, hprog, hadmit, hroom]

theorem whenRunning_op {s : State} {p : Packet} {op : BitVec 8} (hrun : running s = true) (hop : p.op = op)
    (f : State → Packet → State) : whenRunning s (fun s => if p.op = op then f s p else s) = .next (f s p) := by
  rw [whenRunning_running hrun, if_pos hop]

/-- The commands of the fabric operations but FCOPY: the operation's answer is the request's end. -/
theorem whenRunning_serves {s s1 : State} {p : Packet} (h : Serves s p s1) {op : BitVec 8} (hop : p.op = op) {marked : Bool}
    {body : Packet → Bool → State → Option Done} {d : Done} (hbody : body p false s1 = some d) :
    whenRunning s (fun s => if p.op = op then arrive s p marked (body p) else s) = .next (finishHome p marked false d) := by
  rw [whenRunning_op h.1 hop (fun s p => arrive s p marked (body p)), arrive_serves h hbody]

/-! ### What the home finds wrong (R34, R37) -/

theorem lowestOf_pair_eq_zero {a b : Nat} : lowestOf [a, b] = 0 ↔ a = 0 ∧ b = 0 := by
  by_cases ha : a = 0 <;> by_cases hb : b = 0 <;> simp [lowestOf, ha, hb]

theorem homeCheck_eq_zero {s : State} {cover malformed : Bool} {a n : Nat} :
    homeCheck s cover malformed a n = 0 ↔ malformed = false ∧ remoteScreen s cover a n = 0 := by
  cases malformed <;> simp [homeCheck, lowestOf_pair_eq_zero]

/-! ### The operations' answers (R349-R351) -/

theorem freadBody_refused {s : State} {p : Packet} (hbad : homeCheck s false (!sizeLegal (offsetOf p) p.len) (offsetOf p) p.len ≠ 0) :
    freadBody p false s =
      some { st := s, code := homeCheck s false (!sizeLegal (offsetOf p) p.len) (offsetOf p) p.len } :=
  if_pos hbad

theorem fwriteBody_refused {s : State} {p : Packet}
    (hbad : homeCheck s false (!sizeLegal (offsetOf p) p.data.length) (offsetOf p) p.data.length ≠ 0) :
    fwriteBody p false s =
      some { st := s, code := homeCheck s false (!sizeLegal (offsetOf p) p.data.length) (offsetOf p) p.data.length } :=
  if_pos hbad

theorem freadBody_served {s : State} {p : Packet} (hsize : sizeLegal (offsetOf p) p.len = true)
    (hscreen : remoteScreen s false (offsetOf p) p.len = 0) :
    freadBody p false s = some
      { st := (hbmRead s (offsetOf p) p.len).1, code := if (hbmRead s (offsetOf p) p.len).2.2 = 0 then stOk else stPoison,
        data := (hbmRead s (offsetOf p) p.len).2.1, poison := (hbmRead s (offsetOf p) p.len).2.2 } := by
  have hcheck : homeCheck s false (!sizeLegal (offsetOf p) p.len) (offsetOf p) p.len = 0 :=
    homeCheck_eq_zero.2 ⟨by simp [hsize], hscreen⟩
  simp [freadBody, hcheck]

theorem fwriteBody_served {s : State} {p : Packet} (hsize : sizeLegal (offsetOf p) p.data.length = true)
    (hscreen : remoteScreen s false (offsetOf p) p.data.length = 0) :
    fwriteBody p false s = some (homeStore s p (offsetOf p) p.data p.poison.toNat stOk []) := by
  have hcheck : homeCheck s false (!sizeLegal (offsetOf p) p.data.length) (offsetOf p) p.data.length = 0 :=
    homeCheck_eq_zero.2 ⟨by simp [hsize], hscreen⟩
  simp [fwriteBody, hcheck]

theorem atomicNew_stores {aop : BitVec 4} {w old opr cmp v : Nat}
    (h : aop = 0 ∧ v = (old + opr) % 2 ^ (8 * w) ∨ aop = 1 ∧ v = old &&& opr ∨ aop = 2 ∧ v = old ||| opr ∨
      aop = 3 ∧ v = old ^^^ opr ∨ aop = 4 ∧ v = opr ∨ aop = 5 ∧ old = cmp ∧ v = opr ∨
      aop = 6 ∧ v = (if sextN (8 * w) old < sextN (8 * w) opr then opr else old) ∨
      aop = 7 ∧ v = (if sextN (8 * w) opr < sextN (8 * w) old then opr else old) ∨
      aop = 8 ∧ v = max old opr ∨ aop = 9 ∧ v = min old opr) : atomicNew aop.toNat w old opr cmp = some (some v) := by
  rcases h with ⟨rfl, rfl⟩ | ⟨rfl, rfl⟩ | ⟨rfl, rfl⟩ | ⟨rfl, rfl⟩ | ⟨rfl, rfl⟩ | ⟨rfl, heq, rfl⟩ | ⟨rfl, rfl⟩ | ⟨rfl, rfl⟩ | ⟨rfl, rfl⟩ |
    ⟨rfl, rfl⟩
  case inr.inr.inr.inr.inr.inl => simp [atomicNew, heq]
  all_goals rfl

section
variable {s : State} {p : Packet} {w : Nat} (hw : w = if p.od.width then 8 else 4)
include hw

theorem fatomicBody_refused (hbad : offsetOf p % w ≠ 0 ∨ 9 < p.od.aop.toNat ∨ remoteScreen s false (offsetOf p) w ≠ 0) :
    fatomicBody p false s = some
      { st := s, code := homeCheck s false (offsetOf p % w ≠ 0 ∨ 9 < p.od.aop.toNat) (offsetOf p) w } := by
  subst hw
  refine if_pos fun hcheck => ?_
  obtain ⟨hform, hscreen⟩ := homeCheck_eq_zero.1 hcheck
  have hopen := of_decide_eq_false hform
  rcases hbad with halign | haop | hshut
  · exact hopen (.inl halign)
  · exact hopen (.inr haop)
  · exact hshut hscreen

/-- A well-formed atomic of an open address goes by the old value. -/
theorem fatomicBody_served (halign : offsetOf p % w = 0) (haop : p.od.aop.toNat ≤ 9)
    (hscreen : remoteScreen s false (offsetOf p) w = 0) :
    fatomicBody p false s =
      if (hbmRead s (offsetOf p) w).2.2 ≠ 0 then some { st := (hbmRead s (offsetOf p) w).1, code := stPoison }
      else match atomicNew p.od.aop.toNat w (leNat (hbmRead s (offsetOf p) w).2.1) (leNat (p.data.take w))
          (leNat ((p.data.drop 8).take w)) with
        | none => some { st := s, code := stFabricRefused }
        | some none => some { st := (hbmRead s (offsetOf p) w).1, data := (hbmRead s (offsetOf p) w).2.1 }
        | some (some v) =>
          some (homeStore (hbmRead s (offsetOf p) w).1 p (offsetOf p) (leBytes w v) 0 stOk (hbmRead s (offsetOf p) w).2.1) := by
  subst hw
  exact if_neg (Classical.not_not.2 (homeCheck_eq_zero.2 ⟨by simpa using ⟨halign, haop⟩, hscreen⟩))

end

theorem copyStart_refused {s : State} {p : Packet}
    (hbad : leNat ((p.data.drop 8).take 4) = 0 ∨ 2 ^ 30 < leNat ((p.data.drop 8).take 4) ∨
      userEnd s.part < offsetOf p + leNat ((p.data.drop 8).take 4)) :
    copyStart s p false = finishHome p true false
      { st := s
        code := lowestOf
          [if leNat ((p.data.drop 8).take 4) = 0 ∨ 2 ^ 30 < leNat ((p.data.drop 8).take 4) then stFabricRefused else 0,
           if userEnd s.part < offsetOf p + leNat ((p.data.drop 8).take 4) then stNocDenied else 0] } := by
  refine if_pos fun hcheck => ?_
  rw [lowestOf_pair_eq_zero] at hcheck
  grind

theorem copyStart_served {s : State} {p : Packet} {n : Nat} (hn : leNat ((p.data.drop 8).take 4) = n) (hpos : 1 ≤ n) (hmax : n ≤ 2 ^ 30)
    (hend : offsetOf p + n ≤ userEnd s.part) :
    copyStart s p false =
      copyCheck (copyFill s.fabric.nextId 64 (setFab s { s.fabric with nextId := s.fabric.nextId + 1, copies := s.fabric.copies ++
        [{ id := s.fabric.nextId, key := keyOf p, req := p, src := offsetOf p, dst := leNat (p.data.take 8), len := n, done := 0,
           acked := 0 }] })) s.fabric.nextId := by
  subst hn
  refine if_neg (Classical.not_not.2 (lowestOf_pair_eq_zero.2 ⟨if_neg ?_, if_neg ?_⟩)) <;> omega

/-- Settles O43: a served request ends with what its operation's body answers in the admitting state (R349-R352). -/
theorem fabricOperationsComplete : Obligations.FabricOperationsComplete := by
  intro s p s1 h
  refine ⟨fun hop => ⟨fun hbad => ?_, fun hsize hscreen => ?_⟩, fun hop => ⟨fun hbad => ?_, fun hsize hscreen => ?_⟩,
    fun hop => ⟨fun hbad => ?_, fun halign haop hscreen => ?_⟩, fun hop => ⟨fun hbad => ?_, fun hpos hmax hend => ?_⟩,
    fun hop => whenRunning_serves h hop rfl, fun hop => whenRunning_serves h hop rfl, fun hop => whenRunning_serves h hop rfl,
    fun hop => whenRunning_serves h hop rfl, fun hop => whenRunning_serves h hop rfl, fun hop => whenRunning_serves h hop rfl⟩
  · exact whenRunning_serves (marked := false) h hop (freadBody_refused hbad)
  · exact whenRunning_serves (marked := false) h hop (freadBody_served hsize hscreen)
  · exact whenRunning_serves h hop (fwriteBody_refused hbad)
  · exact whenRunning_serves h hop (fwriteBody_served hsize hscreen)
  · exact whenRunning_serves h hop (fatomicBody_refused rfl hbad)
  · have served := fatomicBody_served rfl halign haop hscreen
    refine ⟨fun hpoison => ?_, fun hclean hcas hne => ?_, fun v hclean hv => ?_⟩
    · exact whenRunning_serves h hop (served.trans (if_pos hpoison))
    · refine whenRunning_serves h hop (served.trans ?_)
      rw [if_neg (Classical.not_not.2 hclean), hcas]
      simp [atomicNew, hne]
    · refine whenRunning_serves h hop (served.trans ?_)
      rw [if_neg (Classical.not_not.2 hclean), atomicNew_stores hv]
  · exact (whenRunning_op h.1 hop doFcopy).trans (by rw [doFcopy_serves h, copyStart_refused hbad])
  · exact (whenRunning_op h.1 hop doFcopy).trans (by rw [doFcopy_serves h, copyStart_served rfl hpos hmax hend])

end Sys2Proof.Machine
end

section
/-! SUPPORT. The PCIe port: its link register, its interrupt table, and the requests of the board and of the root port. -/

namespace Sys2Proof.Machine
open Sys2Proof

theorem exec_pcieLinkUp {s : State} (hrun : running s = true) (speed : Fin 6) (width : Fin 5) : exec (.pcieLinkUp speed width) s =
    .next (setFld (setFld s grPcie 62 60 (speed + 1)) grPcie 59 55 (2 ^ width.val)) := by
  change execPcieLinkUp speed width s = _
  exact whenRunning_running hrun _

theorem exec_pcieLinkDown {s : State} (hrun : running s = true) : exec .pcieLinkDown s =
    .next (if pcieUp s then setFlag (setFld s grPcie 62 55 0) grPcie 54 true else s) :=
  whenRunning_running hrun _

theorem exec_msix {s : State} (hrun : running s = true) (k : Fin 64) : exec (.msix k) s = .next (sendMsix s k) :=
  whenRunning_running hrun _

/-! ### Interrupts (R469) -/

theorem sendMsix_sends {s : State} {k : Nat} (hend : pcieEndpoint s = true) (hup : pcieUp s = true)
    (hopen : leNat (bar2Bytes s (16 * k + 12) 1) % 2 = 0) : sendMsix s k =
      { s with pcieOut := s.pcieOut ++ [.msi (leNat (bar2Bytes s (16 * k) 8)) (bar2Bytes s (16 * k + 8) 4)] } := by
  simp [sendMsix, hend, hup, hopen]

theorem sendMsix_silent {s : State} {k : Nat}
    (h : pcieEndpoint s = false ∨ pcieUp s = false ∨ leNat (bar2Bytes s (16 * k + 12) 1) % 2 = 1) : sendMsix s k = s := by
  rcases h with h | h | h <;> simp [sendMsix, h]

/-! ### Requests (R469, R470) -/

/-- A request that the port ignores: the link is down, it is malformed, or it comes from the side that the mode does not serve. -/
theorem exec_pcieRequest_ignored {s : State} {r : PcieRequest} (hrun : running s = true)
    (h : pcieUp s = false ∨ r.len = 0 ∨ (r.isWrite = true ∧ r.data.length ≠ r.len) ∨ pcieEndpoint s ≠ r.fromBoard) :
    exec (.pcieRequest r) s = .next s := by
  change execPcieRequest r s = _
  refine (whenRunning_running hrun _).trans (congrArg _ ?_)
  split
  case isTrue => rfl
  case isFalse hform =>
    simp only [Bool.or_eq_true, Bool.not_eq_true', Bool.and_eq_true, decide_eq_true_eq, not_or] at hform
    obtain ⟨⟨hup, hlen⟩, hdata⟩ := hform
    have hside : pcieEndpoint s ≠ r.fromBoard := by
      rcases h with hdown | hzero | hshort | hside
      · exact absurd hdown hup
      · exact absurd hzero hlen
      · exact absurd hshort hdata
      · exact hside
    split
    case isTrue hend => rw [if_pos (by rw [hend] at hside; simpa using hside.symm)]
    case isFalse hend => rw [if_pos (by rw [Bool.eq_false_iff.2 hend] at hside; simpa using hside.symm)]

/-- What a well-formed request of the served side does, by the side. -/
theorem exec_pcieRequest_taken {s : State} {r : PcieRequest} (hrun : running s = true) (hup : pcieUp s = true) (hlen : r.len ≠ 0)
    (hdata : r.isWrite = true → r.data.length = r.len) (hside : pcieEndpoint s = r.fromBoard) : exec (.pcieRequest r) s = .next (
      if r.fromBoard then
        if r.bar = 0 ∧ r.offset + r.len ≤ 2 ^ 30 then pcieMap s r (fld s grPcie 53 36 * 2 ^ 30 + r.offset)
        else if r.bar = 2 ∧ r.offset + r.len ≤ 4096 then
          if r.isWrite then pcieReply { s with bar2 := bar2Put s.bar2 r.offset r.data } (.completion stOk [])
          else pcieReply s (.completion stOk (bar2Bytes s r.offset r.len))
        else pcieReply s .unsupported
      else match r.iommu with
        | none => pcieReply s .unsupported
        | some a => pcieMap s r a) := by
  change execPcieRequest r s = _
  refine (whenRunning_running hrun _).trans (congrArg _ ?_)
  rw [if_neg (by simpa [hup, hlen] using hdata), hside]
  cases r.fromBoard with
  | false => rfl
  | true => simp

/-- Settles O60: what the port does with each request, by the link, the mode and the window (R32, R33, R469, R470, R487). -/
theorem pcieCompletes : Obligations.PcieCompletes := by
  intro s hrun
  refine ⟨fun v w => ⟨_, exec_pcieLinkUp hrun v w, ?_, ?_, fun b hb => ?_⟩, fun hup => ?_, fun hdown => ?_,
    fun k hend hup hopen => ?_, fun k hclosed => ?_, fun r => exec_pcieRequest_ignored hrun, fun r hup hlen hdata hside => ?_⟩
  · rw [fld_setFld_ne _ _ _ (by decide), fld_setFld_same _ _ _ (by decide) (by decide)]
    exact Nat.mod_eq_of_lt (by omega)
  · rw [fld_setFld_same _ _ _ (by decide) (by decide)]
    exact Nat.mod_eq_of_lt (Nat.pow_lt_pow_right (by decide) w.isLt)
  · rw [setFld_eq, rd_wr_ne _ _ hb, setFld_eq, rd_wr_ne _ _ hb]
  · rw [exec_pcieLinkDown hrun, if_pos hup]
  · rw [exec_pcieLinkDown hrun, if_neg (by simp [hdown])]
  · rw [exec_msix hrun, sendMsix_sends hend hup hopen]
  · rw [exec_msix hrun, sendMsix_silent hclosed]
  · rw [exec_pcieRequest_taken hrun hup hlen hdata hside]
    refine ⟨fun hboard hbar hfit => ?_, fun hboard hbar hfit => ⟨fun hread => ?_, fun hwrite => ?_⟩, fun hboard h0 h2 => ?_,
      fun hroot hnone => ?_, fun a hroot hsome => ?_⟩
    · rw [if_pos hboard, if_pos ⟨hbar, hfit⟩]; rfl
    · simp [hboard, hbar, hfit, hread, pcieReply]
    · simp [hboard, hbar, hfit, hwrite, pcieReply]
    · rw [if_pos hboard, if_neg (by omega), if_neg (by omega)]; rfl
    · simp [hroot, hnone, pcieReply]
    · rw [if_neg (by simp [hroot]), hsome]; rfl

end Sys2Proof.Machine
end

section
/-! SUPPORT. Ending the work of tiles: what it leaves of RL_TMOVE, of the weight tags, of the lanes and of the passes made ready. -/

namespace Sys2Proof.Machine
open Sys2Proof

/-! ### A field that lies within a replaced one, and registers that are not RL_TMOVE -/

theorem bits_setBits_within (w : Word) {hi lo hi' lo' : Nat} (v : Nat) (hlo : lo ≤ lo') (hhi : hi' ≤ hi) (hle : lo' ≤ hi') (h64 : hi < 64) :
    bits (setBits w hi lo v) hi' lo' = bitsN v (hi' - lo) (lo' - lo) := by
  apply Nat.eq_of_testBit_eq
  intro j
  rw [testBit_bits, getLsbD_setBits, testBit_bitsN]
  by_cases hj : j < hi' + 1 - lo'
  · rw [if_pos (by omega), show lo' + j - lo = lo' - lo + j by omega]
    simp [hj, show j < hi' - lo + 1 - (lo' - lo) by omega]
  · simp [hj, show ¬ j < hi' - lo + 1 - (lo' - lo) by omega]

/-- STATE reads as it was set: it is the upper half of the field that `setTmove` writes. -/
theorem tmoveState_setTmove (s : State) (d : Nat) {st res : Nat} (hst : st < 4) (hres : res < 4) :
    tmoveState (setTmove s d st res) d = st := by
  rw [tmoveState, setTmove, fld, setFld_eq, rd_wr_same, bits_setBits_within _ _ (by decide) (by decide) (by decide) (by decide), bitsN]
  omega

theorem tmoveAt_ne_stAt (d : Fin 4) (t : TileId) : tmoveAt d ≠ stAt t := by
  have hslot := t.slot.isLt
  unfold tmoveAt rlAt stAt vtAt mtAt tileIdx csrAt csrBase
  split <;> omega

theorem tmoveAt_ne_seBytesAt (d : Fin 4) (t : TileId) (c : Nat) : tmoveAt d ≠ seBytesAt t c := by
  unfold tmoveAt rlAt seBytesAt seTileAt seAt csrAt csrBase
  omega

theorem tmoveAt_ne_qcStat (d e : Fin 4) (q : Fin 512) : tmoveAt d ≠ qcStat e q := by
  unfold tmoveAt rlAt qcStat qcAt csrAt csrBase
  omega

theorem tmoveAt_ne_mbCtl (d : Fin 4) (c : Fin 2) : tmoveAt d ≠ mbCtl c := by
  unfold tmoveAt rlAt mbCtl mbAt csrAt csrBase
  omega

theorem tmoveAt_ne_logNewAt (d : Fin 4) : tmoveAt d ≠ logNewAt := by
  unfold tmoveAt rlAt logNewAt csrAt csrBase
  omega

/-! ### What ending work leaves -/

/-- The tile `y` holds the weight tag and the lanes of `x`, and no pass has been made ready in it. -/
structure TileEnds (x y : Tile) : Prop where
  wtag : y.wtag = x.wtag
  vlanes : y.vlanes = x.vlanes
  ready : x.ready = none → y.ready = none

theorem TileEnds.refl (x : Tile) : TileEnds x x := ⟨rfl, rfl, id⟩

theorem TileEnds.trans {x y z : Tile} (h : TileEnds x y) (k : TileEnds y z) : TileEnds x z :=
  ⟨k.wtag.trans h.wtag, k.vlanes.trans h.vlanes, k.ready ∘ h.ready⟩

/-- `s` shows the moves of `a` as they stood, and its tiles have only ended work. -/
structure EndsWork (a s : State) : Prop where
  moves : ∀ d : Fin 4, tmoveState s d = tmoveState a d
  tile : ∀ t, TileEnds (getTile a t) (getTile s t)

theorem EndsWork.refl (a : State) : EndsWork a a := ⟨fun _ => rfl, fun _ => .refl _⟩

theorem EndsWork.trans {a s u : State} (h : EndsWork a s) (k : EndsWork s u) : EndsWork a u :=
  ⟨fun d => (k.moves d).trans (h.moves d), fun t => (h.tile t).trans (k.tile t)⟩

section
variable {a s : State} (h : EndsWork a s)
include h

/-! ### State operations -/

/-- A state that differs in neither registers nor tiles. -/
theorem frame_endsWork {u : State} (hpart : u.part = s.part) (hcsr : u.csr = s.csr) (htiles : u.tiles = s.tiles) : EndsWork a u := by
  refine ⟨fun d => ?_, fun t => ?_⟩
  · rw [← h.moves d, tmoveState, tmoveState, fld, fld, rd, rd, hpart, hcsr]
  · rw [show getTile u t = getTile s t by rw [getTile, htiles, getTile]]; exact h.tile t

theorem wr_endsWork {x : Nat} (v : Word) (hx : ∀ d : Fin 4, tmoveAt d ≠ x) : EndsWork a (wr s x v) :=
  ⟨fun d => by rw [← h.moves d, tmoveState, tmoveState, fld, fld, rd_wr_ne _ _ (hx d)], h.tile⟩

/-- A field outside STATE may stand in any register. -/
theorem setFld_endsWork (x : Nat) {hi lo : Nat} (v : Nat) (hout : hi < 46 ∨ 47 < lo) : EndsWork a (setFld s x hi lo v) := by
  refine ⟨fun d => ?_, h.tile⟩
  rw [← h.moves d, tmoveState, tmoveState]
  by_cases hx : tmoveAt d = x
  · rw [hx, fld_setFld_ne _ _ _ (by omega)]
  · rw [fld_setFld_other _ _ _ _ _ _ hx]

theorem setFld_other_endsWork {x : Nat} (hi lo v : Nat) (hx : ∀ d : Fin 4, tmoveAt d ≠ x) : EndsWork a (setFld s x hi lo v) :=
  wr_endsWork h _ hx

theorem setFlag_endsWork (x : Nat) {i : Nat} (b : Bool) (hout : i < 46 ∨ 47 < i) : EndsWork a (setFlag s x i b) :=
  setFld_endsWork h x _ hout

theorem setFlag_other_endsWork {x : Nat} (i : Nat) (b : Bool) (hx : ∀ d : Fin 4, tmoveAt d ≠ x) : EndsWork a (setFlag s x i b) :=
  wr_endsWork h _ hx

theorem setTile_endsWork {t : TileId} {y : Tile} (hy : TileEnds (getTile s t) y) : EndsWork a (setTile s t y) := by
  refine ⟨h.moves, fun v => (h.tile v).trans ?_⟩
  by_cases hv : v = t
  · subst hv; rwa [getTile_setTile_same]
  · rw [getTile_setTile_ne _ _ hv]; exact .refl _

theorem modTile_endsWork (t : TileId) {f : Tile → Tile} (hf : ∀ x, TileEnds x (f x)) : EndsWork a (modTile s t f) :=
  setTile_endsWork h (hf _)

theorem foldl_endsWork {α : Type} (l : List α) {f : State → α → State} (hf : ∀ u x, EndsWork a u → EndsWork a (f u x)) :
    EndsWork a (l.foldl f s) :=
  foldl_inv (EndsWork a) f hf l s h

/-! ### Passes and kernels that end (R121, R122, R139) -/

theorem endPass_endsWork (t : TileId) (seq : Nat) (e : Status) (nofold : Bool) : EndsWork a (endPass s t seq e nofold) := by
  unfold endPass
  dsimp only
  split
  case h_1 => exact h
  case h_2 p _ =>
    split
    · refine setFlag_endsWork (setTile_endsWork h ?_) _ true (by decide)
      exact ⟨rfl, rfl, id⟩
    · exact setTile_endsWork h ⟨rfl, rfl, id⟩

omit h in
theorem chainInvalid_endsWork (t : TileId) : ∀ (k : Nat) {s : State}, EndsWork a s → EndsWork a (chainInvalid t k s)
  | 0, _, h => h
  | k + 1, s, h => by
    unfold chainInvalid
    dsimp only
    split
    · exact h
    · exact chainInvalid_endsWork t k (endPass_endsWork h t _ _ _)

theorem abortPass_endsWork (t : TileId) (seq : Nat) (e : Status) (nofold : Bool) : EndsWork a (abortPass s t seq e nofold) :=
  chainInvalid_endsWork t _ (endPass_endsWork h t seq e nofold)

theorem endKernel_endsWork (t : TileId) (e : Status) : EndsWork a (endKernel s t e) := by
  unfold endKernel
  dsimp only
  split
  · exact h
  · split
    · exact h
    · refine setFld_endsWork (setTile_endsWork h ?_) _ _ (by decide)
      exact ⟨rfl, rfl, id⟩

theorem invalidateAll_endsWork (t : TileId) (gs : List Nat) : EndsWork a (invalidateAll s t gs) := by
  have marked : EndsWork a (invalidate s t gs) := chainInvalid_endsWork t _ (modTile_endsWork h t fun _ => ⟨rfl, rfl, id⟩)
  unfold invalidateAll
  dsimp only
  split
  · split
    · exact endKernel_endsWork marked t _
    · exact marked
  · exact marked

/-! ### Streams that end (R185, R187, R192) -/

theorem sendPkt_endsWork (p : Packet) : EndsWork a (sendPkt s p) := frame_endsWork h rfl rfl rfl

theorem putStream_endsWork (t : TileId) (c : Nat) (st : Stream) : EndsWork a (putStream s t c st) := by
  refine wr_endsWork (setFld_endsWork (modTile_endsWork h t fun _ => ?_) _ _ ?_) _ (tmoveAt_ne_seBytesAt · t c)
  · exact ⟨rfl, rfl, id⟩
  · decide

theorem freeEntries_endsWork (t : TileId) (st : Stream) : EndsWork a (freeEntries s t st) := by
  refine modTile_endsWork h t fun x => foldl_inv (TileEnds x) _ (fun _ _ k => k.trans ?_) _ _ (.refl x)
  exact ⟨rfl, rfl, id⟩

theorem cancelPeer_endsWork (t : TileId) (c : Nat) (st : Stream) (e : Status) : EndsWork a (cancelPeer s t c st e) := by
  unfold cancelPeer
  split
  · split
    · exact h
    · exact sendPkt_endsWork h _
  · split
    · exact sendPkt_endsWork h _
    · exact h

theorem cancelStream_endsWork (t : TileId) (c : Nat) (e : Status) : EndsWork a (cancelStream s t c e) := by
  unfold cancelStream
  split
  case h_1 => exact h
  case h_2 st _ =>
    split
    · exact h
    · have freed := freeEntries_endsWork (invalidateAll_endsWork (setFld_endsWork (putStream_endsWork h t c
        { st with ending := some e, moves := [], endOwed := owesEnd st }) (seStatAt t c) 3 (hi := 31) (lo := 29) (by decide)) t
        (granules st.base (st.nbuf * st.bufsz))) t st
      refine cancelPeer_endsWork (modTile_endsWork freed t fun x => ?_) t c st e
      split
      · exact ⟨rfl, rfl, id⟩
      · exact .refl x

theorem dropStream_endsWork (t : TileId) (c : Nat) (st : Stream) : EndsWork a (dropStream s t c st) := by
  refine setFld_endsWork (setFld_endsWork (modTile_endsWork (freeEntries_endsWork h t st) t fun _ => ?_) _ _ ?_) _ _ ?_
  · exact ⟨rfl, rfl, id⟩
  · decide
  · decide

theorem fenceStreams_endsWork (t : TileId) : EndsWork a (fenceStreams s t) := by
  refine foldl_endsWork h _ fun u c hu => ?_
  split
  · split
    · exact dropStream_endsWork hu t c _
    · exact cancelStream_endsWork hu t c _
  · exact hu

/-! ### Programs whose units end (R212, R213) -/

theorem setRun_endsWork (t : TileId) (q : Nat) (l : Option Launch) : EndsWork a (setRun s t q l) :=
  modTile_endsWork h t fun _ => ⟨rfl, rfl, id⟩

theorem modRun_endsWork (t : TileId) (q : Nat) (f : Launch → Launch) : EndsWork a (modRun s t q f) := by
  unfold modRun
  split
  · exact setRun_endsWork h t q _
  · exact h

theorem setQState_endsWork (t : TileId) (q v : Nat) : EndsWork a (setQState s t q v) := by
  unfold setQState
  split <;> exact setFld_endsWork h _ _ (by decide)

theorem cancelQueue_endsWork (t : TileId) (q : Nat) (e : Status) : EndsWork a (cancelQueue s t q e) :=
  foldl_endsWork h _ fun _ c hu => cancelStream_endsWork hu t c e

theorem failProgram_endsWork (t : TileId) (q : Nat) (f : Failure) : EndsWork a (failProgram s t q f) := by
  unfold failProgram
  split
  case h_1 => exact h
  case h_2 l _ =>
    split
    · exact h
    · split
      · split
        · exact setRun_endsWork h t q _
        · exact h
      · refine cancelQueue_endsWork (modTile_endsWork (setRun_endsWork h t q _) t fun x => ?_) t q _
        split
        · split
          · exact ⟨rfl, rfl, fun _ => rfl⟩
          · exact .refl x
        · exact .refl x

theorem unitEnded_endsWork (t : TileId) (q kind seq : Nat) (r : Report) : EndsWork a (unitEnded s t q kind seq r) := by
  unfold unitEnded
  split
  · exact h
  · split
    · exact h
    · dsimp only
      split
      · exact setRun_endsWork h t q _
      · exact failProgram_endsWork (setRun_endsWork h t q _) t q _

/-! ### Tags that an abandoning fence completes (R311, R313) -/

/-- With an error status a response ends its stream, or finds it gone. -/
theorem streamAnswered_endsWork {r : Packet} (hbad : carriesOn r.status.toNat = false) (u : TagUse) :
    EndsWork a (streamAnswered s r u) := by
  unfold streamAnswered
  split
  case h_1 u =>
    split
    case h_1 => exact h
    case h_2 st _ =>
      split
      · exact h
      · dsimp only
        split
        · exact putStream_endsWork h u.t u.c _
        · rw [if_pos (by simp [hbad])]
          exact cancelStream_endsWork (putStream_endsWork h u.t u.c _) u.t u.c _
  case h_2 => exact h

theorem putQc_endsWork (d : Fin 4) (q : Fin 512) (x : QCtl) : EndsWork a (putQc s d q x) := by
  have hne : ∀ d' : Fin 4, tmoveAt d' ≠ qcStat d q := (tmoveAt_ne_qcStat · d q)
  have stored : EndsWork a { s with qcs := mset {} s.qcs (qcKey d q) x } := frame_endsWork h rfl rfl rfl
  unfold putQc
  exact setFlag_other_endsWork (setFlag_other_endsWork
    (setFld_other_endsWork (setFld_other_endsWork stored _ _ _ hne) _ _ _ hne) _ _ hne) _ _ hne

theorem qcAnswered_endsWork (d : Fin 4) (q : Fin 512) (e : Status) : EndsWork a (qcAnswered s d q e) := by
  have hne : ∀ d' : Fin 4, tmoveAt d' ≠ qcStat d q := (tmoveAt_ne_qcStat · d q)
  unfold qcAnswered
  dsimp only
  split
  · exact h
  · exact setFlag_other_endsWork (setFld_other_endsWork (putQc_endsWork h d q _) _ _ _ hne) _ _ hne

theorem mbEnd_endsWork (c : Fin 2) (e : Status) (n : Nat) : EndsWork a (mbEnd s c e n) := by
  have hne : ∀ d' : Fin 4, tmoveAt d' ≠ mbCtl c := (tmoveAt_ne_mbCtl · c)
  refine sendPkt_endsWork (setFld_other_endsWork (setFld_other_endsWork ?_ _ _ _ hne) _ _ _ hne) _
  refine setFlag_other_endsWork ?_ _ _ hne
  exact frame_endsWork h rfl rfl rfl

theorem completeTag_endsWork (u : TagUse) : EndsWork a (completeTag s u stNocFenced) := by
  cases u with
  | stream u => exact streamAnswered_endsWork h (r := { op := 0x81, status := BitVec.ofNat 8 stNocFenced }) (by decide) (.stream u)
  | endpoint r => exact h
  | qc d q => exact qcAnswered_endsWork h d q _
  | signal t q pc => exact unitEnded_endsWork h t q 4 pc _
  | pcie => exact frame_endsWork h rfl rfl rfl
  | mailbox c => exact mbEnd_endsWork h c _ _
  | other => exact h

theorem abandonNode_endsWork (node : Nat) : EndsWork a (abandonNode s node) := by
  refine foldl_endsWork h _ fun u x hu => ?_
  have expired : EndsWork a (expireTag u node x.1) := frame_endsWork hu rfl rfl rfl
  dsimp only
  split
  · refine unitEnded_endsWork ?_ _ _ 4 _ _
    split
    · exact modRun_endsWork expired _ _ _
    · exact expired
  · exact completeTag_endsWork expired _
  · exact expired

theorem setFstate_endsWork (d ep v : Nat) : EndsWork a (setFstate s d ep v) := setFld_endsWork h _ _ (by decide)

theorem setAbandon_endsWork (d ep : Nat) (b : Bool) : EndsWork a (setAbandon s d ep b) := frame_endsWork h rfl rfl rfl

theorem fenceStart_endsWork (d ep : Nat) (abandon : Bool) : EndsWork a (fenceStart s d ep abandon) := by
  have fenced : EndsWork a (setFstate (setAbandon s d ep false) d ep 1) :=
    setFstate_endsWork (setAbandon_endsWork h d ep false) d ep 1
  have abandoned : EndsWork a (abandonNode (setAbandon (setFstate s d ep 1) d ep true) (d * 256 + ep)) :=
    abandonNode_endsWork (setAbandon_endsWork (setFstate_endsWork h d ep 1) d ep true) _
  unfold fenceStart
  dsimp only
  split
  · exact h
  · split
    · split
      · exact h
      · exact abandoned
    · split
      · exact fenced
      · exact h

/-! ### Step 1 of a move (R423) -/

theorem holdForMove_endsWork (t : TileId) (q : Nat) : EndsWork a (holdForMove s t q) := by
  unfold holdForMove
  split
  · exact h
  · split
    · exact modRun_endsWork h t q _
    · split
      · exact setQState_endsWork (modRun_endsWork h t q _) t q 3
      · exact h

theorem setPhys_endsWork (d e : Nat) (x : PhysTile) : EndsWork a (setPhys s d e x) := frame_endsWork h rfl rfl rfl

theorem setFenced_endsWork (t : TileId) (b : Bool) : EndsWork a (setFenced s t b) :=
  setFlag_other_endsWork h _ b (tmoveAt_ne_stAt · t)

end

/-- The tile at the start of its fence: without weight tag, ready pass and lanes. -/
def clearedForFence (x : Tile) : Tile := { x with wtag := none, ready := none, front := none, vlanes := [], vlost := none }

theorem fenceTile_endsWork (s : State) (t : TileId) : EndsWork (modTile (setFenced s t true) t clearedForFence) (fenceTile s t) := by
  refine fenceStart_endsWork (endKernel_endsWork (foldl_endsWork (fenceStreams_endsWork ?_ t) _ fun _ p hu =>
    abortPass_endsWork hu t p.seq _ true) t _) _ _ true
  split
  · exact .refl _
  · exact setFlag_endsWork (.refl _) _ false (by decide)

/-- A fence changes no move's STATE, and leaves its tile no weight tag, no ready pass and no lanes (R136, R423). -/
theorem fenceTile_clears (s : State) (t : TileId) : (∀ d : Fin 4, tmoveState (fenceTile s t) d = tmoveState s d) ∧
    (getTile (fenceTile s t) t).wtag = none ∧ (getTile (fenceTile s t) t).ready = none ∧ (getTile (fenceTile s t) t).vlanes = [] := by
  have ends := fenceTile_endsWork s t
  obtain ⟨hwtag, hvlanes, hready⟩ := ends.tile t
  simp only [modTile_eq, getTile_setTile_same] at hwtag hvlanes hready
  exact ⟨fun d => (ends.moves d).trans ((setFenced_endsWork (.refl s) t true).moves d), hwtag, hready rfl, hvlanes⟩

end Sys2Proof.Machine
end

section
/-! SUPPORT. Tile moves and cluster sparing: what each command does by the state of RL_TMOVE and RL_CSPARE. -/

namespace Sys2Proof.Machine
open Sys2Proof

/-! ### GO in RL_TMOVE (R422-R424) -/

theorem exec_tileMoveFault {s : State} (hrun : running s = true) (d : Fin 4) (v : Word) :
    exec (.tileMoveFault d v) s = .next (moveFault s d (setBits v 63 62 2)) := by
  change execTileMoveFault d v s = _
  exact whenRunning_running hrun _

theorem exec_tileMoveRotate {s : State} (hrun : running s = true) (d : Fin 4) (v : Word) (readback : Bool) :
    exec (.tileMoveRotate d v readback) s = .next (moveRotate s d (setBits v 63 62 3) readback) := by
  change execTileMoveRotate d v readback s = _
  exact whenRunning_running hrun _

/-- RL_TMOVE after a write of `v`. -/
def tmoveStored (s : State) (d : Fin 4) (v : Word) : State := plainWrite s .rlTmove (tmoveAt d) v

/-- The state in which a GO acts: its operands are kept for the move. -/
def tmoveTaken (s : State) (d : Fin 4) (v : Word) : State :=
  { tmoveStored s d v with moving := mset 0 (tmoveStored s d v).moving d v }

theorem tmoveGo_busy {s : State} {d : Fin 4} (h : tmoveState s d = 1) (v : Word) (f : State → State) :
    tmoveGo s d v f = tmoveStored s d v :=
  if_pos h

theorem tmoveGo_idle {s : State} {d : Fin 4} (h : tmoveState s d ≠ 1) (v : Word) (f : State → State) :
    tmoveGo s d v f = f (tmoveTaken s d v) :=
  if_neg h

theorem moveFault_refused {s : State} {d : Fin 4} {v : Word} (h : tmoveState s d ≠ 1)
    (hbad : tmoveTile d v = none ∨ spareOk (tmoveTaken s d v) d v = false) :
    moveFault s d v = setTmove (tmoveTaken s d v) d 2 1 := by
  rw [moveFault, tmoveGo_idle h]
  rcases hbad with hbad | hbad
  · simp [hbad]
  · cases tmoveTile d v <;> simp [hbad]

/-- Step 1 of a fault move in the state that shows it MOVING (R423). -/
def moveStep1 (s : State) (d : Fin 4) (t : TileId) : State :=
  fenceTile (holdForMove (holdForMove (setPhys s d (epOf s t) { getPhys s d (epOf s t) with status := 3 }) t 0) t 1) t

theorem moveFault_starts {s : State} {d : Fin 4} {v : Word} {t : TileId} (h : tmoveState s d ≠ 1) (ht : tmoveTile d v = some t)
    (hspare : spareOk (tmoveTaken s d v) d v = true) : moveFault s d v = moveStep1 (setTmove (tmoveTaken s d v) d 1 0) d t := by
  rw [moveFault, tmoveGo_idle h]
  simp [ht, hspare, moveStep1]

/-- Step 1 keeps the move MOVING and leaves the tile no weight tag, no ready pass and no lanes. -/
theorem moveStep1_clears (s : State) (d : Fin 4) (t : TileId) : tmoveState (moveStep1 s d t) d = tmoveState s d ∧
    (getTile (moveStep1 s d t) t).wtag = none ∧ (getTile (moveStep1 s d t) t).ready = none ∧
    (getTile (moveStep1 s d t) t).vlanes = [] := by
  have held : EndsWork s (holdForMove (holdForMove (setPhys s d (epOf s t) { getPhys s d (epOf s t) with status := 3 }) t 0) t 1) :=
    holdForMove_endsWork (holdForMove_endsWork (setPhys_endsWork (.refl s) d (epOf s t) _) t 0) t 1
  obtain ⟨hmoves, hcleared⟩ := fenceTile_clears
    (holdForMove (holdForMove (setPhys s d (epOf s t) { getPhys s d (epOf s t) with status := 3 }) t 0) t 1) t
  exact ⟨(hmoves d).trans (held.moves d), hcleared⟩

theorem moveRotate_refused {s : State} {d : Fin 4} {v : Word} (h : tmoveState s d ≠ 1) (readback : Bool)
    (hbad : tmoveTile d v = none ∨ spareOk (tmoveTaken s d v) d v = false ∨
      ∃ t, tmoveTile d v = some t ∧ quiesced (tmoveTaken s d v) t = false) :
    moveRotate s d v readback = setTmove (tmoveTaken s d v) d 2 1 := by
  rw [moveRotate, tmoveGo_idle h]
  rcases hbad with hbad | hbad | ⟨t, ht, hbad⟩
  · simp [hbad]
  · cases tmoveTile d v <;> simp [hbad]
  · simp [ht, hbad]

theorem moveRotate_runs {s : State} {d : Fin 4} {v : Word} {t : TileId} (h : tmoveState s d ≠ 1) (readback : Bool)
    (ht : tmoveTile d v = some t) (hspare : spareOk (tmoveTaken s d v) d v = true) (hquiet : quiesced (tmoveTaken s d v) t = true) :
    let s2 := tmoveTaken s d v
    let f := fenceTile s2 t
    moveRotate s d v readback = if readback then
      movedEvent (setTmove (mapTo (modTile (invalidLas f t) t freshRegs) t (epOf s2 t) (tmoveSpare v) 1) d 2 0) t (epOf s2 t)
        (tmoveSpare v) true 0
    else
      movedEvent (setTmove (setFenced (setFstate (setPhys f d (tmoveSpare v) { getPhys f d (tmoveSpare v) with status := 2 }) d
        (epOf s2 t) 0) t false) d 2 2) t (epOf s2 t) (tmoveSpare v) true 2 := by
  rw [moveRotate, tmoveGo_idle h]
  simp [ht, hspare, hquiet]

/-! ### The end of a move (R423 steps 2-4) -/

theorem tmoveTile_die {d : Fin 4} {v : Word} {t : TileId} (h : tmoveTile d v = some t) : t.die = d := by
  unfold tmoveTile at h
  dsimp only at h
  split at h
  · split at h
    · cases h; rfl
    · cases h
  · cases h; rfl

theorem getPhys_setPhys_ne (s : State) (d : Nat) {e e' : Nat} (x : PhysTile) (h : e' ≠ e) :
    getPhys (setPhys s d e x) d e' = getPhys s d e' := by
  have hkey : d * 256 + e' ≠ d * 256 + e := by omega
  simp only [getPhys, setPhys, mget_mset_ne _ _ _ _ hkey]

theorem getPhys_congr {s u : State} (h : u.phys = s.phys) (d e : Nat) : getPhys u d e = getPhys s d e := by
  rw [getPhys, getPhys, h]

theorem getTile_congr {s u : State} (h : u.tiles = s.tiles) (t : TileId) : getTile u t = getTile s t := by
  rw [getTile, getTile, h]

theorem setFstate_tiles (s : State) (d ep v : Nat) : (setFstate s d ep v).tiles = s.tiles := by rw [setFstate, setFld_tiles]
theorem setFstate_phys (s : State) (d ep v : Nat) : (setFstate s d ep v).phys = s.phys := by rw [setFstate, setFld_phys]
theorem setFenced_tiles (s : State) (t : TileId) (b : Bool) : (setFenced s t b).tiles = s.tiles := by rw [setFenced, setFlag_tiles]
theorem setFenced_phys (s : State) (t : TileId) (b : Bool) : (setFenced s t b).phys = s.phys := by rw [setFenced, setFlag_phys]
theorem setTmove_tiles (s : State) (d st res : Nat) : (setTmove s d st res).tiles = s.tiles := by rw [setTmove, setFld_tiles]
theorem setTmove_phys (s : State) (d st res : Nat) : (setTmove s d st res).phys = s.phys := by rw [setTmove, setFld_phys]

theorem fenceFinish_tiles (s : State) (d ep : Nat) : (fenceFinish s d ep).tiles = s.tiles := by
  rw [fenceFinish]
  split
  · rw [sendPkt_tiles, setFstate_tiles]
  · rfl

theorem fenceFinish_phys (s : State) (d ep : Nat) : (fenceFinish s d ep).phys = s.phys := by
  rw [fenceFinish]
  split
  · rw [sendPkt_phys, setFstate_phys]
  · rfl

theorem mapTo_tiles (s : State) (t : TileId) (old new oldStatus : Nat) : (mapTo s t old new oldStatus).tiles = s.tiles := by
  rw [mapTo, setFenced_tiles, setFstate_tiles, fenceFinish_tiles]
  split <;> simp

/-- The map's two entries: the old physical tile takes the status given, the new one serves the logical tile (R20, R21). -/
theorem mapTo_phys (s : State) (t : TileId) {old new : Nat} (oldStatus : Nat) (hne : old ≠ new) :
    (getPhys (mapTo s t old new oldStatus) t.die new).status = 0 ∧ (getPhys (mapTo s t old new oldStatus) t.die old).status = oldStatus := by
  have key : ∀ e, getPhys (mapTo s t old new oldStatus) t.die e =
      getPhys (setPhys (setPhys s t.die old { getPhys s t.die old with status := oldStatus, logical := 255 }) t.die new
        { getPhys (setPhys s t.die old { getPhys s t.die old with status := oldStatus, logical := 255 }) t.die new with
          status := 0, logical := tileIdx t }) t.die e := by
    refine fun e => getPhys_congr ?_ _ _
    rw [mapTo, setFenced_phys, setFstate_phys, fenceFinish_phys]
    split <;> simp
  rw [key, key, getPhys_setPhys_ne _ _ _ hne, getPhys_setPhys_same, getPhys_setPhys_same]
  exact ⟨rfl, rfl⟩

/-- An event changes no move's STATE, and neither tiles nor physical tiles. -/
theorem logEvent_frame (s : State) (code die unit sev detail : Nat) : EndsWork s (logEvent s code die unit sev detail) ∧
    (logEvent s code die unit sev detail).tiles = s.tiles ∧ (logEvent s code die unit sev detail).phys = s.phys := by
  have counted : ∀ u, u = (if sev = 0 then s else objSetN s 0x0E01 sev (objN s 0x0E01 sev + 1)) →
      EndsWork s u ∧ u.tiles = s.tiles ∧ u.phys = s.phys := by
    rintro _ rfl
    split
    · exact ⟨.refl s, rfl, rfl⟩
    · exact ⟨frame_endsWork (.refl s) rfl rfl rfl, rfl, rfl⟩
  unfold logEvent
  dsimp only
  generalize hu : (if sev = 0 then s else objSetN s 0x0E01 sev (objN s 0x0E01 sev + 1)) = u
  obtain ⟨hends, htiles, hphys⟩ := counted u hu.symm
  have numbered : EndsWork s (wr u logNewAt (BitVec.ofNat 64 ((rd u logNewAt).toNat + 1))) := wr_endsWork hends _ tmoveAt_ne_logNewAt
  split
  · exact ⟨frame_endsWork hends rfl rfl rfl, htiles, hphys⟩
  · split
    · refine ⟨setFld_endsWork ?_ _ _ (by decide), htiles, hphys⟩
      exact frame_endsWork numbered rfl rfl rfl
    · exact ⟨frame_endsWork numbered rfl rfl rfl, htiles, hphys⟩

/-- What a fault move leaves of the tile: its kernel memory, and nothing of its scratch, its marks and its registers. -/
def movedTile (t : TileId) (x : Tile) : Tile :=
  freshRegs { x with
    mem := if isV t then { bytes := x.mem.bytes.filter (fun c => 0x100000 ≤ c.1), poison := x.mem.poison.filter (fun c => 0x4000 ≤ c.1) }
      else {}
    invalid := [], accUe := if isV t then x.accUe else [] }

/-- The state in which a fault move has ended. -/
def moveEnded (s : State) (d : Fin 4) (t : TileId) (old new : Nat) : State :=
  movedEvent (setTmove (mapTo (invalidLas (setTile s t (movedTile t (getTile s t))) t) t old new 2) d 2 0) t old new false 0

theorem exec_tileMoved_idle {s : State} {d : Fin 4} (hrun : running s = true)
    (h : tmoveState s d ≠ 1 ∨ tmoveTile d (mget 0 s.moving d.val) = none ∨ ∃ t, tmoveTile d (mget 0 s.moving d.val) = some t ∧
      ((getTile s t).passes ≠ [] ∨ (getTile s t).kernel.isSome = true)) : exec (.tileMoved d) s = .next s := by
  change execTileMoved d s = _
  refine (whenRunning_running hrun _).trans (congrArg _ ?_)
  rcases h with h | h | ⟨t, ht, h⟩
  · exact if_pos h
  · simp only [h, ite_self]
  · have hworks : (!(getTile s t).passes.isEmpty || (getTile s t).kernel.isSome) = true := by simpa using h
    simp only [ht, hworks, if_true, ite_self]

theorem exec_tileMoved_ends {s : State} {d : Fin 4} {t : TileId} (hrun : running s = true) (h : tmoveState s d = 1)
    (ht : tmoveTile d (mget 0 s.moving d.val) = some t) (hpass : (getTile s t).passes = []) (hkernel : (getTile s t).kernel = none) :
    exec (.tileMoved d) s = .next (moveEnded s d t (epOf s t) (tmoveSpare (mget 0 s.moving d.val))) := by
  change execTileMoved d s = _
  refine (whenRunning_running hrun _).trans (congrArg _ ?_)
  simp only [ht]
  rw [if_neg (Classical.not_not.2 h), if_neg (by simp [hpass, hkernel])]
  rfl

theorem moveEnded_phys (s : State) (d : Fin 4) (t : TileId) {old new : Nat} (hdie : t.die = d) (hne : old ≠ new) :
    (getPhys (moveEnded s d t old new) d new).status = 0 ∧ (getPhys (moveEnded s d t old new) d old).status = 2 := by
  subst hdie
  have key : (moveEnded s t.die t old new).phys = (mapTo (invalidLas (setTile s t (movedTile t (getTile s t))) t) t old new 2).phys := by
    rw [moveEnded, movedEvent, (logEvent_frame ..).2.2, setTmove_phys]
  rw [getPhys_congr key, getPhys_congr key]
  exact mapTo_phys _ t 2 hne

theorem moveEnded_tile (s : State) (d : Fin 4) (t : TileId) (old new : Nat) :
    getTile (moveEnded s d t old new) t = movedTile t (getTile s t) := by
  have key : (moveEnded s d t old new).tiles = (setTile s t (movedTile t (getTile s t))).tiles := by
    rw [moveEnded, movedEvent, (logEvent_frame ..).2.1, setTmove_tiles, mapTo_tiles, invalidLas]
    split <;> simp
  rw [getTile_congr key, getTile_setTile_same]

theorem tmoveState_moveEnded (s : State) (d : Fin 4) (t : TileId) (old new : Nat) : tmoveState (moveEnded s d t old new) d = 2 := by
  rw [moveEnded, movedEvent, (logEvent_frame ..).1.moves, tmoveState_setTmove _ _ (by decide) (by decide)]

theorem movedTile_poison (t : TileId) (x : Tile) : (movedTile t x).mem.poison.all (fun c => 0x4000 ≤ c.1) = true := by
  unfold movedTile freshRegs
  dsimp only
  split <;> simp

/-! ### Cluster sparing (R426) -/

theorem exec_clusterSpared {s : State} (hrun : running s = true) (d : Fin 4) (v : Word) :
    exec (.clusterSpared d v) s = .next (writeCspare s d (setBit v 63 true)) := by
  change execClusterSpared d v s = _
  exact whenRunning_running hrun _

theorem writeCspare_busy {s : State} {d : Fin 4} (h : cspareState s d = 1) (v : Word) :
    writeCspare s d v = plainWrite s .rlCspare (cspareAt d) v := by
  simp [writeCspare, h]

theorem getRegion_congr {s u : State} (h : u.regions = s.regions) (r : RegionId) : getRegion u r = getRegion s r := by
  rw [getRegion, getRegion, h]

theorem modRegion_congr {s u : State} (h : u.regions = s.regions) (r : RegionId) (f : Region → Region) :
    modRegion u r f = setRegion u r (f (getRegion s r)) := by
  rw [modRegion, getRegion_congr h]

/-- A GO of an idle die goes by the region and the cluster that it names. -/
theorem writeCspare_go {s : State} {d : Fin 4} {v : Word} (h : cspareState s d ≠ 1) (hgo : bit v 63 = true) :
    let s1 := plainWrite s .rlCspare (cspareAt d) v
    let r := cspareRegion d v
    writeCspare s d v =
      if regState s1 r < 2 ∨ 4 < regState s1 r ∨ regBusy s1 r = true ∨ 200 ≤ bits v 58 51 then setCspare s1 d 2 2
      else if 2 ≤ (getRegion s r).spares.length then setCspare s1 d 2 1
      else setCspare (setRegion { s1 with sparing := mset 0 s1.sparing d v } r { getRegion s r with paused := true }) d 1 0 := by
  have hstored : (plainWrite s .rlCspare (cspareAt d) v).regions = s.regions := by rw [plainWrite, wr_regions]
  unfold writeCspare
  dsimp only
  rw [if_neg (by simp [h, hgo]), getRegion_congr hstored, modRegion_congr (s := s)]
  dsimp only
  exact hstored
/-- Settles O52: what a GO does by the state of its register, and what the commands that end a move or a sparing leave. -/
theorem sparingCompletes : Obligations.SparingCompletes := by
  intro s d hrun
  refine ⟨fun v => ⟨fun hbusy => ?_, fun hidle hbad => ?_, fun t hidle ht hspare => ?_⟩,
    fun v b => ⟨fun hbusy => ?_, fun hidle hbad => ?_, fun t hidle ht hactive => ?_, fun t hidle ht hspare hquiet => ?_⟩,
    fun hidle => exec_tileMoved_idle hrun (.inl hidle), fun _ hnone => exec_tileMoved_idle hrun (.inr (.inl hnone)),
    fun t _ ht hworks => exec_tileMoved_idle hrun (.inr (.inr ⟨t, ht, hworks⟩)),
    fun t hmoves ht hpass hkernel hne => ?_, fun v => ⟨fun hbusy => ?_, fun hidle => ?_⟩, fun hidle b => ?_, fun hbusy b => ?_⟩
  · rw [exec_tileMoveFault hrun, moveFault, tmoveGo_busy hbusy]; rfl
  · rw [exec_tileMoveFault hrun, moveFault_refused hidle hbad]; rfl
  · rw [exec_tileMoveFault hrun, moveFault_starts hidle ht hspare]
    obtain ⟨hstate, hwtag, hready, hvlanes⟩ := moveStep1_clears (setTmove (tmoveTaken s d (setBits v 63 62 2)) d 1 0) d t
    exact ⟨_, rfl, rfl, hstate.trans (tmoveState_setTmove _ _ (by decide) (by decide)), hwtag, hready, hvlanes⟩
  · rw [exec_tileMoveRotate hrun, moveRotate, tmoveGo_busy hbusy]; rfl
  · rw [exec_tileMoveRotate hrun, moveRotate_refused hidle b (hbad.imp_right .inl)]; rfl
  · rw [exec_tileMoveRotate hrun, moveRotate_refused hidle b (.inr (.inr ⟨t, ht, hactive⟩))]; rfl
  · rw [exec_tileMoveRotate hrun, moveRotate_runs hidle b ht hspare hquiet]; rfl
  · refine ⟨_, exec_tileMoved_ends hrun hmoves ht hpass hkernel, tmoveState_moveEnded .., ?_⟩
    obtain ⟨hnew, hold⟩ := moveEnded_phys s d t (tmoveTile_die ht) hne
    rw [moveEnded_tile]
    exact ⟨hnew, hold, movedTile_poison t _, rfl, rfl⟩
  · rw [exec_clusterSpared hrun, writeCspare_busy hbusy]
  · rw [exec_clusterSpared hrun, writeCspare_go hidle (bit_setBit_same _ _ (by decide))]
    refine ⟨fun hbad => ?_, fun hlow hhigh hfree hcluster => ⟨fun hfull => ?_, fun hroom => ?_⟩⟩
    · rw [if_pos hbad]
    all_goals
      rw [if_neg (by
        rintro (hbad | hbad | hbad | hbad)
        case inr.inr.inl => exact absurd (hfree.symm.trans hbad) (by decide)
        all_goals omega)]
    · rw [if_pos hfull]
    · rw [if_neg (by omega)]
  · change execClusterSpareDone d b s = _
    rw [execClusterSpareDone, whenRunning_running hrun, if_pos hidle]
  · change execClusterSpareDone d b s = _
    rw [execClusterSpareDone, whenRunning_running hrun, if_neg (Classical.not_not.2 hbusy)]
    cases b <;> rfl

end Sys2Proof.Machine
end

section
/-! SUPPORT. Elements of block formats: what a scale code and an element code stand for (R41, R42, R46, R47). -/

namespace Sys2Proof.Machine
open Sys2Proof

/-! ### Codes in memory: two's complement fields of little-endian numbers -/

/-- A field of n + 1 bits lies in two's complement's range, and is the least value only for the code of its sign bit alone. -/
theorem sextN_range (n x : Nat) :
    -(2 ^ n) ≤ sextN (n + 1) x ∧ sextN (n + 1) x < 2 ^ n ∧ (sextN (n + 1) x = -(2 ^ n) ↔ x % 2 ^ (n + 1) = 2 ^ n) := by
  have hlt : x % 2 ^ (n + 1) < 2 ^ (n + 1) := Nat.mod_lt _ (Nat.two_pow_pos _)
  have hcast : ((2 ^ n : Nat) : Int) = 2 ^ n := by norm_cast
  unfold sextN
  generalize x % 2 ^ (n + 1) = y at *
  rw [Nat.pow_succ] at *
  rw [← hcast]
  split <;> omega

theorem sextN_eq_min {n x : Nat} (hx : x < 2 ^ (n + 1)) : sextN (n + 1) x = -(2 ^ n) ↔ x = 2 ^ n := by
  rw [(sextN_range n x).2.2, Nat.mod_eq_of_lt hx]

/-- Without the least value a field's range is the same on both sides of zero. -/
theorem sextN_range_of_ne_min {n x : Nat} (h : sextN (n + 1) x ≠ -(2 ^ n)) :
    -(2 ^ n - 1) ≤ sextN (n + 1) x ∧ sextN (n + 1) x ≤ 2 ^ n - 1 := by
  obtain ⟨hlow, hhigh, -⟩ := sextN_range n x
  omega

theorem numAt_succ (m : ByteAt) (a n : Nat) : numAt m a (n + 1) = (m a).toNat + 256 * numAt m (a + 1) n := by
  simp [numAt, bytesAt, List.range_succ_eq_map, leNat, Function.comp_def, Nat.add_assoc, Nat.add_comm 1]

theorem numAt_lt (m : ByteAt) : ∀ a n : Nat, numAt m a n < 256 ^ n
  | _, 0 => by simp [numAt, bytesAt, leNat]
  | a, n + 1 => by
    have hbyte := (m a).isLt
    have hrest := numAt_lt m (a + 1) n
    rw [numAt_succ, Nat.pow_succ]
    omega

theorem sextN_byte_eq_min (b : Byte) : sextN 8 b.toNat = -128 ↔ b = 0x80 :=
  (sextN_eq_min (n := 7) b.isLt).trans (BitVec.toNat_inj (y := 0x80))

theorem sextN_numAt_two_eq_min (m : ByteAt) (a : Nat) : sextN 16 (numAt m a 2) = -32768 ↔ numAt m a 2 = 0x8000 :=
  sextN_eq_min (n := 15) (numAt_lt m a 2)

theorem sextN_numAt_eight_eq_min (m : ByteAt) (a : Nat) :
    sextN 64 (numAt m a 8) = i64Nar ↔ numAt m a 8 = 0x8000000000000000 :=
  sextN_eq_min (n := 63) (numAt_lt m a 8)

/-! ### Block scales (R41, R46) -/

theorem blockScale_byte (m : ByteAt) {f : Nat} (hf : f ≤ 2) (sbase b : Nat) :
    blockScale m f sbase b = if m (sbase + b) = 0x80 then none else some (sextN 8 (m (sbase + b)).toNat) := by
  rw [blockScale, if_neg (by omega)]
  simp only [sextN_byte_eq_min]

theorem blockScale_word (m : ByteAt) (sbase b : Nat) :
    blockScale m 4 sbase b =
      if numAt m (sbase + 2 * b) 2 = 0x8000 then none else some (sextN 16 (numAt m (sbase + 2 * b) 2)) := by
  rw [blockScale, if_pos rfl]
  simp only [sextN_numAt_two_eq_min]

theorem sextN_byte_range {b : Byte} (h : b ≠ 0x80) : -127 ≤ sextN 8 b.toNat ∧ sextN 8 b.toNat ≤ 127 :=
  sextN_range_of_ne_min (n := 7) (mt (sextN_byte_eq_min b).1 h)

theorem sextN_numAt_two_range {m : ByteAt} {a : Nat} (h : numAt m a 2 ≠ 0x8000) :
    -32767 ≤ sextN 16 (numAt m a 2) ∧ sextN 16 (numAt m a 2) ≤ 32767 :=
  sextN_range_of_ne_min (n := 15) (mt (sextN_numAt_two_eq_min m a).1 h)

/-! ### Elements (R42, R47) -/

theorem narCode_neg (f : Nat) : narCode f < 0 := by
  unfold narCode
  repeat' split
  all_goals decide

theorem codeAt_pair_eq_nar (m : ByteAt) (base i : Nat) :
    codeAt m 4 base i = narCode 4 ↔ numAt m (base + 16 * i) 8 = 0x8000000000000000 := by
  simp only [codeAt, narCode, Nat.reduceEqDiff, if_false]
  exact sextN_numAt_eight_eq_min m _

theorem isBlock_of_le {f : Nat} (hf : f ≤ 2) : isBlock f = true := by
  simp [isBlock, hf]

section
variable {m : ByteAt} {f base sbase i : Nat} {e : Int} (ctx : Int)

theorem srcAt_narBlock (hf : isBlock f = true) (hscale : blockScale m f sbase (i / 32) = none) :
    srcAt m f base sbase ctx i = .nar := by
  rw [srcAt, if_pos hf, hscale]

theorem srcAt_narElement (hf : isBlock f = true) (hscale : blockScale m f sbase (i / 32) = some e)
    (hcode : codeAt m f base i = narCode f) : srcAt m f base sbase ctx i = .nar := by
  rw [srcAt, if_pos hf, hscale]
  exact if_pos hcode

theorem srcAt_finite (hf : f ≤ 2) (hscale : blockScale m f sbase (i / 32) = some e) (hcode : codeAt m f base i ≠ narCode f) :
    srcAt m f base sbase ctx i = .fin (codeAt m f base i) e false := by
  rw [srcAt, if_pos (isBlock_of_le hf), hscale]
  dsimp only
  rw [if_neg hcode, if_neg (by omega)]

theorem srcAt_pair (hscale : blockScale m 4 sbase (i / 32) = some e) (hcode : codeAt m 4 base i ≠ narCode 4) :
    srcAt m 4 base sbase ctx i = .fin (pairInt (codeAt m 4 base i) (loAt m base i)) (e - 63) false := by
  rw [srcAt, if_pos (by decide), hscale]
  dsimp only
  rw [if_neg hcode, if_pos rfl]

end

/-- Settles O9: the block's scale decides first, then the element's code. -/
theorem blockElementsDecode : Obligations.BlockElementsDecode := by
  intro m f base sbase ctx i
  refine ⟨fun hf => ⟨fun hnar => ?_, fun hne => ?_⟩, ⟨fun hnar => ?_, fun hne => ?_⟩, fun _ _ => rfl⟩
  · exact srcAt_narBlock ctx (isBlock_of_le hf) ((blockScale_byte m hf sbase _).trans (if_pos hnar))
  · have hscale := (blockScale_byte m hf sbase (i / 32)).trans (if_neg hne)
    obtain ⟨hlow, hhigh⟩ := sextN_byte_range hne
    refine ⟨hlow, hhigh, srcAt_narElement ctx (isBlock_of_le hf) hscale, srcAt_finite ctx hf hscale, fun hzero => ?_⟩
    have hfinite := srcAt_finite (base := base) ctx hf hscale (by rw [hzero]; exact (Int.ne_of_lt (narCode_neg f)).symm)
    rwa [hzero] at hfinite
  · exact srcAt_narBlock ctx rfl ((blockScale_word m sbase _).trans (if_pos hnar))
  · have hscale := (blockScale_word m sbase (i / 32)).trans (if_neg hne)
    obtain ⟨hlow, hhigh⟩ := sextN_numAt_two_range hne
    exact ⟨hlow, hhigh, fun hcode => srcAt_narElement ctx rfl hscale ((codeAt_pair_eq_nar m base i).2 hcode),
      fun hcode => srcAt_pair ctx hscale (mt (codeAt_pair_eq_nar m base i).1 hcode)⟩

end Sys2Proof.Machine
end

section
/-! SUPPORT. Convergent rounding, and conversion into A48 (R54, R55, R63). -/

namespace Sys2Proof.Machine
open Sys2Proof

/-! ### Rounding (R54, R55) -/

/-- The floor's remainder lies in [0, 2^k): above the half, or at it from an odd floor, the next integer is the nearest even. -/
theorem convRound_nearestEven (x : Int) (k : Nat) : NearestEven x k (convRound x k).1 := by
  have hcast : ((2 ^ k : Nat) : Int) = 2 ^ k := by norm_cast
  have hpos : (0 : Int) < 2 ^ k := Int.pow_pos (by decide)
  have hnonneg := Int.emod_nonneg x (Int.ne_of_gt hpos)
  have hlt := Int.emod_lt_of_pos x hpos
  have hdiv := Int.ediv_mul_add_emod x (2 ^ k)
  simp only [convRound, hcast, NearestEven]
  split
  case isTrue hup =>
    have herr : (x / 2 ^ k + 1) * 2 ^ k - x = 2 ^ k - x % 2 ^ k := by
      rw [Int.add_mul, Int.one_mul]
      omega
    rw [herr]
    omega
  case isFalse hdown =>
    have herr : x / 2 ^ k * 2 ^ k - x = -(x % 2 ^ k) := by omega
    rw [herr]
    omega

theorem convRound_inexact (x : Int) (k : Nat) : (convRound x k).2 = true ↔ x % 2 ^ k ≠ 0 := by
  simp [convRound]

theorem roundTo_shl {e scale : Int} (h : scale ≤ e) (m : Int) : roundTo m e scale = (m * 2 ^ (e - scale).toNat, false) := by
  rw [roundTo, if_pos h, shl]
  norm_cast

theorem roundTo_convRound {e scale : Int} (h : e < scale) (m : Int) : roundTo m e scale = convRound m (scale - e).toNat := by
  rw [roundTo, if_neg (by omega)]

theorem roundTo_inexact (m e scale : Int) :
    (roundTo m e scale).2 = true ↔ e < scale ∧ m % 2 ^ (scale - e).toNat ≠ 0 := by
  rcases Int.lt_or_le e scale with h | h
  · simp only [roundTo_convRound h, convRound_inexact, h, true_and]
  · simp only [roundTo_shl h, Int.not_lt.2 h, Bool.false_eq_true, false_and]

/-! ### Saturation and flags (R56, R63) -/

theorem clip_above {lim x : Int} (h : lim < x) : clip lim x = (lim, true) := if_pos h

theorem clip_below {lim x : Int} (hlim : 0 ≤ lim) (h : x < -lim) : clip lim x = (-lim, true) := by
  rw [clip, if_neg (by omega), if_pos h]

theorem clip_within {lim x : Int} (hlow : -lim ≤ x) (hhigh : x ≤ lim) : clip lim x = (x, false) := by
  rw [clip, if_neg (by omega), if_neg (by omega)]

theorem clip_saturates (lim x : Int) : (clip lim x).2 = true ↔ lim < x ∨ x < -lim := by
  unfold clip
  split
  case isTrue habove => exact iff_of_true rfl (.inl habove)
  case isFalse habove =>
    split
    case isTrue hbelow => exact iff_of_true rfl (.inr hbelow)
    case isFalse hbelow => exact iff_of_false Bool.false_ne_true (not_or.2 ⟨habove, hbelow⟩)

theorem flags_ovf (ovf inx : Bool) : (fl ovf fOvf ||| fl inx fInx) &&& fOvf ≠ 0 ↔ ovf = true := by
  cases ovf <;> cases inx <;> decide

theorem flags_inx (ovf inx : Bool) : (fl ovf fOvf ||| fl inx fInx) &&& fInx ≠ 0 ↔ inx = true := by
  cases ovf <;> cases inx <;> decide

/-- Settles O10: the value is rounded at the context scale, then clipped; each flag tells of one of the two. -/
theorem conversionIntoA48 : Obligations.ConversionIntoA48 := by
  intro m e scale
  refine ⟨(roundTo m e scale).1, fun h => ?_, fun h => ?_, fun h => ?_, fun h => ?_, fun hlow hhigh => ?_, ?_, ?_⟩
  · rw [roundTo_shl h]
  · rw [roundTo_convRound h]
    exact convRound_nearestEven m _
  · exact congrArg Prod.fst (clip_above h)
  · exact congrArg Prod.fst (clip_below (by decide) h)
  · exact congrArg Prod.fst (clip_within hlow hhigh)
  · exact (flags_ovf _ _).trans (clip_saturates _ _)
  · exact (flags_inx _ _).trans (roundTo_inexact m e scale)

end Sys2Proof.Machine
end

section
/-! SUPPORT. Insertions into a long accumulator: each merges the accumulator of its product alone, and merges commute (R88-R91). -/

namespace Sys2Proof.Machine
open Sys2Proof

/-! ### Merges (R91, R157) -/

/-- An accumulator holds both infinities. -/
def bothInfs (l : LongAcc) : Bool := l.pinf && l.ninf

/-- R91: l and i together hold both infinities, where neither of the two did. -/
def newBoth (l i : LongAcc) : Bool := (l.pinf || i.pinf) && (l.ninf || i.ninf) && !bothInfs l && !bothInfs i

theorem laMerge_eq (l i : LongAcc) : laMerge l i =
    ({ val := l.val + i.val, nan := l.nan || i.nan || newBoth l i, pinf := l.pinf || i.pinf, ninf := l.ninf || i.ninf,
       pzero := l.pzero || i.pzero, nzero := l.nzero || i.nzero, nonzero := l.nonzero || i.nonzero, count := l.count + i.count },
      fl (newBoth l i) fInvalid) := by
  unfold laMerge newBoth bothInfs
  dsimp only
  split
  case isTrue h => simp only [h, Bool.or_true, fl, if_true]
  case isFalse h => simp only [Bool.eq_false_iff.2 h, Bool.or_false, fl, Bool.false_eq_true, if_false]

theorem newBoth_of_noInf {l i : LongAcc} (hp : i.pinf = false) (hn : i.ninf = false) : newBoth l i = false := by
  simp only [newBoth, bothInfs, hp, hn, Bool.or_false, Bool.and_assoc]
  cases l.pinf <;> cases l.ninf <;> rfl

/-- One of two merges meets both infinities for the first time exactly when both are held at the end and were not before.
The order of the two does not enter into it. -/
theorem newBoth_or_newBoth (l : LongAcc) {i j : LongAcc} (hi : bothInfs i = false) (hj : bothInfs j = false) :
    (newBoth l i || newBoth (laMerge l i).1 j) =
      ((l.pinf || i.pinf || j.pinf) && (l.ninf || i.ninf || j.ninf) && !bothInfs l) := by
  simp only [newBoth, laMerge_eq, bothInfs] at *
  revert hi hj
  generalize l.pinf = a, l.ninf = b, i.pinf = c, i.ninf = d, j.pinf = e, j.ninf = f
  revert a b c d e f
  decide

theorem fl_or (c d : Bool) (f : Nat) : fl c f ||| fl d f = fl (c || d) f := by
  cases c <;> cases d <;> simp [fl]

theorem newBoth_swap (l : LongAcc) {i j : LongAcc} (hi : bothInfs i = false) (hj : bothInfs j = false) :
    (newBoth l i || newBoth (laMerge l i).1 j) = (newBoth l j || newBoth (laMerge l j).1 i) := by
  rw [newBoth_or_newBoth l hi hj, newBoth_or_newBoth l hj hi, Bool.or_right_comm l.pinf, Bool.or_right_comm l.ninf]

/-- Two accumulators, neither with both infinities, merge in either order to the same accumulator with the same flags. -/
theorem laMerge_swap (l : LongAcc) {i j : LongAcc} (hi : bothInfs i = false) (hj : bothInfs j = false) :
    (laMerge (laMerge l i).1 j).1 = (laMerge (laMerge l j).1 i).1 ∧
    (laMerge l i).2 ||| (laMerge (laMerge l i).1 j).2 = (laMerge l j).2 ||| (laMerge (laMerge l j).1 i).2 := by
  have hnew := newBoth_swap l hi hj
  have hnan (m : LongAcc) : (laMerge l m).1.nan = (l.nan || m.nan || newBoth l m) := by rw [laMerge_eq]
  refine ⟨?_, ?_⟩
  · rw [laMerge_eq (laMerge l i).1, laMerge_eq (laMerge l j).1]
    dsimp only
    congr 1
    case e_val => simp only [laMerge_eq]; ac_rfl
    case e_nan =>
      rw [hnan, hnan]
      calc _ = (l.nan || i.nan || j.nan || (newBoth l i || newBoth (laMerge l i).1 j)) := by ac_rfl
        _ = _ := by rw [hnew]; ac_rfl
    case e_count => simp only [laMerge_eq]; ac_rfl
    all_goals simp only [laMerge_eq]; exact Bool.or_right_comm ..
  · have hflags (a b : LongAcc) : (laMerge a b).2 = fl (newBoth a b) fInvalid := by rw [laMerge_eq]
    simp only [hflags, fl_or, hnew]

/-! ### One product (R89-R91) -/

/-- R89-R91: the accumulator of one product, inserted into a cleared accumulator. -/
def laSingle (p : Src × Src) : LongAcc := (laInsert {} p.1 p.2).1

/-- The flags that a product raises by itself. -/
def singleFlags (p : Src × Src) : Nat := (laInsert {} p.1 p.2).2

/-- An insertion merges the accumulator of its product. -/
theorem laInsert_eq_merge (l : LongAcc) (p : Src × Src) :
    laInsert l p.1 p.2 = ((laMerge l (laSingle p)).1, (laMerge l (laSingle p)).2 ||| singleFlags p) := by
  obtain ⟨a, b⟩ := p
  rw [laMerge_eq]
  unfold laSingle singleFlags laInsert
  dsimp only
  generalize (srcNeg a != srcNeg b) = neg
  split
  case isTrue hnan => simp [newBoth_of_noInf, fl]
  split
  case isTrue hinvalid => simp [newBoth_of_noInf, fl]
  split
  case isTrue hinf =>
    unfold bothInf
    cases neg <;> cases hp : l.pinf <;> cases hn : l.ninf <;> simp [newBoth, bothInfs, fl, hp, hn]
  split
  case h_1 =>
    split
    case isTrue hzero => cases neg <;> simp [newBoth_of_noInf, fl]
    case isFalse => simp [newBoth_of_noInf, fl]
  case h_2 => simp [newBoth_of_noInf, fl]

theorem laSingle_count_bothInfs (p : Src × Src) : (laSingle p).count = 1 ∧ bothInfs (laSingle p) = false := by
  unfold laSingle laInsert bothInf
  dsimp only
  repeat' split
  all_goals exact ⟨rfl, rfl⟩

theorem laProduct_notFinite {a b : Src} (h : (isNanSrc a || isNanSrc b || srcInf a || srcInf b) = true) :
    laProduct (a, b) = 0 := by
  unfold laProduct
  split
  case h_1 hpair =>
    obtain ⟨rfl, rfl⟩ := Prod.mk.inj hpair
    exact absurd h Bool.false_ne_true
  case h_2 => rfl

theorem shl_eq_mul (x : Int) (k : Nat) : shl x k = x * 2 ^ k := by
  rw [shl]
  norm_cast

theorem laSingle_val (p : Src × Src) : (laSingle p).val = laProduct p := by
  obtain ⟨a, b⟩ := p
  unfold laSingle laInsert bothInf
  dsimp only
  split
  case isTrue hnan => rw [laProduct_notFinite (by rw [hnan]; rfl)]
  split
  case isTrue hinvalid =>
    simp only [Bool.or_eq_true, Bool.and_eq_true] at hinvalid
    rw [laProduct_notFinite (by
      simp only [Bool.or_eq_true]
      exact hinvalid.elim (fun h => .inl (.inr h.1)) (fun h => .inr h.2))]
  split
  case isTrue hinf =>
    rw [laProduct_notFinite (by rw [Bool.or_assoc, hinf, Bool.or_true])]
    repeat' split
    all_goals rfl
  split
  case h_1 =>
    unfold laProduct
    dsimp only
    split
    case isTrue hzero => rw [hzero, Int.zero_mul, BitVec.ofInt_ofNat]; split <;> rfl
    case isFalse => rw [shl_eq_mul]; exact BitVec.zero_add _
  case h_2 hother =>
    unfold laProduct
    split
    case h_1 hpair =>
      obtain ⟨ha, hb⟩ := Prod.mk.inj hpair
      exact (hother _ _ _ _ _ _ ha hb).elim
    case h_2 => rfl

/-! ### Lists of products (R90, R91) -/

theorem laInsert_val (l : LongAcc) (p : Src × Src) : (laInsert l p.1 p.2).1.val = l.val + laProduct p := by
  rw [laInsert_eq_merge, laMerge_eq, laSingle_val]

theorem laInsert_count (l : LongAcc) (p : Src × Src) : (laInsert l p.1 p.2).1.count = l.count + 1 := by
  rw [laInsert_eq_merge, laMerge_eq, (laSingle_count_bothInfs p).1]

/-- One insertion, with the flags of the insertions before it. -/
def laAccum (r : LongAcc × Nat) (p : Src × Src) : LongAcc × Nat := ((laInsert r.1 p.1 p.2).1, r.2 ||| (laInsert r.1 p.1 p.2).2)

theorem laInserts_eq_foldl (l : LongAcc) (ps : List (Src × Src)) : laInserts l ps = ps.foldl laAccum (l, 0) := rfl

theorem laAccum_swap (r : LongAcc × Nat) (p q : Src × Src) : laAccum (laAccum r p) q = laAccum (laAccum r q) p := by
  obtain ⟨hacc, hflags⟩ := laMerge_swap r.1 (laSingle_count_bothInfs p).2 (laSingle_count_bothInfs q).2
  simp only [laAccum, laInsert_eq_merge]
  refine Prod.ext hacc ?_
  calc
    _ = r.2 ||| ((laMerge r.1 (laSingle p)).2 ||| (laMerge (laMerge r.1 (laSingle p)).1 (laSingle q)).2) |||
        (singleFlags p ||| singleFlags q) := by ac_rfl
    _ = _ := by rw [hflags]; ac_rfl

theorem laInserts_perm (l : LongAcc) {ps qs : List (Src × Src)} (h : qs.Perm ps) : laInserts l qs = laInserts l ps := by
  rw [laInserts_eq_foldl, laInserts_eq_foldl]
  exact h.foldl_eq' (fun p _ q _ r => laAccum_swap r p q) (l, 0)

theorem laInserts_acc (l : LongAcc) (ps : List (Src × Src)) :
    (laInserts l ps).1 = ps.foldl (fun l p => (laInsert l p.1 p.2).1) l :=
  (List.foldl_hom Prod.fst fun _ _ => rfl).symm

theorem laInserts_val (l : LongAcc) (ps : List (Src × Src)) :
    (laInserts l ps).1.val = l.val + (ps.map laProduct).foldl (· + ·) 0 := by
  rw [← List.foldl_assoc (op := (· + · : BitVec 4352 → _ → _)), BitVec.ofNat_eq_ofNat, BitVec.add_zero, laInserts_acc, List.foldl_map]
  exact (List.foldl_hom LongAcc.val fun l p => (laInsert_val l p).symm).symm

theorem laInserts_count (l : LongAcc) (ps : List (Src × Src)) :
    (laInserts l ps).1.count = l.count + BitVec.ofNat 64 ps.length := by
  rw [laInserts_acc]
  induction ps generalizing l with
  | nil => exact (BitVec.add_zero _).symm
  | cons p ps ih =>
    rw [List.foldl_cons, ih, laInsert_count, List.length_cons, BitVec.ofNat_add, BitVec.add_assoc, BitVec.add_comm 1]
    rfl

/-- Settles O13: the products of a list add up in the accumulator, and any two insertions can change places. -/
theorem longAccumulatorOrder : Obligations.LongAccumulatorOrder := fun l ps =>
  ⟨laInserts_val l ps, laInserts_count l ps, fun _ h => laInserts_perm l h⟩

end Sys2Proof.Machine
end

section
/-! SUPPORT. Digits of significands and of Q16 codes, and the arithmetic of native passes (R72-R74, R79, R83). -/

namespace Sys2Proof.Machine
open Sys2Proof

/-! ### Signed low bytes (R79, R83) -/

/-- The signed low byte of an integer. -/
def lowByte (r : Int) : Int := sextN 8 (codeN 8 r)

theorem lowByte_range (r : Int) : -128 ≤ lowByte r ∧ lowByte r ≤ 127 := by
  obtain ⟨hlow, hhigh, -⟩ := sextN_range 7 (codeN 8 r)
  exact ⟨hlow, Int.le_of_lt_add_one hhigh⟩

/-- What the low byte leaves is a multiple of 256. -/
theorem lowByte_exact (r : Int) : 256 * ((r - lowByte r) / 256) = r - lowByte r := by
  unfold lowByte sextN codeN
  split <;> omega

theorem sextN_codeN_sixteen (c : Int) : sextN 8 (codeN 16 c) = lowByte c := by
  have hbyte : codeN 16 c % 2 ^ 8 = codeN 8 c % 2 ^ 8 := by
    unfold codeN
    omega
  rw [lowByte, sextN, sextN, hbyte]

/-! ### The digits of a significand (R83) -/

/-- R83: what is left of m after its low i digits. -/
def digitRest (m : Int) : Nat → Int
  | 0 => m
  | i + 1 => (digitRest m i - lowByte (digitRest m i)) / 256

theorem digitRest_succ' (m : Int) : ∀ i, digitRest m (i + 1) = digitRest ((m - lowByte m) / 256) i
  | 0 => rfl
  | i + 1 => by rw [digitRest, digitRest_succ' m i, digitRest]

theorem qpDigit_eq (m : Int) (i : Nat) : qpDigit m i = lowByte (digitRest m i) := by
  induction i generalizing m with
  | zero => rfl
  | succ i ih => rw [qpDigit, digitRest_succ']; exact ih _

theorem qpDigits_eq {i : Nat} (h : i < 7) (m : Int) : qpDigits m i = lowByte (digitRest m i) := by
  rw [qpDigits, if_pos h, qpDigit_eq]

theorem qpDigits_seven (m : Int) : qpDigits m 7 = digitRest m 7 := rfl

theorem digitRest_split (m : Int) (i : Nat) : digitRest m i = 256 * digitRest m (i + 1) + lowByte (digitRest m i) := by
  have hexact := lowByte_exact (digitRest m i)
  rw [digitRest]
  omega

/-- A digit less makes the bound 256 times less, for the digit is at most half of 256. -/
theorem digitRest_bound {m : Int} (b n : Nat) (hlow : -(256 ^ n * b) ≤ m) (hhigh : m ≤ 256 ^ n * b) :
    -b ≤ digitRest m n ∧ digitRest m n ≤ b := by
  induction n generalizing b with
  | zero =>
    rw [Int.pow_zero, Int.one_mul] at hlow hhigh
    exact ⟨hlow, hhigh⟩
  | succ n ih =>
    have hpow : ((256 : Int) ^ (n + 1) * b) = 256 ^ n * ((256 * b : Nat) : Int) := by
      rw [Int.pow_succ, Int.mul_assoc, Int.natCast_mul]
      rfl
    obtain ⟨hlow', hhigh'⟩ := ih (256 * b) (hpow ▸ hlow) (hpow ▸ hhigh)
    have hsplit := digitRest_split m n
    have hdigit := lowByte_range (digitRest m n)
    omega

/-- The low n digits and what is left give m back. -/
theorem digits_sum (m : Int) (n : Nat) :
    ((List.range n).map (fun i => lowByte (digitRest m i) * 2 ^ (8 * i))).sum + digitRest m n * 2 ^ (8 * n) = m := by
  induction n with
  | zero => exact (Int.zero_add _).trans (Int.mul_one m)
  | succ n ih =>
    calc
      _ = ((List.range n).map (fun i => lowByte (digitRest m i) * 2 ^ (8 * i))).sum +
          (256 * digitRest m (n + 1) + lowByte (digitRest m n)) * 2 ^ (8 * n) := by
        rw [List.range_succ, List.map_append, List.sum_append, List.map_singleton, List.sum_singleton, Nat.mul_succ, Int.pow_add,
          show (2 : Int) ^ 8 = 256 from rfl, Int.add_mul]
        ac_rfl
      _ = m := by rw [← digitRest_split, ih]

theorem qpDigits_sum (m : Int) : m = ((List.range 8).map (fun i => qpDigits m i * 2 ^ (8 * i))).sum := by
  have hlow : (List.range 7).map (fun i => qpDigits m i * 2 ^ (8 * i)) =
      (List.range 7).map (fun i => lowByte (digitRest m i) * 2 ^ (8 * i)) :=
    List.map_congr_left fun i hi => by rw [qpDigits_eq (List.mem_range.1 hi)]
  rw [List.range_succ, List.map_append, List.sum_append, List.map_singleton, List.sum_singleton, hlow, qpDigits_seven, digits_sum]

/-! ### The digits of a Q16 code (R79) -/

theorem q16Digit_low (c : Int) : q16Digit c 0 = lowByte c := sextN_codeN_sixteen c

theorem q16Digit_high (c : Int) : q16Digit c 1 = (c - lowByte c) / 256 := by
  rw [← sextN_codeN_sixteen]
  rfl

/-- Settles O11: the digits follow what is left of the significand, which each digit makes 256 times less. -/
theorem digitsAreExact : Obligations.DigitsAreExact := by
  refine ⟨fun m hlow hhigh => ⟨digitRest m, rfl, fun i hi => ?_, qpDigits_seven m, ?_, ?_, qpDigits_sum m⟩, fun c hlow hhigh => ?_⟩
  · rw [qpDigits_eq hi]
    obtain ⟨hmin, hmax⟩ := lowByte_range (digitRest m i)
    have hsplit := digitRest_split m i
    exact ⟨rfl, by omega, hmin, hmax⟩
  · exact (digitRest_bound 128 7 (by omega) (by omega)).1
  · exact (digitRest_bound 128 7 (by omega) (by omega)).2
  · have hrange := lowByte_range c
    have hexact := lowByte_exact c
    rw [q16Digit_low, q16Digit_high]
    refine ⟨rfl, ?_⟩
    omega
end Sys2Proof.Machine
end

section
/-! SUPPORT. Native passes: the alignment of a term and the sum of a column (R71-R75). -/

namespace Sys2Proof.Machine
open Sys2Proof

/-! ### One term (R71, R72) -/

theorem alignTerm_zero (lim pscale eacc : Int) : alignTerm lim 0 pscale eacc = (0, 0) := by
  rw [alignTerm, if_pos rfl]

theorem alignTerm_left {lim p pscale eacc : Int} (hp : p ≠ 0) (h : eacc ≤ pscale) :
    alignTerm lim p pscale eacc =
      ((clip lim (p * 2 ^ (pscale - eacc).toNat)).1, fl (clip lim (p * 2 ^ (pscale - eacc).toNat)).2 fOvf) := by
  rw [alignTerm, if_neg hp, if_pos h, shl_eq_mul]

theorem alignTerm_right {lim p pscale eacc : Int} (hp : p ≠ 0) (h : pscale < eacc) :
    alignTerm lim p pscale eacc =
      ((convRound p (eacc - pscale).toNat).1, fl (convRound p (eacc - pscale).toNat).2 fInx) := by
  rw [alignTerm, if_neg hp, if_neg (by omega)]

theorem term_nar (i : PassInstr) (ctx : Int) {w a : Elem} (h : w.nar = true ∨ a.nar = true) : term i ctx w a = (none, fNar) := by
  rw [term, if_pos (Bool.or_eq_true .. ▸ h)]

/-- The scale of a product: the scales of its operands, and in a slice pass the weight of its digits. -/
def productScale (i : PassInstr) (w a : Elem) : Int :=
  w.e + a.e + (if 3 ≤ i.mode then 8 * ((sliceW i + sliceX i : Nat) : Int) else 0)

theorem term_aligned {i : PassInstr} (hmode : i.mode ≠ 4) (ctx : Int) {w a : Elem} (hw : w.nar = false) (ha : a.nar = false) :
    term i ctx w a =
      (some (alignTerm a48Max (w.c * a.c) (productScale i w a) ctx).1, (alignTerm a48Max (w.c * a.c) (productScale i w a) ctx).2) := by
  rw [term, hw, ha, termLim, termScale, if_neg hmode, if_neg hmode]
  rfl

/-! ### One column (R73, R74) -/

theorem sumTerms_none {ts : List (Option Int × Nat)} (h : ∃ t ∈ ts, t.1 = none) : (sumTerms ts).1 = none := by
  induction ts with
  | nil => simp at h
  | cons t ts ih =>
    obtain ⟨u, hu, hnone⟩ := h
    rcases List.mem_cons.1 hu with rfl | hu
    · simp only [sumTerms, hnone]
    · have hrest := ih ⟨u, hu, hnone⟩
      simp only [sumTerms, hrest]
      cases t.1 <;> rfl

theorem sumTerms_some : ∀ {ts : List (Option Int × Nat)} {vs : List Int}, ts.map (·.1) = vs.map some → (sumTerms ts).1 = some vs.sum
  | [], [], _ => rfl
  | t :: ts, v :: vs, h => by
    obtain ⟨hhead, htail⟩ := List.cons.inj h
    simp only [sumTerms, hhead, sumTerms_some htail, List.sum_cons]

/-- Flags that stand still stand when others are raised. -/
theorem flags_stand {all f : Nat} (g : Nat) (h : all &&& f = f) : (all ||| g) &&& f = f := by
  refine Nat.eq_of_testBit_eq fun j => ?_
  have hbit := congrArg (Nat.testBit · j) h
  simp only [Nat.testBit_and, Nat.testBit_or] at hbit ⊢
  rw [Bool.and_or_distrib_right, hbit, Bool.and_comm]
  cases f.testBit j <;> rfl

theorem sumTerms_flags {ts : List (Option Int × Nat)} {t : Option Int × Nat} (h : t ∈ ts) : (sumTerms ts).2 &&& t.2 = t.2 := by
  induction ts with
  | nil => simp at h
  | cons u ts ih =>
    rcases List.mem_cons.1 h with rfl | h
    · exact flags_stand _ (Nat.and_self _)
    · rw [sumTerms, Nat.or_comm]
      exact flags_stand _ (ih h)

theorem sumTerms_perm {us ts : List (Option Int × Nat)} (h : us.Perm ts) : sumTerms us = sumTerms ts := by
  induction h with
  | nil => rfl
  | cons t _ ih => rw [sumTerms, sumTerms, ih]
  | swap t u ts =>
    refine Prod.ext ?_ ?_
    · simp only [sumTerms]
      cases t.1 <;> cases u.1 <;> cases (sumTerms ts).1 <;> simp only [Int.add_left_comm]
    · change u.2 ||| (t.2 ||| (sumTerms ts).2) = t.2 ||| (u.2 ||| (sumTerms ts).2)
      ac_rfl
  | trans _ _ h1 h2 => exact h1.trans h2

theorem column_none {init : Option Int} {terms : Option Int × Nat} (h : init = none ∨ terms.1 = none) : (column init terms).1 = none := by
  unfold column
  split
  case h_1 hterms => simp [hterms] at h
  case h_2 => rfl
  case h_3 => rfl

theorem column_some (i : Int) {terms : Option Int × Nat} {v : Int} (h : terms.1 = some v) :
    column (some i) terms = (some (clip a48Max (i + v)).1, terms.2 ||| fl (clip a48Max (i + v)).2 fOvf) := by
  unfold column
  rw [h]

theorem column_flags (init : Option Int) (terms : Option Int × Nat) : ∃ f, (column init terms).2 = terms.2 ||| f := by
  unfold column
  split
  · exact ⟨_, rfl⟩
  · exact ⟨_, rfl⟩
  · exact ⟨0, (Nat.or_zero _).symm⟩

theorem clip_eq_max_min {lim x : Int} (h : 0 ≤ lim) : (clip lim x).1 = max (-lim) (min lim x) := by
  unfold clip
  split
  · omega
  split <;> omega

/-- Settles O12: a term is aligned by its shift, and a column is clipped once, after the exact sum. -/
theorem nativePassArithmetic : Obligations.NativePassArithmetic := by
  refine ⟨fun i ctx w a hmode => ⟨fun hnar => term_nar i ctx hnar, fun hw ha => ?_⟩, fun init ts => ⟨fun hnar => ?_, ?_, ?_, ?_⟩⟩
  · rw [term_aligned hmode ctx hw ha, ← productScale]
    refine ⟨fun hzero => ?_, fun hp hsh => ?_, fun hp hsh => ?_⟩
    · rw [hzero, alignTerm_zero]
    · rw [alignTerm_left hp (by omega)]
      exact ⟨fun h => by rw [clip_above h]; rfl, fun h => by rw [clip_below (by decide) h]; rfl,
        fun hlow hhigh => by rw [clip_within hlow hhigh]; rfl⟩
    · rw [alignTerm_right hp (by omega), Int.neg_sub]
      refine ⟨_, convRound_nearestEven _ _, ?_⟩
      simp only [fl, convRound_inexact]
  · rcases hnar with hinit | hterm
    · exact column_none (.inl hinit)
    · exact column_none (.inr (sumTerms_none hterm))
  · rintro i vs rfl hvs
    rw [column_some i (sumTerms_some hvs)]
    refine ⟨congrArg some (clip_eq_max_min (by decide)), fun hbeyond => ?_, fun hlow hhigh => ?_⟩
    · rw [(clip_saturates _ _).2 hbeyond, Nat.or_comm]
      exact flags_stand _ (Nat.and_self _)
    · rw [clip_within hlow hhigh]
      exact Nat.or_zero _
  · intro t ht
    obtain ⟨f, hf⟩ := column_flags init (sumTerms ts)
    rw [hf]
    exact flags_stand f (sumTerms_flags ht)
  · intro us h
    rw [sumTerms_perm h]

end Sys2Proof.Machine
end

section
/-! SUPPORT. Kernel instructions that retire, and the F-class operations (R137, R142, R152, R153). -/

namespace Sys2Proof.Machine
open Sys2Proof

section
variable {c : Instr} {s : State} {t : TileId} {k : Kernel} {w : Word} {op : Nat}

/-! ### Instructions that retire -/

/-- A command that runs the instruction at the program counter retires with what the instruction answers. -/
theorem retires_of_done (e : Out) {f : State → Tile → Kernel → Word → KOut} {y : Tile} {flags : Nat} (hnext : NextWord s t k w)
    (hlen : k.pc + 1 < k.len) (hop : bits w 63 56 = op) (hexec : exec c s = e) (hrun : e = whenRunning s fun s => kRun s t op false (f s))
    (hdone : f s (getTile s t) k w = .done y flags 0) : Retires c s t k y flags (k.pc + 1) := by
  obtain ⟨hrunning, hkernel, hending, -, rfl, hword⟩ := hnext
  rw [hrun, whenRunning_running hrunning] at hexec
  exact ⟨_, hexec, kRun_done hkernel hword hending hop hdone hlen⟩

/-! ### IEEE lane operations (R152, R153) -/

theorem needKind_of_forall {x : Tile} {vs : List Nat} {kind : Nat} (h : ∀ v ∈ vs, (vtag x v).kind = kind) : needKind x vs kind = true :=
  List.all_eq_true.2 fun v hv => beq_iff_eq.2 (h v hv)

theorem fOp_done {x : Tile} {srcs : List Nat} {sf : Nat} (hkinds : ∀ v ∈ srcs, (vtag x v).kind = 4 + sf) (w : Word) (tf : Nat)
    (r : Nat → Nat × Nat) :
    fOp x w srcs sf tf r = .done (writeVec x (fVD w) (mreg x (fMask w)) (fun i => BitVec.ofNat 64 (r i).1) (4 + tf) 0)
      (laneFlags (mreg x (fMask w)) fun i => (r i).2) 0 := by
  rw [fOp, needKind_of_forall hkinds]
  rfl

/-- An F-class operation whose sources have their kind fills the lanes of its mask. -/
theorem fillsFloats_of_fOp (e : Out) {f : State → Tile → Kernel → Word → KOut} {srcs : List Nat} {sf tf : Nat} {r : Nat → Nat × Nat}
    (hnext : NextWord s t k w) (hlen : k.pc + 1 < k.len) (hop : bits w 63 56 = op)
    (hkinds : ∀ v ∈ srcs, (vtag (getTile s t) v).kind = 4 + sf)
    (hexec : exec c s = e) (hrun : e = whenRunning s fun s => kRun s t op false (f s))
    (hf : f s (getTile s t) k w = fOp (getTile s t) w srcs sf tf r) : FillsFloats c s t k w tf r :=
  retires_of_done e hnext hlen hop hexec hrun (hf.trans (fOp_done hkinds w tf r))

end

/-- Settles O20: each operation needs the kind of its sources and fills lanes of its own format, FCVT of its target format. -/
theorem floatLanesRetire : Obligations.FloatLanesRetire := by
  intro s t k w hnext hlen
  refine ⟨fun hs => ⟨fun hop => ?_, fun ht => ?_⟩, fun hs hop => ?_⟩
  · exact fillsFloats_of_fOp (sf := fFmt w) (execFsqrt ⟨t, false⟩ s) hnext hlen hop (List.forall_mem_singleton.2 hs) rfl rfl rfl
  · have htwo : ∀ v ∈ [fVS w, fVT w], (vtag (getTile s t) v).kind = 4 + fFmt w :=
      List.forall_mem_cons.2 ⟨hs, List.forall_mem_singleton.2 ht⟩
    refine ⟨fun hop => ?_, fun hop => ?_, fun hop => ?_, fun hop => ?_, fun hop => ?_, fun hop => ?_, fun hop => ?_, fun hop => ?_,
      fun hd hop => ?_⟩
    · exact fillsFloats_of_fOp (execFadd ⟨t, false⟩ s) hnext hlen hop htwo rfl rfl rfl
    · exact fillsFloats_of_fOp (execFsub ⟨t, false⟩ s) hnext hlen hop htwo rfl rfl rfl
    · exact fillsFloats_of_fOp (execFmul ⟨t, false⟩ s) hnext hlen hop htwo rfl rfl rfl
    · exact fillsFloats_of_fOp (execFdiv ⟨t, false⟩ s) hnext hlen hop htwo rfl rfl rfl
    · exact fillsFloats_of_fOp (execFmin ⟨t, false⟩ s) hnext hlen hop htwo rfl rfl rfl
    · exact fillsFloats_of_fOp (execFmax ⟨t, false⟩ s) hnext hlen hop htwo rfl rfl rfl
    · exact fillsFloats_of_fOp (execFminnum ⟨t, false⟩ s) hnext hlen hop htwo rfl rfl rfl
    · exact fillsFloats_of_fOp (execFmaxnum ⟨t, false⟩ s) hnext hlen hop htwo rfl rfl rfl
    · have hthree : ∀ v ∈ [fVS w, fVT w, fVD w], (vtag (getTile s t) v).kind = 4 + fFmt w :=
        List.forall_mem_cons.2 ⟨hs, List.forall_mem_cons.2 ⟨ht, List.forall_mem_singleton.2 hd⟩⟩
      exact fillsFloats_of_fOp (execFfma ⟨t, false⟩ s) hnext hlen hop hthree rfl rfl rfl
  · exact fillsFloats_of_fOp (sf := bits w 2 1) (execFcvt ⟨t, false⟩ s) hnext hlen hop (List.forall_mem_singleton.2 hs) rfl rfl rfl

end Sys2Proof.Machine
end

section
/-! SUPPORT. Long-accumulator instructions that retire, and the images of accumulators (R155-R158). -/

namespace Sys2Proof.Machine
open Sys2Proof

/-! ### Addresses and statuses -/

theorem sAddr_zero (x : Tile) (i al : Nat) : sAddr x i 0 al = alignDown (codeN 64 (sNat x i)) al := by
  rw [sAddr, Int.add_zero]

/-- An accumulator that is not INVALID leaves the status to the access. -/
theorem lowest_valid {s : State} {t : TileId} {n : Nat} (h : laInvalid s t n = false) (e : Status) :
    lowest (if laInvalid s t n then stInvalidDest else 0) e = e := by
  rw [h]
  rfl

/-! ### Insertions (R155) -/

section
variable {c : Instr} {s : State} {t : TileId} {k : Kernel} {w : Word} {op : Nat}

/-- R155: bytes of an operand of an L-form word. -/
def laWidth (w : Word) : Nat := ieeeW (if bit w 28 then 2 else 1) / 8

/-- R155: how many elements an L-form word inserts. -/
def laCount (w : Word) : Nat := bits w 44 32 + 1

/-- R155: the address that a scalar register gives the operands of an L-form word. -/
def laBase (x : Tile) (w : Word) (r : Nat) : Nat := alignDown (codeN 64 (sNat x r)) (laWidth w)

/-- R155: element i of the operands at a register's address. -/
def laElem (x : Tile) (w : Word) (r i : Nat) : Src :=
  ieeeDec (if bit w 28 then 2 else 1) (leNat (memBytes x.mem (laBase x w r + laWidth w * i) (laWidth w)))

/-- R155: the accumulator of an L-form word after its insertions, and the flags that they raise. -/
def laInserted (x : Tile) (w : Word) (f : Src → Src → Src × Src) : LongAcc × Nat :=
  laInserts (getLa x (fLA w)) ((List.range (laCount w)).map fun i => f (laElem x w (bits w 52 49) i) (laElem x w (bits w 48 45) i))

theorem insOp_done {x : Tile} {two : Bool} (f : Src → Src → Src × Src) (hvalid : laInvalid s t (fLA w) = false)
    (ha : readStop x (laBase x w (bits w 52 49)) (laWidth w * laCount w) = 0)
    (hb : two = true → readStop x (laBase x w (bits w 48 45)) (laWidth w * laCount w) = 0) :
    insOp s t x w two f = .done (setLa x (fLA w) (laInserted x w f).1) (laInserted x w f).2 0 := by
  have hreads : lowest (readStop x (laBase x w (bits w 52 49)) (laWidth w * laCount w))
      (if two then readStop x (laBase x w (bits w 48 45)) (laWidth w * laCount w) else 0) = 0 := by
    rw [ha]
    cases two
    · rfl
    · exact hb rfl
  unfold insOp
  simp only [sAddr_zero, lowest_valid hvalid]
  exact if_neg (Classical.not_not.2 hreads)

/-- An insertion retires when its accumulator is not INVALID and its reads meet no stop. -/
theorem retires_of_insOp (e : Out) {two : Bool} (f : Src → Src → Src × Src) (hnext : NextWord s t k w) (hlen : k.pc + 1 < k.len)
    (hop : bits w 63 56 = op) (hexec : exec c s = e)
    (hrun : e = whenRunning s fun s => kRun s t op false fun x _ w => insOp s t x w two f) (hvalid : laInvalid s t (fLA w) = false)
    (ha : readStop (getTile s t) (laBase (getTile s t) w (bits w 52 49)) (laWidth w * laCount w) = 0)
    (hb : two = true → readStop (getTile s t) (laBase (getTile s t) w (bits w 48 45)) (laWidth w * laCount w) = 0) :
    Retires c s t k (setLa (getTile s t) (fLA w) (laInserted (getTile s t) w f).1) (laInserted (getTile s t) w f).2 (k.pc + 1) :=
  retires_of_done (f := fun s x _ w => insOp s t x w two f) e hnext hlen hop hexec hrun (insOp_done f hvalid ha hb)

/-! ### Clearing (R158) -/

/-- An instruction that clears INVALID marks retires like one that does not, and takes the marks from the tile's status register. -/
theorem kRun_clears {f : Tile → Kernel → Word → KOut} {y : Tile} {flags clr : Nat} (hkernel : (getTile s t).kernel = some k)
    (hword : kWordBad (getTile s t) k = false) (hending : k.ending = none)
    (hop : bits (kWord (getTile s t) k k.pc) 63 56 = op) (hdone : f (getTile s t) k (kWord (getTile s t) k k.pc) = .done y flags clr)
    (hclr : clr ≠ 0) (hlen : k.pc + 1 < k.len) :
    let s' := setFld s (stAt t) 55 48 (fld s (stAt t) 55 48 &&& (255 - clr))
    let u := kRun s t op false f
    getTile u t = stepped k y flags (k.pc + 1) ∧ (∀ v, v ≠ t → getTile u v = getTile s v) ∧ u = { s' with tiles := u.tiles } := by
  intro s' u
  have hrun : u = kAdvance (setTile s' t y) t { k with flags := k.flags ||| flags } (k.pc + 1) := by
    change kRun s t op false f = _
    unfold kRun
    simp only [hkernel]
    rw [if_neg (by simp [hending]; omega), if_neg (Classical.not_not.2 hop), if_neg (by simp [hword]), hdone]
    dsimp only
    rw [if_neg hclr]
    rfl
  rw [hrun]
  exact kAdvance_spec s' t { k with flags := k.flags ||| flags } y (k.pc + 1) hlen

end

theorem flag_setFld_inside (s : State) (a v : Nat) {hi lo i : Nat} (hlow : lo ≤ i) (hhigh : i ≤ hi) (h64 : i < 64) :
    flag (setFld s a hi lo v) a i = v.testBit (i - lo) := by
  rw [flag, setFld, rd_wr_same, bit, getLsbD_setBits, if_pos ⟨hlow, hhigh, h64⟩]

/-- R158: the tile's status register without the INVALID mark of one accumulator. -/
def clearMark (s : State) (t : TileId) (n : Nat) : State :=
  setFld s (stAt t) 55 48 (fld s (stAt t) 55 48 &&& (255 - 2 ^ n))

theorem fld_clearMark (s : State) (t : TileId) (n : Nat) :
    fld (clearMark s t n) (stAt t) 55 48 = fld s (stAt t) 55 48 &&& (255 - 2 ^ n) := by
  have hmarks : 255 - 2 ^ n < 2 ^ (55 + 1 - 48) := Nat.lt_of_le_of_lt (Nat.sub_le ..) (by decide)
  rw [clearMark, fld_setFld_same _ _ _ (by decide) (by decide)]
  exact Nat.mod_eq_of_lt (Nat.lt_of_le_of_lt Nat.and_le_right hmarks)

theorem laInvalid_clearMark (s : State) (t : TileId) {n : Nat} (hn : n < 8) : laInvalid (clearMark s t n) t n = false := by
  have hmark : ∀ n < 8, (255 - 2 ^ n).testBit n = false := by decide
  rw [laInvalid, clearMark, flag_setFld_inside _ _ _ (by omega) (by omega) (by omega), Nat.add_sub_cancel_left, Nat.testBit_and,
    hmark n hn, Bool.and_false]

/-! ### Images (R157) -/

theorem ofNat_leNat_leBytes {n : Nat} (x : BitVec (8 * n)) : BitVec.ofNat (8 * n) (leNat (leBytes n x.toNat)) = x := by
  have hpow : 2 ^ (8 * n) = 256 ^ n := Nat.pow_mul 2 8 n
  rw [leNat_leBytes, ← hpow, Nat.mod_eq_of_lt x.isLt, BitVec.ofNat_toNat, BitVec.setWidth_eq]

theorem laState_lt (l : LongAcc) : laState l < 64 := by
  unfold laState fl
  repeat' split
  all_goals decide

/-- R157: each bit of the state of an image is its state bit. -/
theorem laState_bits (l : LongAcc) :
    (laState l % 2 == 1) = l.nan ∧ (laState l / 2 % 2 == 1) = l.pinf ∧ (laState l / 4 % 2 == 1) = l.ninf ∧
      (laState l / 8 % 2 == 1) = l.pzero ∧ (laState l / 16 % 2 == 1) = l.nzero ∧ (laState l / 32 % 2 == 1) = l.nonzero := by
  unfold laState
  generalize l.nan = a, l.pinf = b, l.ninf = c, l.pzero = d, l.nzero = e, l.nonzero = f
  revert a b c d e f
  decide

theorem laImage_length (l : LongAcc) : (laImage l).length = 576 := by
  simp only [laImage, List.length_append, leBytes_length]

theorem laImage_val (l : LongAcc) : (laImage l).take 544 = leBytes 544 l.val.toNat := by
  simp only [laImage, List.append_assoc]
  exact List.take_left' (leBytes_length ..)

theorem laImage_state (l : LongAcc) : ((laImage l).drop 544).take 8 = leBytes 8 (laState l) := by
  simp only [laImage, List.append_assoc]
  rw [List.drop_left' (leBytes_length ..)]
  exact List.take_left' (leBytes_length ..)

theorem laImage_count (l : LongAcc) : ((laImage l).drop 552).take 8 = leBytes 8 l.count.toNat := by
  simp only [laImage, List.append_assoc]
  rw [← List.append_assoc, List.drop_left' (by simp only [List.length_append, leBytes_length])]
  exact List.take_left' (leBytes_length ..)

theorem laOfImage_laImage (l : LongAcc) : laOfImage (laImage l) = l := by
  have hval : BitVec.ofNat 4352 (leNat (leBytes 544 l.val.toNat)) = l.val := ofNat_leNat_leBytes (n := 544) l.val
  have hcount : BitVec.ofNat 64 (leNat (leBytes 8 l.count.toNat)) = l.count := ofNat_leNat_leBytes (n := 8) l.count
  have hstate : leNat (leBytes 8 (laState l)) = laState l := by
    rw [leNat_leBytes, Nat.mod_eq_of_lt (Nat.lt_trans (laState_lt l) (by decide))]
  obtain ⟨hnan, hpinf, hninf, hpzero, hnzero, hnonzero⟩ := laState_bits l
  simp only [laOfImage, laImage_val, laImage_state, laImage_count, hval, hcount, hstate, hnan, hpinf, hninf, hpzero, hnzero, hnonzero]

/-! ### The instructions -/

/-- LCLR clears the accumulator of its word and that accumulator's mark; no other tile or register changes. -/
theorem exec_lclr {s : State} {t : TileId} {k : Kernel} {w : Word} (hnext : NextWord s t k w) (hlen : k.pc + 1 < k.len)
    (hop : bits w 63 56 = 0x70) : ∃ u, exec (.lclr ⟨t, false⟩) s = .next u ∧
      getTile u t = stepped k (setLa (getTile s t) (fLA w) {}) 0 (k.pc + 1) ∧
      (∀ v, v ≠ t → getTile u v = getTile s v) ∧ u = { clearMark s t (fLA w) with tiles := u.tiles } := by
  obtain ⟨hrunning, hkernel, hending, -, rfl, hword⟩ := hnext
  refine ⟨_, (show exec (.lclr ⟨t, false⟩) s = execLclr ⟨t, false⟩ s from rfl).trans (whenRunning_running hrunning _), ?_⟩
  exact kRun_clears hkernel hword hending hop rfl (Nat.ne_of_gt (Nat.two_pow_pos _)) hlen

/-- Settles O22: each instruction answers its tile when no access stops it, and an image keeps every bit of its accumulator. -/
theorem longAccumulatorsRetire : Obligations.LongAccumulatorsRetire := by
  refine ⟨fun s t k w hnext hlen => ⟨fun hop hvalid ha hb => ?_, fun hop hvalid ha => ?_, fun hop hvalid ha => ?_,
    fun hop hvalid ha => ?_, fun hop hvalid => ?_, fun hop hvalid hwrite => ?_, fun hop hvalid hread => ?_, fun hop => ?_⟩,
    fun l => ⟨laImage_length l, laOfImage_laImage l⟩⟩
  · exact retires_of_insOp (execLdot t false s) (fun a b => (a, b)) hnext hlen hop rfl rfl hvalid ha fun _ => hb
  · exact retires_of_insOp (execLsum t false s) (fun a _ => (a, srcOne)) hnext hlen hop rfl rfl hvalid ha nofun
  · exact retires_of_insOp (execLssq t false s) (fun a _ => (a, a)) hnext hlen hop rfl rfl hvalid ha nofun
  · exact retires_of_insOp (execLsabs t false s) (fun a _ => (srcAbs a, srcOne)) hnext hlen hop rfl rfl hvalid ha nofun
  · exact retires_of_done (execLrnd ⟨t, false⟩ s) hnext hlen hop rfl rfl (if_neg (Bool.eq_false_iff.1 hvalid))
  · refine retires_of_done (execLsave ⟨t, false⟩ s) hnext hlen hop rfl rfl ?_
    simp only [sAddr_zero]
    exact if_neg (Classical.not_not.2 ((lowest_valid hvalid _).trans hwrite))
  · refine retires_of_done (execLadd t false s) hnext hlen hop rfl rfl ?_
    simp only [sAddr_zero]
    exact if_neg (Classical.not_not.2 ((lowest_valid hvalid _).trans hread))
  · obtain ⟨u, hexec, htile, hothers, hu⟩ := exec_lclr hnext hlen hop
    have hrd (a : Nat) : rd u a = rd (clearMark s t (fLA w)) a := by rw [hu]; rfl
    have hfld (hi lo : Nat) : fld u (stAt t) hi lo = fld (clearMark s t (fLA w)) (stAt t) hi lo := congrArg (bits · hi lo) (hrd _)
    refine ⟨u, hexec, htile, hothers, ?_, ?_, ?_, fun hi lo hout => ?_, fun a ha => ?_⟩
    · rw [hu]
      rfl
    · exact (hfld 55 48).trans (fld_clearMark s t (fLA w))
    · exact (congrArg (bit · (48 + fLA w)) (hrd _)).trans (laInvalid_clearMark s t (bits_lt w 55 53))
    · rw [hfld, clearMark, fld_setFld_ne _ _ _ hout]
    · rw [hrd]
      exact rd_wr_ne _ _ ha

end Sys2Proof.Machine
end

section
/-! SUPPORT. The state after reset: it is legal, and its registers hold the reset words of their tables. -/

namespace Sys2Proof.Machine
open Sys2Proof

/-! ### Where the registers of a Basalt die lie (R30) -/

theorem locate_basalt (p : Part) {die off : Nat} (hdie : die < 4) (hoff : off < 2 ^ 32) :
    locate p (csrAt die off) = (locateBasalt off).map fun r => (r.1, die, r.2) := by
  have hbase : (csrAt die off - 0x200000000000) / 0x100000000 = die := by unfold csrAt csrBase; omega
  have hrest : csrAt die off % 0x100000000 = off := by unfold csrAt csrBase; omega
  have hlow : ¬ csrAt die off < 0x200000000000 := by unfold csrAt csrBase; omega
  have hhigh : csrAt die off < 0x200900000000 := by unfold csrAt csrBase; omega
  have hfitted : (!p.dieFitted die) = false := by simp [Part.dieFitted, hdie]
  simp only [locate, hbase, hrest, if_neg hlow, if_pos hhigh, hfitted, Bool.false_eq_true, if_false, if_pos hdie]

theorem locateBasalt_tpCtr {slot k : Nat} (hslot : slot < 96) (hk : k < 64) :
    locateBasalt (0x400000 + slot * 0x1000 + (0x100 + 8 * k)) = some (.tpCtr, slot) := by
  have hrow : (0x400000 + slot * 0x1000 + (0x100 + 8 * k)) % 0x1000 = 0x100 + 8 * k := by omega
  have hnum : (0x400000 + slot * 0x1000 + (0x100 + 8 * k) - 0x400000) / 0x1000 = slot := by omega
  simp (disch := omega) only [locateBasalt, hrow, hnum, if_pos, if_neg]

theorem locateBasalt_qcCfg {q : Nat} (hq : q < 512) : locateBasalt (0x500000 + 0x40 * q + 0) = some (.qcCfg, q) := by
  have hrow : (0x500000 + 0x40 * q + 0) % 0x40 = 0 := by omega
  have hnum : (0x500000 + 0x40 * q + 0 - 0x500000) / 0x40 = q := by omega
  simp (disch := omega) only [locateBasalt, hrow, hnum, if_pos, if_neg, if_true]

theorem locateBasalt_nocCtl : locateBasalt 0x600000 = some (.nocCtl, 0) := by decide

/-! ### What the registers hold at reset -/

theorem rd_reset (a : Nat) : rd State.reset a = resetOf .m8x2 a := rfl

theorem resetOf_ctrAt (p : Part) (t : TileId) (k : Fin 64) : resetOf p (ctrAt t k) = 0 := by
  have hslot := t.slot.isLt
  rw [resetOf, ctrAt, tpTileAt, tpAt, locate_basalt p t.die.isLt (by omega), locateBasalt_tpCtr hslot k.isLt]
  rfl

theorem resetOf_qcCfg (p : Part) (d : Fin 4) (q : Fin 512) : resetOf p (qcCfg d q) = 0x802000200000000 := by
  have hq := q.isLt
  rw [resetOf, qcCfg, qcAt, locate_basalt p d.isLt (by omega), locateBasalt_qcCfg hq]
  rfl

theorem resetOf_nocCtl (p : Part) (d : Fin 4) : resetOf p (csrAt d 0x600000) = 0x1000000000000 := by
  rw [resetOf, locate_basalt p d.isLt (by decide), locateBasalt_nocCtl]
  rfl

/-! ### The state -/

theorem getTile_reset (t : TileId) : getTile State.reset t = {} := rfl

theorem good_reset : Good State.reset where
  regs := rfl
  table := rfl
  mems := List.forall_mem_nil _
  main := rfl
  room := Nat.zero_le _
  peers := Nat.zero_le _

/-- Settles O3: nothing is stored at reset, so each table reads as its default and each register as its reset word. -/
theorem resetState : Obligations.ResetState := by
  refine ⟨good_reset, rfl, rfl, rfl, fun t => ⟨?_, ?_, fun _ a _ => ?_⟩, fun t k => ?_, fun t n => ?_, fun d q => ?_, fun d => ?_⟩
  · rw [getTile_reset]
  · rw [getTile_reset]
  · rw [getTile_reset, memByte, mget]
  · rw [fld, rd_reset, resetOf_ctrAt]; decide
  · rw [getTile_reset, getLa, mget]
  · rw [qcOn, flag, rd_reset, resetOf_qcCfg]; decide
  · rw [fld, rd_reset, resetOf_nocCtl]; decide

end Sys2Proof.Machine
end

section
/-! SUPPORT. Memory scrubs, the watchdog and duplicated control (R408, R411, R429). -/

namespace Sys2Proof.Machine
open Sys2Proof

/-! ### A scrub of one word (R429) -/

/-- An uncorrectable word of a block or queue memory is reported when it is read (R253). -/
def reportedWhenRead : SramTarget → Bool
  | .blockMem .. | .queueMem .. => true
  | .scratch .. | .accum .. | .kernelMem .. => false

section
variable {s : State} {d : Fin 4} {x : SramTarget} (hrun : running s = true)
include hrun

theorem exec_sramScrub_nowhere (hvalid : sramValid d x = false) (e : Ecc) : exec (.sramScrub d x e) s = .next s := by
  change execSramScrub d x e s = _
  rw [execSramScrub, whenRunning_running hrun, if_pos (by simp [hvalid])]

theorem exec_sramScrub_good (hvalid : sramValid d x = true) : exec (.sramScrub d x .good) s = .next s := by
  change execSramScrub d x .good s = _
  rw [execSramScrub, whenRunning_running hrun, if_neg (by simp [hvalid])]

theorem exec_sramScrub_corrected (hvalid : sramValid d x = true) : exec (.sramScrub d x .corrected) s =
    .next (logEvent (incFld s (sramAt d) 57 42) 0x0003 d (sramPlace s x).1 1 (sramPlace s x).2) := by
  change execSramScrub d x .corrected s = _
  rw [execSramScrub, whenRunning_running hrun, if_neg (by simp [hvalid])]

theorem exec_sramScrub_quiet (hvalid : sramValid d x = true) (hread : reportedWhenRead x = true) :
    exec (.sramScrub d x .uncorrectable) s = .next (satFld (sramSpoil s d x) (sramAt d) 41 34) := by
  change execSramScrub d x .uncorrectable s = _
  rw [execSramScrub, whenRunning_running hrun, if_neg (by simp [hvalid])]
  cases x with
  | blockMem | queueMem => rfl
  | scratch | accum | kernelMem => cases hread

theorem exec_sramScrub_reported (hvalid : sramValid d x = true) (hnow : reportedWhenRead x = false) :
    exec (.sramScrub d x .uncorrectable) s =
      .next (logEvent (satFld (sramSpoil s d x) (sramAt d) 41 34) 0x0004 d (sramPlace s x).1 2 (sramPlace s x).2) := by
  change execSramScrub d x .uncorrectable s = _
  rw [execSramScrub, whenRunning_running hrun, if_neg (by simp [hvalid])]
  cases x with
  | scratch | accum | kernelMem => rfl
  | blockMem | queueMem => cases hnow

end

theorem rd_satFld_ne (s : State) {a b : Nat} (hi lo : Nat) (h : b ≠ a) : rd (satFld s a hi lo) b = rd s b := rd_wr_ne _ _ h

theorem satFld_log (s : State) (a hi lo : Nat) : (satFld s a hi lo).log = s.log := setFld_log ..
theorem satFld_tiles (s : State) (a hi lo : Nat) : (satFld s a hi lo).tiles = s.tiles := setFld_tiles ..
theorem satFld_qcs (s : State) (a hi lo : Nat) : (satFld s a hi lo).qcs = s.qcs := setFld_qcs ..
theorem satFld_regions (s : State) (a hi lo : Nat) : (satFld s a hi lo).regions = s.regions := setFld_regions ..

theorem rd_sramSpoil (s : State) (d : Fin 4) (x : SramTarget) (b : Nat) : rd (sramSpoil s d x) b = rd s b := by cases x <;> rfl

theorem bramUe_sramSpoil (s : State) (d : Fin 4) (n w : Nat) :
    mget false (getRegion (sramSpoil s d (.blockMem n w)) ⟨d, ⟨n / 64 % 16, Nat.mod_lt _ (by decide)⟩⟩).bramUe (1024 * (n % 64) + w) =
      true := by
  rw [sramSpoil, modRegion, getRegion_setRegion_same, mget_mset_same]

theorem ue_sramSpoil (s : State) (d : Fin 4) (n e : Nat) :
    mget false (mget {} (sramSpoil s d (.queueMem n e)).qcs (qcKey d n)).ue e = true := by
  rw [sramSpoil, mget_mset_same, mget_mset_same]

/-! ### Watchdog, lockstep and comparisons (R408, R411) -/

theorem exec_beat {s : State} (hrun : running s = true) : exec .beat s = .next { s with beat := nowNs s 4 } := by
  change execBeat s = _
  rw [execBeat, whenRunning_running hrun, writeWdog, if_pos (by decide)]

theorem exec_watchdogExpiry {s : State} (hrun : running s = true) :
    exec .watchdogExpiry s = .next (if flag s wdogAt 62 then devFail s 0 8 else s) := by
  change execWatchdogExpiry s = _
  rw [execWatchdogExpiry, whenRunning_running hrun]

theorem exec_lockstepMismatch {s : State} (hrun : running s = true) : exec .lockstepMismatch s = .next (devFail s 0 8) := by
  change execLockstepMismatch s = _
  rw [execLockstepMismatch, whenRunning_running hrun]

theorem exec_shaleCompareMismatch {s : State} (hrun : running s = true) (n : Fin 4) :
    exec (.shaleCompareMismatch n) s = .next (if shaleFitted s n then devFail s 0 (4 + n.val) else s) := by
  change execShaleCompareMismatch n s = _
  rw [execShaleCompareMismatch, whenRunning_running hrun]

theorem exec_controlCompareMismatch {s : State} (hrun : running s = true) (t : TileId) :
    exec (.controlCompareMismatch t) s =
      .next (if mapped s t then tileFaultEvent (holdForControl (holdForControl s t 0) t 1) t 0 stTileFault else s) := by
  change execControlCompareMismatch t s = _
  rw [execControlCompareMismatch, whenRunning_running hrun]

/-- Settles O53: a scrub goes by its word's ECC and memory; the comparisons go by what is armed, fitted or mapped. -/
theorem faultsComplete : Obligations.FaultsComplete := by
  intro s d hrun
  refine ⟨fun x e hvalid => exec_sramScrub_nowhere hrun hvalid e,
    fun x hvalid => ⟨exec_sramScrub_good hrun hvalid, exec_sramScrub_corrected hrun hvalid⟩,
    fun t o hvalid => exec_sramScrub_reported hrun hvalid rfl, fun x t o hx hvalid => ?_, fun n w hvalid => ?_, fun n e hvalid => ?_,
    exec_beat hrun, fun harmed => ?_, fun hoff => ?_, exec_lockstepMismatch hrun, fun n => ⟨fun hfit => ?_, fun hnone => ?_⟩,
    fun t => ⟨fun hmap => ?_, fun hnone => ?_⟩⟩
  · rcases hx with rfl | rfl <;> exact exec_sramScrub_reported hrun hvalid rfl
  · refine ⟨_, exec_sramScrub_quiet hrun hvalid rfl, ?_⟩
    rw [satFld_log, satFld_tiles, satFld_qcs, getRegion_congr (satFld_regions ..), bramUe_sramSpoil]
    exact ⟨rfl, rfl, rfl, rfl, fun b hb => (rd_satFld_ne _ _ _ hb).trans (rd_sramSpoil s d _ b)⟩
  · refine ⟨_, exec_sramScrub_quiet hrun hvalid rfl, ?_⟩
    rw [satFld_log, satFld_tiles, satFld_regions, getQc, satFld_qcs, ue_sramSpoil]
    exact ⟨rfl, rfl, rfl, rfl, fun b hb => (rd_satFld_ne _ _ _ hb).trans (rd_sramSpoil s d _ b)⟩
  · rw [exec_watchdogExpiry hrun, if_pos harmed]
  · rw [exec_watchdogExpiry hrun, if_neg (by simp [hoff])]
  · rw [exec_shaleCompareMismatch hrun, if_pos hfit]
  · rw [exec_shaleCompareMismatch hrun, if_neg (by simp [hnone])]
  · rw [exec_controlCompareMismatch hrun, if_pos hmap]
  · rw [exec_controlCompareMismatch hrun, if_neg (by simp [hnone])]

end Sys2Proof.Machine
end

section
/-! SUPPORT. Instructions of tile programs that issue, and the life of a pass from PASS to its report (R100, R101, R114-R121). -/

namespace Sys2Proof.Machine
open Sys2Proof

/-! ### The next instruction of a program issues (R209-R211) -/

theorem tpIssue_next {s s' : State} {t : TileId} {q : Fin 2} {op : Nat} {l : Launch} {ws : List Word} (h : NextInstr s t q op l ws s')
    (f : State → Launch → List Word → State) : tpIssue s t q op f = f s' l ws := by
  obtain ⟨-, hlaunch, hissue, hbusy, hfetch, hop⟩ := h
  simp only [tpIssue, hlaunch, hissue, hbusy, hfetch, hop, Bool.not_true, Bool.or_false, Bool.false_eq_true, if_false, if_true]

/-! ### PASS (R100, R101, R114) -/

section
variable {s s' : State} {t : TileId} {q : Fin 2} {l : Launch} {ws : List Word} (hnext : NextInstr s t q 0x21 l ws s')
  (hready : (getTile s' t).ready = none) (hgo : q.val = 0 → (getTile s' t).preempted = false)
include hnext hready hgo

/-- With no pass ready and no preemption pending, PASS goes by its verdict. -/
theorem exec_pass : exec (.pass t q) s = .next
    (if passVerdict s' t (parsePass ws) ≠ 0 then refusePass s' t q l.pc (passVerdict s' t (parsePass ws))
      else issueWhen (passResident (getTile s' t) (parsePass ws) && (getTile s' t).computeOn && tileOpen s' t) s' t q
        fun s => modTile s t fun x => makeReady x (parsePass ws) q l.pc) := by
  have hfree : ((getTile s' t).ready.isSome || (q.val == 0 && (getTile s' t).preempted)) = false := by
    rw [hready]
    by_cases hq : q.val = 0
    · simp [hgo hq]
    · simp [hq]
  change execPass t q s = _
  rw [execPass, whenRunning_running hnext.1, tpIssue_next hnext]
  simp only [hfree, Bool.false_eq_true, if_false]

theorem exec_pass_refused (hbad : passVerdict s' t (parsePass ws) ≠ 0) :
    exec (.pass t q) s = .next (refusePass s' t q l.pc (passVerdict s' t (parsePass ws))) := by
  rw [exec_pass hnext hready hgo, if_pos hbad]

theorem exec_pass_ready (hok : passVerdict s' t (parsePass ws) = 0) (hres : passResident (getTile s' t) (parsePass ws) = true)
    (hon : (getTile s' t).computeOn = true) (hopen : tileOpen s' t = true) :
    exec (.pass t q) s = .next (setTile s' t (makeReady (getTile s' t) (parsePass ws) q l.pc)) := by
  rw [exec_pass hnext hready hgo, if_neg (Classical.not_not.2 hok), issueWhen, if_pos (by simp [hres, hon, hopen]), modTile_eq]

end

theorem ready_makeReady (x : Tile) (i : PassInstr) (q pc : Nat) :
    ∃ r, (makeReady x i q pc).ready = some r ∧ r.ins = i ∧ r.q = q ∧ r.pc = pc ∧ r.cycle = x.cycle := by
  unfold makeReady
  split <;> exact ⟨_, rfl, rfl, rfl, rfl, rfl⟩

/-! ### Start, cycles and report (R115, R116, R121) -/

/-- One array cycle of a tile: every started pass in start order, then FRONT's weights. -/
def arrayCycle (s : State) (t : TileId) : State :=
  modTile (((getTile s t).passes.map (·.seq)).foldl (passStep t) s) t fun y => frontArrives { y with cycle := y.cycle + 1 }

theorem startDue_none {x : Tile} (h : x.ready = none) : startDue x = false := by rw [startDue, h]

theorem arrayCycle_empty {s : State} {t : TileId} (h : (getTile s t).passes = []) :
    arrayCycle s t = setTile s t (frontArrives { getTile s t with cycle := (getTile s t).cycle + 1 }) := by
  rw [arrayCycle, h, List.map_nil, List.foldl_nil, modTile_eq]

theorem setTile_becomes (s : State) (t : TileId) (y : Tile) : TileBecomes s t y (setTile s t y) :=
  ⟨getTile_setTile_same s t y, fun _ hv => getTile_setTile_ne s y hv, rfl⟩

section
variable {s : State} {t : TileId} (hrun : running s = true)
include hrun

theorem exec_passStart {r : ReadyPass} (hready : (getTile s t).ready = some r) : exec (.passStart t) s = .next
    (if passInvalid s t r.ins (loadsW (getTile s t) r.ins) then refusePass s t r.q r.pc stInvalidDest
      else if startCycle (getTile s t) r ≤ (getTile s t).cycle then startPass s t r else s) := by
  change execPassStart t s = _
  rw [execPassStart, whenRunning_running hrun]
  simp only [hready]

theorem exec_passCycle (hdue : startDue (getTile s t) = false) : exec (.passCycle t none) s = .next (arrayCycle s t) := by
  change execPassCycle t none s = _
  rw [execPassCycle, whenRunning_running hrun, if_neg (by simp [hdue])]
  rfl

theorem exec_passCycle_fault (hdue : startDue (getTile s t) = false) (f : BitVec 32) :
    exec (.passCycle t (some f)) s = .next (arrayCycle (passFault s t f.toNat) t) := by
  change execPassCycle t (some f) s = _
  rw [execPassCycle, whenRunning_running hrun, if_neg (by simp [hdue])]
  rfl

theorem exec_passAbortReport {seq : BitVec 32} {p : Pass} {e : Status}
    (hpass : (getTile s t).passes.find? (fun p => p.seq == seq.toNat) = some p) (hend : p.ending = some e) :
    let s0 := if p.nofold then noFold s t p.q 1 p.seq else s
    let s1 := modTile s0 t (fun x => { x with passes := x.passes.filter (fun r => r.seq != p.seq) })
    let s2 := setFld s1 (stAt t) 55 47 (getTile s1 t).passes.length
    exec (.passAbortReport t seq) s = .next
      (unitEnded (autoRelease (countEnd s2 t p.seq e false) t) t p.q 1 p.seq { status := e, cycle := some p.endAt }) := by
  change execPassAbortReport t seq s = _
  rw [execPassAbortReport, whenRunning_running hrun]
  simp only [hpass, hend]

end

/-! ### The cycle of the last row (R116, R119) -/

theorem cdiv_pos {a b : Nat} (ha : 0 < a) (hb : 0 < b) : 0 < cdiv a b := by
  unfold cdiv
  exact Nat.div_pos (by omega) hb

theorem cyc_pos {i : PassInstr} (hk : i.k ≠ 0) : 0 < cyc i := by
  unfold cyc
  split
  · exact cdiv_pos (Nat.pos_of_ne_zero hk) (by decide)
  · exact Nat.one_pos

/-- The last of a pass's rows leaves in the cycle `commitAfter`, and none after it. -/
theorem leaves_commitAfter {i : PassInstr} (hrows : 0 < rowCount i) :
    leaves i (commitAfter i) = some (rowCount i - 1) ∧ ∀ r, commitAfter i < r → leaves i r = none := by
  have hdrain : commitAfter i + 1 = (if i.k = 0 then 4 else 260) + rowCount i := by
    unfold commitAfter rowCount
    split <;> omega
  refine ⟨?_, fun r hr => ?_⟩
  · rw [leaves, if_pos (by omega)]
    congr 1
    omega
  · rw [leaves, if_neg (by omega)]

end Sys2Proof.Machine
end

section
/-! SUPPORT. Writes of accumulator sets: the word that a legal one leaves, and when they are held and applied (R108, R110). -/

namespace Sys2Proof.Machine
open Sys2Proof

/-! ### The word of MT_ACCSET (R12, R108) -/

/-- MT_ACCSET with `old` in it after a legal write of `v`. -/
def accsetWord (old v : Word) : Word := setBit (maskWrite (regInfo .mtAccset) false old v) 62 false

/-- Bits 63:26 but INVALID can be written. -/
theorem mtAccset_writable : ∀ i < 64, 26 ≤ i → i ≠ 62 → (regInfo .mtAccset).rw.testBit i = true := by decide

theorem getLsbD_accsetWord (old v : Word) {i : Nat} (hlow : 26 ≤ i) (hinvalid : i ≠ 62) :
    (accsetWord old v).getLsbD i = v.getLsbD i := by
  by_cases h64 : i < 64
  · have hmask : (BitVec.ofNat 64 (regInfo .mtAccset).rw)[i] = true := by
      rw [← BitVec.getLsbD_eq_getElem, BitVec.getLsbD_ofNat, mtAccset_writable i h64 hlow hinvalid, decide_eq_true h64, Bool.and_true]
    rw [accsetWord, setBit, getLsbD_setBits, if_neg (by omega)]
    simp [maskWrite, hmask, h64, show (regInfo .mtAccset).w1c = 0 from rfl, show (regInfo .mtAccset).w1s = 0 from rfl,
      show (regInfo .mtAccset).rwl = 0 from rfl]
  · rw [BitVec.getLsbD_of_ge _ _ (by omega), BitVec.getLsbD_of_ge _ _ (by omega)]

theorem bits_accsetWord (old v : Word) {hi lo : Nat} (hlow : 26 ≤ lo) (hhigh : hi < 62) :
    bits (accsetWord old v) hi lo = bits v hi lo := by
  apply Nat.eq_of_testBit_eq
  intro j
  rw [testBit_bits, testBit_bits]
  by_cases hj : j < hi + 1 - lo
  · rw [getLsbD_accsetWord _ _ (by omega) (by omega)]
  · simp [hj]

theorem bit_accsetWord (old v : Word) {i : Nat} (hlow : 26 ≤ i) (hinvalid : i ≠ 62) : bit (accsetWord old v) i = bit v i :=
  getLsbD_accsetWord old v hlow hinvalid

theorem accsetWord_valid (old v : Word) : bit (accsetWord old v) 62 = false := bit_setBit_same _ _ (by decide)

/-! ### Writes that take effect, are ignored, or are held (R110) -/

section
variable {s : State} {t : TileId}

theorem applyAccset_legal {n : Nat} {v : Word} (h : accsetBad s t n v = false) :
    applyAccset s t n v = wr s (accAt t n) (accsetWord (rd s (accAt t n)) v) := by
  rw [applyAccset, if_neg (by simp [h]), accsetWord]

theorem applyAccset_illegal {n : Nat} {v : Word} (h : accsetBad s t n v = true) : applyAccset s t n v = setFlag s (stAt t) 45 true := by
  rw [applyAccset, if_pos h]

/-- Neither a started pass nor a held write names the set. -/
def accsetFree (x : Tile) (n : Nat) : Prop := accsetNamed x n = false ∧ x.heldAcc.any (fun e => e.1 == n) = false

theorem writeAccset_free {n : Nat} (h : accsetFree (getTile s t) n) (v : Word) (p : Option Packet) :
    writeAccset s t n v p = applyAccset s t n v := by
  obtain ⟨hnamed, hheld⟩ := h
  rw [writeAccset, if_neg (by simp only [hnamed, hheld]; decide)]

theorem writeAccset_held {n : Nat} (h : ¬accsetFree (getTile s t) n) (v : Word) (p : Option Packet) :
    writeAccset s t n v p = setTile s t { getTile s t with heldAcc := (getTile s t).heldAcc ++ [(n, v, p)] } := by
  have hwaits : (accsetNamed (getTile s t) n || (getTile s t).heldAcc.any fun e => e.1 == n) = true := by
    rw [← Bool.not_eq_false, Bool.or_eq_false_iff]
    exact h
  rw [writeAccset, if_pos hwaits, modTile_eq]

variable (hrun : running s = true)
include hrun

theorem exec_mtAccsetWrite (hm : isV t = false) (n : Fin 16) (v : Word) :
    exec (.mtAccsetWrite t n v) s = .next (writeAccset s t n v none) := by
  change execMtAccsetWrite t n v s = _
  rw [execMtAccsetWrite, whenRunning_running hrun, if_neg (by simp [hm])]

theorem exec_mtAccsetApply {n : Fin 16} {e : Nat × Word × Option Packet}
    (hheld : (getTile s t).heldAcc.find? (fun e => e.1 == n.val) = some e) (hfree : accsetNamed (getTile s t) n = false) :
    let l := (getTile s t).heldAcc.erase e
    let s1 := applyAccset (setTile s t { getTile s t with heldAcc := l }) t n e.2.1
    exec (.mtAccsetApply t n) s = .next
      (e.2.2.elim s1 fun p => if l.any (fun h => h.2.2 == some p) then s1 else sendPkt s1 (response p stOk [] 0)) := by
  change execMtAccsetApply t n s = _
  rw [execMtAccsetApply, whenRunning_running hrun]
  simp only [hheld, hfree, Bool.false_eq_true, if_false]
  cases e.2.2 <;> rfl

end

/-- Settles O25: each command of a pass's life by the readiness, cycle and ending that it meets, and the writes of accumulator sets. -/
theorem passLifeCompletes : Obligations.PassLifeCompletes := by
  refine ⟨fun s t hrun => ⟨fun q l ws s' hnext hready hgo => ⟨fun hbad => ?_, fun hok hres hon hopen => ?_⟩,
    fun r hready hvalid hdue => ?_, fun r hready hinvalid => ?_,
    fun hdue => ⟨exec_passCycle hrun hdue, exec_passCycle_fault hrun hdue⟩, fun hpasses hready => ?_,
    fun seq p e hpass hend => exec_passAbortReport hrun hpass hend⟩, fun i hm => ⟨fun hk => ?_, fun hk => ?_, ?_⟩,
    fun s t n v hrun hmtile => ⟨fun hfree hlegal => ?_, fun hfree hillegal => ?_, fun hheld => ?_,
      fun e hheld hnamed => ⟨fun hnone => ?_, fun p hsome hlast => ?_⟩⟩⟩
  · exact exec_pass_refused hnext hready hgo hbad
  · exact ⟨exec_pass_ready hnext hready hgo hok hres hon hopen, ready_makeReady ..⟩
  · rw [exec_passStart hrun hready, if_neg (by simp [hvalid]), if_pos hdue]
  · rw [exec_passStart hrun hready, if_pos hinvalid]
  · refine ⟨_, exec_passCycle hrun (startDue_none hready), ?_⟩
    rw [arrayCycle_empty hpasses]
    exact setTile_becomes s t _
  · have hrows : rowCount i = cyc i * i.m := if_neg hk
    have hpos : 0 < rowCount i := hrows ▸ Nat.mul_pos (cyc_pos hk) hm
    rw [(leaves_commitAfter hpos).1, commitAfter, if_neg hk, hrows]
    exact ⟨rfl, rfl⟩
  · have hrows : rowCount i = i.m := if_pos hk
    rw [(leaves_commitAfter (hrows ▸ hm)).1, commitAfter, if_pos hk, hrows]
    exact ⟨rfl, rfl⟩
  · refine (leaves_commitAfter ?_).2
    unfold rowCount
    split
    · exact hm
    · exact Nat.mul_pos (cyc_pos ‹_›) hm
  · rw [exec_mtAccsetWrite hrun hmtile, writeAccset_free hfree, applyAccset_legal hlegal]
    refine ⟨_, rfl, ?_⟩
    simp only [fld, flag, rd_wr_same, accsetWord_valid]
    exact ⟨bits_accsetWord _ _ (by decide) (by decide), bits_accsetWord _ _ (by decide) (by decide),
      bit_accsetWord _ _ (by decide) (by decide), trivial, bit_accsetWord _ _ (by decide) (by decide), rfl, fun a ha => rd_wr_ne _ _ ha⟩
  · rw [exec_mtAccsetWrite hrun hmtile, writeAccset_free hfree, applyAccset_illegal hillegal]
  · rw [exec_mtAccsetWrite hrun hmtile, writeAccset_held hheld]
    exact ⟨_, rfl, setTile_becomes s t _⟩
  · rw [exec_mtAccsetApply hrun hheld hnamed, hnone]
    rfl
  · rw [exec_mtAccsetApply hrun hheld hnamed, hsome, Option.elim_some, if_neg (by simp [hlast])]

end Sys2Proof.Machine
end

section
/-! SUPPORT. Aborts, preemption, replay and the compute domain of a tile (R218-R221, R226, R228, R495, R496). -/

namespace Sys2Proof.Machine
open Sys2Proof

/-! ### Aborts (R218, R219) -/

/-- The reply shows the ID and the low byte of the outcome. -/
theorem abortReply_bitVec (s : State) (t : TileId) (id : BitVec 32) (r : Status) :
    abortReply s t id.toNat r = wr s (tpTileAt t 0x38) (BitVec.ofNat 64 (id.toNat * 2 ^ 32 + r % 256)) := by
  rw [abortReply, Nat.mod_eq_of_lt id.isLt]

theorem exec_abortUnit {s : State} (hrun : running s = true) (t : TileId) (id : BitVec 32) :
    exec (.abortUnit t id) s = .next (abortReply (abortNumber s t id.toNat).2 t id.toNat (abortNumber s t id.toNat).1) := by
  change execAbortUnit t id s = _
  exact whenRunning_running hrun _

section
variable {s : State} {t : TileId} {q : Fin 2} {pos : BitVec 32} {net : BitVec 8} (hrun : running s = true)
include hrun

/-- An abort that writes no record replies at once. -/
theorem exec_abortLaunch_fetched (hfetched : abortUnfetched s t q pos.toNat = false) :
    exec (.abortLaunch t q pos net) s = .next
      (abortReply (abortPosition s t q pos.toNat net.toNat).2 t pos.toNat (abortPosition s t q pos.toNat net.toNat).1) := by
  change execAbortLaunch t q pos net s = _
  rw [execAbortLaunch, whenRunning_running hrun, if_neg (by simp [abortWaits, hfetched]), abortLaunchWrite]
  simp only [hfetched, Bool.false_and, Bool.false_eq_true, if_false]

/-- An abort that writes a record replies at once when the write neither waits for its place nor for its acknowledgement. -/
theorem exec_abortLaunch_unfetched (hplace : seqBusy s t net.toNat (recAt s t q pos.toNat + 6) 1 = false)
    (hack : ackWaits s (recAt s t q pos.toNat + 6) = false) :
    exec (.abortLaunch t q pos net) s = .next
      (abortReply (abortPosition s t q pos.toNat net.toNat).2 t pos.toNat (abortPosition s t q pos.toNat net.toNat).1) := by
  change execAbortLaunch t q pos net s = _
  rw [execAbortLaunch, whenRunning_running hrun, if_neg (by simp [abortWaits, hplace]), abortLaunchWrite]
  simp only [hack, Bool.and_false, Bool.false_eq_true, if_false]

end

section
variable {s : State} {t : TileId} {q pos : Nat} {net : Status}

theorem abortUnfetched_nowhere (h : sub32 (sqTail s t q) pos = 0 ∨ 2 ^ 31 ≤ sub32 (sqTail s t q) pos) :
    abortUnfetched s t q pos = false := by
  have hout : (sub32 (sqTail s t q) pos != 0 && decide (sub32 (sqTail s t q) pos < 2 ^ 31)) = false := by simpa using h.resolve_left
  simp only [abortUnfetched, hout, Bool.false_and]

theorem abortPosition_nowhere (h : sub32 (sqTail s t q) pos = 0 ∨ 2 ^ 31 ≤ sub32 (sqTail s t q) pos) :
    abortPosition s t q pos net = (stInvalidDest, s) := by
  rw [abortPosition, if_pos (by simpa using h)]

section
variable (hsome : sub32 (sqTail s t q) pos ≠ 0) (hnear : sub32 (sqTail s t q) pos < 2 ^ 31)
include hsome hnear

theorem abortPosition_unfetched (h : abortUnfetched s t q pos = true) : abortPosition s t q pos net = abortQueued s t q pos net := by
  rw [abortPosition, if_neg (by simpa [hsome] using hnear), if_pos h]

theorem abortPosition_runs {l : Launch} (h : abortUnfetched s t q pos = false) (hlaunch : getRun (getTile s t) q = some l)
    (hpos : l.pos = pos) : abortPosition s t q pos net = (stAborted, abortProgram s t q l) := by
  rw [abortPosition, if_neg (by simpa [hsome] using hnear), if_neg (by simp [h])]
  simp only [hlaunch, hpos, if_true]

theorem abortPosition_over (h : abortUnfetched s t q pos = false) (hother : ∀ l, getRun (getTile s t) q = some l → l.pos ≠ pos) :
    abortPosition s t q pos net = (stAlready, s) := by
  rw [abortPosition, if_neg (by simpa [hsome] using hnear), if_neg (by simp [h])]
  cases hl : getRun (getTile s t) q with
  | none => rfl
  | some l => exact if_neg (hother l hl)

end

/-- The write of ABORT as the sequencer makes it. -/
theorem abortQueued_served (h : seqStatus s t net (recAt s t q pos + 6) 1 = 0) : abortQueued s t q pos net =
    (stAborted, hbmStore s (ownWrite (recAt s t q pos + 6) [hbmByte s (recAt s t q pos + 6) ||| 0x80]) none) := by
  rw [abortQueued, seqWrite, List.length_singleton, if_neg (Classical.not_not.2 h)]

theorem abortQueued_refused (h : seqStatus s t net (recAt s t q pos + 6) 1 ≠ 0) :
    abortQueued s t q pos net = (seqStatus s t net (recAt s t q pos + 6) 1, s) := by
  rw [abortQueued, seqWrite, List.length_singleton, if_pos h]

end

/-! ### Preemption (R220, R221) -/

section
variable {s : State} {t : TileId} {l : Launch} (hrun : running s = true) (hlaunch : getRun (getTile s t) 0 = some l)
include hrun hlaunch

theorem exec_preempt (hwork : sqHead s t 1 ≠ sqTail s t 1) (hsus : l.suspended = false) (hheld : l.held = false) :
    let x := getTile s t
    let s1 := setTile s t { x with
      preempted := true, wtag := none, ready := x.ready.bind (fun r => if r.q = 0 then none else some r) }
    exec (.preempt t) s = .next (if isV t then s1 else setFlag s1 (stAt t) 56 false) := by
  change execPreempt t s = _
  rw [execPreempt, whenRunning_running hrun]
  simp only [hlaunch]
  rw [if_neg (by simp [hwork, hsus, hheld])]
  cases hready : (getTile s t).ready with
  | none => simp [modTile_eq, hready]
  | some r => simp [modTile_eq, hready]

theorem exec_suspend (hpre : (getTile s t).preempted = true) (hheld : l.held = false) (hpasses : ∀ p ∈ (getTile s t).passes, p.q ≠ 0)
    (hkernel : ∀ k, (getTile s t).kernel = some k → k.q ≠ 0) :
    exec (.suspend t) s = .next
      (setQState (setRun (setTile s t { getTile s t with preempted := false }) t 0 (some { l with suspended := true })) t 0 2) := by
  have hpass : ((getTile s t).passes.any fun p => p.q == 0) = false := by simpa using hpasses
  change execSuspend t s = _
  rw [execSuspend, whenRunning_running hrun]
  simp only [hlaunch, hpre, hheld, hpass, Bool.not_true, Bool.or_false, Bool.false_or]
  cases hk : (getTile s t).kernel with
  | none => exact congrArg _ (if_neg Bool.false_ne_true)
  | some k => exact congrArg _ (if_neg (by simpa using hkernel k hk))

theorem exec_programResume (hsus : l.suspended = true) (hidle : queueIdle s t 1 = true) :
    exec (.programResume t) s = .next (restartTimers (setQState
      (setFld (setRun s t 0 (some { l with suspended := false })) (tpStAt t) 57 56 l.level) t 0 (if l.held then 3 else 1)) t 0) := by
  change execProgramResume t s = _
  rw [execProgramResume, whenRunning_running hrun]
  simp only [hlaunch]
  rw [if_neg (by simp [hsus, hidle])]

end

/-! ### Replay (R226) -/

/-- A held program whose other units have ended restarts by what has happened to its tile. -/
theorem exec_programRestart {s : State} {t : TileId} {q : Fin 2} {l : Launch} (hrun : running s = true)
    (hlaunch : getRun (getTile s t) q = some l) (hheld : l.held = true) (hunits : ∀ u ∈ l.live, u.kind = 4)
    (hopen : tileOpen s t = true) :
    exec (.programRestart t q) s = .next
      (if l.moved then restartAt s t q (fun l => { l with replays := l.replays + 1 })
      else if flag s (ckptAt t q) 24 then restartAt (setFlag s (ckptAt t q) 24 false) t q id
      else if hasSpare s t then s
      else failProgram (setRun s t q (some { l with held := false })) t q
        (l.heldBy.getD { code := stTileFault, kind := 1, ctx := 0, pc := l.pc, seq := 0 })) := by
  have hended : (l.live.any fun u => u.kind != 4) = false := by simpa using hunits
  change execProgramRestart t q s = _
  rw [execProgramRestart, whenRunning_running hrun]
  simp only [hlaunch]
  rw [if_neg (by simp [hheld, hended, hopen])]

/-! ### The compute domain (R228, R495, R496) -/

/-- What a tile holds with its compute domain switched off; its window stays. -/
def darkTile (s : State) (t : TileId) (x : Tile) : Tile :=
  { x with computeOn := false, wtag := none, weights := [], shadow := [], wscales := [], sscales := [], front := none,
           vlanes := [], vtags := [], vlost := if isV t then some s.freeCtr else none, sregs := [], masks := [] }

/-- The state with the tile's compute domain switched off, but for WTAG_VALID of an M-tile. -/
def darkened (s : State) (t : TileId) : State := { setTile s t (darkTile s t (getTile s t)) with freeCtr := s.freeCtr + 1 }

theorem rd_darkened (s : State) (t : TileId) (a : Nat) : rd (darkened s t) a = rd s a := rfl

theorem getTile_darkened_same (s : State) (t : TileId) : getTile (darkened s t) t = darkTile s t (getTile s t) :=
  getTile_setTile_same s t _

theorem getTile_darkened_ne (s : State) {t v : TileId} (hv : v ≠ t) : getTile (darkened s t) v = getTile s v := getTile_setTile_ne s _ hv

theorem loseCompute_eq (s : State) (t : TileId) :
    loseCompute s t = if isV t then darkened s t else setFlag (darkened s t) (stAt t) 56 false := rfl

theorem exec_powerDomainOff {s : State} {t : TileId} (hrun : running s = true) (hsleep : (getTile s t).sleepEnd = true)
    (hon : (getTile s t).computeOn = true) (hidle0 : queueIdle s t 0 = true) (hidle1 : queueIdle s t 1 = true) :
    exec (.powerDomainOff t) s = .next (setFld (loseCompute s t) (tpStAt t) 57 56 2) := by
  change execPowerDomainOff t s = _
  rw [execPowerDomainOff, whenRunning_running hrun, if_pos (by simp only [hsleep, hon, hidle0, hidle1]; decide)]

/-- `u` differs from `s` in tiles and registers only, and has the free-value counter at `n`. -/
def DomainFrame (s : State) (n : Nat) (u : State) : Prop := u = { s with tiles := u.tiles, csr := u.csr, freeCtr := n }

theorem domainFrame_darkened (s : State) (t : TileId) : DomainFrame s (s.freeCtr + 1) (darkened s t) := rfl

theorem wr_domainFrame {s u : State} {n : Nat} (h : DomainFrame s n u) (a : Nat) (v : Word) : DomainFrame s n (wr u a v) := by
  obtain ⟨tiles, csr, rfl⟩ : ∃ tiles csr, u = { s with tiles := tiles, csr := csr, freeCtr := n } := ⟨_, _, h⟩
  rfl

theorem loseCompute_frame (s : State) (t : TileId) : getTile (loseCompute s t) t = darkTile s t (getTile s t) ∧
    (∀ v, v ≠ t → getTile (loseCompute s t) v = getTile s v) ∧ DomainFrame s (s.freeCtr + 1) (loseCompute s t) ∧
    ∀ a, a ≠ stAt t → rd (loseCompute s t) a = rd s a := by
  rw [loseCompute_eq]
  split
  · exact ⟨getTile_darkened_same s t, fun _ hv => getTile_darkened_ne s hv, domainFrame_darkened s t, fun a _ => rd_darkened s t a⟩
  · exact ⟨(getTile_setFlag ..).trans (getTile_darkened_same s t), fun _ hv => (getTile_setFlag ..).trans (getTile_darkened_ne s hv),
      wr_domainFrame (domainFrame_darkened s t) _ _, fun a ha => (rd_wr_ne _ _ ha).trans (rd_darkened s t a)⟩

theorem exec_powerDomainWake {s : State} {t : TileId} (hrun : running s = true) (hoff : (getTile s t).computeOn = false)
    (hwork : queueIdle s t 0 = false ∨ queueIdle s t 1 = false) (hmap : mapped s t = true) :
    let s1 := setTile s t { getTile s t with computeOn := true, sleepEnd := false }
    exec (.powerDomainWake t) s = .next
      (if fld s (tpStAt t) 57 56 = 2 ∧ getRun (getTile s t) 0 = none ∧ getRun (getTile s t) 1 = none then setFld s1 (tpStAt t) 57 56 1
        else s1) := by
  have hbusy : (queueIdle s t 0 && queueIdle s t 1) = false := by rcases hwork with h | h <;> simp [h]
  change execPowerDomainWake t s = _
  rw [execPowerDomainWake, whenRunning_running hrun, if_pos (by simp only [hoff, hbusy, hmap]; decide)]
  refine congrArg _ (ite_congr (propext ?_) (fun _ => rfl) fun _ => rfl)
  simp only [fld, rd_setTile, Bool.and_eq_true, beq_iff_eq, Option.isNone_iff_eq_none, and_assoc]

/-- Settles O29: aborts by what the ID or the position names, preemption and replay by the launch's marks, the domain by the queues. -/
theorem tileControlCompletes : Obligations.TileControlCompletes := by
  intro s t hrun
  refine ⟨fun id => ?_, fun q pos net hnowhere => ?_, fun q pos net hsome hnear =>
      ⟨fun hfetched => ⟨fun l hl hpos => ?_, fun hother => ?_⟩,
      fun hunfetched hplace hack => ⟨fun hserved => ?_, fun hrefused _ => ?_⟩⟩,
    fun l hl hwork hsus hheld => ⟨fun hv => ?_, fun hm => ?_⟩,
    fun l hl hpre hheld hpasses hkernel => exec_suspend hrun hl hpre hheld hpasses hkernel,
    fun l hl hsus hidle => exec_programResume hrun hl hsus hidle,
    fun l q hl hheld hunits hopen => ⟨fun hmoved => ?_, fun hstays hagain => ?_, fun hstays honce hspare => ?_⟩,
    fun hsleep hon hidle0 hidle1 => ?_, fun hoff hwork hmap => ⟨fun hlevel h0 h1 => ?_, fun hother => ?_⟩⟩
  · rw [exec_abortUnit hrun, abortReply_bitVec]
  · rw [exec_abortLaunch_fetched hrun (abortUnfetched_nowhere hnowhere), abortPosition_nowhere hnowhere, abortReply_bitVec]; rfl
  · rw [exec_abortLaunch_fetched hrun hfetched, abortPosition_runs hsome hnear hfetched hl hpos, abortReply_bitVec]; rfl
  · rw [exec_abortLaunch_fetched hrun hfetched, abortPosition_over hsome hnear hfetched hother, abortReply_bitVec]; rfl
  · rw [exec_abortLaunch_unfetched hrun hplace hack, abortPosition_unfetched hsome hnear hunfetched, abortQueued_served hserved,
      abortReply_bitVec]; rfl
  · rw [exec_abortLaunch_unfetched hrun hplace hack, abortPosition_unfetched hsome hnear hunfetched, abortQueued_refused hrefused,
      abortReply_bitVec]
  · rw [exec_preempt hrun hl hwork hsus hheld, if_pos hv]
  · rw [exec_preempt hrun hl hwork hsus hheld, if_neg (by simp [hm])]
  · rw [exec_programRestart hrun hl hheld hunits hopen, if_pos hmoved]
  · rw [exec_programRestart hrun hl hheld hunits hopen, if_neg (by simp [hstays]), if_pos hagain]
  · rw [exec_programRestart hrun hl hheld hunits hopen, if_neg (by simp [hstays]), if_neg (by simp [honce]), if_neg (by simp [hspare])]
  · obtain ⟨htile, hother, hframe, hregs⟩ := loseCompute_frame s t
    exact ⟨_, exec_powerDomainOff hrun hsleep hon hidle0 hidle1, (getTile_setFld ..).trans htile,
      fun v hv => (getTile_setFld ..).trans (hother v hv), wr_domainFrame hframe _ _, fld_setFld_same _ _ 2 (by decide) (by decide),
      fun a ha hst => (rd_wr_ne _ _ ha).trans (hregs a hst)⟩
  · rw [exec_powerDomainWake hrun hoff hwork hmap, if_pos ⟨hlevel, h0, h1⟩]
  · rw [exec_powerDomainWake hrun hoff hwork hmap, if_neg (by rintro ⟨h2, h0, h1⟩; simp [h2, h0, h1] at hother)]

end Sys2Proof.Machine
end

section
/-! SUPPORT. The registers of a vector tile: what a write of lanes, of a scalar or of a mask register leaves (R129, R142). -/

namespace Sys2Proof.Machine
open Sys2Proof

/-! ### Lanes -/

theorem lane_setLane_same (x : Tile) (v i : Nat) (b : BitVec 64) : lane (setLane x v i b) v i = b := mget_mset_same ..

theorem lane_setLane_ne (x : Tile) {v i u j : Nat} (b : BitVec 64) (hi : i < 128) (hj : j < 128) (hne : ¬(u = v ∧ j = i)) :
    lane (setLane x v i b) u j = lane x u j := mget_mset_ne _ _ _ _ (by omega)

/-- The tile with the lanes below n that are on in a mask written. -/
def writeLanes (x : Tile) (v : Nat) (m : BitVec 128) (f : Nat → BitVec 64) (n : Nat) : Tile :=
  (List.range n).foldl (fun x i => if m.getLsbD i then setLane x v i (f i) else x) x

theorem writeVec_eq (x : Tile) (v : Nat) (m : BitVec 128) (f : Nat → BitVec 64) (kind : Nat) (scale : Int) :
    writeVec x v m f kind scale = setVtag (writeLanes x v m f 128) v kind scale := rfl

theorem writeLanes_succ (x : Tile) (v : Nat) (m : BitVec 128) (f : Nat → BitVec 64) (n : Nat) :
    writeLanes x v m f (n + 1) =
      if m.getLsbD n then setLane (writeLanes x v m f n) v n (f n) else writeLanes x v m f n := by
  rw [writeLanes, List.range_succ, List.foldl_append]
  rfl

theorem writeLanes_frame (x : Tile) (v : Nat) (m : BitVec 128) (f : Nat → BitVec 64) (n : Nat) :
    writeLanes x v m f n = { x with vlanes := (writeLanes x v m f n).vlanes } := by
  refine foldl_inv (fun y : Tile => y = { x with vlanes := y.vlanes }) _ (fun y i hy => ?_) _ _ rfl
  split
  · rw [hy]
    rfl
  · exact hy

theorem lane_writeLanes_other (x : Tile) {v u : Nat} (m : BitVec 128) (f : Nat → BitVec 64) {j : Nat} (hj : j < 128) (hu : u ≠ v) :
    ∀ n, n ≤ 128 → lane (writeLanes x v m f n) u j = lane x u j
  | 0, _ => rfl
  | n + 1, hn => by
    have ih := lane_writeLanes_other x m f hj hu n (by omega)
    rw [writeLanes_succ]
    split
    · rw [lane_setLane_ne _ _ (by omega) hj (by omega), ih]
    · exact ih

theorem lane_writeLanes_same (x : Tile) (v : Nat) (m : BitVec 128) (f : Nat → BitVec 64) {j : Nat} (hj : j < 128) :
    ∀ n, n ≤ 128 → lane (writeLanes x v m f n) v j = if j < n ∧ m.getLsbD j then f j else lane x v j
  | 0, _ => by simp [writeLanes]
  | n + 1, hn => by
    have ih := lane_writeLanes_same x v m f hj n (by omega)
    rw [writeLanes_succ]
    by_cases hjn : j = n
    · subst hjn
      by_cases hon : m.getLsbD j
      · rw [if_pos hon, lane_setLane_same, if_pos ⟨Nat.lt_succ_self j, hon⟩]
      · rw [if_neg hon, ih, if_neg (by simp), if_neg (by simp [hon])]
    · have hlt : (j < n ∧ m.getLsbD j) ↔ (j < n + 1 ∧ m.getLsbD j) := and_congr_left' (by omega)
      simp only [← hlt]
      split
      · rw [lane_setLane_ne _ _ (by omega) hj (by omega), ih]
      · exact ih

/-! ### Scalar registers -/

theorem sreg_setSreg_same (x : Tile) {i : Nat} (w : BitVec 64) (hi : i ≠ 0) : sreg (setSreg x i w) i = w := by
  rw [sreg, setSreg, if_neg hi, if_neg hi, mget_mset_same]

theorem sreg_setSreg_ne (x : Tile) {i j : Nat} (w : BitVec 64) (hj : j ≠ i) : sreg (setSreg x i w) j = sreg x j := by
  by_cases hi : i = 0
  · rw [setSreg, if_pos hi]
  · simp only [sreg, setSreg, if_neg hi, mget_mset_ne _ _ _ _ hj]

/-- Settles O8: a vector write stores lane after lane, then the kind; s0 and m0 are no stored registers. -/
theorem vectorWritesFillMask : Obligations.VectorWritesFillMask := by
  intro x v m f kind scale y
  have hy : y = setVtag (writeLanes x v m f 128) v kind scale := writeVec_eq ..
  have hframe := writeLanes_frame x v m f 128
  refine ⟨fun i hi => ?_, fun u i hi hu => ?_, mget_mset_same .., fun u hu => ?_, fun i => ?_, ?_, fun w => ⟨rfl, rfl, rfl⟩,
    fun i w hi => ⟨sreg_setSreg_same x w hi, fun j hj => sreg_setSreg_ne x w hj⟩⟩
  · exact (lane_writeLanes_same x v m f hi 128 (Nat.le_refl _)).trans (by simp only [hi, true_and])
  · exact lane_writeLanes_other x m f hi hu 128 (Nat.le_refl _)
  · rw [hy, hframe]
    exact mget_mset_ne _ _ _ _ hu
  · rw [hy, hframe]
    exact ⟨rfl, rfl, rfl⟩
  · rw [hy, hframe]
    rfl

end Sys2Proof.Machine
end

section
/-! SUPPORT. What a kernel instruction that retires or stops does, by the fields of its word and its kinds (R137, R140, R142). -/

namespace Sys2Proof.Machine
open Sys2Proof

/-! ### Immediate fields -/

theorem sextN_eq_toInt (n x : Nat) : sextN n x = (BitVec.ofNat n x).toInt := by
  rw [sextN, BitVec.toInt_eq_toNat_cond, BitVec.toNat_ofNat]

/-- A field of n bits from `lo` on, as a signed number. -/
theorem sextN_bits (w : Word) {n hi lo : Nat} (hn : hi + 1 - lo = n) : sextN n (bits w hi lo) = (w.extractLsb' lo n).toInt := by
  rw [sextN_eq_toInt]
  congr 1
  refine BitVec.eq_of_toNat_eq ?_
  rw [BitVec.toNat_ofNat, BitVec.extractLsb'_toNat, bits, bitsN, hn, Nat.mod_mod, Nat.shiftRight_eq_div_pow]

theorem ofInt_fImm48 (w : Word) : BitVec.ofInt 64 (fImm48 w) = (w.extractLsb' 0 48).signExtend 64 := by
  rw [fImm48, sextN_bits w (n := 48) rfl]
  rfl

theorem sAddr_one (x : Tile) (i : Nat) (off : Int) : sAddr x i off 1 = codeN 64 ((sNat x i : Int) + off) := by
  rw [sAddr, alignDown, Nat.div_one, Nat.mul_one]

theorem regScale_in_range {x : Tile} {i : Nat} (hlow : -32767 ≤ sInt x i) (hhigh : sInt x i ≤ 32767) :
    regScale x i = some (sInt x i) := if_pos ⟨hlow, hhigh⟩

theorem sub_one_eq_zero_iff (b : BitVec 64) : b - 1 = 0 ↔ b = 1 := by bv_omega

/-! ### Flags and kinds -/

theorem laneFlags_zero (m : BitVec 128) : laneFlags m (fun _ => 0) = 0 := by
  simp only [laneFlags, ite_self, orAll, List.foldl_map, Nat.or_zero]
  exact foldl_inv (· = 0) (fun n _ => n) (fun _ _ h => h) _ 0 rfl

theorem needKind_of_ne {x : Tile} {vs : List Nat} {v kind : Nat} (hv : v ∈ vs) (h : (vtag x v).kind ≠ kind) :
    needKind x vs kind = false :=
  List.all_eq_false.2 ⟨v, hv, by simp [h]⟩

theorem unless_kinds_met {x : Tile} {vs : List Nat} {kind : Nat} (h : ∀ v ∈ vs, (vtag x v).kind = kind) (a b : KOut) :
    (if !needKind x vs kind then a else b) = b := by
  rw [needKind_of_forall h]
  rfl

theorem unless_kinds_failed {x : Tile} {vs : List Nat} {v kind : Nat} (hv : v ∈ vs) (h : (vtag x v).kind ≠ kind) (a b : KOut) :
    (if !needKind x vs kind then a else b) = a := by
  rw [needKind_of_ne hv h]
  rfl

/-- Two accesses that meet no stop have no status between them. -/
theorem lowest_none {a b : Status} (ha : a = 0) (hb : b = 0) : lowest a b = 0 := by
  rw [ha, hb]
  rfl

/-! ### Commands at the word of the kernel -/

section
variable {c : Instr} {s : State} {t : TileId} {k : Kernel} {w : Word} {op : Nat} {f : State → Tile → Kernel → Word → KOut}
  (e : Out) (hnext : NextWord s t k w) (hop : bits w 63 56 = op) (hexec : exec c s = e)
  (hrun : e = whenRunning s fun s => kRun s t op false (f s))
include hnext hop hexec hrun

/-- A command whose instruction branches to a word of the kernel retires there. -/
theorem retires_of_jump {y : Tile} {pc : Nat} (hpc : pc < k.len) (hjump : f s (getTile s t) k w = .jump y pc) :
    Retires c s t k y 0 pc := by
  obtain ⟨hrunning, hkernel, hending, hlen, rfl, hword⟩ := hnext
  rw [hrun, whenRunning_running hrunning] at hexec
  refine ⟨_, hexec, ?_⟩
  rw [TileBecomes, stepped, Nat.or_zero]
  exact kRun_jump hkernel hword hending hlen hop hjump hpc

/-- A command whose instruction stops ends the kernel with its status. -/
theorem exec_of_stop {st : Status} (hstop : f s (getTile s t) k w = .stop st) : exec c s = .next (endKernel s t st) := by
  obtain ⟨hrunning, hkernel, hending, hlen, rfl, hword⟩ := hnext
  rw [hexec, hrun, whenRunning_running hrunning, kRun_stop hkernel hword hending hlen hop hstop]

variable (hlen : k.pc + 1 < k.len)
include hlen

/-- An instruction that moves bits into the lanes of its mask fills them and raises no flag. -/
theorem fillsLanes_of_laneOp {kind : Nat} {scale : Int} {r : Nat → BitVec 64}
    (hf : f s (getTile s t) k w = laneOp (getTile s t) w kind scale r) : FillsLanes c s t k w kind scale (fun i => (r i, 0)) := by
  rw [FillsLanes, laneFlags_zero]
  exact retires_of_done e hnext hlen hop hexec hrun hf

/-- An I64 operation on registers of its kind fills the lanes of its mask with codes. -/
theorem fillsCodes_of_i64Op {srcs : List Nat} {scale : Int} {r : Nat → Option Int × Nat}
    (hkinds : ∀ v ∈ srcs, (vtag (getTile s t) v).kind = 1) (hf : f s (getTile s t) k w = i64Op (getTile s t) w srcs scale r) :
    FillsCodes c s t k w scale r :=
  retires_of_done e hnext hlen hop hexec hrun (hf.trans (unless_kinds_met hkinds _ _))

end

end Sys2Proof.Machine
end

section
/-! SUPPORT. Scalar instructions, branches, lane moves and I64 arithmetic retire (R138, R140, R142, R147, R148). -/

namespace Sys2Proof.Machine
open Sys2Proof

/-- Settles O16: immediates are sign-extended fields, BNZD branches until its register has counted down, and a load or store
whose access meets no stop answers its register or bytes. -/
theorem scalarInstructionsRetire : Obligations.ScalarInstructionsRetire := by
  refine ⟨fun s t k w hnext => ⟨fun hop hlen => ?_, fun hop hlen => ?_, fun hop hne hpc => ?_, fun hop hone hlen => ?_,
    fun hop hpc => ?_⟩, fun s t k w hnext hlen => ⟨fun hop hread => ?_, fun hop hwrite => ?_⟩⟩
  · rw [← ofInt_fImm48]
    exact retires_of_done (execSli ⟨t, false⟩ s) hnext hlen hop rfl rfl rfl
  · rw [← ofInt_fImm48]
    exact retires_of_done (execSaddi ⟨t, false⟩ s) hnext hlen hop rfl rfl rfl
  · refine retires_of_jump (execBnzd ⟨t, false⟩ s) hnext hop rfl rfl hpc ?_
    have hleft : sreg (getTile s t) (fSD w) - 1 ≠ 0 := mt (sub_one_eq_zero_iff _).1 hne
    simp only [if_pos hleft]
  · refine retires_of_jump (execBnzd ⟨t, false⟩ s) hnext hop rfl rfl hlen ?_
    have hdone : sreg (getTile s t) (fSD w) - 1 = 0 := (sub_one_eq_zero_iff _).2 hone
    simp only [hdone, ne_eq, not_true_eq_false, if_false]
  · exact retires_of_jump (execBr ⟨t, false⟩ s) hnext hop rfl rfl hpc rfl
  · refine retires_of_done (execSld ⟨t, false⟩ s) hnext hlen hop rfl rfl ?_
    simp only [sAddr_one]
    exact if_neg (Classical.not_not.2 hread)
  · refine retires_of_done (execSst ⟨t, false⟩ s) hnext hlen hop rfl rfl ?_
    simp only [sAddr_one]
    exact if_neg (Classical.not_not.2 hwrite)

/-- Settles O17: each of them is a lane operation without flags; VSEL writes every lane and lets its mask choose the source. -/
theorem laneMovesRetire : Obligations.LaneMovesRetire := by
  intro s t k w hnext hlen
  refine ⟨fun hop => ?_, fun hop => ?_, fun hop => ?_, fun hop => ?_, fun hop => ?_, fun hop => ?_, fun hop => ?_, fun hop => ?_,
    fun hop => ?_⟩
  · rw [← sextN_bits w (n := 16) (hi := 31) rfl]
    exact fillsLanes_of_laneOp (execVtag ⟨t, false⟩ s) hnext hop rfl rfl hlen rfl
  · exact fillsLanes_of_laneOp (execViota ⟨t, false⟩ s) hnext hop rfl rfl hlen rfl
  · exact fillsLanes_of_laneOp (execVrot ⟨t, false⟩ s) hnext hop rfl rfl hlen rfl
  · exact fillsLanes_of_laneOp (execVand ⟨t, false⟩ s) hnext hop rfl rfl hlen rfl
  · exact fillsLanes_of_laneOp (execVor ⟨t, false⟩ s) hnext hop rfl rfl hlen rfl
  · exact fillsLanes_of_laneOp (execVxor ⟨t, false⟩ s) hnext hop rfl rfl hlen rfl
  · exact fillsLanes_of_laneOp (execVshl ⟨t, false⟩ s) hnext hop rfl rfl hlen rfl
  · exact fillsLanes_of_laneOp (execVshr ⟨t, false⟩ s) hnext hop rfl rfl hlen rfl
  · exact retires_of_done (execVsel ⟨t, false⟩ s) hnext hlen hop rfl rfl rfl

/-- Settles O18: each operation needs I64 sources and fills lanes of I64 codes; VMUL and VSCL need their scale in range too. -/
theorem integerLanesRetire : Obligations.IntegerLanesRetire := by
  intro s t k w hnext hlen
  refine ⟨fun hs ht => ?_, fun hs => ?_⟩
  · have htwo : ∀ v ∈ [fVS w, fVT w], (vtag (getTile s t) v).kind = 1 :=
        List.forall_mem_cons.2 ⟨hs, List.forall_mem_singleton.2 ht⟩
    refine ⟨fun hop => ?_, fun hop => ?_, fun hop => ?_, fun hop => ?_, fun hop hlow hhigh => ?_⟩
    · exact fillsCodes_of_i64Op (execVadd ⟨t, false⟩ s) hnext hop rfl rfl hlen htwo rfl
    · exact fillsCodes_of_i64Op (execVsub ⟨t, false⟩ s) hnext hop rfl rfl hlen htwo rfl
    · exact fillsCodes_of_i64Op (execVmin ⟨t, false⟩ s) hnext hop rfl rfl hlen htwo rfl
    · exact fillsCodes_of_i64Op (execVmax ⟨t, false⟩ s) hnext hop rfl rfl hlen htwo rfl
    · exact fillsCodes_of_i64Op (execVmul ⟨t, false⟩ s) hnext hop rfl rfl hlen htwo (if_neg (by omega))
  · have hone : ∀ v ∈ [fVS w], (vtag (getTile s t) v).kind = 1 := List.forall_mem_singleton.2 hs
    refine ⟨fun hop => ?_, fun hop => ?_, fun sc hsc hlow hhigh hop => ?_⟩
    · exact fillsCodes_of_i64Op (execVneg ⟨t, false⟩ s) hnext hop rfl rfl hlen hone rfl
    · exact fillsCodes_of_i64Op (execVabs ⟨t, false⟩ s) hnext hop rfl rfl hlen hone rfl
    · subst hsc
      refine fillsCodes_of_i64Op (execVscl ⟨t, false⟩ s) hnext hop rfl rfl hlen hone ?_
      simp only [regScale_in_range hlow hhigh]
      rfl

end Sys2Proof.Machine
end

section
/-! SUPPORT. Comparisons, mask logic, reductions and the accesses of vectors to memory retire (R142-R151, R161). -/

namespace Sys2Proof.Machine
open Sys2Proof

/-- The reads of an element plane and of the scale plane of a block format meet no stop. -/
theorem lowest_reads_none {a b : Status} {block : Bool} (ha : a = 0) (hb : block = true → b = 0) :
    lowest a (if block then b else 0) = 0 := by
  refine lowest_none ha ?_
  split
  · next h => exact hb h
  · rfl

/-- R149: the code, the index and the flags that a search gives for its candidates: NaR and all ones where there is none. -/
def searchFound (mx nar : Bool) : List (Int × Nat) → BitVec 64 × BitVec 64 × Nat
  | [] => (codeLane none, BitVec.allOnes 64, fNar)
  | c :: cs => (codeLane (some (cs.foldl (betterOf mx) c).1), BitVec.ofNat 64 (cs.foldl (betterOf mx) c).2, fl nar fNar)

/-- A search, past its check of the kind, answers what it has found. -/
theorem done_searchFound (x : Tile) (sd : Nat) (mx nar : Bool) (cs : List (Int × Nat)) :
    (match cs with
      | [] => KOut.done (setSreg (setSreg x sd (codeLane none)) (sd + 1) (BitVec.allOnes 64)) fNar 0
      | c :: r => .done (setSreg (setSreg x sd (codeLane (some (r.foldl (betterOf mx) c).1))) (sd + 1)
          (BitVec.ofNat 64 (r.foldl (betterOf mx) c).2)) (fl nar fNar) 0) =
      .done (setSreg (setSreg x sd (searchFound mx nar cs).1) (sd + 1) (searchFound mx nar cs).2.1) (searchFound mx nar cs).2.2 0 := by
  cases cs <;> rfl

/-- Settles O19: a comparison needs its kind and writes its mask under the lanes that are on; a reduction runs over those lanes. -/
theorem masksAndReductionsRetire : Obligations.MasksAndReductionsRetire := by
  refine ⟨fun s t k w hnext hlen => ⟨fun hop hs ht => ?_, fun hop hs ht => ?_, fun hop => ?_⟩,
    fun s t k w hnext hlen => ⟨fun hop => ?_, fun hop hread => ?_, fun mx hop hs => ?_⟩⟩
  · exact retires_of_done (execVcmp ⟨t, false⟩ s) hnext hlen hop rfl rfl
      (unless_kinds_met (List.forall_mem_cons.2 ⟨hs, List.forall_mem_singleton.2 ht⟩) _ _)
  · exact retires_of_done (execFcmp ⟨t, false⟩ s) hnext hlen hop rfl rfl
      (unless_kinds_met (List.forall_mem_cons.2 ⟨hs, List.forall_mem_singleton.2 ht⟩) _ _)
  · exact retires_of_done (execMlog ⟨t, false⟩ s) hnext hlen hop rfl rfl rfl
  · simp only [List.foldl_filter]
    exact retires_of_done (execVmsum ⟨t, false⟩ s) hnext hlen hop rfl rfl rfl
  · exact retires_of_done (execVcrc ⟨t, false⟩ s) hnext hlen hop rfl rfl (if_neg (Classical.not_not.2 hread))
  · intro lanes carried cs nar r
    have hsearch : searchOp (getTile s t) w mx = .done (setSreg (setSreg (getTile s t) (fVD w % 16) r.1) (fVD w % 16 + 1) r.2.1) r.2.2 0 :=
      (unless_kinds_met (List.forall_mem_singleton.2 hs) _ _).trans (done_searchFound (getTile s t) (fVD w % 16) mx nar cs)
    cases mx
    · exact retires_of_done (execVrmin ⟨t, false⟩ s) hnext hlen hop rfl rfl hsearch
    · exact retires_of_done (execVrmax ⟨t, false⟩ s) hnext hlen hop rfl rfl hsearch

/-- Settles O21: with no stop among its accesses, each instruction goes on to its data: the scale of VLD, the bytes of VST and
VCVT, the table of VPOLY. -/
theorem vectorMemoryRetires : Obligations.VectorMemoryRetires := by
  intro s t k w hnext hlen
  refine ⟨fun hop helem hscale sc hsc hrange => ?_, fun d hop hdata helem hscale => ?_, ?_, ?_⟩
  · refine retires_of_done (execVld ⟨t, false⟩ s) hnext hlen hop rfl rfl ?_
    have hstatus := lowest_reads_none helem hscale
    by_cases hfixed : bits w 49 46 = 3 ∨ (isBlock (bits w 49 46) = true ∧ bit w 6 = true)
    · obtain ⟨hlow, hhigh⟩ := hrange hfixed
      rw [if_pos hfixed] at hsc
      subst hsc
      simp only [if_pos hfixed, regScale_in_range hlow hhigh, hstatus]
      rfl
    · rw [if_neg hfixed] at hsc
      subst hsc
      simp only [if_neg hfixed, hstatus]
      rfl
  · refine retires_of_done (execVst t false s) hnext hlen hop rfl rfl ?_
    simp only [hdata, lowest_none helem hscale]
    rfl
  · intro sf df n a b da db sc dc hsc hdc l r hop hsrc hscale helem hblock
    refine retires_of_done (execVcvt t false s) hnext hlen hop rfl rfl ?_
    have hstatus : lowest (lowest (readStop (getTile s t) a (elemBytes sf n)) (if isBlock sf then readStop (getTile s t) b (scaleBytes sf n) else 0))
        (lowest (writeStop k da r.1.length) (writeStop k db r.2.1.length)) = 0 :=
      lowest_none (lowest_reads_none hsrc hscale) (lowest_none helem hblock)
    simp only [sAddr_zero]
    rw [hsc, hdc]
    exact if_neg (Classical.not_not.2 hstatus)
  · intro a hop hhead hgood htab hs
    refine fillsCodes_of_i64Op (execVpoly ⟨t, false⟩ s) hnext hop rfl rfl hlen (List.forall_mem_singleton.2 hs) ?_
    simp only [sAddr_zero]
    rw [if_neg (Classical.not_not.2 hhead), if_neg (by simp [a, hgood]), if_neg (Classical.not_not.2 htab)]

end Sys2Proof.Machine
end

section
/-! SUPPORT. The life of a kernel: launch, end, limit and report, and the faults of its instructions (R133-R140, R158-R160). -/

namespace Sys2Proof.Machine
open Sys2Proof

/-! ### Instructions at fault (R140, R160) -/

section
variable {s : State} {t : TileId} {k : Kernel} (hrun : running s = true) (hkernel : (getTile s t).kernel = some k)
  (hending : k.ending = none) (hlen : k.pc < k.len)
include hrun hkernel hending hlen

/-- KERNEL_END goes by the word at the counter, then by the fault. -/
theorem exec_kernelEnd (fault : Bool) : exec (.kernelEnd t fault) s = .next
    (if bits (kWord (getTile s t) k k.pc) 63 56 ≠ 0x00 then s
      else if fault || kWordBad (getTile s t) k then kernelFault s t k else commitKernel s t k) := by
  change execKernelEnd t fault s = _
  rw [execKernelEnd, whenRunning_running hrun]
  simp [hkernel, hending, Nat.not_le.2 hlen]

omit hrun in
/-- An instruction that is not the one at the counter leaves the state. -/
theorem kRun_other {op : Nat} {fault : Bool} {f : Tile → Kernel → Word → KOut}
    (hop : bits (kWord (getTile s t) k k.pc) 63 56 ≠ op) : kRun s t op fault f = s := by
  unfold kRun
  simp [hkernel, hending, Nat.not_le.2 hlen, hop]

end

/-- The command runs one instruction of the kernel on the tile, with its fault. -/
def RunsWord (t : TileId) (fault : Bool) (e : Nat × Instr) : Prop :=
  ∃ f : State → Tile → Kernel → Word → KOut, ∀ s, exec e.2 s = whenRunning s fun s => kRun s t e.1 fault (f s)

/-- Every kernel instruction after END, the first listed, is one run of its opcode. -/
theorem kernelOps_runsWord (t : TileId) (fault : Bool) : ∀ e ∈ (kernelOps t fault).tail, RunsWord t fault e := by
  simp only [kernelOps, List.cons_append, List.nil_append, List.tail_cons, List.forall_mem_cons, List.not_mem_nil, false_implies,
    implies_true, and_true]
  repeat' apply And.intro
  all_goals exact ⟨_, fun _ => rfl⟩

/-- R160: with a fault, or at an uncorrectable word, an instruction ends the kernel, and only the one at the counter does. -/
theorem exec_kernelOps_fault {s : State} {t : TileId} {k : Kernel} {fault : Bool} (hrun : running s = true)
    (hkernel : (getTile s t).kernel = some k) (hending : k.ending = none) (hlen : k.pc < k.len)
    (hfault : fault = true ∨ kWordBad (getTile s t) k = true) {e : Nat × Instr} (he : e ∈ kernelOps t fault) :
    (bits (kWord (getTile s t) k k.pc) 63 56 = e.1 → exec e.2 s = .next (kernelFault s t k)) ∧
      (bits (kWord (getTile s t) k k.pc) 63 56 ≠ e.1 → exec e.2 s = .next s) := by
  rcases List.mem_cons.1 he with rfl | hrest
  · rw [exec_kernelEnd hrun hkernel hending hlen]
    refine ⟨fun hop => ?_, fun hop => by rw [if_pos hop]⟩
    rw [if_neg (Classical.not_not.2 hop), if_pos (Bool.or_eq_true_iff.2 hfault)]
  · obtain ⟨f, hexec⟩ := kernelOps_runsWord t fault e hrest
    rw [hexec, whenRunning_running hrun]
    exact ⟨fun hop => by rw [kRun_fault hkernel hending hlen hop hfault], fun hop => by rw [kRun_other hkernel hending hlen hop]⟩

/-- Settles O24: a wrong kind, a refused access and an INVALID accumulator stop their instruction; a fault stops any at the counter. -/
theorem kernelInstructionStops : Obligations.KernelInstructionStops := by
  refine ⟨fun s t k w hnext => ⟨fun hop hkind => ?_, fun hop hkind => ?_, fun e hop hread he => ?_, fun e hop hwrite he => ?_,
    fun hop hinvalid => ?_⟩, fun s t k fault hrun hkernel hending hlen hfault e he =>
      exec_kernelOps_fault hrun hkernel hending hlen hfault he⟩
  · exact exec_of_stop (execVadd ⟨t, false⟩ s) hnext hop rfl rfl (unless_kinds_failed List.mem_cons_self hkind _ _)
  · exact exec_of_stop (execFadd ⟨t, false⟩ s) hnext hop rfl rfl (unless_kinds_failed List.mem_cons_self hkind _ _)
  · subst hread
    exact exec_of_stop (execSld ⟨t, false⟩ s) hnext hop rfl rfl (if_pos he)
  · subst hwrite
    exact exec_of_stop (execSst ⟨t, false⟩ s) hnext hop rfl rfl (if_pos he)
  · exact exec_of_stop (execLrnd ⟨t, false⟩ s) hnext hop rfl rfl (if_pos hinvalid)

/-! ### Launch, commit, limit and report (R133, R135, R138-R140) -/

theorem exec_kernelLaunch {s s' : State} {t : TileId} {q : Fin 2} {l : Launch} {ws : List Word} (hnext : NextInstr s t q 0x30 l ws s')
    (hready : kernelReady s' (getTile s' t) q (bits (ws.getD 0 0) 15 0) = true)
    (hgo : q.val = 0 → (getTile s' t).preempted = false) (hopen : tileOpen s' t = true) :
    exec (.kernelLaunch t q) s = .next (launchKernel s' t q l ws) := by
  have hfree : (q.val == 0 && (getTile s' t).preempted) = false := by
    by_cases hq : q.val = 0
    · rw [hgo hq, Bool.and_false]
    · rw [beq_false_of_ne hq, Bool.false_and]
  change execKernelLaunch t q s = _
  rw [execKernelLaunch, whenRunning_running hnext.1, tpIssue_next hnext]
  simp only [issueWhen, hready, hfree, hopen, Bool.not_false, Bool.and_self, if_true]

section
variable {s : State} {t : TileId} (hrun : running s = true)
include hrun

theorem exec_kernelLimit (hvector : isV t = true) : exec (.kernelLimit t) s = .next (endKernel s t stKernelLimit) := by
  change execKernelLimit t s = _
  rw [execKernelLimit, whenRunning_running hrun, if_pos hvector]

theorem exec_kernelAbortReport {k : Kernel} {e : Status} (hkernel : (getTile s t).kernel = some k) (hending : k.ending = some e) :
    exec (.kernelAbortReport t) s = .next
      (unitEnded (setLastFlags (countEnd (setRunning (setTile s t { getTile s t with kernel := none }) t false) t k.seq e false) t 0)
        t k.q 2 k.seq { status := e }) := by
  change execKernelAbortReport t s = _
  rw [execKernelAbortReport, whenRunning_running hrun]
  simp only [hkernel, hending]

/-- With no kernel running, the oldest held access of kernel memory is served by its opcode (R133, R304). -/
theorem exec_kernelMemoryApply {p : Packet} {r : List Packet} (hkernel : (getTile s t).kernel = none)
    (hheld : (getTile s t).heldKm = p :: r) :
    let s1 := setTile s t { getTile s t with heldKm := r }
    let a := p.addr.toNat % 0x800000
    exec (.kernelMemoryApply t) s = .next
      (if p.op = 0x02 then sendPkt (windowWrite s1 t a p.data p.poison.toNat).2 (response p (windowWrite s1 t a p.data p.poison.toNat).1 [] 0)
        else if p.op = 0x01 then
          sendPkt s1 (response p (windowRead s1 t a p.len).1 (windowRead s1 t a p.len).2.1 (windowRead s1 t a p.len).2.2)
        else streamResponseAt s1 p) := by
  change execKernelMemoryApply t s = _
  rw [execKernelMemoryApply, whenRunning_running hrun]
  simp only [hheld, hkernel, Option.isSome_none, Bool.false_eq_true, if_false]

end

/-- R139, R158: an early end marks the kernel's destinations, keeps its status for the report and marks the accumulators of its LAMASK. -/
theorem endKernel_running {s : State} {t : TileId} {k : Kernel} (hkernel : (getTile s t).kernel = some k) (hending : k.ending = none)
    (e : Status) : endKernel s t e =
      setFld (setTile s t { markGran (getTile s t) (kernelDest (getTile s t) k) with kernel := some { k with ending := some e } })
        (stAt t) 55 48 (fld s (stAt t) 55 48 ||| k.lamask) := by
  simp only [endKernel, hkernel, hending, Option.isSome_none, Bool.false_eq_true, if_false]
  rfl

/-- Settles O23: each event of a kernel's life by the kernel that runs and the ending that it has. -/
theorem kernelLifeCompletes : Obligations.KernelLifeCompletes := by
  intro s t k hrun x
  refine ⟨fun q l ws s' hnext hready hgo hopen => exec_kernelLaunch hnext hready hgo hopen, fun hnext hop => ?_,
    fun hkernel hending hvector => ?_, fun e hkernel hending => exec_kernelAbortReport hrun hkernel hending,
    fun p r hkernel hheld => ?_⟩
  · obtain ⟨-, hkernel, hending, hlen, -, hword⟩ := hnext
    have hend (fault : Bool) := exec_kernelEnd hrun hkernel hending hlen fault
    have hat : ¬bits (kWord (getTile s t) k k.pc) 63 56 ≠ 0x00 := Classical.not_not.2 hop
    simp only [hend, if_neg hat, hword, Bool.or_false, Bool.false_eq_true, if_false, if_true, and_self]
  · rw [exec_kernelLimit hrun hvector, endKernel_running hkernel hending]
    refine ⟨_, rfl, ?_, fun v hv => ?_, rfl, ?_, fun hi lo hout => ?_, fun a ha => ?_⟩
    · rw [getTile_setFld, getTile_setTile_same]
    · rw [getTile_setFld, getTile_setTile_ne _ _ hv]
    · exact fld_setFld_same _ _ _ (by decide) (by decide)
    · exact fld_setFld_ne _ _ _ hout
    · exact rd_wr_ne _ _ ha
  · refine ⟨fun hwrite => ?_, fun hread => ?_⟩
    · rw [exec_kernelMemoryApply hrun hkernel hheld, if_pos hwrite]
    · rw [exec_kernelMemoryApply hrun hkernel hheld, if_neg (by rw [hread]; decide), if_pos hread]

end Sys2Proof.Machine
end

section
/-! SUPPORT. Instructions of stream programs: what each leaves of its stream (R174-R177, R187). -/

namespace Sys2Proof.Machine
open Sys2Proof

section
variable {s : State} {t : TileId} {c : Fin 16} {st : Stream} {w : Word}

/-! ### The word at the counter (R174) -/

theorem seInstr_next {op : Nat} (h : NextStreamWord s t c op st w) (f : State → Stream → Word → State) :
    seInstr s t c op f = f s st w := by
  obtain ⟨-, hstream, hrunning, hended, hword, hop⟩ := h
  simp only [seInstr, hstream, hrunning, hended, hword, hop, Bool.not_true, Bool.or_false, Bool.false_eq_true, if_false, if_true]

/-- A command that runs the stream instruction of an opcode does so when the word at the counter has it. -/
theorem exec_streamWord {i : Instr} {op : Nat} {f : State → Stream → Word → State} (h : NextStreamWord s t c op st w)
    (hexec : exec i s = whenRunning s fun s => seInstr s t c op f) : exec i s = .next (f s st w) := by
  rw [hexec, whenRunning_running h.1, seInstr_next h]

/-! ### NEXT (R174) -/

theorem exec_seNext {lv : Loop} {r : List Loop} (h : NextStreamWord s t c 0x09 st w) (hloops : st.loops = lv :: r) :
    let next := setA st lv.areg (addT (aOf st lv.areg) (st.treg.getD lv.treg 0))
    exec (.seNext t c) s = .next (if lv.left = 0 then putStream s t c (nextPc { next with loops := r })
      else putStream s t c { next with loops := { lv with left := lv.left - 1 } :: r, pc := lv.body }) := by
  rw [exec_streamWord h rfl]
  simp only [hloops]

/-! ### Instructions that wait for the moves before them (R174, R176, R177) -/

theorem exec_move (h : NextStreamWord s t c 0x10 st w) (hmoves : st.moves = []) :
    let i := bits w 55 53
    let n := bits w 52 41 + 1
    let st1 := { st with moves := [{ addr := aOf st i, fab := fabOf st i, pos := st.pos, left := n }], pos := st.pos + n }
    exec (.move t c) s = .next (putStream s t c (nextPc (if bit w 40 then setA st1 i (aOf st i + n) else st1))) := by
  rw [exec_streamWord h rfl, hmoves]
  rfl

theorem exec_flush (h : NextStreamWord s t c 0x20 st w) (hmoves : st.moves = []) (hring : ringBusy (getTile s t) st = false) :
    exec (.flush t c) s = .next (flushStream s t c (nextPc st) st.pos) := by
  rw [exec_streamWord h rfl, if_neg (by simp [hmoves, hring])]

theorem exec_streamFence (h : NextStreamWord s t c 0x21 st w) (hmoves : st.moves = []) (hdone : st.outst = 0) :
    exec (.streamFence t c) s = .next (putStream s t c (nextPc st)) := by
  rw [exec_streamWord h rfl, if_neg (by simp [hmoves, hdone])]

/-- The program of a queue stream is its END alone, which closes no buffer (R173, R185). -/
theorem exec_streamEnd_queue (h : NextStreamWord s t c 0x3F st w) (hkind : 2 ≤ st.kind) :
    exec (.streamEnd t c) s = .next (putStream s t c { st with ended := true }) := by
  rw [exec_streamWord h rfl, if_pos hkind]

theorem exec_streamEnd_memory (h : NextStreamWord s t c 0x3F st w) (hkind : st.kind < 2) (hmoves : st.moves = [])
    (hring : ringBusy (getTile s t) st = false) :
    exec (.streamEnd t c) s = .next (tryCommit (flushStream s t c { st with ended := true } st.pos) t c) := by
  rw [exec_streamWord h rfl, if_neg (Nat.not_le.2 hkind), if_neg (by simp [hmoves, hring])]

/-! ### GATHER (R177) -/

/-- Where in the window the next index of a GATHER word lies. -/
def indexAt (st : Stream) (w : Word) : Nat := (aOf st (bits w 52 50) + st.gk * indexWidth (bits w 49 48)) % 2 ^ 64

/-- The move of the element that the next index of a GATHER word names. -/
def gatherMove (x : Tile) (st : Stream) (w : Word) : Move :=
  let a := indexAt st w
  let k := indexWidth (bits w 49 48)
  { addr := codeN 64 ((aOf st (bits w 55 53) : Int) + shl (indexValue (bits w 49 48) (numAt (memByte x.mem) a k)) (bits w 47 44))
    fab := fabOf st (bits w 55 53)
    pos := st.pos
    left := bits w 43 32 + 1
    skip := anyPoison x.mem a k || anyAccUe x a k }

/-- The stream that has taken one element of a GATHER word; after the last its index register has stepped over the indices. -/
def gathered (x : Tile) (st : Stream) (w : Word) : Stream :=
  let st1 := { st with moves := [gatherMove x st w], pos := st.pos + (bits w 43 32 + 1), gk := st.gk + 1 }
  let n := bits w 31 8 + 1
  if st1.gk = n then nextPc { setA st1 (bits w 52 50) (aOf st (bits w 52 50) + n * indexWidth (bits w 49 48)) with gk := 0 } else st1

/-- A GATHER word goes by what its next index meets: the window's end, an INVALID mark, or a buffer that is not a FULL one of another
stream. -/
theorem exec_gather (h : NextStreamWord s t c 0x11 st w) (hmoves : st.moves = []) :
    let a := indexAt st w
    let k := indexWidth (bits w 49 48)
    let x := getTile s t
    exec (.gather t c) s = .next (
      if !inWindow (isV t) a k then cancelStream s t c stNocUnmapped
      else if anyInvalid x a k || invalidSet s t a k then cancelStream s t c stInvalidDest
      else if (bufsOver x a k).any (fun b => b.ctx == c.val || !isIn b.st || b.buf.state != 2) then s
      else putStream s t c (gathered x st w)) := by
  rw [exec_streamWord h rfl, hmoves]
  rfl

section
variable (h : NextStreamWord s t c 0x11 st w) (hmoves : st.moves = [])
include h hmoves

theorem exec_gather_unmapped (hout : inWindow (isV t) (indexAt st w) (indexWidth (bits w 49 48)) = false) :
    exec (.gather t c) s = .next (cancelStream s t c stNocUnmapped) := by
  rw [exec_gather h hmoves, if_pos (by rw [hout]; rfl)]

variable (hin : inWindow (isV t) (indexAt st w) (indexWidth (bits w 49 48)) = true)
include hin

theorem exec_gather_invalid (hmarked : anyInvalid (getTile s t) (indexAt st w) (indexWidth (bits w 49 48)) = true ∨
      invalidSet s t (indexAt st w) (indexWidth (bits w 49 48)) = true) :
    exec (.gather t c) s = .next (cancelStream s t c stInvalidDest) := by
  rw [exec_gather h hmoves, if_neg (by rw [hin]; decide), if_pos (Bool.or_eq_true_iff.2 hmarked)]

theorem exec_gather_element (hvalid : anyInvalid (getTile s t) (indexAt st w) (indexWidth (bits w 49 48)) = false)
    (hset : invalidSet s t (indexAt st w) (indexWidth (bits w 49 48)) = false)
    (hbufs : ∀ b ∈ bufsOver (getTile s t) (indexAt st w) (indexWidth (bits w 49 48)), b.ctx ≠ c.val ∧ isIn b.st = true ∧ b.buf.state = 2) :
    exec (.gather t c) s = .next (putStream s t c (gathered (getTile s t) st w)) := by
  have hfull : ∀ b ∈ bufsOver (getTile s t) (indexAt st w) (indexWidth (bits w 49 48)),
      ¬(b.ctx == c.val || !isIn b.st || b.buf.state != 2) = true := fun b hb => by
    obtain ⟨hctx, hisin, hstate⟩ := hbufs b hb
    simp [hctx, hisin, hstate]
  rw [exec_gather h hmoves, if_neg (by rw [hin]; decide), if_neg (by rw [hvalid, hset]; decide),
    if_neg (Bool.eq_false_iff.1 (List.any_eq_false.2 hfull))]

end

theorem gathered_more {x : Tile} (h : bits w 31 8 ≠ st.gk) : gathered x st w =
    { st with moves := [gatherMove x st w], pos := st.pos + (bits w 43 32 + 1), gk := st.gk + 1 } :=
  if_neg fun heq => h (Nat.succ.inj heq).symm

theorem gathered_last {x : Tile} (h : bits w 31 8 = st.gk) : gathered x st w =
    nextPc { setA st (bits w 52 50) (aOf st (bits w 52 50) + (bits w 31 8 + 1) * indexWidth (bits w 49 48)) with
      moves := [gatherMove x st w], pos := st.pos + (bits w 43 32 + 1), gk := 0 } :=
  if_pos (congrArg Nat.succ h.symm)

end

/-- Settles O30: each instruction by the word at the stream's counter, once what it waits for holds. -/
theorem streamProgramInstructions : Obligations.StreamProgramInstructions := by
  refine fun s t c st w => ⟨fun h => (exec_streamWord h rfl).trans rfl, fun h => (exec_streamWord h rfl).trans rfl,
    fun h => (exec_streamWord h rfl).trans rfl, fun h => (exec_streamWord h rfl).trans rfl,
    fun h => (exec_streamWord h rfl).trans rfl, fun lv r h hloops => ⟨fun hlast => ?_, fun hmore => ?_⟩,
    fun h hmoves hplain => ?_, fun h hmoves hinc => ?_, exec_flush, exec_streamFence, exec_streamEnd_queue, exec_streamEnd_memory,
    fun h hmoves => ⟨exec_gather_unmapped h hmoves, exec_gather_invalid h hmoves,
      fun hin hvalid hset hbufs => ⟨fun hmore => ?_, fun hlast => ?_⟩⟩⟩
  · rw [exec_seNext h hloops, if_pos hlast]
    rfl
  · rw [exec_seNext h hloops, if_neg hmore]
    rfl
  · rw [exec_move h hmoves, if_neg (by simp [hplain])]
    rfl
  · rw [exec_move h hmoves, if_pos hinc]
    rfl
  · rw [exec_gather_element h hmoves hin hvalid hset hbufs, gathered_more hmore]
    rfl
  · rw [exec_gather_element h hmoves hin hvalid hset hbufs, gathered_last hlast]
    rfl

end Sys2Proof.Machine
end

section
/-! SUPPORT. Stream engines: requests that leave, responses, cancellations, cleared marks and the progress monitor (R171-R195). -/

namespace Sys2Proof.Machine
open Sys2Proof

/-! ### Responses (R133, R311) -/

section
variable {s : State} {p : Packet} {u : StreamUse} (huse : (getTag s p.dest.toNat p.tag.toNat).use = some (.stream u))
include huse

theorem streamResponseAt_stale (hgen : (getTag s p.dest.toNat p.tag.toNat).gen ≠ p.gen) : streamResponseAt s p = takePkt s p := by
  simp only [streamResponseAt, huse, if_pos hgen]

variable (hgen : (getTag s p.dest.toNat p.tag.toNat).gen = p.gen)
include hgen

theorem streamResponseAt_held (hheld : responseHeld s p (.stream u) = true) :
    streamResponseAt s p = modTile (takePkt s p) u.t (fun x => { x with heldKm := x.heldKm ++ [p] }) := by
  simp only [streamResponseAt, huse, useTile, if_neg (Classical.not_not.2 hgen), if_pos hheld]

theorem streamResponseAt_delivered (hfree : responseHeld s p (.stream u) = false) :
    streamResponseAt s p = streamAnswered (freeTag (takePkt s p) p.dest.toNat p.tag.toNat) p (.stream u) := by
  simp only [streamResponseAt, huse, if_neg (Classical.not_not.2 hgen), if_neg (Bool.eq_false_iff.1 hfree)]

end

/-! ### The progress monitor (R194, R195) -/

/-- The stream of a stall candidate has noted progress now. -/
def candidateRestarted (s : State) (e : TileId × Nat × Stream) : State :=
  match getStream (getTile s e.1) e.2.1 with
  | some st => putStream s e.1 e.2.1 (progress s e.1 st)
  | none => s

/-! ### The commands -/

section
variable {s : State} {t : TileId} (hrun : running s = true)
include hrun

theorem exec_streamRequestIssue {c : Nat} {st : Stream} {r : SReq} (hchoice : chooseStream s t = some (c, st, r)) :
    exec (.streamRequestIssue t) s = .next (if r.skip then skipPiece s t c st r else sendReq s t c st r) := by
  change execStreamRequestIssue t s = _
  rw [execStreamRequestIssue, whenRunning_running hrun]
  simp only [hchoice]

theorem exec_streamResponse {p : Packet} {u : StreamUse} (huse : (getTag s p.dest.toNat p.tag.toNat).use = some (.stream u)) :
    exec (.streamResponse p) s = .next (streamResponseAt s p) := by
  change execStreamResponse p s = _
  rw [execStreamResponse, whenRunning_running hrun]
  simp only [huse]

theorem exec_seCancel (v : Word) : exec (.seCancel t v) s = .next (cancelCtx s t (bits v 35 32) (bits v 31 0)) := by
  change execSeCancel t v s = _
  rw [execSeCancel, whenRunning_running hrun, writeSeCancel]

theorem exec_streamCancelReport {c : Fin 16} {st : Stream} {e : Status} (hstream : getStream (getTile s t) c = some st)
    (hending : st.ending = some e) (hback : st.outst = 0) (hsent : st.endOwed = false) :
    exec (.streamCancelReport t c) s = .next (unitEnded (dropStream (setFld s (seStatAt t c) 20 13 e) t c st) t st.q 3 st.seq
      { status := e, bytes := st.bytes, poisoned := st.poisoned }) := by
  change execStreamCancelReport t c s = _
  rw [execStreamCancelReport, whenRunning_running hrun]
  simp only [hstream, hending, hback, hsent, ne_eq, not_true, decide_false, Bool.or_false, Bool.false_eq_true, if_false]

theorem exec_seClear {v : Word} (hsome : bits v 28 11 ≠ 0) (hmax : bits v 28 11 ≤ 131072) :
    exec (.seClear t v) s = .next (setTile s t (clearRange (getTile s t) (bits v 45 29) (bits v 28 11))) := by
  have hcount : ¬(bits v 28 11 = 0 ∨ 131072 < bits v 28 11) := by omega
  change execSeClear t v s = _
  rw [execSeClear, whenRunning_running hrun, writeSeClear, if_neg hcount, modTile_eq]

theorem exec_stall {d : Fin 4} {v : TileId} {c : Nat} {st : Stream} (hvictim : stallVictim (stallCandidates s d) = some (v, c, st)) :
    exec (.stall d) s = .next
      (incFld (cancelStream ((stallCandidates s d).foldl candidateRestarted s) v c stStall) (csrAt d 0x380010) 31 0) := by
  change execStall d s = _
  rw [execStall, whenRunning_running hrun]
  simp only [hvictim]
  rfl

end

/-- Settles O31: requests and their responses, cancellations and their reports, cleared marks, and the monitor's victim. -/
theorem streamEngineCompletes : Obligations.StreamEngineCompletes := by
  refine fun s t hrun => ⟨fun c st r hchoice hsent => ?_, fun c st r hchoice hskip => ?_,
    fun p u huse => ⟨fun hgen => ?_, fun hgen hheld => ?_, fun hgen hfree => ?_⟩, exec_seCancel hrun,
    fun c st e => exec_streamCancelReport hrun, fun v hsome hmax => ⟨_, exec_seClear hrun hsome hmax, setTile_becomes s t _⟩,
    fun d v c st hvictim => exec_stall hrun hvictim⟩
  · rw [exec_streamRequestIssue hrun hchoice, if_neg (Bool.eq_false_iff.1 hsent)]
  · rw [exec_streamRequestIssue hrun hchoice, if_pos hskip]
  · rw [exec_streamResponse hrun huse, streamResponseAt_stale huse hgen]
  · rw [exec_streamResponse hrun huse, streamResponseAt_held huse hgen hheld]
  · rw [exec_streamResponse hrun huse, streamResponseAt_delivered huse hgen hfree]

end Sys2Proof.Machine
end

section
/-! SUPPORT. What the fence of an endpoint makes of a packet for it, and what has no response there (R313). -/

namespace Sys2Proof.Machine
open Sys2Proof

section
variable {s : State} {p : Packet}

/-- A packet that is still on its way leaves the state. -/
theorem throughFence_waiting (harr : arrived s p = false) (f : State → State) : throughFence s p f = s := by
  rw [throughFence, if_pos (by rw [harr]; rfl)]

theorem throughFence_refused (harr : arrived s p = true) (hreq : isRequest p = true) (hfence : destFence s p ≠ 0) (f : State → State) :
    throughFence s p f = answer s p stNocFenced := by
  rw [throughFence, if_neg (by rw [harr]; decide), if_pos (by simp [hreq, hfence])]

theorem throughFence_dropped (harr : arrived s p = true) (hone : isRequest p = false) (hfence : destFence s p = 2) (f : State → State) :
    throughFence s p f = takePkt s p := by
  rw [throughFence, if_neg (by rw [harr]; decide), if_neg (by simp [hone]), if_pos hfence]

/-- What is no request passes the fence of an endpoint that is still fencing. -/
theorem throughFence_passed (harr : arrived s p = true) (hone : isRequest p = false) (hfence : destFence s p ≠ 2) (f : State → State) :
    throughFence s p f = f s := by
  rw [throughFence, if_neg (by rw [harr]; decide), if_neg (by simp [hone]), if_neg hfence]

end

end Sys2Proof.Machine
end

section
/-! SUPPORT. HBM requests: accepted at their port, admitted to their pseudo-channel, and served in a command slot (R323-R328, R332). -/

namespace Sys2Proof.Machine
open Sys2Proof

/-! ### Acceptance (R323) -/

section
variable {s : State} {p : Packet}

theorem hbmQueue_room (hroom : (portQueue s (hbmDie s (offsetOf p)) (hbmPortEp s.part (hbmJ s (offsetOf p)))).length < 256) :
    let d := hbmDie s (offsetOf p)
    let ep := hbmPortEp s.part (hbmJ s (offsetOf p))
    hbmQueue s p = takePkt (setPortQueue s d ep (portQueue s d ep ++ [{ p, ts := nowNs s d }])) p :=
  if_neg (Nat.not_le.2 hroom)

theorem hbmQueue_full (hfull : 256 ≤ (portQueue s (hbmDie s (offsetOf p)) (hbmPortEp s.part (hbmJ s (offsetOf p)))).length) :
    hbmQueue s p = s :=
  if_pos hfull

variable (hrun : running s = true)
include hrun

theorem exec_hbmAccept_other (hother : isHbmReq s p = false) : exec (.hbmAccept p) s = .next s := by
  change execHbmAccept p s = _
  rw [execHbmAccept, whenRunning_running hrun, if_neg (Bool.eq_false_iff.1 hother)]

theorem exec_hbmAccept (hreq : isHbmReq s p = true) : exec (.hbmAccept p) s = .next
    (throughFence s p fun s => if hbmScreen s p ≠ 0 then answer s p (hbmScreen s p) else hbmQueue s p) := by
  change execHbmAccept p s = _
  rw [execHbmAccept, whenRunning_running hrun, if_pos hreq]

end

/-! ### Admission (R323, R325, R328) -/

/-- The requests of a port that are for a pseudo-channel and that no earlier one of them overlaps. -/
def admissible (s : State) (d : Fin 4) (ch : Fin 48) (pc : Fin 2) : List HReq :=
  unblocked [] ((portQueue s d (hbmPortEp s.part ch)).filter fun r => hbmJ s (offsetOf r.p) == ch && hbmPc s (offsetOf r.p) == pc)

section
variable {s : State} {d : Fin 4} {ch : Fin 48} {pc : Fin 2} (hrun : running s = true)
include hrun

theorem exec_hbmAdmit_waits (hwait : 64 ≤ (getPc s d ch pc).queue.length ∨ chZeroing s d ch = true ∨
      admitChoice s d (admissible s d ch pc) = none) : exec (.hbmAdmit d ch pc) s = .next s := by
  change execHbmAdmit d ch pc s = _
  rw [execHbmAdmit, whenRunning_running hrun]
  by_cases hstays : (64 ≤ (getPc s d ch pc).queue.length || chZeroing s d ch) = true
  · simp only [if_pos hstays]
  · have hnone : admitChoice s d (admissible s d ch pc) = none := by
      simp only [Bool.or_eq_true, decide_eq_true_eq, not_or] at hstays
      obtain ⟨hroom, hzero⟩ := hstays
      exact (hwait.resolve_left hroom).resolve_left hzero
    rw [admissible] at hnone
    simp only [if_neg hstays, hnone]

theorem exec_hbmAdmit {r : HReq} (hroom : (getPc s d ch pc).queue.length < 64) (hzero : chZeroing s d ch = false)
    (hchoice : admitChoice s d (admissible s d ch pc) = some r) :
    let ep := hbmPortEp s.part ch
    let s0 := setPortQueue s d ep ((portQueue s d ep).erase r)
    let s1 := setPc s0 d ch pc { getPc s d ch pc with queue := (getPc s d ch pc).queue ++ [r] }
    exec (.hbmAdmit d ch pc) s = .next
      (if hbmScreen s0 r.p ≠ 0 then answer s0 r.p (hbmScreen s0 r.p) else if r.p.op = 0x02 then ackWrite s1 r.p else s1) := by
  have hserves : ¬(64 ≤ (getPc s d ch pc).queue.length || chZeroing s d ch) = true := by simp [hroom, hzero]
  rw [admissible] at hchoice
  change execHbmAdmit d ch pc s = _
  rw [execHbmAdmit, whenRunning_running hrun]
  simp only [if_neg hserves, hchoice]

/-! ### Service (R324-R326, R328, R332, R337) -/

theorem exec_hbmCommandSlot_waits (hwait : (getPc s d ch pc).queue = [] ∨ chZeroing s d ch = true ∨
      refreshFirst s d ch (getPc s d ch pc) = true ∨ slotChoice s d (getPc s d ch pc) = none) (errs : List (Nat × Ecc)) :
    exec (.hbmCommandSlot d ch pc errs) s = .next s := by
  change execHbmCommandSlot d ch pc errs s = _
  rw [execHbmCommandSlot, whenRunning_running hrun]
  by_cases hstays : ((getPc s d ch pc).queue.isEmpty || chZeroing s d ch || refreshFirst s d ch (getPc s d ch pc)) = true
  · simp only [if_pos hstays]
  · have hnone : slotChoice s d (getPc s d ch pc) = none := by
      simp only [Bool.or_eq_true, List.isEmpty_iff, not_or] at hstays
      obtain ⟨⟨hsome, hzero⟩, hrefresh⟩ := hstays
      exact ((hwait.resolve_left hsome).resolve_left hzero).resolve_left hrefresh
    simp only [if_neg hstays, hnone]

theorem exec_hbmCommandSlot {r : HReq} (hsome : (getPc s d ch pc).queue ≠ []) (hzero : chZeroing s d ch = false)
    (hrefresh : refreshFirst s d ch (getPc s d ch pc) = false) (hchoice : slotChoice s d (getPc s d ch pc) = some r)
    (errs : List (Nat × Ecc)) :
    let s1 := upsetBursts (setPc s d ch pc { getPc s d ch pc with queue := (getPc s d ch pc).queue.erase r }) (offsetOf r.p)
      (pktLen r.p) errs
    exec (.hbmCommandSlot d ch pc errs) s = .next
      (if r.p.op = 0x02 then hbmStore s1 r.p none else if chTrained s1 d ch then readAnswer s1 r.p else answer s1 r.p stNocFenced) := by
  have hserves : ¬((getPc s d ch pc).queue.isEmpty || chZeroing s d ch || refreshFirst s d ch (getPc s d ch pc)) = true := by
    simp [hsome, hzero, hrefresh]
  change execHbmCommandSlot d ch pc errs s = _
  rw [execHbmCommandSlot, whenRunning_running hrun]
  simp only [if_neg hserves, hchoice]

end

/-- Settles O41: a request by its screen and its port's room, then by the rules of admission and of a command slot. -/
theorem hbmRequestsComplete : Obligations.HbmRequestsComplete := by
  refine fun s d ch pc hrun => ⟨fun p hnot => ?_, fun p hreq harr hrequest hfence => ?_, fun p hreq harr hopen => ?_,
    ⟨exec_hbmAdmit_waits hrun, fun r hroom hzero hchoice => ?_⟩,
    ⟨fun errs hwait => exec_hbmCommandSlot_waits hrun hwait errs, fun r errs hsome hzero hrefresh hchoice => ?_⟩⟩
  · rcases Bool.eq_false_or_eq_true (isHbmReq s p) with hreq | hother
    · rw [exec_hbmAccept hrun hreq, throughFence_waiting (hnot.resolve_left (by simp [hreq]))]
    · exact exec_hbmAccept_other hrun hother
  · rw [exec_hbmAccept hrun hreq, throughFence_refused harr hrequest hfence]
  · have htaken := (exec_hbmAccept hrun hreq).trans (congrArg _ (throughFence_open harr hopen _))
    refine ⟨fun hbad => ?_, fun hok hroom => ?_, fun hok hfull => ?_⟩
    · rw [htaken, if_pos hbad]
    · rw [htaken, if_neg (Classical.not_not.2 hok), hbmQueue_room hroom]
    · rw [htaken, if_neg (Classical.not_not.2 hok), hbmQueue_full hfull]
  · refine ⟨fun hbad => ?_, fun hok hwrite => ?_, fun hok hread => ?_⟩
    · rw [exec_hbmAdmit hrun hroom hzero hchoice, if_pos hbad]
    · rw [exec_hbmAdmit hrun hroom hzero hchoice, if_neg (Classical.not_not.2 hok), if_pos hwrite]
    · rw [exec_hbmAdmit hrun hroom hzero hchoice, if_neg (Classical.not_not.2 hok), if_neg hread]
  · refine ⟨fun hwrite => ?_, fun hread hup => ?_, fun hread hdown => ?_⟩
    · rw [exec_hbmCommandSlot hrun hsome hzero hrefresh hchoice, if_pos hwrite]
    · rw [exec_hbmCommandSlot hrun hsome hzero hrefresh hchoice, if_neg hread, if_pos hup]
    · rw [exec_hbmCommandSlot hrun hsome hzero hrefresh hchoice, if_neg hread, if_neg (Bool.eq_false_iff.1 hdown)]

end Sys2Proof.Machine
end

section
/-! SUPPORT. The stream instructions of tile programs: start, wait, release, mark and cancel (R166-R173, R191, R192, R199, R210, R213). -/

namespace Sys2Proof.Machine
open Sys2Proof

/-! ### Cancellation by context and sequence number (R191) -/

section
variable {s : State} {t : TileId} {c : Nat} {st : Stream} (hstream : getStream (getTile s t) c = some st)
include hstream

theorem cancelBySeq_running (hrunning : isRunning st = true) : cancelBySeq s t c st.seq = (stAborted, cancelStream s t c stAborted) := by
  obtain ⟨hending, hcommitted⟩ : st.ending = none ∧ st.committed = false := by simpa [isRunning] using hrunning
  simp [cancelBySeq, hstream, hending, hcommitted]

theorem cancelBySeq_committed (hending : st.ending = none) (hcommitted : st.committed = true) :
    cancelBySeq s t c st.seq = (stAlready, s) := by
  simp [cancelBySeq, hstream, hending, hcommitted]

theorem cancelBySeq_ending {e : Status} (hending : st.ending = some e) : cancelBySeq s t c st.seq = (e, s) := by
  simp [cancelBySeq, hstream, hending]

end

/-- The most recent stream of an idle context answers its outcome; a context that has had none answers INVALID_DEST. -/
theorem cancelBySeq_idle {s : State} {t : TileId} {c : Nat} (hidle : getStream (getTile s t) c = none) :
    cancelBySeq s t c (fld s (seStatAt t c) 63 32) =
      (if mget false (getTile s t).ctxUsed c then endedReply (fld s (seStatAt t c) 20 13) else stInvalidDest, s) := by
  cases hused : mget false (getTile s t).ctxUsed c <;> simp [cancelBySeq, hidle, hused]

/-! ### Instructions that issue (R209-R211) -/

theorem issueWhen_met {b : Bool} (h : b = true) (s : State) (t : TileId) (q : Nat) (f : State → State) : issueWhen b s t q f = f s :=
  if_pos h

section
variable {s s' : State} {t : TileId} {q : Fin 2} {l : Launch} {ws : List Word}

/-- A command that issues the instruction of an opcode does so when the next instruction has it. -/
theorem exec_nextInstr {i : Instr} {op : Nat} {f : State → Launch → List Word → State} (h : NextInstr s t q op l ws s')
    (hexec : exec i s = whenRunning s fun s => tpIssue s t q op f) : exec i s = .next (f s' l ws) := by
  rw [hexec, whenRunning_running h.1, tpIssue_next h]

/-! ### SSTART (R166, R172, R173) -/

theorem exec_sstart_illegal (h : NextInstr s t q 0x10 l ws s')
    (hparse : parseStream (getTile s' t) (isV t) q l.pc (bits (ws.getD 0 0) 19 0 * 8) = none) :
    exec (.sstart t q) s = .next (advance (refuseStream s' t q (bits (ws.getD 0 0) 55 52) l.pc) t q 1) := by
  rw [exec_nextInstr h rfl]
  simp only [hparse]

/-- A legal start is refused when its context has a stream, too few entries are free, or its ring is taken. -/
theorem exec_sstart_legal {st : Stream} (h : NextInstr s t q 0x10 l ws s')
    (hparse : parseStream (getTile s' t) (isV t) q l.pc (bits (ws.getD 0 0) 19 0 * 8) = some st) :
    let c := bits (ws.getD 0 0) 55 52
    let x := getTile s' t
    exec (.sstart t q) s = .next (advance
      (if (getStream x c).isSome || (freeList x).length < st.nbuf || ringTaken x st.base (st.nbuf * st.bufsz)
        then refuseStream s' t q c l.pc else startStream s' t c st) t q 1) := by
  rw [exec_nextInstr h rfl]
  simp only [hparse]

/-! ### SWAIT, SREL and SWRT (R168, R170) -/

theorem exec_swait (h : NextInstr s t q 0x11 l ws s')
    (hover : getStream (getTile s' t) (bits (ws.getD 0 0) 55 52) = none ∨ (bit (ws.getD 0 0) 48 = false ∧
      ∃ st, getStream (getTile s' t) (bits (ws.getD 0 0) 55 52) = some st ∧ st.committed = true)) :
    exec (.swait t q) s = .next (advance s' t q 1) := by
  rw [exec_nextInstr h rfl]
  refine congrArg _ (issueWhen_met ?_ ..)
  rcases hover with hidle | ⟨hkeep, st, hstream, hcommitted⟩
  · simp only [hidle]
  · simp only [hstream, hkeep, hcommitted, Bool.not_false, Bool.and_self]

theorem exec_srel {ps : List Nat} (h : NextInstr s t q 0x12 l ws s')
    (hps : srelTargets (getTile s' t) (bits (ws.getD 0 0) 55 52) (bits (ws.getD 0 0) 15 0) = some ps) :
    exec (.srel t q) s = .next (advance (releaseBufs s' t (bits (ws.getD 0 0) 55 52) ps) t q 1) := by
  rw [exec_nextInstr h rfl]
  simp only [hps]
  exact congrArg _ (issueWhen_met rfl ..)

theorem exec_swrt {ps : List Nat} (h : NextInstr s t q 0x13 l ws s')
    (hps : swrtTargets s' t (getTile s' t) (bits (ws.getD 0 0) 55 52) (bits (ws.getD 0 0) 15 0) = some ps) :
    exec (.swrt t q) s = .next (advance (markWritten s' t (bits (ws.getD 0 0) 55 52) ps) t q 1) := by
  rw [exec_nextInstr h rfl]
  simp only [hps]
  exact congrArg _ (issueWhen_met rfl ..)

/-! ### SCAN (R191, R199, R213) -/

/-- With a running stream, SCAN keeps it from the program's fold and cancels it. -/
theorem exec_scan_running {st : Stream} (h : NextInstr s t q 0x14 l ws s')
    (hstream : getStream (getTile s' t) (bits (ws.getD 0 0) 55 52) = some st) (hrunning : isRunning st = true) :
    let c := bits (ws.getD 0 0) 55 52
    let seq := fld s' (seStatAt t c) 63 32
    exec (.scan t q) s = .next (advance (cancelCtx (noFold s' t q 3 seq) t c seq) t q 1) := by
  rw [exec_nextInstr h rfl]
  simp only [hstream, if_pos hrunning]

/-- With none, SCAN only asks for the outcome. -/
theorem exec_scan_over (h : NextInstr s t q 0x14 l ws s')
    (hover : ∀ st, getStream (getTile s' t) (bits (ws.getD 0 0) 55 52) = some st → isRunning st = false) :
    let c := bits (ws.getD 0 0) 55 52
    exec (.scan t q) s = .next (advance (cancelCtx s' t c (fld s' (seStatAt t c) 63 32)) t q 1) := by
  rw [exec_nextInstr h rfl]
  cases hstream : getStream (getTile s' t) (bits (ws.getD 0 0) 55 52) with
  | none => simp only [hstream, Bool.false_eq_true, if_false]
  | some st => simp only [hstream, hover st hstream, Bool.false_eq_true, if_false]

end

/-- Settles O28: SSTART by its header and its context, SWAIT, SREL and SWRT by the buffers they name, SCAN by the stream it finds. -/
theorem programStreamInstructions : Obligations.ProgramStreamInstructions := by
  refine fun s t q l ws s' => ⟨fun st h hparse => ⟨fun hidle hroom hring => ?_, fun hbad => ?_⟩, exec_sstart_illegal, exec_swait,
    fun ps h => exec_srel h, fun ps h => exec_swrt h, fun st h hstream hseq => ⟨fun hrunning hkept => ?_, fun hending hcommitted => ?_,
      fun e hending => ?_⟩, fun h hidle => ?_⟩
  · rw [exec_sstart_legal h hparse, if_neg (by simp only [hidle, Nat.not_lt.2 hroom, hring]; decide)]
  · rw [exec_sstart_legal h hparse, if_pos (by simpa [Option.isSome_iff_ne_none, or_assoc] using hbad)]
  · rw [exec_scan_running h hstream hrunning, ← hseq, cancelCtx, cancelBySeq_running hkept hrunning]
  · have hover : isRunning st = false := by simp [isRunning, hcommitted]
    rw [exec_scan_over h (fun _ hst => Option.some.inj (hstream.symm.trans hst) ▸ hover), ← hseq, cancelCtx,
      cancelBySeq_committed hstream hending hcommitted]
  · have hover : isRunning st = false := by simp [isRunning, hending]
    rw [exec_scan_over h (fun _ hst => Option.some.inj (hstream.symm.trans hst) ▸ hover), ← hseq, cancelCtx,
      cancelBySeq_ending hstream hending]
  · rw [exec_scan_over h (fun _ hst => nomatch hidle.symm.trans hst), cancelCtx, cancelBySeq_idle hidle]

end Sys2Proof.Machine
end

section
/-! SUPPORT. The packets of queue streams at their peers (R184-R186, R261, R262, R313). -/

namespace Sys2Proof.Machine
open Sys2Proof

section
variable {s : State} {p : Packet}

theorem oneWay_open (hfab : p.fab = false) (harr : arrived s p = true) (hopen : destFence s p = 0) (f : State → State) :
    oneWay s p f = f (takePkt s p) := by
  rw [oneWay, throughFence_open harr hopen, if_neg (Bool.eq_false_iff.1 hfab)]

/-- The command runs the packet of a queue stream: PUSH, RESERVE, ENDMARK, CREDIT or GRANT. -/
def RunsQueuePacket (c : Instr) (p : Packet) : Prop :=
  c = .push p ∧ p.op = 0x10 ∨ c = .reserve p ∧ p.op = 0x12 ∨ c = .endmark p ∧ p.op = 0x15 ∨ c = .credit p ∧ p.op = 0x11 ∨
    c = .grant p ∧ p.op = 0x13

/-- Every packet of a queue stream meets the fence of its endpoint first. -/
theorem exec_queuePacket_throughFence (hrun : running s = true) {c : Instr} (hc : RunsQueuePacket c p) :
    ∃ f, exec c s = .next (throughFence s p f) := by
  rcases hc with ⟨rfl, hop⟩ | ⟨rfl, hop⟩ | ⟨rfl, hop⟩ | ⟨rfl, hop⟩ | ⟨rfl, hop⟩
  · exact ⟨_, whenRunning_op hrun hop fun s p => servedAt s p (pushAt · p)⟩
  · exact ⟨_, whenRunning_op hrun hop fun s p => servedAt s p (reserveAt · p)⟩
  · exact ⟨_, whenRunning_op hrun hop fun s p => servedAt s p (endmarkAt · p)⟩
  · exact ⟨_, whenRunning_op hrun hop fun s p => oneWay s p (creditAt · p)⟩
  · exact ⟨_, whenRunning_op hrun hop fun s p => oneWay s p (grantAt · p)⟩

end

/-- Settles O33: an open endpoint takes or answers each packet, a fence refuses requests and a fenced endpoint drops the rest. -/
theorem queuePacketsComplete : Obligations.QueuePacketsComplete := by
  refine fun s p hrun harr => ⟨fun hfab hopen => ?_, fun c hc => ⟨fun hreq hfence => ?_, fun hone hfence => ?_⟩⟩
  · have served := servedAt_open hfab harr hopen
    have taken := oneWay_open hfab harr hopen
    refine ⟨fun hop => ?_, fun hop => ?_, fun hop => ?_, fun hop => ?_, fun hop => ?_⟩
    · exact (whenRunning_op hrun hop fun s p => servedAt s p (pushAt · p)).trans (congrArg _ (served _))
    · exact (whenRunning_op hrun hop fun s p => servedAt s p (reserveAt · p)).trans (congrArg _ (served _))
    · exact (whenRunning_op hrun hop fun s p => servedAt s p (endmarkAt · p)).trans (congrArg _ (served _))
    · exact (whenRunning_op hrun hop fun s p => oneWay s p (creditAt · p)).trans (congrArg _ (taken _))
    · exact (whenRunning_op hrun hop fun s p => oneWay s p (grantAt · p)).trans (congrArg _ (taken _))
  · obtain ⟨f, hexec⟩ := exec_queuePacket_throughFence hrun hc
    rw [hexec, throughFence_refused harr hreq hfence]
  · obtain ⟨f, hexec⟩ := exec_queuePacket_throughFence hrun hc
    rw [hexec, throughFence_dropped harr hone hfence]

end Sys2Proof.Machine
end

section
/-! SUPPORT. Responses at the endpoint that awaits them: discarded, or delivered to what their tag is held for (R311). -/

namespace Sys2Proof.Machine
open Sys2Proof

section
variable {s : State} {p : Packet}

/-- The command runs a response: READ_RESP, WRITE_ACK, PUSH_ACK, RESERVE_ACK or SIGNAL_ACK. -/
def RunsResponse (c : Instr) (p : Packet) : Prop :=
  c = .readResp p ∧ p.op = 0x81 ∨ c = .writeAck p ∧ (p.op = 0x82 ∨ p.op = 0x95 ∨ p.op = 0xE0) ∨ c = .pushAck p ∧ p.op = 0x90 ∨
    c = .reserveAck p ∧ p.op = 0x92 ∨ c = .signalAck p ∧ p.op = 0xA0

theorem exec_response (hrun : running s = true) {c : Instr} (hc : RunsResponse c p) : exec c s = .next (netResponse s p) := by
  rcases hc with ⟨rfl, hop⟩ | ⟨rfl, hop⟩ | ⟨rfl, hop⟩ | ⟨rfl, hop⟩ | ⟨rfl, hop⟩
  · exact whenRunning_op hrun hop netResponse
  · change execWriteAck p s = _
    rw [execWriteAck, whenRunning_running hrun, if_pos hop]
  · exact whenRunning_op hrun hop netResponse
  · exact whenRunning_op hrun hop netResponse
  · exact whenRunning_op hrun hop netResponse

variable (hresp : isRequest p = false) (hfence : destFence s p ≠ 2) (harr : arrived s p = true)
include hresp hfence harr

theorem netResponse_discarded
    (hstale : (getTag s p.dest.toNat p.tag.toNat).use = none ∨ (getTag s p.dest.toNat p.tag.toNat).gen ≠ p.gen) :
    netResponse s p = takePkt s p := by
  rw [netResponse, throughFence_passed harr hresp hfence]
  cases huse : (getTag s p.dest.toNat p.tag.toNat).use with
  | none => simp only [huse]
  | some u => simp only [huse, if_pos (hstale.resolve_left (by simp [huse]))]

theorem netResponse_delivered {u : TagUse} (huse : (getTag s p.dest.toNat p.tag.toNat).use = some u)
    (hgen : (getTag s p.dest.toNat p.tag.toNat).gen = p.gen) : netResponse s p = delivered s p u := by
  rw [netResponse, throughFence_passed harr hresp hfence]
  simp only [huse, if_neg (Classical.not_not.2 hgen)]

end

/-- Settles O35: by the tag's use and generation, then by the use that the response is delivered to. -/
theorem networkResponsesComplete : Obligations.NetworkResponsesComplete := by
  refine fun s p hrun hresp hfence harr c hc => ⟨fun hstale => ?_, fun hgen => ?_⟩
  · rw [exec_response hrun hc, netResponse_discarded hresp hfence harr hstale]
  · have reaches {u : TagUse} (huse : (getTag s p.dest.toNat p.tag.toNat).use = some u) : exec c s = .next (delivered s p u) := by
      rw [exec_response hrun hc, netResponse_delivered hresp hfence harr huse hgen]
    exact ⟨fun _ => reaches, fun _ _ _ => reaches, fun _ _ => reaches, reaches, fun _ => reaches, fun _ => reaches, reaches⟩

end Sys2Proof.Machine
end

section
/-! SUPPORT. The queues of launches: doorbells and queue registers, a launch's fetch, its commit and its record (R203-R208, R214-R217,
R229, R230). -/

namespace Sys2Proof.Machine
open Sys2Proof

/-! ### Doorbells (R203, R204) -/

section
variable {s : State} {t : TileId} {q v : Nat}

theorem setTail_within (hon : sqOn s t q = true) (hring : sub32 v (sqHead s t q) ≤ 2 ^ sqLog2 s t q) :
    setTail s t q v = setFld s (dbAt t q) 31 0 v := by
  rw [setTail, if_neg (by simpa [hon] using hring)]

theorem setTail_refused (h : sqOn s t q = false ∨ 2 ^ sqLog2 s t q < sub32 v (sqHead s t q)) :
    setTail s t q v = setFlag s (tpStAt t) 59 true := by
  rw [setTail, if_pos (by simpa [or_comm] using h)]

/-- TAIL has 32 bits and reads as it was set. -/
theorem sqTail_setFld (hv : v < 2 ^ 32) : sqTail (setFld s (dbAt t q) 31 0 v) t q = v := by
  rw [sqTail, fld_setFld_same _ _ _ (by decide) (by decide), Nat.mod_eq_of_lt hv]

end

/-! ### Queue registers (R217, R229, R230) -/

section
variable {s : State} {v : Word}

theorem logSize_legal (hlow : 4 ≤ bits v 62 58) (hhigh : bits v 62 58 ≤ 16) :
    ¬(decide (bits v 62 58 < 4) || decide (16 < bits v 62 58)) = true := by
  simpa using And.intro hlow hhigh

theorem writeSq_illegal {t : TileId} {q : Nat} (h : bits v 62 58 < 4 ∨ 16 < bits v 62 58) :
    writeSq s t q v = setFlag s (tpStAt t) 59 true := by
  rw [writeSq, if_pos (by simpa using h)]

theorem writeCqd_illegal {d : Fin 4} {cq : Nat} (h : bits v 62 58 < 4 ∨ 16 < bits v 62 58) :
    writeCqd s d cq v = setFlag s (cqtAt d cq) 61 true := by
  rw [writeCqd, if_pos (by simpa using h)]

variable (hlow : 4 ≤ bits v 62 58) (hhigh : bits v 62 58 ≤ 16)
include hlow hhigh

/-- A queue that is disabled or holds no launch takes the whole register. -/
theorem writeSq_free {t : TileId} {q : Nat} (h : sqOn s t q = false ∨ sqHead s t q = sqTail s t q) :
    writeSq s t q v = plainWrite s .tpSq (sqAt t q) v := by
  rw [writeSq, if_neg (logSize_legal hlow hhigh), if_neg (by rcases h with h | h <;> simp [h])]

/-- An enabled queue that holds a launch takes EN alone. -/
theorem writeSq_held {t : TileId} {q : Nat} (hon : sqOn s t q = true) (hlaunch : sqHead s t q ≠ sqTail s t q) :
    writeSq s t q v = setFlag s (sqAt t q) 63 (bit v 63) := by
  rw [writeSq, if_neg (logSize_legal hlow hhigh), if_pos (by simp [hon, hlaunch])]

theorem writeCqd_legal {d : Fin 4} {cq : Nat} : writeCqd s d cq v = refreshCq (plainWrite s .tpCqd (cqdAt d cq) v) d cq [] := by
  rw [writeCqd, if_neg (logSize_legal hlow hhigh)]

end

/-! ### The commands of the queues -/

section
variable {s : State} (hrun : running s = true)
include hrun

theorem exec_tpDb (t : TileId) (q : Fin 2) (v : Word) : exec (.tpDb t q v) s = .next (setTail s t q (bits v 31 0)) :=
  whenRunning_running hrun (setTail · t q (bits v 31 0))

theorem exec_tpGdb (d : Fin 4) (half : Fin 2) (v : Word) : exec (.tpGdb d half v) s = .next (writeGdb s d half v) :=
  whenRunning_running hrun (writeGdb · d half v)

theorem exec_tpSqWrite (t : TileId) (q : Fin 2) (v : Word) : exec (.tpSqWrite t q v) s = .next (writeSq s t q v) :=
  whenRunning_running hrun (writeSq · t q v)

theorem exec_tpCqdWrite (d : Fin 4) (cq : Fin 64) (v : Word) : exec (.tpCqdWrite d cq v) s = .next (writeCqd s d cq v) :=
  whenRunning_running hrun (writeCqd · d cq v)

theorem exec_tpCqhWrite (d : Fin 4) (cq : Fin 64) (v : Word) : exec (.tpCqhWrite d cq v) s = .next (writeCqh s d cq v) :=
  whenRunning_running hrun (writeCqh · d cq v)

theorem exec_completionRecordHead (d : Fin 4) (cq : Fin 64) (net : BitVec 8) : exec (.completionRecordHead d cq net) s =
    .next (writeSecond (writeFirst s d cq net.toNat) d cq net.toNat) :=
  whenRunning_running hrun fun s => writeSecond (writeFirst s d cq net.toNat) d cq net.toNat

end

/-! ### The fetch of a launch (R205, R207, R208) -/

section
variable {s : State} {t : TileId} {q : Fin 2} {net : BitVec 8} (hrun : running s = true) (hmay : mayFetch s t q = true)
  (hplace : seqBusy s t net.toNat (recAt s t q (sqHead s t q)) 64 = false)
include hrun hmay hplace

theorem exec_launchFetch_read {ws : List Word} (hread : (seqRead s t net.toNat (recAt s t q (sqHead s t q)) 8).2 = some ws) :
    exec (.launchFetch t q net) s = .next (startLaunch
      (setHead (seqRead s t net.toNat (recAt s t q (sqHead s t q)) 8).1 t q (sqHead s t q + 1)) t q (sqHead s t q) (parseLaunch ws) false) := by
  change execLaunchFetch t q net s = _
  rw [execLaunchFetch, whenRunning_running hrun, if_neg (by simp [hmay, hplace])]
  simp only [hread]

/-- The launch of a failed fetch has a record of free values, and starts as one that failed. -/
theorem exec_launchFetch_failed (hread : (seqRead s t net.toNat (recAt s t q (sqHead s t q)) 8).2 = none) :
    let d := drawWords (setHead (seqRead s t net.toNat (recAt s t q (sqHead s t q)) 8).1 t q (sqHead s t q + 1)) 8
    exec (.launchFetch t q net) s = .next (startLaunch d.1 t q (sqHead s t q) (parseLaunch d.2) true) := by
  change execLaunchFetch t q net s = _
  rw [execLaunchFetch, whenRunning_running hrun, if_neg (by simp [hmay, hplace])]
  simp only [hread]

end

/-! ### The commit point (R214-R216) -/

/-- The launch of a queue has left it and its tile, and its record does not stand in a completion queue yet. -/
def launchGone (s : State) (t : TileId) (q : Fin 2) (l : Launch) : State :=
  setFld (modTile (setQState (setRun s t q none) t q 0) t
    (fun x => { x with sleepEnd := x.sleepEnd || (l.ended && l.level == 2), preempted := x.preempted && q.val == 1 })) (tpStAt t) 57 56 1

/-- The record of the launch has joined its completion queue. -/
def launchRecorded (s : State) (t : TileId) (q : Fin 2) (l : Launch) : State :=
  setCqRecs (launchGone s t q l) t.die l.lrec.cq (cqRecs (launchGone s t q l) t.die l.lrec.cq ++
    [{ slot := t.slot.val, q := q, irq := l.lrec.irq, words := recordWords s t q l }])

theorem cqRecs_setCqRecs_same (s : State) (d : Fin 4) (cq : Nat) (rs : List CRec) : cqRecs (setCqRecs s d cq rs) d cq = rs :=
  mget_mset_same ..

/-- The first part of the record is written at once when no other record is before it. -/
theorem exec_launchCommit {s : State} {t : TileId} {q : Fin 2} {l : Launch} (hrun : running s = true)
    (hlaunch : getRun (getTile s t) q = some l) (hcommit : canCommit l = true) (net : BitVec 8) :
    exec (.launchCommit t q net) s = .next (refreshCq
      (if cqRecs (launchGone s t q l) t.die l.lrec.cq = [] then writeFirst (launchRecorded s t q l) t.die l.lrec.cq net.toNat
        else launchRecorded s t q l) t.die l.lrec.cq []) := by
  have hfirst : (cqRecs (launchRecorded s t q l) t.die l.lrec.cq).length = 1 ↔
      cqRecs (launchGone s t q l) t.die l.lrec.cq = [] := by
    simp [launchRecorded, cqRecs_setCqRecs_same]
  change execLaunchCommit t q net s = _
  rw [execLaunchCommit, whenRunning_running hrun]
  simp only [hlaunch, hcommit, Bool.not_true, Bool.false_eq_true, if_false, ← hfirst]
  rfl

/-- Settles O26: a doorbell by its ring, a register write by its LOG2N and the launches held, a fetch by its read, a commit by the
records that are before it. -/
theorem launchQueuesComplete : Obligations.LaunchQueuesComplete := by
  refine ⟨fun s hrun => ⟨fun t q v hon hring => ?_, fun t q v hbad => ?_, exec_tpGdb hrun,
    fun t q v hlow hhigh => ⟨fun hfree => ?_, fun hon hheld => ?_⟩, fun t q v hbad => ?_, fun d cq v hlow hhigh => ?_,
    fun d cq v hbad => ?_, exec_tpCqhWrite hrun, exec_completionRecordHead hrun⟩,
    fun s t q net hrun => ⟨fun hmay hplace => ⟨fun ws => exec_launchFetch_read hrun hmay hplace, exec_launchFetch_failed hrun hmay hplace⟩,
      fun l hlaunch hcommit => ⟨fun hothers => ?_, fun hnone => ?_⟩⟩⟩
  · rw [exec_tpDb hrun, setTail_within hon hring]
    exact ⟨_, rfl, sqTail_setFld (bits_lt v 31 0), rfl, fun a ha => rd_wr_ne _ _ ha⟩
  · rw [exec_tpDb hrun, setTail_refused hbad]
    exact ⟨_, rfl, flag_setFlag_same _ _ _ (by decide), rfl, fun a ha => rd_wr_ne _ _ ha⟩
  · rw [exec_tpSqWrite hrun, writeSq_free hlow hhigh hfree]
  · rw [exec_tpSqWrite hrun, writeSq_held hlow hhigh hon hheld]
  · rw [exec_tpSqWrite hrun, writeSq_illegal hbad]
  · rw [exec_tpCqdWrite hrun, writeCqd_legal hlow hhigh]
  · rw [exec_tpCqdWrite hrun, writeCqd_illegal hbad]
  · rw [exec_launchCommit hrun hlaunch hcommit, if_neg (by exact hothers)]
    rfl
  · rw [exec_launchCommit hrun hlaunch hcommit, if_pos (by exact hnone)]
    rfl

end Sys2Proof.Machine
end

section
/-! SUPPORT. The instructions of tile programs that synchronise: XWAIT, END, WAIT, CHKPT, HINT and SIGNAL, and the wait limit (R210, R211,
R222-R225, R228). -/

namespace Sys2Proof.Machine
open Sys2Proof

theorem issueWhen_unmet {b : Bool} (h : b = false) (s : State) (t : TileId) (q : Nat) (f : State → State) :
    issueWhen b s t q f = waitHere s t q :=
  if_neg (Bool.eq_false_iff.1 h)

/-! ### A unit that is added leaves the fabric -/

theorem addUnit_fabric (s : State) (t : TileId) (q : Nat) (u : UnitRec) : (addUnit s t q u).fabric = s.fabric := by
  rw [addUnit, modRun]
  cases getRun (getTile s t) q <;> rfl

theorem ownDev_addUnit (s : State) (t : TileId) (q : Nat) (u : UnitRec) : ownDev (addUnit s t q u) = ownDev s := by
  rw [ownDev, addUnit_fabric, ownDev]

theorem peerDev_addUnit (s : State) (t : TileId) (q : Nat) (u : UnitRec) (w : Word) : peerDev (addUnit s t q u) w = peerDev s w := by
  rw [peerDev, ownDev_addUnit, peerDev]

section
variable {s s' : State} {t : TileId} {q : Fin 2} {l : Launch} {ws : List Word}

/-! ### XWAIT, END, WAIT and CHKPT (R210, R211, R224, R225) -/

theorem exec_xwait (h : NextInstr s t q 0x22 l ws s') : exec (.xwait t q) s = .next
    (issueWhen (l.live.all fun u => 3 ≤ u.kind) s' t q fun s => advance s t q 1) := by
  rw [exec_nextInstr h rfl]

theorem exec_tpEnd (h : NextInstr s t q 0x3F l ws s') : exec (.tpEnd t q) s = .next
    (issueWhen l.live.isEmpty s' t q fun s =>
      showPc (modRun s t q (fun l => { l with pc := l.pc + 1, ended := true, waiting := false })) t q (l.pc + 1)) := by
  rw [exec_nextInstr h rfl]

theorem exec_wait (h : NextInstr s t q 0x41 l ws s') : exec (.wait t q) s = .next
    (issueWhen (sub32 (fld s' (ctrAt t (bits (ws.getD 0 0) 37 32)) 31 0) (bits (ws.getD 0 0) 31 0) < 2 ^ 31) s' t q
      fun s => advance s t q 1) := by
  rw [exec_nextInstr h rfl]

theorem exec_chkpt (h : NextInstr s t q 0x50 l ws s') (hlive : l.live = [])
    (hstreams : ∀ c ∈ queueCtxs q, getStream (getTile s' t) c = none) :
    exec (.chkpt t q) s = .next (advance (modRun
      (wr s' (ckptAt t q) (BitVec.ofNat 64 (l.lrec.launchId * 2 ^ 32 + 2 ^ 24 + (l.pc + 1)))) t q (fun l => { l with faults := 0 })) t q 1) := by
  have hidle : (l.live.isEmpty && (queueCtxs q).all fun c => (getStream (getTile s' t) c).isNone) = true := by
    simpa [hlive] using hstreams
  rw [exec_nextInstr h rfl]
  exact congrArg _ (issueWhen_met hidle ..)

/-! ### SIGNAL (R223) -/

/-- A SIGNAL with RELEASE waits for every unit that is no signal; one that issues ends at once when no tile has its slot. -/
theorem exec_signal {g : Nat} (h : NextInstr s t q 0x40 l ws s') (hrelease : bit (ws.getD 0 0) 55 = true → ∀ u ∈ l.live, u.kind = 4)
    (htag : seqTag s' (tileNode s' t) = some g) :
    let s1 := addUnit s' t q { kind := 4, seq := g, ctx := 0, pc := l.pc }
    exec (.signal t q) s = .next (advance
      (if peerDev s' (ws.getD 1 0) = ownDev s' ∧ 96 ≤ bits (ws.getD 1 0) 39 33 then unitEnded s1 t q 4 g { status := stNocUnmapped }
        else holdTag (inject s1 (signalPkt s1 t g (ws.getD 0 0) (ws.getD 1 0))) (tileNode s' t) g (.signal t q g)) t q 2) := by
  have hgo : ((!bit (ws.getD 0 0) 55 || l.live.all fun u => u.kind == 4) && (seqTag s' (tileNode s' t)).isSome) = true := by
    cases hbit : bit (ws.getD 0 0) 55 with
    | false => simp [htag]
    | true => simpa [htag] using hrelease hbit
  rw [exec_nextInstr h rfl, issueWhen_met hgo]
  simp only [htag, Option.getD_some, peerDev_addUnit, ownDev_addUnit]

end

/-! ### The wait limit (R211) -/

theorem exec_waitLimit {s : State} {t : TileId} {q : Fin 2} {l : Launch} (hrun : running s = true)
    (hlaunch : getRun (getTile s t) q = some l) (hissue : canIssue l = true)
    (hwait : l.waiting = true ∨ ∃ r, (getTile s t).ready = some r ∧ r.q = q.val) :
    exec (.waitLimit t q) s = .next (failProgram s t q { code := stWaitLimit, kind := 4, ctx := 0, pc := l.pc, seq := 0 }) := by
  change execWaitLimit t q s = _
  rw [execWaitLimit, whenRunning_running hrun]
  simp only [hlaunch, hissue, Bool.true_and]
  rcases hwait with hwaiting | ⟨r, hready, hq⟩
  · rw [hwaiting, Bool.true_or, if_pos rfl]
  · simp only [hready, hq, BEq.rfl, Bool.or_true, if_true]

/-- Settles O27: each instruction by the condition that it waits for; SIGNAL by the tile that its address names. -/
theorem programSynchronisation : Obligations.ProgramSynchronisation := by
  refine fun s t q l ws s' => ⟨fun h => ⟨fun hended => ?_, fun hrunning => ?_⟩, fun h => ⟨fun hended => ?_, fun hrunning => ?_⟩,
    fun h => ⟨fun hpassed => ?_, fun hahead => ?_⟩, exec_chkpt, fun h => ?_,
    fun h hrelease g htag => ⟨fun htile => ?_, fun hown hslot => ?_⟩, exec_waitLimit⟩
  · rw [exec_xwait h, issueWhen_met (by simpa using hended)]
  · rw [exec_xwait h, issueWhen_unmet (by simpa using hrunning)]
    rfl
  · rw [exec_tpEnd h, issueWhen_met (by simpa using hended)]
  · rw [exec_tpEnd h, issueWhen_unmet (by simpa using hrunning)]
    rfl
  · rw [exec_wait h, issueWhen_met (decide_eq_true hpassed)]
  · rw [exec_wait h, issueWhen_unmet (decide_eq_false (Nat.not_lt.2 hahead))]
    rfl
  · rw [exec_nextInstr h rfl]
  · rw [exec_signal h hrelease htag, if_neg fun ⟨hown, hslot⟩ => htile.elim (· hown) (Nat.not_lt.2 hslot)]
  · rw [exec_signal h hrelease htag, if_pos ⟨hown, hslot⟩]

end Sys2Proof.Machine
end

section
/-! SUPPORT. Queue controllers: the edges of their fabric clocks, their enabling and disabling, and what they push (R254-R264, R272). -/

namespace Sys2Proof.Machine
open Sys2Proof

/-! ### An edge of the write clock (R254, R257-R259) -/

section
variable {s : State} {d : Fin 4} {q : Fin 512}

theorem exec_qcWrite (hrun : running s = true) (hend : qcWriteEnd s d q = true)
    (htree : treeRuns s (qcRegion d q) (qcWtree s d q) = true) (valid : Bool) (e : BitVec 72) :
    exec (.qcWrite d q valid e) s = .next (qcWriteEdge s d q valid e) := by
  change execQcWrite d q valid e s = _
  rw [execQcWrite, whenRunning_running hrun, if_pos (by rw [hend, htree]; rfl)]

theorem exec_qcWrite_still (hrun : running s = true)
    (h : qcWriteEnd s d q = true → treeRuns s (qcRegion d q) (qcWtree s d q) = false) (valid : Bool) (e : BitVec 72) :
    exec (.qcWrite d q valid e) s = .next s := by
  change execQcWrite d q valid e s = _
  rw [execQcWrite, whenRunning_running hrun, if_neg (by simpa using h)]

/-- An edge without an entry moves the pointers, unless a gap marker is due. -/
theorem qcWriteEdge_invalid (e : BitVec 72)
    (h : flag s (qcCfg d q) 60 = true → (getQc s d q).pending = 0 ∨ freeOf s d q (getQc s d q) < 2) :
    qcWriteEdge s d q false e = putWrite s d q (wEdge (getQc s d q)) := by
  cases hlossy : flag s (qcCfg d q) 60 with
  | false => simp [qcWriteEdge, hlossy]
  | true =>
    have hnone : ¬((getQc s d q).pending ≠ 0 ∧ 2 ≤ freeOf s d q (getQc s d q)) := fun ⟨hgap, hroom⟩ =>
      (h hlossy).elim hgap (Nat.not_lt.2 hroom)
    simp [qcWriteEdge, hlossy, hnone]

section
variable (hlossy : flag s (qcCfg d q) 60 = false)
include hlossy

theorem qcWriteEdge_stored (e : BitVec 72) (hfree : 1 ≤ freeOf s d q (getQc s d q)) :
    qcWriteEdge s d q true e = putWrite s d q (pushEntry (wEdge (getQc s d q)) e) := by
  simp [qcWriteEdge, hlossy, hfree]

theorem qcWriteEdge_discarded (e : BitVec 72) (hfull : freeOf s d q (getQc s d q) = 0) :
    qcWriteEdge s d q true e = putWrite s d q (wEdge (getQc s d q)) := by
  simp [qcWriteEdge, hlossy, hfull]

end

section
variable (hlossy : flag s (qcCfg d q) 60 = true)
include hlossy

theorem qcWriteEdge_lossy_stored (e : BitVec 72) (hgap : (getQc s d q).pending = 0) (hfree : 2 ≤ freeOf s d q (getQc s d q)) :
    qcWriteEdge s d q true e = putWrite s d q (pushEntry (wEdge (getQc s d q)) (lossyEntry e)) := by
  simp [qcWriteEdge, hlossy, hgap, hfree]

theorem qcWriteEdge_counted (e : BitVec 72) (hfull : freeOf s d q (getQc s d q) < 2) :
    qcWriteEdge s d q true e = putWrite (satFld s (qcAt d q 0x18) 63 32) d q
      { wEdge (getQc s d q) with pending := (getQc s d q).pending + 1 } := by
  simp [qcWriteEdge, hlossy, Nat.not_le.2 hfull]

/-- R258: the marker of a gap goes before the entry of its edge, which it counts. -/
theorem qcWriteEdge_marker (valid : Bool) (e : BitVec 72) (hgap : (getQc s d q).pending ≠ 0) (hfree : 2 ≤ freeOf s d q (getQc s d q)) :
    qcWriteEdge s d q valid e = putWrite (incFld (if valid then satFld s (qcAt d q 0x18) 63 32 else s) (qcAt d q 0x18) 31 16) d q
      { pushEntry (wEdge (getQc s d q)) (gapMarker ((getQc s d q).pending + if valid then 1 else 0)) with pending := 0 } := by
  simp [qcWriteEdge, hlossy, hgap, hfree]

end

/-! ### An edge of the read clock (R254-R257, R261) -/

theorem exec_qcRead (hrun : running s = true) (hend : qcReadEnd s d q = true)
    (htree : treeRuns s (qcRegion d q) (qcRtree s d q) = true) (ecc : Ecc) :
    exec (.qcRead d q ecc) s = .next (qcReadEdge s d q true ecc) := by
  change execQcRead d q ecc s = _
  rw [execQcRead, whenRunning_running hrun, if_pos (by rw [hend, htree]; rfl)]

theorem exec_qcRead_still (hrun : running s = true)
    (h : qcReadEnd s d q = true → treeRuns s (qcRegion d q) (qcRtree s d q) = false) (ecc : Ecc) :
    exec (.qcRead d q ecc) s = .next s := by
  change execQcRead d q ecc s = _
  rw [execQcRead, whenRunning_running hrun, if_neg (by simpa using h)]

/-- Nothing is stored, or nothing stored is visible yet. -/
theorem qcReadEdge_empty (ecc : Ecc) (h : (getQc s d q).entries = [] ∨ qcRlevel s d q (getQc s d q) = 0) :
    qcReadEdge s d q true ecc = putQc s d q (rEdge (getQc s d q)) := by
  cases hentries : (getQc s d q).entries with
  | nil => simp only [qcReadEdge, hentries]
  | cons e r =>
    have hlevel : qcRlevel s d q (getQc s d q) = 0 := h.resolve_left (by simp [hentries])
    simp [qcReadEdge, hentries, hlevel]

/-- An event changes only the registers of the log. -/
theorem rd_logEvent_ne (s : State) (code die unit sev detail : Nat) {a : Nat} (hnew : a ≠ logNewAt) (hovr : a ≠ logOvrAt) :
    rd (logEvent s code die unit sev detail) a = rd s a := by
  unfold logEvent
  dsimp only
  generalize hu : (if sev = 0 then s else objSetN s 0x0E01 sev (objN s 0x0E01 sev + 1)) = u
  have hcounted : rd u a = rd s a := by
    rw [← hu]
    split <;> rfl
  rw [← hcounted]
  split
  · rfl
  · split
    · exact (rd_wr_ne _ _ hovr).trans (rd_wr_ne u _ hnew)
    · exact rd_wr_ne u _ hnew

theorem qcCfg_ne_qcStat (d : Fin 4) (q : Fin 512) : qcCfg d q ≠ qcStat d q := by
  unfold qcCfg qcStat qcAt csrAt
  omega

theorem qcCfg_lt_logNewAt (d : Fin 4) (q : Fin 512) : qcCfg d q < logNewAt := by
  unfold qcCfg logNewAt qcAt csrAt csrBase
  omega

theorem logNewAt_lt_logOvrAt : logNewAt < logOvrAt := by decide

/-- What a read of an entry meets does not change QC_CFG. -/
theorem qcMode_qcEcc (s : State) (d : Fin 4) (q : Fin 512) (bad corrected : Bool) :
    qcMode (qcEcc s d q bad corrected) d q = qcMode s d q := by
  have hnew := qcCfg_lt_logNewAt d q
  have hevent : ∀ (u : State) (code sev : Nat), rd (logEvent u code d 0xFFF sev q) (qcCfg d q) = rd u (qcCfg d q) :=
    fun u code sev => rd_logEvent_ne u _ _ _ _ _ (Nat.ne_of_lt hnew) (Nat.ne_of_lt (Nat.lt_trans hnew logNewAt_lt_logOvrAt))
  have hcfg : rd (qcEcc s d q bad corrected) (qcCfg d q) = rd s (qcCfg d q) := by
    unfold qcEcc
    split
    · rw [hevent, setFlag_eq, rd_wr_ne _ _ (qcCfg_ne_qcStat d q)]
    · split
      · rw [hevent]
      · rfl
  rw [qcMode, fld, hcfg]
  rfl

/-- The head entry is taken, with a credit for a data entry of TOFAB mode. -/
theorem qcReadEdge_taken (ecc : Ecc) {e : BitVec 72} {r : List (BitVec 72)} (hentries : (getQc s d q).entries = e :: r)
    (hlevel : qcRlevel s d q (getQc s d q) ≠ 0) :
    let s1 := qcEcc s d q (headBad (getQc s d q) || ecc == .uncorrectable) (ecc == .corrected)
    let z := { rEdge (getQc s d q) with entries := r, rp := (getQc s d q).rp + 1 }
    qcReadEdge s d q true ecc =
      qcTryGrant (if qcMode s d q = 1 ∧ sideEnd e = false then qcCredit s1 d q z else putQc s1 d q z) d q := by
  simp [qcReadEdge, hentries, hlevel, qcMode_qcEcc]

/-! ### Enabling and disabling (R264, R272, R275) -/

theorem exec_qcEnable (hrun : running s = true) (v : Word) :
    exec (.qcEnable d q v) s = .next (writeQcCfg s d q (setBit v 63 true)) :=
  whenRunning_running hrun fun s => writeQcCfg s d q (setBit v 63 true)

theorem exec_qcDisable (hrun : running s = true) :
    exec (.qcDisable d q) s = .next (if regionLive s (qcRegion d q) && qcOn s d q then qcOff s d q else s) :=
  whenRunning_running hrun fun s => if regionLive s (qcRegion d q) && qcOn s d q then qcOff s d q else s

theorem writeQcCfg_inReset (v : Word) (h : regionLive s (qcRegion d q) = false) : writeQcCfg s d q v = s := by
  simp [writeQcCfg, h]

section
variable {v : Word} (hlive : regionLive s (qcRegion d q) = true) (hen : bit v 63 = true)

section
variable (hoff : qcOn s d q = false) (hmode : bits v 62 61 ≠ 3)
include hlive hen hoff hmode

theorem writeQcCfg_starts (hlegal : qcIllegal v = false) : writeQcCfg s d q v = qcStart (plainWrite s .qcCfg (qcCfg d q) v) d q := by
  have hbit : bit (rd s (qcCfg d q)) 63 = false := hoff
  simp [writeQcCfg, hlive, hbit, hmode, hlegal, hen]

theorem writeQcCfg_illegal (hbad : qcIllegal v = true) : writeQcCfg s d q v = setFlag s (qcCfg d q) 5 true := by
  have hbit : bit (rd s (qcCfg d q)) 63 = false := hoff
  simp [writeQcCfg, hlive, hbit, hmode, hbad, hen]

end

section
variable (hon : qcOn s d q = true)
include hlive hon

theorem writeQcCfg_changed (h : qcFixed v ≠ qcFixed (rd s (qcCfg d q))) : writeQcCfg s d q v = setFlag s (qcCfg d q) 5 true := by
  have hbit : bit (rd s (qcCfg d q)) 63 = true := hon
  simp [writeQcCfg, hlive, hbit, h]

include hen in
theorem writeQcCfg_kept (h : qcFixed v = qcFixed (rd s (qcCfg d q))) : writeQcCfg s d q v = plainWrite s .qcCfg (qcCfg d q) v := by
  have hbit : bit (rd s (qcCfg d q)) 63 = true := hon
  simp [writeQcCfg, hlive, hbit, h, hen]

end

end

/-- R264: a controller that is disabled is empty and unconnected, off, and its threshold is not armed. -/
theorem qcOff_empties (s : State) (d : Fin 4) (q : Fin 512) :
    getQc (qcOff s d q) d q = {} ∧ qcOn (qcOff s d q) d q = false ∧ flag (qcOff s d q) (qcStat d q) 60 = false := by
  refine ⟨?_, ?_, ?_⟩
  · rw [getQc, qcOff, setFlag_qcs, setFlag_qcs]
    exact getQc_putQc_same (qcHangUp s d q) d q {}
  · rw [qcOn, qcOff, flag_setFlag_same _ _ _ (by decide)]
  · rw [qcOff, flag_setFlag_other _ _ _ _ (qcCfg_ne_qcStat d q).symm, flag_setFlag_same _ _ _ (by decide)]

/-! ### Pushes (R261, R262) -/

/-- R262: what the next push would carry is complete: 32 entries, or what stands before an END entry. -/
def pushReady (s : State) (d : Fin 4) (q : Nat) : Bool :=
  decide (32 ≤ (pushRun s d q).length) || ((pushable s d q).take 33).any sideEnd

theorem exec_qcPush_shut (hrun : running s = true) (h : canPush s d q = false) :
    exec (.qcPush d q) s = .next (if regionLive s (qcRegion d q) then qcAsk s d q else s) := by
  change execQcPush d q s = _
  rw [execQcPush, whenRunning_running hrun, if_pos (by rw [h]; rfl)]

section
variable (hrun : running s = true) (hcan : canPush s d q = true)
include hrun hcan

theorem exec_qcPush_empty (h : pushable s d q = []) : exec (.qcPush d q) s = .next s := by
  change execQcPush d q s = _
  rw [execQcPush, whenRunning_running hrun, if_neg (by rw [hcan]; decide)]
  simp only [h]

theorem exec_qcPush_end {e : BitVec 72} {r : List (BitVec 72)} (h : pushable s d q = e :: r) (hend : sideEnd e = true) :
    exec (.qcPush d q) s = .next (sendEnd s d q) := by
  change execQcPush d q s = _
  rw [execQcPush, whenRunning_running hrun, if_neg (by rw [hcan]; decide)]
  simp only [h, hend, if_true]

theorem exec_qcPush_data {e : BitVec 72} {r : List (BitVec 72)} (h : pushable s d q = e :: r) (hend : sideEnd e = false) :
    exec (.qcPush d q) s = .next (if 1 ≤ (getQc s d q).credits ∧ pushReady s d q = true then sendPush s d q else s) := by
  change execQcPush d q s = _
  rw [execQcPush, whenRunning_running hrun, if_neg (by rw [hcan]; decide)]
  simp only [pushReady, h, hend, Bool.false_eq_true, if_false, Bool.and_eq_true, decide_eq_true_eq]

end

theorem exec_pushwait (hrun : running s = true) : exec (.pushwait d q) s = .next
    (if canPush s d q = true ∧ 1 ≤ (getQc s d q).credits ∧ fld s (qcCfg d q) 32 17 ≠ 0 ∧ pushRun s d q ≠ [] then sendPush s d q else s) := by
  change execPushwait d q s = _
  simp [execPushwait, whenRunning_running hrun, and_assoc]

end

/-- Settles O32: a write edge by the free entries and the gap counted, a read edge by the entries it sees, a write of QC_CFG by EN
and the fields it changes, a push by the entries at the head. -/
theorem queueControllersComplete : Obligations.QueueControllersComplete := by
  refine ⟨fun s d q hrun => ⟨fun v e hstill => exec_qcWrite_still hrun hstill v e,
      fun hend htree => ⟨fun e hlossy => ⟨fun hfree => ?_, fun hfull => ?_, ?_⟩, fun e hlossy hgap => ⟨fun hfree => ?_, fun hfull => ?_, ?_⟩,
        fun e hlossy hgap hfree => ⟨?_, ?_⟩⟩,
      fun ecc hstill => exec_qcRead_still hrun hstill ecc,
      fun ecc hend htree => ⟨fun hempty => ?_, fun e r hentries hlevel => ⟨fun hfree => ?_, fun hmode hdata => ?_⟩⟩⟩,
    fun s d q hrun => ⟨fun v hlive hoff hmode => ?_, fun v hlive hon => ⟨fun hchanged => ?_, fun hkept => ?_⟩, fun v hreset => ?_,
      fun hlive hon => ?_, fun hstill => ?_, exec_qcPush_shut hrun, exec_qcPush_empty hrun, fun e r hcan => exec_qcPush_end hrun hcan,
      fun e r hcan hhead hdata => ⟨fun hcredit hready => ?_, fun hwaits => ?_⟩, fun hcan hcredit hlimit hrest => ?_, fun hnone => ?_⟩,
    qcOff_empties⟩
  · rw [exec_qcWrite hrun hend htree, qcWriteEdge_stored hlossy e hfree]
  · rw [exec_qcWrite hrun hend htree, qcWriteEdge_discarded hlossy e hfull]
  · rw [exec_qcWrite hrun hend htree, qcWriteEdge_invalid e (by simp [hlossy])]
  · rw [exec_qcWrite hrun hend htree, qcWriteEdge_lossy_stored hlossy e (hgap.resolve_right (Nat.not_lt.2 hfree)) hfree]
  · rw [exec_qcWrite hrun hend htree, qcWriteEdge_counted hlossy e hfull]
  · rw [exec_qcWrite hrun hend htree, qcWriteEdge_invalid e fun _ => hgap]
  · rw [exec_qcWrite hrun hend htree, qcWriteEdge_marker hlossy false e hgap hfree]
    rfl
  · rw [exec_qcWrite hrun hend htree, qcWriteEdge_marker hlossy true e hgap hfree]
    rfl
  · rw [exec_qcRead hrun hend htree, qcReadEdge_empty ecc hempty]
  · rw [exec_qcRead hrun hend htree, qcReadEdge_taken ecc hentries hlevel,
      if_neg fun ⟨hmode, hdata⟩ => hfree.elim (· hmode) (by simp [hdata])]
  · rw [exec_qcRead hrun hend htree, qcReadEdge_taken ecc hentries hlevel, if_pos ⟨hmode, hdata⟩]
  · have hen : bit (setBit v 63 true) 63 = true := bit_setBit_same v true (by decide)
    have hmode' : bits (setBit v 63 true) 62 61 ≠ 3 := by rwa [bits_setBit_ne v true (by decide)]
    rw [exec_qcEnable hrun]
    exact ⟨fun hlegal => by rw [writeQcCfg_starts hlive hen hoff hmode' hlegal],
      fun hbad => by rw [writeQcCfg_illegal hlive hen hoff hmode' hbad]⟩
  · rw [exec_qcEnable hrun, writeQcCfg_changed hlive hon hchanged]
  · rw [exec_qcEnable hrun, writeQcCfg_kept hlive (bit_setBit_same v true (by decide)) hon hkept]
  · rw [exec_qcEnable hrun, writeQcCfg_inReset _ hreset]
  · rw [exec_qcDisable hrun, if_pos (by rw [hlive, hon]; rfl)]
  · rw [exec_qcDisable hrun, if_neg (by rcases hstill with h | h <;> simp [h])]
  · rw [exec_qcPush_data hrun hcan hhead hdata, if_pos ⟨hcredit, by simpa [pushReady] using hready⟩]
  · rw [exec_qcPush_data hrun hcan hhead hdata, if_neg]
    rintro ⟨hcredit, hready⟩
    rcases hwaits with hbroke | ⟨hfew, hopen⟩
    · omega
    · simp [pushReady, hopen, Nat.not_le.2 hfew] at hready
  · rw [exec_pushwait hrun, if_pos ⟨hcan, hcredit, hlimit, hrest⟩]
  · rw [exec_pushwait hrun, if_neg]
    rintro ⟨hcan, hcredit, hlimit, hrest⟩
    rcases hnone with h | h | h | h
    · simp [hcan] at h
    · omega
    · exact hlimit h
    · exact hrest h

end Sys2Proof.Machine
end

section
/-! SUPPORT. The hard blocks of regions: user PLLs, regional trees, pins, ports of block memories and network endpoints (R243-R253,
R266-R271). -/

namespace Sys2Proof.Machine
open Sys2Proof

/-! ### The bits that a register write takes and keeps (R12) -/

section
variable {info : RegInfo} {i : Nat} (locked : Bool) (old v : Word)

theorem getLsbD_maskWrite_taken (h64 : i < 64) (hrw : info.rw.testBit i = true) (hw1c : info.w1c.testBit i = false) :
    (maskWrite info locked old v).getLsbD i = v.getLsbD i := by
  simp only [maskWrite, BitVec.getLsbD_or, BitVec.getLsbD_and, BitVec.getLsbD_not, BitVec.getLsbD_ofNat, Nat.testBit_or, h64, hrw, hw1c,
    decide_true, Bool.true_or, Bool.true_and, Bool.not_true, Bool.and_false, Bool.false_or, Bool.and_true, Bool.false_and, Bool.or_false]
  exact Bool.or_eq_left_iff_imp.2 fun h => (Bool.and_eq_true_iff.1 h).1

theorem getLsbD_maskWrite_kept (hrw : info.rw.testBit i = false) (hrwl : info.rwl.testBit i = false)
    (hw1c : info.w1c.testBit i = false) (hw1s : info.w1s.testBit i = false) :
    (maskWrite info locked old v).getLsbD i = old.getLsbD i := by
  by_cases h64 : i < 64
  · have hlocked : (if locked then 0 else info.rwl).testBit i = false := by
      split
      · exact Nat.zero_testBit i
      · exact hrwl
    simp only [maskWrite, BitVec.getLsbD_or, BitVec.getLsbD_and, BitVec.getLsbD_not, BitVec.getLsbD_ofNat, Nat.testBit_or, h64, hrw, hlocked,
      hw1c, hw1s, decide_true, Bool.true_and, Bool.or_false, Bool.not_false, Bool.and_true, Bool.and_false, Bool.false_and]
  · rw [BitVec.getLsbD_of_ge _ _ (by omega), BitVec.getLsbD_of_ge _ _ (by omega)]

end

theorem bits_congr {w v : Word} {hi lo : Nat} (h : ∀ i, lo ≤ i → i ≤ hi → w.getLsbD i = v.getLsbD i) : bits w hi lo = bits v hi lo := by
  apply Nat.eq_of_testBit_eq
  intro j
  rw [testBit_bits, testBit_bits]
  by_cases hj : j < hi + 1 - lo
  · rw [h _ (by omega) (by omega)]
  · simp [hj]

/-! ### The register of a regional tree (R244-R247) -/

theorem regKey_inj {r x : RegionId} (h : regKey r = regKey x) : r = x := by
  obtain ⟨d, n⟩ := r
  obtain ⟨e, m⟩ := x
  simp only [regKey] at h
  rw [RegionId.mk.injEq]
  omega

theorem getRegion_setRegion_ne (s : State) {r x : RegionId} (y : Region) (h : x ≠ r) : getRegion (setRegion s r y) x = getRegion s x :=
  mget_mset_ne _ _ _ _ fun e => h (regKey_inj e)

section
variable (s : State) (r : RegionId) (k : Nat) (v : Word)

/-- Bits 63:52 are written. -/
theorem getLsbD_lrClk_written (old : Word) {i : Nat} (hlow : 52 ≤ i) :
    (maskWrite (regInfo .lrClk) false old v).getLsbD i = v.getLsbD i := by
  by_cases h64 : i < 64
  · have hmasks : ∀ j < 64, 52 ≤ j → (regInfo .lrClk).rw.testBit j = true ∧ (regInfo .lrClk).w1c.testBit j = false := by decide
    exact getLsbD_maskWrite_taken _ _ _ h64 (hmasks i h64 hlow).1 (hmasks i h64 hlow).2
  · rw [BitVec.getLsbD_of_ge _ _ (by omega), BitVec.getLsbD_of_ge _ _ (by omega)]

theorem rd_unless_modRegion (c : Bool) (f : Region → Region) (a : Nat) : rd (if c then s else modRegion s r f) a = rd s a := by
  split <;> rfl

/-- A write of a tree's register takes its fields, and a new SEL starts a switch. -/
theorem rd_writeLrClk_same : rd (writeLrClk s r k v) (lrClkAt r.die r.n k) =
    if bits v 62 60 = fld s (lrClkAt r.die r.n k) 62 60 then maskWrite (regInfo .lrClk) false (rd s (lrClkAt r.die r.n k)) v
    else setBit (maskWrite (regInfo .lrClk) false (rd s (lrClkAt r.die r.n k)) v) 51 true := by
  simp only [writeLrClk]
  split
  · rw [rd_unless_modRegion, plainWrite, rd_wr_same]
  · rw [setFlag_eq, rd_wr_same, rd_unless_modRegion, plainWrite, rd_wr_same]

theorem getLsbD_rd_writeLrClk {i : Nat} (hlow : 52 ≤ i) :
    (rd (writeLrClk s r k v) (lrClkAt r.die r.n k)).getLsbD i = v.getLsbD i := by
  rw [rd_writeLrClk_same]
  split
  · exact getLsbD_lrClk_written v _ hlow
  · exact (bit_setBit_ne _ _ (by omega)).trans (getLsbD_lrClk_written v _ hlow)

theorem fld_writeLrClk {hi lo : Nat} (hlow : 52 ≤ lo) : fld (writeLrClk s r k v) (lrClkAt r.die r.n k) hi lo = bits v hi lo :=
  bits_congr fun _ hi _ => getLsbD_rd_writeLrClk s r k v (Nat.le_trans hlow hi)

theorem flag_writeLrClk_en : flag (writeLrClk s r k v) (lrClkAt r.die r.n k) 63 = bit v 63 :=
  getLsbD_rd_writeLrClk s r k v (by decide)

/-- SWITCHING stands, and is set by a new SEL. -/
theorem flag_writeLrClk_switching : flag (writeLrClk s r k v) (lrClkAt r.die r.n k) 51 =
    (flag s (lrClkAt r.die r.n k) 51 || bits v 62 60 != fld s (lrClkAt r.die r.n k) 62 60) := by
  rw [flag, rd_writeLrClk_same]
  split
  case isTrue hsel =>
    rw [hsel, bne_self_eq_false, Bool.or_false]
    exact getLsbD_maskWrite_kept _ _ _ (by decide) (by decide) (by decide) (by decide)
  case isFalse hsel => rw [bit_setBit_same _ _ (by decide), bne_iff_ne.2 hsel, Bool.or_true]

/-- Clearing EN ends a stop for overspeed. -/
theorem writeLrClk_regions : (writeLrClk s r k v).regions =
    if bit v 63 then s.regions else (modRegion s r fun x => { x with stopped := mset false x.stopped k false }).regions := by
  have hplain : (plainWrite s .lrClk (lrClkAt r.die r.n k) v).regions = s.regions := wr_regions ..
  have hmod : ∀ f, (modRegion (plainWrite s .lrClk (lrClkAt r.die r.n k) v) r f).regions = (modRegion s r f).regions := by
    intro f
    rw [modRegion_congr hplain, setRegion, hplain]
    rfl
  rw [← hmod]
  simp only [writeLrClk]
  generalize plainWrite s .lrClk (lrClkAt r.die r.n k) v = u at hplain ⊢
  rw [← hplain, ← apply_ite State.regions]
  split
  · rfl
  · rw [setFlag_regions]

/-- Other registers and other regions stand. -/
theorem writeLrClk_others : (∀ b, b ≠ lrClkAt r.die r.n k → rd (writeLrClk s r k v) b = rd s b) ∧
    (∀ x, x ≠ r → getRegion (writeLrClk s r k v) x = getRegion s x) := by
  refine ⟨fun b hb => ?_, fun x hx => ?_⟩
  · simp only [writeLrClk]
    split
    · rw [rd_unless_modRegion, plainWrite, rd_wr_ne _ _ hb]
    · rw [setFlag_eq, rd_wr_ne _ _ hb, rd_unless_modRegion, plainWrite, rd_wr_ne _ _ hb]
  · rw [getRegion, writeLrClk_regions]
    split
    · rfl
    · exact getRegion_setRegion_ne s _ hx

theorem writeLrClk_ends_stop (h : bit v 63 = false) : mget false (getRegion (writeLrClk s r k v) r).stopped k = false := by
  rw [getRegion, writeLrClk_regions, h]
  change mget false (getRegion (modRegion s r _) r).stopped k = false
  rw [modRegion, getRegion_setRegion_same, mget_mset_same]

/-- The word that a command rewrites shows SWITCHING and the fields above it as they are. -/
theorem bits_clkWord {hi lo : Nat} (hlow : 51 ≤ lo) : bits (clkWord s r k) hi lo = fld s (lrClkAt r.die r.n k) hi lo :=
  bits_setBits_ne _ _ (by omega)

theorem bit_clkWord {i : Nat} (hlow : 51 ≤ i) : bit (clkWord s r k) i = flag s (lrClkAt r.die r.n k) i :=
  bit_setBits_ne _ (by omega)

/-- A change of EN alone leaves SEL, the divisor and SWITCHING. -/
theorem fld_writeLrClk_setEn (b : Bool) : fld (writeLrClk s r k (setBit (clkWord s r k) 63 b)) (lrClkAt r.die r.n k) 62 51 =
    fld s (lrClkAt r.die r.n k) 62 51 := by
  refine bits_congr fun i hlow hhigh => ?_
  rcases Nat.eq_or_lt_of_le hlow with rfl | hfield
  · refine (flag_writeLrClk_switching s r k _).trans ?_
    rw [bits_setBit_ne _ _ (by decide), bits_clkWord s r k (by decide), bne_self_eq_false, Bool.or_false]
    rfl
  · rw [getLsbD_rd_writeLrClk s r k _ hfield]
    exact (bit_setBit_ne _ _ (by omega)).trans (bit_clkWord s r k hlow)

end

/-! ### PLLs, trees and pins (R243-R247, R266-R270) -/

section
variable {s : State} (hrun : running s = true)
include hrun

theorem exec_lrPllWrite (d u : Fin 4) (v : Word) : exec (.lrPllWrite d u v) s = .next (writePll s d u v) :=
  whenRunning_running hrun (writePll · d u v)

theorem exec_pllLock (d u : Fin 4) :
    exec (.pllLock d u) s = .next (if flag s (lrPllAt d u) 63 then setFlag s (lrPllAt d u) 47 true else s) :=
  whenRunning_running hrun fun s => if flag s (lrPllAt d u) 63 then setFlag s (lrPllAt d u) 47 true else s

theorem exec_locklost (d u : Fin 4) : exec (.locklost d u) s = .next (if flag s (lrPllAt d u) 63 && flag s (lrPllAt d u) 47 then
    logEvent (setFlag (setFlag s (lrPllAt d u) 47 false) (lrPllAt d u) 46 true) 0x0034 d u 2 1 else s) := by
  change execLocklost d u s = _
  rw [execLocklost, whenRunning_running hrun]

theorem exec_clockSelect (r : RegionId) (k : Fin 8) (v : Word) :
    exec (.clockSelect r k v) s = .next (writeLrClk s r k (setBits (clkWord s r k) 62 60 (bits v 62 60))) :=
  whenRunning_running hrun fun s => writeLrClk s r k (setBits (clkWord s r k) 62 60 (bits v 62 60))

theorem exec_clockDivide (r : RegionId) (k : Fin 8) (v : Word) :
    exec (.clockDivide r k v) s = .next (writeLrClk s r k (setBits (clkWord s r k) 59 52 (bits v 59 52))) :=
  whenRunning_running hrun fun s => writeLrClk s r k (setBits (clkWord s r k) 59 52 (bits v 59 52))

theorem exec_clockEnable (r : RegionId) (k : Fin 8) : exec (.clockEnable r k) s = .next (writeLrClk s r k (setBit (clkWord s r k) 63 true)) :=
  whenRunning_running hrun fun s => writeLrClk s r k (setBit (clkWord s r k) 63 true)

theorem exec_clockDisable (r : RegionId) (k : Fin 8) : exec (.clockDisable r k) s = .next (writeLrClk s r k (setBit (clkWord s r k) 63 false)) :=
  whenRunning_running hrun fun s => writeLrClk s r k (setBit (clkWord s r k) 63 false)

theorem exec_forced (r : RegionId) (k : Fin 8) : exec (.forced r k) s = .next (if flag s (lrClkAt r.die r.n k) 51 then
    setFlag (setFlag s (lrClkAt r.die r.n k) 51 false) (lrClkAt r.die r.n k) 49 true else s) := by
  change execForced r k s = _
  rw [execForced, whenRunning_running hrun]

theorem exec_overspeed (r : RegionId) (k : Fin 8) (n : Nat) : exec (.overspeed r k n) s = .next (if 1020 < n && treeRuns s r k then
    logEvent (setFlag (setRegion s r { getRegion s r with stopped := mset false (getRegion s r).stopped k true }) (lrClkAt r.die r.n k) 50 true)
      0x0034 r.die (0x100 + 8 * r.n.val + k.val) 2 2 else s) := by
  change execOverspeed r k n s = _
  rw [execOverspeed, whenRunning_running hrun]
  rfl

/-- R266: VMATCH says whether the supply agrees with VSEL; a disagreement raises an event. -/
theorem exec_ioBank (d : Fin 4) (b : Bool) :
    let s1 := setFlag { s with supply := mset none s.supply d (some b) } (ioBankAt d) 61 (flag s (ioBankAt d) 62 == b)
    exec (.ioBank d b) s = .next (if flag s (ioBankAt d) 62 = b then s1 else logEvent s1 0x0035 d d 2 0) := by
  change execIoBank d b s = _
  rw [execIoBank, whenRunning_running hrun]
  simp only [bankCheck, mget_mset_same, ← beq_iff_eq (a := flag s (ioBankAt d) 62)]
  rfl

end

/-! ### A 9-bit port of a block memory (R249-R251) -/

section
variable (x : Region) (m : Fin 64) (portB : Bool) (a : BramAccess)

/-- R249: the memories after a write of the 9-bit word, or after a read. -/
def laneStored : Region := if a.we.getLsbD 0 then setBram x m a.addr (BitVec.ofNat 9 a.din.toNat) else x

/-- R251: the word that the port takes for its output: the stored one, the written one, or none by the write mode. -/
def laneShown : Option (BitVec 72) :=
  let kept := BitVec.ofNat 72 (bramLane x m a.addr).toNat
  if a.we.getLsbD 0 = false then some kept
  else if a.wmode = 0 then some (BitVec.ofNat 72 (a.din.toNat % 512)) else if a.wmode = 1 then some kept else none

/-- The region after an access of its 9-bit port: the output register has shown what it held, and the word is presented. -/
def laneAccessed : Region :=
  let k := 2 * m.val + (if portB then 1 else 0)
  let y := { showLatched (laneStored x m a) k with
    bramUe := mset false (laneStored x m a).bramUe (bramPhys m a.addr) false,
    dclk := mset 0 (laneStored x m a).dclk k (1 + 2 * a.tree.val + (if a.oreg then 1 else 0)) }
  (laneShown x m a).elim y fun v => showWord y k a.oreg v false

@[simp] theorem showLatched_bram (k : Nat) : (showLatched x k).bram = x.bram := by
  unfold showLatched
  split <;> rfl

@[simp] theorem showWord_bram (k : Nat) (oreg : Bool) (v : BitVec 72) (bad : Bool) : (showWord x k oreg v bad).bram = x.bram := by
  unfold showWord
  split <;> rfl

/-- What a port's output register shows does not depend on the memories. -/
theorem showLatched_laneStored_dout (k : Nat) : (showLatched (laneStored x m a) k).dout = (showLatched x k).dout := by
  have hlat : (laneStored x m a).dlat = x.dlat := by
    unfold laneStored
    split <;> rfl
  have hout : (laneStored x m a).dout = x.dout := by
    unfold laneStored
    split <;> rfl
  unfold showLatched
  rw [hlat]
  split
  · rw [hout]
  · exact hout

theorem laneAccessed_bram : (laneAccessed x m portB a).bram = (laneStored x m a).bram := by
  unfold laneAccessed
  cases laneShown x m a <;> simp

variable {x m a}

theorem laneShown_word (h : a.we.getLsbD 0 = false ∨ a.wmode = 0 ∨ a.wmode = 1) : laneShown x m a =
    some (BitVec.ofNat 72 (if a.we.getLsbD 0 = true ∧ a.wmode = 0 then a.din.toNat % 512 else (bramLane x m a.addr).toNat)) := by
  unfold laneShown
  cases hwe : a.we.getLsbD 0 with
  | false => rfl
  | true =>
    obtain h | h | h := h
    · exact absurd (hwe.symm.trans h) (by decide)
    · rw [h]
      rfl
    · rw [h]
      rfl

theorem laneShown_none (hwe : a.we.getLsbD 0 = true) (hmode : a.wmode = 2) : laneShown x m a = none := by
  rw [laneShown, hwe, hmode]
  rfl

theorem laneAccessed_shown {v : BitVec 72} (h : laneShown x m a = some v) :
    let k := 2 * m.val + (if portB then 1 else 0)
    (a.oreg = false → mget 0 (laneAccessed x m portB a).dout k = v ∧ mget false (laneAccessed x m portB a).derr k = false) ∧
    (a.oreg = true → mget none (laneAccessed x m portB a).dlat k = some (v, false) ∧
      (laneAccessed x m portB a).dout = (showLatched x k).dout) := by
  simp only [laneAccessed, h, Option.elim_some, showWord]
  refine ⟨fun hdirect => ?_, fun hreg => ?_⟩
  · simp [hdirect]
  · simp [hreg, showLatched_laneStored_dout]

theorem laneAccessed_unshown (h : laneShown x m a = none) :
    (laneAccessed x m portB a).dout = (showLatched x (2 * m.val + (if portB then 1 else 0))).dout := by
  simp only [laneAccessed, h, Option.elim_none, showLatched_laneStored_dout]

theorem bramLane_laneAccessed (n l : Nat) : bramLane (laneAccessed x m portB a) n l = bramLane (laneStored x m a) n l := by
  rw [bramLane, laneAccessed_bram, bramLane]

theorem bramLane_laneStored_same (hwe : a.we.getLsbD 0 = true) : bramLane (laneStored x m a) m a.addr = BitVec.ofNat 9 a.din.toNat := by
  rw [laneStored, if_pos hwe]
  exact mget_mset_same ..

/-- Every other word of the region stands. -/
theorem bramLane_laneStored_ne {n l : Nat} (hl : l < 8192) (haddr : a.addr < 8192) (hne : n ≠ m.val ∨ l ≠ a.addr) :
    bramLane (laneStored x m a) n l = bramLane x n l := by
  unfold laneStored
  split
  · exact mget_mset_ne _ _ _ _ (by omega)
  · rfl

end

theorem bramLanes_lane {addr : Nat} (h : addr < 8192) : bramLanes 9 addr = [addr] := by
  simp [bramLanes, Nat.mod_eq_of_lt h]

theorem bramWord_lane (addr : Nat) (v : BitVec 9) : bramWord 9 addr [v] = BitVec.ofNat 72 v.toNat := by
  simp [bramWord]

theorem bramPut_lane (addr : Nat) (old : BitVec 9) (din : BitVec 72) : bramPut 9 addr 0 old din = BitVec.ofNat 9 din.toNat := by
  simp [bramPut]

section
variable {s : State} {r : RegionId} {m : Fin 64} {portB : Bool} {a : BramAccess} (hrun : running s = true)
include hrun

theorem exec_bramAccess_still (h : treeRuns s r a.tree = false ∨ a.en = false ∨ a.width ∉ [1, 2, 4, 9, 18, 36, 72]) (ecc : Ecc) :
    exec (.bramAccess r m portB a ecc) s = .next s := by
  have hstill : (!treeRuns s r a.tree || !a.en || !([1, 2, 4, 9, 18, 36, 72].contains a.width)) = true := by
    rcases h with h | h | h
    · rw [h, Bool.not_false, Bool.true_or, Bool.true_or]
    · rw [h, Bool.not_false, Bool.or_true, Bool.true_or]
    · rw [List.contains_eq_mem, decide_eq_false h, Bool.not_false, Bool.or_true]
  change execBramAccess r m portB a ecc s = _
  rw [execBramAccess, whenRunning_running hrun, if_pos hstill]

variable (htree : treeRuns s r a.tree = true) (hen : a.en = true) (hwidth : a.width = 9) (hclash : a.clash = [])
  (haddr : a.addr < 8192) (hgood : mget false (getRegion s r).bramUe (bramPhys m a.addr) = false)
include htree hen hwidth hclash haddr hgood

/-- R249-R251: one lane is read, or written and read by the write mode. -/
theorem exec_bramAccess_lane :
    exec (.bramAccess r m portB a .good) s =
      .next { setRegion s r (laneAccessed (getRegion s r) m portB a) with freeCtr := s.freeCtr + 16 } := by
  have hecc : (Ecc.good == Ecc.uncorrectable) = false ∧ (Ecc.good == Ecc.corrected) = false := by decide
  change execBramAccess r m portB a .good s = _
  rw [execBramAccess, whenRunning_running hrun, if_neg (by simp [htree, hen, hwidth])]
  simp only [hwidth, bramLanes_lane haddr, bramWord_lane, bramPut_lane, hclash, clashOf, List.find?_nil, Option.map_none, List.zipIdx_cons,
    List.zipIdx_nil, List.map_cons, List.map_nil, List.length_cons, List.length_nil, Nat.zero_add, List.range_one, List.any_cons,
    List.any_nil, List.filter_cons, List.filter_nil, List.getD_cons_zero, List.headD_cons, Nat.mod_self, if_true, hgood, hecc, Bool.or_false,
    Bool.false_and, Bool.false_eq_true, if_false, laneAccessed, laneStored, laneShown]
  cases hwe : a.we.getLsbD 0 with
  | false => rfl
  | true =>
    simp only [if_true, Bool.not_true, Bool.false_eq_true, if_false, List.foldl_cons, List.foldl_nil, BitVec.toNat_ofNat,
      List.getD_cons_zero, Bool.true_eq_false]
    obtain hmode | hmode | hmode : a.wmode = 0 ∨ a.wmode = 1 ∨ a.wmode = 2 := by omega
    all_goals
      rw [hmode]
      rfl

/-- The access reaches only its region and the free values. -/
theorem exec_bramAccess_region :
    ∃ u, exec (.bramAccess r m portB a .good) s = .next u ∧ u = { s with regions := u.regions, freeCtr := s.freeCtr + 16 } ∧
      (∀ y, y ≠ r → getRegion u y = getRegion s y) ∧ getRegion u r = laneAccessed (getRegion s r) m portB a :=
  ⟨_, exec_bramAccess_lane hrun htree hen hwidth hclash haddr hgood, rfl, fun _ hy => getRegion_setRegion_ne s _ hy,
    getRegion_setRegion_same s r _⟩

end

/-! ### Requests of a region's endpoint (R33, R271) -/

section
variable {s : State} {r : RegionId} (isWrite fab : Bool) {addr : BitVec 64} {len : Nat} (ord : Fin 4) {data : List Byte} {tag : Fin 256}

/-- The packet of a request of user logic, before its destination is known. -/
def endpointPacket (s : State) (r : RegionId) (isWrite fab : Bool) (addr : BitVec 64) (len : Nat) (ord : Fin 4) (data : List Byte)
    (tag : Fin 256) : Packet :=
  { op := if isWrite then 0x02 else 0x01, nflit := BitVec.ofNat 3 (cdiv (if isWrite then data else []).length 64), len, fab,
    src := BitVec.ofNat 12 (regNode r), tag := BitVec.ofNat 10 tag, gen := (getTag s (regNode r) tag).gen, addr,
    od := { ord := BitVec.ofNat 2 ord }, data := if isWrite then data else [] }

theorem exec_endpointRequest_sent (hrun : running s = true) (hclock : endpointClocked s r = true)
    (hopen : fstate s r.die (102 + r.n.val) = 0) (hfree : (getTag s (regNode r) tag).use = none)
    (hok : endpointOk isWrite addr.toNat len data = true) :
    let s1 := holdTag s (regNode r) tag (.endpoint r)
    let p := endpointPacket s r isWrite fab addr len ord data tag
    let e := mapStatus s.part .region addr.toNat len
    exec (.endpointRequest r isWrite fab addr len ord data tag) s = .next
      (if fab then inject s1 { p with dest := engineNode s1 (addr.toNat / 2 ^ 44) }
        else if e ≠ 0 then refuseAtOnce s1 p e else inject s1 { p with dest := serveNode s1 addr.toNat }) := by
  change execEndpointRequest r isWrite fab addr len ord data tag s = _
  rw [execEndpointRequest, whenRunning_running hrun, if_neg (by simp [hclock, hopen, hfree, hok])]
  rfl

theorem exec_endpointRequest_still (hrun : running s = true) (h : endpointClocked s r = false ∨ fstate s r.die (102 + r.n.val) ≠ 0 ∨
    (getTag s (regNode r) tag).use ≠ none ∨ endpointOk isWrite addr.toNat len data = false) :
    exec (.endpointRequest r isWrite fab addr len ord data tag) s = .next s := by
  change execEndpointRequest r isWrite fab addr len ord data tag s = _
  rw [execEndpointRequest, whenRunning_running hrun, if_pos]
  obtain h | h | h | h := h
  · simp [h]
  · simp [h]
  · simp [Option.isSome_iff_ne_none.2 h]
  · simp [h]

end

/-- Settles O38: PLLs and pins by their registers, a tree by what a write of its register takes, a 9-bit port by what its access
stores and shows, an endpoint by its tag, clock and fence. -/
theorem regionBlocksComplete : Obligations.RegionBlocksComplete := by
  refine ⟨fun s d r k v hrun => ⟨fun u => ⟨fun hbad => ?_, fun hlegal => ?_, fun hen => ?_, fun hoff => ?_, fun hen hlock => ?_,
      fun hoff => ?_⟩, ?_, whenRunning_running hrun fun s => setFlag s (lrClkAt r.die r.n k) 51 false, fun hswitch => ?_, fun hdone => ?_,
      ?_, ?_, ?_, fun n hfast hruns => ?_, fun n hslow => ?_, exec_ioBank hrun d,
      whenRunning_running hrun fun s => setFlag s (ioBankAt d) 63 true, fun p o => ?_⟩,
    fun s r hrun => ⟨fun m b a ecc hstill => exec_bramAccess_still hrun hstill ecc,
      fun m b a htree hen hwidth hclash haddr hgood => ?_,
      fun w fab addr len ord data tag => ⟨fun hclock hopen hfree hok => ?_, exec_endpointRequest_still w fab ord hrun⟩⟩⟩
  · rw [exec_lrPllWrite hrun, writePll, if_pos hbad]
  · rw [exec_lrPllWrite hrun, writePll, if_neg (Bool.eq_false_iff.1 hlegal)]
  · rw [exec_pllLock hrun, if_pos hen]
  · rw [exec_pllLock hrun, if_neg (Bool.eq_false_iff.1 hoff)]
  · rw [exec_locklost hrun, if_pos (by rw [hen, hlock]; rfl)]
  · rw [exec_locklost hrun, if_neg (by rcases hoff with h | h <;> simp [h])]
  · refine ⟨_, exec_clockSelect hrun r k v, ?_, ?_, ?_, ?_, writeLrClk_others s r k _⟩
    · rw [fld_writeLrClk s r k _ (by decide), bits_setBits_same _ _ (by decide) (by decide)]
      exact Nat.mod_eq_of_lt (bits_lt v 62 60)
    · rw [fld_writeLrClk s r k _ (by decide), bits_setBits_ne _ _ (by decide), bits_clkWord s r k (by decide)]
    · rw [flag_writeLrClk_en, bit_setBits_ne _ (by decide), bit_clkWord s r k (by decide)]
    · rw [flag_writeLrClk_switching, bits_setBits_same _ _ (by decide) (by decide), Nat.mod_eq_of_lt (bits_lt v 62 60)]
  · rw [exec_forced hrun, if_pos hswitch]
  · rw [exec_forced hrun, if_neg (Bool.eq_false_iff.1 hdone)]
  · refine ⟨_, exec_clockDivide hrun r k v, ?_, ?_, ?_, ?_, writeLrClk_others s r k _⟩
    · rw [fld_writeLrClk s r k _ (by decide), bits_setBits_same _ _ (by decide) (by decide)]
      exact Nat.mod_eq_of_lt (bits_lt v 59 52)
    · rw [fld_writeLrClk s r k _ (by decide), bits_setBits_ne _ _ (by decide), bits_clkWord s r k (by decide)]
    · rw [flag_writeLrClk_en, bit_setBits_ne _ (by decide), bit_clkWord s r k (by decide)]
    · rw [flag_writeLrClk_switching, bits_setBits_ne _ _ (by decide), bits_clkWord s r k (by decide), bne_self_eq_false, Bool.or_false]
  · refine ⟨_, exec_clockEnable hrun r k, ?_, fld_writeLrClk_setEn s r k true, writeLrClk_others s r k _⟩
    rw [flag_writeLrClk_en, bit_setBit_same _ _ (by decide)]
  · have hoff : bit (setBit (clkWord s r k) 63 false) 63 = false := bit_setBit_same _ _ (by decide)
    refine ⟨_, exec_clockDisable hrun r k, ?_, fld_writeLrClk_setEn s r k false, ?_, writeLrClk_ends_stop s r k _ hoff,
      writeLrClk_others s r k _⟩
    · rw [flag_writeLrClk_en, hoff]
    · simp only [treeRuns, flag_writeLrClk_en, hoff, Bool.and_false, Bool.false_and]
  · rw [exec_overspeed hrun, if_pos (by simp [hfast, hruns])]
  · rw [exec_overspeed hrun, if_neg]
    rcases hslow with h | h
    · simp [Nat.not_lt.2 h]
    · simp [h]
  · change execIoDelayStep d p o s = _
    rw [execIoDelayStep, whenRunning_running hrun]
  · obtain ⟨u, hexec, hframe, hothers, hregion⟩ := exec_bramAccess_region hrun htree hen hwidth hclash haddr hgood
    refine ⟨u, hexec, hframe, hothers, ?_⟩
    rw [hregion]
    refine ⟨fun hread => ?_, fun hwe => ⟨?_, fun n l _ hl hne => ?_⟩, fun hshown => laneAccessed_shown b (laneShown_word hshown),
      fun hwe hmode => laneAccessed_unshown b (laneShown_none hwe hmode)⟩
    · rw [laneAccessed_bram, laneStored, hread]
      rfl
    · rw [bramLane_laneAccessed, bramLane_laneStored_same hwe]
    · rw [bramLane_laneAccessed, bramLane_laneStored_ne hl haddr hne]
  · rw [exec_endpointRequest_sent w fab ord hrun hclock hopen hfree hok]
    refine ⟨fun hfab => ?_, fun hlocal hbad => ?_, fun hlocal hmapped => ?_⟩
    · rw [if_pos hfab]
      rfl
    · rw [if_neg (by simp [hlocal]), if_pos hbad]
      rfl
    · rw [if_neg (by simp [hlocal]), if_neg (by simp [hmapped])]
      rfl

end Sys2Proof.Machine
end

section
/-! SUPPORT. What a stopped device, an event and a write of a register or an object leave as it was (R290, R433-R435, R503). -/

namespace Sys2Proof.Machine
open Sys2Proof

/-! ### A stopped device (R290) -/

theorem whenRunning_stopped {s : State} (h : running s = false) (f : State → State) : whenRunning s f = .next s := by
  simp [whenRunning, h]

/-- Settles O6: each of these commands belongs to a clocked part, so it is run under `whenRunning`. -/
theorem stoppedDeviceUnchanged : Obligations.StoppedDeviceUnchanged := by
  intro s hstop c hc
  rcases hc with ⟨t, f, rfl | rfl | rfl | rfl | rfl | rfl | rfl | rfl | rfl⟩ | ⟨t, rfl | rfl | rfl | rfl⟩ | ⟨t, f, rfl⟩ |
    ⟨t, q, rfl | rfl | rfl | rfl | rfl | rfl⟩ | ⟨t, n, rfl | rfl | rfl⟩ | ⟨p, rfl | rfl | rfl | rfl | rfl | rfl | rfl | rfl⟩ |
    ⟨p, r, rfl⟩ | ⟨d, r, p, rfl⟩ | ⟨d, ch, pc, rfl⟩ | ⟨d, ch, pc, e, rfl⟩ | ⟨d, q, v, e, rfl⟩ | ⟨d, q, e, rfl⟩ | ⟨r, rfl | rfl | rfl⟩ |
    ⟨r, m, b, a, e, rfl⟩ | ⟨p, rfl | rfl⟩ | ⟨p, m, y, k, rfl⟩ | ⟨u, rfl⟩ | rfl | rfl
  all_goals
    rw [exec]
    exact whenRunning_stopped hstop _

/-! ### Writes of registers alone -/

/-- Nothing but registers changes. -/
def RegsOnly (s u : State) : Prop := u = { s with csr := u.csr }

theorem RegsOnly.refl (s : State) : RegsOnly s s := rfl

theorem RegsOnly.trans {s u v : State} (h : RegsOnly s u) (k : RegsOnly u v) : RegsOnly s v := by
  rw [RegsOnly] at h k ⊢
  rw [k, h]

theorem RegsOnly.field {α : Type} {s u : State} (h : RegsOnly s u) (f : State → α) (hf : ∀ v c, f { v with csr := c } = f v) :
    f u = f s := by
  rw [RegsOnly] at h
  rw [h, hf]

theorem wr_regsOnly (s : State) (a : Nat) (v : Word) : RegsOnly s (wr s a v) := rfl
theorem setFld_regsOnly (s : State) (a hi lo v : Nat) : RegsOnly s (setFld s a hi lo v) := wr_regsOnly ..
theorem setFlag_regsOnly (s : State) (a i : Nat) (b : Bool) : RegsOnly s (setFlag s a i b) := wr_regsOnly ..

theorem foldl_regsOnly {α : Type} {f : State → α → State} (hf : ∀ s x, RegsOnly s (f s x)) (s : State) (l : List α) :
    RegsOnly s (l.foldl f s) :=
  List.foldlRecOn l f (RegsOnly.refl s) fun u hu x _ => hu.trans (hf u x)

theorem fld_setFlag_other (s : State) {a c : Nat} (i hi lo : Nat) (b : Bool) (h : c ≠ a) : fld (setFlag s a i b) c hi lo = fld s c hi lo := by
  rw [fld, setFlag_eq, rd_wr_ne _ _ h, fld]

theorem fld_congr {s u : State} (hpart : u.part = s.part) (hcsr : u.csr = s.csr) (a hi lo : Nat) : fld u a hi lo = fld s a hi lo := by
  rw [fld, fld, rd, rd, hpart, hcsr]

/-! ### Integer objects -/

theorem objN_congr {s u : State} (hpart : u.part = s.part) (hmgmt : u.mgmt = s.mgmt) (idx sub : Nat) : objN u idx sub = objN s idx sub := by
  rw [objN, objN, objGet, objGet, hpart, hmgmt]

theorem rd_objSetN (s : State) (idx sub v a : Nat) : rd (objSetN s idx sub v) a = rd s a := rfl

theorem objN_objSetN_same (s : State) (idx sub v : Nat) :
    objN (objSetN s idx sub v) idx sub = v % 256 ^ tyBytes (((objInfo s.part idx sub).map (·.ty)).getD 1) := by
  rw [objN, objSetN, objGet_objSet_same, leNat_leBytes]

theorem objN_objSetN_ne (s : State) {idx sub idx' sub' : Nat} (v : Nat) (h : idx' * 256 + sub' ≠ idx * 256 + sub) :
    objN (objSetN s idx sub v) idx' sub' = objN s idx' sub' := by
  rw [objN, objSetN, objGet_objSet_ne _ _ h, objN]

/-! ### Events -/

/-- Nothing changes but registers, the log and what the management controller holds. -/
def EventFrame (s u : State) : Prop := u = { s with csr := u.csr, log := u.log, mgmt := u.mgmt }

theorem EventFrame.refl (s : State) : EventFrame s s := rfl

theorem EventFrame.trans {s u v : State} (h : EventFrame s u) (k : EventFrame u v) : EventFrame s v := by
  rw [EventFrame] at h k ⊢
  rw [k, h]

theorem EventFrame.field {α : Type} {s u : State} (h : EventFrame s u) (f : State → α)
    (hf : ∀ v c l m, f { v with csr := c, log := l, mgmt := m } = f v) : f u = f s := by
  rw [EventFrame] at h
  rw [h, hf]

theorem wr_eventFrame (s : State) (a : Nat) (v : Word) : EventFrame s (wr s a v) := rfl
theorem setFlag_eventFrame (s : State) (a i : Nat) (b : Bool) : EventFrame s (setFlag s a i b) := wr_eventFrame ..
theorem objSetN_eventFrame (s : State) (idx sub v : Nat) : EventFrame s (objSetN s idx sub v) := rfl

/-- An event is written to the log, its two registers and the counts of 0x0E01. -/
theorem logEvent_eventFrame (s : State) (code die unit sev detail : Nat) : EventFrame s (logEvent s code die unit sev detail) := by
  unfold logEvent
  dsimp only
  generalize hu : (if sev = 0 then s else objSetN s 0x0E01 sev (objN s 0x0E01 sev + 1)) = u
  have hcounted : EventFrame s u := by
    rw [← hu]
    split
    · exact .refl s
    · exact objSetN_eventFrame ..
  refine hcounted.trans ?_
  split
  · rfl
  · split <;> rfl

theorem objN_logEvent_ne (s : State) (code die unit detail : Nat) {sev idx sub : Nat} (h : idx * 256 + sub ≠ 0x0E01 * 256 + sev) :
    objN (logEvent s code die unit sev detail) idx sub = objN s idx sub := by
  unfold logEvent
  dsimp only
  generalize hu : (if sev = 0 then s else objSetN s 0x0E01 sev (objN s 0x0E01 sev + 1)) = u
  have hcounted : objN u idx sub = objN s idx sub := by
    rw [← hu]
    split
    · rfl
    · exact objN_objSetN_ne s _ h
  rw [← hcounted]
  split
  · rfl
  · split <;> rfl

/-- A register that is neither the watchdog's nor one of the log's reads through an event as before. -/
theorem fld_logEvent_ne (s : State) (code die unit sev detail : Nat) {a : Nat} (hi lo : Nat) (hnew : a ≠ logNewAt) (hovr : a ≠ logOvrAt) :
    fld (logEvent s code die unit sev detail) a hi lo = fld s a hi lo := by
  rw [fld, rd_logEvent_ne _ _ _ _ _ _ hnew hovr, fld]

end Sys2Proof.Machine
end

section
/-! SUPPORT. The Amber freeze, its triggers, the thaw and the read-out (R288-R294). -/

namespace Sys2Proof.Machine
open Sys2Proof

/-! ### Registers of ports, channels and S0 lie apart (R30) -/

/-- RL_WDOG, RL_LOGNEW and RL_LOGOVR lie behind the link block of S0. -/
theorem pstat_ne_reliability (p : PortId) {off : Nat} (hlow : 0xB00000 ≤ off) (hhigh : off < 2 ^ 32) : pstat p ≠ csrAt 4 off := by
  unfold pstat lkPortAt lkAt csrAt csrBase
  omega

theorem pstat_ne_logNewAt (p : PortId) : pstat p ≠ logNewAt := pstat_ne_reliability p (by decide) (by decide)
theorem pstat_ne_logOvrAt (p : PortId) : pstat p ≠ logOvrAt := pstat_ne_reliability p (by decide) (by decide)
theorem pstat_ne_wdogAt (p : PortId) : pstat p ≠ wdogAt := pstat_ne_reliability p (by decide) (by decide)

theorem pstat_ne_hbmChAt (p : PortId) (d : Nat) {ch : Nat} (hch : ch < 48) : pstat p ≠ hbmChAt d ch := by
  unfold pstat lkPortAt lkAt hbmChAt hbmAt csrAt csrBase
  omega

theorem pstat_inj {p q : PortId} (h : pstat p = pstat q) : p = q := by
  obtain ⟨d, n⟩ := p
  obtain ⟨e, m⟩ := q
  simp only [pstat, lkPortAt, lkAt, csrAt, csrBase] at h
  rw [PortId.mk.injEq]
  omega

theorem portState_logEvent (s : State) (code die unit sev detail : Nat) (p : PortId) :
    portState (logEvent s code die unit sev detail) p = portState s p :=
  fld_logEvent_ne _ _ _ _ _ _ _ _ (pstat_ne_logNewAt p) (pstat_ne_logOvrAt p)

/-! ### The freeze (R288-R290) -/

/-- The trigger is in the log, and the freeze objects show its cause, its scope and its source (R294). -/
def freezeShown (s : State) (pair : Bool) (cause source : Nat) : State :=
  objSetN (objSetN (objSetN (logEvent s 0x0060 4 0 2 (1 + 4 * cause)) 0xF012 2 cause) 0xF012 3 (if pair then 1 else 0)) 0xF012 4 source

/-- The messages of the freeze leave (R289). -/
def freezeSent (s : State) (pair : Bool) (hops : Nat) : State :=
  { s with linkOut := s.linkOut ++ (allPorts s).flatMap (freezeMsg s pair hops) }

/-- The state that the stop sequence ends in (R290). -/
def frozen (s : State) (pair : Bool) (hops cause source : Nat) : State :=
  objSetN (setFlag (freezeSent (freezeShown s pair cause source) pair hops) wdogAt 62 false) 0xF012 1 2

section
variable (s : State) (pair : Bool) (hops cause source : Nat)

theorem freezeNow_frozen (hstate : amberState s = 0) (hpower : s.pins.pwrGood = true) :
    freezeNow s pair hops cause source = frozen s pair hops cause source := by
  rw [freezeNow, if_neg (by simp [hstate, hpower])]
  rfl

theorem freezeNow_still (h : amberState s ≠ 0 ∨ s.pins.pwrGood = false) : freezeNow s pair hops cause source = s :=
  if_pos (by simpa using h)

theorem freezeShown_eventFrame : EventFrame s (freezeShown s pair cause source) :=
  (((logEvent_eventFrame ..).trans (objSetN_eventFrame ..)).trans (objSetN_eventFrame ..)).trans (objSetN_eventFrame ..)

theorem rd_freezeShown {a : Nat} (hnew : a ≠ logNewAt) (hovr : a ≠ logOvrAt) : rd (freezeShown s pair cause source) a = rd s a := by
  rw [freezeShown, rd_objSetN, rd_objSetN, rd_objSetN, rd_logEvent_ne _ _ _ _ _ _ hnew hovr]

theorem rd_freezeSent (a : Nat) : rd (freezeSent s pair hops) a = rd s a := rfl

theorem portState_freezeShown (p : PortId) : portState (freezeShown s pair cause source) p = portState s p := by
  rw [portState, fld, rd_freezeShown _ _ _ _ (pstat_ne_logNewAt p) (pstat_ne_logOvrAt p), portState, fld]

theorem freezeMsg_congr {s u : State} (hports : u.ports = s.ports) (hfabric : u.fabric = s.fabric)
    (hstate : ∀ p, portState u p = portState s p) (pair : Bool) (hops : Nat) : freezeMsg u pair hops = freezeMsg s pair hops := by
  funext p
  simp only [freezeMsg, toTwin, partnerDev, getPort, ownDev, hports, hfabric, hstate]
  rfl

theorem frozen_linkOut : (frozen s pair hops cause source).linkOut = s.linkOut ++ (allPorts s).flatMap (freezeMsg s pair hops) := by
  have hframe := freezeShown_eventFrame s pair cause source
  have hall : allPorts (freezeShown s pair cause source) = allPorts s := hframe.field allPorts fun _ _ _ _ => rfl
  have hmsg := freezeMsg_congr (hframe.field State.ports fun _ _ _ _ => rfl) (hframe.field State.fabric fun _ _ _ _ => rfl)
    (portState_freezeShown s pair cause source) pair hops
  rw [frozen, objSetN, objSet_linkOut, setFlag_linkOut, freezeSent, hmsg, hall, hframe.field State.linkOut fun _ _ _ _ => rfl]

/-- Nothing changes but registers, the log, what the management controller holds, and what is on its way on the links. -/
theorem frozen_field {α : Type} (f : State → α)
    (hf : ∀ v c l m o, f { v with csr := c, log := l, mgmt := m, linkOut := o } = f v) : f (frozen s pair hops cause source) = f s := by
  have hlast : EventFrame (freezeSent (freezeShown s pair cause source) pair hops) (frozen s pair hops cause source) :=
    (setFlag_eventFrame ..).trans (objSetN_eventFrame ..)
  calc f (frozen s pair hops cause source)
    _ = f (freezeSent (freezeShown s pair cause source) pair hops) := hlast.field f fun v c l m => hf v c l m v.linkOut
    _ = f (freezeShown s pair cause source) := hf _ _ _ _ _
    _ = f s := (freezeShown_eventFrame s pair cause source).field f fun v c l m => hf v c l m v.linkOut

theorem rd_frozen {a : Nat} (hwdog : a ≠ wdogAt) (hnew : a ≠ logNewAt) (hovr : a ≠ logOvrAt) :
    rd (frozen s pair hops cause source) a = rd s a := by
  rw [frozen, rd_objSetN, setFlag_eq, rd_wr_ne _ _ hwdog, rd_freezeSent, rd_freezeShown _ _ _ _ hnew hovr]

theorem amberState_frozen : amberState (frozen s pair hops cause source) = 2 := objN_objSetN_same _ 0xF012 1 2

theorem running_frozen : running (frozen s pair hops cause source) = false := by
  rw [running, amberState_frozen]
  exact Bool.and_false _

/-- Of the freeze objects, only STATE is written after the freeze has shown where it came from. -/
theorem objN_frozen {sub : Nat} (hsub : sub ≠ 1) :
    objN (frozen s pair hops cause source) 0xF012 sub = objN (freezeShown s pair cause source) 0xF012 sub :=
  objN_objSetN_ne _ _ (by omega)

theorem objN_frozen_cause (h : cause < 256) : objN (frozen s pair hops cause source) 0xF012 2 = cause := by
  rw [objN_frozen _ _ _ _ _ (by decide), freezeShown, objN_objSetN_ne _ _ (by decide), objN_objSetN_ne _ _ (by decide), objN_objSetN_same]
  exact Nat.mod_eq_of_lt h

theorem objN_frozen_pair : objN (frozen s pair hops cause source) 0xF012 3 = if pair then 1 else 0 := by
  rw [objN_frozen _ _ _ _ _ (by decide), freezeShown, objN_objSetN_ne _ _ (by decide), objN_objSetN_same]
  cases pair <;> rfl

theorem objN_frozen_source (h : source < 2 ^ 32) : objN (frozen s pair hops cause source) 0xF012 4 = source := by
  rw [objN_frozen _ _ _ _ _ (by decide), freezeShown, objN_objSetN_same]
  exact Nat.mod_eq_of_lt h

end

/-! ### The triggers (R288) -/

theorem exec_freeze {s : State} {v : BitVec 8} (h : v = 1 ∨ v = 2) :
    exec (.freeze v) s = .next (freezeNow s (v == 2) (objN s 0xF010 3) 2 0) := by
  have hnum : v.toNat = 1 ∨ v.toNat = 2 := by bv_omega
  have hpair : (v.toNat == 2) = (v == 2) := by rcases h with rfl | rfl <;> rfl
  change Host.Outcome.next (doFreeze s v.toNat) = _
  rw [doFreeze, if_pos hnum, hpair]

theorem exec_freeze_still {s : State} {v : BitVec 8} (h : amberState s ≠ 0 ∨ (v ≠ 1 ∧ v ≠ 2)) : exec (.freeze v) s = .next s := by
  by_cases hv : v = 1 ∨ v = 2
  · rw [exec_freeze hv, freezeNow_still]
    rcases h with h | h
    · exact .inl h
    · exact absurd hv (not_or.2 h)
  · change Host.Outcome.next (doFreeze s v.toNat) = _
    rw [doFreeze, if_neg]
    rintro (h1 | h2)
    · exact hv (.inl (BitVec.eq_of_toNat_eq h1))
    · exact hv (.inr (BitVec.eq_of_toNat_eq h2))

section
variable {s : State} {p : PortId} {pair : Bool}

theorem exec_freezeMessage (hactive : portState s p = 6) (hop : freezeAccepted s p pair = true) (hops : Fin 8) :
    exec (.freezeMessage p pair hops) s = .next (freezeNow s (pair || toTwin s p) hops 3 ((partnerDev s p).getD 0)) := by
  change Host.Outcome.next (doFreezeMessage s p pair hops) = _
  rw [doFreezeMessage, if_pos (by simp [hactive, hop])]

theorem exec_freezeMessage_still (h : portState s p ≠ 6 ∨ freezeAccepted s p pair = false) (hops : Fin 8) :
    exec (.freezeMessage p pair hops) s = .next s := by
  change Host.Outcome.next (doFreezeMessage s p pair hops) = _
  rw [doFreezeMessage, if_neg]
  rcases h with h | h <;> simp [h]

end

theorem exec_amberN (s : State) (low : Bool) : exec (.amberN low) s = execAmberN low s := rfl

/-! ### The thaw (R292) -/

theorem restartPort_regsOnly (s : State) (p : PortId) : RegsOnly s (restartPort s p) := by
  unfold restartPort
  dsimp only
  split
  · exact (setFld_regsOnly ..).trans (setFlag_regsOnly ..)
  · exact .refl s

theorem portState_restarted (s : State) (p : PortId) : portState (setFlag (setPortState s p 1) (pstat p) 59 false) p = 1 := by
  rw [portState, fld_setFlag_ne _ _ _ (by decide), setPortState, fld_setFld_same _ _ _ (by decide) (by decide)]
  rfl

theorem portState_restartPort_ne (s : State) {p q : PortId} (h : p ≠ q) : portState (restartPort s q) p = portState s p := by
  have hne : pstat p ≠ pstat q := fun e => h (pstat_inj e)
  unfold restartPort
  dsimp only
  split
  · rw [portState, fld_setFlag_other _ _ _ _ _ hne, setPortState, fld_setFld_other _ _ _ _ _ _ hne, portState]
  · rfl

theorem portState_restartPort {s : State} {p : PortId} (hlow : 2 ≤ portState s p) (hhigh : portState s p ≤ 7) :
    portState (restartPort s p) p = 1 := by
  rw [restartPort, if_pos ⟨hlow, hhigh⟩, portState_restarted]

/-- A port that has come back to DETECT stays there while the others come back. -/
theorem portState_restartPort_detect {s : State} {p : PortId} (h : portState s p = 1) (q : PortId) : portState (restartPort s q) p = 1 := by
  by_cases hq : p = q
  · rw [← hq, restartPort, if_neg (by omega), h]
  · rw [portState_restartPort_ne s hq, h]

/-- Every port that was on its way up or ACTIVE starts again in DETECT. -/
theorem portState_restartPorts {p : PortId} : ∀ (l : List PortId) (s : State),
    portState s p = 1 ∨ (p ∈ l ∧ 2 ≤ portState s p ∧ portState s p ≤ 7) → portState (l.foldl restartPort s) p = 1
  | [], _, h => h.resolve_right fun k => absurd k.1 List.not_mem_nil
  | q :: l, s, h => by
    refine portState_restartPorts l (restartPort s q) ?_
    rcases h with h | ⟨hp, hlow, hhigh⟩
    · exact .inl (portState_restartPort_detect h q)
    · by_cases hq : p = q
      · subst hq
        exact .inl (portState_restartPort hlow hhigh)
      · rw [portState_restartPort_ne s hq]
        exact .inr ⟨(List.mem_cons.1 hp).resolve_left hq, hlow, hhigh⟩

/-- What the checks that a thaw makes due leave as it was: all but HBM, the log, and registers of channels and of the log. -/
structure ChecksDue (s u : State) : Prop where
  others : u = { s with csr := u.csr, hbm := u.hbm, log := u.log, mgmt := u.mgmt }
  amber : amberState u = amberState s
  port : ∀ p, portState u p = portState s p

/-- Only registers, the log and the management controller's objects change, and neither STATE of the freeze nor a port's state. -/
theorem EventFrame.checksDue {s u : State} (h : EventFrame s u) (hamber : amberState u = amberState s)
    (hport : ∀ p, portState u p = portState s p) : ChecksDue s u := by
  refine ⟨?_, hamber, hport⟩
  rw [h.field State.hbm fun _ _ _ _ => rfl]
  exact h

theorem ChecksDue.refl (s : State) : ChecksDue s s := ⟨rfl, rfl, fun _ => rfl⟩

theorem ChecksDue.trans {s u v : State} (h : ChecksDue s u) (k : ChecksDue u v) : ChecksDue s v := by
  refine ⟨?_, k.amber.trans h.amber, fun p => (k.port p).trans (h.port p)⟩
  rw [k.others, h.others]

theorem logEvent_checksDue (s : State) (code die unit sev detail : Nat) (h : sev < 256) :
    ChecksDue s (logEvent s code die unit sev detail) :=
  (logEvent_eventFrame ..).checksDue (objN_logEvent_ne _ _ _ _ _ (by omega)) (portState_logEvent _ _ _ _ _ _)

theorem ChecksDue.field {α : Type} {s u : State} (h : ChecksDue s u) (f : State → α)
    (hf : ∀ v c g l m, f { v with csr := c, hbm := g, log := l, mgmt := m } = f v) : f u = f s := by
  rw [h.others, hf]

theorem setFlag_checksDue (s : State) {a : Nat} (h : ∀ p, pstat p ≠ a) (i : Nat) (b : Bool) : ChecksDue s (setFlag s a i b) :=
  (setFlag_eventFrame ..).checksDue (objN_congr rfl rfl _ _) fun p => fld_setFlag_other s i _ _ b (h p)

theorem setPc_checksDue (s : State) (d ch pc : Nat) (x : PcState) : ChecksDue s (setPc s d ch pc x) :=
  ⟨rfl, objN_congr rfl rfl _ _, fun _ => fld_congr rfl rfl _ _ _⟩

theorem recheckDue_checksDue (s : State) (d : Nat) {ch : Nat} (hch : ch < 48) : ChecksDue s (recheckDue s d ch) := by
  unfold recheckDue
  dsimp only
  split
  · exact .refl s
  · generalize hv : setPc (setPc s d ch 0 _) d ch 1 _ = v
    have hmarked : ChecksDue s v := hv ▸ (setPc_checksDue ..).trans (setPc_checksDue ..)
    have hflag := setFlag_checksDue v (fun p => pstat_ne_hbmChAt p d hch) 60 true
    exact (hmarked.trans hflag).trans (logEvent_checksDue _ _ _ _ _ _ (by decide))

theorem channel_lt {c : Nat × Nat} (h : c ∈ allChannels) : c.2 < 48 := by
  simp only [allChannels, List.mem_flatMap, List.mem_map, List.mem_range] at h
  obtain ⟨d, hd, ch, hch, rfl⟩ := h
  exact hch

/-- A check is due on every channel (R331). -/
def rechecked (s : State) : State := allChannels.foldl (fun s c => recheckDue s c.1 c.2) s

theorem rechecked_checksDue (s : State) : ChecksDue s (rechecked s) :=
  List.foldlRecOn allChannels _ (ChecksDue.refl s) fun u hu _ hc => hu.trans (recheckDue_checksDue u _ (channel_lt hc))

/-- The ports have started again, and STATE shows RUNNING. -/
def restarted (s : State) : State := objSetN ((allPorts s).foldl restartPort s) 0xF012 1 0

/-- The watchdog counts again when it had been armed (R411). -/
def rearmed (s : State) : State := { setFlag s wdogAt 62 (fabricReadyNow s) with beat := nowNs s 4 }

/-- The thaw is in the log, with the cause of the freeze. -/
def thawLogged (s : State) : State := logEvent s 0x0060 4 0 2 (3 + 4 * objN s 0xF012 2)

/-- The state that the thaw sequence ends in (R292). -/
def thawed (s : State) : State := thawLogged (rearmed (rechecked (restarted s)))

theorem exec_thaw {s : State} (hstate : amberState s = 2) (hpin : s.pins.amberN = true) : exec (.thaw 1) s = .next (thawed s) := by
  change Host.Outcome.next (doThaw s 1) = _
  rw [doThaw, if_neg (by simp [hstate, hpin])]
  rfl

theorem exec_thaw_still {s : State} {v : BitVec 8} (h : v ≠ 1 ∨ amberState s ≠ 2 ∨ s.pins.amberN = false) :
    exec (.thaw v) s = .next s := by
  change Host.Outcome.next (doThaw s v.toNat) = _
  rw [doThaw, if_pos]
  rcases h with h | h | h
  · have hv : v.toNat ≠ 1 := fun e => h (BitVec.eq_of_toNat_eq e)
    simp [hv]
  · simp [h]
  · simp [h]

section
variable (s : State)

theorem restarted_ports (p : PortId) : portState (restarted s) p = portState ((allPorts s).foldl restartPort s) p := rfl

theorem amberState_restarted : amberState (restarted s) = 0 := objN_objSetN_same _ 0xF012 1 0

theorem amberState_rearmed : amberState (rearmed s) = amberState s := objN_congr rfl rfl _ _

theorem portState_rearmed (p : PortId) : portState (rearmed s) p = portState s p :=
  (setFlag_checksDue s pstat_ne_wdogAt 62 (fabricReadyNow s)).port p

theorem thawLogged_checksDue : ChecksDue s (thawLogged s) := logEvent_checksDue _ _ _ _ _ _ (by decide)

theorem amberState_thawed : amberState (thawed s) = 0 := by
  rw [thawed, (thawLogged_checksDue _).amber, amberState_rearmed, (rechecked_checksDue _).amber, amberState_restarted]

theorem portState_thawed (p : PortId) : portState (thawed s) p = portState ((allPorts s).foldl restartPort s) p := by
  rw [thawed, (thawLogged_checksDue _).port, portState_rearmed, (rechecked_checksDue _).port, restarted_ports]

/-- Nothing changes but registers, HBM, the log, what the management controller holds, and the watchdog's last beat. -/
theorem thawed_field {α : Type} (f : State → α)
    (hf : ∀ v c g l m b, f { v with csr := c, hbm := g, log := l, mgmt := m, beat := b } = f v) : f (thawed s) = f s := by
  have hports : RegsOnly s ((allPorts s).foldl restartPort s) := foldl_regsOnly restartPort_regsOnly s _
  have hrearmed : ∀ u, f (rearmed u) = f u := fun u => hf u (rearmed u).csr u.hbm u.log u.mgmt (nowNs u 4)
  calc f (thawed s)
    _ = f (rearmed (rechecked (restarted s))) := (thawLogged_checksDue _).field f fun v c g l m => hf v c g l m v.beat
    _ = f (rechecked (restarted s)) := hrearmed _
    _ = f (restarted s) := (rechecked_checksDue _).field f fun v c g l m => hf v c g l m v.beat
    _ = f ((allPorts s).foldl restartPort s) := (objSetN_eventFrame ..).field f fun v c l m => hf v c v.hbm l m v.beat
    _ = f s := hports.field f fun v c => hf v c v.hbm v.log v.mgmt v.beat

theorem beat_thawed : (thawed s).beat = nowNs (thawed s) 4 := by
  have hrest : ∀ u, (rearmed u).beat = nowNs (rearmed u) 4 := fun u => rfl
  rw [thawed, (thawLogged_checksDue _).field State.beat fun _ _ _ _ _ => rfl, hrest,
    (thawLogged_checksDue _).field (nowNs · 4) fun _ _ _ _ _ => rfl]

end

/-! ### The read-out (R293) -/

/-- The status and the bytes of a read-out are stored in their objects. -/
def readOut (s : State) : State := objSet (objSetN s 0xF020 5 (readoutNow s).1) 0xF020 4 (readoutNow s).2

theorem exec_readout (s : State) : exec .readout s = .next { readOut s with freeCtr := s.freeCtr + 0x1000 } := rfl

theorem objGet_readOut (s : State) : objGet (readOut s) 0xF020 4 = (readoutNow s).2 := objGet_objSet_same ..

theorem objN_readOut (s : State) : objN (readOut s) 0xF020 5 = (readoutNow s).1 % 256 := by
  rw [objN, readOut, objGet_objSet_ne _ _ (by decide)]
  exact objN_objSetN_same s 0xF020 5 _

theorem readOut_others (s : State) : readOut s = { s with mgmt := (readOut s).mgmt } := by
  unfold readOut
  generalize (readoutNow s).1 = e, (readoutNow s).2 = d
  rfl

/-- Settles O40: a trigger by its source and by the state that it meets; a thaw restarts the ports and makes the checks due. -/
theorem freezeCompletes : Obligations.FreezeCompletes := by
  refine fun s => ⟨fun v hv _ _ => exec_freeze hv, fun v h => exec_freeze_still h, fun p pair hops h k => exec_freezeMessage h k hops,
    fun p pair hops h => exec_freezeMessage_still h hops, ⟨fun hstep => ?_, fun hstep => ?_⟩, exec_amberN s false,
    fun pair hops cause source hstate hpower hcause hsource => ?_, fun pair hops cause source => freezeNow_still s pair hops cause source,
    fun hstate hpin => ?_, fun v => exec_thaw_still,
    ⟨_, exec_readout s, objN_readOut s, objGet_readOut s, congrArg (fun u : State => { u with freeCtr := s.freeCtr + 0x1000 }) (readOut_others s)⟩⟩
  · rw [exec_amberN, execAmberN, if_pos (by simpa using hstep)]
    rfl
  · rw [exec_amberN, execAmberN, if_neg (by simpa using hstep)]
    rfl
  · rw [freezeNow_frozen s pair hops cause source hstate hpower]
    have hkeeps {α : Type} := frozen_field s pair hops cause source (α := α)
    have hamber := amberState_frozen s pair hops cause source
    exact ⟨hamber, objN_frozen_cause s pair hops cause source hcause, objN_frozen_pair s pair hops cause source,
      objN_frozen_source s pair hops cause source hsource, running_frozen s pair hops cause source, by simp [hbmSelfRefresh, hamber],
      fun p => by simp [electricalIdle, hamber], hkeeps State.tiles fun _ _ _ _ _ => rfl, hkeeps State.hbm fun _ _ _ _ _ => rfl,
      hkeeps State.regions fun _ _ _ _ _ => rfl, hkeeps State.noc fun _ _ _ _ _ => rfl, frozen_linkOut s pair hops cause source,
      fun a => rd_frozen s pair hops cause source⟩
  · have hamber := amberState_thawed s
    refine ⟨_, exec_thaw hstate hpin, hamber, by simp [hbmSelfRefresh, hamber], thawed_field s State.tiles fun _ _ _ _ _ _ => rfl,
      thawed_field s State.regions fun _ _ _ _ _ _ => rfl, thawed_field s State.noc fun _ _ _ _ _ _ => rfl, beat_thawed s,
      fun p hp hlow hhigh => ?_⟩
    rw [portState_thawed, portState_restartPorts _ _ (.inr ⟨hp, hlow, hhigh⟩)]

end Sys2Proof.Machine
end

section
/-! SUPPORT. Resets and the power rails: what lasts and what is lost (R433, R481, R491-R493, R503). -/

namespace Sys2Proof.Machine
open Sys2Proof

/-! ### The management controller (R442, R503) -/

theorem mfind_eq_none {α : Type} {k : Nat} : ∀ {m : SMap α}, (∀ e ∈ m, e.1 ≠ k) → mfind m k = none
  | [], _ => rfl
  | e :: r, h => by
    rw [mfind, if_neg (h e List.mem_cons_self)]
    exact mfind_eq_none fun e he => h e (List.mem_cons_of_mem _ he)

/-- No object gains a value by an Owner's end. -/
theorem mem_ownerWaits_objs {m : Mgmt} {n : Nat} {e : Nat × List Byte} (h : e ∈ (ownerWaits m n).objs) : e ∈ m.objs := by
  unfold ownerWaits at h
  split at h
  · exact (List.mem_filter.1 h).1
  · exact h

theorem mem_mgmtReset_objs {p : Part} {m : Mgmt} {e : Nat × List Byte} (h : e ∈ (mgmtReset p true m).objs) :
    objOutlasts p true e.1 = true := by
  simp only [mgmtReset, if_true] at h
  split at h
  · exact (List.mem_filter.1 (mem_ownerWaits_objs h)).2
  · exact (List.mem_filter.1 h).2

/-- The freeze's own objects do not outlast a reset. -/
theorem objOutlasts_amberState (p : Part) (standby : Bool) : objOutlasts p standby (0xF012 * 256 + 1) = false := rfl

theorem mfind_mgmtReset_amberState (p : Part) (m : Mgmt) : mfind (mgmtReset p true m).objs (0xF012 * 256 + 1) = none := by
  refine mfind_eq_none fun e he hkey => ?_
  have hlasts := mem_mgmtReset_objs he
  rw [hkey, objOutlasts_amberState] at hlasts
  exact Bool.false_ne_true hlasts

/-! ### A device reset (R503) -/

/-- The registers that a reset of `s` sets in a state `n`: those of the log as they stood, the fused fields of GR_BOOT and MODE of GR_PCIE. -/
def resetRegs (s n : State) : State :=
  setFlag (setFld (setFld (wr (wr n logNewAt (rd s logNewAt)) logOvrAt (rd s logOvrAt)) grBoot 51 45 (bits (rd s grBoot) 51 45))
    grBoot 44 41 (bits (rd s grBoot) 44 41)) grPcie 63 s.pins.gmode

section
variable (s n : State)

theorem rd_resetRegs_logNewAt : rd (resetRegs s n) logNewAt = rd s logNewAt := by
  rw [resetRegs, setFlag_eq, rd_wr_ne _ _ (by decide), setFld_eq, rd_wr_ne _ _ (by decide), setFld_eq, rd_wr_ne _ _ (by decide),
    rd_wr_ne _ _ (by decide), rd_wr_same]

theorem svnFused_resetRegs : svnFused (resetRegs s n) = svnFused s := by
  rw [svnFused, resetRegs, fld_setFlag_other _ _ _ _ _ (by decide), fld_setFld_ne _ _ _ (by decide),
    fld_setFld_same _ _ _ (by decide) (by decide)]
  exact Nat.mod_eq_of_lt (bits_lt _ _ _)

theorem revoked_resetRegs : revoked (resetRegs s n) = revoked s := by
  rw [revoked, resetRegs, fld_setFlag_other _ _ _ _ _ (by decide), fld_setFld_same _ _ _ (by decide) (by decide)]
  exact Nat.mod_eq_of_lt (bits_lt _ _ _)

theorem mode_resetRegs : flag (resetRegs s n) grPcie 63 = s.pins.gmode := flag_setFlag_same _ _ _ (by decide)

end

theorem rd_setFab (s : State) (f : Fabric) (a : Nat) : rd (setFab s f) a = rd s a := rfl

section
variable (s : State) (hbmPowered : Bool)

theorem deviceReset_regs : ∃ n f, deviceReset s hbmPowered = setFab (resetRegs s n) f := by
  unfold deviceReset
  dsimp only
  exact ⟨_, _, rfl⟩

theorem rd_deviceReset_logNewAt : rd (deviceReset s hbmPowered) logNewAt = rd s logNewAt := by
  obtain ⟨n, f, hreset⟩ := deviceReset_regs s hbmPowered
  rw [hreset, rd_setFab, rd_resetRegs_logNewAt]

theorem svnFused_deviceReset : svnFused (deviceReset s hbmPowered) = svnFused s := by
  obtain ⟨n, f, hreset⟩ := deviceReset_regs s hbmPowered
  rw [hreset, svnFused, fld, rd_setFab, ← fld, ← svnFused, svnFused_resetRegs]

theorem revoked_deviceReset : revoked (deviceReset s hbmPowered) = revoked s := by
  obtain ⟨n, f, hreset⟩ := deviceReset_regs s hbmPowered
  rw [hreset, revoked, fld, rd_setFab, ← fld, ← revoked, revoked_resetRegs]

theorem mode_deviceReset : flag (deviceReset s hbmPowered) grPcie 63 = s.pins.gmode := by
  obtain ⟨n, f, hreset⟩ := deviceReset_regs s hbmPowered
  rw [hreset, flag, rd_setFab, ← flag, mode_resetRegs]

theorem deviceReset_mgmt : (deviceReset s hbmPowered).mgmt = mgmtReset s.part true s.mgmt := rfl

theorem amberState_deviceReset : amberState (deviceReset s hbmPowered) = 0 := by
  rw [amberState, objN, objGet, deviceReset_mgmt, mfind_mgmtReset_amberState]
  rfl

end

/-! ### The pins and the rails (R491-R493) -/

theorem exec_rstN {s : State} (hpower : s.pins.pwrGood = true) : exec .rstN s = .next (deviceReset s true) :=
  congrArg Host.Outcome.next (if_pos hpower)

theorem exec_rstN_still {s : State} (hpower : s.pins.pwrGood = false) : exec .rstN s = .next s :=
  congrArg Host.Outcome.next (if_neg (Bool.eq_false_iff.1 hpower))

/-- GMODE is sampled as the dies come up. -/
def powered (s : State) (gmode : Bool) : State := { s with hot := [], pins := { s.pins with pwrGood := true, gmode := gmode } }

theorem exec_pwrGoodRise {s : State} (hstandby : s.pins.stbyGood = true) (hpower : s.pins.pwrGood = false) (gmode : Bool) :
    exec (.pwrGoodRise gmode) s = .next (deviceReset (powered s gmode) false) :=
  congrArg Host.Outcome.next (if_pos (by rw [hstandby, hpower]; rfl))

theorem exec_pwrGoodRise_still {s : State} (h : s.pins.stbyGood = false ∨ s.pins.pwrGood = true) (gmode : Bool) :
    exec (.pwrGoodRise gmode) s = .next s :=
  congrArg Host.Outcome.next (if_neg (by rcases h with h | h <;> simp [h]))

/-- The always-on domain has lost its standby rails. -/
def standbyLost (s : State) : State :=
  wr (wr { s with pins := { s.pins with stbyGood := false }, log := [], mgmt := mgmtReset s.part false s.mgmt } logNewAt 0) logOvrAt 0

theorem exec_stbyGoodFall {s : State} (h : s.pins.stbyGood = true) : exec .stbyGoodFall s = .next (standbyLost s) :=
  congrArg Host.Outcome.next (if_pos h)

theorem exec_stbyGoodFall_still {s : State} (h : s.pins.stbyGood = false) : exec .stbyGoodFall s = .next s :=
  congrArg Host.Outcome.next (if_neg (Bool.eq_false_iff.1 h))

theorem rd_standbyLost (s : State) : rd (standbyLost s) logNewAt = 0 ∧ rd (standbyLost s) logOvrAt = 0 := by
  refine ⟨?_, rd_wr_same _ _ _⟩
  rw [standbyLost, rd_wr_ne _ _ (by decide), rd_wr_same]

/-- What a fall of PWR_GOOD sends and logs (R368, R492); a frozen device sends nothing (R290). -/
def fallNoticed (s : State) : State := powerEvent (if amberState s = 0 then noticeTwin s else s) 4 4 7

/-- The control pins of dies without power (R499, R502). -/
def unpowered (s : State) : State :=
  { s with pins := { s.pins with pwrGood := false, devReady := false, thermN := true, thermHold := false } }

/-- The freeze, if one held the dies, is over. -/
def fallen (s : State) : State := objSetN (unpowered s) 0xF012 1 0

theorem fallen_tiles (s : State) : (fallen s).tiles = s.tiles := rfl
theorem fallen_linkOut (s : State) : (fallen s).linkOut = s.linkOut := rfl
theorem amberState_fallen (s : State) : amberState (fallen s) = 0 := objN_objSetN_same _ 0xF012 1 0

theorem running_fallen (s : State) : running (fallen s) = false := by
  have hpower : (fallen s).pins.pwrGood = false := rfl
  simp [running, hpower]

theorem exec_pwrGoodFall {s : State} (h : s.pins.pwrGood = true) :
    exec .pwrGoodFall s = .next (fallen (fallNoticed s)) :=
  congrArg Host.Outcome.next (if_neg (by simp [h]))

theorem exec_pwrGoodFall_still {s : State} (h : s.pins.pwrGood = false) : exec .pwrGoodFall s = .next s :=
  congrArg Host.Outcome.next (if_pos (by simp [h]))

theorem noticeTwin_tiles (s : State) : (noticeTwin s).tiles = s.tiles := by
  unfold noticeTwin
  split <;> rfl

theorem noticeTwin_linkOut (s : State) :
    (noticeTwin s).linkOut = if twinState s = 2 ∨ twinState s = 3 then s.linkOut ++ [.failNotice] else s.linkOut := by
  by_cases h : twinState s = 2 ∨ twinState s = 3
  · rw [noticeTwin, if_pos (by simpa using h), if_pos h, sendLink_linkOut]
  · rw [noticeTwin, if_neg (by simpa using h), if_neg h]

theorem fallNoticed_tiles (s : State) : (fallNoticed s).tiles = s.tiles := by
  have hevent : (fallNoticed s).tiles = (if amberState s = 0 then noticeTwin s else s).tiles :=
    (logEvent_eventFrame ..).field State.tiles fun _ _ _ _ => rfl
  rw [hevent]
  split
  · exact noticeTwin_tiles s
  · rfl

theorem fallNoticed_linkOut (s : State) : (fallNoticed s).linkOut =
    if amberState s = 0 ∧ (twinState s = 2 ∨ twinState s = 3) then s.linkOut ++ [.failNotice] else s.linkOut := by
  have hevent : (fallNoticed s).linkOut = (if amberState s = 0 then noticeTwin s else s).linkOut :=
    (logEvent_eventFrame ..).field State.linkOut fun _ _ _ _ => rfl
  rw [hevent]
  by_cases h : amberState s = 0
  · simp only [h, if_true, true_and]
    exact noticeTwin_linkOut s
  · simp only [h, if_false, false_and]

section
variable {s : State} {d : Fin 9}

theorem exec_railFault (hpower : s.pins.pwrGood = true) (hfitted : s.part.dieFitted d.val = true) : exec (.railFault d) s =
    .next (if amberState s = 0 then devFail s 0 d else { devFail s 0 d with linkOut := s.linkOut }) :=
  congrArg Host.Outcome.next (if_pos (by rw [hpower, hfitted]; rfl))

theorem exec_railFault_still (h : s.pins.pwrGood = false ∨ s.part.dieFitted d.val = false) : exec (.railFault d) s = .next s :=
  congrArg Host.Outcome.next (if_neg (by rcases h with h | h <;> simp [h]))

end

theorem exec_updReset {s : State} (hserved : updServed s false = true) (hpower : s.pins.pwrGood = true)
    (hstate : updState s false = 0 ∨ updState s false = 3) : exec .updReset s = .next (deviceReset (noticeTwin s) true) :=
  congrArg Host.Outcome.next (if_pos (by rcases hstate with h | h <;> simp [hserved, hpower, updMayReset, h]))

theorem exec_updReset_still {s : State}
    (h : updServed s false = false ∨ s.pins.pwrGood = false ∨ (updState s false ≠ 0 ∧ updState s false ≠ 3)) :
    exec .updReset s = .next s :=
  congrArg Host.Outcome.next (if_neg (by rcases h with h | h | ⟨h0, h3⟩ <;> simp_all [updMayReset]))

/-- Settles O55: a reset builds the device anew around what lasts; a fall of PWR_GOOD says so first, unless a freeze holds the device. -/
theorem resetsComplete : Obligations.ResetsComplete := by
  refine fun s => ⟨fun hpower => ⟨_, exec_rstN hpower, rfl, rfl, rfl, rfl, rfl, rfl, rfl, rfl, rfl, amberState_deviceReset s true, rfl, rfl,
      rd_deviceReset_logNewAt s true, svnFused_deviceReset s true, revoked_deviceReset s true⟩, exec_rstN_still,
    fun g hstandby hpower => ⟨_, exec_pwrGoodRise hstandby hpower g, rfl, rfl, rfl, rfl, rfl, rfl, rfl, mode_deviceReset (powered s g) false⟩,
    fun g h => exec_pwrGoodRise_still h g,
    fun hstandby => ⟨_, exec_stbyGoodFall hstandby, rfl, rfl, rfl, (rd_standbyLost s).1, (rd_standbyLost s).2, rfl, rfl, rfl⟩,
    exec_stbyGoodFall_still,
    fun hpower => ⟨_, exec_pwrGoodFall hpower, rfl, rfl, rfl, rfl, amberState_fallen _, running_fallen _,
      (fallen_tiles _).trans (fallNoticed_tiles s), (fallen_linkOut _).trans (fallNoticed_linkOut s)⟩,
    exec_pwrGoodFall_still, fun d hpower hfitted => ⟨fun hamber => ?_, fun hamber => ?_⟩, fun d => exec_railFault_still, exec_updReset,
    exec_updReset_still⟩
  · rw [exec_railFault hpower hfitted, if_pos hamber]
  · rw [exec_railFault hpower hfitted, if_neg hamber]

end Sys2Proof.Machine
end

section
/-! SUPPORT. Configuration of the logic regions: the commands, the load stream, the release and the scrub (R273-R287). -/

namespace Sys2Proof.Machine
open Sys2Proof

/-! ### Begin, clear, load port, fetch (R273, R284) -/

section
variable {s : State} {r : RegionId} (hrun : running s = true)
include hrun

theorem exec_cfgBegin : exec (.cfgBegin r) s = .next (doBegin s r) := whenRunning_running hrun fun s => doBegin s r
theorem exec_cfgClear : exec (.cfgClear r) s = .next (cfgWipe s r 7 0) := whenRunning_running hrun fun s => doClear s r
theorem exec_loadPortWrite (d : List Byte) : exec (.loadPortWrite r d) s = .next (loadPort s r d) :=
  whenRunning_running hrun fun s => loadPort s r d
theorem exec_cfgFetch : exec (.cfgFetch r) s = .next (doFetch s r) := whenRunning_running hrun fun s => doFetch s r
theorem exec_cfgCommit : exec (.cfgCommit r) s = .next (doCommit s r) := whenRunning_running hrun fun s => doCommit s r
theorem exec_cfgRelease : exec (.cfgRelease r) s = .next (doRelease s r) := whenRunning_running hrun fun s => doRelease s r
theorem exec_cfgHalt : exec (.cfgHalt r) s = .next (doHalt s r) := whenRunning_running hrun fun s => doHalt s r
theorem exec_cfgResume : exec (.cfgResume r) s = .next (doResume s r) := whenRunning_running hrun fun s => doResume s r
theorem exec_cfgFrame : exec (.cfgFrame r) s = .next (takeItem (fetchMore s r) r) :=
  whenRunning_running hrun fun s => takeItem (fetchMore s r) r

theorem exec_cfgClearDone : exec (.cfgClearDone r) s =
    .next (if (getRegion s r).busy = 1 ∨ (getRegion s r).busy = 7 then cfgIdle s r else s) :=
  whenRunning_running hrun fun s => if (getRegion s r).busy = 1 ∨ (getRegion s r).busy = 7 then cfgIdle s r else s

theorem exec_commitReadbackDone (hbusy : (getRegion s r).busy = 3) : exec (.commitReadbackDone r) s =
    .next (if (getRegion s r).header.map (·.crc) = some (regionCrc (getRegion s r)) then cfgIdle (setRegState s r 2) r
      else loadFail s r stCfgCrc (fld s (cfgReg r 8) 38 27)) := by
  rw [exec, execCommitReadbackDone, whenRunning_running hrun]
  dsimp only
  rw [if_neg (not_not.2 hbusy)]

theorem exec_commitReadbackDone_still (hbusy : (getRegion s r).busy ≠ 3) : exec (.commitReadbackDone r) s = .next s := by
  rw [exec, execCommitReadbackDone, whenRunning_running hrun]
  dsimp only
  rw [if_pos hbusy]

end

section
variable {s : State} {r : RegionId}

theorem doBegin_taken (h : regState s r ≠ 1 ∨ regBusy s r = true) : doBegin s r = cfgWipe s r 1 1 :=
  if_neg fun k => h.elim (· k.1) fun hbusy => Bool.false_ne_true (k.2.symm.trans hbusy)

theorem loadPort_taken (hstate : regState s r = 1) (hbusy : regBusy s r = false) (d : List Byte) :
    loadPort s r d = setRegion s r { getRegion s r with load := (getRegion s r).load ++ d } :=
  if_neg (by simp [hstate, hbusy])

theorem doFetch_outside (hstate : regState s r = 1) (hbusy : regBusy s r = false)
    (hout : userEnd s.part < fld s (cfgReg r 0x10) 47 0 + fld s (cfgReg r 0x18) 31 0) : doFetch s r = setCfgStatus s r stNocDenied := by
  unfold doFetch
  dsimp only
  rw [if_neg (by simp [hstate, hbusy]), if_pos hout]

/-- A FETCH from user HBM, by what its memory ports answer. -/
theorem doFetch_inside (hstate : regState s r = 1) (hbusy : regBusy s r = false)
    (hin : fld s (cfgReg r 0x10) 47 0 + fld s (cfgReg r 0x18) 31 0 ≤ userEnd s.part) : doFetch s r =
    let e := rangeRefusal s .region (fld s (cfgReg r 0x10) 47 0) (fld s (cfgReg r 0x18) 31 0)
    if e ≠ 0 then setCfgStatus s r e
    else fetchMore (cfgBusy (setRegion s r { getRegion s r with fetching := fld s (cfgReg r 0x18) 31 0 }) r 2 1) r := by
  unfold doFetch
  dsimp only
  rw [if_neg (by simp [hstate, hbusy]), if_neg (Nat.not_lt.2 hin), modRegion]

/-! ### The load stream (R276, R280) -/

/-- Without a fetch in progress no bytes arrive. -/
theorem fetchMore_idle (h : (getRegion s r).busy ≠ 2 ∨ (getRegion s r).fetching = 0) : fetchMore s r = s :=
  if_pos (h.elim .inl fun k => .inr (.inl k))

theorem takeItem_ready (hstate : regState s r = 1) (hwork : regBusy s r = false ∨ (getRegion s r).busy = 2)
    (hready : loadReady (getRegion s r) = true) : takeItem s r =
    let x := getRegion s r
    let t := setRegion s r { x with load := x.load.drop (loadNeed x) }
    if x.header.isNone then
      match parseHeader (x.load.take (loadNeed x)) with
      | some h => modRegion t r (fun x => { x with header := some h })
      | none => loadFail t r stCfgFrame (fld t (cfgReg r 8) 38 27)
    else takeFrame t r (x.load.take (loadNeed x)) :=
  if_neg (by rcases hwork with h | h <;> simp [hstate, hready, h])

theorem takeItem_still (h : regState s r ≠ 1 ∨ loadReady (getRegion s r) = false ∨ (regBusy s r = true ∧ (getRegion s r).busy ≠ 2)) :
    takeItem s r = s :=
  if_pos (by simpa using h)

theorem loadNeed_header {x : Region} (h : x.header = none) : loadNeed x = 3520 := by simp [loadNeed, h]
theorem loadNeed_frame {x : Region} {f : BitHeader} (h : x.header = some f) : loadNeed x = 1048 := by simp [loadNeed, h]

/-- Nothing is taken while no whole item has arrived. -/
theorem takeItems_waiting (h : loadReady (getRegion s r) = false) : ∀ n, takeItems r n s = s
  | 0 => rfl
  | n + 1 => by rw [takeItems, h]; rfl

end

section
variable {s : State} {r : RegionId} (hrun : running s = true)
include hrun

theorem exec_cfgFetchDone (hbusy : (getRegion s r).busy = 2) (hall : (getRegion s r).fetching = 0) : exec (.cfgFetchDone r) s =
    .next (let t := takeItems r (itemsDue s r) s; if (getRegion t r).busy = 2 then cfgIdle t r else t) := by
  rw [exec, execCfgFetchDone, whenRunning_running hrun]
  dsimp only
  rw [fetchMore_idle (.inr hall), if_neg (by simp [hbusy, hall])]

theorem exec_cfgFetchDone_still (hbusy : (getRegion s r).busy ≠ 2) : exec (.cfgFetchDone r) s = .next s := by
  rw [exec, execCfgFetchDone, whenRunning_running hrun]
  dsimp only
  rw [fetchMore_idle (.inl hbusy), if_pos (.inl hbusy)]

end

/-! ### The commit (R280) -/

section
variable {s : State} {r : RegionId} (hstate : regState s r = 1) (hbusy : regBusy s r = false)
  (hwait : loadReady (getRegion s r) = false)
include hstate hbusy hwait

theorem doCommit_noHeader (hheader : (getRegion s r).header = none) :
    doCommit s r = loadFail s r stCfgFrame (fld s (cfgReg r 8) 38 27) := by
  simp [doCommit, takeItems_waiting hwait, hstate, hbusy, hheader]

theorem doCommit_header {h : BitHeader} (hheader : (getRegion s r).header = some h) : doCommit s r =
    if (getRegion s r).seen.length ≠ h.frames || ((getRegion s r).seen.filter (· < 1730)).length ≠ 1730 then
      loadFail s r stCfgFrame (fld s (cfgReg r 8) 38 27)
    else if leBytes 64 (Config.sha512 (getRegion s r).frames).toNat ≠ h.digest then
      loadFail s r stAuthFail (fld s (cfgReg r 8) 38 27)
    else cfgBusy s r 3 1 := by
  unfold doCommit
  dsimp only
  rw [if_neg (by simp [hstate, hbusy]), takeItems_waiting hwait, if_neg (not_not.2 hstate), hheader]

end

/-! ### The release (R282) -/

theorem csrAt_ne_cfgReg {die off : Nat} (hdie : die < 9) (hoff : off < 2 ^ 32) (r : RegionId) (o : Nat) : csrAt die off ≠ cfgReg r o := by
  unfold cfgReg cfgAt csrAt csrBase
  omega

/-- A register takes its reset value. -/
def resetAt (s : State) (a : Nat) : State := wr s a (resetOf s.part a)

theorem rd_resetAt (a : Nat) : ∀ (l : List Nat) (s : State),
    rd (l.foldl resetAt s) a = if a ∈ l then resetOf s.part a else rd s a
  | [], s => rfl
  | b :: l, s => by
    rw [List.foldl_cons, rd_resetAt a l]
    by_cases hl : a ∈ l
    · rw [if_pos hl, if_pos (List.mem_cons_of_mem b hl), resetAt, wr_part]
    · by_cases hb : a = b
      · rw [if_neg hl, if_pos (hb ▸ List.mem_cons_self), resetAt, hb, rd_wr_same]
      · rw [if_neg hl, if_neg (by simp [hb, hl]), resetAt, rd_wr_ne _ _ hb]

/-- The four registers of each controller of a region (R272). -/
def regQcRegs (r : RegionId) : List Nat := (regQcs r).flatMap fun (q : Fin 512) => [0, 8, 0x10, 0x18].map fun o => qcAt r.die q o

theorem mem_regQcRegs {r : RegionId} {a : Nat} (h : a ∈ regQcRegs r) : ∃ off, a = csrAt r.die off ∧ 0x500000 ≤ off ∧ off < 0x508000 := by
  simp only [regQcRegs, List.mem_flatMap, List.mem_map] at h
  obtain ⟨q, -, o, ho, rfl⟩ := h
  have hsmall : o < 0x40 := by
    simp only [List.mem_cons, List.not_mem_nil, or_false] at ho
    omega
  have hq := q.isLt
  exact ⟨_, rfl, by omega, by omega⟩

theorem qcCfg_mem_regQcRegs {r : RegionId} {q : Fin 512} (h : q.val / 32 = r.n.val) : qcCfg r.die q ∈ regQcRegs r := by
  have hregion : q ∈ regQcs r := List.mem_filter.2 ⟨List.mem_finRange q, by simpa using h⟩
  rw [qcCfg]
  exact List.mem_flatMap.2 ⟨q, hregion, List.mem_map_of_mem List.mem_cons_self⟩

/-- The flip-flops have their initial values, and stopped trees may run again. -/
def logicHeld (s : State) (r : RegionId) : State := modRegion s r fun x => { holdLogic x with stopped := [] }

/-- R282 (1), (2): the trees have their CONTROL values, and the controllers are reset. -/
def treesLoaded (s : State) (r : RegionId) : State := (List.range 8).foldl (loadTree r) (logicHeld s r)
def qcsReset (s : State) (r : RegionId) : State := (regQcRegs r).foldl resetAt (treesLoaded s r)

/-- The state that the steps of a release end in. -/
def released (s : State) (r : RegionId) : State :=
  setCfgStatus (setRegState (setFstate (qcsReset s r) r.die (102 + r.n) 0) r 3) r stOk

theorem doRelease_taken {s : State} {r : RegionId} (hstate : regState s r = 2) (hbusy : regBusy s r = false) :
    doRelease s r = released s r := by
  unfold doRelease
  dsimp only
  rw [if_neg (by simp [hstate, hbusy])]
  simp only [released, qcsReset, treesLoaded, logicHeld, regQcRegs, List.foldl_flatMap, List.foldl_map, resetAt]

/-- The CONTROL word of a tree (R278). -/
def treeWord (x : Region) (k : Nat) : Word := BitVec.ofNat 64 (leNat ((List.range 8).map fun i => cfgByte x (8 * k + i)))

section
variable (s : State) (r : RegionId)

theorem loadTree_regsOnly (k : Nat) : RegsOnly s (loadTree r s k) := wr_regsOnly ..

theorem treesLoaded_regsOnly : RegsOnly (logicHeld s r) (treesLoaded s r) := foldl_regsOnly (fun s k => loadTree_regsOnly s r k) _ _

theorem released_regsOnly : RegsOnly (logicHeld s r) (released s r) := by
  have hqcs : RegsOnly (treesLoaded s r) (qcsReset s r) := foldl_regsOnly (fun s a => wr_regsOnly s a _) _ _
  exact ((((treesLoaded_regsOnly s r).trans hqcs).trans (setFld_regsOnly ..)).trans (setFld_regsOnly ..)).trans (setFld_regsOnly ..)

theorem getRegion_released : getRegion (released s r) r = { holdLogic (getRegion s r) with stopped := [] } :=
  ((released_regsOnly s r).field (getRegion · r) fun _ _ => rfl).trans (getRegion_setRegion_same ..)

theorem getRegion_released_ne {y : RegionId} (h : y ≠ r) : getRegion (released s r) y = getRegion s y :=
  ((released_regsOnly s r).field (getRegion · y) fun _ _ => rfl).trans (getRegion_setRegion_ne s _ h)

theorem lrClkAt_inj {d n k j : Nat} (h : lrClkAt d n k = lrClkAt d n j) : k = j := by
  unfold lrClkAt csrAt at h
  omega

theorem fld_loadTree_same (k : Nat) :
    fld (loadTree r s k) (lrClkAt r.die r.n k) 63 52 = bits (treeWord (getRegion s r) k) 63 52 := by
  rw [loadTree, fld, rd_wr_same, bits_setBits_ne _ _ (by decide), bits_setBits_same _ _ (by decide) (by decide), treeWord]
  exact Nat.mod_eq_of_lt (bits_lt _ _ _)

theorem fld_loadTree_ne {k j : Nat} (h : k ≠ j) :
    fld (loadTree r s j) (lrClkAt r.die r.n k) 63 52 = fld s (lrClkAt r.die r.n k) 63 52 := by
  rw [loadTree, fld, rd_wr_ne _ _ fun e => h (lrClkAt_inj e), fld]

/-- Every tree of the list takes its CONTROL value. -/
theorem fld_loadTrees (k : Nat) : ∀ (l : List Nat) (s : State), fld (l.foldl (loadTree r) s) (lrClkAt r.die r.n k) 63 52 =
    if k ∈ l then bits (treeWord (getRegion s r) k) 63 52 else fld s (lrClkAt r.die r.n k) 63 52
  | [], s => rfl
  | j :: l, s => by
    have hregion : getRegion (loadTree r s j) r = getRegion s r := (loadTree_regsOnly s r j).field (getRegion · r) fun _ _ => rfl
    rw [List.foldl_cons, fld_loadTrees k l, hregion]
    by_cases hl : k ∈ l
    · rw [if_pos hl, if_pos (List.mem_cons_of_mem j hl)]
    · by_cases hj : k = j
      · rw [if_neg hl, if_pos (hj ▸ List.mem_cons_self), ← hj, fld_loadTree_same]
      · rw [if_neg hl, if_neg (by simp [hj, hl]), fld_loadTree_ne _ _ hj]

/-- Behind the controllers, a release writes the endpoint's register and CFG_STAT alone. -/
theorem rd_released {off : Nat} (hlow : off < 0x600000) : rd (released s r) (csrAt r.die off) = rd (qcsReset s r) (csrAt r.die off) := by
  have hcfg : csrAt r.die off ≠ cfgReg r 8 := csrAt_ne_cfgReg (by omega) (by omega) r 8
  have hnoc : csrAt r.die off ≠ nocEpAt r.die (102 + r.n) := by
    unfold nocEpAt nocAt csrAt
    omega
  rw [released, setCfgStatus, setFld_eq, rd_wr_ne _ _ hcfg, setRegState, setFld_eq, rd_wr_ne _ _ hcfg, setFstate, setFld_eq, rd_wr_ne _ _ hnoc]

theorem fld_released_tree (k : Fin 8) :
    fld (released s r) (lrClkAt r.die r.n k) 63 52 = bits (treeWord (getRegion s r) k) 63 52 := by
  have hlow : 0x580000 + 0x100 * r.n.val + 8 * k.val < 0x600000 := by omega
  have hother : lrClkAt r.die r.n k ∉ regQcRegs r := fun h => by
    obtain ⟨off, he, -, hoff⟩ := mem_regQcRegs h
    unfold lrClkAt csrAt at he
    omega
  have hregion : getRegion (logicHeld s r) r = { holdLogic (getRegion s r) with stopped := [] } := getRegion_setRegion_same ..
  rw [fld, lrClkAt, rd_released s r hlow, ← lrClkAt, qcsReset, rd_resetAt, if_neg hother, ← fld, treesLoaded, fld_loadTrees,
    if_pos (List.mem_range.2 k.isLt), hregion]
  rfl

theorem qcOn_released {q : Fin 512} (h : q.val / 32 = r.n.val) : qcOn (released s r) r.die q = false := by
  have hq := q.isLt
  rw [qcOn, flag, qcCfg, qcAt, rd_released s r (by omega), ← qcAt, ← qcCfg, qcsReset, rd_resetAt, if_pos (qcCfg_mem_regQcRegs h), resetOf_qcCfg]
  decide

theorem regState_released : regState (released s r) r = 3 := by
  rw [regState, released, setCfgStatus, fld_setFld_ne _ _ _ (by decide), setRegState, fld_setFld_same _ _ _ (by decide) (by decide)]
  rfl

theorem status_released : fld (released s r) (cfgReg r 8) 58 51 = stOk := by
  rw [released, setCfgStatus, fld_setFld_same _ _ _ (by decide) (by decide)]
  rfl

theorem fstate_released : fstate (released s r) r.die (102 + r.n) = 0 := by
  have hcfg : nocEpAt r.die (102 + r.n) ≠ cfgReg r 8 := csrAt_ne_cfgReg (by omega) (by omega) r 8
  rw [fstate, released, setCfgStatus, fld_setFld_other _ _ _ _ _ _ hcfg, setRegState, fld_setFld_other _ _ _ _ _ _ hcfg, setFstate,
    fld_setFld_same _ _ _ (by decide) (by decide)]
  rfl

end

section
variable {s : State} {r : RegionId}

theorem doHalt_taken (hstate : regState s r = 3) (hbusy : regBusy s r = false) :
    doHalt s r = setCfgStatus (setRegState s r 4) r stOk :=
  if_neg (by simp [hstate, hbusy])

theorem doResume_taken (hstate : regState s r = 4) (hbusy : regBusy s r = false) :
    doResume s r = setCfgStatus (setRegState s r 3) r stOk :=
  if_neg (by simp [hstate, hbusy])

/-! ### The scrub (R286) -/

/-- A hard fault of a word is recorded and reported. -/
def hardRecorded (s : State) (r : RegionId) (w : Nat) : State :=
  logEvent (satFld (modRegion s r fun x => { x with hardWords := if x.hardWords.contains w then x.hardWords else w :: x.hardWords })
    (cfgReg r 0x20) 43 36) 0x0030 r.die r.n 2 (8 * w)

theorem exec_cfgScrubRead_nowhere (hrun : running s = true) {w : Nat} (h : regState s r ≤ 1 ∨ 221440 ≤ w) (e : Ecc) (again : Bool) :
    exec (.cfgScrubRead r w e again) s = .next s := by
  rw [exec, execCfgScrubRead, whenRunning_running hrun, if_pos (by simpa using h)]

/-- What a scrub read of a word of the region does, by the word's ECC. -/
def scrubbed (s : State) (r : RegionId) (w : Nat) : Ecc → Bool → State
  | .good, _ => s
  | .corrected, false => upsetFfs (incFld s (cfgReg r 0x20) 59 44) r
  | .corrected, true => hardRecorded (upsetFfs (incFld s (cfgReg r 0x20) 59 44) r) r w
  | .uncorrectable, _ => cfgUncorr s r w

theorem exec_cfgScrubRead (hrun : running s = true) {w : Nat} (hstate : 2 ≤ regState s r) (hw : w < 221440) (e : Ecc) (again : Bool) :
    exec (.cfgScrubRead r w e again) s = .next (scrubbed s r w e again) := by
  rw [exec, execCfgScrubRead, whenRunning_running hrun, if_neg (by simp only [Bool.or_eq_true, decide_eq_true_eq]; omega)]
  cases e with
  | good => rfl
  | corrected =>
    dsimp only
    cases again with
    | false => rw [if_neg Bool.false_ne_true, scrubbed]
    | true => rw [if_pos rfl, scrubbed, hardRecorded]
  | uncorrectable => rfl

theorem scrubbed_hard (s : State) (r : RegionId) (w : Nat) :
    scrubbed s r w .corrected true = hardRecorded (upsetFfs (incFld s (cfgReg r 0x20) 59 44) r) r w := rfl

theorem rd_upsetFfs (s : State) (r : RegionId) (a : Nat) : rd (upsetFfs s r) a = rd s a := by
  unfold upsetFfs
  split <;> rfl

theorem hardWords_hardRecorded (s : State) (r : RegionId) (w : Nat) : w ∈ (getRegion (hardRecorded s r w) r).hardWords := by
  have hregion : getRegion (hardRecorded s r w) r =
      { getRegion s r with hardWords := if (getRegion s r).hardWords.contains w then (getRegion s r).hardWords else w :: (getRegion s r).hardWords } :=
    ((logEvent_eventFrame ..).field (getRegion · r) fun _ _ _ _ => rfl).trans
      (((setFld_regsOnly ..).field (getRegion · r) fun _ _ => rfl).trans (getRegion_setRegion_same ..))
  rw [hregion]
  dsimp only
  split
  · next h => exact List.contains_iff_mem.1 h
  · exact List.mem_cons_self

theorem corrections_hardRecorded (s : State) (r : RegionId) (w : Nat) :
    fld (hardRecorded s r w) (cfgReg r 0x20) 59 44 = fld s (cfgReg r 0x20) 59 44 := by
  have hnew : cfgReg r 0x20 ≠ logNewAt := (csrAt_ne_cfgReg (by decide) (by decide) r _).symm
  have hovr : cfgReg r 0x20 ≠ logOvrAt := (csrAt_ne_cfgReg (by decide) (by decide) r _).symm
  rw [hardRecorded, fld_logEvent_ne _ _ _ _ _ _ _ _ hnew hovr, satFld, fld_setFld_ne _ _ _ (by decide)]
  exact fld_congr rfl rfl _ _ _

theorem corrections_upset (s : State) (r : RegionId) :
    fld (upsetFfs (incFld s (cfgReg r 0x20) 59 44) r) (cfgReg r 0x20) 59 44 = (fld s (cfgReg r 0x20) 59 44 + 1) % 65536 := by
  rw [fld, rd_upsetFfs, ← fld, incFld, fld_setFld_same _ _ _ (by decide) (by decide)]
  rfl

/-! ### Commands outside their states (R273, R284) -/

theorem doBegin_refused (hstate : regState s r = 1) (hbusy : regBusy s r = false) : doBegin s r = cfgRefuse s r := if_pos ⟨hstate, hbusy⟩
theorem doFetch_refused (h : regState s r ≠ 1 ∨ regBusy s r = true) : doFetch s r = cfgRefuse s r := if_pos h
theorem doCommit_refused (h : regState s r ≠ 1 ∨ regBusy s r = true) : doCommit s r = cfgRefuse s r := if_pos h
theorem loadPort_refused (h : regState s r ≠ 1 ∨ regBusy s r = true) (d : List Byte) : loadPort s r d = cfgRefuse s r := if_pos h
theorem doRelease_refused (h : regState s r ≠ 2 ∨ regBusy s r = true) : doRelease s r = cfgRefuse s r := if_pos h
theorem doHalt_refused (h : regState s r ≠ 3 ∨ regBusy s r = true) : doHalt s r = cfgRefuse s r := if_pos h
theorem doResume_refused (h : regState s r ≠ 4 ∨ regBusy s r = true) : doResume s r = cfgRefuse s r := if_pos h

end

/-- Settles O39: each command by its own meaning in the states that take it; every other command shows CFG_STATE alone. -/
theorem configurationCompletes : Obligations.ConfigurationCompletes := by
  refine ⟨fun s r hrun => ⟨fun h => ?_, exec_cfgClear hrun, fun h => ?_, fun h1 h7 => ?_, fun d hstate hbusy => ?_,
      fun hstate hbusy => ⟨fun hout => ?_, fun hin hrefused => ?_, fun hin hserved => ?_⟩, exec_cfgFetchDone hrun,
      exec_cfgFetchDone_still hrun,
      fun hall hstate hwork hready => ⟨fun f hheader => ?_, fun hheader h hlegal => ?_, fun hheader hbad => ?_⟩,
      fun hall h => ?_, fun h hstate hbusy hwait hheader => ⟨fun hcount => ?_, fun hseen hframes => ⟨fun hdigest => ?_, fun hdigest => ?_⟩⟩,
      fun hstate hbusy hwait hheader => ?_, fun hbusy => ⟨fun hcrc => ?_, fun hcrc => ?_⟩, exec_commitReadbackDone_still hrun,
      fun hstate hbusy => ?_, fun hstate hbusy => ?_, fun hstate hbusy => ?_, fun w e again h => exec_cfgScrubRead_nowhere hrun h e again,
      fun hstate w hw => ⟨exec_cfgScrubRead hrun hstate hw .good, exec_cfgScrubRead hrun hstate hw .corrected false,
        ⟨_, exec_cfgScrubRead hrun hstate hw .corrected true, ?_⟩,
        exec_cfgScrubRead hrun hstate hw .uncorrectable⟩⟩, fun s r hrun c hc => ?_⟩
  · rw [exec_cfgBegin hrun, doBegin_taken h]
  · rw [exec_cfgClearDone hrun, if_pos h]
  · rw [exec_cfgClearDone hrun, if_neg (not_or.2 ⟨h1, h7⟩)]
  · rw [exec_loadPortWrite hrun, loadPort_taken hstate hbusy]
  · rw [exec_cfgFetch hrun, doFetch_outside hstate hbusy hout]
  · rw [exec_cfgFetch hrun, doFetch_inside hstate hbusy hin]
    exact congrArg Host.Outcome.next (if_pos hrefused)
  · rw [exec_cfgFetch hrun, doFetch_inside hstate hbusy hin]
    exact congrArg Host.Outcome.next (if_neg (not_not.2 hserved))
  · rw [exec_cfgFrame hrun, fetchMore_idle (.inr hall), takeItem_ready hstate hwork hready]
    simp only [hheader, loadNeed_frame hheader, Option.isNone_some, Bool.false_eq_true, if_false]
  · rw [exec_cfgFrame hrun, fetchMore_idle (.inr hall), takeItem_ready hstate hwork hready]
    simp only [hheader, loadNeed_header hheader, hlegal, Option.isNone_none, if_true]
  · rw [exec_cfgFrame hrun, fetchMore_idle (.inr hall), takeItem_ready hstate hwork hready]
    simp only [hheader, loadNeed_header hheader, hbad, Option.isNone_none, if_true]
  · rw [exec_cfgFrame hrun, fetchMore_idle (.inr hall), takeItem_still h]
  · rw [exec_cfgCommit hrun, doCommit_header hstate hbusy hwait hheader, if_pos (by simpa using hcount)]
  · rw [exec_cfgCommit hrun, doCommit_header hstate hbusy hwait hheader, if_neg (by simp [hseen, hframes]), if_neg (not_not.2 hdigest)]
  · rw [exec_cfgCommit hrun, doCommit_header hstate hbusy hwait hheader, if_neg (by simp [hseen, hframes]), if_pos hdigest]
  · rw [exec_cfgCommit hrun, doCommit_noHeader hstate hbusy hwait hheader]
  · rw [exec_commitReadbackDone hrun hbusy, if_pos hcrc]
  · rw [exec_commitReadbackDone hrun hbusy, if_neg hcrc]
  · refine ⟨released s r, ?_, regState_released s r, status_released s r, getRegion_released s r, fun y => getRegion_released_ne s r,
      fld_released_tree s r, fun q => qcOn_released s r, fstate_released s r,
      (released_regsOnly s r).field State.tiles fun _ _ => rfl, (released_regsOnly s r).field State.hbm fun _ _ => rfl⟩
    rw [exec_cfgRelease hrun, doRelease_taken hstate hbusy]
  · rw [exec_cfgHalt hrun, doHalt_taken hstate hbusy]
  · rw [exec_cfgResume hrun, doResume_taken hstate hbusy]
  · rw [scrubbed_hard]
    exact ⟨hardWords_hardRecorded _ r w, by rw [corrections_hardRecorded, corrections_upset]⟩
  · rcases hc with ⟨rfl, hstate, hbusy⟩ | ⟨h, rfl | rfl | ⟨d, rfl⟩⟩ | ⟨h, rfl⟩ | ⟨h, rfl⟩ | ⟨h, rfl⟩
    · exact (exec_cfgBegin hrun).trans (congrArg _ (doBegin_refused hstate hbusy))
    · exact (exec_cfgFetch hrun).trans (congrArg _ (doFetch_refused h))
    · exact (exec_cfgCommit hrun).trans (congrArg _ (doCommit_refused h))
    · exact (exec_loadPortWrite hrun d).trans (congrArg _ (loadPort_refused h d))
    · exact (exec_cfgRelease hrun).trans (congrArg _ (doRelease_refused h))
    · exact (exec_cfgHalt hrun).trans (congrArg _ (doHalt_refused h))
    · exact (exec_cfgResume hrun).trans (congrArg _ (doResume_refused h))

end Sys2Proof.Machine
end

section
/-! SUPPORT. Route changes of a die, and the fences of endpoints (R307, R309, R313, R315). -/

namespace Sys2Proof.Machine
open Sys2Proof

/-! ### The shadow table (R307, R315) -/

/-- A table holds the port that was last written to an entry; written entries are stored 8 above their port. -/
theorem routeEntry_mput_same (m : SMap Nat) (d router : Nat) (kind : Bool) (index port : Nat) :
    routeEntry (mput m (routeKey d router kind index) (8 + port)) d router kind index = port := by
  simp only [routeEntry, mfind_mput_same, Nat.add_sub_cancel_left]

section
variable {s : State} {d : Nat} {v : Word}

theorem writeRtw_taken (hstate : rtState s d ≠ 1) (hindex : bit v 56 = false ∨ bits v 55 48 ≤ 8) :
    writeRtw s d v = { s with noc := { s.noc with
      shadow := mput s.noc.shadow (routeKey d (bits v 63 57) (bit v 56) (bits v 55 48)) (8 + bits v 47 45) } } := by
  have hgo : ¬(rtState s d = 1 || (bit v 56 && 8 < bits v 55 48)) = true := by
    rcases hindex with h | h <;> simp [hstate, h]
  exact if_neg hgo

theorem writeRtw_ignored (h : rtState s d = 1 ∨ (bit v 56 = true ∧ 8 < bits v 55 48)) : writeRtw s d v = s :=
  if_pos (by simpa using h)

end

/-! ### The route change (R309) -/

section
variable {s : State} (hrun : running s = true) (d : Fin 4)
include hrun

theorem exec_nocRtw (v : Word) : exec (.nocRtw d v) s = .next (writeRtw s d v) := whenRunning_running hrun fun s => writeRtw s d v

theorem exec_swap : exec (.swap d) s = .next (if rtState s d = 1 then s else setFld s (rtctl d) 62 61 1) :=
  whenRunning_running hrun fun s => startSwap s d

theorem exec_routeSwapDone : exec (.routeSwapDone d) s =
    .next (if rtState s d = 1 && !s.noc.flights.any (fun f => onDie d f.place) then
      setFld { s with noc := { s.noc with active := swapped s.noc.active s.noc.shadow d } } (rtctl d) 62 53 (2 * 256 + stOk)
    else s) := by
  change execRouteSwapDone d s = _
  rw [execRouteSwapDone, whenRunning_running hrun]
  rfl

theorem exec_nocRouteFail : exec (.nocRouteFail d) s =
    .next (if rtState s d = 1 then
      logEvent (setFld s (rtctl d) 62 53 (2 * 256 + stNocRouteFail)) 0x0023 d 0 2 stNocRouteFail
    else s) := by
  change execNocRouteFail d s = _
  rw [execNocRouteFail, whenRunning_running hrun]

end

/-! ### Fences that start, finish and open (R313) -/

section
variable {s : State} {d ep : Nat}

theorem fenceStart_drain_open (h : fstate s d ep = 0) : fenceStart s d ep false = setFld (setAbandon s d ep false) (nocEpAt d ep) 55 54 1 := by
  simp [fenceStart, setFstate, h]

/-- DRAIN is taken only at an open endpoint. -/
theorem fenceStart_drain_still (h : fstate s d ep ≠ 0) : fenceStart s d ep false = s := by
  simp [fenceStart, h]

/-- ABANDON is taken at an open endpoint, and at one that drains. -/
theorem fenceStart_abandon (h : fstate s d ep = 0 ∨ fstate s d ep = 1 ∧ abandoning s d ep = false) :
    fenceStart s d ep true = abandonNode (setAbandon (setFld s (nocEpAt d ep) 55 54 1) d ep true) (d * 256 + ep) := by
  rcases h with h | ⟨h, hdrain⟩
  · simp [fenceStart, setFstate, h]
  · simp [fenceStart, setFstate, h, hdrain]

theorem fenceStart_abandon_still (h : fstate s d ep = 1 ∧ abandoning s d ep = true ∨ fstate s d ep = 2) : fenceStart s d ep true = s := by
  rcases h with ⟨h, habandon⟩ | h
  · simp [fenceStart, h, habandon]
  · simp [fenceStart, h]

theorem fenceFinish_done (hstate : fstate s d ep = 1) (htags : tagsOf s (d * 256 + ep) = []) (hserved : epServed s d ep = true) :
    fenceFinish s d ep = sendPkt (setFld s (nocEpAt d ep) 55 54 2) { op := 0x62, vc := 3, src := nodeOf d ep, dest := csrNode d } :=
  if_pos (by simp [hstate, htags, hserved])

theorem fenceFinish_still (h : fstate s d ep ≠ 1 ∨ tagsOf s (d * 256 + ep) ≠ [] ∨ epServed s d ep = false) : fenceFinish s d ep = s := by
  have hnot : ¬(fstate s d ep = 1 && (tagsOf s (d * 256 + ep)).isEmpty && epServed s d ep) = true := by
    rcases h with h | h | h <;> simp [h]
  exact if_neg hnot

theorem unfenceEp_still (h : fstate s d ep ≠ 2) : unfenceEp s d ep = s :=
  if_neg (by simp [h])

/-- An endpoint that is no region's opens when it has power. -/
theorem unfenceEp_powered (hstate : fstate s d ep = 2) (hpower : epPowered s d ep = true) (hep : ep < 102 ∨ 118 ≤ ep) :
    unfenceEp s d ep = setFld s (nocEpAt d ep) 55 54 0 := by
  have hnoRegion : ¬(102 ≤ ep ∧ ep < 118) := by omega
  simp [unfenceEp, setFstate, hstate, hpower, hnoRegion]

/-- A region's endpoint opens when the region is ACTIVE or HALTED (R271, R275). -/
theorem unfenceEp_region (hstate : fstate s d ep = 2) (hlow : 102 ≤ ep) (hhigh : ep < 118) :
    unfenceEp s d ep = if fld s (cfgAt d (ep - 102) 8) 63 60 = 3 ∨ fld s (cfgAt d (ep - 102) 8) 63 60 = 4 then
      setFld s (nocEpAt d ep) 55 54 0 else s := by
  have hpower : epPowered s d ep = true := if_neg (by omega)
  simp [unfenceEp, setFstate, hstate, hpower, hlow, hhigh]

end

section
variable {s : State} (hrun : running s = true) (d : Fin 4) (ep : Fin 256)
include hrun

theorem exec_fenceDrain (h : epPresent s.part ep = true) : exec (.fenceDrain d ep) s = .next (fenceStart s d ep false) :=
  (whenRunning_running hrun _).trans (congrArg Host.Outcome.next (if_pos h))

theorem exec_fenceDrain_absent (h : epPresent s.part ep = false) : exec (.fenceDrain d ep) s = .next s :=
  (whenRunning_running hrun _).trans (congrArg Host.Outcome.next (if_neg (Bool.eq_false_iff.1 h)))

theorem exec_fenceAbandon (h : epPresent s.part ep = true) : exec (.fenceAbandon d ep) s = .next (fenceStart s d ep true) :=
  (whenRunning_running hrun _).trans (congrArg Host.Outcome.next (if_pos h))

theorem exec_fenceAbandon_absent (h : epPresent s.part ep = false) : exec (.fenceAbandon d ep) s = .next s :=
  (whenRunning_running hrun _).trans (congrArg Host.Outcome.next (if_neg (Bool.eq_false_iff.1 h)))

theorem exec_fenceDone : exec (.fenceDone d ep) s = .next (fenceFinish s d ep) := whenRunning_running hrun fun s => fenceFinish s d ep
theorem exec_unfence : exec (.unfence d ep) s = .next (unfenceEp s d ep) := whenRunning_running hrun fun s => unfenceEp s d ep

end

/-! ### Requests at a fenced endpoint (R313) -/

theorem nodeDie_nodeOf (d : Fin 4) (ep : Fin 256) : nodeDie (nodeOf d ep) = d := by
  rw [nodeDie, nodeOf, BitVec.toNat_ofNat]
  omega

theorem nodeEp_nodeOf (d : Fin 4) (ep : Fin 256) : nodeEp (nodeOf d ep) = ep := by
  rw [nodeEp, nodeOf, BitVec.toNat_ofNat]
  omega

theorem destFence_nodeOf (s : State) {p : Packet} {d : Fin 4} {ep : Fin 256} (h : p.dest = nodeOf d ep) :
    destFence s p = fstate s d ep := by
  rw [destFence, h, nodeDie_nodeOf, nodeEp_nodeOf, if_pos d.isLt]

/-- A READ or WRITE that the map admits, or whose address is a fabric one, is refused by the fence of its endpoint. -/
theorem netRw_fenced {s : State} {p : Packet} (hform : formed p = true)
    (hmap : p.fab = true ∨ mapStatus s.part (initiatorOf s p) p.addr.toNat p.len = 0) (harr : arrived s p = true)
    (hreq : isRequest p = true) (hfence : destFence s p ≠ 0) : netRw s p = answer s p stNocFenced := by
  cases hfab : p.fab with
  | true => simp only [netRw, hform, hfab, Bool.not_true, Bool.false_eq_true, if_false, if_true, throughFence_refused harr hreq hfence]
  | false =>
    have hopen := hmap.resolve_left (by simp [hfab])
    rw [netRw_formed hfab hform, resolved, hopen]
    exact (if_neg (by decide)).trans (throughFence_refused harr hreq hfence _)

/-- Settles O37: each command of a route change by RT_STATE, each command of a fence by FSTATE. -/
theorem routeChangesAndFences : Obligations.RouteChangesAndFences := by
  refine ⟨fun s d hrun => ⟨fun v hstate hindex => ?_, fun v h => ?_, fun h => ?_, fun h => ?_, fun hstate hempty => ?_, fun h => ?_,
      fun h => ?_, fun h => ?_⟩,
    fun s d ep hrun => ⟨fun habsent => ⟨exec_fenceDrain_absent hrun d ep habsent, exec_fenceAbandon_absent hrun d ep habsent⟩,
      fun hpresent => ⟨fun h => ?_, fun h => ?_, fun h => ?_, fun h habandon => ?_, fun h => ⟨?_, ?_⟩⟩,
      fun hstate htags hserved => ?_, fun h => ?_, fun hstate hpower hep => ?_,
      fun hstate hlow hhigh => ⟨fun hlive => ?_, fun hactive hhalted => ?_⟩, fun h => ?_,
      fun p hfence hdest hop hvc hform harr hmap => ?_⟩⟩
  · exact ⟨_, (exec_nocRtw hrun d v).trans (congrArg _ (writeRtw_taken hstate hindex)), routeEntry_mput_same ..,
      fun k hk => mfind_mput_ne _ hk _, rfl⟩
  · rw [exec_nocRtw hrun, writeRtw_ignored h]
  · rw [exec_swap hrun, if_neg h]
  · rw [exec_swap hrun, if_pos h]
  · rw [exec_routeSwapDone hrun, if_pos (by simp [hstate, hempty])]
  · rw [exec_routeSwapDone hrun, if_neg (by rcases h with h | h <;> simp [h])]
  · rw [exec_nocRouteFail hrun, if_pos h]
  · rw [exec_nocRouteFail hrun, if_neg h]
  · rw [exec_fenceDrain hrun d ep hpresent, fenceStart_drain_open h]
  · rw [exec_fenceDrain hrun d ep hpresent, fenceStart_drain_still (by omega)]
  · rw [exec_fenceAbandon hrun d ep hpresent, fenceStart_abandon h]
  · rw [exec_fenceAbandon hrun d ep hpresent, fenceStart_abandon_still (.inl ⟨h, habandon⟩)]
  · rw [exec_fenceDrain hrun d ep hpresent, fenceStart_drain_still (by omega)]
  · rw [exec_fenceAbandon hrun d ep hpresent, fenceStart_abandon_still (.inr h)]
  · rw [exec_fenceDone hrun, fenceFinish_done hstate htags hserved]
  · rw [exec_fenceDone hrun, fenceFinish_still h]
  · rw [exec_unfence hrun, unfenceEp_powered hstate hpower hep]
  · rw [exec_unfence hrun, unfenceEp_region hstate hlow hhigh, if_pos hlive]
  · rw [exec_unfence hrun, unfenceEp_region hstate hlow hhigh, if_neg (not_or.2 ⟨hactive, hhalted⟩)]
  · rw [exec_unfence hrun, unfenceEp_still h]
  · have hreq : isRequest p = true := by simp [isRequest, hop, hvc]
    rw [exec_read hrun hop, netRw_fenced hform hmap harr hreq (by rwa [destFence_nodeOf s hdest])]

end Sys2Proof.Machine
end

section
/-! SUPPORT. Routers, on-die links and UCIe modules of the on-package network, and what their faults take with them (R299-R311, R408). -/

namespace Sys2Proof.Machine
open Sys2Proof

/-! ### A packet in a buffer (R303, R307, R308) -/

section
variable {s : State} {d r : Nat} {f : Flight}

theorem forward_unreachable_request (hport : portFor s d r f.p = 7) (hreq : isRequest f.p = true) :
    forward s d r f = answer s f.p stNocFenced := by
  rw [forward, if_pos hport, if_pos hreq]

theorem forward_unreachable_other (hport : portFor s d r f.p = 7) (hone : isRequest f.p = false) : forward s d r f = takePkt s f.p := by
  rw [forward, if_pos hport, if_neg (Bool.eq_false_iff.1 hone)]

/-- A packet at the local port of its endpoint stays for it. -/
theorem forward_local (hport : portFor s d r f.p = 4 ∨ portFor s d r f.p = 5) : forward s d r f = s := by
  rw [forward, if_neg (by omega), if_pos hport]

theorem forward_granted {l : Nat} {a : Packet × Place} (hport : portFor s d r f.p ∉ [4, 5, 7])
    (hgrant : granted s d r (portFor s d r f.p) = some f) (hlink : linkOf r (portFor s d r f.p) = some l)
    (hnext : nextPlace s d r (portFor s d r f.p) f.p = some a) :
    forward s d r f = placePkt (countWaits (setFails s d l 0) d r (portFor s d r f.p) f) f.p a.1 a.2 := by
  simp only [List.mem_cons, List.not_mem_nil, or_false, not_or] at hport
  obtain ⟨h4, h5, h7⟩ := hport
  simp only [forward, h4, h5, h7, hgrant, hlink, hnext, or_self, if_true, if_false]

end

/-! ### A hop (R300, R303, R309) -/

section
variable {s : State} (hrun : running s = true) (d : Fin 4) (r : Fin 128) (p : Packet)
include hrun

theorem exec_routerHop_stopped (hstop : mget false s.noc.stopped (128 * d + r) = true) : exec (.routerHop d r p) s = .next s := by
  change execRouterHop d r p s = _
  rw [execRouterHop, whenRunning_running hrun]
  exact congrArg Host.Outcome.next (if_pos hstop)

variable {d r p} (hworks : mget false s.noc.stopped (128 * d + r) = false)
include hworks

theorem exec_routerHop_badHeader (hbad : badHeader p = true) :
    exec (.routerHop d r p) s = .next (logEvent (takePkt s p) 0x0022 d r 2 (headerWord p)) := by
  change execRouterHop d r p s = _
  rw [execRouterHop, whenRunning_running hrun]
  simp only [hworks, hbad, Bool.false_eq_true, if_false, if_true]

variable (hgood : badHeader p = false)
include hgood

/-- The packet is outside the network, and this router is not where it would enter. -/
theorem exec_routerHop_elsewhere (hout : flightOf s p = none) (hentry : entryPort s d r p = none) :
    exec (.routerHop d r p) s = .next s := by
  change execRouterHop d r p s = _
  rw [execRouterHop, whenRunning_running hrun]
  simp only [hworks, hgood, hout, hentry, Bool.false_eq_true, if_false]

theorem exec_routerHop_entry {k : Nat} (hout : flightOf s p = none) (hentry : entryPort s d r p = some k) :
    exec (.routerHop d r p) s = .next
      (if inOrder s p && !draining s d && portRoom s d r k { p with dclass := false } then receive s d r k p { p with dclass := false }
       else s) := by
  change execRouterHop d r p s = _
  rw [execRouterHop, whenRunning_running hrun]
  simp only [hworks, hgood, hout, hentry, Bool.false_eq_true, if_false]

variable {f : Flight} (hin : flightOf s p = some f)
include hin

theorem exec_routerHop_link {k : Nat} (hplace : f.place = .link d r k) : exec (.routerHop d r p) s = .next (receive s d r k p p) := by
  change execRouterHop d r p s = _
  rw [execRouterHop, whenRunning_running hrun]
  simp only [hworks, hgood, hin, hplace, Bool.false_eq_true, if_false, and_self, if_true]

theorem exec_routerHop_buffer {k : Nat} (hplace : f.place = .buffer d r k) : exec (.routerHop d r p) s = .next (forward s d r f) := by
  change execRouterHop d r p s = _
  rw [execRouterHop, whenRunning_running hrun]
  simp only [hworks, hgood, hin, hplace, Bool.false_eq_true, if_false, and_self, if_true]

theorem exec_routerHop_bridge {x b m : Nat} (hplace : f.place = .bridge x b m) (hfar : farDie x b = d)
    (hhere : (enterRouters d x).contains r.val = true) (hopen : draining s d = false)
    (hroom : portRoom s d r 6 { p with dclass := false } = true) :
    exec (.routerHop d r p) s = .next (receive s d r 6 p { p with dclass := false }) := by
  change execRouterHop d r p s = _
  rw [execRouterHop, whenRunning_running hrun]
  simp only [hworks, hgood, hin, hplace, hfar, hhere, hopen, hroom, Bool.false_eq_true, if_false, decide_true, Bool.not_false, Bool.and_self,
    if_true]

end

/-! ### A flit with a bad CRC (R305, R306) -/

/-- What follows the group test pattern of a link, by the groups that fail it. -/
def groupsTested (s : State) (d l : Nat) (gs : List Nat) : State :=
  if gs.isEmpty then s
  else
    match gs, linkState s d l with
    | [g], 0 => if g < 35 then logEvent (setFld s (nocLinkAt d l) 63 56 (64 + g)) 0x0020 d l 1 g else s
    | _, _ => logEvent (downLink s d l) 0x0021 d l 2 0

section
variable {s : State} {d l : Nat}

/-- One failing group of a link that has its spare is steered onto it; the spare itself needs no steering. -/
theorem groupsTested_one_up (hup : linkState s d l = 0) (g : Nat) : groupsTested s d l [g] =
    if g < 35 then logEvent (setFld s (nocLinkAt d l) 63 56 (64 + g)) 0x0020 d l 1 g else s := by
  simp only [groupsTested, hup, List.isEmpty_cons, Bool.false_eq_true, if_false]

theorem groupsTested_one_spare (hspare : linkState s d l = 1) (g : Nat) :
    groupsTested s d l [g] = logEvent (downLink s d l) 0x0021 d l 2 0 := by
  simp only [groupsTested, hspare, List.isEmpty_cons, Bool.false_eq_true, if_false]

theorem groupsTested_two (g h : Nat) : groupsTested s d l [g, h] = logEvent (downLink s d l) 0x0021 d l 2 0 := by
  simp only [groupsTested, List.isEmpty_cons, Bool.false_eq_true, if_false]

end

section
variable {s : State} (hrun : running s = true) {d : Fin 4} {l : Fin 266} {w : WireFlit}
include hrun

theorem exec_linkReplay_still (h : linkState s d l = 2 ∨ linkCrc w.data w.side = w.crc.toNat) (fs : List (Fin 36)) :
    exec (.linkReplay d l ⟨w, fs⟩) s = .next s := by
  change execLinkReplay d l ⟨w, fs⟩ s = _
  rw [execLinkReplay, whenRunning_running hrun]
  exact congrArg Host.Outcome.next (if_pos h)

variable (hcrc : linkCrc w.data w.side ≠ w.crc.toNat) (hup : linkState s d l ≠ 2)
include hcrc hup

theorem exec_linkReplay_counted (hfew : mget 0 s.noc.fails (512 * d + l) < 7) (fs : List (Fin 36)) :
    exec (.linkReplay d l ⟨w, fs⟩) s = .next (setFails s d l (mget 0 s.noc.fails (512 * d + l) + 1)) := by
  change execLinkReplay d l ⟨w, fs⟩ s = _
  rw [execLinkReplay, whenRunning_running hrun]
  dsimp only
  rw [if_neg (not_or.2 ⟨hup, hcrc⟩), if_pos (by omega)]

theorem exec_linkReplay_eighth (hseven : 7 ≤ mget 0 s.noc.fails (512 * d + l)) (fs : List (Fin 36)) :
    exec (.linkReplay d l ⟨w, fs⟩) s = .next (groupsTested (setFails s d l 0) d l (fs.map (·.val)).eraseDups) := by
  change execLinkReplay d l ⟨w, fs⟩ s = _
  rw [execLinkReplay, whenRunning_running hrun]
  dsimp only
  rw [if_neg (not_or.2 ⟨hup, hcrc⟩), if_neg (by omega)]
  rfl

end

/-! ### UCIe modules (R299) -/

/-- The module has left service with no packet on it, and the event is in the log. -/
def moduleOut (s : State) (d b m : Nat) : State :=
  logEvent { s with noc := { s.noc with ucieOut := mset false s.noc.ucieOut (moduleKey d b m) true,
                                        bridgeHold := mset false s.noc.bridgeHold (bridgeKey d b) true } } 0x0024 d (142 + b) 2 m

section
variable {s : State} (hrun : running s = true) (d : Fin 4) (b : Fin 5) (m : Fin 4)
include hrun

theorem exec_ucieLaneRepair_still (hout : moduleUp s d b m = false) : exec (.ucieLaneRepair d b m) s = .next s :=
  (whenRunning_running hrun _).trans (congrArg Host.Outcome.next (if_neg (Bool.eq_false_iff.1 hout)))

theorem exec_ucieLaneRepair (hup : moduleUp s d b m = true) : exec (.ucieLaneRepair d b m) s = .next { s with noc := { s.noc with
    ucieRepaired := mset 0 s.noc.ucieRepaired (moduleKey d b m) (mget 0 s.noc.ucieRepaired (moduleKey d b m) + 1) } } :=
  (whenRunning_running hrun _).trans (congrArg Host.Outcome.next (if_pos hup))

theorem exec_ucieModule_still (hout : moduleUp s d b m = false) (lost : List Packet) : exec (.ucieModule d b m lost) s = .next s :=
  (whenRunning_running hrun _).trans (congrArg Host.Outcome.next (if_neg (Bool.eq_false_iff.1 hout)))

theorem exec_ucieModule (hup : moduleUp s d b m = true) : exec (.ucieModule d b m []) s = .next
    (if (if b.val = 4 then [0, 1, 2, 3] else [d.val]).any (fun x => (List.range (bridgeModules b)).any (moduleUp (moduleOut s d b m) x b)) then
      moduleOut s d b m else devFail (moduleOut s d b m) 0x0024 d) :=
  (whenRunning_running hrun _).trans (congrArg Host.Outcome.next (if_pos hup))

end

/-! ### Links that go down (R306) -/

theorem nocLinkAt_inj {d k l : Nat} (h : nocLinkAt d k = nocLinkAt d l) : k = l := by
  unfold nocLinkAt nocAt csrAt at h
  omega

theorem nocLinkAt_ne_s0 (d : Fin 4) {k off : Nat} (hk : k < 266) : nocLinkAt d k ≠ csrAt 4 off := by
  unfold nocLinkAt nocAt csrAt csrBase
  omega

section
variable (s : State) (d : Nat)

theorem rd_losePkts (lost : Place → Bool) (a : Nat) : rd (losePkts s lost) a = rd s a :=
  foldl_inv (fun u : State => rd u a = rd s a) takePkt (fun _ _ h => h) _ s rfl

theorem losePkts_stopped (lost : Place → Bool) : (losePkts s lost).noc.stopped = s.noc.stopped :=
  foldl_inv (fun u : State => u.noc.stopped = s.noc.stopped) takePkt (fun _ _ h => h) _ s rfl

theorem downLink_stopped (l : Nat) : (downLink s d l).noc.stopped = s.noc.stopped := by
  rw [downLink, setFld_noc, losePkts_stopped]
  rfl

theorem rd_downLink_ne {k l : Nat} (h : k ≠ l) : rd (downLink s d l) (nocLinkAt d k) = rd s (nocLinkAt d k) := by
  rw [downLink, setFld_eq, rd_wr_ne _ _ fun e => h (nocLinkAt_inj e), rd_losePkts]
  rfl

theorem linkState_downLink_same (l : Nat) : linkState (downLink s d l) d l = 2 := by
  rw [linkState, fld, downLink, setFld_eq, rd_wr_same, bits_setBits_within _ _ (by decide) (by decide) (by decide) (by decide)]
  rfl

/-- The links go down one after the other. -/
def downLinks (ls : List Nat) : State := ls.foldl (fun u l => downLink u d l) s

theorem downLinks_stopped (ls : List Nat) : (downLinks s d ls).noc.stopped = s.noc.stopped :=
  foldl_inv (fun u : State => u.noc.stopped = s.noc.stopped) (fun u l => downLink u d l) (fun u l h => (downLink_stopped u d l).trans h) ls s rfl

theorem rd_downLinks_of_not_mem {k : Nat} (ls : List Nat) (h : k ∉ ls) : rd (downLinks s d ls) (nocLinkAt d k) = rd s (nocLinkAt d k) :=
  List.foldlRecOn ls (fun u l => downLink u d l) (motive := fun u => rd u (nocLinkAt d k) = rd s (nocLinkAt d k)) rfl
    fun u hu _ hl => (rd_downLink_ne u d (ne_of_mem_of_not_mem hl h).symm).trans hu

/-- A link that is down stays down while others follow it. -/
theorem linkState_downLinks {k : Nat} : ∀ (ls : List Nat) (s : State), k ∈ ls ∨ linkState s d k = 2 → linkState (downLinks s d ls) d k = 2
  | [], _, h => h.resolve_left List.not_mem_nil
  | l :: ls, s, h => by
    refine linkState_downLinks ls (downLink s d l) ?_
    by_cases hkl : k = l
    · exact .inr (hkl ▸ linkState_downLink_same s d k)
    · have hkept : linkState (downLink s d l) d k = linkState s d k := congrArg (bits · 63 62) (rd_downLink_ne s d hkl)
      exact h.imp (fun hmem => (List.mem_cons.1 hmem).resolve_left hkl) fun hdown => hkept.trans hdown

end

/-! ### A faulty router (R408) -/

/-- The router has stopped, and what it holds is lost. -/
def routerStopped (s : State) (d r : Nat) : State :=
  losePkts { s with noc := { s.noc with stopped := mset false s.noc.stopped (128 * d + r) true } } (inRouter d r)

/-- Its torus and express links (R296, R299). -/
def routerLinks (r : Nat) : List Nat := [0, 1, 2, 3, 6].filterMap (linkOf r)

theorem mem_routerLinks {r k : Nat} : k ∈ routerLinks r ↔ ∃ port, port ∈ [0, 1, 2, 3, 6] ∧ linkOf r port = some k := List.mem_filterMap

theorem rd_routerStopped (s : State) (d r a : Nat) : rd (routerStopped s d r) a = rd s a := rd_losePkts _ _ a

theorem routerStopped_stopped (s : State) (d r : Nat) :
    (routerStopped s d r).noc.stopped = mset false s.noc.stopped (128 * d + r) true := losePkts_stopped _ _

section
variable {s : State} (hrun : running s = true) (d : Fin 4) (r : Fin 128)
include hrun

theorem exec_routerFault_still (hstop : mget false s.noc.stopped (128 * d + r) = true) : exec (.routerFault d r) s = .next s := by
  change execRouterFault d r s = _
  rw [execRouterFault, whenRunning_running hrun]
  exact congrArg Host.Outcome.next (if_pos hstop)

theorem exec_routerFault (hworks : mget false s.noc.stopped (128 * d + r) = false) : exec (.routerFault d r) s = .next
    (logEvent (downLinks (routerStopped s d r) d (routerLinks r)) 0x0021 d (0x800 + r) 2 0) := by
  change execRouterFault d r s = _
  rw [execRouterFault, whenRunning_running hrun]
  exact congrArg Host.Outcome.next (if_neg (Bool.eq_false_iff.1 hworks))

end

/-! ### Expired requests (R311) -/

section
variable {s : State} (hrun : running s = true) {node : Fin 4096} {tag : Fin 1024}
include hrun

theorem exec_initiatorTimeout_free (hfree : (getTag s node tag).use = none) : exec (.initiatorTimeout node tag) s = .next s := by
  change execInitiatorTimeout node tag s = _
  rw [execInitiatorTimeout, whenRunning_running hrun]
  simp only [hfree]

theorem exec_initiatorTimeout_held {u : TagUse} (hheld : (getTag s node tag).use = some u) :
    exec (.initiatorTimeout node tag) s = .next (completeTag (expireTag s node tag) u stNocTimeout) := by
  change execInitiatorTimeout node tag s = _
  rw [execInitiatorTimeout, whenRunning_running hrun]
  simp only [hheld]

end

/-- Settles O36: a hop by the packet's place, a replay by the count of its link, a fault by what it stops. -/
theorem networkPartsComplete : Obligations.NetworkPartsComplete := by
  refine fun s d hrun => ⟨fun r p hstop => exec_routerHop_stopped hrun d r p hstop,
    fun r p hworks => ⟨fun hbad => exec_routerHop_badHeader hrun hworks hbad, fun hgood => ⟨fun k hout hentry hfirst hopen hroom => ?_,
      fun k hout hentry hwaits => ?_, fun hout hentry => exec_routerHop_elsewhere hrun hworks hgood hout hentry,
      fun f k hin hplace => exec_routerHop_link hrun hworks hgood hin hplace,
      fun f k hin hplace => ⟨fun hport hreq => ?_, fun hport hone => ?_, fun hport => ?_, fun l a hport hgrant hlink hnext => ?_⟩,
      fun f x b m hin hplace hfar hhere hopen hroom => exec_routerHop_bridge hrun hworks hgood hin hplace hfar hhere hopen hroom⟩⟩,
    fun l w fs h => exec_linkReplay_still hrun h fs,
    fun l w hcrc hup => ⟨fun fs hfew => exec_linkReplay_counted hrun hcrc hup hfew fs,
      fun hseven => ⟨?_, fun g hstate hg => ?_, fun hstate => ?_, fun g hstate => ?_, fun g h hgh => ?_⟩⟩,
    fun b m hout => ⟨exec_ucieLaneRepair_still hrun d b m hout, exec_ucieModule_still hrun d b m hout⟩,
    fun b m hup => ⟨exec_ucieLaneRepair hrun d b m hup, exec_ucieModule hrun d b m hup⟩,
    fun r hstop => exec_routerFault_still hrun d r hstop,
    fun r hworks => ⟨_, exec_routerFault hrun d r hworks, ?_, fun k hk => ⟨fun hlink => ?_, fun hother => ?_⟩⟩,
    fun node tag hfree => exec_initiatorTimeout_free hrun hfree, fun node tag u hheld => exec_initiatorTimeout_held hrun hheld⟩
  · rw [exec_routerHop_entry hrun hworks hgood hout hentry, if_pos (by simp [hfirst, hopen, hroom])]
  · rw [exec_routerHop_entry hrun hworks hgood hout hentry, if_neg (by rcases hwaits with h | h | h <;> simp [h])]
  · rw [exec_routerHop_buffer hrun hworks hgood hin hplace, forward_unreachable_request hport hreq]
  · rw [exec_routerHop_buffer hrun hworks hgood hin hplace, forward_unreachable_other hport hone]
  · rw [exec_routerHop_buffer hrun hworks hgood hin hplace, forward_local hport]
  · rw [exec_routerHop_buffer hrun hworks hgood hin hplace, forward_granted hport hgrant hlink hnext]
  · exact exec_linkReplay_eighth hrun hcrc hup hseven []
  · rw [exec_linkReplay_eighth hrun hcrc hup hseven]
    exact congrArg Host.Outcome.next ((groupsTested_one_up hstate g).trans (if_pos hg))
  · rw [exec_linkReplay_eighth hrun hcrc hup hseven]
    exact congrArg Host.Outcome.next (groupsTested_one_up hstate 35)
  · rw [exec_linkReplay_eighth hrun hcrc hup hseven]
    exact congrArg Host.Outcome.next (groupsTested_one_spare hstate g)
  · have hdistinct : ([g, h].map (·.val)).eraseDups = [g.val, h.val] := by
      have hne : h.val ≠ g.val := fun e => hgh (Fin.ext e.symm)
      simp [List.eraseDups_cons, hne]
    rw [exec_linkReplay_eighth hrun hcrc hup hseven, hdistinct, groupsTested_two]
  · rw [(logEvent_eventFrame ..).field (·.noc.stopped) fun _ _ _ _ => rfl, downLinks_stopped, routerStopped_stopped]
  · rw [linkState, fld_logEvent_ne _ _ _ _ _ _ _ _ (nocLinkAt_ne_s0 d hk) (nocLinkAt_ne_s0 d hk)]
    exact linkState_downLinks d _ _ (.inl (mem_routerLinks.2 hlink))
  · rw [rd_logEvent_ne _ _ _ _ _ _ (nocLinkAt_ne_s0 d hk) (nocLinkAt_ne_s0 d hk),
      rd_downLinks_of_not_mem _ _ _ fun hmem => hother (mem_routerLinks.1 hmem), rd_routerStopped]

end Sys2Proof.Machine
end

section
/-! SUPPORT. One step of the machine: the command at the front of the queue, and what every step keeps. -/

namespace Sys2Proof.Machine
open Sys2Proof

theorem step_front {s : State} {c : Instr} {rest : List Instr} (h : s.pending = c :: rest) : step s = exec c { s with pending := rest } := by
  simp only [step, h]

/-- Settles O1: the second branch of `step`. -/
theorem stepRunsFront : Obligations.StepRunsFront := fun _ _ _ h => step_front h

/-- Settles O4: a tick and every command keep a legal state legal, and the queue is none of the fields that `Good` looks at. -/
theorem stepKeepsGood : Obligations.StepKeepsGood := by
  intro s t hgood hstep
  cases hqueue : s.pending with
  | nil =>
    rw [step_idle hqueue] at hstep
    exact Host.Outcome.next.inj hstep ▸ (tick_keeps (Keeps.refl s)).good hgood
  | cons c rest =>
    rw [step_front hqueue] at hstep
    exact (exec_keeps (Keeps.refl { s with pending := rest }) c t hstep).good hgood

end Sys2Proof.Machine
end

section
/-! SUPPORT. The hash of the HBM map as an exclusive or, and the poison of the granules of a write (R321, R326, R328, R335, R336). -/

namespace Sys2Proof.Machine
open Sys2Proof

/-! ### The hashed map (R320, R321) -/

theorem foldl_xor (l : List Bool) (b : Bool) : l.foldl xor b = (b ^^ l.foldl xor false) := by
  rw [← List.foldl_assoc (op := xor), Bool.xor_false]

/-- Folding selected bits of `l` into a bit is an exclusive or. -/
theorem hashFold_eq_xor (l : Nat) (sel : Nat → Nat) : ∀ (ts : List Nat) (b : Nat), b < 2 →
    decide (ts.foldl (fun b t => if sel t = 0 then b else (b + l / 2 ^ (15 + sel t)) % 2) b = 1) =
      (ts.map fun t => decide (sel t ≠ 0 ∧ l / 2 ^ (15 + sel t) % 2 = 1)).foldl xor (decide (b = 1))
  | [], _, _ => rfl
  | t :: ts, b, hb => by
    have hbit : decide ((if sel t = 0 then b else (b + l / 2 ^ (15 + sel t)) % 2) = 1) =
        (decide (b = 1) ^^ decide (sel t ≠ 0 ∧ l / 2 ^ (15 + sel t) % 2 = 1)) := by
      by_cases hsel : sel t = 0
      · simp [hsel]
      · generalize l / 2 ^ (15 + sel t) = x
        obtain rfl | rfl : b = 0 ∨ b = 1 := by omega
        · simp [hsel]
        · simp [hsel, show (1 + x) % 2 = 1 ↔ ¬ x % 2 = 1 by omega, -Nat.mod_two_not_eq_one]
    rw [List.foldl_cons, List.map_cons, List.foldl_cons, hashFold_eq_xor l sel ts _ (hashStep_lt _ hb), hbit]

theorem hbmBank_bit (s : State) (a : Nat) {i : Nat} (hi : i < 5) : hbmBank s a / 2 ^ i % 2 = hashBit s (hbmL s a) (i + 1) := by
  have hbit := hashBit_lt s (hbmL s a)
  have := hbit 1; have := hbit 2; have := hbit 3; have := hbit 4; have := hbit 5
  rw [hbmBank_eq_hashBits]
  match i with
  | 0 | 1 | 2 | 3 | 4 => simp only [Nat.zero_add, Nat.reduceAdd, Nat.reducePow]; omega

theorem hbmKey_column (s : State) (a : Nat) : hbmKey s a % 2 ^ 10 = hbmL s a % 2 ^ 10 := by
  simp only [hbmKey]
  omega

/-- Settles O14: each hashed bit is a fold of exclusive ors, and the place of a byte tells its address. -/
theorem hbmMapOneToOne : Obligations.HbmMapOneToOne := by
  intro s a
  refine ⟨fun i _ => ?_, rfl, fun i => hbmBank_bit s a, hbmBank_lt s a, hbmKey_column s a, rfl, fun b => hbmKey_inj⟩
  have hxor := hashFold_eq_xor (hbmL s a) (fun t => fld s (hbmAt 0 (8 + 8 * (i / 2))) (if i % 2 = 0 then 27 else 55)
    (if i % 2 = 0 then 0 else 28) / 16 ^ t % 16) (List.range 7) (hbmL s a / 2 ^ (10 + i) % 2) (Nat.mod_lt _ (by decide))
  exact decide_eq_true_iff.symm.trans (iff_of_eq (congrArg (· = true) (hxor.trans (foldl_xor _ _))))

/-! ### Bytes of one granule lie in one granule of the stacks -/

theorem hashBit_congr (s : State) {l l' : Nat} (h : l / 2 ^ 10 = l' / 2 ^ 10) (i : Nat) : hashBit s l i = hashBit s l' i := by
  have hshift : ∀ k, l / 2 ^ (10 + k) = l' / 2 ^ (10 + k) := fun k => by
    rw [Nat.pow_add, ← Nat.div_div_eq_div_mul, h, Nat.div_div_eq_div_mul]
  have hrow : ∀ k, l / 2 ^ (15 + k) = l' / 2 ^ (15 + k) := fun k => by
    rw [show 15 + k = 10 + (5 + k) by omega, hshift]
  simp only [hashBit, hshift, hrow]

/-- R319: the grain is a multiple of the granule. -/
theorem div_grain (s : State) (a : Nat) : a / 64 * 64 / 2 ^ hbmG s = a / 2 ^ hbmG s := by
  have hgrain : 2 ^ hbmG s = 64 * 2 ^ (hbmG s - 6) := by
    rw [show (64 : Nat) = 2 ^ 6 by decide, ← Nat.pow_add, Nat.add_sub_cancel' (by unfold hbmG; omega)]
  rw [hgrain, ← Nat.div_div_eq_div_mul, ← Nat.div_div_eq_div_mul, Nat.mul_div_cancel _ (by decide)]

theorem hbmL_granule (s : State) (a : Nat) : hbmL s a = hbmL s (a / 64 * 64) + a % 64 := by
  have ha := Nat.div_add_mod a (2 ^ hbmG s)
  have hg := Nat.div_add_mod (a / 64 * 64) (2 ^ hbmG s)
  rw [div_grain] at hg
  simp only [hbmL, div_grain]
  omega

theorem hbmL_granule_mod (s : State) (a : Nat) : hbmL s (a / 64 * 64) % 64 = 0 := by
  have hdvd : (64 : Nat) ∣ 2 ^ hbmG s := Nat.pow_dvd_pow 2 (show 6 ≤ hbmG s by unfold hbmG; omega)
  have hmod : a / 64 * 64 % 2 ^ hbmG s % 64 = 0 := by rw [Nat.mod_mod_of_dvd _ hdvd, Nat.mul_mod_left]
  obtain ⟨m, hm⟩ := hdvd
  have hmul : ∀ q, q * 2 ^ hbmG s % 64 = 0 := fun q => by rw [hm, Nat.mul_left_comm, Nat.mul_mod_right]
  rw [hbmL, Nat.add_mod, hmod, hmul]

/-- The bytes of a granule lie side by side. -/
theorem hbmKey_granule (s : State) (a : Nat) : hbmKey s a = hbmKey s (a / 64 * 64) + a % 64 := by
  have hl := hbmL_granule s a
  have hmod := hbmL_granule_mod s a
  have hhash : ∀ i, hashBit s (hbmL s a) i = hashBit s (hbmL s (a / 64 * 64)) i := hashBit_congr s (by omega)
  have hch : hbmCh s a = hbmCh s (a / 64 * 64) := by simp only [hbmCh, div_grain]
  simp only [hbmKey, hbmDie, hbmJ, hbmBank_eq_hashBits, hbmPc, hhash, hch]
  omega

theorem hbmKey_granule_mod (s : State) (a : Nat) : hbmKey s (a / 64 * 64) % 64 = 0 := by
  have hcol := hbmKey_column s (a / 64 * 64)
  have hmod := hbmL_granule_mod s a
  omega

/-- R321, R336: addresses of HBM in one granule of the stacks lie in one granule. -/
theorem hbmKey_div {s : State} {a b : Nat} (ha : a < carveEnd s.part) (hb : b < carveEnd s.part) :
    hbmKey s a / 64 = hbmKey s b / 64 ↔ a / 64 = b / 64 := by
  have hka := hbmKey_granule s a
  have hkb := hbmKey_granule s b
  have hma := hbmKey_granule_mod s a
  have hmb := hbmKey_granule_mod s b
  constructor
  · intro h
    have := hbmKey_inj (s := s) (a := a / 64 * 64) (b := b / 64 * 64) (by omega) (by omega) (by omega)
    omega
  · intro h
    rw [hka, hkb, h]
    omega

/-- Bursts at one burst of the stacks are one burst. -/
theorem hbmKey_burst {s : State} {a b : Nat} (ha : a < carveEnd s.part) (hb : b < carveEnd s.part) (hma : a % 32 = 0) (hmb : b % 32 = 0)
    (h : hbmKey s a / 32 = hbmKey s b / 32) : a = b := by
  have hdiv := (hbmKey_div ha hb).1 (by omega)
  have hka := hbmKey_granule s a
  have hkb := hbmKey_granule s b
  rw [hdiv] at hka
  have hmod := hbmKey_granule_mod s b
  generalize hbmKey s a = x at *
  generalize hbmKey s b = y at *
  generalize hbmKey s (b / 64 * 64) = z at *
  omega

/-! ### What reading a burst leaves of the poison, and of the other bursts (R328, R334, R335) -/

theorem repairDue_hbm (s : State) (row : Nat) : ∃ l, (repairDue s row).hbm = { s.hbm with due := l } := by
  unfold repairDue
  split
  · exact ⟨s.hbm.due, rfl⟩
  · exact ⟨_, rfl⟩

theorem logEvent_hbm (s : State) (code die unit sev detail : Nat) : (logEvent s code die unit sev detail).hbm = s.hbm :=
  (logEvent_eventFrame s code die unit sev detail).field State.hbm fun _ _ _ _ => rfl

theorem meetUe_hbm (s : State) (k a : Nat) : ∃ l, (meetUe s k a).hbm = { s.hbm with
    mem := { s.hbm.mem with poison := mset false s.hbm.mem.poison (k / 64) true }, written := mset false s.hbm.written (k / 32) true,
    weak := mset .good s.hbm.weak (k / 32) .good, due := l } := by
  unfold meetUe
  dsimp only
  rw [logEvent_hbm, satFld, setFld_hbm]
  exact repairDue_hbm _ _

theorem meetCe_hbm (s : State) (k a : Nat) : ∃ t l, (meetCe s k a).hbm = { s.hbm with
    weak := mset .good s.hbm.weak (k / 32) .good, rowCe := t, due := l } := by
  unfold meetCe
  dsimp only
  rw [logEvent_hbm, incFld, setFld_hbm]
  split
  · exact ⟨_, repairDue_hbm _ _⟩
  · exact ⟨_, _, rfl⟩

theorem burstEcc_eq {s u : State} {k : Nat} (hw : mget false u.hbm.written (k / 32) = mget false s.hbm.written (k / 32))
    (hz : u.hbm.zeroed = s.hbm.zeroed) (hweak : mget .good u.hbm.weak (k / 32) = mget .good s.hbm.weak (k / 32)) :
    burstEcc u k = burstEcc s k := by
  unfold burstEcc burstBad keyZeroed
  rw [hw, hz, hweak]

/-- Another burst of the stacks stands as it did. -/
theorem burstEcc_readBurst_ne {s : State} {b k : Nat} (h : k / 32 ≠ hbmKey s b / 32) : burstEcc (readBurst s b) k = burstEcc s k := by
  unfold readBurst
  split
  · obtain ⟨l, hl⟩ := meetUe_hbm s (hbmKey s b) b
    exact burstEcc_eq (by rw [hl, mget_mset_ne _ _ _ _ h]) (by rw [hl]) (by rw [hl, mget_mset_ne _ _ _ _ h])
  · obtain ⟨t, l, hl⟩ := meetCe_hbm s (hbmKey s b) b
    exact burstEcc_eq (by rw [hl]) (by rw [hl]) (by rw [hl, mget_mset_ne _ _ _ _ h])
  · rfl

/-- R335: reading a burst poisons its granule when it is uncorrectable. -/
theorem granPoison_readBurst (s : State) (b g : Nat) : granPoison (readBurst s b).hbm.mem g =
    (granPoison s.hbm.mem g || decide (g = hbmKey s b / 64 ∧ burstEcc s (hbmKey s b) = .uncorrectable)) := by
  unfold readBurst
  split
  next hecc =>
    obtain ⟨l, hl⟩ := meetUe_hbm s (hbmKey s b) b
    rw [hl]
    by_cases hg : g = hbmKey s b / 64
    · simp [granPoison, hg, hecc]
    · simp [granPoison, hg, mget_mset_ne _ _ _ _ hg]
  next hecc =>
    obtain ⟨t, l, hl⟩ := meetCe_hbm s (hbmKey s b) b
    simp [hl, hecc]
  next hecc => simp [hecc]

theorem granPoison_readBurst_mono {s : State} (b : Nat) {g : Nat} (h : granPoison s.hbm.mem g = true) :
    granPoison (readBurst s b).hbm.mem g = true := by
  rw [granPoison_readBurst, h, Bool.true_or]

/-! ### The merges before a write (R326) -/

/-- The state in which a write of `n` bytes at `a` has opened its rows and read the bursts that it covers only in part. -/
def merged (s : State) (a n : Nat) : State := (bursts a n).foldl (mergeBurst a n) (touchRows s a n)

theorem touchRows_hbm (s : State) (a n : Nat) : (touchRows s a n).hbm = { s.hbm with pcs := (touchRows s a n).hbm.pcs } :=
  foldl_inv (fun u => u.hbm = { s.hbm with pcs := u.hbm.pcs }) touchRow (fun u b hu => by
    rw [touchRow, setPc, setHbm, hu]) _ _ rfl

theorem mem_bursts {a n b : Nat} (hn : n ≠ 0) : b ∈ bursts a n ↔ b % 32 = 0 ∧ b < a + n ∧ a < b + 32 := by
  simp only [bursts, if_neg hn, List.mem_map, List.mem_range]
  constructor
  · rintro ⟨i, hi, rfl⟩
    omega
  · rintro ⟨hmod, hlt, hgt⟩
    exact ⟨b / 32 - a / 32, by omega, by omega⟩

theorem mem_granules {a n g : Nat} (hn : n ≠ 0) : g ∈ granules a n ↔ 64 * g < a + n ∧ a < 64 * g + 64 := by
  simp only [granules, if_neg hn, List.mem_map, List.mem_range]
  constructor
  · rintro ⟨i, hi, rfl⟩
    omega
  · rintro ⟨hlt, hgt⟩
    exact ⟨g - a / 64, by omega, by omega⟩

theorem granPoison_mergeBurst_mono (a n b : Nat) {s : State} {g : Nat} (h : granPoison s.hbm.mem g = true) :
    granPoison (mergeBurst a n s b).hbm.mem g = true := by
  unfold mergeBurst
  split
  · exact h
  · exact granPoison_readBurst_mono b h

theorem mergeBurst_other (a n b : Nat) {s u : State} {g : Nat} (hu : SameBytes s u) (h : g ≠ hbmKey s b / 64) :
    granPoison (mergeBurst a n u b).hbm.mem g = granPoison u.hbm.mem g := by
  unfold mergeBurst
  split
  · rfl
  · rw [granPoison_readBurst, hu.hbmKey_eq]
    simp [h]

/-- The merges poison no granule beyond those of the bursts read. -/
theorem granPoison_merges_other {s : State} (a n : Nat) {g : Nat} : ∀ (l : List Nat) (u : State), SameBytes s u →
    (∀ b ∈ l, g ≠ hbmKey s b / 64) → granPoison (l.foldl (mergeBurst a n) u).hbm.mem g = granPoison u.hbm.mem g
  | [], _, _, _ => rfl
  | b :: l, u, hu, h => by
    rw [List.foldl_cons, granPoison_merges_other a n l _ (mergeBurst_sameBytes hu a n b) fun x hx => h x (by simp [hx]),
      mergeBurst_other a n b hu (h b (by simp))]

theorem granPoison_merges_mono (a n : Nat) {g : Nat} (l : List Nat) {u : State} (h : granPoison u.hbm.mem g = true) :
    granPoison (l.foldl (mergeBurst a n) u).hbm.mem g = true :=
  foldl_inv (fun u : State => granPoison u.hbm.mem g = true) (mergeBurst a n) (fun _ b => granPoison_mergeBurst_mono a n b) l u h

theorem granPoison_merge_uncorrectable {s u : State} {a n b : Nat} (hpart : ¬(a ≤ b ∧ b + 32 ≤ a + n)) (hu : SameBytes s u)
    (hecc : burstEcc u (hbmKey s b) = .uncorrectable) : granPoison (mergeBurst a n u b).hbm.mem (hbmKey s b / 64) = true := by
  rw [mergeBurst, if_neg hpart, granPoison_readBurst, hu.hbmKey_eq, hecc]
  simp

theorem burstEcc_mergeBurst_ne {s u : State} (a n : Nat) {b k : Nat} (hu : SameBytes s u) (h : k / 32 ≠ hbmKey s b / 32) :
    burstEcc (mergeBurst a n u b) k = burstEcc u k := by
  unfold mergeBurst
  split
  · rfl
  · exact burstEcc_readBurst_ne (by rwa [hu.hbmKey_eq])

/-- An uncorrectable burst among those read poisons its granule. -/
theorem granPoison_merges {s : State} {a n b : Nat} (hpart : ¬(a ≤ b ∧ b + 32 ≤ a + n)) : ∀ (l : List Nat) (u : State), SameBytes s u → b ∈ l →
    (∀ x ∈ l, hbmKey s b / 32 = hbmKey s x / 32 → b = x) → burstEcc u (hbmKey s b) = .uncorrectable →
    granPoison (l.foldl (mergeBurst a n) u).hbm.mem (hbmKey s b / 64) = true
  | [], _, _, hb, _, _ => absurd hb List.not_mem_nil
  | x :: l, u, hu, hb, hkey, hecc => by
    rw [List.foldl_cons]
    by_cases hx : b = x
    · rw [← hx]
      exact granPoison_merges_mono a n l (granPoison_merge_uncorrectable hpart hu hecc)
    · have hne : hbmKey s b / 32 ≠ hbmKey s x / 32 := fun h => hx (hkey x (by simp) h)
      exact granPoison_merges hpart l _ (mergeBurst_sameBytes hu a n x) (by simpa [hx] using hb) (fun y hy => hkey y (by simp [hy]))
        ((burstEcc_mergeBurst_ne a n hu hne).trans hecc)

/-! ### The poison that a write stores (R336) -/

/-- A granule's poison after marks are stored for a list of granules: set, cleared or left as it was. -/
theorem mget_foldl_marks (key : Nat → Nat) (set clear : Nat → Bool) (g : Nat) : ∀ (l : List Nat) (m : SMap Bool),
    (∀ x ∈ l, key g = key x → g = x) →
    mget false (l.foldl (fun m x => if set x then mset false m (key x) true else if clear x then mset false m (key x) false else m) m) (key g) =
      if g ∈ l then (set g || (!clear g && mget false m (key g))) else mget false m (key g)
  | [], _, _ => by simp
  | x :: l, m, hkey => by
    have hhead : mget false (if set x then mset false m (key x) true else if clear x then mset false m (key x) false else m) (key g) =
        if g = x then (set g || (!clear g && mget false m (key g))) else mget false m (key g) := by
      by_cases hx : g = x
      · subst hx
        cases hset : set g <;> cases hclear : clear g <;> simp
      · have hne : key g ≠ key x := fun h => hx (hkey x (by simp) h)
        split_ifs <;> simp [mget_mset_ne _ _ _ _ hne]
    rw [List.foldl_cons, mget_foldl_marks key set clear g l _ fun y hy => hkey y (by simp [hy]), hhead]
    by_cases hx : g = x
    · simp only [hx, List.mem_cons, true_or, if_true]
      cases set x <;> cases clear x <;> simp
    · simp [hx]

/-- R336: a granule that the write touches is poisoned when it carries poison, or keeps poison that it does not cover clean. -/
theorem granPoison_hbmPut {s : State} {a : Nat} {d : List Byte} (pg : Nat → Bool) {g : Nat} (hd : d ≠ []) (hend : a + d.length ≤ carveEnd s.part)
    (hg : 64 * g < carveEnd s.part) : granPoison (hbmPut s a d pg).hbm.mem (hbmKey s (64 * g) / 64) =
      if 64 * g < a + d.length ∧ a < 64 * g + 64 then
        pg g || (!decide (a ≤ 64 * g ∧ 64 * g + 64 ≤ a + d.length) && granPoison s.hbm.mem (hbmKey s (64 * g) / 64))
      else granPoison s.hbm.mem (hbmKey s (64 * g) / 64) := by
  have hn : d.length ≠ 0 := by simpa using hd
  have hmarks := mget_foldl_marks (fun x => hbmKey s (64 * x) / 64) pg (fun x => decide (a ≤ 64 * x ∧ 64 * x + 64 ≤ a + d.length)) g
    (granules a d.length) s.hbm.mem.poison fun x hx h => by
      have hin := (mem_granules hn).1 hx
      have hdiv := (hbmKey_div hg (by omega)).1 h
      omega
  simp only [mem_granules hn, decide_eq_true_eq] at hmarks
  exact hmarks

/-- Settles O15: the merges poison the granules of uncorrectable bursts, then the write marks the granules that it touches. -/
theorem poisonGranules : Obligations.PoisonGranules := by
  intro s a d pg g hend hg hd
  have hn : d.length ≠ 0 := by simpa using hd
  have hmerged : SameBytes s (merged s a d.length) := merges_sameBytes s a d.length
  have hwrite := granPoison_hbmPut (s := merged s a d.length) pg hd (by rw [hmerged.part]; exact hend) (by rw [hmerged.part]; exact hg)
  rw [hmerged.hbmKey_eq] at hwrite
  have hopen : (touchRows s a d.length).hbm.mem = s.hbm.mem := by rw [touchRows_hbm]
  have hkeep : granPoison s.hbm.mem (hbmKey s (64 * g) / 64) = true → granPoison (merged s a d.length).hbm.mem _ = true :=
    fun h => granPoison_merges_mono a d.length (bursts a d.length) (u := touchRows s a d.length) (by rwa [hopen])
  change granPoison (hbmWrite s a d pg).hbm.mem _ = _ at hwrite
  dsimp only
  rw [hwrite]
  refine ⟨fun htouch hpg => ?_, fun hlo hhi hpg => ?_, fun htouch hpart hold => ?_, fun b hb hbhi hblo hpart hecc => ?_, fun hout => ?_⟩
  · rw [if_pos (by omega), hpg, Bool.true_or]
  · rw [if_pos (by omega), hpg, decide_eq_true ⟨hlo, hhi⟩]
    rfl
  · rw [if_pos (by omega), hkeep hold, decide_eq_false (by omega)]
    simp
  · have hin : ∀ x ∈ bursts a d.length, x % 32 = 0 ∧ x < carveEnd s.part := fun x hx => by
      have hmem := (mem_bursts hn).1 hx
      omega
    have hpoison := granPoison_merges hpart (bursts a d.length) (touchRows s a d.length) (touchRows_sameBytes (.refl s) a d.length)
      ((mem_bursts hn).2 ⟨by omega, hbhi, hblo⟩) (fun x hx => hbmKey_burst (by omega) (hin x hx).2 (by omega) (hin x hx).1)
      ((burstEcc_eq (by rw [touchRows_hbm]) (by rw [touchRows_hbm]) (by rw [touchRows_hbm])).trans hecc)
    change granPoison (merged s a d.length).hbm.mem _ = true at hpoison
    rw [(hbmKey_div (by omega) hg).2 (by omega)] at hpoison
    rw [if_pos (by omega), hpoison, decide_eq_false (by omega)]
    simp
  · rw [if_neg (by omega)]
    refine (granPoison_merges_other a d.length (bursts a d.length) _ (touchRows_sameBytes (.refl s) a d.length) fun b hb h => ?_).trans (by rw [hopen])
    have hmem := (mem_bursts hn).1 hb
    have hdiv := (hbmKey_div hg (by omega)).1 h
    omega

end Sys2Proof.Machine
end

section
/-! SUPPORT. The channels of HBM: refresh, sentinel, training, delays, checks, repair and scrub (R322-R341, R411). -/

namespace Sys2Proof.Machine
open Sys2Proof

/-! ### Pseudo-channels and the registers that their changes leave -/

theorem rd_setHbm (s : State) (h : Hbm) (a : Nat) : rd (setHbm s h) a = rd s a := rfl
theorem rd_setPc (s : State) (d ch pc : Nat) (x : PcState) (a : Nat) : rd (setPc s d ch pc x) a = rd s a := rfl

theorem plainWrite_part (s : State) (n : RegName) (a : Nat) (v : Word) : (plainWrite s n a v).part = s.part := by
  rw [plainWrite, wr_part]

theorem getPc_setFlag (s : State) (a i : Nat) (b : Bool) (d ch pc : Nat) : getPc (setFlag s a i b) d ch pc = getPc s d ch pc := by
  rw [getPc, setFlag_hbm, getPc]

theorem getPc_setPc_ne (s : State) (d ch : Nat) {pc pc' : Nat} (x : PcState) (h : pc' ≠ pc) :
    getPc (setPc s d ch pc x) d ch pc' = getPc s d ch pc' :=
  mget_mset_ne _ _ _ _ (by unfold pcKey; omega)

theorem setHot_same {s : State} {d ch : Nat} {hot : Bool} (h : flag s (hbmChAt d ch) 59 = hot) : setHot s d ch hot = s := if_pos h

/-! ### Refresh, activation counts and the sentinel (R332, R333, R411) -/

section
variable {s : State} (hrun : running s = true) (d : Fin 4) (ch : Fin 48) (pc : Fin 2)
include hrun

theorem exec_lock : exec .lock s = .next (setFlag s hbmMap 63 true) := whenRunning_running hrun fun s => setFlag s hbmMap 63 true

theorem exec_refresh_absent (h : chFitted s.part ch = false) (bank : Fin 32) (seen : RefreshSeen) :
    exec (.refresh d ch pc bank seen) s = .next s := by
  change execRefresh d ch pc bank seen s = _
  rw [execRefresh, whenRunning_running hrun, if_neg (by simp [h])]

theorem exec_refresh (h : chFitted s.part ch = true) (bank : Fin 32) (seen : RefreshSeen) :
    exec (.refresh d ch pc bank seen) s = .next
      (let s1 := (seen.upsets.filter (fun e => e.1 < 24576 * 32)).foldl (fun s e =>
        upset s (hbmKey s (hbmAddrOf s d ch pc bank (e.1 / 32) (e.1 % 32))) e.2) s
       setHot (setPc s1 d ch pc (refreshBank (getPc s1 d ch pc) bank)) d ch seen.hot) := by
  change execRefresh d ch pc bank seen s = _
  rw [execRefresh, whenRunning_running hrun, if_pos h]

theorem exec_refreshManagement_still (bank : Fin 32) {n : Nat}
    (h : chFitted s.part ch = false ∨ n = 0 ∨ mget 0 (getPc s d ch pc).acts bank < n) :
    exec (.refreshManagement d ch pc bank n) s = .next s := by
  have hno : ¬(chFitted s.part ch && decide (0 < n) && decide (n ≤ mget 0 (getPc s d ch pc).acts bank)) = true := by
    simp only [Bool.and_eq_true, decide_eq_true_eq, not_and]
    rcases h with h | h | h
    · simp [h]
    · omega
    · omega
  change execRefreshManagement d ch pc bank n s = _
  rw [execRefreshManagement, whenRunning_running hrun]
  exact congrArg _ (if_neg hno)

theorem exec_refreshManagement (h : chFitted s.part ch = true) (bank : Fin 32) {n : Nat} (hpos : 0 < n)
    (hn : n ≤ mget 0 (getPc s d ch pc).acts bank) :
    exec (.refreshManagement d ch pc bank n) s = .next (setPc s d ch pc { getPc s d ch pc with
      acts := mset 0 (getPc s d ch pc).acts bank (mget 0 (getPc s d ch pc).acts bank - n),
      openRow := mdel (getPc s d ch pc).openRow bank }) := by
  have hyes : (chFitted s.part ch && decide (0 < n) && decide (n ≤ mget 0 (getPc s d ch pc).acts bank)) = true := by
    simp [h, hpos, hn]
  change execRefreshManagement d ch pc bank n s = _
  rw [execRefreshManagement, whenRunning_running hrun]
  exact congrArg _ (if_pos hyes)

theorem exec_sentinelRead_still {ok : Bool} (h : ok = true ∨ chFitted s.part ch = false) : exec (.sentinelRead d ch pc ok) s = .next s := by
  change execSentinelRead d ch pc ok s = _
  rw [execSentinelRead, whenRunning_running hrun, if_pos (by rcases h with h | h <;> simp [h])]

theorem exec_sentinelRead_failed (h : chFitted s.part ch = true) :
    exec (.sentinelRead d ch pc false) s = .next (devFail (logEvent s 0x0012 d ch 3 pc) 0x0012 d) := by
  change execSentinelRead d ch pc false s = _
  rw [execSentinelRead, whenRunning_running hrun, if_neg (by simp [h])]

/-! ### Training and zeroing (R328) -/

theorem exec_trained (on : Bool) : exec (.trained d ch on) s = .next (setTrained s d ch on) :=
  whenRunning_running hrun fun s => setTrained s d ch on
theorem exec_zero : exec (.zero d ch) s = .next (startZero s d ch) := whenRunning_running hrun fun s => startZero s d ch

theorem exec_zeroDone : exec (.zeroDone d ch) s = .next
    (if chZeroing s d ch then setFlag (setHbm s (zeroChannel s.hbm (d * 64 + ch))) (hbmChAt d ch) 62 false else s) := by
  change execZeroDone d ch s = _
  rw [execZeroDone, whenRunning_running hrun]

theorem exec_recheckDue : exec (.recheckDue d ch) s = .next (recheckDue s d ch) := whenRunning_running hrun fun s => recheckDue s d ch

/-! ### Delays (R329) -/

theorem exec_apply : exec (.apply d ch) s = .next (setApply s d ch) := whenRunning_running hrun fun s => setApply s d ch

theorem exec_applyAtRefresh_still (h : flag s (hbmChAt d ch) 61 = false) : exec (.applyAtRefresh d ch pc) s = .next s := by
  change execApplyAtRefresh d ch pc s = _
  rw [execApplyAtRefresh, whenRunning_running hrun, if_neg (by simp [h])]

theorem exec_hbmDlydat (v : Word) : exec (.hbmDlydat d v) s = .next (writeDlydat s d v) := whenRunning_running hrun fun s => writeDlydat s d v

/-! ### Checks, repair and scrub (R330, R331, R337, R338) -/

theorem exec_hbmCheck (v : Word) : exec (.hbmCheck d v) s = .next (writeHbmCheck s d v) := whenRunning_running hrun fun s => writeHbmCheck s d v
theorem exec_hbmRepair (v : Word) : exec (.hbmRepair d v) s = .next (writeHbmRepair s d v) := whenRunning_running hrun fun s => writeHbmRepair s d v

theorem exec_hbmRepairDone (spare : Bool) (bad : List (Fin 32)) : exec (.hbmRepairDone d spare bad) s = .next
    (if fld s (hbmRepairAt d) 35 34 = 1 then repairEnds s d (mget 0 s.hbm.repairing d.val) spare bad else s) := by
  change execHbmRepairDone d spare bad s = _
  rw [execHbmRepairDone, whenRunning_running hrun]

theorem exec_patrolScrub_absent (h : chFitted s.part ch = false) (b : Nat) (e : Ecc) : exec (.patrolScrub d ch pc b e) s = .next s := by
  change execPatrolScrub d ch pc b e s = _
  rw [execPatrolScrub, whenRunning_running hrun, if_neg (by simp [h])]

end

section
variable {s : State} {d ch : Nat}

theorem setTrained_fitted (h : chFitted s.part ch = true) (on : Bool) : setTrained s d ch on =
    setFlag (if on && !chTrained s d ch then hardRepairs s d ch else s) (hbmChAt d ch) 63 on := if_neg (by simp [h])
theorem setTrained_absent (h : chFitted s.part ch = false) (on : Bool) : setTrained s d ch on = s := if_pos (by simp [h])

theorem startZero_trained (h : chFitted s.part ch = true) (ht : chTrained s d ch = true) :
    startZero s d ch = setFlag s (hbmChAt d ch) 62 true := if_pos (by simp [h, ht])
theorem startZero_still (h : chFitted s.part ch = false ∨ chTrained s d ch = false) : startZero s d ch = s :=
  if_neg (by rcases h with h | h <;> simp [h])

theorem recheckDue_still (h : chFitted s.part ch = false ∨ flag s (hbmChAt d ch) 60 = true) : recheckDue s d ch = s :=
  if_pos (by rcases h with h | h <;> simp [h])
theorem recheckDue_set (h : chFitted s.part ch = true) (hflag : flag s (hbmChAt d ch) 60 = false) : recheckDue s d ch =
    (let s1 := setPc s d ch 0 { getPc s d ch 0 with checked := false }
     let s2 := setPc s1 d ch 1 { getPc s1 d ch 1 with checked := false }
     logEvent (setFlag s2 (hbmChAt d ch) 60 true) 0x0013 d ch 1 0) := by
  rw [recheckDue, if_neg (by simp [h, hflag])]

theorem setApply_still (h : chFitted s.part ch = false ∨ flag s (hbmChAt d ch) 61 = true) : setApply s d ch = s :=
  if_pos (by rcases h with h | h <;> simp [h])

/-- The delays of an untrained channel apply at once. -/
theorem setApply_untrained (h : chFitted s.part ch = true) (hflag : flag s (hbmChAt d ch) 61 = false) (ht : chTrained s d ch = false) :
    setApply s d ch = applyDelays (applyDelays s d ch 0) d ch 1 := by
  rw [setApply, if_neg (by simp [h, hflag]), if_pos (by simp [ht])]

/-- Those of a trained one wait for a refresh of each of its pseudo-channels. -/
theorem setApply_trained (h : chFitted s.part ch = true) (hflag : flag s (hbmChAt d ch) 61 = false) (ht : chTrained s d ch = true) :
    setApply s d ch = (let s1 := setPc s d ch 0 { getPc s d ch 0 with applied := false }
      setFlag (setPc s1 d ch 1 { getPc s1 d ch 1 with applied := false }) (hbmChAt d ch) 61 true) := by
  rw [setApply, if_neg (by simp [h, hflag]), if_neg (by simp [ht])]

/-- R329: the state after a pseudo-channel took its delays at a refresh, and after both have. -/
def delaysTaken (s : State) (d ch pc : Nat) : State :=
  let s1 := applyDelays (refreshAll s d ch pc) d ch pc
  setPc s1 d ch pc { getPc s1 d ch pc with applied := true }
def applyEnded (s : State) (d ch : Nat) : State :=
  let s1 := setPc s d ch 0 { getPc s d ch 0 with applied := false }
  setFlag (setPc s1 d ch 1 { getPc s1 d ch 1 with applied := false }) (hbmChAt d ch) 61 false

theorem rd_delaysTaken (pc a : Nat) : rd (delaysTaken s d ch pc) a = rd s a := by
  rw [delaysTaken, rd_setPc, applyDelays, rd_setHbm, refreshAll, rd_setPc]

theorem applied_applyEnded : (getPc (applyEnded s d ch) d ch 0).applied = false ∧ (getPc (applyEnded s d ch) d ch 1).applied = false := by
  rw [applyEnded, getPc_setFlag, getPc_setFlag, getPc_setPc_same, getPc_setPc_ne _ _ _ _ (by decide), getPc_setPc_same]
  exact ⟨rfl, rfl⟩

end

theorem exec_applyAtRefresh {s : State} (hrun : running s = true) (d : Fin 4) (ch : Fin 48) (pc : Fin 2)
    (h : flag s (hbmChAt d ch) 61 = true) : exec (.applyAtRefresh d ch pc) s = .next
      (if (getPc (delaysTaken s d ch pc) d ch 0).applied && (getPc (delaysTaken s d ch pc) d ch 1).applied then
        applyEnded (delaysTaken s d ch pc) d ch
      else delaysTaken s d ch pc) := by
  change execApplyAtRefresh d ch pc s = _
  rw [execApplyAtRefresh, whenRunning_running hrun, if_pos h]
  rfl

section
variable {s : State} {d : Nat}

theorem dlysel_ne_dlydat : dlysel d ≠ dlydat d := by
  simp [dlysel, dlydat, hbmAt, csrAt]

/-- R329: a delay is stored when its selection is legal and no APPLY waits; the error bit falls only where it is written 1. -/
theorem writeDlydat_taken (hlegal : selLegal s d = true) (hwait : flag s (hbmChAt d (fld s (dlysel d) 63 58)) 61 = false) (v : Word) :
    (writeDlydat s d v).hbm = { s.hbm with shadow := mset 0 s.hbm.shadow (selKey s d) (bits v 7 0) } ∧
      ∀ b, b ≠ dlydat d → rd (writeDlydat s d v) b = rd s b := by
  rw [writeDlydat, if_pos (by simp [hlegal, hwait])]
  split
  · have hkey : selKey (setFlag s (dlydat d) 63 false) d = selKey s d := by
      simp only [selKey, setFlag_eq, rd_wr_ne _ _ dlysel_ne_dlydat]
    refine ⟨?_, fun b hb => ?_⟩
    · dsimp only
      rw [hkey, setFlag_hbm, setHbm]
    · dsimp only
      rw [rd_setHbm, setFlag_eq, rd_wr_ne s _ hb]
  · exact ⟨rfl, fun _ _ => rfl⟩

theorem writeDlydat_error (h : selLegal s d = false ∨ flag s (hbmChAt d (fld s (dlysel d) 63 58)) 61 = true) (v : Word) :
    writeDlydat s d v = setFlag s (dlydat d) 63 true :=
  if_neg (by rcases h with h | h <;> simp [h])

theorem writeHbmRepair_stored {v : Word} (h : bit v 63 = false ∨ fld (plainWrite s .hbmRepair (hbmRepairAt d) v) (hbmRepairAt d) 35 34 = 1) :
    writeHbmRepair s d v = plainWrite s .hbmRepair (hbmRepairAt d) v :=
  if_pos (by rcases h with h | h <;> simp [h])

end

theorem writeHbmCheck_eq (s : State) (d : Nat) (v : Word) : writeHbmCheck s d v =
    (let w := if bits v 55 50 = 0 then setBits v 55 50 (fld s (hbmCheckAt d) 55 50) else v
     let s1 := plainWrite s .hbmCheck (hbmCheckAt d) w
     if bit w 63 && fld s1 (hbmCheckAt d) 49 48 != 1 && chFitted s.part (bits w 62 57) then
      setFld (setHbm s1 { s1.hbm with checking := mset 0 s1.hbm.checking d w }) (hbmCheckAt d) 49 48 1 else s1) := by
  unfold writeHbmCheck
  dsimp only
  rw [plainWrite_part]

/-- The row that a word of HBM_REPAIR names is taken for repair, or refused with its event (R338). -/
theorem writeHbmRepair_refused {s : State} {d : Nat} {v : Word} (hgo : bit v 63 = true)
    (hidle : fld (plainWrite s .hbmRepair (hbmRepairAt d) v) (hbmRepairAt d) 35 34 ≠ 1)
    (h : chFitted (plainWrite s .hbmRepair (hbmRepairAt d) v).part (bits v 62 57) = false ∨ chTrained (plainWrite s .hbmRepair (hbmRepairAt d) v) d (bits v 62 57) = false ∨
      24576 ≤ bits v 50 36) :
    writeHbmRepair s d v = repairEvent (setFld (plainWrite s .hbmRepair (hbmRepairAt d) v) (hbmRepairAt d) 35 32 (2 * 4 + 2)) d v := by
  unfold writeHbmRepair
  dsimp only
  rw [if_neg (by simp [hgo, hidle]), if_pos (by rcases h with h | h | h <;> simp [h])]

theorem writeHbmRepair_taken {s : State} {d : Nat} {v : Word} (hgo : bit v 63 = true)
    (hidle : fld (plainWrite s .hbmRepair (hbmRepairAt d) v) (hbmRepairAt d) 35 34 ≠ 1)
    (hfit : chFitted (plainWrite s .hbmRepair (hbmRepairAt d) v).part (bits v 62 57) = true) (ht : chTrained (plainWrite s .hbmRepair (hbmRepairAt d) v) d (bits v 62 57) = true)
    (hrow : bits v 50 36 < 24576) :
    writeHbmRepair s d v =
      (let s1 := plainWrite s .hbmRepair (hbmRepairAt d) v
       let s2 := setHbm s1 { s1.hbm with repairing := mset 0 s1.hbm.repairing d v }
       setPc (setFld s2 (hbmRepairAt d) 35 32 4) d (bits v 62 57) (bits v 56 56)
        { getPc s2 d (bits v 62 57) (bits v 56 56) with holdBank := some (bits v 55 51) }) := by
  unfold writeHbmRepair
  dsimp only
  rw [if_neg (by simp [hgo, hidle]), if_neg (by simp [hfit, ht, hrow])]

theorem exec_patrolScrub {s : State} (hrun : running s = true) {d : Fin 4} {ch : Fin 48} {pc : Fin 2} {b : Nat}
    (hfit : chFitted s.part ch = true) (ht : chTrained s d ch = true) (hz : chZeroing s d ch = false) (hb : b < scrubBursts)
    (hslot : (getPc s d ch pc).queue = [] ∨ scrubBehind s d (getPc s d ch pc) = true)
    (hbank : (getPc s d ch pc).holdBank ≠ some (b / 32 % 32)) (e : Ecc) :
    exec (.patrolScrub d ch pc b e) s = .next
      (let ad := hbmAddrOf s d ch pc (b / 32 % 32) (b / 1024) (b % 32)
       let s1 := touchRow (upset s (hbmKey s ad) e) ad
       let s2 := if granPoison s1.hbm.mem (hbmKey s1 ad / 64) then s1 else readBurst s1 ad
       let y := getPc s2 d ch pc
       if y.scrubPos % scrubBursts = b then setPc s2 d ch pc { y with scrubPos := y.scrubPos + 1 } else s2) := by
  change execPatrolScrub d ch pc b e s = _
  rw [execPatrolScrub, whenRunning_running hrun, if_pos]
  rcases hslot with h | h <;> simp [hfit, ht, hz, hb, h, hbank]

theorem exec_checkWindow {s : State} (hrun : running s = true) (d : Fin 4) (m : BitVec 36) :
    exec (.checkWindow d m) s = .next
      (let v := mget 0 s.hbm.checking d.val
       if fld s (hbmCheckAt d) 49 48 = 1 ∧ checkAllowed s d (getPc s d (bits v 62 57) (bits v 56 56)) = true then
        let s1 := refreshAll s d (bits v 62 57) (bits v 56 56)
        let s2 := setPc s1 d (bits v 62 57) (bits v 56 56) { getPc s1 d (bits v 62 57) (bits v 56 56) with checkAt := some (nowNs s1 d) }
        checkedPc (setFld (setFld s2 (hbmCheckAt d) 49 48 2) (hbmCheckAt d) 47 12 m.toNat) d (bits v 62 57) (bits v 56 56)
       else s) := by
  change execCheckWindow d m s = _
  rw [execCheckWindow, whenRunning_running hrun]

/-- Settles O42: each command of a channel by what its guard reads: the channel's fitting, its flags, and what runs on it. -/
theorem hbmChannelsComplete : Obligations.HbmChannelsComplete := by
  intro s d ch pc hrun
  refine ⟨exec_lock hrun, fun habsent => ?_, fun hfit => ?_, ?_⟩
  · refine ⟨fun bank hot ups => exec_refresh_absent hrun d ch pc habsent bank ⟨hot, ups⟩,
      fun bank n => exec_refreshManagement_still hrun d ch pc bank (.inl habsent),
      fun ok => exec_sentinelRead_still hrun d ch pc (.inr habsent), fun on => ?_, ?_, ?_, ?_, exec_patrolScrub_absent hrun d ch pc habsent⟩
    · rw [exec_trained hrun, setTrained_absent habsent]
    · rw [exec_zero hrun, startZero_still (.inl habsent)]
    · rw [exec_recheckDue hrun, recheckDue_still (.inl habsent)]
    · rw [exec_apply hrun, setApply_still (.inl habsent)]
  · intro x a
    refine ⟨fun bank hot ups => exec_refresh hrun d ch pc hfit bank ⟨hot, ups⟩, fun bank hot hsame => ?_,
      fun bank n => exec_refreshManagement hrun d ch pc hfit bank, fun bank n hn => exec_refreshManagement_still hrun d ch pc bank (.inr hn),
      exec_sentinelRead_still hrun d ch pc (.inl rfl), exec_sentinelRead_failed hrun d ch pc hfit, fun on => ?_, fun ht => ?_, fun ht => ?_,
      fun hdue => ?_, fun hdue => ?_, fun hwait => ?_, fun ht hwait => ?_, fun ht hwait => ?_,
      fun b e ht hz hb hslot hbank => exec_patrolScrub hrun hfit ht hz hb hslot hbank e⟩
    · rw [exec_refresh hrun d ch pc hfit]
      exact congrArg _ (setHot_same hsame)
    · rw [exec_trained hrun, setTrained_fitted hfit]
    · rw [exec_zero hrun, startZero_trained hfit ht]
    · rw [exec_zero hrun, startZero_still (.inr ht)]
    · rw [exec_recheckDue hrun, recheckDue_still (.inr hdue)]
    · rw [exec_recheckDue hrun, recheckDue_set hfit hdue]
    · rw [exec_apply hrun, setApply_still (.inr hwait)]
    · rw [exec_apply hrun, setApply_untrained hfit hwait ht]
    · rw [exec_apply hrun, setApply_trained hfit hwait ht]
  · refine ⟨fun hz => ?_, fun hz => ?_, exec_applyAtRefresh_still hrun d ch pc, fun hwait => ?_, ⟨fun v => ?_, fun m => ?_⟩,
      ⟨fun v => ?_, fun spare bad hbusy => ?_, fun spare bad hidle => ?_⟩, fun v hlegal hwait => ?_, fun v hbad => ?_⟩
    · rw [exec_zeroDone hrun, if_pos hz]
    · rw [exec_zeroDone hrun, if_neg (by simp [hz])]
    · rw [exec_applyAtRefresh hrun d ch pc hwait]
      refine ⟨fun hone => congrArg _ (if_neg ?_), fun h0 h1 => ⟨_, congrArg _ (if_pos ?_), flag_setFlag_same _ _ _ (by decide),
        applied_applyEnded.1, applied_applyEnded.2, rfl, fun b hb => ?_⟩⟩
      · rw [Bool.and_eq_true, not_and_or, Bool.not_eq_true, Bool.not_eq_true]
        exact hone
      · rw [Bool.and_eq_true]
        exact ⟨h0, h1⟩
      · rw [applyEnded, setFlag_eq, rd_wr_ne _ _ hb, rd_setPc, rd_setPc, rd_delaysTaken]
    · rw [exec_hbmCheck hrun, writeHbmCheck_eq]
    · rw [exec_checkWindow hrun]
      exact ⟨fun hcheck hallow => congrArg _ (if_pos ⟨hcheck, hallow⟩),
        fun hno => congrArg _ (if_neg (by rw [not_and_or, Bool.not_eq_true]; exact hno))⟩
    · intro s1 k q
      refine ⟨fun hstill => ?_, fun hgo hidle => ⟨fun hbad => ?_, fun hfit ht hrow => ?_⟩⟩
      · rw [exec_hbmRepair hrun, writeHbmRepair_stored hstill]
      · rw [exec_hbmRepair hrun, writeHbmRepair_refused hgo hidle hbad]
      · rw [exec_hbmRepair hrun, writeHbmRepair_taken hgo hidle hfit ht hrow]
    · rw [exec_hbmRepairDone hrun, if_pos hbusy]
    · rw [exec_hbmRepairDone hrun, if_neg hidle]
    · rw [exec_hbmDlydat hrun]
      obtain ⟨hshadow, hother⟩ := writeDlydat_taken hlegal hwait v
      exact ⟨_, rfl, hshadow, hother⟩
    · rw [exec_hbmDlydat hrun, writeDlydat_error hbad]

end Sys2Proof.Machine
end

section
/-! SUPPORT. The fabric's requester and its home: saved responses, responses that arrive, timers, tokens, contexts and command rings
(R353-R361, R396). -/

namespace Sys2Proof.Machine
open Sys2Proof

/-! ### A marked request whose key has a saved response (R358) -/

theorem arrive_duplicate {s s0 : State} {p : Packet} {r : DedupRec} (hserve : homeVerdict s p = .serve false) (hport : portBusy s p = false)
    (hinc : incCheck (takeFabric s p) p = some s0) (hrec : findRec s0 (keyOf p) = some r) (hprog : inProgress s0 p = false)
    (body : Bool → State → Option Done) : arrive s p true body = fabReply s0 p r.status.toNat r.data 0 := by
  simp [arrive, homeServe, hserve, hport, hinc, hrec, hprog]

/-- Settles O44: the record answers before the operation is looked at. -/
theorem duplicateRequestsAnswered : Obligations.DuplicateRequestsAnswered := by
  intro s p s0 r hrun hserve hport hinc hrec hprog c hc
  have hsaved : ∀ (op : BitVec 8) (body : Packet → Bool → State → Option Done), p.op = op →
      whenRunning s (fun s => if p.op = op then arrive s p true (body p) else s) = .next (fabReply s0 p r.status.toNat r.data 0) := by
    intro op body hop
    rw [whenRunning_op hrun hop fun s p => arrive s p true (body p), arrive_duplicate hserve hport hinc hrec hprog]
  rcases hc with ⟨rfl, hop⟩ | ⟨rfl, hop⟩ | ⟨rfl, hop⟩ | ⟨rfl, hop⟩ | ⟨rfl, hop⟩ | ⟨rfl, hop⟩ | ⟨rfl, hop⟩ | ⟨rfl, hop⟩
  · exact hsaved 0x41 fwriteBody hop
  · exact hsaved 0x42 fatomicBody hop
  · exact hsaved 0x44 fsignalBody hop
  · exact hsaved 0x45 (queueBody pushAt) hop
  · exact hsaved 0x46 (queueBody reserveAt) hop
  · exact hsaved 0x47 (queueBody fun s p => (stOk, creditAt s p)) hop
  · exact hsaved 0x48 (queueBody fun s p => (stOk, grantAt s p)) hop
  · exact hsaved 0x49 (queueBody endmarkAt) hop

/-! ### Responses, retries and timers (R359, R361, R396) -/

/-- A waiting request has its FTIMEOUT anew (R396). -/
def restartWait (s : State) (id : Nat) : State :=
  setFab s { s.fabric with outst := s.fabric.outst.map (fun e => if e.id = id then { e with since := nowNs s 4 } else e) }

section
variable {s : State} (hrun : running s = true)
include hrun

theorem exec_fabricResponse_unknown {p : Packet} (h : answered (takeFabric s p) p = none) :
    exec (.fabricResponse p) s = .next (takeFabric s p) := by
  change execFabricResponse p s = _
  rw [execFabricResponse, whenRunning_running hrun]
  simp only [h]

theorem exec_fabricResponse {p : Packet} {r : FabReq} (h : answered (takeFabric s p) p = some r) :
    exec (.fabricResponse p) s = .next (if p.status.toNat = stAdmitWait then takeFabric s p
      else if !answerFree (takeFabric s p) r p then sendFabric (takeFabric s p) (ownDev (takeFabric s p)) p
      else fabComplete (takeFabric s p) r p p.status.toNat) := by
  change execFabricResponse p s = _
  rw [execFabricResponse, whenRunning_running hrun]
  simp only [h]

theorem exec_admitWait_unknown {p : Packet} (h : answered (takeFabric s p) p = none) (age : Nat) :
    exec (.admitWait p age) s = .next (takeFabric s p) := by
  change execAdmitWait p age s = _
  rw [execAdmitWait, whenRunning_running hrun]
  simp only [h]

theorem exec_admitWait {p : Packet} {r : FabReq} (h : answered (takeFabric s p) p = some r) (age : Nat) :
    exec (.admitWait p age) s = .next
      (if p.status.toNat = stAdmitWait && age ≤ 400 then restartWait (takeFabric s p) r.id else takeFabric s p) := by
  change execAdmitWait p age s = _
  rw [execAdmitWait, whenRunning_running hrun]
  simp only [h, restartWait]

theorem exec_fabricRetry {id : Nat} {r : FabReq} (h : findReq s id = some r) : exec (.fabricRetry id) s = .next
    (if r.sent then sendFabric s r.dev.toNat { r.pkt with od := { r.pkt.od with retry := true } } else s) := by
  change execFabricRetry id s = _
  rw [execFabricRetry, whenRunning_running hrun]
  simp only [h]

theorem exec_fabricTimeout {id : Nat} {r : FabReq} (h : findReq s id = some r) : exec (.fabricTimeout id) s = .next
    (if (r.sent || (8192 ≤ s.fabric.ctxs.length && (ctxOfPeer s r.dev.toNat).isNone)) && answerFree s r { op := r.pkt.op } then
      fabComplete s r { op := r.pkt.op } stFabricTimeout else s) := by
  change execFabricTimeout id s = _
  rw [execFabricTimeout, whenRunning_running hrun]
  simp only [h]

theorem exec_holdLimit {id : Nat} {r : FabReq} (h : findReq s id = some r) : exec (.holdLimit id) s = .next
    (if (r.sent || (ctxOfPeer s r.dev.toNat).isNone) && answerFree s r { op := r.pkt.op } then
      fabComplete s r { op := r.pkt.op } stFabricTimeout else s) := by
  change execHoldLimit id s = _
  rw [execHoldLimit, whenRunning_running hrun]
  simp only [h]

theorem exec_timers_unknown {id : Nat} (h : findReq s id = none) :
    exec (.fabricRetry id) s = .next s ∧ exec (.fabricTimeout id) s = .next s ∧ exec (.holdLimit id) s = .next s := by
  change execFabricRetry id s = _ ∧ execFabricTimeout id s = _ ∧ execHoldLimit id s = _
  simp only [execFabricRetry, execFabricTimeout, execHoldLimit, whenRunning_running hrun, h, and_self]

theorem exec_recordExpiry (key : DedupKey) : exec (.recordExpiry key) s = .next (s.fabric.heldReq.foldl fabricArrives
    (setFab s { s.fabric with recs := s.fabric.recs.filter (fun r => r.key != key), heldReq := [] })) := by
  change execRecordExpiry key s = _
  rw [execRecordExpiry, whenRunning_running hrun]

theorem exec_tokenGain : exec .tokenGain s = .next
    (if fabricReadyNow s then fabPump (setFld s admitAt 63 57 (min 96 (tokens s + 1))) else s) := by
  change execTokenGain s = _
  rw [execTokenGain, whenRunning_running hrun]

theorem exec_contextReuse (peer : BitVec 20) : exec (.contextReuse peer) s = .next
    (if s.fabric.outst.any (fun r => r.dev == peer && r.sent) then s
     else fabPump (setFab s { s.fabric with ctxs := s.fabric.ctxs.filter (fun c => c.peer != peer) })) := by
  change execContextReuse peer s = _
  rw [execContextReuse, whenRunning_running hrun]

/-! ### Command rings (R353) -/

theorem exec_fxCqdb (r : Fin 16) (v : Word) : exec (.fxCqdb r v) s = .next (setRingTail s r (bits v 31 0)) :=
  whenRunning_running hrun fun s => setRingTail s r (bits v 31 0)

end

section
variable {s : State} {r v : Nat}

theorem setRingTail_taken (hon : ringOn s r = true) (hfit : sub32 v (ringHead s r) ≤ 2 ^ ringLog2 s r) :
    setRingTail s r v = setFld s (cqdbAt r) 31 0 v :=
  if_neg (by simp [hon, hfit])

theorem setRingTail_error (h : ringOn s r = false ∨ 2 ^ ringLog2 s r < sub32 v (ringHead s r)) : setRingTail s r v = fxErr s :=
  if_pos (by rcases h with h | h <;> simp [h])

end

/-- The eight words of a descriptor that has been read. -/
def descWords (rd : State × List Byte × Nat) : List Word :=
  (List.range 8).map (fun i => BitVec.ofNat 64 (leNat ((rd.2.1.drop (8 * i)).take 8)))

/-- A descriptor of a ring ends at once. -/
def descEnded (u : State) (r a : Nat) (w : List Word) (e : Status) : State :=
  ringResult u { r, entry := a, irq := bit (w.getD 0 0) 48, status := e, result := 0 }

/-- HEAD has passed the descriptor, which is outstanding now. -/
def descNext (s : State) (r : Nat) (rd : State × List Byte × Nat) : State :=
  setRing (setFld rd.1 (cqdbAt r) 63 32 (ringHead s r + 1)) r { outst := (getRing s r).outst + 1 }

/-- What becomes of a descriptor that has been read. -/
def descTaken (s : State) (r : Nat) (rd : State × List Byte × Nat) (w : List Word) : State :=
  if !descRefused s w && bits (w.getD 0 0) 63 56 == 0x4F then
    (if (getRing s r).outst = 0 then descEnded (descNext s r rd) r (descAt s r) w stOk else s)
  else if rd.2.2 ≠ 0 then descEnded (descNext s r rd) r (descAt s r) w stPoison
  else if descRefused s w then descEnded (descNext s r rd) r (descAt s r) w stFabricRefused
  else if bits (w.getD 0 0) 63 56 == 0x41 && !hbmFree s (w.getD 2 0).toNat (bits (w.getD 0 0) 31 0) then s
  else
    let q := descRequest (descNext s r rd) w
    if q.2.2 ≠ 0 then descEnded q.1 r (descAt s r) w q.2.2
    else fabIssue q.1 (.ring r (descAt s r) (bit (w.getD 0 0) 48) (w.getD 2 0).toNat) q.2.1 (addrDev q.2.1.addr)

section
variable {s : State} (hrun : running s = true) {r : Fin 16}
include hrun

theorem exec_descriptor_still (h : ringOn s r = false ∨ ringHead s r = ringTail s r ∨ 64 ≤ (getRing s r).outst) :
    exec (.descriptor r) s = .next s := by
  change execDescriptor r s = _
  rw [execDescriptor, whenRunning_running hrun]
  dsimp only
  rw [if_pos]
  rcases h with h | h | h <;> simp [h]

theorem exec_descriptor (hon : ringOn s r = true) (hsome : ringHead s r ≠ ringTail s r) (hfew : (getRing s r).outst < 64)
    (hroom : fabRoom s = true) (hrange : inSeqRange s.part (descAt s r) 64 = true) (hopen : hbmRefusal s .host (descAt s r) = 0)
    (hfree : hbmFree s (descAt s r) 64 = true) :
    exec (.descriptor r) s = .next (descTaken s r (hbmRead s (descAt s r) 64) (descWords (hbmRead s (descAt s r) 64))) := by
  change execDescriptor r s = _
  rw [execDescriptor, whenRunning_running hrun]
  dsimp only
  rw [if_neg (by simp [hon, hsome, hfew, hroom, hrange, hopen, hfree])]
  rfl

end

section
variable {s : State} {r : Nat} {rd : State × List Byte × Nat} {w : List Word}

/-- FENCE waits for the descriptors before it. -/
theorem descTaken_fence (hlegal : descRefused s w = false) (hop : bits (w.getD 0 0) 63 56 = 0x4F) : descTaken s r rd w =
    if (getRing s r).outst = 0 then descEnded (descNext s r rd) r (descAt s r) w stOk else s :=
  if_pos (by rw [hlegal, hop]; rfl)

theorem descTaken_poison (h : descRefused s w = true ∨ bits (w.getD 0 0) 63 56 ≠ 0x4F) (hbad : rd.2.2 ≠ 0) :
    descTaken s r rd w = descEnded (descNext s r rd) r (descAt s r) w stPoison := by
  rw [descTaken, if_neg, if_pos hbad]
  rcases h with h | h
  · rw [h]; exact Bool.false_ne_true
  · rw [beq_eq_false_iff_ne.2 h, Bool.and_false]; exact Bool.false_ne_true

theorem descTaken_refused (h : descRefused s w = true) (hgood : rd.2.2 = 0) :
    descTaken s r rd w = descEnded (descNext s r rd) r (descAt s r) w stFabricRefused := by
  rw [descTaken, if_neg (by simp [h]), if_neg (by simp [hgood]), if_pos h]

theorem descTaken_issued (hlegal : descRefused s w = false) (hop : bits (w.getD 0 0) 63 56 ≠ 0x4F) (hgood : rd.2.2 = 0)
    (hlocal : bits (w.getD 0 0) 63 56 ≠ 0x41 ∨ hbmFree s (w.getD 2 0).toNat (bits (w.getD 0 0) 31 0) = true) :
    descTaken s r rd w =
      if (descRequest (descNext s r rd) w).2.2 ≠ 0 then
        descEnded (descRequest (descNext s r rd) w).1 r (descAt s r) w (descRequest (descNext s r rd) w).2.2
      else fabIssue (descRequest (descNext s r rd) w).1 (.ring r (descAt s r) (bit (w.getD 0 0) 48) (w.getD 2 0).toNat)
        (descRequest (descNext s r rd) w).2.1 (addrDev (descRequest (descNext s r rd) w).2.1.addr) := by
  rw [descTaken, if_neg, if_neg (not_not.2 hgood), if_neg (by rw [hlegal]; exact Bool.false_ne_true), if_neg]
  · rcases hlocal with h | h
    · rw [beq_eq_false_iff_ne.2 h]; exact Bool.false_ne_true
    · rw [h, Bool.not_true, Bool.and_false]; exact Bool.false_ne_true
  · rw [beq_eq_false_iff_ne.2 hop, Bool.and_false]; exact Bool.false_ne_true

end

/-- Settles O45: a response by what is outstanding, a timer by the state of its request, a descriptor by its words. -/
theorem fabricRequesterCompletes : Obligations.FabricRequesterCompletes := by
  intro s hrun
  refine ⟨fun p => ⟨fun hnone => ?_, fun r hsome => ⟨fun hwait => ?_, fun hdone hfree => ?_, fun hdone hheld => ?_, fun age hwait hage => ?_,
      fun age hlate => ?_⟩⟩, fun id hnone => exec_timers_unknown hrun hnone,
    fun id r hsome => ⟨fun hsent => ?_, fun hsent => ?_, fun hfree hdue => ?_, fun hnot => ?_, fun hfree hdue => ?_, fun hnot => ?_⟩,
    fun k => exec_recordExpiry hrun k, fun hready => ?_, fun hready => ?_, fun peer hidle => ?_, fun peer hbusy => ?_,
    fun r v hon hfit => ?_, fun r v herr => ?_, fun r => exec_descriptor_still hrun, fun r hon hne hfew hroom hrange hopen hfree => ?_⟩
  · exact ⟨exec_fabricResponse_unknown hrun hnone, exec_admitWait_unknown hrun hnone⟩
  · rw [exec_fabricResponse hrun hsome, if_pos hwait]
  · rw [exec_fabricResponse hrun hsome, if_neg hdone, if_neg (by simp [hfree])]
  · rw [exec_fabricResponse hrun hsome, if_neg hdone, if_pos (by simp [hheld])]
  · rw [exec_admitWait hrun hsome, if_pos (by simp [hwait, hage])]
    rfl
  · rw [exec_admitWait hrun hsome, if_neg]
    simp only [Bool.and_eq_true, decide_eq_true_eq, not_and, not_le]
    exact fun hwait => hlate.resolve_left (not_not.2 hwait)
  · rw [exec_fabricRetry hrun hsome, if_pos hsent]
  · rw [exec_fabricRetry hrun hsome, if_neg (by simp [hsent])]
  · rw [exec_fabricTimeout hrun hsome, if_pos]
    rw [Bool.and_eq_true]
    exact ⟨by rcases hdue with h | ⟨h, hnone⟩ <;> simp [*], hfree⟩
  · rw [exec_fabricTimeout hrun hsome, if_neg]
    rcases hnot with hheld | ⟨hsent, hroom⟩
    · rw [hheld, Bool.and_false]; exact Bool.false_ne_true
    · rcases hroom with h | h <;> simp [hsent, h]
  · rw [exec_holdLimit hrun hsome, if_pos]
    rw [Bool.and_eq_true]
    exact ⟨by rcases hdue with h | h <;> simp [h], hfree⟩
  · rw [exec_holdLimit hrun hsome, if_neg]
    rcases hnot with hheld | ⟨hsent, hroom⟩
    · rw [hheld, Bool.and_false]; exact Bool.false_ne_true
    · simp [hsent, hroom]
  · rw [exec_tokenGain hrun, if_pos hready]
  · rw [exec_tokenGain hrun, if_neg (by simp [hready])]
  · rw [exec_contextReuse hrun, if_neg (by simp [hidle])]
    rfl
  · rw [exec_contextReuse hrun, if_pos hbusy]
  · rw [exec_fxCqdb hrun, setRingTail_taken hon hfit]
  · rw [exec_fxCqdb hrun, setRingTail_error herr]
  · rw [exec_descriptor hrun hon hne hfew hroom hrange hopen hfree]
    refine ⟨fun hlegal hop hn => ?_, fun hlegal hop hn => ?_, fun h hbad => congrArg _ (descTaken_poison h hbad),
      fun h hgood => congrArg _ (descTaken_refused h hgood), fun hlegal hop hgood hlocal => ?_⟩
    · exact congrArg _ ((descTaken_fence hlegal hop).trans (if_pos hn))
    · exact congrArg _ ((descTaken_fence hlegal hop).trans (if_neg hn))
    · have hissued := descTaken_issued (r := r.val) hlegal hop hgood hlocal
      exact ⟨fun hbad => congrArg _ (hissued.trans (if_pos hbad)), fun hok => congrArg _ (hissued.trans (if_neg (not_not.2 hok)))⟩

end Sys2Proof.Machine
end

section
/-! SUPPORT. The pair: heartbeats, the failed partner, the lease, yield, the exchange with the twin, and the device number
(R345, R367-R378). -/

namespace Sys2Proof.Machine
open Sys2Proof

/-! ### What changes of the twin's fields leave -/

theorem twinState_congr {s u : State} (hpart : u.part = s.part) (hcsr : u.csr = s.csr) : twinState u = twinState s :=
  fld_congr hpart hcsr _ _ _

theorem twinState_setFld (s : State) {hi lo v : Nat} (h : hi < 61) : twinState (setFld s fxTwinAt hi lo v) = twinState s :=
  fld_setFld_ne s fxTwinAt v (.inr h)

theorem twinState_setFlag (s : State) {i : Nat} (b : Bool) (h : i < 61) : twinState (setFlag s fxTwinAt i b) = twinState s :=
  fld_setFlag_ne s fxTwinAt b (.inl h)

theorem pairWitness_congr {s u : State} (hpart : u.part = s.part) (hmgmt : u.mgmt = s.mgmt) (hfabric : u.fabric = s.fabric) :
    pairWitness u = pairWitness s := by
  have hown : ownDev u = ownDev s := by rw [ownDev, hfabric, ownDev]
  have hring : ringLen u = ringLen s := funext fun _ => objN_congr hpart hmgmt _ _
  rw [pairWitness, pairWitness, witnessOf, witnessOf, hown, hring]

/-! ### Heartbeats and the failed partner (R368, R369, R376) -/

section
variable {s : State} (hrun : running s = true)
include hrun

theorem exec_heartbeatSend : exec .heartbeatSend s = .next
    (if fabricReadyNow s && s.fabric.dev.isSome && !s.failed then sendLink (sendLink s (.heartbeat true)) (.heartbeat false) else s) := by
  change execHeartbeatSend s = _
  rw [execHeartbeatSend, whenRunning_running hrun]

theorem exec_heartbeat (direct : Bool) : exec (.heartbeat direct) s = .next
    (let s0 := setFlag s fxTwinAt (if direct then 28 else 27) true
     let s1 := setTwin s0 { s0.twin with hbAt := s0.twin.hbAt.set (if direct then 0 else 1) (nowNs s0 4) }
     if twinState s = 2 then takeHeld s1 else s1) := by
  have hstate : ∀ t, twinState (setTwin (setFlag s fxTwinAt (if direct then 28 else 27) true) t) = twinState s := fun t =>
    (twinState_congr (s := setFlag s fxTwinAt (if direct then 28 else 27) true) rfl rfl).trans
      (twinState_setFlag s true (by split <;> decide))
  change execHeartbeat direct s = _
  rw [execHeartbeat, whenRunning_running hrun]
  dsimp only
  rw [hstate]

theorem exec_heartbeatLoss : exec .heartbeatLoss s = .next (declare s 1) := whenRunning_running hrun fun s => declare s 1
theorem exec_failNotice : exec .failNotice s = .next (declare s 2) := whenRunning_running hrun fun s => declare s 2

end

section
variable {s : State} {cause : Nat}

/-- The paths to a partner that is declared failed are down. -/
def pathsDown (s : State) : State := setFld s fxTwinAt 28 27 0

theorem declare_covering (h : twinState s = 3) : declare s cause = setFld
    (setTwin (pathsDown s) { (pathsDown s).twin with syncPos := none, cutover := false, cutEpoch := none }) fxTwinAt 26 20 0 :=
  if_pos ((twinState_setFld s (by decide)).trans h)

theorem declare_still (h : twinState s ≠ 2 ∧ twinState s ≠ 3 ∨ twinState s = 2 ∧ s.twin.declared ≠ 0) : declare s cause = pathsDown s := by
  have hstate : twinState (setFld s fxTwinAt 28 27 0) = twinState s := twinState_setFld s (by decide)
  have hdecl : (setFld s fxTwinAt 28 27 0).twin = s.twin := setFld_twin ..
  unfold declare
  dsimp only
  rw [hstate, hdecl, if_neg (by omega), if_pos (by rcases h with h | h <;> simp [h])]
  rfl

/-- A partner of a PAIRED device is declared failed once. -/
def declared (s : State) (cause : Nat) : State := setTwin (pathsDown s) { (pathsDown s).twin with declared := cause }

theorem declare_paired (hpair : twinState s = 2) (hfirst : s.twin.declared = 0) : declare s cause =
    if (pairWitness s).isSome then declared s cause
    else if cause = 2 || parity (declared s cause) = 0 then enterCovering (declared s cause) (epoch (declared s cause) + 1)
    else enterIsolated (declared s cause) := by
  have hstate : twinState (setFld s fxTwinAt 28 27 0) = twinState s := twinState_setFld s (by decide)
  have hdecl : (setFld s fxTwinAt 28 27 0).twin = s.twin := setFld_twin ..
  have hwitness : pairWitness (setTwin (setFld s fxTwinAt 28 27 0) { s.twin with declared := cause }) = pairWitness s :=
    pairWitness_congr rfl rfl rfl
  unfold declare declared pathsDown
  dsimp only
  rw [hstate, hdecl, if_neg (by omega), if_neg (by simp [hpair, hfirst]), hwitness]

end

/-! ### The lease (R369) -/

section
variable {s : State} (hrun : running s = true)
include hrun

theorem exec_leaseSend : exec .leaseSend s = .next
    (if twinState s = 2 && s.twin.declared ≠ 0 && (pairWitness s).isSome then
      sendLink (setTwin s { s.twin with leaseSent := true }) (.lease (BitVec.ofNat 32 (epoch s))) else s) := by
  change execLeaseSend s = _
  rw [execLeaseSend, whenRunning_running hrun]

theorem exec_lease_elsewhere {dev : BitVec 20} (h : s.fabric.dev = none ∨ answersFor s dev.toNat = false) (e : BitVec 32) :
    exec (.lease dev e) s = .next s := by
  change execLease dev e s = _
  rw [execLease, whenRunning_running hrun, if_neg (by rcases h with h | h <;> simp [h])]

theorem exec_lease {dev : BitVec 20} (hdev : s.fabric.dev.isSome = true) (h : answersFor s dev.toNat = true) (e : BitVec 32) :
    exec (.lease dev e) s = .next
      (if (leaseOf s (dev.toNat / 2)).1 ≤ e.toNat then grantLease s dev (e + 1)
       else if leaseOf s (dev.toNat / 2) = ((e + 1).toNat, dev.toNat) then
        (if s.twin.waitAck.any (fun w => w.2 == .lease dev (e + 1)) then s else sendLink s (.leaseAnswer dev true (e + 1)))
       else sendLink s (.leaseAnswer dev false (e + 1))) := by
  change execLease dev e s = _
  rw [execLease, whenRunning_running hrun, if_pos (by simp [hdev, h])]

theorem exec_leaseResponse (granted : Bool) (e : BitVec 32) : exec (.leaseResponse granted e) s = .next
    (if twinState s = 2 && s.twin.declared ≠ 0 then (if granted then enterCovering s e.toNat else enterStale s)
     else if twinState s = 3 && s.twin.cutover && granted then cutWith s e.toNat else s) := by
  change execLeaseResponse granted e s = _
  rw [execLeaseResponse, whenRunning_running hrun]

theorem exec_leaseTimeout : exec .leaseTimeout s = .next (if twinState s = 2 && s.twin.declared ≠ 0 then enterIsolated s else s) := by
  change execLeaseTimeout s = _
  rw [execLeaseTimeout, whenRunning_running hrun]

/-! ### Yield, restore and the exchange with the twin (R373, R374, R377) -/

theorem exec_yield (v : BitVec 8) : exec (.yield v) s = .next (doYield s v.toNat) := whenRunning_running hrun fun s => doYield s v.toNat
theorem exec_restore (v : BitVec 8) : exec (.restore v) s = .next (doRestore s v.toNat) := whenRunning_running hrun fun s => doRestore s v.toNat

theorem exec_yieldComplete : exec .yieldComplete s = .next
    (if s.twin.yielding && twinState s = 2 && homeIdle s then enterStale (sendLink s .failNotice) else s) := by
  change execYieldComplete s = _
  rw [execYieldComplete, whenRunning_running hrun]

theorem exec_twinLinkActive (i : TwinInfo) : exec (.twinLinkActive i) s = .next
    (let s1 := setTwin (sendLink s (.twinInfo (ownInfo s))) { s.twin with partner := some i }
     if fabricReadyNow s then joinTwin s1 i else s1) := by
  have hready : fabricReadyNow (setTwin (sendLink s (.twinInfo (ownInfo s))) { s.twin with partner := some i }) = fabricReadyNow s :=
    congrArg (· == 3) (fld_congr rfl rfl ..)
  have htwin : (sendLink s (.twinInfo (ownInfo s))).twin = s.twin := rfl
  change execTwinLinkActive i s = _
  rw [execTwinLinkActive, whenRunning_running hrun]
  dsimp only
  rw [htwin, hready]

end

/-- Outside PAIRED and COVERING a lease is granted at once. -/
theorem grantLease_alone {s : State} (dev : BitVec 20) (e : BitVec 32) (h2 : twinState s ≠ 2) (h3 : twinState s ≠ 3) :
    grantLease s dev e = { s with
      twin := { s.twin with leases := mset (0, 0) s.twin.leases (dev.toNat / 2) (e.toNat, dev.toNat) },
      linkOut := s.linkOut ++ [.leaseAnswer dev true e] } := by
  have hstate : twinState (putLease s dev.toNat e.toNat) = twinState s := twinState_congr rfl rfl
  unfold grantLease
  dsimp only
  rw [hstate, if_neg h2, if_neg (by simp [h3])]
  rfl

section
variable {s : State} {v : BitVec 8}

theorem toNat_eq_one {n : Nat} {v : BitVec (n + 1)} : v.toNat = 1 ↔ v = 1 := by
  rw [← BitVec.toNat_inj]
  simp

theorem doYield_taken (hv : v = 1) (h : twinState s = 2) : doYield s v.toNat = setTwin s { s.twin with yielding := true } :=
  if_pos (by simp [hv, h])
theorem doYield_still (hno : v ≠ 1 ∨ twinState s ≠ 2) : doYield s v.toNat = s :=
  if_neg (by rw [Bool.and_eq_true, decide_eq_true_iff, decide_eq_true_iff, toNat_eq_one, not_and_or]; exact hno)
theorem doRestore_taken (hv : v = 1) (h : twinState s = 2) : doRestore s v.toNat = setTwin s { s.twin with lost := false } :=
  if_pos (by simp [hv, h])
theorem doRestore_still (hno : v ≠ 1 ∨ twinState s ≠ 2) : doRestore s v.toNat = s :=
  if_neg (by rw [Bool.and_eq_true, decide_eq_true_iff, decide_eq_true_iff, toNat_eq_one, not_and_or]; exact hno)

end

/-! ### The device number (R345) -/

theorem exec_devnum (s : State) (v : BitVec 32) : exec (.devnum v) s = .next (setDevnum s v.toNat) := rfl

section
variable {s : State} {v : Nat}

theorem objN_setNumber (hv : v ≤ 0xFFFFF) : objN (objSetN s 0x0A01 1 v) 0x0A01 1 = v := by
  rw [objN_objSetN_same]
  exact Nat.mod_eq_of_lt (show v < 256 ^ 4 by omega)

theorem setDevnum_first (hv : v ≤ 0xFFFFF) (h : s.fabric.dev = none) : setDevnum s v =
    setFab (objSetN s 0x0A01 1 v) { s.fabric with dev := some (BitVec.ofNat 20 v) } := by
  have hfabric : (objSetN s 0x0A01 1 v).fabric = s.fabric := rfl
  unfold setDevnum
  dsimp only
  rw [if_neg (by omega), hfabric, if_pos (by rw [h]; rfl)]

theorem setDevnum_later (hv : v ≤ 0xFFFFF) (h : s.fabric.dev.isSome = true) : setDevnum s v = objSetN s 0x0A01 1 v := by
  have hfabric : (objSetN s 0x0A01 1 v).fabric = s.fabric := rfl
  unfold setDevnum
  dsimp only
  rw [if_neg (by omega), hfabric, if_neg]
  rw [Option.isNone_eq_false_iff.2 h]
  exact Bool.false_ne_true

theorem setDevnum_still (hv : 0xFFFFF < v) : setDevnum s v = s := if_pos hv

end

/-- Settles O46: each command by STATE of FX_TWIN, what is declared, and whether the pair has a witness. -/
theorem twinStatesComplete : Obligations.TwinStatesComplete := by
  intro s hrun
  refine ⟨fun hready hdev hwell => ?_, fun hno => ?_, fun direct => exec_heartbeat hrun direct, fun c cause hc => ?_, fun hpair hdecl hwit => ?_,
    fun hno => ?_, fun dev e hno => exec_lease_elsewhere hrun hno e, fun dev e hdev hans => ?_, fun dev e => grantLease_alone dev e,
    fun e hpair hdecl => ?_, fun e hcover hcut => ?_, fun e g hno => ?_, fun hno => ?_, fun v => ⟨fun hv => ?_, fun hno => ?_⟩,
    fun hyield hpair hidle => ?_, fun hno => ?_, fun i => ?_, fun v hv hdev => ?_, fun v hv hdev => ?_, fun v hv => ?_⟩
  · rw [exec_heartbeatSend hrun, if_pos (by simp [hready, hdev, hwell])]
    simp [sendLink]
  · rw [exec_heartbeatSend hrun, if_neg (by rcases hno with h | h | h <;> simp [h])]
  · have hexec : exec c s = .next (declare s cause) ∧ (cause = 1 ∨ cause = 2) := by
      rcases hc with ⟨rfl, rfl⟩ | ⟨rfl, rfl⟩
      · exact ⟨exec_heartbeatLoss hrun, .inl rfl⟩
      · exact ⟨exec_failNotice hrun, .inr rfl⟩
    rw [hexec.1]
    refine ⟨fun h2 h3 => ?_, fun h3 => ?_, fun h2 hd => ?_, fun h2 hd => ?_⟩
    · rw [declare_still (.inl ⟨h2, h3⟩), pathsDown]
    · rw [declare_covering h3]
      rfl
    · rw [declare_still (.inr ⟨h2, hd⟩), pathsDown]
    · rw [declare_paired h2 hd]
      refine ⟨fun hw => congrArg _ (if_pos hw), fun hw hcause => ?_, fun hw hcause hpar => ?_⟩
      · rw [if_neg (by simp [hw]), if_pos]
        · rfl
        · rw [Bool.or_eq_true, decide_eq_true_iff, decide_eq_true_iff]
          exact hcause
      · rw [if_neg (by simp [hw]), if_neg]
        · rfl
        · rw [Bool.or_eq_true, decide_eq_true_iff, decide_eq_true_iff, not_or]
          exact ⟨by omega, hpar⟩
  · rw [exec_leaseSend hrun, if_pos (by simp [hpair, hdecl, hwit])]
    rfl
  · rw [exec_leaseSend hrun, if_neg (by rcases hno with h | h | h <;> simp [h])]
  · rw [exec_lease hrun hdev hans]
    refine ⟨fun hfresh => ?_, fun hold hother => ?_, fun hold hsame hacked => ?_, fun hold hsame hwaits => ?_⟩
    · rw [if_pos hfresh]
    · rw [if_neg (by omega), if_neg hother]
      rfl
    · rw [if_neg (by omega), if_pos hsame, if_neg (by rw [hacked]; exact Bool.false_ne_true)]
      rfl
    · rw [if_neg (by omega), if_pos hsame, if_pos hwaits]
  · rw [exec_leaseResponse hrun, exec_leaseResponse hrun, exec_leaseTimeout hrun]
    simp [hpair, hdecl]
  · rw [exec_leaseResponse hrun, if_neg (by simp [hcover]), if_pos (by simp [hcover, hcut])]
  · rw [exec_leaseResponse hrun, if_neg (by rcases hno with h | h | h <;> simp [h]), if_neg]
    rcases hno with ⟨h, -⟩ | ⟨-, h | h⟩ | ⟨-, h⟩ <;> simp [h]
  · rw [exec_leaseTimeout hrun, if_neg (by rcases hno with h | h <;> simp [h])]
  · rw [exec_yield hrun, exec_restore hrun, doYield_taken hv.1 hv.2, doRestore_taken hv.1 hv.2]
    exact ⟨rfl, rfl⟩
  · rw [exec_yield hrun, exec_restore hrun, doYield_still hno, doRestore_still hno]
    exact ⟨rfl, rfl⟩
  · rw [exec_yieldComplete hrun, if_pos (by simp [hyield, hpair, hidle])]
  · rw [exec_yieldComplete hrun, if_neg (by rcases hno with h | h | h <;> simp [h])]
  · rw [exec_twinLinkActive hrun]
    exact ⟨fun h => congrArg _ (if_pos h), fun h => congrArg _ (if_neg (by rw [h]; exact Bool.false_ne_true))⟩
  · exact ⟨_, (exec_devnum s v).trans (congrArg _ (setDevnum_first hv hdev)), objN_setNumber hv, rfl, rfl, rfl⟩
  · exact ⟨_, (exec_devnum s v).trans (congrArg _ (setDevnum_later hv hdev)), objN_setNumber hv, rfl, rfl, rfl⟩
  · rw [exec_devnum, setDevnum_still hv]

end Sys2Proof.Machine
end

section
/-! SUPPORT. The mirror: writes and their acknowledgements, resynchronisation, cutover, and changes of the mirror table
(R347, R358, R362-R365, R375, R376). -/

namespace Sys2Proof.Machine
open Sys2Proof

/-! ### Entries of the mirror table -/

theorem mirAt_inj {m k : Nat} (h : mirAt m = mirAt k) : m = k := by
  simp only [mirAt, fxAt, csrAt] at h
  omega

theorem fxTwinAt_ne_mirAt (m : Nat) : fxTwinAt ≠ mirAt m := by
  simp only [fxTwinAt, mirAt, fxAt, csrAt]
  omega

theorem mirAt_ne_log {m : Nat} (hm : m < 64) : mirAt m ≠ logNewAt ∧ mirAt m ≠ logOvrAt := by
  simp only [mirAt, logNewAt, logOvrAt, fxAt, csrAt, csrBase]
  omega

/-- One entry takes an MSTATE when it is in use. -/
def setMir (v : Nat) (s : State) (m : Nat) : State := if mirValid s m then setFld s (mirAt m) 61 60 v else s

theorem setAllMir_eq (s : State) (v : Nat) : setAllMir s v = (List.range 64).foldl (setMir v) s := rfl

theorem setMir_eventFrame (v : Nat) (s : State) (m : Nat) : EventFrame s (setMir v s m) := by
  unfold setMir
  split
  · exact wr_eventFrame ..
  · exact .refl s

theorem rd_setMir_ne (v : Nat) (s : State) {m b : Nat} (h : b ≠ mirAt m) : rd (setMir v s m) b = rd s b := by
  unfold setMir
  split
  · exact rd_wr_ne s _ h
  · rfl

theorem mirValid_setMir (v : Nat) (s : State) (m k : Nat) : mirValid (setMir v s m) k = mirValid s k := by
  by_cases h : mirAt k = mirAt m
  · unfold setMir
    split
    · rw [mirValid, mirValid, h, flag_setFld_ne s _ (.inr (by decide))]
    · rfl
  · rw [mirValid, mirValid, flag, flag, rd_setMir_ne v s h]

theorem mirState_setMir_same {v m : Nat} {s : State} (hv : v < 4) (h : mirValid s m = true) : mirState (setMir v s m) m = v := by
  rw [mirState, setMir, if_pos h, fld_setFld_same s _ v (by decide) (by decide)]
  omega

theorem mirState_setMirs {v m : Nat} (hv : v < 4) : ∀ (l : List Nat) (s : State), mirValid s m = true → m ∈ l ∨ mirState s m = v →
    mirState (l.foldl (setMir v) s) m = v
  | [], _, _, h => h.resolve_left List.not_mem_nil
  | x :: l, s, hval, h => by
    refine mirState_setMirs hv l _ ((mirValid_setMir v s x m).trans hval) ?_
    by_cases hx : m = x
    · exact .inr (hx ▸ mirState_setMir_same hv hval)
    · rcases h with h | h
      · exact .inl ((List.mem_cons.1 h).resolve_left hx)
      · refine .inr (Eq.trans ?_ h)
        rw [mirState, mirState, fld, fld, rd_setMir_ne v s fun e => hx (mirAt_inj e)]

theorem setAllMir_eventFrame (s : State) (v : Nat) : EventFrame s (setAllMir s v) :=
  foldl_inv (EventFrame s) (setMir v) (fun _ m h => h.trans (setMir_eventFrame v _ m)) _ _ (.refl s)

theorem rd_setAllMir_ne (s : State) (v : Nat) {b : Nat} (h : ∀ m, b ≠ mirAt m) : rd (setAllMir s v) b = rd s b :=
  foldl_inv (fun u => rd u b = rd s b) (setMir v) (fun _ m hu => (rd_setMir_ne v _ (h m)).trans hu) _ _ rfl

theorem mirState_setAllMir {s : State} {v m : Nat} (hv : v < 4) (hm : m < 64) (h : mirValid s m = true) :
    mirState (setAllMir s v) m = v := mirState_setMirs hv _ s h (.inl (List.mem_range.2 hm))

/-! ### The pair is PAIRED again (R376) -/

/-- The registers of a pair that is PAIRED again, before its event. -/
def pairedRegs (s : State) (e : Nat) : State := setAllMir (setEpoch (setTwinState s 2) e) 1

theorem pairAgain_eq (s : State) (e : Nat) : pairAgain s e = twinEvent (setTwin (pairedRegs s e)
    { (pairedRegs s e).twin with syncPos := none, cutover := false, cutEpoch := none, declared := 0, leaseSent := false }) := rfl

theorem pairedRegs_eventFrame (s : State) (e : Nat) : EventFrame s (pairedRegs s e) :=
  ((wr_eventFrame ..).trans (wr_eventFrame ..)).trans (setAllMir_eventFrame ..)

theorem rd_setTwin (s : State) (t : Twin) (a : Nat) : rd (setTwin s t) a = rd s a := rfl

theorem rd_pairAgain (s : State) (e : Nat) {a : Nat} (hnew : a ≠ logNewAt) (hovr : a ≠ logOvrAt) :
    rd (pairAgain s e) a = rd (pairedRegs s e) a := by
  rw [pairAgain_eq, twinEvent, rd_logEvent_ne _ _ _ _ _ _ hnew hovr, rd_setTwin]

theorem rd_pairedRegs_twin (s : State) (e : Nat) : rd (pairedRegs s e) fxTwinAt = rd (setEpoch (setTwinState s 2) e) fxTwinAt :=
  rd_setAllMir_ne _ 1 fxTwinAt_ne_mirAt

theorem fxTwinAt_ne_log : fxTwinAt ≠ logNewAt ∧ fxTwinAt ≠ logOvrAt := by
  simp [fxTwinAt, logNewAt, logOvrAt, fxAt, csrAt]

theorem twinState_pairAgain (s : State) (e : Nat) : twinState (pairAgain s e) = 2 := by
  rw [twinState, fld]
  rw [show fxAt 0 8 = fxTwinAt from rfl, rd_pairAgain s e fxTwinAt_ne_log.1 fxTwinAt_ne_log.2, rd_pairedRegs_twin]
  exact (twinState_setFld (setTwinState s 2) (by decide)).trans (fld_setFld_same s fxTwinAt 2 (by decide) (by decide))

theorem epoch_pairAgain (s : State) {e : Nat} (he : e < 2 ^ 32) : epoch (pairAgain s e) = e := by
  rw [epoch, fld]
  rw [show fxAt 0 8 = fxTwinAt from rfl, rd_pairAgain s e fxTwinAt_ne_log.1 fxTwinAt_ne_log.2, rd_pairedRegs_twin]
  exact (fld_setFld_same _ fxTwinAt e (by decide) (by decide)).trans (Nat.mod_eq_of_lt he)

theorem mirState_pairAgain {s : State} (e : Nat) {m : Nat} (hm : m < 64) (h : mirValid s m = true) : mirState (pairAgain s e) m = 1 := by
  have hval : mirValid (setEpoch (setTwinState s 2) e) m = true := by
    rw [mirValid, flag, setEpoch, setFld_eq, rd_wr_ne _ _ (fxTwinAt_ne_mirAt m).symm, setTwinState, setFld_eq]
    exact (congrArg (bit · 63) (rd_wr_ne s _ (fxTwinAt_ne_mirAt m).symm)).trans h
  rw [mirState, fld, rd_pairAgain s e (mirAt_ne_log hm).1 (mirAt_ne_log hm).2]
  exact mirState_setAllMir (by decide) hm hval

/-- What a pair that is PAIRED again has of the state before. -/
theorem pairAgain_frame (s : State) (e : Nat) : ∃ t : Twin, t.declared = 0 ∧ t.syncPos = none ∧
    EventFrame { s with twin := t } (pairAgain s e) := by
  refine ⟨{ (pairedRegs s e).twin with syncPos := none, cutover := false, cutEpoch := none, declared := 0, leaseSent := false }, rfl, rfl, ?_⟩
  rw [pairAgain_eq]
  refine EventFrame.trans ?_ (logEvent_eventFrame ..)
  have hregs := pairedRegs_eventFrame s e
  rw [EventFrame] at hregs ⊢
  rw [setTwin, hregs]

/-- The twin takes the cutover to epoch `e` and answers it. The new state is generalised, for its registers must not be evaluated. -/
theorem cutoverAnswered (s : State) (e : BitVec 32) : ∃ u, sendLink (pairAgain s e.toNat) .cutoverAnswer = u ∧
    twinState u = 2 ∧ epoch u = e.toNat ∧ u.twin.declared = 0 ∧ u.twin.syncPos = none ∧ u.tiles = s.tiles ∧ u.hbm = s.hbm ∧
    u.fabric = s.fabric ∧ u.linkOut = s.linkOut ++ [.cutoverAnswer] ∧ ∀ m, m < 64 → mirValid s m = true → mirState u m = 1 := by
  have hstate := twinState_pairAgain s e.toNat
  have hepoch := epoch_pairAgain s e.isLt
  have hmir := fun m => mirState_pairAgain (s := s) e.toNat (m := m)
  obtain ⟨t, hdecl, hsync, hframe⟩ := pairAgain_frame s e.toNat
  generalize pairAgain s e.toNat = v at *
  have htwin : v.twin = t := hframe.field State.twin fun _ _ _ _ => rfl
  refine ⟨_, rfl, hstate, hepoch, ?_, ?_, ?_, ?_, ?_, ?_, hmir⟩
  · exact (congrArg Twin.declared htwin).trans hdecl
  · exact (congrArg Twin.syncPos htwin).trans hsync
  · exact hframe.field State.tiles fun _ _ _ _ => rfl
  · exact hframe.field State.hbm fun _ _ _ _ => rfl
  · exact hframe.field State.fabric fun _ _ _ _ => rfl
  · exact congrArg (· ++ [LinkMsg.cutoverAnswer]) (hframe.field State.linkOut fun _ _ _ _ => rfl)

/-- A mirrored write stored, with the record that came with it (R365). -/
def mirrorStored (s : State) (p : Packet) (rec : Option DedupRec) : State :=
  let s1 := hbmWrite s (offsetOf p) p.data (maskGran p.poison.toNat (offsetOf p) p.data.length)
  match rec with
  | some r => keepRec s1 r
  | none => s1

/-! ### The commands -/

section
variable {s : State} (hrun : running s = true)
include hrun

theorem exec_mirrorWr_ignored {p : Packet} (h : p.op ≠ 0x30 ∨ (twinState s ≠ 2 ∧ twinState s ≠ 4)) (note : MirrorNote) :
    exec (.mirrorWr p note) s = .next s := by
  have hno : ¬(p.op = 0x30 ∧ (twinState s = 2 ∨ twinState s = 4)) := by
    rintro ⟨hop, hstate⟩
    rcases h with h | ⟨h2, h4⟩
    · exact h hop
    · exact hstate.elim h2 h4
  change execMirrorWr p note s = _
  rw [execMirrorWr, whenRunning_running hrun]
  dsimp only
  split
  · rw [if_neg hno]
  · rw [if_neg fun h => hno ⟨h.1, h.2.1⟩]

theorem exec_mirrorWr_lease {p : Packet} (hop : p.op = 0x30) (hstate : twinState s = 2 ∨ twinState s = 4) (rec : Option DedupRec)
    (dev : BitVec 20) (e : BitVec 32) : exec (.mirrorWr p ⟨rec, some (dev, e)⟩) s = .next
      (sendFabric (putLease s dev.toNat e.toNat) (twinOf (ownDev s)) (response p stOk [] 0)) := by
  change execMirrorWr p ⟨rec, some (dev, e)⟩ s = _
  rw [execMirrorWr, whenRunning_running hrun]
  dsimp only
  rw [if_pos ⟨hop, hstate⟩]

theorem exec_mirrorWr_still {p : Packet} {rec : Option DedupRec}
    (h : mirOf s (offsetOf p) = none ∨ hbmFree s (offsetOf p) p.data.length = false ∨ (rec.isSome = true ∧ recRoom s = false)) :
    exec (.mirrorWr p ⟨rec, none⟩) s = .next s := by
  change execMirrorWr p ⟨rec, none⟩ s = _
  rw [execMirrorWr, whenRunning_running hrun]
  dsimp only
  rw [if_neg]
  rintro ⟨-, -, hmir, hroom, hfree⟩
  rcases h with h | h | ⟨hrec, h⟩
  · simp [h] at hmir
  · simp [h] at hfree
  · cases rec <;> simp [h] at hrec hroom

theorem exec_mirrorWr {p : Packet} (hop : p.op = 0x30) (hstate : twinState s = 2 ∨ twinState s = 4) {rec : Option DedupRec}
    (hmir : (mirOf s (offsetOf p)).isSome = true) (hfree : hbmFree s (offsetOf p) p.data.length = true)
    (hroom : rec = none ∨ recRoom s = true) :
    exec (.mirrorWr p ⟨rec, none⟩) s = .next
      (sendFabric (mirrorStored s p rec) (twinOf (ownDev (mirrorStored s p rec))) (response p stOk [] 0)) := by
  change execMirrorWr p ⟨rec, none⟩ s = _
  rw [execMirrorWr, whenRunning_running hrun]
  dsimp only
  rw [if_pos ⟨hop, hstate, hmir, by simpa using hroom, hfree⟩]
  rfl

theorem exec_mirrorAck_other {p : Packet} (h : p.op ≠ 0xB0) : exec (.mirrorAck p) s = .next s := by
  change execMirrorAck p s = _
  rw [execMirrorAck, whenRunning_running hrun, if_pos h]

theorem exec_mirrorAck_unknown {p : Packet} (hop : p.op = 0xB0) (h : s.twin.waitAck.find? (ackMatches p) = none) :
    exec (.mirrorAck p) s = .next (takeFabric s p) := by
  change execMirrorAck p s = _
  rw [execMirrorAck, whenRunning_running hrun, if_neg (not_not.2 hop)]
  simp only [h]

theorem exec_mirrorAck {p : Packet} {w : Packet × AckFor} (hop : p.op = 0xB0) (h : s.twin.waitAck.find? (ackMatches p) = some w) :
    exec (.mirrorAck p) s = .next
      (if ackFree s w then ackNow (setTwin (takeFabric s p) { s.twin with waitAck := s.twin.waitAck.erase w }) w else s) := by
  change execMirrorAck p s = _
  rw [execMirrorAck, whenRunning_running hrun, if_neg (not_not.2 hop)]
  simp only [h]

/-! Chunks (R363, R375) -/

theorem exec_twinSync_taken (a : Nat) (d : List Byte) (pg : List Nat) : exec (.twinSync (some (a, d, pg))) s = .next
    (if twinState s = 2 ∨ twinState s = 4 then takeChunk s a d pg else s) := by
  change execTwinSync (some (a, d, pg)) s = _
  rw [execTwinSync, whenRunning_running hrun]

theorem exec_twinSync_idle
    (h : twinState s = 3 ∧ s.twin.syncPos = none ∨ twinState s = 2 ∧ syncingHere s = none ∨ twinState s ≠ 2 ∧ twinState s ≠ 3) :
    exec (.twinSync none) s = .next s := by
  change execTwinSync none s = _
  rw [execTwinSync, whenRunning_running hrun]
  rcases h with ⟨hstate, hpos⟩ | ⟨hstate, hnone⟩ | ⟨h2, h3⟩
  · simp [hstate, hpos]
  · simp [hstate, hnone]
  · simp [h2, h3]

theorem exec_twinSync_covering {pos : Nat} (hstate : twinState s = 3) (hpos : s.twin.syncPos = some pos) :
    exec (.twinSync none) s = .next (match nextChunk s pos with
      | none => setFld s fxTwinAt 26 20 100
      | some a =>
        if !hbmFree s a 65536 then s else
        setFld (setTwin (sendChunk s a) { (sendChunk s a).twin with syncPos := some (a + 65536) }) fxTwinAt 26 20
          (resyncPct (sendChunk s a) (a + 65536))) := by
  change execTwinSync none s = _
  rw [execTwinSync, whenRunning_running hrun]
  simp only [hstate, hpos, if_true] <;> rfl

theorem exec_twinSync_paired {m : Nat} (hstate : twinState s = 2) (hm : syncingHere s = some m) :
    exec (.twinSync none) s = .next
      (if hbmFree s (mirBase s m + 65536 * syncDone s m) 65536 then bumpSync (sendChunk s (mirBase s m + 65536 * syncDone s m)) m else s) := by
  change execTwinSync none s = _
  rw [execTwinSync, whenRunning_running hrun]
  simp [hstate, hm]

/-! Cutover (R376) -/

theorem exec_cutoverStart_still (h : cutReady s = false) : exec .cutoverStart s = .next s := by
  change execCutoverStart s = _
  rw [execCutoverStart, whenRunning_running hrun, if_pos (by simp [h])]

theorem exec_cutoverStart (h : cutReady s = true) : exec .cutoverStart s = .next (match s.twin.cutEpoch with
    | some e => cutWith s e
    | none => if (pairWitness s).isSome then sendLink (setTwin s { s.twin with cutover := true }) (.lease (BitVec.ofNat 32 (epoch s)))
        else cutWith s (epoch s + 1)) := by
  change execCutoverStart s = _
  rw [execCutoverStart, whenRunning_running hrun, if_neg (by simp [h])] <;> rfl

theorem exec_cutover (e : BitVec 32) : exec (.cutover e) s = .next
    (if twinState s = 4 then sendLink (pairAgain s e.toNat) .cutoverAnswer else s) := by
  change execCutover e s = _
  rw [execCutover, whenRunning_running hrun]

/-! The mirror table (R362-R364) -/

theorem exec_mirrorAdd : exec .mirrorAdd s = .next (doMirrorChange s 1) := whenRunning_running hrun fun s => doMirrorChange s 1
theorem exec_mirrorRemove : exec .mirrorRemove s = .next (doMirrorChange s 2) := whenRunning_running hrun fun s => doMirrorChange s 2

theorem exec_mirrorChangeApply_unpaired (h : twinState s ≠ 2) (rx : Option MirrorChange) : exec (.mirrorChangeApply rx) s = .next s := by
  change execMirrorChangeApply rx s = _
  rw [execMirrorChangeApply, whenRunning_running hrun, if_pos h]

theorem exec_mirrorChangeApply_message (h : twinState s = 2) (c : MirrorChange) :
    exec (.mirrorChangeApply (some c)) s = .next (changeArrives s c) := by
  change execMirrorChangeApply (some c) s = _
  rw [execMirrorChangeApply, whenRunning_running hrun, if_neg (not_not.2 h)]

theorem exec_mirrorChangeApply_idle (h : twinState s = 2) (hno : s.twin.changes = [] ∨ parity s ≠ 0) :
    exec (.mirrorChangeApply none) s = .next s := by
  change execMirrorChangeApply none s = _
  rw [execMirrorChangeApply, whenRunning_running hrun, if_neg (not_not.2 h)]
  dsimp only
  split
  · rfl
  next hc =>
    rw [if_pos]
    have hpar := hno.resolve_left (by rw [hc]; exact List.cons_ne_nil _ _)
    simp [hpar]

theorem exec_mirrorChangeApply_turn (h : twinState s = 2) (hpar : parity s = 0) {c : MirrorChange} {rest : List MirrorChange}
    (hc : s.twin.changes = c :: rest) : exec (.mirrorChangeApply none) s = .next
      (if c.phase ≠ 0 then s
       else if changeStatus s c ≠ 0 then endChange s c rest (changeStatus s c)
       else sendLink (setTwin s { s.twin with changes := { c with phase := 1 } :: rest }) (.mirrorChange { c with phase := 1 })) := by
  change execMirrorChangeApply none s = _
  rw [execMirrorChangeApply, whenRunning_running hrun, if_neg (not_not.2 h)]
  simp [hc, hpar]

theorem exec_mirrorSyncDone (m : Fin 64) : exec (.mirrorSyncDone m) s = .next
    (if twinState s = 2 && mirValid s m && mirState s m == 0 && syncAll s m ≤ syncDone s m then
      setTwin (setFld s (mirAt m) 61 60 1) { s.twin with entrySync := mset 0 s.twin.entrySync m 0 } else s) := by
  change execMirrorSyncDone m s = _
  rw [execMirrorSyncDone, whenRunning_running hrun]

end

section
variable {s : State} {n : Nat}

theorem doMirrorChange_open (h : s.twin.changeOpen = true) : doMirrorChange s n = s := if_pos h

theorem doMirrorChange_unpaired (hopen : s.twin.changeOpen = false) (h : twinState s ≠ 2) :
    doMirrorChange s n = objSetN s 0x0A10 5 stMirrorState := by
  rw [doMirrorChange, if_neg (by simp [hopen]), if_pos h]

/-- R364: the even twin queues the change, the odd twin sends it there. -/
theorem doMirrorChange_paired (hopen : s.twin.changeOpen = false) (h : twinState s = 2) : doMirrorChange s n =
    (let x : MirrorChange := { op := BitVec.ofNat 8 n, owner := BitVec.ofNat 8 (objN s 0x0A10 2), base := BitVec.ofNat 64 (objN s 0x0A10 3),
                               len := BitVec.ofNat 64 (objN s 0x0A10 4), here := true, result := 0 }
     if parity s = 0 then setTwin s { s.twin with changeOpen := true, changes := s.twin.changes ++ [x] }
     else sendLink (setTwin s { s.twin with changeOpen := true }) (.mirrorChange { x with here := false })) := by
  rw [doMirrorChange, if_neg (by simp [hopen]), if_neg (not_not.2 h)]
  rfl

end

/-- Settles O47: each command by STATE of FX_TWIN and by what it finds in the table, the copy or the queue of changes. -/
theorem mirrorCompletes : Obligations.MirrorCompletes := by
  intro s hrun
  refine ⟨fun p hno rec lease => exec_mirrorWr_ignored hrun hno _, fun p hop hstate => ⟨fun hmir hfree => ⟨?_, fun r hroom => ?_, fun r hroom => ?_⟩,
      fun hno rec => exec_mirrorWr_still hrun (hno.imp_right .inl), fun rec dev e => exec_mirrorWr_lease hrun hop hstate rec dev e⟩,
    fun p => exec_mirrorAck_other hrun, fun p => exec_mirrorAck_unknown hrun, fun p w hop hw => ⟨fun hfree => ?_, fun hheld => ?_⟩,
    fun pos hstate hpos => ⟨fun hnone => ?_, fun a ha => ⟨fun hheld => ?_, fun hfree => ?_⟩⟩,
    fun hstate m hm => ⟨fun hfree => ?_, fun hheld => ?_⟩, exec_twinSync_idle hrun, fun a d pg hstate => ?_, fun a d pg h2 h4 => ?_,
    exec_cutoverStart_still hrun, fun hready => ⟨fun e he => ?_, fun hnone hwit => ?_, fun hnone hwit => ?_⟩, fun e hno => ?_, fun e hstate => ?_,
    fun c n hc => ?_, fun rx h => exec_mirrorChangeApply_unpaired hrun h rx, fun c h => exec_mirrorChangeApply_message hrun h c,
    exec_mirrorChangeApply_idle hrun, fun c rest h hpar hc => ⟨fun hphase => ?_, fun hphase hbad => ?_, fun hphase hgood => ?_⟩,
    fun m hstate hval hsync hall => ?_, fun m hno => ?_⟩
  · exact exec_mirrorWr hrun hop hstate hmir hfree (.inl rfl)
  · exact exec_mirrorWr hrun hop hstate hmir hfree (.inr hroom)
  · exact exec_mirrorWr_still hrun (.inr (.inr ⟨rfl, hroom⟩))
  · rw [exec_mirrorAck hrun hop hw, if_pos hfree]
    rfl
  · rw [exec_mirrorAck hrun hop hw, if_neg (by simp [hheld])]
  · rw [exec_twinSync_covering hrun hstate hpos, hnone]
  · rw [exec_twinSync_covering hrun hstate hpos, ha]
    exact congrArg _ (if_pos (by simp [hheld]))
  · rw [exec_twinSync_covering hrun hstate hpos, ha]
    exact congrArg _ (if_neg (by simp [hfree]))
  · rw [exec_twinSync_paired hrun hstate hm, if_pos hfree]
  · rw [exec_twinSync_paired hrun hstate hm, if_neg (by simp [hheld])]
  · rw [exec_twinSync_taken hrun, if_pos hstate]
  · rw [exec_twinSync_taken hrun, if_neg (by simp [h2, h4])]
  · rw [exec_cutoverStart hrun hready, he]
  · rw [exec_cutoverStart hrun hready, hnone]
    exact congrArg _ (if_neg (by simp [hwit]))
  · rw [exec_cutoverStart hrun hready, hnone]
    exact congrArg _ (if_pos hwit)
  · rw [exec_cutover hrun, if_neg hno]
  · rw [exec_cutover hrun, if_pos hstate]
    obtain ⟨u, hu, hdone⟩ := cutoverAnswered s e
    exact ⟨u, congrArg _ hu, hdone⟩
  · have hexec : exec c s = .next (doMirrorChange s n) := by
      rcases hc with ⟨rfl, rfl⟩ | ⟨rfl, rfl⟩
      · exact exec_mirrorAdd hrun
      · exact exec_mirrorRemove hrun
    rw [hexec]
    refine ⟨fun hopen => ?_, fun hopen hstate => ?_, fun hopen hstate => ?_⟩
    · rw [doMirrorChange_open hopen]
    · rw [doMirrorChange_unpaired hopen hstate]
    · rw [doMirrorChange_paired hopen hstate]
      exact ⟨fun hpar => congrArg _ (if_pos hpar), fun hpar => congrArg _ (if_neg hpar)⟩
  · rw [exec_mirrorChangeApply_turn hrun h hpar hc, if_pos hphase]
  · rw [exec_mirrorChangeApply_turn hrun h hpar hc, if_neg (not_not.2 hphase), if_pos hbad]
  · rw [exec_mirrorChangeApply_turn hrun h hpar hc, if_neg (not_not.2 hphase), if_neg (not_not.2 hgood)]
    rfl
  · rw [exec_mirrorSyncDone hrun, if_pos (by simp [hstate, hval, hsync, hall])]
    rfl
  · rw [exec_mirrorSyncDone hrun, if_neg]
    rcases hno with h | h | h | h <;> simp [h]

end Sys2Proof.Machine
end

section
/-! SUPPORT. The exchange with the twin at Fabric Ready leaves GR_BOOT, the watchdog and the pins (R374, R378, R478). -/

namespace Sys2Proof.Machine
open Sys2Proof

theorem rd_congr {s u : State} (hpart : u.part = s.part) (hcsr : u.csr = s.csr) (a : Nat) : rd u a = rd s a := by
  rw [rd, rd, hpart, hcsr]

theorem setBit_eq_self {w : Word} {i : Nat} {b : Bool} (h : bit w i = b) : setBit w i b = w := by
  refine BitVec.eq_of_getLsbD_eq fun j _ => ?_
  rw [setBit, getLsbD_setBits]
  split
  next hj =>
    obtain rfl : j = i := by omega
    rw [Nat.sub_self, show w.getLsbD j = b from h]
    cases b <;> rfl
  · rfl

/-- What Fabric Ready has set and the exchange with the twin keeps. -/
structure ReadyKept (s u : State) : Prop where
  part : u.part = s.part
  pins : u.pins = s.pins
  beat : u.beat = s.beat
  boot : rd u grBoot = rd s grBoot
  wdog : flag u wdogAt 62 = flag s wdogAt 62

/-- The same with FX_TWIN, which a device that drops its acknowledgements keeps too. -/
structure StaleKept (s u : State) : Prop extends ReadyKept s u where
  twin : rd u fxTwinAt = rd s fxTwinAt

section
variable {s u v : State}

theorem ReadyKept.trans (h : ReadyKept s u) (h' : ReadyKept u v) : ReadyKept s v :=
  ⟨h'.part.trans h.part, h'.pins.trans h.pins, h'.beat.trans h.beat, h'.boot.trans h.boot, h'.wdog.trans h.wdog⟩

theorem StaleKept.trans (h : StaleKept s u) (h' : StaleKept u v) : StaleKept s v :=
  ⟨h.toReadyKept.trans h'.toReadyKept, h'.twin.trans h.twin⟩

theorem StaleKept.of_fields (hpart : u.part = s.part) (hcsr : u.csr = s.csr) (hpins : u.pins = s.pins) (hbeat : u.beat = s.beat) :
    StaleKept s u :=
  ⟨⟨hpart, hpins, hbeat, rd_congr hpart hcsr _, congrArg (bit · 62) (rd_congr hpart hcsr _)⟩, rd_congr hpart hcsr _⟩

theorem StaleKept.refl (s : State) : StaleKept s s := .of_fields rfl rfl rfl rfl

theorem ReadyKept.of_eventFrame (h : EventFrame s u) (hboot : rd u grBoot = rd s grBoot) (hwdog : rd u wdogAt = rd s wdogAt) : ReadyKept s u :=
  ⟨h.field State.part fun _ _ _ _ => rfl, h.field State.pins fun _ _ _ _ => rfl, h.field State.beat fun _ _ _ _ => rfl, hboot,
    congrArg (bit · 62) hwdog⟩

theorem readyKept_wr (s : State) {a : Nat} (v : Word) (hboot : grBoot ≠ a) (hwdog : wdogAt ≠ a) : ReadyKept s (wr s a v) :=
  .of_eventFrame (wr_eventFrame ..) (rd_wr_ne s v hboot) (rd_wr_ne s v hwdog)

/-- The offsets of the registers that are kept tell them from those of the completion queues and sequencers. -/
theorem staleKept_wr (s : State) {a : Nat} (v : Word) (h0 : a % 64 ≠ 0) (h8 : a % 64 ≠ 8) : StaleKept s (wr s a v) := by
  have hboot : grBoot % 64 = 0 := by decide
  have hwdog : wdogAt % 64 = 0 := by decide
  have htwin : fxTwinAt % 64 = 8 := by decide
  exact ⟨readyKept_wr s v (fun h => h0 (h ▸ hboot)) fun h => h0 (h ▸ hwdog), rd_wr_ne s v fun h => h8 (h ▸ htwin)⟩

theorem readyKept_logEvent (s : State) (code die unit sev detail : Nat) : ReadyKept s (logEvent s code die unit sev detail) := by
  have hboot : grBoot ≠ logNewAt ∧ grBoot ≠ logOvrAt := by decide
  have hwdog : wdogAt ≠ logNewAt ∧ wdogAt ≠ logOvrAt := by decide
  exact .of_eventFrame (logEvent_eventFrame ..) (rd_logEvent_ne _ _ _ _ _ _ hboot.1 hboot.2) (rd_logEvent_ne _ _ _ _ _ _ hwdog.1 hwdog.2)

theorem readyKept_setFldTwin (s : State) (hi lo x : Nat) : ReadyKept s (setFld s fxTwinAt hi lo x) :=
  readyKept_wr s _ (by decide) (by decide)

theorem readyKept_setTable (s : State) (t : List Word) : ReadyKept s (setTable s t) := by
  refine List.foldlRecOn (motive := ReadyKept s) _ _ (StaleKept.refl s).toReadyKept fun u hu m hm => hu.trans (readyKept_wr u _ ?_ ?_)
  · have := List.mem_range.1 hm
    simp only [mirAt, grBoot, fxAt, grAt, csrAt, csrBase]
    omega
  · have := List.mem_range.1 hm
    simp only [mirAt, wdogAt, fxAt, csrAt, csrBase]
    omega

/-! ### Acknowledgements that will not come -/

theorem staleKept_showWait (d : Fin 4) (s : State) (slot : Nat) : StaleKept s (showWait d s slot) := by
  have haddr : tpAt d slot 0x28 % 64 = 40 := by
    rw [tpAt, csrAt, csrBase]
    omega
  exact staleKept_wr s _ (by omega) (by omega)

theorem cqtAt_mod (d : Fin 4) (q : Nat) : cqtAt d q % 32 = 16 := by
  rw [cqtAt, cqAt, csrAt, csrBase]
  omega

theorem staleKept_refreshCq (s : State) (d : Fin 4) (q : Nat) (more : List Nat) : StaleKept s (refreshCq s d q more) := by
  have hcqt := cqtAt_mod d q
  rw [refreshCq]
  refine foldl_inv (StaleKept s) _ (fun u slot h => h.trans (staleKept_showWait d u slot)) _ _ ?_
  have hheld : StaleKept s (if cqBlocked s d q then setCqRecs s d q ((cqRecs s d q).map (fun r => { r with held := true })) else s) := by
    split
    · exact .of_fields rfl rfl rfl rfl
    · exact .refl s
  have hfull : ∀ u, StaleKept u (if cqFull u d q && !(cqRecs u d q).isEmpty then setFlag u (cqtAt d q) 63 true else u) := fun u => by
    split
    · exact staleKept_wr u _ (by omega) (by omega)
    · exact .refl u
  exact hheld.trans (hfull _)

/-- Clearing bit 63 of any register leaves a register whose bit 63 is 0, and every other bit. -/
theorem rd_clearTop {a b : Nat} (h : flag s b 63 = false) : rd (setFlag s a 63 false) b = rd s b := by
  rw [setFlag_eq]
  by_cases hq : b = a
  · rw [← hq, rd_wr_same]
    exact setBit_eq_self h
  · exact rd_wr_ne s _ hq

theorem flag_clearTop (s : State) (a b : Nat) : flag (setFlag s a 63 false) b 62 = flag s b 62 := by
  by_cases hq : b = a
  · rw [hq]
    exact flag_setFlag_ne s a false (by decide)
  · exact flag_setFlag_other s 63 62 false hq

theorem fxTwinAt_ne_cqdAt (d : Fin 4) (q : Nat) : fxTwinAt ≠ cqdAt d q := by
  simp only [fxTwinAt, fxAt, cqdAt, cqAt, csrAt, csrBase]
  omega

/-- EN of a completion queue is cleared. A queue number of the state is not bounded, so its register may stand at that of GR_BOOT,
whose bit 63 is 0 while STAGE is below 8. -/
theorem staleKept_clearTop (h : flag s grBoot 63 = false) (d : Fin 4) (q : Nat) : StaleKept s (setFlag s (cqdAt d q) 63 false) :=
  have hframe : EventFrame s (setFlag s (cqdAt d q) 63 false) := wr_eventFrame ..
  { part := hframe.field State.part fun _ _ _ _ => rfl, pins := hframe.field State.pins fun _ _ _ _ => rfl,
    beat := hframe.field State.beat fun _ _ _ _ => rfl, boot := rd_clearTop h, wdog := flag_clearTop s _ _,
    twin := rd_wr_ne s _ (fxTwinAt_ne_cqdAt d q) }

theorem staleKept_cqFail (h : flag s grBoot 63 = false) (d : Fin 4) (q : Nat) : StaleKept s (cqFail s d q) := by
  have hcqt := cqtAt_mod d q
  have hwerr : ∀ u, StaleKept u (setFlag u (cqtAt d q) 62 true) := fun u => staleKept_wr u _ (by omega) (by omega)
  have hrecs : ∀ u l, StaleKept u (setCqRecs u d q l) := fun _ _ => .of_fields rfl rfl rfl rfl
  rw [cqFail]
  exact (((staleKept_clearTop h d q).trans (hwerr _)).trans (hrecs _ _)).trans (staleKept_refreshCq _ d q [])

theorem staleKept_dropAck (h : flag s grBoot 63 = false) (w : Packet × AckFor) : StaleKept s (dropAck s w) := by
  obtain ⟨p, w⟩ := w
  cases w with
  | packet => exact .refl s
  | record d q => exact staleKept_cqFail h d q
  | abortBit t pos =>
    have haddr : tpTileAt t 0x38 % 64 = 56 := by
      rw [tpTileAt, tpAt, csrAt, csrBase]
      omega
    exact staleKept_wr s _ (by omega) (by omega)
  | ring j => exact .of_fields rfl rfl rfl rfl
  | lease => exact .refl s

/-! ### Held requests at a device that serves no more -/

theorem homeVerdict_stale (h : twinState s = 4) (p : Packet) : homeVerdict s p = .forward ∨ homeVerdict s p = .drop := by
  rw [homeVerdict, h]
  split
  · exact .inr rfl
  split
  · exact .inl rfl
  split
  · exact .inr rfl
  · exact .inr rfl

theorem staleKept_arrive (h : twinState s = 4) (p : Packet) (marked : Bool) (body : Bool → State → Option Done) :
    StaleKept s (arrive s p marked body) := by
  rw [arrive]
  rcases homeVerdict_stale h p with hv | hv <;> rw [hv]
  · exact .of_fields rfl rfl rfl rfl
  · exact .of_fields rfl rfl rfl rfl

theorem staleKept_doFcopy (h : twinState s = 4) (p : Packet) : StaleKept s (doFcopy s p) := by
  have hno : doFcopy s p = arrive s p true fun _ _ => none := by
    rw [doFcopy]
    rcases homeVerdict_stale h p with hv | hv <;> rw [hv]
  exact hno ▸ staleKept_arrive h p _ _

theorem staleKept_fabricArrives (h : twinState s = 4) (p : Packet) : StaleKept s (fabricArrives s p) := by
  rw [fabricArrives]
  split
  case h_4 => exact staleKept_doFcopy h p
  case h_11 => exact .refl s
  all_goals exact staleKept_arrive h p _ _

theorem StaleKept.twinState (h : StaleKept s u) : twinState u = twinState s := congrArg (bits · 63 61) h.twin

theorem staleKept_takeHeld (h : twinState s = 4) : StaleKept s (takeHeld s) := by
  rw [takeHeld]
  exact foldl_inv (StaleKept s) _ (fun u p hu => hu.trans (staleKept_fabricArrives (hu.twinState.trans h) p)) _ _ (.of_fields rfl rfl rfl rfl)

/-! ### Joining the twin -/

theorem staleKept_cancelChanges (s : State) : StaleKept s (cancelChanges s) := by
  rw [cancelChanges]
  dsimp only
  split
  · exact .of_fields rfl rfl rfl rfl
  · exact .of_fields rfl rfl rfl rfl

theorem ReadyKept.top (h : ReadyKept s u) (htop : flag s grBoot 63 = false) : flag u grBoot 63 = false :=
  (congrArg (bit · 63) h.boot).trans htop

/-- The state of a device that has become STALE, before its acknowledgements are dropped. -/
def staleStart (s : State) : State :=
  let u := cancelChanges (setTwinState s 4)
  setTwin u { u.twin with declared := 0, leaseSent := false, waitAck := [], yielding := false, lost := true }

theorem enterStale_eq (s : State) :
    enterStale s = twinEvent (takeHeld ((cancelChanges (setTwinState s 4)).twin.waitAck.foldl dropAck (staleStart s))) := rfl

theorem staleKept_staleStart (s : State) : StaleKept (setTwinState s 4) (staleStart s) := by
  have hset : StaleKept (cancelChanges (setTwinState s 4)) (staleStart s) := .of_fields rfl rfl rfl rfl
  exact (staleKept_cancelChanges _).trans hset

theorem readyKept_enterStale (htop : flag s grBoot 63 = false) : ReadyKept s (enterStale s) := by
  have hset : ReadyKept s (setTwinState s 4) := readyKept_setFldTwin s 63 61 4
  have hstate : twinState (setTwinState s 4) = 4 := fld_setFld_same s fxTwinAt 4 (by decide) (by decide)
  have hdrop : ∀ l : List (Packet × AckFor), StaleKept (setTwinState s 4) (l.foldl dropAck (staleStart s)) := fun l =>
    foldl_inv (StaleKept (setTwinState s 4)) _ (fun u w hu => hu.trans (staleKept_dropAck (hu.top (hset.top htop)) w)) _ _ (staleKept_staleStart s)
  rw [enterStale_eq]
  have hall := (hdrop (cancelChanges (setTwinState s 4)).twin.waitAck)
  exact (hset.trans (hall.trans (staleKept_takeHeld (hall.twinState.trans hstate))).toReadyKept).trans (readyKept_logEvent ..)

theorem readyKept_copyLeases (s : State) : ReadyKept s (copyLeases s) :=
  have hall : StaleKept s (copyLeases s) := by
    rw [copyLeases]
    refine foldl_inv (StaleKept s) _ (fun u r h => h.trans ?_) _ _ (.refl s)
    exact .of_fields rfl rfl rfl rfl
  hall.toReadyKept

theorem readyKept_joinTwin (htop : flag s grBoot 63 = false) (i : TwinInfo) : ReadyKept s (joinTwin s i) := by
  rw [joinTwin]
  split
  · exact (StaleKept.refl s).toReadyKept
  split
  · split
    · exact (readyKept_setFldTwin s 63 61 1).trans (readyKept_logEvent ..)
    · exact (StaleKept.refl s).toReadyKept
  split
  · have hset := ((readyKept_setTable s i.table).trans (readyKept_setFldTwin _ 60 29 i.epoch.toNat)).trans (readyKept_setFldTwin _ 26 20 0)
    exact hset.trans (readyKept_enterStale (hset.top htop))
  split
  · have hset : StaleKept s (setTwin s { s.twin with syncPos := some 0, syncAt := nowNs s 4 }) := .of_fields rfl rfl rfl rfl
    exact (hset.toReadyKept.trans (readyKept_setFldTwin _ 26 20 0)).trans (readyKept_copyLeases _)
  split
  · exact (((readyKept_setFldTwin s 63 61 2).trans (readyKept_setTable _ [])).trans (readyKept_setFldTwin _ 60 29 _)).trans (readyKept_logEvent ..)
  · exact (StaleKept.refl s).toReadyKept

end

end Sys2Proof.Machine
end

section
/-! SUPPORT. The boot: its steps, Fabric Ready and recovery (R378, R473-R486, R491). -/

namespace Sys2Proof.Machine
open Sys2Proof

/-! ### Step 8: the tiles are mapped and the policies written (R455, R477) -/

/-- What the self-test, the map of the tiles and the policies keep. -/
structure BootKept (s u : State) : Prop where
  tiles : u.tiles = s.tiles
  hbm : u.hbm = s.hbm
  boot : rd u grBoot = rd s grBoot
  inc : objN u 0x0A02 4 = objN s 0x0A02 4

section
variable {s u v : State}

theorem BootKept.refl (s : State) : BootKept s s := ⟨rfl, rfl, rfl, rfl⟩

theorem BootKept.trans (h : BootKept s u) (h' : BootKept u v) : BootKept s v :=
  ⟨h'.tiles.trans h.tiles, h'.hbm.trans h.hbm, h'.boot.trans h.boot, h'.inc.trans h.inc⟩

theorem BootKept.of_eventFrame (h : EventFrame s u) (hboot : rd u grBoot = rd s grBoot) (hinc : objN u 0x0A02 4 = objN s 0x0A02 4) : BootKept s u :=
  ⟨h.field State.tiles fun _ _ _ _ => rfl, h.field State.hbm fun _ _ _ _ => rfl, hboot, hinc⟩

theorem bootKept_setFld (s : State) {a : Nat} (hi lo x : Nat) (h : grBoot ≠ a) : BootKept s (setFld s a hi lo x) := by
  rw [setFld_eq]
  exact .of_eventFrame (wr_eventFrame ..) (rd_wr_ne s _ h) (objN_congr (wr_part ..) rfl _ _)

theorem bootKept_setPhys (s : State) (d e : Nat) (x : PhysTile) : BootKept s (setPhys s d e x) :=
  ⟨rfl, rfl, rd_congr rfl rfl _, objN_congr rfl rfl _ _⟩

theorem bootKept_mapEvent (s : State) (die unit : Nat) : BootKept s (logEvent s 0x0001 die unit 2 0) := by
  have hnew : grBoot ≠ logNewAt ∧ grBoot ≠ logOvrAt := by decide
  exact .of_eventFrame (logEvent_eventFrame ..) (rd_logEvent_ne _ _ _ _ _ _ hnew.1 hnew.2) (objN_logEvent_ne _ _ _ _ _ (by decide))

theorem grBoot_ne_stAt (t : TileId) : grBoot ≠ stAt t := by
  have hslot := t.slot.isLt
  unfold grBoot grAt stAt vtAt mtAt tileIdx csrAt csrBase
  split <;> omega

theorem bootKept_mapKind (s : State) (o : BootOutcome) (d : Fin 4) (base phys first logical : Nat) :
    BootKept s (mapKind o d base phys first logical s) := by
  rw [mapKind]
  dsimp only
  refine foldl_inv (BootKept s) _ (fun u i hu => hu.trans ?_) _ _ ?_
  · split
    · split
      · split
        · exact bootKept_setFld _ _ _ _ (grBoot_ne_stAt _)
        · exact bootKept_setFld _ _ _ _ (grBoot_ne_stAt _)
      · exact bootKept_mapEvent ..
    · exact .refl u
  · exact foldl_inv (BootKept s) _ (fun u e hu => hu.trans (bootKept_setPhys ..)) _ _ (.refl s)

theorem grBoot_ne_basalt {d off : Nat} (h : off % 2 ^ 32 ≠ 0xD00000) : grBoot ≠ csrAt d off := by
  unfold grBoot grAt csrAt csrBase
  omega

theorem bootKept_onBasalt (s : State) {f : State → Nat → State} (h : ∀ u d, BootKept u (f u d)) : BootKept s (onBasalt s f) :=
  foldl_inv (BootKept s) f (fun u d hu => hu.trans (h u d)) _ _ (.refl s)

theorem bootKept_applyPolicy (s : State) (idx sub : Nat) : BootKept s (applyPolicy s idx sub) := by
  have hfx : ∀ hi lo v, BootKept s (setFld s (fxAt 0 0) hi lo v) := fun hi lo v => bootKept_setFld s hi lo v (grBoot_ne_basalt (by decide))
  rw [applyPolicy]
  split
  · split
    · exact bootKept_onBasalt s fun u d => bootKept_setFld u _ _ _ (grBoot_ne_basalt (by decide))
    split
    · refine foldl_inv (BootKept s) _ (fun u d hu => hu.trans ?_) _ _ (.refl s)
      split
      · exact bootKept_setFld u _ _ _ (grBoot_ne_basalt (by decide))
      · exact .refl u
    · exact .refl s
  split
  · split
    · exact bootKept_onBasalt s fun u d => bootKept_setFld u _ _ _ (grBoot_ne_basalt (by decide))
    split
    · exact bootKept_onBasalt s fun u d => bootKept_setFld u _ _ _ (grBoot_ne_basalt (by decide))
    split
    · exact foldl_inv (BootKept s) _ (fun u r hu => hu.trans (bootKept_setFld u _ _ _ (csrAt_ne_cfgReg (by decide) (by decide) r _))) _ _ (.refl s)
    · exact .refl s
  split
  · split
    · exact hfx ..
    split
    · exact hfx ..
    split
    · exact hfx ..
    split
    · exact hfx ..
    · exact .refl s
  · exact .refl s

/-- The incarnation advances modulo 2^32 (R357). -/
theorem objN_incarnation (s : State) (n : Nat) : objN (objSetN s 0x0A02 4 (n % 2 ^ 32)) 0x0A02 4 = n % 2 ^ 32 := by
  have hty : tyBytes (((objInfo s.part 0x0A02 4).map (·.ty)).getD 1) = 4 := by cases s.part <;> rfl
  rw [objN_objSetN_same, hty]
  exact Nat.mod_mod_of_dvd n ⟨1, rfl⟩

theorem bootKept_mapped (s : State) (o : BootOutcome) :
    BootKept s (policies.foldl (fun s x => applyPolicy s x.1 x.2)
      ((List.finRange 4).foldl (fun s (d : Fin 4) => mapKind o d 68 34 64 32 (mapKind o d 0 68 0 64 s)) s)) :=
  foldl_inv (BootKept s) _ (fun _ _ hv => hv.trans (bootKept_applyPolicy ..)) _ _
    (foldl_inv (BootKept s) _ (fun _ _ hv => (hv.trans (bootKept_mapKind ..)).trans (bootKept_mapKind ..)) _ _ (.refl s))

/-- The state after step 8: the policies are no longer noted as unapplied. -/
def stepEight (s : State) : State := { s with bootStep := 8, mgmt := { s.mgmt with unapplied := [] } }

theorem objN_stepEight (s : State) (idx sub : Nat) : objN (stepEight s) idx sub = objN s idx sub := rfl
theorem tiles_stepEight (s : State) : (stepEight s).tiles = s.tiles := rfl
theorem hbm_stepEight (s : State) : (stepEight s).hbm = s.hbm := rfl
theorem rd_stepEight (s : State) (a : Nat) : rd (stepEight s) a = rd s a := rfl

theorem tiles_objSetN (s : State) (idx sub n : Nat) : (objSetN s idx sub n).tiles = s.tiles := rfl
theorem hbm_objSetN (s : State) (idx sub n : Nat) : (objSetN s idx sub n).hbm = s.hbm := rfl

theorem bootTiles_done (s : State) (o : BootOutcome) : ∃ u, bootTiles o s = u ∧ u.bootStep = 8 ∧ u.mgmt.unapplied = [] ∧
    objN u 0x0A02 4 = (objN s 0x0A02 4 + 1) % 2 ^ 32 ∧ u.tiles = s.tiles ∧ u.hbm = s.hbm ∧ stage u = stage s := by
  have hkept := bootKept_mapped (objSetN s 0x0A02 4 ((objN s 0x0A02 4 + 1) % 2 ^ 32)) o
  rw [bootTiles]
  dsimp only
  generalize policies.foldl _ _ = v at hkept ⊢
  obtain ⟨hkt, hkh, hkb, hki⟩ := hkept
  refine ⟨stepEight v, rfl, rfl, rfl, ?_, ?_, ?_, ?_⟩
  · rw [objN_stepEight, hki, objN_incarnation]
  · rw [tiles_stepEight, hkt, tiles_objSetN]
  · rw [hbm_stepEight, hkh, hbm_objSetN]
  · rw [stage, fld, rd_stepEight, hkb, rd_objSetN, stage, fld]

/-! ### Fabric Ready (R475, R478) -/

/-- The device at Fabric Ready, before the fuses. -/
def readyState (s : State) : State :=
  setFld (setFlag (setStage { s with pins := { s.pins with devReady := true }, beat := nowNs s 4 } 3 0) wdogAt 62 true) admitAt 63 57 0

theorem rd_readyState (s : State) : rd (readyState s) grBoot = rd (setStage { s with pins := { s.pins with devReady := true }, beat := nowNs s 4 } 3 0) grBoot := by
  have hwdog : grBoot ≠ wdogAt := by decide
  have hadmit : grBoot ≠ admitAt := by decide
  rw [readyState, setFld_eq, rd_wr_ne _ _ hadmit, setFlag_eq, rd_wr_ne _ _ hwdog]

theorem fld_setStage_ne (s : State) (v : Nat) (e : Status) {hi lo : Nat} (h : hi < 52) : fld (setStage s v e) grBoot hi lo = fld s grBoot hi lo := by
  rw [setStage, fld_setFld_ne _ _ _ (.inl h), fld_setFld_ne _ _ _ (.inl (by omega))]

theorem stage_setStage (s : State) {v : Nat} (e : Status) (h : v < 16) : stage (setStage s v e) = v := by
  rw [stage, setStage, fld_setFld_ne _ _ _ (.inr (by decide)), fld_setFld_same _ _ _ (by decide) (by decide)]
  exact Nat.mod_eq_of_lt h

theorem fld_readyState (s : State) {hi lo : Nat} (h : hi < 52) : fld (readyState s) grBoot hi lo = fld s grBoot hi lo := by
  rw [fld, rd_readyState]
  exact (fld_setStage_ne _ 3 0 h).trans (fld_congr rfl rfl _ _ _)

theorem stage_readyState (s : State) : stage (readyState s) = 3 :=
  (congrArg (bits · 63 60) (rd_readyState s)).trans (stage_setStage _ 0 (by decide))

/-- The fuse of the lowest version: it follows the manifest when bit 0 of its flags asks for it. -/
def fusedSvn (s : State) : Nat :=
  if mfield s.mgmt.running 7 1 % 2 = 1 then max (svnFused s) (min (mfield s.mgmt.running 12 2) 64) else svnFused s
/-- The fuses of the revoked key slots: those of the manifest's flags but the slot of the running image. -/
def fusedRevoked (s : State) : Nat :=
  revoked s ||| (mfield s.mgmt.running 7 1 / 2 % 16 &&& (15 - 2 ^ fld s grBoot 40 39))
/-- The version fuse blown. -/
def svnBlown (s : State) : State :=
  if mfield s.mgmt.running 7 1 % 2 = 1 then setFld s grBoot 51 45 (max (svnFused s) (min (mfield s.mgmt.running 12 2) 64)) else s

theorem blowFuses_eq (s : State) : blowFuses s = setFld (svnBlown s) grBoot 44 41
    (revoked (svnBlown s) ||| (mfield s.mgmt.running 7 1 / 2 % 16 &&& (15 - 2 ^ fld (svnBlown s) grBoot 40 39))) := rfl

theorem svnBlown_eventFrame (s : State) : EventFrame s (svnBlown s) := by
  rw [svnBlown]
  split
  · exact wr_eventFrame ..
  · exact .refl s

theorem fld_svnBlown_ne (s : State) {hi lo : Nat} (h : hi < 45 ∨ 51 < lo) : fld (svnBlown s) grBoot hi lo = fld s grBoot hi lo := by
  rw [svnBlown]
  split
  · exact fld_setFld_ne _ _ _ h
  · rfl

theorem svnFused_svnBlown (s : State) : svnFused (svnBlown s) = fusedSvn s := by
  rw [svnBlown, fusedSvn]
  split
  · have hlt : svnFused s < 2 ^ 7 := bits_lt _ 51 45
    rw [svnFused, fld_setFld_same _ _ _ (by decide) (by decide)]
    exact Nat.mod_eq_of_lt (by omega)
  · rfl

theorem fusedRevoked_lt (s : State) : fusedRevoked s < 2 ^ 4 :=
  Nat.or_lt_two_pow (bits_lt _ 44 41) (lt_of_le_of_lt Nat.and_le_left (Nat.mod_lt _ (by decide)))

theorem revoked_blowFuses (s : State) : revoked (blowFuses s) = fusedRevoked s := by
  rw [blowFuses_eq, revoked, revoked, fld_setFld_same _ _ _ (by decide) (by decide), fld_svnBlown_ne s (.inl (by decide)),
    fld_svnBlown_ne s (.inl (by decide))]
  exact Nat.mod_eq_of_lt (fusedRevoked_lt s)

theorem svnFused_blowFuses (s : State) : svnFused (blowFuses s) = fusedSvn s := by
  rw [blowFuses_eq, svnFused, fld_setFld_ne _ _ _ (.inr (by decide)), ← svnFused, svnFused_svnBlown]

theorem stage_blowFuses (s : State) : stage (blowFuses s) = stage s := by
  rw [blowFuses_eq, stage, fld_setFld_ne _ _ _ (.inr (by decide)), fld_svnBlown_ne s (.inr (by decide)), stage]

theorem blowFuses_eventFrame (s : State) : EventFrame s (blowFuses s) := by
  rw [blowFuses_eq]
  exact (svnBlown_eventFrame s).trans (wr_eventFrame ..)

theorem rd_blowFuses_ne (s : State) {a : Nat} (h : a ≠ grBoot) : rd (blowFuses s) a = rd s a := by
  rw [blowFuses_eq, setFld_eq, rd_wr_ne _ _ h, svnBlown]
  split
  · rw [setFld_eq, rd_wr_ne _ _ h]
  · rfl

theorem flag_readyState (s : State) : flag (readyState s) wdogAt 62 = true := by
  have hadmit : wdogAt ≠ admitAt := by decide
  rw [readyState, flag, setFld_eq, rd_wr_ne _ _ hadmit]
  exact flag_setFlag_same _ _ true (by decide)

theorem readyState_pins (s : State) : (readyState s).pins = { s.pins with devReady := true } := by
  rw [readyState, setFld_eq, setFlag_eq, setStage, setFld_eq, setFld_eq, wr, wr, wr, wr]

theorem readyState_beat (s : State) : (readyState s).beat = nowNs s 4 := by
  rw [readyState, setFld_eq, setFlag_eq, setStage, setFld_eq, setFld_eq, wr, wr, wr, wr]

theorem readyState_mgmt (s : State) : (readyState s).mgmt = s.mgmt := by
  rw [readyState, setFld_eq, setFlag_eq, setStage, setFld_eq, setFld_eq, wr, wr, wr, wr]

theorem readyState_twin (s : State) : (readyState s).twin = s.twin := by
  rw [readyState, setFld_eq, setFlag_eq, setStage, setFld_eq, setFld_eq, wr, wr, wr, wr]

theorem flag_top_of_stage {s : State} (h : stage s < 8) : flag s grBoot 63 = false := by
  rw [stage, fld, bits, bitsN] at h
  rw [flag, bit, BitVec.getLsbD, Nat.testBit_eq_decide_div_mod_eq]
  have hlt := (rd s grBoot).isLt
  simp
  omega

/-- The device is READY, and its twin, if it has met one, decides its state in the pair. -/
def readyPaired (s : State) : State :=
  match (blowFuses (readyState s)).twin.partner with
  | some i => joinTwin (blowFuses (readyState s)) i
  | none => setTwinState (blowFuses (readyState s)) 1

theorem readyKept_readyPaired (s : State) : ReadyKept (blowFuses (readyState s)) (readyPaired s) := by
  have htop : flag (blowFuses (readyState s)) grBoot 63 = false :=
    flag_top_of_stage (by rw [stage_blowFuses, stage_readyState]; decide)
  rw [readyPaired]
  split
  · exact readyKept_joinTwin htop _
  · exact readyKept_setFldTwin _ 63 61 1

theorem twinState_readyPaired (h : s.twin.partner = none) : twinState (readyPaired s) = 1 := by
  have hpartner : (blowFuses (readyState s)).twin.partner = none := by
    rw [(blowFuses_eventFrame _).field State.twin fun _ _ _ _ => rfl, readyState_twin, h]
  rw [readyPaired, hpartner]
  exact fld_setFld_same _ fxTwinAt 1 (by decide) (by decide)

/-- What the device shows at Fabric Ready. -/
theorem readyPaired_shows (s : State) : ∃ u, readyPaired s = u ∧ fabricReadyNow u = true ∧ stage u = 3 ∧
    u.pins.devReady = true ∧ u.beat = nowNs s 4 ∧ flag u wdogAt 62 = true ∧ (s.twin.partner = none → twinState u = 1) ∧
    svnFused u = fusedSvn s ∧ revoked u = fusedRevoked s := by
  obtain ⟨-, hpins, hbeat, hboot, hwdog⟩ := readyKept_readyPaired s
  have htwin := twinState_readyPaired (s := s)
  have hstage : stage (readyPaired s) = 3 := by
    rw [stage, fld, hboot, ← fld, ← stage, stage_blowFuses, stage_readyState]
  have hframe := blowFuses_eventFrame (readyState s)
  have hwdogBoot : wdogAt ≠ grBoot := by decide
  refine ⟨_, rfl, ?_, hstage, ?_, ?_, ?_, htwin, ?_, ?_⟩
  · rw [fabricReadyNow, ← grBoot, ← stage, hstage]
    decide
  · rw [hpins, hframe.field State.pins fun _ _ _ _ => rfl, readyState_pins]
  · rw [hbeat, hframe.field State.beat fun _ _ _ _ => rfl, readyState_beat]
  · rw [hwdog, flag, rd_blowFuses_ne _ hwdogBoot, ← flag, flag_readyState]
  · rw [svnFused, fld, hboot, ← fld, ← svnFused, svnFused_blowFuses, fusedSvn, fusedSvn, readyState_mgmt, svnFused, svnFused,
      fld_readyState s (by decide)]
  · rw [revoked, fld, hboot, ← fld, ← revoked, revoked_blowFuses, fusedRevoked, fusedRevoked, readyState_mgmt, revoked, revoked,
      fld_readyState s (by decide), fld_readyState s (by decide)]

end

/-! ### The commands -/

/-- What step 3 finds: the manifest's code, or AUTH_FAIL for a digest or an update that was not completed (R473, R481). -/
def stepThreeCode (s : State) : Status :=
  let x := slotOf s false
  if manifestCheck s false x.manifest ≠ 0 then manifestCheck s false x.manifest
  else if digest1Ok x = false ∨ updState s false ∈ [1, 2, 4] then stAuthFail else 0

theorem bootManifest_eq (s : State) : bootManifest s =
    (if stepThreeCode s ≠ 0 then setStage s 4 (stepThreeCode s)
     else setStage (setFld { s with bootStep := 3, mgmt := { s.mgmt with running := (slotOf s false).manifest } } grBoot 40 39
       (mfield (slotOf s false).manifest 6 1)) 1 0) := by
  have hcode : (if manifestCheck s false (slotOf s false).manifest ≠ 0 then manifestCheck s false (slotOf s false).manifest
      else if !digest1Ok (slotOf s false) || [1, 2, 4].contains (objN s 0x0220 5) then stAuthFail else 0) = stepThreeCode s := by
    rw [stepThreeCode, updState, updIdx]
    simp only [Bool.or_eq_true, Bool.not_eq_true', List.contains_iff_mem, if_false, Bool.false_eq_true]
  rw [bootManifest]
  dsimp only
  rw [hcode]

theorem bootHbm_eq (o : BootOutcome) (s : State) : bootHbm o s =
    (if allTrained (allChannels.foldl (bootChannel o) s) then { setFlag (allChannels.foldl (bootChannel o) s) hbmMap 63 true with bootStep := 6 }
     else setStage (allChannels.foldl (bootChannel o) s) 5 stHbmUntrained) := by
  rw [bootHbm]
  dsimp only
  rw [← allTrained]

section
variable {s : State} (hrun : running s = true)
include hrun

theorem exec_bootStage_still (o : BootOutcome) (h : stage s = 4 ∨ stage s = 5 ∨ 9 ≤ s.bootStep) : exec (.bootStage o) s = .next s := by
  change execBootStage o s = _
  rw [execBootStage, whenRunning_running hrun]
  by_cases hstage : stage s = 4 ∨ stage s = 5
  · rw [if_pos (by simpa using hstage)]
  · rw [if_neg (by simpa using hstage)]
    have hstep : 9 ≤ s.bootStep := h.elim (fun h => absurd (.inl h) hstage) (·.resolve_left fun h => hstage (.inr h))
    split
    case h_10 => rfl
    all_goals omega

/-- The step that completes next. -/
def bootNext (o : BootOutcome) (s : State) : Nat → State
  | 0 => { s with bootStep := 1 }
  | 1 => { s with bootStep := 2 }
  | 2 => bootManifest s
  | 3 => { s with bootStep := 4, mgmt := { s.mgmt with segUp := true } }
  | 4 => { (allPorts s).foldl bringUp s with bootStep := 5 }
  | 5 => bootHbm o s
  | 6 => bootStage2 s
  | 7 => bootTiles o s
  | 8 => bootHost s
  | _ => s

theorem exec_bootStage (o : BootOutcome) (h4 : stage s ≠ 4) (h5 : stage s ≠ 5) {n : Nat} (hn : s.bootStep = n) :
    exec (.bootStage o) s = .next (bootNext o s n) := by
  change execBootStage o s = _
  rw [execBootStage, whenRunning_running hrun, if_neg (by simp [h4, h5]), hn]
  rfl

theorem exec_fabricReady_still (h : s.bootStep < 8 ∨ stage s = 3 ∨ stage s = 4 ∨ s.failed = true) : exec .fabricReady s = .next s := by
  change execFabricReady s = _
  rw [execFabricReady, whenRunning_running hrun, if_pos (by simpa [or_assoc] using h)]

theorem exec_fabricReady (hstep : 8 ≤ s.bootStep) (h3 : stage s ≠ 3) (h4 : stage s ≠ 4) (hfailed : s.failed = false) :
    exec .fabricReady s = .next
      (if !allTrained s then setStage s 5 stHbmUntrained
       else if s.fabric.dev.isNone then setStage s 5 stBooting
       else readyPaired s) := by
  change execFabricReady s = _
  rw [execFabricReady, whenRunning_running hrun, if_neg (by simp [h3, h4, hfailed, Nat.not_lt.2 hstep])]
  rfl

theorem exec_recoveryRetry : exec .recoveryRetry s = .next
    (if s.mgmt.retryWait && s.mgmt.fetchTries < 3 then { s with mgmt := { s.mgmt with retryWait := false } } else s) := by
  change execRecoveryRetry s = _
  rw [execRecoveryRetry, whenRunning_running hrun]

theorem exec_recoveryFetch_still (h : stage s ≠ 4 ∨ objN s 0x0221 1 ≠ 1 ∨ s.fabric.dev = none) (b : Bool) (m i : List Byte) :
    exec (.recoveryFetch b m i) s = .next s := by
  change execRecoveryFetch b m i s = _
  rw [execRecoveryFetch, whenRunning_running hrun]
  dsimp only
  rw [if_pos (by simpa [or_assoc] using h)]

theorem exec_recoveryFetch (h4 : stage s = 4) (hon : objN s 0x0221 1 = 1) (hdev : s.fabric.dev.isSome = true) (b : Bool) (m i : List Byte) :
    exec (.recoveryFetch b m i) s = .next
      (if s.mgmt.fetching then fetchEnd s b m i
       else if updState s false = 1 || updState s false = 2 || s.mgmt.retryWait || 3 ≤ s.mgmt.fetchTries then s
       else if portState s (twinPort s) < 5 || 6 < portState s (twinPort s) then bringUp s (twinPort s)
       else sendLink (setFetching s true) .fetchAsk) := by
  have hsome : s.fabric.dev.isNone = false := by rw [Option.isNone_eq_false_iff, hdev]
  change execRecoveryFetch b m i s = _
  rw [execRecoveryFetch, whenRunning_running hrun]
  dsimp only
  rw [if_neg (by simp [h4, hon, hsome])]

end

section
variable {s : State} {m i : List Byte}

theorem fetchEnd_refused {b : Bool} (h : b = false ∨ manifestCheck s false m ≠ 0) : fetchEnd s b m i = fetchFailed s :=
  if_pos (by simpa using h)

/-- The image that the twin served stands in the slot, and its digests are checked. -/
theorem fetchEnd_served (h : manifestCheck s false m = 0) : fetchEnd s true m i =
    (let y : ImageSlot := { manifest := m, image := i.take (imageLen m) }
     let t := setSlot s false y
     if digest1Ok y && digest2Ok y then deviceReset (setUpd { t with mgmt := { t.mgmt with fetchTries := 0 } } false 0) true
     else fetchFailed t) := by
  rw [fetchEnd, if_neg (by simp [h])]
  rfl

end

/-- Settles O54: the steps by their number, then Fabric Ready and the fetch of an image from the twin. -/
theorem bootCompletes : Obligations.BootCompletes := by
  intro s o
  refine ⟨fun h => ?_, fun h => ?_, fun hrun => ⟨exec_bootStage_still hrun o, fun h4 h5 =>
    ⟨exec_bootStage hrun o h4 h5, exec_bootStage hrun o h4 h5, fun hstep => ?_, exec_bootStage hrun o h4 h5, exec_bootStage hrun o h4 h5,
      fun hstep => ?_, fun hstep hbad => ?_, fun hstep hgood => ?_, fun hstep => ?_, fun hstep => ?_⟩,
    exec_fabricReady_still hrun, fun hstep h3 h4 hfailed => ⟨fun hun => ?_, fun htr hdev => ?_, fun htr hdev => ?_⟩,
    fun hwait htries => ?_, fun hno => ?_, fun b m i => ⟨fun hno => exec_recoveryFetch_still hrun hno b m i, fun h4 hon hdev => ?_⟩⟩⟩
  · exact congrArg _ (if_neg (by simp [h]))
  · exact congrArg _ (if_pos h)
  · have hnext := exec_bootStage hrun o h4 h5 hstep
    rw [bootNext, bootManifest_eq] at hnext
    exact ⟨fun he => hnext.trans (congrArg _ (if_pos he)), fun he => hnext.trans (congrArg _ (if_neg (not_not.2 he)))⟩
  · rw [exec_bootStage hrun o h4 h5 hstep]
    rw [bootNext, bootHbm_eq]
    exact ⟨fun h => by rw [if_pos h], fun h => by rw [if_neg (by rw [h]; exact Bool.false_ne_true)]⟩
  · rw [exec_bootStage hrun o h4 h5 hstep]
    exact congrArg _ (if_neg (by simp [hbad]))
  · rw [exec_bootStage hrun o h4 h5 hstep]
    exact congrArg _ (if_pos hgood)
  · rw [exec_bootStage hrun o h4 h5 hstep]
    obtain ⟨u, hu, hdone⟩ := bootTiles_done s o
    exact ⟨u, congrArg _ hu, hdone⟩
  · rw [exec_bootStage hrun o h4 h5 hstep]
    exact ⟨fun he => congrArg _ (if_pos he), fun he => congrArg _ (if_neg (not_not.2 he))⟩
  · rw [exec_fabricReady hrun hstep h3 h4 hfailed, if_pos (by simp [hun])]
  · rw [exec_fabricReady hrun hstep h3 h4 hfailed, if_neg (by simp [htr]), if_pos (by simp [hdev])]
  · rw [exec_fabricReady hrun hstep h3 h4 hfailed, if_neg (by simp [htr]), if_neg (by cases hd : s.fabric.dev <;> simp [hd] at hdev ⊢)]
    obtain ⟨u, hu, hready, hstage, hpins, hbeat, hwdog, htwin, hsvn, hrevoked⟩ := readyPaired_shows s
    exact ⟨u, congrArg _ hu, hready, hstage, hpins, hbeat, hwdog, htwin, hsvn, hrevoked⟩
  · rw [exec_recoveryRetry hrun, if_pos (by simp [hwait, htries])]
  · rw [exec_recoveryRetry hrun, if_neg (by rcases hno with h | h <;> simp [h])]
  · rw [exec_recoveryFetch hrun h4 hon hdev]
    refine ⟨fun hidle hno => ?_, fun hidle h1 h2 hwait htries => ⟨fun hport => ?_, fun hport => ?_⟩, fun hfetch hno => ?_,
      fun hfetch hb hm => ⟨fun hbad => ?_, fun h1 h2 => ?_⟩⟩
    · rw [if_neg (by simp [hidle]), if_pos (by simpa [or_assoc] using hno)]
    · rw [if_neg (by simp [hidle]), if_neg (by simp [h1, h2, hwait, htries]), if_pos (by simpa using hport)]
    · rw [if_neg (by simp [hidle]), if_neg (by simp [h1, h2, hwait, htries]), if_neg (by rcases hport with h | h <;> simp [h])]
      rfl
    · rw [if_pos hfetch, fetchEnd_refused hno]
      rfl
    · rw [if_pos hfetch, hb, fetchEnd_served hm]
      exact congrArg _ (if_neg (by rcases hbad with h | h <;> simp [h]))
    · rw [if_pos hfetch, hb, fetchEnd_served hm]
      exact congrArg _ (if_pos (by rw [h1, h2]; rfl))

end Sys2Proof.Machine
end

section
/-! SUPPORT. Ports and lanes: stages, retraining, sparing, locks, patterns and error windows (R384, R389-R398, R405). -/

namespace Sys2Proof.Machine
open Sys2Proof

/-! ### The registers of ports and lanes -/

theorem perr_ne_pstat (p q : PortId) : perr p ≠ pstat q := by
  unfold perr pstat lkPortAt lkAt csrAt csrBase
  omega

theorem lstat_ne_pstat (l : LaneId) (p : PortId) : lstat l ≠ pstat p := by
  unfold lstat lkLaneAt pstat lkPortAt lkAt csrAt csrBase
  omega

theorem lerr_ne_pstat (l : LaneId) (p : PortId) : lerr l ≠ pstat p := by
  unfold lerr lkLaneAt pstat lkPortAt lkAt csrAt csrBase
  omega

theorem lstat_ne_lerr (l m : LaneId) : lstat l ≠ lerr m := by
  unfold lstat lerr lkLaneAt lkAt csrAt csrBase
  omega

theorem pctl_ne_lerr (p : PortId) (l : LaneId) : pctl p ≠ lerr l := by
  unfold pctl lkPortAt lerr lkLaneAt lkAt csrAt csrBase
  omega

section
variable (s : State) (p : PortId)

theorem getPort_wr (a : Nat) (v : Word) : getPort (wr s a v) p = getPort s p := rfl
theorem getPort_setFld (a hi lo v : Nat) : getPort (setFld s a hi lo v) p = getPort s p := rfl
theorem getPort_setFlag (a i : Nat) (b : Bool) : getPort (setFlag s a i b) p = getPort s p := rfl
theorem rd_setPort (x : Port) (a : Nat) : rd (setPort s p x) a = rd s a := rfl
theorem fld_setPort (x : Port) (a hi lo : Nat) : fld (setPort s p x) a hi lo = fld s a hi lo := rfl
theorem flag_setPort (x : Port) (a i : Nat) : flag (setPort s p x) a i = flag s a i := rfl
theorem modPort_eq (f : Port → Port) : modPort s p f = setPort s p (f (getPort s p)) := rfl

theorem portState_setPortState {v : Nat} (h : v < 16) : portState (setPortState s p v) p = v := by
  rw [portState, setPortState, fld_setFld_same _ _ _ (by decide) (by decide)]
  exact Nat.mod_eq_of_lt h

theorem fld_setPortState_ne (v : Nat) {hi lo : Nat} (h : hi < 60) : fld (setPortState s p v) (pstat p) hi lo = fld s (pstat p) hi lo :=
  fld_setFld_ne _ _ _ (.inl h)

theorem getPort_setPortState (v : Nat) : getPort (setPortState s p v) p = getPort s p := getPort_setFld ..

/-- The state of a port whose partner is no longer known to be READY. -/
theorem portState_unready (v : Nat) (h : v < 16) : portState (setFlag (setPortState s p v) (pstat p) 59 false) p = v := by
  rw [portState, fld_setFlag_ne _ _ _ (.inl (by decide)), ← portState, portState_setPortState s p h]

theorem partnerReady_unready : partnerReady (setFlag s (pstat p) 59 false) p = false := flag_setFlag_same _ _ _ (by decide)

/-! ### A port that is DOWN -/

theorem portState_portDown : portState (portDown s p) p = 8 := by
  rw [portDown, modPort_eq, portState_unready _ p 8 (by decide)]

theorem partnerReady_portDown : partnerReady (portDown s p) p = false := by
  rw [portDown, partnerReady_unready]

theorem getPort_portDown : getPort (portDown s p) p = { getPort s p with replay := [], replays := 0, sparing := none, partner := none } := by
  rw [portDown, getPort_setFlag, getPort_setPortState, modPort_eq, getPort_setPort_same]

theorem rd_portDown_ne {a : Nat} (h : a ≠ pstat p) : rd (portDown s p) a = rd s a := by
  rw [portDown, setFlag_eq, rd_wr_ne _ _ h, setPortState, setFld_eq, rd_wr_ne _ _ h, modPort_eq, rd_setPort]

/-! ### Falling back to a stage -/

theorem portState_retrainTo {v : Nat} (h : v < 16) : portState (retrainTo s p v) p = v := by
  rw [retrainTo, portState, fld, rd_satFld_ne _ _ _ (perr_ne_pstat p p).symm, ← fld, ← portState, portState_unready _ p v h]

theorem partnerReady_retrainTo (v : Nat) : partnerReady (retrainTo s p v) p = false := by
  rw [retrainTo, partnerReady, flag, rd_satFld_ne _ _ _ (perr_ne_pstat p p).symm, ← flag, ← partnerReady, partnerReady_unready]

theorem getPort_satFld (a hi lo : Nat) : getPort (satFld s a hi lo) p = getPort s p := rfl

theorem getPort_retrainTo (v : Nat) : getPort (retrainTo s p v) p = { getPort s p with uncorr := 0 } := by
  rw [retrainTo, getPort_satFld, getPort_setFlag, getPort_setPortState, modPort_eq, getPort_setPort_same]

/-! ### Bringing up and taking down (R389) -/

/-- A port that begins with DETECT, its counts from 0. -/
def detecting : State :=
  setFlag (setFld (setPortState (modPort s p fun _ => {}) p 1) (pstat p) 58 51 0) (pstat p) 59 false

theorem portState_detecting : portState (detecting s p) p = 1 := by
  rw [detecting, portState, fld_setFlag_ne _ _ _ (.inl (by decide)), fld_setFld_ne _ _ _ (.inr (by decide)), ← portState,
    portState_setPortState _ p (by decide)]

theorem status_detecting : fld (detecting s p) (pstat p) 58 51 = 0 := by
  rw [detecting, fld_setFlag_ne _ _ _ (.inr (by decide)), fld_setFld_same _ _ _ (by decide) (by decide), Nat.zero_mod]

theorem getPort_detecting : getPort (detecting s p) p = {} := by
  rw [detecting, getPort_setFlag, getPort_setFld, getPort_setPortState, modPort_eq, getPort_setPort_same]

theorem rd_detecting_ne {a : Nat} (h : a ≠ pstat p) : rd (detecting s p) a = rd s a := by
  rw [detecting, setFlag_eq, rd_wr_ne _ _ h, setFld_eq, rd_wr_ne _ _ h, setPortState, setFld_eq, rd_wr_ne _ _ h, modPort_eq, rd_setPort]

end

section
variable {s : State} {p : PortId}

theorem bringUp_detects (hfit : shaleFitted s p.shale = true) (hring : ringOne s p = false)
    (h : portState s p = 0 ∨ portState s p = 8 ∨ portState s p = 9) : bringUp s p = detecting s p := by
  rw [bringUp]
  dsimp only
  rw [if_neg (by rcases h with h | h | h <;> simp [hfit, hring, h])]
  rfl

theorem bringUp_still (h : shaleFitted s p.shale = false ∨ ringOne s p = true ∨ portState s p ≠ 0 ∧ portState s p ≠ 8 ∧ portState s p ≠ 9) :
    bringUp s p = s := by
  rw [bringUp]
  dsimp only
  rw [if_pos]
  rcases h with h | h | ⟨h0, h8, h9⟩
  · simp [h]
  · simp [h]
  · simp [h0, h8, h9]

theorem laneUse_setUse_zero {l m : LaneId} (h : l = m ∨ laneUse s l = 0) : laneUse (setUse s m 0) l = 0 := by
  by_cases hl : lstat l = lstat m
  · rw [laneUse, setUse, hl, fld_setFld_same _ _ _ (by decide) (by decide), Nat.zero_mod]
  · have hzero := h.resolve_left fun e => hl (e ▸ rfl)
    rw [laneUse, setUse, fld_setFld_other _ _ _ _ _ _ hl, ← laneUse, hzero]

theorem laneUse_setUses_zero (l : LaneId) : ∀ (ls : List LaneId) (s : State), l ∈ ls ∨ laneUse s l = 0 →
    laneUse (ls.foldl (fun s m => setUse s m 0) s) l = 0
  | [], _, h => h.resolve_left List.not_mem_nil
  | m :: ls, s, h => by
    refine laneUse_setUses_zero l ls _ ?_
    rcases h with h | h
    · rcases List.mem_cons.1 h with rfl | h
      · exact .inr (laneUse_setUse_zero (.inl rfl))
      · exact .inl h
    · exact .inr (laneUse_setUse_zero (.inr h))

/-- The lanes of a port are set free: what it leaves of the port. -/
theorem setUses_port (ls : List LaneId) (v : Nat) (s : State) : rd (ls.foldl (fun s m => setUse s m v) s) (pstat p) = rd s (pstat p) ∧
    getPort (ls.foldl (fun s m => setUse s m v) s) p = getPort s p := by
  refine foldl_inv (fun u => rd u (pstat p) = rd s (pstat p) ∧ getPort u p = getPort s p) _ (fun u l h => ?_) _ _ ⟨rfl, rfl⟩
  rw [setUse, setFld_eq, rd_wr_ne _ _ (lstat_ne_pstat l p).symm, getPort_wr]
  exact h

/-- The port is DOWN, its spare idle again if it used it, and its SPARED field names none. -/
def spareFreed (s : State) (p : PortId) : State :=
  let d := portDown s p
  setFld (if sparedLane d p = 7 then d else setUse d (spareLane p) 1) (pstat p) 50 48 7

theorem takeDown_eq (hfit : shaleFitted s p.shale = true) :
    takeDown s p = (portLanes p).foldl (fun s l => setUse s l 0) (spareFreed s p) := by
  rw [takeDown, if_neg (by simp [hfit])]
  rfl

theorem takeDown_absent (hfit : shaleFitted s p.shale = false) : takeDown s p = s := if_pos (by simp [hfit])

theorem fld_spareFreed (s : State) (p : PortId) {hi lo : Nat} (h : 50 < lo) : fld (spareFreed s p) (pstat p) hi lo = fld (portDown s p) (pstat p) hi lo := by
  rw [spareFreed]
  rw [fld_setFld_ne _ _ _ (.inr h)]
  split
  · rfl
  · rw [setUse, fld_setFld_other _ _ _ _ _ _ (lstat_ne_pstat _ p).symm]

theorem getPort_spareFreed (s : State) (p : PortId) : getPort (spareFreed s p) p = getPort (portDown s p) p := by
  rw [spareFreed]
  rw [getPort_setFld]
  split
  · rfl
  · rw [setUse, getPort_setFld]

/-- A port that has been taken down. -/
theorem takeDown_done (hfit : shaleFitted s p.shale = true) : ∃ u, takeDown s p = u ∧ portState u p = 8 ∧ sparedLane u p = 7 ∧
    (getPort u p).replay = [] ∧ (getPort u p).partner = none ∧ partnerReady u p = false ∧ (∀ l, l ∈ portLanes p → laneUse u l = 0) := by
  obtain ⟨hrd, hport⟩ := setUses_port (p := p) (portLanes p) 0 (spareFreed s p)
  have hready : flag (spareFreed s p) (pstat p) 59 = flag (portDown s p) (pstat p) 59 := by
    rw [spareFreed]
    rw [flag_setFld_ne _ _ (.inr (by decide))]
    split
    · rfl
    · rw [setUse, flag, setFld_eq, rd_wr_ne _ _ (lstat_ne_pstat _ p).symm, ← flag]
  refine ⟨_, takeDown_eq hfit, ?_, ?_, ?_, ?_, ?_, fun l hl => laneUse_setUses_zero l _ _ (.inl hl)⟩
  · rw [portState, fld, hrd, ← fld, fld_spareFreed s p (by decide), ← portState, portState_portDown]
  · rw [sparedLane, fld, hrd, ← fld, spareFreed]
    exact fld_setFld_same _ _ _ (by decide) (by decide)
  · rw [hport, getPort_spareFreed, getPort_portDown]
  · rw [hport, getPort_spareFreed, getPort_portDown]
  · rw [partnerReady, flag, hrd, ← flag, hready, ← partnerReady, partnerReady_portDown]

end

/-! ### The commands of ports -/

section
variable {s : State} (hrun : running s = true) (p : PortId)
include hrun

theorem exec_portBringUp : exec (.portBringUp p) s = .next (bringUp s p) := whenRunning_running hrun fun s => bringUp s p
theorem exec_portTakeDown : exec (.portTakeDown p) s = .next (takeDown s p) := whenRunning_running hrun fun s => takeDown s p
theorem exec_portRetrain : exec (.portRetrain p) s = .next (if 3 ≤ portState s p ∧ portState s p ≤ 7 then retrainTo s p 3 else s) :=
  whenRunning_running hrun fun s => retrain s p
theorem exec_portTest : exec (.portTest p) s = .next (if shaleFitted s p.shale then setPortState (portDown s p) p 9 else s) :=
  whenRunning_running hrun fun s => enterTest s p

/-- What a stage that completes makes of the port, by its state. -/
def stageDone (s : State) (p : PortId) : Nat → State
  | 1 => setPortState s p 2
  | 2 => setPortState s p 3
  | 3 => if lanesLocked s p then setPortState s p 4 else s
  | 4 => if lanesNamed s p then sendCapability (setPortState s p 5) p else s
  | 7 => setPortState s p 2
  | _ => s

theorem exec_portStageComplete : exec (.portStageComplete p) s = .next (stageDone s p (portState s p)) := by
  change execPortStageComplete p s = _
  rw [execPortStageComplete, whenRunning_running hrun]
  rfl

theorem exec_stageTimeout_lock (h : portState s p = 3) : exec (.stageTimeout p) s = .next
    (match (List.finRange 4).filter (fun i => !cdrLocked s (servingLane s p i)) with
    | [i] => failLane s p i
    | _ => overrun s p) := by
  change execStageTimeout p s = _
  rw [execStageTimeout, whenRunning_running hrun]
  dsimp only
  rw [if_pos h] <;> rfl

theorem exec_stageTimeout_capex (h : portState s p = 5) : exec (.stageTimeout p) s = .next
    (if fld s (pstat p) 58 51 = stCapMismatch || (getPort s p).partner.isSome then s else overrun s p) := by
  change execStageTimeout p s = _
  rw [execStageTimeout, whenRunning_running hrun]
  dsimp only
  rw [if_neg (by simp [h]), if_pos h]

theorem exec_stageTimeout_early (h : portState s p = 1 ∨ portState s p = 2 ∨ portState s p = 4) :
    exec (.stageTimeout p) s = .next (overrun s p) := by
  change execStageTimeout p s = _
  rw [execStageTimeout, whenRunning_running hrun]
  dsimp only
  rw [if_neg (by omega), if_neg (by omega), if_pos (by omega)]

theorem exec_stageTimeout_still (h : portState s p = 0 ∨ 6 ≤ portState s p) : exec (.stageTimeout p) s = .next s := by
  change execStageTimeout p s = _
  rw [execStageTimeout, whenRunning_running hrun]
  dsimp only
  rw [if_neg (by omega), if_neg (by omega), if_neg (by omega)]

theorem exec_replayTimeout : exec (.replayTimeout p) s = .next (if portState s p = 6 then replayNow s p else s) := by
  change execReplayTimeout p s = _
  rw [execReplayTimeout, whenRunning_running hrun]

theorem exec_readyTimeout : exec (.readyTimeout p) s = .next
    (if portState s p = 6 && !partnerReady s p then portEvent (modPort s p fun x => { x with readyLate := true }) p 0 else s) := by
  change execReadyTimeout p s = _
  rw [execReadyTimeout, whenRunning_running hrun]

end

section
variable (s : State) (p : PortId)

theorem overrun_eq : overrun s p =
    portEvent (if 8 ≤ (getPort s p).replays then portDown (retrainTo s p 1) p else retrainTo s p 1) p 0 := rfl

/-- R389: DESKEW ends with the capability record, the next flit of the port. -/
theorem sendCapability_eq : sendCapability s p =
    (let x := getPort s p
     let f := flitWith s p { stype := 3, vc := 0, cls := 0, body := capBytes (ownRecord s p) } noSlot x.txSeq false
     sendFlits (setPort s p { x with txSeq := x.txSeq + 1, replay := x.replay ++ [f] }) p [f]) := by
  rw [sendCapability, sendSlots]
  simp only [List.mapIdx_cons, List.mapIdx_nil, BitVec.add_zero]
  rfl

theorem replayNow_empty (h : (getPort s p).replay = []) : replayNow s p = s := by
  rw [replayNow]
  dsimp only
  rw [if_pos (by rw [h]; rfl)]

theorem replayNow_again (h : (getPort s p).replay ≠ []) : replayNow s p =
    (let again := sendFlits (setPort (incFld s (perr p) 23 8) p { getPort s p with replays := (getPort s p).replays + 1 }) p (getPort s p).replay
     if 8 ≤ (getPort s p).replays + 1 then retrainTo again p 3 else again) := by
  rw [replayNow]
  dsimp only
  rw [if_neg (by simpa using h)]

end

/-- Settles O48: each command by STATE of LK_PSTAT. -/
theorem portStagesComplete : Obligations.PortStagesComplete := by
  intro s p hrun x fails again
  refine ⟨fun hfit hring hstate => ?_, fun h0 h8 h9 => ?_, fun hno => ?_, fun hfit => ?_, fun hfit => ⟨?_, ?_⟩, fun hlow hhigh => ?_,
    fun hno => ?_, fun hfit => ?_, fun hstate => ?_, fun hstate => ?_, fun hstate hlocked => ?_, fun hstate hun => ?_,
    fun hstate hnamed => ?_, fun hstate hun => ?_, fun hstate => ?_, fun hwhen => ?_, fun i hstate hfails => ?_, fun hstate hwait => ?_,
    exec_stageTimeout_still hrun p, fun hstate hreplay hfew => ?_, fun hstate hreplay hmany => ?_, fun hno => ?_, fun hstate hun => ?_,
    fun hno => ?_⟩
  · rw [exec_portBringUp hrun, bringUp_detects hfit hring hstate]
    refine ⟨_, rfl, portState_detecting s p, ?_, status_detecting s p, getPort_detecting s p, fun b hb => rd_detecting_ne s p hb⟩
    rw [detecting, partnerReady_unready]
  · rw [exec_portBringUp hrun, bringUp_still (.inr (.inr ⟨h0, h8, h9⟩))]
  · rw [exec_portBringUp hrun, bringUp_still (hno.imp_right .inl)]
  · rw [exec_portTakeDown hrun]
    obtain ⟨u, hu, hdone⟩ := takeDown_done hfit
    exact ⟨u, congrArg _ hu, hdone⟩
  · rw [exec_portTakeDown hrun, takeDown_absent hfit]
  · rw [exec_portTest hrun, if_neg (by simp [hfit])]
  · rw [exec_portRetrain hrun, if_pos ⟨hlow, hhigh⟩]
    refine ⟨_, rfl, portState_retrainTo s p (by decide), partnerReady_retrainTo s p 3, ?_, ?_, ?_⟩ <;> rw [getPort_retrainTo]
  · rw [exec_portRetrain hrun, if_neg (by omega)]
  · rw [exec_portTest hrun, if_pos hfit]
    refine ⟨_, rfl, portState_setPortState _ p (by decide), ?_⟩
    rw [getPort_setPortState, getPort_portDown]
  · rw [exec_portStageComplete hrun]
    rcases hstate with h | h <;> rw [h, stageDone]
  · rw [exec_portStageComplete hrun, hstate, stageDone]
  · rw [exec_portStageComplete hrun, hstate, stageDone, if_pos hlocked]
  · rw [exec_portStageComplete hrun, hstate, stageDone, if_neg (by simp [hun])]
  · intro s1 f
    rw [exec_portStageComplete hrun, hstate, stageDone, if_pos hnamed, sendCapability_eq, getPort_setPortState]
  · rw [exec_portStageComplete hrun, hstate, stageDone, if_neg (by simp [hun])]
  · rw [exec_portStageComplete hrun, stageDone]
    all_goals omega
  · have hover : exec (.stageTimeout p) s = .next (overrun s p) := by
      rcases hwhen with h | h | h | ⟨h, hfails⟩ | ⟨h, hmis, hpartner⟩
      · exact exec_stageTimeout_early hrun p (.inl h)
      · exact exec_stageTimeout_early hrun p (.inr (.inl h))
      · exact exec_stageTimeout_early hrun p (.inr (.inr h))
      · rw [exec_stageTimeout_lock hrun p h]
        split
        next hone => exact absurd (congrArg List.length hone) hfails
        · rfl
      · rw [exec_stageTimeout_capex hrun p h, if_neg]
        rw [show (getPort s p).partner = none from hpartner]
        simp [hmis]
    rw [hover, overrun_eq]
    exact ⟨fun h => by rw [if_neg (Nat.not_le.2 h)], fun h => by rw [if_pos h]⟩
  · rw [exec_stageTimeout_lock hrun p hstate, show (List.finRange 4).filter (fun i => !cdrLocked s (servingLane s p i)) = [i] from hfails]
  · rw [exec_stageTimeout_capex hrun p hstate, if_pos (by simpa using hwait)]
  · rw [exec_replayTimeout hrun, if_pos hstate, replayNow_again s p hreplay]
    exact congrArg _ (if_neg (Nat.not_le.2 (Nat.succ_lt_succ hfew)))
  · rw [exec_replayTimeout hrun, if_pos hstate, replayNow_again s p hreplay]
    exact congrArg _ (if_pos (Nat.succ_le_succ hmany))
  · rw [exec_replayTimeout hrun]
    split
    next hstate => rw [replayNow_empty s p (hno.resolve_left (not_not.2 hstate))]
    · rfl
  · rw [exec_readyTimeout hrun, if_pos (by simp [hstate, hun])]
    rfl
  · rw [exec_readyTimeout hrun, if_neg (by rcases hno with h | h <;> simp [h])]

end Sys2Proof.Machine
end

section
/-! SUPPORT. Lanes: slips, locks, markers, patterns and error windows (R389, R390, R397, R398, R405). -/

namespace Sys2Proof.Machine
open Sys2Proof

/-! ### What decides which port and lane a lane serves -/

/-- Every register but the error counts of lanes reads as before. -/
def SameLanes (s u : State) : Prop := ∀ a, (∀ l, a ≠ lerr l) → rd u a = rd s a

section
variable {s u : State} (h : SameLanes s u)
include h

theorem SameLanes.fld {a : Nat} (ha : ∀ l, a ≠ lerr l) (hi lo : Nat) : fld u a hi lo = fld s a hi lo := congrArg (bits · hi lo) (h a ha)

theorem SameLanes.lanePort (l : LaneId) : lanePort u l = lanePort s l := by
  have hside : Machine.fld u (lstat l) 58 58 = Machine.fld s (lstat l) 58 58 := h.fld (fun m => lstat_ne_lerr l m) _ _
  unfold Machine.lanePort
  split
  · rfl
  · simp only [hside]

theorem SameLanes.portState (p : PortId) : portState u p = portState s p := h.fld (fun m => (lerr_ne_pstat m p).symm) _ _

theorem SameLanes.threshold (p : PortId) : Machine.fld u (pctl p) 60 41 = Machine.fld s (pctl p) 60 41 := h.fld (fun m => pctl_ne_lerr p m) _ _

theorem SameLanes.servingLane (p : PortId) (i : Fin 4) : servingLane u p i = servingLane s p i := by
  have hnames : ∀ l, Machine.fld u (lstat l) 57 56 = Machine.fld s (lstat l) 57 56 := fun l => h.fld (fun m => lstat_ne_lerr l m) _ _
  have hspared : sparedLane u p = sparedLane s p := h.fld (fun m => (lerr_ne_pstat m p).symm) _ _
  have hnamed : lanesNamed u p = lanesNamed s p := by simp only [lanesNamed, hnames]
  have hown : ownLane u p i = ownLane s p i := by simp only [ownLane, hnamed, hnames]
  rw [Machine.servingLane, Machine.servingLane, hspared, hown]

end

/-- The window of a lane has ended, with `n` more errors counted (R397). -/
def windowEnded (s : State) (l : LaneId) (n : Nat) : State := clearWindow (setFld s (lerr l) 31 0 (fld s (lerr l) 31 0 + n)) l

theorem rd_clearWindow (s : State) (l : LaneId) (a : Nat) : rd (clearWindow s l) a = rd s a := by
  rw [clearWindow]
  split
  · rw [modPort_eq, rd_setPort]
  · rfl

theorem sameLanes_windowEnded (s : State) (l : LaneId) (n : Nat) : SameLanes s (windowEnded s l n) := fun a ha => by
  rw [windowEnded, rd_clearWindow, setFld_eq, rd_wr_ne _ _ (ha l)]

/-! ### The commands -/

section
variable {s : State} (hrun : running s = true) (l : LaneId)
include hrun

theorem exec_slip : exec (.slip l) s = .next (if shaleFitted s l.shale then slipLane s l else s) :=
  whenRunning_running hrun fun s => whenIf (shaleFitted s l.shale) s fun s => slipLane s l

theorem exec_markerLock_absent (h : shaleFitted s l.shale = false) (m : Option (BitVec 40)) (n : Nat) : exec (.markerLock l m n) s = .next s := by
  change execMarkerLock l m n s = _
  rw [execMarkerLock, whenRunning_running hrun]
  dsimp only
  rw [if_pos (by simp [h])]

theorem exec_markerLock_none (h : shaleFitted s l.shale = true) {m : Option (BitVec 40)} (n : Nat) (hm : m.bind readMarker = none) :
    exec (.markerLock l m n) s = .next (if 4 ≤ n then setFlag s (lstat l) 62 false else s) := by
  change execMarkerLock l m n s = _
  rw [execMarkerLock, whenRunning_running hrun]
  dsimp only
  rw [if_neg (by simp [h]), hm]

/-- What a marker with SPARE_REQ makes of the port outside LOCK and DESKEW. -/
def spareAsked (s : State) (p : PortId) (n : Nat) : Option Nat → State
  | some j => if portState s p = 6 ∧ 1 ≤ n then useSpare s p ⟨j % 4, Nat.mod_lt _ (by decide)⟩ else s
  | none => s

theorem exec_markerLock_marker (h : shaleFitted s l.shale = true) {m : BitVec 40} {i : Nat} {r : Option Nat} (n : Nat)
    (hm : readMarker m = some (i, r)) :
    exec (.markerLock l (some m) n) s = .next
      (if portState s (lanePort s l) = 3 ∨ portState s (lanePort s l) = 4 then
        (if 16 ≤ n then setFld (setFlag s (lstat l) 62 true) (lstat l) 57 56 i else s)
       else spareAsked s (lanePort s l) n r) := by
  change execMarkerLock l (some m) n s = _
  rw [execMarkerLock, whenRunning_running hrun]
  dsimp only
  rw [if_neg (by simp [h]), Option.bind_some, hm]
  rfl

theorem exec_prbsLock (n : Nat) : exec (.prbsLock l n) s = .next
    (if shaleFitted s l.shale && patternLane s l && flag s (lctl l) 59 then
      setFld (setFlag s (lstat l) 61 true) (lerr l) 63 32 (min (fld s (lerr l) 63 32 + n) (2 ^ 32 - 1))
     else s) := by
  change execPrbsLock l n s = _
  rw [execPrbsLock, whenRunning_running hrun]

theorem exec_cdrLock : exec (.cdrLock l) s = .next (if portState s (lanePort s l) = 3 then setFlag s (lstat l) 63 true else s) :=
  whenRunning_running hrun fun s => if portState s (lanePort s l) = 3 then setFlag s (lstat l) 63 true else s

theorem exec_laneErrorWindow_absent (h : shaleFitted s l.shale = false) (n : Nat) : exec (.laneErrorWindow l n) s = .next s := by
  change execLaneErrorWindow l n s = _
  rw [execLaneErrorWindow, whenRunning_running hrun, if_pos (by simp [h])]

theorem exec_laneErrorWindow (h : shaleFitted s l.shale = true) (n : Nat) : exec (.laneErrorWindow l n) s = .next
    (if fld s (pctl (lanePort s l)) 60 41 < windowErrors s l + n then failActive (windowEnded s l n) l else windowEnded s l n) := by
  have hsame := sameLanes_windowEnded s l n
  rw [← hsame.threshold, ← hsame.lanePort]
  change execLaneErrorWindow l n s = _
  rw [execLaneErrorWindow, whenRunning_running hrun, if_neg (by simp [h])]
  rfl

/-- What the loss of CDR lock on some lanes makes of a port. -/
def lockLost (lanes : List LaneId) (s : State) (p : PortId) : State :=
  if portState s p ≠ 6 then s else
  match (List.finRange 4).filter (fun i => lanes.contains (servingLane s p i)) with
  | [] => s
  | [i] => failLane s p i
  | _ => retrainTo s p 3

/-- CDR_LOCK is cleared on the lanes that are fitted. -/
def cdrCleared (lanes : List LaneId) (s : State) : State :=
  (lanes.filter (fun l => shaleFitted s l.shale)).foldl (fun s l => setFlag s (lstat l) 63 false) s

theorem exec_cdrLockLoss (lanes : List LaneId) : exec (.cdrLockLoss lanes) s = .next
    ((allPorts (cdrCleared lanes s)).foldl (lockLost lanes) (cdrCleared lanes s)) := by
  change execCdrLockLoss lanes s = _
  rw [execCdrLockLoss, whenRunning_running hrun]
  rfl

end

section
variable {s : State}

theorem lockLost_inactive (lanes : List LaneId) {p : PortId} (h : portState s p ≠ 6) : lockLost lanes s p = s := if_pos h

theorem lockLost_none (p : PortId) : lockLost [] s p = s := by
  have hno : (List.finRange 4).filter (fun i => ([] : List LaneId).contains (servingLane s p i)) = [] :=
    List.filter_eq_nil_iff.2 fun _ _ => by simp
  rw [lockLost, hno]
  exact ite_self _

/-- A step that leaves the state as it is for every entry leaves it after the whole list. -/
theorem foldl_still {α : Type} {f : State → α → State} : ∀ (l : List α) (s : State), (∀ x, x ∈ l → f s x = s) → l.foldl f s = s
  | [], _, _ => rfl
  | x :: l, s, h => by
    rw [List.foldl_cons, h x List.mem_cons_self]
    exact foldl_still l s fun y hy => h y (List.mem_cons_of_mem _ hy)

theorem cdrCleared_single {l : LaneId} (h : shaleFitted s l.shale = true) : cdrCleared [l] s = setFlag s (lstat l) 63 false := by
  have hall : [l].filter (fun l => shaleFitted s l.shale) = [l] := List.filter_eq_self.2 fun m hm => (List.mem_singleton.1 hm) ▸ h
  rw [cdrCleared, hall, List.foldl_cons, List.foldl_nil]

theorem cdrCleared_nil : cdrCleared [] s = s := rfl

theorem allPorts_congr {u : State} (h : u.part = s.part) : allPorts u = allPorts s := by
  have hfit : shaleFitted u = shaleFitted s := funext fun n => by rw [shaleFitted, h, shaleFitted]
  rw [allPorts, hfit, allPorts]

theorem portState_cdrLost (l : LaneId) (p : PortId) : portState (setFlag s (lstat l) 63 false) p = portState s p := by
  rw [portState, fld, setFlag_eq, rd_wr_ne _ _ (lstat_ne_pstat l p).symm, ← fld, ← portState]

theorem spareAsked_still {p : PortId} {n : Nat} {r : Option Nat} (h : portState s p ≠ 6 ∨ r = none ∨ n = 0) : spareAsked s p n r = s := by
  cases r with
  | none => rfl
  | some j => exact if_neg (by rcases h with h | h | h <;> simp_all)

theorem spareAsked_active {p : PortId} {n : Nat} (j : Fin 4) (hstate : portState s p = 6) (hn : 1 ≤ n) :
    spareAsked s p n (some j.val) = useSpare s p j := by
  rw [spareAsked, if_pos ⟨hstate, hn⟩]
  exact congrArg _ (Fin.ext (Nat.mod_eq_of_lt j.isLt))

theorem failActive_inactive {l : LaneId} (h : portState s (lanePort s l) ≠ 6) : failActive s l = s := if_neg h

theorem failActive_active {l : LaneId} {i : Fin 4} (h : portState s (lanePort s l) = 6)
    (hi : (List.finRange 4).find? (fun i => servingLane s (lanePort s l) i == l) = some i) : failActive s l = failLane s (lanePort s l) i := by
  rw [failActive, if_pos h, hi]

end

/-- Settles O49: by what the lane and its port show, and by what stood at the word boundary. -/
theorem lanesComplete : Obligations.LanesComplete := by
  intro s l hrun p
  refine ⟨fun hno m n => ⟨?_, exec_markerLock_absent hrun l hno m n, ?_, exec_laneErrorWindow_absent hrun l hno n⟩,
    fun hfit => ⟨?_, fun m n i r hm hstate => ?_, fun m n i j hm hstate hn => ?_, fun m n i r hm h3 h4 hno => ?_, fun m n hm => ?_,
      fun n hpat hon => ?_, fun n hno => ?_, fun n => ⟨fun hle => ?_, fun hgt => ⟨fun hstate => ?_, fun i hstate hi => ?_⟩⟩, fun hno => ?_⟩,
    fun hstate => ?_, fun hstate => ?_, ?_⟩
  · rw [exec_slip hrun, if_neg (by simp [hno])]
  · rw [exec_prbsLock hrun, if_neg (by simp [hno])]
  · rw [exec_slip hrun, if_pos hfit, slipLane]
  · rw [exec_markerLock_marker hrun l hfit n hm, if_pos hstate]
    exact ⟨fun hn => by rw [if_pos hn], fun hn => by rw [if_neg (Nat.not_le.2 hn)]⟩
  · rw [exec_markerLock_marker hrun l hfit n hm, if_neg, spareAsked_active j hstate hn]
    rw [show portState s (lanePort s l) = 6 from hstate]
    decide
  · rw [exec_markerLock_marker hrun l hfit n hm, if_neg (not_or.2 ⟨h3, h4⟩), spareAsked_still hno]
  · rw [exec_markerLock_none hrun l hfit n hm]
    exact ⟨fun hn => by rw [if_pos hn], fun hn => by rw [if_neg (Nat.not_le.2 hn)]⟩
  · rw [exec_prbsLock hrun, if_pos (by simp [hfit, hpat, hon])]
    refine ⟨_, rfl, ?_, ?_, fun b hstat herr => ?_⟩
    · rw [flag, setFld_eq, rd_wr_ne _ _ (lstat_ne_lerr l l), ← flag, flag_setFlag_same _ _ _ (by decide)]
    · rw [fld_setFld_same _ _ _ (by decide) (by decide)]
      exact Nat.mod_eq_of_lt (lt_of_le_of_lt (Nat.min_le_right ..) (by decide))
    · rw [setFld_eq, rd_wr_ne _ _ herr, setFlag_eq, rd_wr_ne _ _ hstat]
  · rw [exec_prbsLock hrun, if_neg (by rcases hno with h | h <;> simp [h])]
  · rw [exec_laneErrorWindow hrun l hfit, if_neg (Nat.not_lt.2 hle), windowEnded]
  · have hsame := sameLanes_windowEnded s l n
    rw [exec_laneErrorWindow hrun l hfit, if_pos hgt, failActive_inactive, windowEnded]
    rw [hsame.lanePort, hsame.portState]
    exact hstate
  · have hsame := sameLanes_windowEnded s l n
    have hport := hsame.lanePort l
    rw [exec_laneErrorWindow hrun l hfit, if_pos hgt, failActive_active (i := i), hport, windowEnded]
    · rw [hport, hsame.portState]
      exact hstate
    · rw [hport]
      simp only [hsame.servingLane]
      exact hi
  · rw [exec_cdrLockLoss hrun, cdrCleared_single hfit]
    rw [allPorts_congr (setFlag_part ..), foldl_still]
    intro q hq
    exact lockLost_inactive _ (by rw [portState_cdrLost]; exact hno q hq)
  · rw [exec_cdrLock hrun, if_pos hstate]
  · rw [exec_cdrLock hrun, if_neg hstate]
  · rw [exec_cdrLockLoss hrun]
    rw [cdrCleared_nil, foldl_still _ _ fun q _ => lockLost_none q]

end Sys2Proof.Machine
end

section
/-! SUPPORT. Flits and capability records that arrive, packets in transit and on uplinks (R386-R401). -/

namespace Sys2Proof.Machine
open Sys2Proof

/-! ### What sending leaves -/

/-- Flits leave on a port: its injection register, the free counter and what is on its way change. -/
structure FlitsSent (s u : State) (p : PortId) : Prop where
  ports : u.ports = s.ports
  log : u.log = s.log
  regs : ∀ a, a ≠ pinj p → rd u a = rd s a

section
variable {s u v : State} {p : PortId}

theorem FlitsSent.refl (s : State) (p : PortId) : FlitsSent s s p := ⟨rfl, rfl, fun _ _ => rfl⟩

theorem FlitsSent.trans (h : FlitsSent s u p) (h' : FlitsSent u v p) : FlitsSent s v p :=
  ⟨h'.ports.trans h.ports, h'.log.trans h.log, fun a ha => (h'.regs a ha).trans (h.regs a ha)⟩

theorem flitsSent_setFld (s : State) (p : PortId) (hi lo v : Nat) : FlitsSent s (setFld s (pinj p) hi lo v) p := by
  rw [setFld_eq]
  exact ⟨wr_ports .., wr_log .., fun a ha => rd_wr_ne _ _ ha⟩

theorem flitsSent_of_fields (hports : u.ports = s.ports) (hlog : u.log = s.log) (hpart : u.part = s.part) (hcsr : u.csr = s.csr) :
    FlitsSent s u p := ⟨hports, hlog, fun a _ => rd_congr hpart hcsr a⟩

theorem flitsSent_sendCodeword (s : State) (p : PortId) (fs : List LinkFlit) : FlitsSent s (sendCodeword s p fs) p := by
  rw [sendCodeword]
  dsimp only
  refine FlitsSent.trans (u := if symbolFault s p then
    { setFld s (pinj p) 59 44 (fld s (pinj p) 59 44 - 1) with freeCtr := s.freeCtr + 1 }
    else if crcFaults s p ≠ 0 then setFld s (pinj p) 59 44 (fld s (pinj p) 59 44 - crcFaults s p) else s) ?_ (flitsSent_of_fields rfl rfl rfl rfl)
  split
  · exact (flitsSent_setFld s p 59 44 _).trans (flitsSent_of_fields rfl rfl rfl rfl)
  split
  · exact flitsSent_setFld s p 59 44 _
  · exact .refl s p

theorem flitsSent_sendFlits (s : State) (p : PortId) (fs : List LinkFlit) : FlitsSent s (sendFlits s p fs) p :=
  foldl_inv (fun u => FlitsSent s u p) _ (fun u _ h => h.trans (flitsSent_sendCodeword u p _)) _ _ (.refl s p)

theorem pinj_ne_pstat (p q : PortId) : pinj p ≠ pstat q := by
  unfold pinj pstat lkPortAt lkAt csrAt csrBase
  omega

theorem FlitsSent.port (h : FlitsSent s u p) : getPort u p = getPort s p := by rw [getPort, h.ports, getPort]
theorem FlitsSent.status (h : FlitsSent s u p) : rd u (pstat p) = rd s (pstat p) := h.regs _ (pinj_ne_pstat p p).symm

end

theorem log_setPort (s : State) (p : PortId) (x : Port) : (setPort s p x).log = s.log := rfl
theorem fabric_setPort (s : State) (p : PortId) (x : Port) : (setPort s p x).fabric = s.fabric := rfl

/-! ### Codewords and flits -/

section
variable {s : State} (hrun : running s = true) (p : PortId) (m y : List (BitVec 10)) (k : Fin 4)
include hrun

theorem exec_linkFlit_still (h5 : portState s p ≠ 5) (h6 : portState s p ≠ 6) : exec (.linkFlit p m y k) s = .next s := by
  change execLinkFlit p m y k s = _
  rw [execLinkFlit, whenRunning_running hrun]
  dsimp only
  rw [if_pos ⟨h5, h6⟩]

theorem exec_linkFlit_lost (h : portState s p = 5 ∨ portState s p = 6) (hdec : rsDecode ((m ++ y).map (·.toNat)) = none) :
    exec (.linkFlit p m y k) s = .next (if k = 0 then fecFails s p else s) := by
  change execLinkFlit p m y k s = _
  rw [execLinkFlit, whenRunning_running hrun]
  dsimp only
  rw [if_neg (by omega), hdec]

theorem exec_linkFlit (h : portState s p = 5 ∨ portState s p = 6) {c fixed : List Nat}
    (hdec : rsDecode ((m ++ y).map (·.toNat)) = some (c, fixed)) : exec (.linkFlit p m y k) s = .next
      (if flitCrcOk (flitOf c k) then flitIn (if k = 0 then fecCorrects s p fixed else s) p (parseFlit (flitOf c k))
       else nakNow (if k = 0 then fecCorrects s p fixed else s) p) := by
  change execLinkFlit p m y k s = _
  rw [execLinkFlit, whenRunning_running hrun]
  dsimp only
  rw [if_neg (by omega), hdec]

end

section
variable (s : State) (p : PortId)

/-- A codeword that could not be corrected has been counted (R389, R405). -/
def uncorrected (s : State) (p : PortId) : State := setPort (incFld s (perr p) 39 24) p { getPort s p with uncorr := (getPort s p).uncorr + 1 }

theorem rd_uncorrected (s : State) (p : PortId) : rd (uncorrected s p) (pstat p) = rd s (pstat p) := by
  rw [uncorrected, rd_setPort, incFld, setFld_eq, rd_wr_ne _ _ (perr_ne_pstat p p).symm]

theorem fecFails_eq : fecFails s p =
    (if 8 ≤ (getPort s p).uncorr + 1 ∧ portState s p = 6 ∧ sparedLane s p = 7 then retrainTo (uncorrected s p) p 3
     else nakNow (uncorrected s p) p) := by
  have hport : getPort (uncorrected s p) p = { getPort s p with uncorr := (getPort s p).uncorr + 1 } := by
    rw [uncorrected, getPort_setPort_same]
  have hcount : modPort (incFld s (perr p) 39 24) p (fun x => { x with uncorr := x.uncorr + 1 }) = uncorrected s p := by
    rw [modPort_eq, uncorrected, incFld, getPort_setFld]
  have hstate : portState (uncorrected s p) p = portState s p := by rw [portState, fld, rd_uncorrected, ← fld, ← portState]
  have hspared : sparedLane (uncorrected s p) p = sparedLane s p := by rw [sparedLane, fld, rd_uncorrected, ← fld, ← sparedLane]
  rw [fecFails, hcount, hport, hstate, hspared]

theorem flitIn_noFreeze {f : LinkFlit} (h : f.amber = false) : flitIn s p f = flitSlots (flitControl s p f) p f := by
  rw [flitIn, if_neg (by simp [h])]

/-- What the control fields of a flit make of the port. -/
def controlled (s : State) (p : PortId) (f : LinkFlit) : Port :=
  let x := getPort s p
  let rest := if f.ackV then ackUpTo x.replay f.ackSeq else x.replay
  { x with replay := rest, replays := if rest.length < x.replay.length then 0 else x.replays, limit := f.limits,
           readyLate := x.readyLate && !f.ready }

theorem flitControl_noNak {f : LinkFlit} (h : f.nak = false) : flitControl s p f = setFlag (setPort s p (controlled s p f)) (pstat p) 59 f.ready := by
  rw [flitControl, if_neg (by simp [h])]
  rfl

/-- The expected flit is accepted. -/
theorem flitSlots_accepted {f : LinkFlit} (hseq : f.seq = (getPort s p).rxNext) (h : f.slot0.stype ≠ 0 ∨ f.slot1.stype ≠ 0) :
    flitSlots s p f = setPort s p { getPort s p with
      rxNext := (getPort s p).rxNext + 1, freed := takeSlot (takeSlot (getPort s p).freed f.slot0) f.slot1, nakked := false } := by
  rw [flitSlots, if_neg (by omega), if_pos hseq]

/-- What stands after a flit in order that carries slots and no NAK. -/
theorem flitAccepted {f : LinkFlit} (hnak : f.nak = false) (hseq : f.seq = (getPort s p).rxNext) (h : f.slot0.stype ≠ 0 ∨ f.slot1.stype ≠ 0) :
    ∃ u, flitSlots (flitControl s p f) p f = u ∧ (getPort u p).rxNext = (getPort s p).rxNext + 1 ∧ (getPort u p).limit = f.limits ∧
      partnerReady u p = f.ready ∧ (getPort u p).txSeq = (getPort s p).txSeq ∧ u.linkOut = s.linkOut ∧ u.tiles = s.tiles ∧ u.log = s.log ∧
      ∀ b, b ≠ pstat p → rd u b = rd s b := by
  have hport : getPort (flitControl s p f) p = controlled s p f := by
    rw [flitControl_noNak s p hnak, getPort_setFlag, getPort_setPort_same]
  have hframe : EventFrame (setPort s p (controlled s p f)) (flitControl s p f) := by
    rw [flitControl_noNak s p hnak]
    exact wr_eventFrame ..
  have hlog : (flitControl s p f).log = s.log := by rw [flitControl_noNak s p hnak, setFlag_eq, wr_log, log_setPort]
  rw [flitSlots_accepted _ p (by rw [hport]; exact hseq) h, hport]
  refine ⟨_, rfl, ?_, ?_, ?_, ?_, ?_, ?_, hlog, fun b hb => ?_⟩
  · rw [getPort_setPort_same, controlled]
  · rw [getPort_setPort_same, controlled]
  · rw [partnerReady, flag_setPort, flitControl_noNak s p hnak, flag_setFlag_same _ _ _ (by decide)]
  · rw [getPort_setPort_same, controlled]
  · exact hframe.field State.linkOut fun _ _ _ _ => rfl
  · exact hframe.field State.tiles fun _ _ _ _ => rfl
  · rw [rd_setPort, flitControl_noNak s p hnak, setFlag_eq, rd_wr_ne _ _ hb, rd_setPort]

end

/-! ### Capability records (R393-R395) -/

section
variable (s : State) (p : PortId) (r : CapRecord)

theorem showPartner_fabric : (showPartner s p r).fabric = s.fabric := by
  rw [showPartner, setFlag_eq, setFld_eq, wr_fabric, wr_fabric, modPort_eq, fabric_setPort]

theorem showPartner_log : (showPartner s p r).log = s.log := by
  rw [showPartner, setFlag_eq, setFld_eq, wr_log, wr_log, modPort_eq, log_setPort]

theorem getPort_showPartner : getPort (showPartner s p r) p = { getPort s p with partner := some r } := by
  rw [showPartner, getPort_setFlag, getPort_setFld, modPort_eq, getPort_setPort_same]

theorem partnerReady_showPartner : partnerReady (showPartner s p r) p = r.ready := by
  rw [showPartner, partnerReady, flag_setFlag_same _ _ _ (by decide)]

/-- The port is ACTIVE with its partner's record, before what it replays. -/
def activated (s : State) (p : PortId) : State :=
  setPort (setFld (setPortState s p 6) (pstat p) 58 51 0) p { getPort s p with sparing := none, readyLate := false, uncorr := 0, replays := 0 }

theorem modPort_active : modPort (setFld (setPortState s p 6) (pstat p) 58 51 0) p
    (fun x => { x with sparing := none, readyLate := false, uncorr := 0, replays := 0 }) = activated s p := by
  rw [modPort_eq, getPort_setFld, getPort_setPortState, activated]

theorem getPort_activated : getPort (activated s p) p = { getPort s p with sparing := none, readyLate := false, uncorr := 0, replays := 0 } := by
  rw [activated, getPort_setPort_same]

/-- A replay has been counted, before its flits leave. -/
def replayCounted (s : State) (p : PortId) : State :=
  setPort (incFld s (perr p) 23 8) p { getPort s p with replays := (getPort s p).replays + 1 }

theorem rd_replayCounted : rd (replayCounted s p) (pstat p) = rd s (pstat p) := by
  rw [replayCounted, rd_setPort, incFld, setFld_eq, rd_wr_ne _ _ (perr_ne_pstat p p).symm]

theorem log_replayCounted : (replayCounted s p).log = s.log := by
  rw [replayCounted, log_setPort, incFld, setFld_eq, wr_log]

theorem log_activated : (activated s p).log = s.log := by
  rw [activated, log_setPort, setFld_eq, wr_log, setPortState, setFld_eq, wr_log]

theorem portState_activated : portState (activated s p) p = 6 := by
  rw [activated, portState, fld_setPort, fld_setFld_ne _ _ _ (.inr (by decide)), ← portState, portState_setPortState _ p (by decide)]

theorem partnerReady_activated : partnerReady (activated s p) p = partnerReady s p := by
  rw [activated, partnerReady, flag_setPort, flag_setFld_ne _ _ (.inr (by decide)), setPortState, flag_setFld_ne _ _ (.inl (by decide)),
    ← partnerReady]

/-- What stands after the flits of an ACTIVE port have been sent again. -/
theorem activated_again (h : (getPort s p).replay ≠ []) : ∃ u, replayNow (activated s p) p = u ∧ portState u p = 6 ∧
    (getPort u p).partner = (getPort s p).partner ∧ partnerReady u p = partnerReady s p ∧ (getPort u p).replay = (getPort s p).replay ∧
    (getPort u p).replays = 1 ∧ u.log = s.log := by
  have hport := getPort_activated s p
  have hreplay : (getPort (activated s p) p).replay = (getPort s p).replay := by rw [hport]
  have hcount : (getPort (activated s p) p).replays = 0 := by rw [hport]
  have hpartner : (getPort (activated s p) p).partner = (getPort s p).partner := by rw [hport]
  have hsent := flitsSent_sendFlits (replayCounted (activated s p) p) p (getPort (activated s p) p).replay
  have hcounted : getPort (replayCounted (activated s p) p) p =
      { getPort (activated s p) p with replays := (getPort (activated s p) p).replays + 1 } := by
    rw [replayCounted, getPort_setPort_same]
  have hstatus := hsent.status.trans (rd_replayCounted (activated s p) p)
  have hagain : replayNow (activated s p) p = sendFlits (replayCounted (activated s p) p) p (getPort (activated s p) p).replay := by
    rw [replayNow_again _ p (by rw [hreplay]; exact h)]
    exact if_neg (by rw [hcount]; decide)
  refine ⟨_, hagain, ?_, ?_, ?_, ?_, ?_, ?_⟩
  · rw [portState, fld, hstatus, ← fld, ← portState, portState_activated]
  · rw [hsent.port, hcounted, hpartner]
  · rw [partnerReady, flag, hstatus, ← flag, ← partnerReady, partnerReady_activated]
  · rw [hsent.port, hcounted, hreplay]
  · rw [hsent.port, hcounted, hcount]
  · rw [hsent.log, log_replayCounted, log_activated]

end

section
variable {s : State} (hrun : running s = true) (p : PortId) (r : CapRecord)
include hrun

theorem exec_capabilityRecord_active (h : portState s p = 6) : exec (.capabilityRecord p r) s = .next
    (setPort (showPartner s p r) p { getPort (showPartner s p r) p with readyLate := (getPort (showPartner s p r) p).readyLate && !r.ready }) := by
  change execCapabilityRecord p r s = _
  rw [execCapabilityRecord, whenRunning_running hrun, if_pos h, modPort_eq]

theorem exec_capabilityRecord_still (h5 : portState s p ≠ 5) (h6 : portState s p ≠ 6) : exec (.capabilityRecord p r) s = .next s := by
  change execCapabilityRecord p r s = _
  rw [execCapabilityRecord, whenRunning_running hrun, if_neg h6, if_pos h5]

theorem exec_capabilityRecord (h : portState s p = 5) : exec (.capabilityRecord p r) s = .next
    (let s1 := showPartner s p r
     if isTorus p && (s.fabric.dev.isNone || !r.devset) then sendCapability s1 p
     else if (if isTorus p then torusPasses s1 p r else uplinkPasses p r) then replayNow (activated s1 p) p
     else portEvent (setFld s1 (pstat p) 58 51 stCapMismatch) p stCapMismatch) := by
  change execCapabilityRecord p r s = _
  rw [execCapabilityRecord, whenRunning_running hrun, if_neg (by omega), if_neg (not_not.2 h)]
  dsimp only
  rw [showPartner_fabric, modPort_active]

end

/-- The exchange goes on: both devices of a torus port have their numbers (R394). -/
theorem not_unnumbered {s : State} {p : PortId} {r : CapRecord} (h : (s.fabric.dev.isSome = true ∧ r.devset = true) ∨ isTorus p = false) :
    ¬(isTorus p && (s.fabric.dev.isNone || !r.devset)) = true := by
  rcases h with ⟨hdev, hset⟩ | h
  · simp [hset, Option.isSome_iff_ne_none.1 hdev]
  · simp [h]

/-! ### Packets in transit (R388, R399-R401) -/

section
variable {s : State} (hrun : running s = true)
include hrun

theorem exec_transitPacket_noDev (h : s.fabric.dev = none) (arr : Option PortId) (dst : BitVec 20) (age : Nat) (lw : Bool) (n : Nat) (k : Packet) :
    exec (.transitPacket arr dst age lw n k) s = .next s := by
  change execTransitPacket arr dst age lw n k s = _
  rw [execTransitPacket, whenRunning_running hrun, if_pos (by simp [h])]

/-- A packet that this device has not sent, or that is for itself, is not sent out. -/
theorem exec_transitPacket_own {dst : BitVec 20} {k : Packet} (h : (.fabric dst k) ∉ s.linkOut ∨ dst.toNat = ownDev s) (age : Nat) (lw : Bool)
    (n : Nat) : exec (.transitPacket none dst age lw n k) s = .next s := by
  cases hdev : s.fabric.dev with
  | none => exact exec_transitPacket_noDev hrun hdev ..
  | some d =>
    change execTransitPacket none dst age lw n k s = _
    rw [execTransitPacket, whenRunning_running hrun, if_neg (by simp [hdev])]
    by_cases hsent : (.fabric dst k) ∈ s.linkOut
    · have hdst := h.resolve_left (not_not.2 hsent)
      simp [hsent, hdst]
    · simp [hsent]

variable (hdev : s.fabric.dev.isSome = true) (q : PortId) (dst : BitVec 20) (age : Nat) (lw : Bool) (n : Nat) (k : Packet)
include hdev

/-- A packet that came on a port. -/
theorem exec_transitPacket_some : exec (.transitPacket (some q) dst age lw n k) s = .next
    (if dst.toNat = ownDev s then (if 2000 < age then agedOut s else sendFabric s dst.toNat k)
     else if !isTorus q then discardEvent s 2
     else if 2000 < ageOut age n then agedOut s
     else if pod dst.toNat ≠ pod (ownDev s) then discardEvent s 2
     else (torusSend s none (some q.port) dst.toNat (ageOut age n) lw k).getD
       (redirect s none (some q.port) dst.toNat (ageOut age n) k)) := by
  have hsome : s.fabric.dev.isNone = false := by rw [Option.isNone_eq_false_iff, hdev]
  change execTransitPacket (some q) dst age lw n k s = _
  rw [execTransitPacket, whenRunning_running hrun, if_neg (by simp [hsome])]
  cases hsend : torusSend s none (some q.port) dst.toNat (ageOut age n) lw k <;> simp [hsend, dropMsg]

end

section
variable {s : State} {arrival : Option (Fin 8)} {dst age : Nat} {longway : Bool} {p : Packet}

theorem torusSend_unreachable (orig : Option LinkMsg) (h : torusRoute s arrival dst longway p.dclass = none) :
    torusSend s orig arrival dst age longway p = none := by
  rw [torusSend, h]

theorem torusSend_waits (orig : Option LinkMsg) {o : PortId} {lo c : Bool} (h : torusRoute s arrival dst longway p.dclass = some (o, lo, c))
    (hsend : sendOnPort s o { p with dclass := c } age lo = none) : torusSend s orig arrival dst age longway p = some s := by
  rw [torusSend, h]
  dsimp only
  rw [hsend]

theorem torusSend_sent (orig : Option LinkMsg) {o : PortId} {lo c : Bool} {t : State}
    (h : torusRoute s arrival dst longway p.dclass = some (o, lo, c)) (hsend : sendOnPort s o { p with dclass := c } age lo = some t) :
    torusSend s orig arrival dst age longway p =
      some (sendLink (dropMsg t orig) (.forward o (BitVec.ofNat 20 dst) age lo c { p with dclass := c })) := by
  rw [torusSend, h]
  dsimp only
  rw [hsend]

theorem redirect_response (orig : Option LinkMsg) (h : 0x80 ≤ p.op.toNat) : redirect s orig arrival dst age p = dropMsg s orig := if_pos h

theorem redirect_again (orig : Option LinkMsg) (h : p.op.toNat < 0x80) (hredir : p.od.redir = true) :
    redirect s orig arrival dst age p = discardEvent (dropMsg s orig) 3 := by
  rw [redirect, if_neg (Nat.not_le.2 h), if_pos hredir]

theorem redirect_here (orig : Option LinkMsg) (h : p.op.toNat < 0x80) (hredir : p.od.redir = false) (htwin : twinOf dst = ownDev s) :
    redirect s orig arrival dst age p = sendFabric (dropMsg s orig) (twinOf dst) { p with od := { p.od with redir := true } } := by
  rw [redirect, if_neg (Nat.not_le.2 h), if_neg (by rw [hredir]; exact Bool.false_ne_true)]
  exact if_pos htwin

end

/-! ### Uplinks (R400) -/

section
variable {s : State}

/-- The uplink ports in the order in which a packet tries them. -/
def uplinkPorts (s : State) (p : Packet) : List PortId :=
  (List.range (objN s 0x0A30 5)).map (fun i =>
    let pl := ((addrDev p.addr ^^^ p.od.reqdev.toNat) % objN s 0x0A30 5 + i) % objN s 0x0A30 5
    ⟨⟨(1 + pl / 8) % 4, Nat.mod_lt _ (by decide)⟩, ⟨pl % 8, Nat.mod_lt _ (by decide)⟩⟩)

theorem uplinkSend_none (orig : Option LinkMsg) (dst age : Nat) {p : Packet} (h : (uplinkPorts s p).find? (portUsable s) = none) :
    uplinkSend s orig dst age p = discardEvent (dropMsg s orig) 1 := by
  rw [uplinkPorts] at h
  rw [uplinkSend]
  dsimp only at h ⊢
  rw [h]

theorem uplinkSend_waits (orig : Option LinkMsg) (dst : Nat) {age : Nat} {p : Packet} {o : PortId}
    (h : (uplinkPorts s p).find? (portUsable s) = some o) (hsend : sendOnPort s o p age false = none) :
    uplinkSend s orig dst age p = s := by
  rw [uplinkPorts] at h
  rw [uplinkSend]
  dsimp only at h ⊢
  rw [h]
  dsimp only
  rw [hsend]

theorem uplinkSend_sent (orig : Option LinkMsg) (dst : Nat) {age : Nat} {p : Packet} {o : PortId} {t : State}
    (h : (uplinkPorts s p).find? (portUsable s) = some o) (hsend : sendOnPort s o p age false = some t) :
    uplinkSend s orig dst age p = sendLink (dropMsg t orig) (.forward o (BitVec.ofNat 20 dst) age false p.dclass p) := by
  rw [uplinkPorts] at h
  rw [uplinkSend]
  dsimp only at h ⊢
  rw [h]
  dsimp only
  rw [hsend]

theorem exec_uplinkRoute (hrun : running s = true) (k : Packet) : exec (.uplinkRoute k) s = .next
    (if s.fabric.dev.isNone || pod (packetDev k) == pod (ownDev s) || !s.linkOut.contains (.fabric (BitVec.ofNat 20 (packetDev k)) k) then s
     else uplinkSend s (some (.fabric (BitVec.ofNat 20 (packetDev k)) k)) (packetDev k) 2 k) := by
  change execUplinkRoute k s = _
  rw [execUplinkRoute, whenRunning_running hrun]

end

/-- Settles O50: a codeword by what the decoder and the CRC find, a record by the port's state and what passes, a packet by its
destination, age and route. -/
theorem linkTrafficCompletes : Obligations.LinkTrafficCompletes := by
  intro s p hrun x
  refine ⟨fun m y k => ⟨exec_linkFlit_still hrun p m y k, fun hstate => ⟨fun hdec => ⟨fun hk => ?_, fun hk hcount h6 hspared => ?_,
      fun hk hno => ?_⟩, fun c fixed hdec => ⟨fun hcrc => ?_, fun hcrc hamber => ?_, fun hcrc hamber hnak hk hseq hslots => ?_⟩⟩⟩,
    fun r => ⟨exec_capabilityRecord_still hrun p r, exec_capabilityRecord_active hrun p r, fun h5 htorus hno => ?_,
      fun h5 hpass => ⟨fun hreplay => ?_, fun hreplay => ?_⟩, fun h5 hfail => ?_⟩,
    fun arr dst age lw n k hdev => exec_transitPacket_noDev hrun hdev .., fun dst age lw n k hno => exec_transitPacket_own hrun hno ..,
    fun hdev q dst age lw n k => ?_, fun k => ⟨fun hno => ?_, fun hdev hpod hm => ⟨fun hnone => ?_, fun o ho => ⟨fun hsend => ?_,
      fun t hsend => ?_⟩⟩⟩⟩
  · rw [exec_linkFlit_lost hrun p m y k hstate hdec, if_neg hk]
  · rw [exec_linkFlit_lost hrun p m y k hstate hdec, if_pos hk, fecFails_eq]
    exact congrArg _ (if_pos ⟨Nat.succ_le_succ hcount, h6, hspared⟩)
  · rw [exec_linkFlit_lost hrun p m y k hstate hdec, if_pos hk, fecFails_eq]
    refine congrArg _ (if_neg ?_)
    rintro ⟨hcount, h6, hspared⟩
    rcases hno with h | h | h
    · exact absurd hcount (Nat.not_le.2 (Nat.succ_lt_succ h))
    · omega
    · exact h hspared
  · rw [exec_linkFlit hrun p m y k hstate hdec, if_neg (by simp [hcrc])]
  · rw [exec_linkFlit hrun p m y k hstate hdec, if_pos hcrc, flitIn_noFreeze _ p hamber]
  · rw [exec_linkFlit hrun p m y k hstate hdec, if_pos hcrc, flitIn_noFreeze _ p hamber, if_neg hk]
    obtain ⟨u, hu, hdone⟩ := flitAccepted s p hnak hseq hslots
    exact ⟨u, congrArg _ hu, hdone⟩
  · rw [exec_capabilityRecord hrun p r h5]
    exact congrArg _ (if_pos (by rcases hno with h | h <;> simp [htorus, h]))
  · rw [exec_capabilityRecord hrun p r h5]
    dsimp only
    rw [if_neg (not_unnumbered (hpass.imp (fun h => ⟨h.2.1, h.2.2.1⟩) And.left)), if_pos (by rcases hpass with ⟨ht, -, -, h⟩ | ⟨ht, h⟩ <;> simp [ht, h])]
    rw [replayNow_empty, activated]
    rw [getPort_activated]
    exact hreplay
  · rw [exec_capabilityRecord hrun p r h5]
    dsimp only
    rw [if_neg (not_unnumbered (hpass.imp (fun h => ⟨h.2.1, h.2.2.1⟩) And.left)), if_pos (by rcases hpass with ⟨ht, -, -, h⟩ | ⟨ht, h⟩ <;> simp [ht, h])]
    obtain ⟨u, hu, hstate, hpartner, hready, hrep, hcount, hlog⟩ := activated_again (showPartner s p r) p hreplay
    refine ⟨u, congrArg _ hu, hstate, ?_, ?_, hrep, hcount, ?_⟩
    · rw [hpartner, getPort_showPartner]
    · rw [hready, partnerReady_showPartner]
    · rw [hlog, showPartner_log]
  · rw [exec_capabilityRecord hrun p r h5]
    dsimp only
    rw [if_neg (not_unnumbered (hfail.imp (fun h => ⟨h.2.1, h.2.2.1⟩) And.left)), if_neg (by rcases hfail with ⟨ht, -, -, h⟩ | ⟨ht, h⟩ <;> simp [ht, h])]
  · rw [exec_transitPacket_some hrun hdev]
    refine ⟨fun hme hage => ?_, fun hme hage => ?_, fun hother htorus => ?_, fun hother htorus => ⟨fun hage => ?_, fun hage hpod => ?_,
      fun hage hpod => ⟨fun o lo c hroute => ⟨fun hsend => ?_, fun t hsend => ?_⟩, fun hroute => ⟨fun hop => ?_, fun hop hredir => ?_,
        fun hop hredir htwin => ?_⟩⟩⟩⟩
    · rw [if_pos hme, if_neg (Nat.not_lt.2 hage)]
    · rw [if_pos hme, if_pos hage]
    · rw [if_neg hother, if_pos (by simp [htorus])]
    · rw [if_neg hother, if_neg (by simp [htorus]), if_pos hage]
    · rw [if_neg hother, if_neg (by simp [htorus]), if_neg (Nat.not_lt.2 hage), if_pos hpod]
    · rw [if_neg hother, if_neg (by simp [htorus]), if_neg (Nat.not_lt.2 hage), if_neg (not_not.2 hpod), torusSend_waits none hroute hsend,
        Option.getD_some]
    · rw [if_neg hother, if_neg (by simp [htorus]), if_neg (Nat.not_lt.2 hage), if_neg (not_not.2 hpod), torusSend_sent none hroute hsend,
        Option.getD_some, BitVec.ofNat_toNat, BitVec.setWidth_eq]
      rfl
    · rw [if_neg hother, if_neg (by simp [htorus]), if_neg (Nat.not_lt.2 hage), if_neg (not_not.2 hpod), torusSend_unreachable none hroute,
        Option.getD_none, redirect_response none hop]
      rfl
    · rw [if_neg hother, if_neg (by simp [htorus]), if_neg (Nat.not_lt.2 hage), if_neg (not_not.2 hpod), torusSend_unreachable none hroute,
        Option.getD_none, redirect_again none hop hredir]
      rfl
    · rw [if_neg hother, if_neg (by simp [htorus]), if_neg (Nat.not_lt.2 hage), if_neg (not_not.2 hpod), torusSend_unreachable none hroute,
        Option.getD_none, redirect_here none hop hredir htwin]
      rfl
  · rw [exec_uplinkRoute hrun, if_pos (by rcases hno with h | h | h <;> simp [h])]
  · rw [exec_uplinkRoute hrun, if_neg (by simp [hpod, hm, Option.isSome_iff_ne_none.1 hdev]), uplinkSend_none _ _ _ hnone]
    rfl
  · rw [exec_uplinkRoute hrun, if_neg (by simp [hpod, hm, Option.isSome_iff_ne_none.1 hdev]), uplinkSend_waits _ _ ho hsend]
  · rw [exec_uplinkRoute hrun, if_neg (by simp [hpod, hm, Option.isSome_iff_ne_none.1 hdev]), uplinkSend_sent _ _ ho hsend]
    rfl

end Sys2Proof.Machine
end

section
/-! SUPPORT. Check-value units: blocks, comparisons, and runs over memory (R415-R420, R437). -/

namespace Sys2Proof.Machine
open Sys2Proof

theorem cvKey_partner_ne (u : CvId) : cvKey (cvPartner u) ≠ cvKey u := by
  obtain ⟨d, n⟩ := u
  have hne : ∀ n : Fin 64, (n.val ^^^ 1) % 64 ≠ n.val := by decide
  intro h
  have := hne n
  simp only [cvKey, cvPartner] at h
  omega

section
variable (s : State) (u : CvId)

theorem getCv_setCv_partner (x : CvUnit) : getCv (setCv s u x) (cvPartner u) = getCv s (cvPartner u) :=
  mget_mset_ne _ _ _ _ (cvKey_partner_ne u)

theorem rd_setCv (x : CvUnit) (a : Nat) : rd (setCv s u x) a = rd s a := rfl
theorem fld_setCv (x : CvUnit) (a hi lo : Nat) : fld (setCv s u x) a hi lo = fld s a hi lo := rfl

/-- The even unit of a pair. -/
def evenUnit (u : CvId) : CvId := if u.unit.val % 2 = 0 then u else cvPartner u

/-- R418: a unit that has closed a block runs ahead of its partner, or not. -/
theorem cvSkew_closed (x : CvUnit) : cvSkew (setCv s u x) u =
    (if cvCmp s u = 2 ∧ (getCv s (cvPartner u)).closed + 2 ≤ x.closed then
      cvMismatch { setCv s u x with freeCtr := s.freeCtr + 1 } [evenUnit u, cvPartner (evenUnit u)] true (evenUnit u)
        (Config.free s.freeCtr).toNat
     else setCv s u x) := by
  have hcmp : cvCmp (setCv s u x) u = cvCmp s u := fld_setCv s u x _ _ _
  rw [cvSkew]
  dsimp only
  rw [hcmp, getCv_setCv_same, getCv_setCv_partner]
  by_cases h : cvCmp s u = 2 ∧ (getCv s (cvPartner u)).closed + 2 ≤ x.closed
  · rw [if_pos h, if_pos (by simpa using h)]
    rfl
  · rw [if_neg h, if_neg (by simpa using h)]

end

/-! ### Units of Basalt dies -/

section
variable {s : State} (hrun : running s = true) (u : CvId)
include hrun

theorem exec_cvFeed (data : BitVec 64) (nb : Fin 8) (last : Bool) :
    exec (.cvFeed u data nb last) s = .next (if cvLive s u then cvFeedEdge s u data nb last else s) :=
  whenRunning_running hrun fun s => if cvLive s u then cvFeedEdge s u data nb last else s

theorem exec_cvClear : exec (.cvClear u) s = .next (if cvLive s u then cvClearEdge s u else s) :=
  whenRunning_running hrun fun s => if cvLive s u then cvClearEdge s u else s

theorem exec_cvBlockDone_still (h : cvLive s u = false ∨ (getCv s u).closing = []) : exec (.cvBlockDone u) s = .next s := by
  change execCvBlockDone u s = _
  rw [execCvBlockDone, whenRunning_running hrun]
  dsimp only
  split
  · rfl
  next hlive =>
    rw [h.resolve_left fun e => hlive (by simp [e])]

theorem exec_cvBlockDone (hlive : cvLive s u = true) {v : Word} {r : List Word} (h : (getCv s u).closing = v :: r) :
    exec (.cvBlockDone u) s = .next
      (let s1 := setCv s u { getCv s u with
         closing := r, toCompare := if cvCmp s u = 0 then (getCv s u).toCompare else (getCv s u).toCompare ++ [v] }
       incFld (wr (cvPulse s1 u 1) (cvReg u 0x18) v) (cvStatAt u) 51 20) := by
  change execCvBlockDone u s = _
  rw [execCvBlockDone, whenRunning_running hrun]
  dsimp only
  rw [if_neg (by simp [hlive]), h]

theorem exec_cvCompare_still (h : cvLive s u = false ∨ (getCv s u).toCompare = [] ∨
    cvCmp s u ≠ 1 ∧ (getCv s (cvPartner u)).toCompare = []) : exec (.cvCompare u) s = .next s := by
  change execCvCompare u s = _
  rw [execCvCompare, whenRunning_running hrun]
  dsimp only
  split
  · rfl
  next hlive =>
    rcases h.resolve_left fun e => hlive (by simp [e]) with h | ⟨hcmp, h⟩
    · rw [h]
    · split
      · rfl
      · rw [if_neg hcmp, h]

theorem exec_cvCompare_expected (hlive : cvLive s u = true) {v : Word} {r : List Word} (h : (getCv s u).toCompare = v :: r)
    (hcmp : cvCmp s u = 1) : exec (.cvCompare u) s = .next
      (let s1 := setCv s u { getCv s u with toCompare := r }
       if v = rd s (cvReg u 0x10) then cvPulse s1 u 2 else cvMismatch s1 [u] false u (v ^^^ rd s (cvReg u 0x10)).toNat) := by
  change execCvCompare u s = _
  rw [execCvCompare, whenRunning_running hrun]
  dsimp only
  rw [if_neg (by simp [hlive]), h]
  dsimp only
  rw [if_pos hcmp, rd_setCv]

theorem exec_cvCompare_pair (hlive : cvLive s u = true) {v w : Word} {r q : List Word} (h : (getCv s u).toCompare = v :: r)
    (hw : (getCv s (cvPartner u)).toCompare = w :: q) (hcmp : cvCmp s u = 2) : exec (.cvCompare u) s = .next
      (let s1 := setCv (setCv s u { getCv s u with toCompare := r }) (cvPartner u) { getCv s (cvPartner u) with toCompare := q }
       if v = w then cvPulse (cvPulse s1 u 2) (cvPartner u) 2
       else cvMismatch s1 [evenUnit u, cvPartner (evenUnit u)] false (evenUnit u) (v ^^^ w).toNat) := by
  change execCvCompare u s = _
  rw [execCvCompare, whenRunning_running hrun]
  dsimp only
  rw [if_neg (by simp [hlive]), h]
  dsimp only
  rw [if_neg (by simp [hcmp]), hw]
  rfl

end

/-! ### CV_CFG and GO (R415, R418-R420) -/

section
variable (s : State) (u : CvId)

/-- A unit starts afresh when EN changes. -/
def cvFresh (g : Word) : State :=
  if bit g 63 ≠ cvEn s u then
    setCv s u { getCv s u with acc := 0, started := false, closing := [], toCompare := [], closed := 0, pulse := 0 }
  else s

/-- CV_CFG taken, before GO. -/
def cvConfigured (g : Word) : State := plainWrite (cvFresh s u g) .cvCfg (cvReg u 0) g

theorem cvConfigured_part (g : Word) : (cvConfigured s u g).part = s.part := by
  rw [cvConfigured, plainWrite_part, cvFresh]
  split
  · rw [setCv]
  · rfl

/-- The status with which GO ends at once, 0 when the run starts. -/
def cvStartCode : Status :=
  if userEnd s.part < fld s (cvReg u 0x28) 47 6 * 64 + fld s (cvReg u 0x30) 32 0 * 64 then stNocDenied
  else if cvCmp s u = 3 then twinRunStatus s (fld s (cvReg u 0x28) 47 6 * 64) (fld s (cvReg u 0x30) 32 0 * 64) else stOk

theorem cvStartCode_twin {s : State} {u : CvId}
    (hin : fld s (cvReg u 0x28) 47 6 * 64 + fld s (cvReg u 0x30) 32 0 * 64 ≤ userEnd s.part) (hcmp : cvCmp s u = 3) :
    cvStartCode s u = twinRunStatus s (fld s (cvReg u 0x28) 47 6 * 64) (fld s (cvReg u 0x30) 32 0 * 64) := by
  rw [cvStartCode, if_neg (Nat.not_lt.2 hin), if_pos hcmp]

theorem cvStart_idle (h : flag s (cvStatAt u) 60 = false) : cvStart s u =
    (let a := fld s (cvReg u 0x28) 47 6 * 64
     let n := fld s (cvReg u 0x30) 32 0 * 64
     if cvStartCode s u ≠ 0 then cvEnd s u (cvStartCode s u)
     else setFlag (setCv s u { getCv s u with runAddr := a, runEnd := a + n }) (cvStatAt u) 60 true) := by
  rw [cvStart, if_neg (by simp [h])]
  rfl

theorem cvStart_busy (h : flag s (cvStatAt u) 60 = true) : cvStart s u = s := if_pos h

end

section
variable {s : State} (hrun : running s = true) (u : CvId)
include hrun

theorem exec_cvGo (v : Word) : exec (.cvGo u v) s = .next
    (if !cvExists u then s
     else if cvCfgBad s u (setBit v 43 true) then cvErr s u
     else if bit (setBit v 43 true) 63 && cvOnS0 u then cvStart (cvConfigured s u (setBit v 43 true)) u
     else cvConfigured s u (setBit v 43 true)) := by
  have hgo : bit (setBit v 43 true) 43 = true := bit_setBit_same _ _ (by decide)
  change execCvGo u v s = _
  rw [execCvGo, whenRunning_running hrun, writeCvCfg]
  dsimp only
  rw [hgo, Bool.true_and, cvConfigured, cvFresh]
  simp only [bne_iff_ne]

/-! ### Runs of units of S0 (R419, R420) -/

theorem exec_cvRunDone_still (h : cvOnS0 u = false ∨ flag s (cvStatAt u) 60 = false ∨ cvCmp s u = 3 ∨
    hbmFree s (getCv s u).runAddr ((getCv s u).runEnd - (getCv s u).runAddr) = false) : exec (.cvRunDone u) s = .next s := by
  change execCvRunDone u s = _
  rw [execCvRunDone, whenRunning_running hrun]
  dsimp only
  rw [if_pos]
  rcases h with h | h | h | h <;> simp [h]

/-- What a run has read: the state after it, the value and the status that ended it early. -/
def runRead (s : State) (u : CvId) (a b : Nat) : State × Nat × Status :=
  cvGranules (cvPoly s u) ((b - a) / 64) a (s, (rd s (cvReg u 8)).toNat, 0)

/-- A run's value is published (R417, R419). -/
def runValue (s : State) (u : CvId) (v : Word) : State := incFld (wr s (cvReg u 0x18) v) (cvStatAt u) 51 20

theorem exec_cvRunDone (hs0 : cvOnS0 u = true) (hrunning : flag s (cvStatAt u) 60 = true) (hcmp : cvCmp s u ≠ 3)
    (hfree : hbmFree s (getCv s u).runAddr ((getCv s u).runEnd - (getCv s u).runAddr) = true) : exec (.cvRunDone u) s = .next
      (let r := runRead s u (getCv s u).runAddr (getCv s u).runEnd
       let v : Word := BitVec.ofNat 64 r.2.1
       let s1 := runValue r.1 u v
       if r.2.2 ≠ 0 then cvEnd r.1 u r.2.2
       else if cvCmp s1 u = 1 ∧ v ≠ rd s1 (cvReg u 0x10) then
         cvEnd (logEvent (incFld (setFlag s1 (cvStatAt u) 63 true) (cvStatAt u) 19 4) 0x0036 4 (0x100 + u.unit) 2
           (v ^^^ rd s1 (cvReg u 0x10)).toNat) u stCheckMismatch
       else cvEnd s1 u stOk) := by
  change execCvRunDone u s = _
  rw [execCvRunDone, whenRunning_running hrun]
  dsimp only
  rw [if_neg (by simp [hs0, hrunning, hcmp, hfree])]
  rfl

theorem exec_cvTwinChunk_still (h : cvOnS0 u = false ∨ flag s (cvStatAt u) 60 = false ∨ cvCmp s u ≠ 3) (t : Word) :
    exec (.cvTwinChunk u t) s = .next s := by
  change execCvTwinChunk u t s = _
  rw [execCvTwinChunk, whenRunning_running hrun, if_pos]
  rcases h with h | h | h <;> simp [h]

/-- Where the chunk that stands first in a run ends. -/
def chunkEnd (x : CvUnit) : Nat := min x.runEnd ((x.runAddr / 16384 + 1) * 16384)

theorem exec_cvTwinChunk (hs0 : cvOnS0 u = true) (hrunning : flag s (cvStatAt u) 60 = true) (hcmp : cvCmp s u = 3) (t : Word) :
    exec (.cvTwinChunk u t) s = .next
      (let x := getCv s u
       let r := runRead s u x.runAddr (chunkEnd x)
       let v : Word := BitVec.ofNat 64 r.2.1
       let s1 := setCv r.1 u { x with runAddr := chunkEnd x }
       if twinState s ≠ 2 then cvEnd s u stMirrorState
       else if !hbmFree s x.runAddr (chunkEnd x - x.runAddr) then s
       else if r.2.2 ≠ 0 then cvEnd r.1 u r.2.2
       else if v ≠ t then
         cvEnd (logEvent (incFld (setFlag (wr r.1 (cvReg u 0x18) (BitVec.ofNat 64 x.runAddr)) (cvStatAt u) 63 true) (cvStatAt u) 19 4)
           0x0036 4 (0x100 + u.unit) 2 x.runAddr) u stCheckMismatch
       else if x.runEnd ≤ chunkEnd x then cvEnd (runValue s1 u v) u stOk
       else s1) := by
  change execCvTwinChunk u t s = _
  rw [execCvTwinChunk, whenRunning_running hrun, if_neg (by simp [hs0, hrunning, hcmp])]
  rfl

end

/-- Settles O51: an edge by its inputs and the unit's blocks, GO by the register, a run and a chunk by what they read. -/
theorem checkValueUnitsComplete : Obligations.CheckValueUnitsComplete := by
  intro s u hrun x p y even acc
  refine ⟨fun hdead data nb last => ⟨?_, ?_, exec_cvBlockDone_still hrun u (.inl hdead), exec_cvCompare_still hrun u (.inl hdead)⟩,
    fun hlive data nb => ⟨?_, fun hno => ?_, fun hcmp hahead => ?_⟩, fun hlive => ?_, fun hlive hnone => exec_cvBlockDone_still hrun u (.inr hnone),
    fun v r hlive hclosing => exec_cvBlockDone hrun u hlive hclosing, fun hlive hno => exec_cvCompare_still hrun u (.inr hno),
    fun v r hlive hv hcmp => ⟨fun heq => ?_, fun hne => ?_⟩, fun v r w q hlive hv hw hcmp => ⟨fun heq => ?_, fun hne => ?_⟩,
    fun hno v => ?_, fun hex v => ⟨fun hbad => ?_, fun hgood => ⟨fun hno => ?_, fun hen hs0 hidle => ⟨fun hout => ?_, fun hin hcmp hbad => ?_,
      fun hin hok => ?_⟩⟩⟩, fun hno => ⟨exec_cvRunDone_still hrun u (hno.imp_right .inl), exec_cvTwinChunk_still hrun u (hno.imp_right .inl)⟩,
    fun hs0 hrunning hcmp => ⟨exec_cvTwinChunk_still hrun u (.inr (.inr hcmp)), fun hheld => exec_cvRunDone_still hrun u (.inr (.inr (.inr hheld))),
      fun hfree => ⟨fun hend => ?_, fun hok heq => ?_, fun hok hc hne => ?_⟩⟩,
    fun hs0 hrunning hcmp => ⟨exec_cvRunDone_still hrun u (.inr (.inr (.inl hcmp))), fun t htwin => ?_, fun t htwin hheld => ?_,
      fun t htwin hfree => ⟨fun hend => ?_, fun hok heq hmore => ?_, fun hok heq hlast => ?_, fun hok hne => ?_⟩⟩⟩
  · rw [exec_cvFeed hrun, if_neg (by simp [hdead])]
  · rw [exec_cvClear hrun, if_neg (by simp [hdead])]
  · rw [exec_cvFeed hrun, if_pos hlive, cvFeedEdge, if_neg Bool.false_ne_true]
  · rw [exec_cvFeed hrun, if_pos hlive, cvFeedEdge, if_pos rfl, cvSkew_closed, if_neg]
    rintro ⟨hcmp, hahead⟩
    rcases hno with h | h
    · exact h hcmp
    · exact absurd (Nat.le_of_succ_le_succ hahead) (Nat.not_le.2 h)
  · rw [exec_cvFeed hrun, if_pos hlive, cvFeedEdge, if_pos rfl, cvSkew_closed]
    exact congrArg _ (if_pos ⟨hcmp, Nat.succ_le_succ hahead⟩)
  · rw [exec_cvClear hrun, if_pos hlive, cvClearEdge]
  · rw [exec_cvCompare_expected hrun u hlive hv hcmp]
    exact congrArg _ (if_pos heq)
  · rw [exec_cvCompare_expected hrun u hlive hv hcmp]
    exact congrArg _ (if_neg hne)
  · rw [exec_cvCompare_pair hrun u hlive hv hw hcmp]
    exact congrArg _ (if_pos heq)
  · rw [exec_cvCompare_pair hrun u hlive hv hw hcmp]
    exact congrArg _ (if_neg hne)
  · rw [exec_cvGo hrun, if_pos (by simp [hno])]
  · rw [exec_cvGo hrun, if_neg (by simp [hex]), if_pos hbad, cvErr]
  · rw [exec_cvGo hrun, if_neg (by simp [hex]), if_neg (by simp [hgood])]
    split
    next hgo =>
      obtain ⟨hen, hs0⟩ := Bool.and_eq_true_iff.1 hgo
      have hbusy := (hno.resolve_left (by rw [hen]; exact Bool.true_eq_false_eq_False)).resolve_left (by simp [hs0])
      exact congrArg _ (cvStart_busy _ u hbusy)
    · rfl
  · rw [exec_cvGo hrun, if_neg (by simp [hex]), if_neg (by simp [hgood]), if_pos (by rw [hen, hs0]; rfl), cvStart_idle (cvConfigured s u (setBit v 43 true)) u hidle]
    have hcode : cvStartCode (cvConfigured s u (setBit v 43 true)) u = stNocDenied := by
      rw [cvStartCode, cvConfigured_part]
      exact if_pos hout
    rw [hcode]
    exact congrArg _ (if_pos (by decide))
  · rw [exec_cvGo hrun, if_neg (by simp [hex]), if_neg (by simp [hgood]), if_pos (by rw [hen, hs0]; rfl), cvStart_idle (cvConfigured s u (setBit v 43 true)) u hidle]
    have hcode := cvStartCode_twin (s := cvConfigured s u (setBit v 43 true)) (u := u) (by rw [cvConfigured_part]; exact hin) hcmp
    rw [hcode]
    exact congrArg _ (if_pos hbad)
  · rw [exec_cvGo hrun, if_neg (by simp [hex]), if_neg (by simp [hgood]), if_pos (by rw [hen, hs0]; rfl), cvStart_idle (cvConfigured s u (setBit v 43 true)) u hidle]
    have hcode : cvStartCode (cvConfigured s u (setBit v 43 true)) u = 0 := by
      rw [cvStartCode, cvConfigured_part]
      refine (if_neg (Nat.not_lt.2 hin)).trans ?_
      split
      next hcmp => exact hok.resolve_left (not_not.2 hcmp)
      · rfl
    rw [hcode]
    exact congrArg _ (if_neg (not_not.2 rfl))
  · rw [exec_cvRunDone hrun u hs0 hrunning hcmp hfree]
    exact congrArg _ (if_pos hend)
  · rw [exec_cvRunDone hrun u hs0 hrunning hcmp hfree]
    exact congrArg _ ((if_neg (not_not.2 hok)).trans (if_neg (by rintro ⟨h1, h2⟩; exact heq.elim (fun h => h h1) h2)))
  · rw [exec_cvRunDone hrun u hs0 hrunning hcmp hfree]
    exact congrArg _ ((if_neg (not_not.2 hok)).trans (if_pos ⟨hc, hne⟩))
  · rw [exec_cvTwinChunk hrun u hs0 hrunning hcmp]
    exact congrArg _ (if_pos htwin)
  · rw [exec_cvTwinChunk hrun u hs0 hrunning hcmp]
    exact congrArg _ ((if_neg (not_not.2 htwin)).trans (if_pos (by rw [Bool.not_eq_true']; exact hheld)))
  all_goals
    have hready : (!hbmFree s (getCv s u).runAddr (chunkEnd (getCv s u) - (getCv s u).runAddr)) ≠ true := by
      rw [show hbmFree s (getCv s u).runAddr (chunkEnd (getCv s u) - (getCv s u).runAddr) = true from hfree]
      exact Bool.false_ne_true
    rw [exec_cvTwinChunk hrun u hs0 hrunning hcmp]
    refine congrArg _ ((if_neg (not_not.2 htwin)).trans ((if_neg hready).trans ?_))
  · exact if_pos hend
  · exact (if_neg (not_not.2 hok)).trans ((if_neg (not_not.2 heq)).trans (if_neg (Nat.not_le.2 hmore)))
  · exact (if_neg (not_not.2 hok)).trans ((if_neg (not_not.2 heq)).trans (if_pos hlast))
  · exact (if_neg (not_not.2 hok)).trans (if_pos hne)

end Sys2Proof.Machine
end

section
/-! SUPPORT. Updates of image slots, owner keys, attestation, policies and region operations (R446, R454, R455, R473-R488). -/

namespace Sys2Proof.Machine
open Sys2Proof

/-! ### Lists of objects of which some are gone -/

theorem mfind_filter {α : Type} (f : Nat → Bool) (k : Nat) : ∀ m : SMap α, mfind (m.filter fun e => f e.1) k = if f k then mfind m k else none
  | [] => by simp [mfind]
  | (j, v) :: m => by
    have ih := mfind_filter f k m
    by_cases hj : f j = true
    · rw [List.filter_cons_of_pos (p := fun e => f e.1) (a := (j, v)) hj, mfind, mfind]
      by_cases hk : j = k
      · rw [if_pos hk, if_pos hk, if_pos (hk ▸ hj)]
      · rw [if_neg hk, if_neg hk, ih]
    · rw [List.filter_cons_of_neg (p := fun e => f e.1) (a := (j, v)) hj, ih, mfind]
      by_cases hk : j = k
      · rw [if_neg (hk ▸ hj), if_neg (hk ▸ hj)]
      · rw [if_neg hk]

section
variable {s : State} {idx sub : Nat}

theorem objN_objSetN_lt {v : Nat} (h : v < 256 ^ tyBytes (((objInfo s.part idx sub).map (·.ty)).getD 1)) :
    objN (objSetN s idx sub v) idx sub = v := by
  rw [objN_objSetN_same, Nat.mod_eq_of_lt h]

/-- A set of objects that is gone reads as its defaults; the others as before. -/
theorem objGet_filter (f : Nat → Bool) (s : State) (idx sub : Nat) :
    objGet { s with mgmt := { s.mgmt with objs := s.mgmt.objs.filter fun e => f e.1 } } idx sub =
      if f (idx * 256 + sub) then objGet s idx sub else ((objInfo s.part idx sub).map (·.dflt)).getD [] := by
  rw [objGet, mfind_filter]
  split
  · rfl
  · rfl

end

/-! ### The slots of images (R481) -/

section
variable (s : State) (host : Bool)

theorem slotOf_setSlot (x : ImageSlot) : slotOf (setSlot s host x) host = x := by
  cases host <;> rfl

theorem slotOf_setSlot_other (x : ImageSlot) : slotOf (setSlot s host x) (!host) = slotOf s (!host) := by
  cases host <;> rfl

theorem slotOf_objSetN (idx sub v : Nat) : slotOf (objSetN s idx sub v) host = slotOf s host := rfl
theorem csr_objSetN (idx sub v : Nat) : (objSetN s idx sub v).csr = s.csr := rfl
theorem part_objSetN (idx sub v : Nat) : (objSetN s idx sub v).part = s.part := rfl
theorem csr_setSlot (x : ImageSlot) : (setSlot s host x).csr = s.csr := rfl
theorem tiles_setSlot (x : ImageSlot) : (setSlot s host x).tiles = s.tiles := rfl

/-- The bytes of the objects of an update that hold its state and its position. -/
theorem updObj_bytes : tyBytes (((objInfo s.part (updIdx host) 5).map (·.ty)).getD 1) = 1 ∧
    tyBytes (((objInfo s.part (updIdx host) 3).map (·.ty)).getD 1) = 4 ∧ tyBytes (((objInfo s.part 0x0220 6).map (·.ty)).getD 1) = 1 := by
  cases host <;> cases s.part <;> exact ⟨rfl, rfl, rfl⟩

theorem slotOf_setUpdResult (h : Bool) (e : Status) : slotOf (setUpdResult s host e) h = slotOf s h := by
  cases host <;> rfl

theorem csr_setUpdResult (e : Status) : (setUpdResult s host e).csr = s.csr := by
  cases host <;> rfl

theorem tiles_setUpdResult (e : Status) : (setUpdResult s host e).tiles = s.tiles := by
  cases host
  · exact tiles_objSetN ..
  · rfl

theorem objN_setUpdResult {sub : Nat} (e : Status) (h : sub ≠ 6) : objN (setUpdResult s host e) (updIdx host) sub = objN s (updIdx host) sub := by
  cases host
  · exact objN_objSetN_ne s e (by rw [updIdx, if_neg Bool.false_ne_true]; omega)
  · rfl

/-- A manifest has been stored: the update is open, at position 0. -/
def manifestStored (m : List Byte) : State := objSetN (setUpd (setSlot s host { manifest := m, image := [] }) host 1) (updIdx host) 3 0

theorem doManifest_good {m : List Byte} (h : manifestCheck s host m = 0) : doManifest s host m = setUpdResult (manifestStored s host m) host 0 := by
  rw [doManifest, if_neg (not_not.2 h)]
  rfl

theorem updState_manifestStored (m : List Byte) : updState (manifestStored s host m) host = 1 := by
  rw [updState, manifestStored, objN_objSetN_ne _ _ (by omega), setUpd]
  exact objN_objSetN_lt (by rw [(updObj_bytes _ host).1]; decide)

theorem position_manifestStored (m : List Byte) : objN (manifestStored s host m) (updIdx host) 3 = 0 := by
  rw [manifestStored]
  exact objN_objSetN_lt (by rw [(updObj_bytes _ host).2.1]; decide)

/-- What a manifest that passes leaves. -/
theorem doManifest_done {m : List Byte} (h : manifestCheck s host m = 0) : ∃ u, doManifest s host m = u ∧ updState u host = 1 ∧
    slotOf u host = { manifest := m, image := [] } ∧ objN u (updIdx host) 3 = 0 ∧ slotOf u (!host) = slotOf s (!host) ∧
    (host = false → objN u 0x0220 6 = 0) ∧ u.csr = s.csr ∧ u.tiles = s.tiles := by
  refine ⟨_, doManifest_good s host h, ?_, ?_, ?_, ?_, fun hh => ?_, ?_, ?_⟩
  · rw [updState, objN_setUpdResult _ _ _ (by decide), ← updState, updState_manifestStored]
  · rw [slotOf_setUpdResult, manifestStored, slotOf_objSetN, setUpd, slotOf_objSetN, slotOf_setSlot]
  · rw [objN_setUpdResult _ _ _ (by decide), position_manifestStored]
  · rw [slotOf_setUpdResult, manifestStored, slotOf_objSetN, setUpd, slotOf_objSetN, slotOf_setSlot_other]
  · rw [setUpdResult, if_neg (by simp [hh])]
    exact objN_objSetN_lt (by rw [(updObj_bytes _ host).2.2]; decide)
  · rw [csr_setUpdResult, manifestStored, csr_objSetN, setUpd, csr_objSetN, csr_setSlot]
  · rw [tiles_setUpdResult, manifestStored, tiles_objSetN, setUpd, tiles_objSetN, tiles_setSlot]

theorem exec_manifest (m : List Byte) : exec (.manifest host m) s =
    .next (if updServed s host && (host || !s.mgmt.fetching) then doManifest s host m else s) := rfl

theorem exec_updData (d : List Byte) : exec (.updData host d) s =
    .next (if updServed s host && d.length ≤ 16384 then (doData s host d).2 else s) := rfl

theorem exec_updCommit : exec (.updCommit host) s = .next (if updServed s host then doUpdCommit s host else s) := rfl
theorem exec_updAbort : exec (.updAbort host) s = .next (if updServed s host then setUpd s host 4 else s) := rfl

variable {s host}

theorem doData_refused {d : List Byte} (h : updState s host ≠ 1 ∨ imageLen (slotOf s host).manifest < objN s (updIdx host) 3 + d.length) :
    (doData s host d).2 = s := by
  rw [doData, if_pos (by simpa using h)]

theorem doData_stored {d : List Byte} (h1 : updState s host = 1) (hfit : objN s (updIdx host) 3 + d.length ≤ imageLen (slotOf s host).manifest) :
    (doData s host d).2 = objSetN (setSlot s host { slotOf s host with image := (slotOf s host).image.take (objN s (updIdx host) 3) ++ d })
      (updIdx host) 3 (objN s (updIdx host) 3 + d.length) := by
  rw [doData, if_neg (by simpa [h1] using hfit)]

theorem doUpdCommit_good (h1 : digest1Ok (slotOf s host) = true) (h2 : host = true ∨ digest2Ok (slotOf s host) = true) :
    doUpdCommit s host = setUpdResult (objSetN s (updIdx host) 5 3) host stOk := by
  have hok : (digest1Ok (slotOf s host) && (host || digest2Ok (slotOf s host))) = true := by simpa [h1] using h2
  rw [doUpdCommit, hok, if_pos rfl, if_pos rfl, setUpd]

theorem doUpdCommit_bad (h : digest1Ok (slotOf s host) = false ∨ (host = false ∧ digest2Ok (slotOf s host) = false)) :
    doUpdCommit s host = setUpdResult (objSetN s (updIdx host) 5 4) host stAuthFail := by
  have hbad : (digest1Ok (slotOf s host) && (host || digest2Ok (slotOf s host))) = false := by
    rcases h with h | ⟨hh, h⟩
    · simp [h]
    · rw [h, hh]
      exact Bool.and_false _
  rw [doUpdCommit, hbad, if_neg Bool.false_ne_true, if_neg Bool.false_ne_true, setUpd]

end

/-! ### Owner keys (R446) -/

section
variable {s : State} {ml : Bool} {k : List Byte}

theorem exec_ownerKeyWrite : exec (.ownerKeyWrite ml k) s = .next
    (if s.pins.stbyGood && s.mgmt.segUp && (k == [] || k.length == ownerKeyLen ml) then doOwnerKey s ml k (accepted s.mgmt) else s) := rfl

/-- The key has been written, before what it does to the Owner's sessions. -/
def keyWritten (s : State) (ml : Bool) (k : List Byte) : State := objSet s 0x0212 (if ml then 2 else 1) k

/-- The objects that outlast the Owner. -/
def outlastsOwner (key : Nat) : Bool := !([0x0C10, 0x0C11, 0x0A10, 0x0C20, 0xF020] : List Nat).contains (key / 256)

/-- The state with the Owner gone. -/
def withoutOwner (s : State) : State := { s with mgmt := ownerGone s.mgmt }

theorem objGet_withoutOwner (s : State) (idx sub : Nat) : objGet (withoutOwner s) idx sub =
    if outlastsOwner (idx * 256 + sub) then objGet s idx sub else ((objInfo s.part idx sub).map (·.dflt)).getD [] :=
  objGet_filter outlastsOwner s idx sub

theorem doOwnerKey_now (h : accepted s.mgmt = 0) : doOwnerKey s ml k (accepted s.mgmt) = withoutOwner (keyWritten s ml k) := by
  rw [doOwnerKey, h]
  rfl

theorem csr_objSet (s : State) (idx sub : Nat) (b : List Byte) : (objSet s idx sub b).csr = s.csr := rfl
theorem tiles_objSet (s : State) (idx sub : Nat) (b : List Byte) : (objSet s idx sub b).tiles = s.tiles := rfl
theorem part_objSet (s : State) (idx sub : Nat) (b : List Byte) : (objSet s idx sub b).part = s.part := rfl
theorem sessions_objSet (s : State) (idx sub : Nat) (b : List Byte) : (objSet s idx sub b).mgmt.sessions = s.mgmt.sessions := rfl
theorem dgrams_objSet (s : State) (idx sub : Nat) (b : List Byte) : (objSet s idx sub b).dgrams = s.dgrams := rfl
theorem csr_withoutOwner (s : State) : (withoutOwner s).csr = s.csr := rfl
theorem tiles_withoutOwner (s : State) : (withoutOwner s).tiles = s.tiles := rfl
theorem sessions_withoutOwner (s : State) : (withoutOwner s).mgmt.sessions = s.mgmt.sessions.filter (fun x => x.level != 2) := rfl

theorem bitKeys_default (p : Part) : ((objInfo p 0x0C10 1).map (·.dflt)).getD [] = [] ∧ ((objInfo p 0x0C11 1).map (·.dflt)).getD [] = [] := by
  cases p <;> exact ⟨rfl, rfl⟩

theorem ownerKey_now (h : accepted s.mgmt = 0) : ∃ u, doOwnerKey s ml k (accepted s.mgmt) = u ∧ objGet u 0x0212 (if ml then 2 else 1) = k ∧
    u.mgmt.sessions = s.mgmt.sessions.filter (fun x => x.level != 2) ∧ u.mgmt.regionOp = none ∧
    objGet u 0x0C10 1 = [] ∧ objGet u 0x0C11 1 = [] ∧ u.csr = s.csr ∧ u.tiles = s.tiles := by
  have hkey : outlastsOwner (0x0212 * 256 + (if ml then 2 else 1)) = true := by cases ml <;> rfl
  have hed : outlastsOwner (0x0C10 * 256 + 1) ≠ true := by decide
  have hml : outlastsOwner (0x0C11 * 256 + 1) ≠ true := by decide
  refine ⟨_, doOwnerKey_now h, ?_, ?_, rfl, ?_, ?_, ?_, ?_⟩
  · rw [objGet_withoutOwner, if_pos hkey, keyWritten, objGet_objSet_same]
  · rw [sessions_withoutOwner, keyWritten, sessions_objSet]
  · rw [objGet_withoutOwner, if_neg hed, (bitKeys_default _).1]
  · rw [objGet_withoutOwner, if_neg hml, (bitKeys_default _).2]
  · rw [csr_withoutOwner, keyWritten, csr_objSet]
  · rw [tiles_withoutOwner, keyWritten, tiles_objSet]

/-- The Owner's sessions end when the requests already accepted have completed. -/
def ownerEnding (s : State) (n : Nat) : State := { s with mgmt := { s.mgmt with ownerEnds := some n } }

theorem objGet_ownerEnding (s : State) (n idx sub : Nat) : objGet (ownerEnding s n) idx sub = objGet s idx sub := rfl

theorem doOwnerKey_later (h : accepted s.mgmt ≠ 0) : doOwnerKey s ml k (accepted s.mgmt) = ownerEnding (keyWritten s ml k) (accepted s.mgmt) := by
  rw [doOwnerKey, ownerWaits, if_neg h]
  rfl

theorem ownerKey_later (h : accepted s.mgmt ≠ 0) : ∃ u, doOwnerKey s ml k (accepted s.mgmt) = u ∧ objGet u 0x0212 (if ml then 2 else 1) = k ∧
    u.mgmt.sessions = s.mgmt.sessions ∧ u.mgmt.ownerEnds = some (accepted s.mgmt) ∧ u.csr = s.csr ∧ u.tiles = s.tiles := by
  refine ⟨_, doOwnerKey_later h, ?_, ?_, rfl, ?_, ?_⟩
  · rw [objGet_ownerEnding, keyWritten, objGet_objSet_same]
  · rw [ownerEnding, keyWritten, sessions_objSet]
  · rw [ownerEnding, keyWritten, csr_objSet]
  · rw [ownerEnding, keyWritten, tiles_objSet]

end

/-! ### Nonce, report, policies (R455, R485) -/

section
variable {s : State}

theorem exec_nonce (v : List Byte) : exec (.nonce v) s = .next (if fwRuns s && v.length ≤ 32 then objSet s 0x0231 1 v else s) := rfl

/-- The report has left, and its nonce is consumed. -/
def reported (s : State) : State :=
  { objSet s 0x0231 1 [] with dgrams := (objSet s 0x0231 1 []).dgrams ++ [{ addr := 0, port := 0, data := reportBytes s }] }

theorem objGet_reported (s : State) (idx sub : Nat) : objGet (reported s) idx sub = objGet (objSet s 0x0231 1 []) idx sub := by
  rw [objGet, objGet, reported]

theorem exec_report_still (h : fwRuns s = false ∨ objGet s 0x0231 1 = []) : exec .report s = .next s := by
  change execReport s = _
  rw [execReport]
  split
  next hfw =>
    have hnone := h.resolve_left (by rw [hfw]; exact Bool.true_eq_false_eq_False)
    rw [doReport, if_pos hnone]
    exact congrArg _ (if_neg (show ¬stDictRange = stOk by decide))
  · rfl

theorem exec_report (hfw : fwRuns s = true) (h : objGet s 0x0231 1 ≠ []) : exec .report s = .next (reported s) := by
  change execReport s = _
  rw [execReport, if_pos hfw, doReport, if_neg h]
  exact congrArg _ (if_pos rfl)

theorem exec_policyApply (o : DictRef) : exec (.policyApply o) s = .next
    (if fwRuns s && s.mgmt.unapplied.contains o then
      applyPolicy { s with mgmt := { s.mgmt with unapplied := s.mgmt.unapplied.erase o } } o.index.toNat o.sub.toNat
     else s) := rfl

/-! ### Region operations (R283, R454) -/

theorem exec_regionOp {c : Instr} {n : Nat} (h : c = .regionLoad ∧ n = 1 ∨ c = .regionClear ∧ n = 2 ∨ c = .regionHalt ∧ n = 3 ∨ c = .regionResume ∧ n = 4)
    (s : State) : exec c s = regionCommand n s := by
  rcases h with ⟨rfl, rfl⟩ | ⟨rfl, rfl⟩ | ⟨rfl, rfl⟩ | ⟨rfl, rfl⟩ <;> rfl

theorem regionCommand_still {n : Nat} (h : fwRuns s = false) : regionCommand n s = .next s := by
  rw [regionCommand, if_pos (by simp [h])]

theorem regionCommand_starts {n : Nat} (h : fwRuns s = true) (hnone : s.mgmt.regionOp = none) : regionCommand n s =
    .next (regionStep (setRegionOp (objSetN s 0x0C20 6 1) (some (n, 0)))) := by
  rw [regionCommand, if_neg (by simp [h]), hnone, startRegionOp]

theorem regionCommand_runs {n k j : Nat} (h : fwRuns s = true) (hop : s.mgmt.regionOp = some (k, j)) : regionCommand n s =
    .next (if k = n then regionStep s else s) := by
  rw [regionCommand, if_neg (by simp [h]), hop]

theorem regionStep_halt {j : Nat} (h : s.mgmt.regionOp = some (3, j)) : regionStep s = endNow (doHalt s (opRegion s)) (opRegion s) := by
  rw [regionStep]
  dsimp only
  rw [h]
  rfl

theorem regionStep_resume {j : Nat} (h : s.mgmt.regionOp = some (4, j)) : regionStep s = endNow (doResume s (opRegion s)) (opRegion s) := by
  rw [regionStep]
  dsimp only
  rw [h]
  rfl

theorem regionStep_clear (h : s.mgmt.regionOp = some (2, 0)) : regionStep s = setRegionOp (doClear s (opRegion s)) (some (2, 1)) := by
  rw [regionStep]
  dsimp only
  rw [h]
  rfl

theorem regionStep_cleared (h : s.mgmt.regionOp = some (2, 1)) (hidle : regBusy s (opRegion s) = false) :
    regionStep s = endNow s (opRegion s) := by
  rw [regionStep]
  dsimp only
  rw [h]
  exact if_neg (by simp [hidle])

theorem regionStep_unsigned (h : s.mgmt.regionOp = some (1, 0)) (hbad : bitSigsOk s = false) : regionStep s = endRegionOp s stAuthFail := by
  rw [regionStep]
  dsimp only
  rw [h]
  exact if_pos (by simp [hbad])

end

/-- Settles O56: each command by its guard, a region operation by the operation that is in progress. -/
theorem updatesComplete : Obligations.UpdatesComplete := by
  intro s host
  refine ⟨fun hno m d => ⟨?_, ?_, ?_, ?_⟩, fun hserved => ⟨fun m hhost hfetch => ?_, fun m hmay => ⟨fun hbad => ?_, fun hgood => ?_⟩,
      fun d hno => ?_, fun d hlen hstate hfit => ?_, fun h1 h2 => ?_, fun hbad => ?_, ?_⟩,
    fun ml k hstby hseg hlen => ⟨fun hacc => ?_, fun hacc => ?_⟩, fun ml k hno => ?_, fun v hfw hlen => ?_, fun v hno => ?_,
    fun hfw hnonce => ?_, exec_report_still, fun o hfw hun => ?_, fun o hno => ?_,
    fun c n hc => ⟨fun hno => ?_, fun hfw hnone => ?_, fun k j hfw hop hne => ?_, fun j hfw hop => ?_⟩,
    fun j hfw hop => ?_, fun j hfw hop => ?_, fun hfw hop => ?_, fun hfw hop hidle => ?_, fun hfw hop hbad => ?_⟩
  · rw [exec_manifest, if_neg (by simp [hno])]
  · rw [exec_updData, if_neg (by simp [hno])]
  · rw [exec_updCommit, if_neg (by simp [hno])]
  · rw [exec_updAbort, if_neg (by simp [hno])]
  · rw [exec_manifest, if_neg (by simp [hhost, hfetch])]
  · rw [exec_manifest, if_pos (by rw [hserved]; rcases hmay with h | h <;> simp [h]), doManifest]
    exact congrArg _ (if_pos hbad)
  · rw [exec_manifest, if_pos (by rw [hserved]; rcases hmay with h | h <;> simp [h])]
    obtain ⟨u, hu, hdone⟩ := doManifest_done s host hgood
    exact ⟨u, congrArg _ hu, hdone⟩
  · rw [exec_updData]
    split
    next hsent =>
      rw [doData_refused (hno.resolve_left (by simp at hsent; omega))]
    · rfl
  · rw [exec_updData, if_pos (by simp [hserved, hlen]), doData_stored hstate hfit]
  · rw [exec_updCommit, if_pos hserved, doUpdCommit_good h1 h2]
  · rw [exec_updCommit, if_pos hserved, doUpdCommit_bad hbad]
  · rw [exec_updAbort, if_pos hserved, setUpd]
  · rw [exec_ownerKeyWrite, if_pos (by rcases hlen with h | h <;> simp [hstby, hseg, h])]
    obtain ⟨u, hu, hdone⟩ := ownerKey_now (ml := ml) (k := k) hacc
    exact ⟨u, congrArg _ hu, hdone⟩
  · rw [exec_ownerKeyWrite, if_pos (by rcases hlen with h | h <;> simp [hstby, hseg, h])]
    obtain ⟨u, hu, hdone⟩ := ownerKey_later (ml := ml) (k := k) hacc
    exact ⟨u, congrArg _ hu, hdone⟩
  · rw [exec_ownerKeyWrite, if_neg (by rcases hno with h | h | ⟨h, h'⟩ <;> simp_all)]
  · rw [exec_nonce, if_pos (by simp [hfw, hlen])]
  · rw [exec_nonce, if_neg (by rcases hno with h | h <;> simp_all)]
  · refine ⟨_, exec_report hfw hnonce, ?_, ?_, ?_⟩
    · rw [objGet_reported, objGet_objSet_same]
    · rw [reported, dgrams_objSet]
    · rw [reported, csr_objSet]
  · rw [exec_policyApply, if_pos (by rw [hfw, hun]; rfl)]
  · rw [exec_policyApply, if_neg (by rcases hno with h | h <;> rw [h] <;> simp)]
  · rw [exec_regionOp hc, regionCommand_still hno]
  · rw [exec_regionOp hc, regionCommand_starts hfw hnone]
  · rw [exec_regionOp hc, regionCommand_runs hfw hop, if_neg hne]
  · rw [exec_regionOp hc, regionCommand_runs hfw hop, if_pos rfl]
  · rw [exec_regionOp (.inr (.inr (.inl ⟨rfl, rfl⟩))), regionCommand_runs hfw hop, if_pos rfl, regionStep_halt hop, endNow]
  · rw [exec_regionOp (.inr (.inr (.inr ⟨rfl, rfl⟩))), regionCommand_runs hfw hop, if_pos rfl, regionStep_resume hop, endNow]
  · rw [exec_regionOp (.inr (.inl ⟨rfl, rfl⟩)), regionCommand_runs hfw hop, if_pos rfl, regionStep_clear hop]
  · rw [exec_regionOp (.inr (.inl ⟨rfl, rfl⟩)), regionCommand_runs hfw hop, if_pos rfl, regionStep_cleared hop hidle, endNow]
  · rw [exec_regionOp (.inl ⟨rfl, rfl⟩), regionCommand_runs hfw hop, if_pos rfl, regionStep_unsigned hop hbad]

end Sys2Proof.Machine
end

section
/-! SUPPORT. Currents, temperatures, references, the power cap and samples (R430, R494-R507). -/

namespace Sys2Proof.Machine
open Sys2Proof

section
variable {s : State} (hrun : running s = true)
include hrun

/-- The row of the trip table that acts on the state with HOT shown (R497). -/
def tripRow (s : State) (d amps ov : Nat) (t : Int) : State :=
  if 1200 ≤ amps && 1000 ≤ ov then thermLow (powerFail s d 6) true
  else if 1000 ≤ amps || 105 ≤ t then tripDie s d (if 1000 ≤ amps then 1 else 3)
  else if flag s (pwStat d) 60 && nowNs s d < mget 0 s.tripAt d + 10000 then s
  else
    let s := setFlag s (pwStat d) 60 false
    if limitA s d < amps || flag s (pwStat d) 59 then riseStretch s d
    else if 95 * limitA s d ≤ 100 * amps then s
    else fallStretch s d

theorem exec_currentSample (d : Fin 4) (amps ov : Nat) (t : Int) (st : List Int) : exec (.currentSample d amps ov t st) s = .next
    (tripRow (setDieHot s d (decide ((95 : Int) ≤ t)) (st.take s.part.positions)) d amps ov t) := by
  change execCurrentSample d amps ov t st s = _
  rw [execCurrentSample, whenRunning_running hrun]
  rfl

theorem exec_temperatureLimit_absent {e : Fin 9} (h : s.part.dieFitted e = false) (t : Int) : exec (.temperatureLimit e t) s = .next s := by
  change execTemperatureLimit e t s = _
  rw [execTemperatureLimit, whenRunning_running hrun, if_pos (by simp [h])]

/-- A die below 105 °C: its mark falls below 100 °C, and THERM_N rises when no die is marked (R499). -/
def coolBelow (s : State) (e : Nat) (t : Int) : State :=
  let s1 : State := if t < 100 then { s with hot := mset false s.hot e false } else s
  if s1.hot = [] ∧ s1.pins.thermHold = false then { s1 with pins := { s1.pins with thermN := true } } else s1

theorem exec_temperatureLimit {e : Fin 9} (h : s.part.dieFitted e = true) (t : Int) : exec (.temperatureLimit e t) s = .next
    (if 115 ≤ t then thermLow (powerFail s e 3) true
     else if 105 ≤ t then thermLow ((List.range 4).foldl (fun s d => tripDie s d 3) { s with hot := mset false s.hot e true }) false
     else if e.val < 4 && 95 ≤ t then
       riseStretch (if flag (coolBelow s e t) (pwStat e) 59 then setFlag (coolBelow s e t) (pwStat e) 59 true
         else powerEvent (setFlag (coolBelow s e t) (pwStat e) 59 true) e e 2) e
     else coolBelow s e t) := by
  change execTemperatureLimit e t s = _
  rw [execTemperatureLimit, whenRunning_running hrun, if_neg (by simp [h])]
  simp only [coolBelow, Bool.and_eq_true, List.isEmpty_iff, Bool.not_eq_true']

theorem exec_refclkLoss (both : Bool) : exec (.refclkLoss both) s = .next
    (if both then powerFail s 4 5 else powerEvent { s with pins := { s.pins with refSel := 1 - s.pins.refSel } } 4 4 4) :=
  whenRunning_running hrun fun s =>
    if both then powerFail s 4 5 else powerEvent { s with pins := { s.pins with refSel := 1 - s.pins.refSel } } 4 4 4

end

section
variable {s : State} {d amps ov : Nat} {t : Int}

theorem tripRow_fails (ha : 1200 ≤ amps) (ho : 1000 ≤ ov) : tripRow s d amps ov t = thermLow (powerFail s d 6) true :=
  if_pos (by simp [ha, ho])

theorem tripRow_current (ha : 1000 ≤ amps) (h : amps < 1200 ∨ ov < 1000) : tripRow s d amps ov t = tripDie s d 1 := by
  rw [tripRow, if_neg (by simp; omega), if_pos (by simp [ha]), if_pos ha]

theorem tripRow_temperature (ha : amps < 1000) (ht : 105 ≤ t) : tripRow s d amps ov t = tripDie s d 3 := by
  rw [tripRow, if_neg (by simp; omega), if_pos (by simp [ht]), if_neg (Nat.not_le.2 ha)]

theorem tripRow_held (ha : amps < 1000) (ht : t < 105) (hflag : flag s (pwStat d) 60 = true) (hnow : nowNs s d < mget 0 s.tripAt d + 10000) :
    tripRow s d amps ov t = s := by
  rw [tripRow, if_neg (by simp; omega), if_neg (by simp; omega), if_pos (by simp [hflag, hnow])]

/-- The rows below the trips: the hold has ended. -/
theorem tripRow_ended (ha : amps < 1000) (ht : t < 105) (h : flag s (pwStat d) 60 = false ∨ mget 0 s.tripAt d + 10000 ≤ nowNs s d) :
    tripRow s d amps ov t =
      (let s2 := setFlag s (pwStat d) 60 false
       if limitA s2 d < amps || flag s2 (pwStat d) 59 then riseStretch s2 d
       else if 95 * limitA s2 d ≤ 100 * amps then s2
       else fallStretch s2 d) := by
  rw [tripRow, if_neg (by simp; omega), if_neg (by simp; omega), if_neg]
  rcases h with h | h
  · simp [h]
  · simp [Nat.not_lt.2 h]

theorem riseStretch_rises (hlow : stretch s d < 7) (hnow : mget 0 s.levelAt d + 1000 ≤ nowNs s d) :
    riseStretch s d = setStretch s d (stretch s d + 1) := if_pos (by simp [hlow, hnow])

theorem riseStretch_still (h : stretch s d = 7 ∨ nowNs s d < mget 0 s.levelAt d + 1000) : riseStretch s d = s := by
  refine if_neg ?_
  rcases h with h | h
  · simp [h]
  · simp [Nat.not_le.2 h]

theorem fallStretch_falls (hpos : 0 < stretch s d) (hnow : mget 0 s.levelAt d + 10000 ≤ nowNs s d) :
    fallStretch s d = setStretch s d (stretch s d - 1) := if_pos (by simp [hpos, hnow])

theorem fallStretch_still (h : stretch s d = 0 ∨ nowNs s d < mget 0 s.levelAt d + 10000) : fallStretch s d = s := by
  refine if_neg ?_
  rcases h with h | h
  · simp [h]
  · simp [Nat.not_le.2 h]

end

/-! ### The power cap (R498) -/

/-- LIMIT_A of a die is within its bound. -/
def limitLegal (s : State) (d : Nat) : Prop := 200 ≤ limitA s d ∧ limitA s d ≤ 1000

/-- LIMIT_A of each die of a list is set. -/
def capDies (v : Nat → Nat) (l : List Nat) (s : State) : State := l.foldl (fun s d => setFld s (pwCtl d) 63 53 (200 + v d % 801)) s

theorem limitLegal_setFld {s : State} {d e : Nat} (v : Nat) (h : d = e ∨ limitLegal s d) : limitLegal (setFld s (pwCtl e) 63 53 (200 + v % 801)) d := by
  have hlt : v % 801 < 801 := Nat.mod_lt _ (by decide)
  by_cases hd : pwCtl d = pwCtl e
  · have hfit : 200 + v % 801 < 2 ^ (63 + 1 - 53) := by
      norm_num
      omega
    have hval : limitA (setFld s (pwCtl e) 63 53 (200 + v % 801)) d = 200 + v % 801 := by
      rw [limitA, hd, fld_setFld_same _ _ _ (by decide) (by decide), Nat.mod_eq_of_lt hfit]
    rw [limitLegal, hval]
    omega
  · have hold := h.resolve_left fun he => hd (he ▸ rfl)
    rw [limitLegal, limitA, fld_setFld_other _ _ _ _ _ _ hd, ← limitA]
    exact hold

theorem limitLegal_capDies (v : Nat → Nat) (d : Nat) : ∀ (l : List Nat) (s : State), d ∈ l ∨ limitLegal s d → limitLegal (capDies v l s) d
  | [], _, h => h.resolve_left List.not_mem_nil
  | e :: l, s, h => by
    rw [capDies, List.foldl_cons, ← capDies]
    refine limitLegal_capDies v d l _ ?_
    rcases h with h | h
    · rcases List.mem_cons.1 h with rfl | h
      · exact .inr (limitLegal_setFld _ (.inl rfl))
      · exact .inl h
    · exact .inr (limitLegal_setFld _ (.inr h))

theorem rd_capDies_ne (v : Nat → Nat) {b : Nat} : ∀ (l : List Nat) (s : State), (∀ e, e ∈ l → b ≠ pwCtl e) → rd (capDies v l s) b = rd s b
  | [], _, _ => rfl
  | e :: l, s, h => by
    have ih := rd_capDies_ne v l (setFld s (pwCtl e) 63 53 (200 + v e % 801)) fun x hx => h x (List.mem_cons_of_mem _ hx)
    rw [capDies, List.foldl_cons, ← capDies, ih, setFld_eq, rd_wr_ne _ _ (h e List.mem_cons_self)]

theorem tiles_capDies (v : Nat → Nat) (l : List Nat) (s : State) : (capDies v l s).tiles = s.tiles :=
  foldl_inv (fun u : State => u.tiles = s.tiles) _ (fun u e h => by rw [setFld_eq, wr_tiles]; exact h) _ _ rfl

/-- A free value has been taken for each die. -/
def capDrawn (s : State) : State := { s with freeCtr := s.freeCtr + 4 }

theorem rd_capDrawn (s : State) (a : Nat) : rd (capDrawn s) a = rd s a := rfl

theorem exec_powerCapUpdate (s : State) (n : Nat) : exec (.powerCapUpdate n) s = .next
    (if fwRuns s then capDies (fun d => (Config.free (s.freeCtr + d)).toNat) (List.range 4) (capDrawn s) else s) := rfl

/-! ### Samples (R430, R507) -/

/-- A die's temperature and power are published. -/
def dieSampled (s : State) (e t p : Nat) : State := objSetN (objSetN s 0x0E10 (e + 1) t) 0x0E11 (e + 1) p

/-- The temperatures of a die's stacks are published. -/
def stacksSampled (s : State) (e : Nat) (st : List (BitVec 32)) (n : Nat) : State :=
  (List.range n).foldl (fun t i => match st[i]? with
    | some x => objSetN t 0x0E12 (stackAt e i + 1) x.toNat
    | none => t) s

theorem stacksSampled_kept (s : State) (e : Nat) (st : List (BitVec 32)) (n : Nat) {idx sub : Nat} (h : idx * 256 + sub < 0x0E12 * 256) :
    objN (stacksSampled s e st n) idx sub = objN s idx sub ∧ (stacksSampled s e st n).tiles = s.tiles ∧
      ∀ a, rd (stacksSampled s e st n) a = rd s a := by
  refine foldl_inv (fun u => objN u idx sub = objN s idx sub ∧ u.tiles = s.tiles ∧ ∀ a, rd u a = rd s a) _ (fun u i hu => ?_) _ _
    ⟨rfl, rfl, fun _ => rfl⟩
  obtain ⟨hobj, htiles, hrd⟩ := hu
  split
  · refine ⟨?_, ?_, fun a => ?_⟩
    · rw [objN_objSetN_ne _ _ (by omega), hobj]
    · rw [tiles_objSetN, htiles]
    · rw [rd_objSetN, hrd]
  · exact ⟨hobj, htiles, hrd⟩

/-- A Basalt die's registers show its current and temperature. -/
def statSampled (s u : State) (e : Nat) (t : BitVec 32) (a : BitVec 11) : State :=
  setFld (setFld u (pwStat e) 58 48 a.toNat) (pwStat e) 47 40 (codeN 8 (wholeDegrees s t.toInt))

/-- The package power, a free value, is published last. -/
def packageSampled (s u : State) : State := objSetN { u with freeCtr := s.freeCtr + 2 } 0x0E13 1 ((Config.free (s.freeCtr + 1)).toNat % 2 ^ 32)

theorem objN_freeCtr (u : State) (n idx sub : Nat) : objN { u with freeCtr := n } idx sub = objN u idx sub := rfl
theorem rd_freeCtr (u : State) (n a : Nat) : rd { u with freeCtr := n } a = rd u a := rfl

theorem packageSampled_kept (s u : State) {idx sub : Nat} (h : idx * 256 + sub < 0x0E12 * 256) :
    objN (packageSampled s u) idx sub = objN u idx sub ∧ (packageSampled s u).tiles = u.tiles ∧ ∀ a, rd (packageSampled s u) a = rd u a := by
  refine ⟨?_, ?_, fun a => ?_⟩
  · rw [packageSampled, objN_objSetN_ne _ _ (by omega), objN_freeCtr]
  · rw [packageSampled, tiles_objSetN]
  · rw [packageSampled, rd_objSetN, rd_freeCtr]

theorem exec_telemetrySample_absent {s : State} (hrun : running s = true) {e : Fin 9} (h : s.part.dieFitted e = false) (t p : BitVec 32)
    (a : BitVec 11) (st : List (BitVec 32)) : exec (.telemetrySample e t p a st) s = .next s := by
  change execTelemetrySample e t p a st s = _
  rw [execTelemetrySample, whenRunning_running hrun, if_pos (by simp [h])]

theorem exec_telemetrySample {s : State} (hrun : running s = true) {e : Fin 9} (h : s.part.dieFitted e = true) (t p : BitVec 32)
    (a : BitVec 11) (st : List (BitVec 32)) : exec (.telemetrySample e t p a st) s = .next
      (packageSampled s (if e.val < 4 then statSampled s (stacksSampled (dieSampled s e t.toNat p.toNat) e st s.part.positions) e t a
        else dieSampled s e t.toNat p.toNat)) := by
  change execTelemetrySample e t p a st s = _
  rw [execTelemetrySample, whenRunning_running hrun, if_neg (by simp [h])]
  rfl

theorem sample_bytes {p : Part} {e : Fin 9} : p.dieFitted e = true →
    tyBytes (((objInfo p 0x0E10 (e + 1)).map (·.ty)).getD 1) = 4 ∧ tyBytes (((objInfo p 0x0E11 (e + 1)).map (·.ty)).getD 1) = 4 := by
  cases p <;> revert e <;> decide

theorem objN_statSampled (s u : State) (e : Nat) (t : BitVec 32) (a : BitVec 11) (idx sub : Nat) : objN (statSampled s u e t a) idx sub = objN u idx sub := by
  refine objN_congr ?_ ?_ idx sub
  · rw [statSampled, setFld_eq, wr_part, setFld_eq, wr_part]
  · rw [statSampled, setFld_eq, wr_mgmt, setFld_eq, wr_mgmt]

theorem tiles_statSampled (s u : State) (e : Nat) (t : BitVec 32) (a : BitVec 11) : (statSampled s u e t a).tiles = u.tiles := by
  rw [statSampled, setFld_eq, wr_tiles, setFld_eq, wr_tiles]

theorem rd_statSampled_ne (s u : State) {e b : Nat} (t : BitVec 32) (a : BitVec 11) (h : b ≠ pwStat e) : rd (statSampled s u e t a) b = rd u b := by
  rw [statSampled, setFld_eq, rd_wr_ne _ _ h, setFld_eq, rd_wr_ne _ _ h]

theorem current_statSampled (s u : State) (e : Nat) (t : BitVec 32) (a : BitVec 11) : fld (statSampled s u e t a) (pwStat e) 58 48 = a.toNat := by
  rw [statSampled, fld_setFld_ne _ _ _ (.inr (by decide)), fld_setFld_same _ _ _ (by decide) (by decide)]
  exact Nat.mod_eq_of_lt a.isLt

/-- What a sample of a fitted die leaves. -/
theorem sample_done {s : State} {e : Fin 9} (h : s.part.dieFitted e = true) (t p : BitVec 32) (a : BitVec 11) (st : List (BitVec 32))
    {v : State} (hv : v = if e.val < 4 then statSampled s (stacksSampled (dieSampled s e t.toNat p.toNat) e st s.part.positions) e t a
      else dieSampled s e t.toNat p.toNat) :
    objN v 0x0E10 (e + 1) = t.toNat ∧ objN v 0x0E11 (e + 1) = p.toNat ∧ v.tiles = s.tiles ∧ (e.val < 4 → fld v (pwStat e) 58 48 = a.toNat) ∧
      (∀ b, (e.val < 4 → b ≠ pwStat e) → rd v b = rd s b) := by
  obtain ⟨htemp, hpower⟩ := sample_bytes h
  have he := e.isLt
  have ht : objN (dieSampled s e t.toNat p.toNat) 0x0E10 (e + 1) = t.toNat := by
    rw [dieSampled, objN_objSetN_ne _ _ (by omega), objN_objSetN_lt (by rw [htemp]; exact t.isLt)]
  have hp : objN (dieSampled s e t.toNat p.toNat) 0x0E11 (e + 1) = p.toNat := by
    rw [dieSampled, objN_objSetN_lt (by rw [part_objSetN, hpower]; exact p.isLt)]
  have htiles : (dieSampled s e t.toNat p.toNat).tiles = s.tiles := by rw [dieSampled, tiles_objSetN, tiles_objSetN]
  have hrd : ∀ b, rd (dieSampled s e t.toNat p.toNat) b = rd s b := fun b => by rw [dieSampled, rd_objSetN, rd_objSetN]
  split at hv
  next hbasalt =>
    obtain ⟨hst, hstt, hstr⟩ := stacksSampled_kept (dieSampled s e t.toNat p.toNat) e st s.part.positions
      (idx := 0x0E10) (sub := e + 1) (by omega)
    obtain ⟨hsp, -, -⟩ := stacksSampled_kept (dieSampled s e t.toNat p.toNat) e st s.part.positions
      (idx := 0x0E11) (sub := e + 1) (by omega)
    refine ⟨?_, ?_, ?_, fun _ => ?_, fun b hb => ?_⟩
    · rw [hv, objN_statSampled, hst, ht]
    · rw [hv, objN_statSampled, hsp, hp]
    · rw [hv, tiles_statSampled, hstt, htiles]
    · rw [hv, current_statSampled]
    · rw [hv, rd_statSampled_ne _ _ _ _ (hb hbasalt), hstr, hrd]
  next hother =>
    refine ⟨?_, ?_, ?_, fun h4 => absurd h4 hother, fun b _ => ?_⟩
    · rw [hv, ht]
    · rw [hv, hp]
    · rw [hv, htiles]
    · rw [hv, hrd]

/-- Settles O59: a current by the first row that it matches, a temperature by the limits, a sample by its die. -/
theorem powerCompletes : Obligations.PowerCompletes := by
  intro s d hrun
  refine ⟨fun amps ov t st => ⟨fun ha ho => ?_, fun ha hno => ?_, fun ha ht => ?_, fun ha ht hflag hnow => ?_, fun ha ht hended =>
      ⟨fun hover => ⟨fun hlow hnow => ?_, fun hno => ?_⟩, fun hunder hcold hnear => ?_, fun hcold hfar => ⟨fun hpos hnow => ?_, fun hno => ?_⟩⟩⟩,
    fun e t hno => exec_temperatureLimit_absent hrun hno t, fun e t hfit => ⟨fun ht => ?_, fun hlow hhigh => ?_, fun hcool =>
      ⟨fun hno => ?_, fun hwarm h4 hflag => ?_, fun hwarm h4 hflag => ?_⟩⟩, ?_, ?_, fun n hno => ?_, fun n hfw => ?_,
    fun e t p a st hno => exec_telemetrySample_absent hrun hno t p a st, fun e t p a st hfit => ?_⟩
  · rw [exec_currentSample hrun, tripRow_fails ha ho]
  · rw [exec_currentSample hrun, tripRow_current ha hno]
  · rw [exec_currentSample hrun, tripRow_temperature ha ht]
  · rw [exec_currentSample hrun, tripRow_held ha ht hflag hnow]
  · rw [exec_currentSample hrun, tripRow_ended ha ht hended]
    exact congrArg _ ((if_pos (by simpa using hover)).trans (riseStretch_rises hlow hnow))
  · rw [exec_currentSample hrun, tripRow_ended ha ht hended]
    exact congrArg _ ((if_pos (by simpa using hover)).trans (riseStretch_still hno))
  · rw [exec_currentSample hrun, tripRow_ended ha ht hended]
    exact congrArg _ ((if_neg (by simpa [hcold] using hunder)).trans (if_pos hnear))
  · rw [exec_currentSample hrun, tripRow_ended ha ht hended]
    refine congrArg _ ((if_neg ?_).trans ((if_neg (Nat.not_le.2 hfar)).trans (fallStretch_falls hpos hnow)))
    simp [hcold]
    omega
  · rw [exec_currentSample hrun, tripRow_ended ha ht hended]
    refine congrArg _ ((if_neg ?_).trans ((if_neg (Nat.not_le.2 hfar)).trans (fallStretch_still hno)))
    simp [hcold]
    omega
  · rw [exec_temperatureLimit hrun hfit, if_pos ht]
  · rw [exec_temperatureLimit hrun hfit, if_neg (by omega), if_pos hlow]
  · rw [exec_temperatureLimit hrun hfit, if_neg (by omega), if_neg (by omega), if_neg (by simp; omega)]
    rfl
  · rw [exec_temperatureLimit hrun hfit, if_neg (by omega), if_neg (by omega), if_pos (by simp [h4, hwarm])]
    exact congrArg _ (congrArg (riseStretch · e) (if_pos hflag))
  · rw [exec_temperatureLimit hrun hfit, if_neg (by omega), if_neg (by omega), if_pos (by simp [h4, hwarm])]
    exact congrArg _ (congrArg (riseStretch · e) (if_neg (by rw [show flag (coolBelow s e t) (pwStat e) 59 = false from hflag]; exact Bool.false_ne_true)))
  · rw [exec_refclkLoss hrun, if_pos rfl]
  · rw [exec_refclkLoss hrun, if_neg Bool.false_ne_true]
  · rw [exec_powerCapUpdate, if_neg (by simp [hno])]
  · rw [exec_powerCapUpdate, if_pos hfw]
    obtain ⟨hlow, hhigh⟩ := limitLegal_capDies (fun d => (Config.free (s.freeCtr + d)).toNat) d.val (List.range 4) (capDrawn s)
      (.inl (List.mem_range.2 d.isLt))
    refine ⟨_, rfl, hlow, hhigh, ?_, fun b hb => ?_⟩
    · rw [tiles_capDies, capDrawn]
    · rw [rd_capDies_ne _ _ _ fun e he => hb ⟨e, List.mem_range.1 he⟩, rd_capDrawn]
  · obtain ⟨ht, hp, htiles, hcur, hrd⟩ := sample_done hfit t p a st rfl
    have he := e.isLt
    rw [exec_telemetrySample hrun hfit]
    generalize (if e.val < 4 then statSampled s (stacksSampled (dieSampled s e t.toNat p.toNat) e st s.part.positions) e t a
      else dieSampled s e t.toNat p.toNat) = v at *
    obtain ⟨hkt, htl, hreg⟩ := packageSampled_kept s v (idx := 0x0E10) (sub := e + 1) (by omega)
    obtain ⟨hkp, -, -⟩ := packageSampled_kept s v (idx := 0x0E11) (sub := e + 1) (by omega)
    refine ⟨_, rfl, hkt.trans ht, hkp.trans hp, htl.trans htiles, fun h4 => ?_, fun b hb => (hreg b).trans (hrd b hb)⟩
    rw [fld, hreg, ← fld, hcur h4]

end Sys2Proof.Machine
end

section
/-! SUPPORT. Requests to the dictionary: their queue, the flash write that holds it, bare reads and writes, policies (R442-R455). -/

namespace Sys2Proof.Machine
open Sys2Proof

/-! ### The queue (R449-R451) -/

section
variable {s : State}

theorem serveQueue_busy (h : s.mgmt.flashBusy = true) : ∀ n, serveQueue n s = s
  | 0 => rfl
  | _ + 1 => if_pos h

theorem serveQueue_empty (h : s.mgmt.queue = []) : ∀ n, serveQueue n s = s
  | 0 => rfl
  | _ + 1 => by
    rw [serveQueue]
    split
    · rfl
    · rw [h]

/-- The session's count of messages has advanced, when the request came in one. -/
def counted (s : State) : DictVia → State
  | .session n => modSession s n fun x => { x with rx := x.rx + 1, lastResp := [] }
  | _ => s

theorem counted_flashBusy (v : DictVia) : (counted s v).mgmt.flashBusy = s.mgmt.flashBusy := by
  cases v <;> rfl

theorem request_refused {v : DictVia} (m : Nat) {es : List (DictRef × List Byte)} (h : viaUp s v = false ∨ es.length = 0 ∨ 64 < es.length) :
    request s v m es = s := by
  refine if_neg ?_
  rcases h with h | h | h
  · simp [h]
  · simp [h]
  · simp [Nat.not_le.2 h]

theorem request_submitted {v : DictVia} (m : Nat) {es : List (DictRef × List Byte)} (hup : viaUp s v = true) (h1 : 1 ≤ es.length)
    (h64 : es.length ≤ 64) : request s v m es = submit (counted s v) { via := v, mtype := m, es } := by
  cases v <;> exact if_pos (by simp [hup, h1, h64])

theorem submit_busy (q : MgmtReq) (h : s.mgmt.flashBusy = true) : submit s q = { s with mgmt := { s.mgmt with queue := s.mgmt.queue ++ [q] } } := by
  rw [submit]
  exact serveQueue_busy (s := { s with mgmt := { s.mgmt with queue := s.mgmt.queue ++ [q] } }) h _

/-- An idle device serves a request at once. -/
theorem submit_idle (q : MgmtReq) (hflash : s.mgmt.flashBusy = false) (hqueue : s.mgmt.queue = []) : submit s q = serveReq s q := by
  have hlen : (s.mgmt.queue ++ [q]).length = 1 := by rw [hqueue]; rfl
  have hback : ({ s with mgmt := { s.mgmt with queue := [] } } : State) = s := by rw [← hqueue]
  rw [submit]
  dsimp only
  rw [hlen, serveQueue]
  dsimp only
  rw [if_neg (by rw [hflash]; exact Bool.false_ne_true), hqueue]
  dsimp only [List.nil_append]
  rw [serveQueue, hback]

/-! ### Bare requests (R444, R447) -/

/-- A bare request reads only what needs no session. -/
theorem screen_bare {idx sub want : Nat} (h : ¬(identityRange idx && want == 1) = true) : screen s .bare idx sub want = stDictSession := by
  rw [screen, if_pos]
  refine ⟨rfl, ?_⟩
  rw [beq_self_eq_true, Bool.true_and, Bool.eq_false_iff.2 h]
  rfl

/-- A bare read changes nothing. -/
theorem readEntry_bare (o : DictRef) : (readEntry s .bare o).2.2 = s := by
  rw [readEntry]
  dsimp only
  by_cases hid : identityRange o.index.toNat = true
  · have hlow : o.index.toNat ≤ 0x01FF := by
      simp only [identityRange, Bool.and_eq_true, decide_eq_true_eq] at hid
      exact hid.2
    split
    · rfl
    split
    · rfl
    split
    · rfl
    rw [if_neg (by omega), if_neg (by omega)]
  · rw [screen_bare (by simp [hid]), if_pos (by decide)]

theorem requestDone_none (h : s.mgmt.ownerEnds = none) : requestDone s = s := by
  rw [requestDone, h]

theorem serveReq_read (o : DictRef) (hends : s.mgmt.ownerEnds = none) : serveReq s { via := .bare, mtype := 1, es := [(o, [])] } =
    sendBare s 0 0 0x81 0 ([1, 0] ++ respEntry o (readEntry s .bare o).1 (readEntry s .bare o).2.1) := by
  have hread : readAll .bare [o] false s = (respEntry o (readEntry s .bare o).1 (readEntry s .bare o).2.1, s) := by
    rw [readAll, if_neg Bool.false_ne_true]
    dsimp only [readAll]
    rw [readEntry_bare, List.append_nil]
  have hrefs : [(o, ([] : List Byte))].map (·.1) = [o] := rfl
  rw [serveReq, if_pos rfl]
  dsimp only
  rw [hrefs, hread, respond]
  exact requestDone_none hends

theorem writeEntry_bare (o : DictRef) (v : List Byte) : writeEntry s .bare o v = (stDictSession, s, false) := by
  rw [writeEntry]
  dsimp only
  rw [screen_bare (by simp)]
  exact if_pos (by decide)

/-! ### Policies (R455) -/

theorem applyWrite_policy (o : DictRef) (v : List Byte) (hlow : 0x1000 ≤ o.index.toNat) (hhigh : o.index.toNat ≤ 0x1FFF) :
    applyWrite s o v = (stOk, noteUnapplied (objSet s o.index.toNat o.sub.toNat v) o) := by
  rw [applyWrite]
  dsimp only
  rw [if_neg (by omega), if_neg (by omega), if_neg (by omega), if_neg (by omega), if_neg (by omega), if_neg (by omega), if_neg (by omega),
    if_neg (by omega), if_neg (by omega), if_pos ⟨hlow, hhigh⟩]

theorem mem_noteUnapplied (o : DictRef) : o ∈ (noteUnapplied s o).mgmt.unapplied := by
  rw [noteUnapplied]
  dsimp only
  split
  next h => exact List.contains_iff_mem.1 h
  · exact List.mem_append_right _ (List.mem_singleton.2 rfl)

theorem objGet_noteUnapplied (o : DictRef) (idx sub : Nat) : objGet (noteUnapplied s o) idx sub = objGet s idx sub := rfl
theorem csr_noteUnapplied (o : DictRef) : (noteUnapplied s o).csr = s.csr := rfl

/-- A policy value of its type and range, by a session of its level. -/
theorem writeEntry_policy {o : DictRef} {v : List Byte} {n : Nat} {i : ObjInfo} (hscreen : screen s (.session n) o.index.toNat o.sub.toNat 3 = 0)
    (hrow : rowOf s.part o.index.toNat o.sub.toNat = some i) (htype : typeOk i o.index.toNat v = true)
    (hrange : rangeOk i o.index.toNat o.sub.toNat v = true) (hbusy : objBusy s o.index.toNat o.sub.toNat = false)
    (habsent : objAbsent s.part o.index.toNat o.sub.toNat = false) (hlow : 0x1000 ≤ o.index.toNat) (hhigh : o.index.toNat ≤ 0x1FFF) :
    ∃ f, writeEntry s (.session n) o v = (stOk, noteUnapplied (objSet s o.index.toNat o.sub.toNat v) o, f) := by
  rw [writeEntry]
  dsimp only
  rw [if_neg (not_not.2 hscreen), hrow]
  dsimp only
  rw [if_neg (by simp [htype]), if_neg (by simp [hrange]), if_neg (by simp [hbusy]), if_neg (by simp [habsent]), applyWrite_policy o v hlow hhigh]
  exact ⟨_, rfl⟩

/-! ### The end of a flash write (R451) -/

theorem exec_flashWriteDone_still (h : s.mgmt.flashBusy = false ∨ s.pins.stbyGood = false) : exec .flashWriteDone s = .next s := by
  change execFlashWriteDone s = _
  rw [execFlashWriteDone, if_neg]
  rcases h with h | h <;> simp [h]

/-- The flash write is done, and no reply is held back. -/
def flashDone (s : State) : State := { s with mgmt := { s.mgmt with flashBusy := false, heldReply := none } }

theorem exec_flashWriteDone_none (hflash : s.mgmt.flashBusy = true) (hpower : s.pins.stbyGood = true) (h : s.mgmt.heldReply = none) :
    exec .flashWriteDone s = .next (serveQueue (flashDone s).mgmt.queue.length (flashDone s)) := by
  change execFlashWriteDone s = _
  rw [execFlashWriteDone, if_pos (by simp [hflash, hpower])]
  dsimp only
  rw [h]
  rfl

theorem exec_flashWriteDone_held (hflash : s.mgmt.flashBusy = true) (hpower : s.pins.stbyGood = true) {q : MgmtReq} {pay : List Byte}
    (h : s.mgmt.heldReply = some (q, pay)) : exec .flashWriteDone s =
      .next (serveQueue (respond (flashDone s) q pay).mgmt.queue.length (respond (flashDone s) q pay)) := by
  change execFlashWriteDone s = _
  rw [execFlashWriteDone, if_pos (by simp [hflash, hpower])]
  dsimp only
  rw [h]
  rfl

end

/-- Settles O57: a request by the way it comes and its entries, the end of a flash write by the reply held back, an entry by its screen. -/
theorem dictionaryCompletes : Obligations.DictionaryCompletes := by
  refine ⟨?_, fun s o hup hflash hqueue hends => ?_, fun s => ⟨fun hflash hpower => ⟨fun hqueue hnone => ?_,
    fun q pay hheld => ?_⟩, exec_flashWriteDone_still⟩, fun s o v => ⟨writeEntry_bare o v, fun n i hscreen hrow htype hrange hbusy habsent hlow hhigh => ?_⟩⟩
  · intro s v es ws t
    have ht : t = counted s v := by cases v <;> rfl
    refine ⟨fun hno => ?_, fun hno => ?_, fun hup h1 h64 => ?_, fun hup h1 h64 => ?_, fun hup hflash h1 h64 => ?_⟩
    · have hno' : viaUp s v = false ∨ (es.map fun o => (o, ([] : List Byte))).length = 0 ∨ 64 < (es.map fun o => (o, ([] : List Byte))).length := by
        rwa [List.length_map]
      exact ⟨congrArg _ (request_refused 1 hno'), congrArg _ (request_refused 3 hno')⟩
    · exact congrArg _ (request_refused 2 hno)
    · have h1' : 1 ≤ (es.map fun o => (o, ([] : List Byte))).length := by rwa [List.length_map]
      have h64' : (es.map fun o => (o, ([] : List Byte))).length ≤ 64 := by rwa [List.length_map]
      rw [ht]
      exact ⟨congrArg _ (request_submitted 1 hup h1' h64'), congrArg _ (request_submitted 3 hup h1' h64')⟩
    · rw [ht]
      exact congrArg _ (request_submitted 2 hup h1 h64)
    · rw [ht]
      exact congrArg _ ((request_submitted 2 hup h1 h64).trans (submit_busy _ ((counted_flashBusy v).trans hflash)))
  · have hsubmit : request s .bare 1 [(o, [])] = submit (counted s .bare) { via := .bare, mtype := 1, es := [(o, [])] } :=
      request_submitted 1 hup (Nat.le_refl 1) (show 1 ≤ 64 by decide)
    exact congrArg _ (hsubmit.trans ((submit_idle _ hflash hqueue).trans (serveReq_read o hends)))
  · rw [exec_flashWriteDone_none hflash hpower hnone]
    exact congrArg _ (serveQueue_empty (s := flashDone s) hqueue _)
  · exact exec_flashWriteDone_held hflash hpower hheld
  · obtain ⟨f, hwrite⟩ := writeEntry_policy hscreen hrow htype hrange hbusy habsent hlow hhigh
    exact ⟨_, f, hwrite, (objGet_noteUnapplied ..).trans (objGet_objSet_same ..), mem_noteUnapplied o, (csr_noteUnapplied o).trans (csr_objSet ..)⟩

end Sys2Proof.Machine
end

section
/-! SUPPORT. Sessions, their event feeds, fragments, and the mailbox (R456-R463). -/

namespace Sys2Proof.Machine
open Sys2Proof

/-! ### Messages in fragments (R457) -/

theorem message_single (key : Option (List Byte)) (ty sess ctr : Nat) {pay : List Byte} (h : pay.length ≤ 1200) :
    message key ty sess ctr pay = [makeFrag key ty sess ctr 0 1 pay] := by
  have hn : max 1 (cdiv pay.length 1200) = 1 := by
    rw [cdiv]
    omega
  rw [message, hn, if_neg (by decide), List.range_one, List.map_singleton, Nat.mul_zero, List.drop_zero, List.take_of_length_le h]

theorem length_message (key : Option (List Byte)) (ty sess ctr : Nat) {pay : List Byte} (h : max 1 (cdiv pay.length 1200) ≤ 16) :
    (message key ty sess ctr pay).length = max 1 (cdiv pay.length 1200) := by
  rw [message, if_neg (Nat.not_lt.2 h), List.length_map, List.length_range]

theorem sendBare_single (s : State) (a : BitVec 128) (p : BitVec 16) (ty sess : Nat) {pay : List Byte} (h : pay.length ≤ 1200) :
    sendBare s a p ty sess pay = { s with dgrams := s.dgrams ++ [{ addr := a, port := p, data := makeFrag none ty sess 0 0 1 pay }] } := by
  rw [sendBare, message_single none ty sess 0 h]
  rfl

/-! ### Opening and proving (R459) -/

section
variable {s : State}

theorem exec_sessionOpen (a : BitVec 128) (p : BitVec 16) (l : BitVec 8) (x k z : List Byte) :
    exec (.sessionOpen a p l x k z) s = .next (if segServed s then doOpen s a p l x k z else s) := rfl

theorem doOpen_malformed {a : BitVec 128} {p : BitVec 16} {l : Byte} {x k z : List Byte} (h : x.length ≠ 32 ∨ k.length ≠ 1184 ∨ z.length ≠ 32) :
    doOpen s a p l x k z = s := if_pos (by rcases h with h | h | h <;> simp [h])

theorem doOpen_full {a : BitVec 128} {p : BitVec 16} {l : Byte} {x k z : List Byte} (hfull : 8 ≤ openCount s) (hx : x.length = 32)
    (hk : k.length = 1184) (hz : z.length = 32) : doOpen s a p l x k z =
      { s with dgrams := s.dgrams ++ [{ addr := a, port := p, data := makeFrag none 0x92 0 0 0 1 (leBytes 1 stDictBusy) }] } := by
  rw [doOpen, if_neg (by simp [hx, hk, hz]), if_pos hfull]
  exact sendBare_single s a p 0x92 0 (by rw [leBytes_length]; decide)

/-- The payload of a CHALLENGE: number, key shares, nonce and both signatures. -/
def challenge (n : Nat) (k tr : List Byte) : List Byte :=
  leBytes 4 n ++ leBytes 32 (Config.x25519Pub n).toNat ++ leBytes 1088 (Config.kemCipher n k).toNat ++ leBytes 32 (Config.nonce n).toNat
    ++ leBytes 64 (Config.edSign tr).toNat ++ leBytes 3309 (Config.mlSign tr).toNat

theorem length_challenge (n : Nat) (k tr : List Byte) : (challenge n k tr).length = 4529 := by
  simp only [challenge, List.length_append, leBytes_length]

/-- The transcript that both signatures of a CHALLENGE cover. -/
def openTranscript (n : Nat) (l : Byte) (x k z : List Byte) : List Byte :=
  sha ([l, 0, 0, 0] ++ x ++ k ++ z ++ (leBytes 4 n ++ leBytes 32 (Config.x25519Pub n).toNat ++ leBytes 1088 (Config.kemCipher n k).toNat
    ++ leBytes 32 (Config.nonce n).toNat))

/-- A session that waits for its PROVE. -/
def pendingSession (n : Nat) (a : BitVec 128) (p : BitVec 16) (l : Byte) (x k z : List Byte) : Session :=
  { id := n, level := l.toNat, opened := false, addr := a, port := p, transcript := openTranscript n l x k z,
    key := sha (leBytes 32 (Config.x25519 n x).toNat ++ leBytes 32 (Config.kemSecret n k).toNat ++ openTranscript n l x k z) }

theorem doOpen_challenges {a : BitVec 128} {p : BitVec 16} {l : Byte} {x k z : List Byte} (hroom : openCount s < 8) (hx : x.length = 32)
    (hk : k.length = 1184) (hz : z.length = 32) : doOpen s a p l x k z = sendBare
      { s with
        mgmt := { s.mgmt with
                  sessions := s.mgmt.sessions ++ [pendingSession s.mgmt.nextSess a p l x k z]
                  nextSess := s.mgmt.nextSess % (2 ^ 32 - 1) + 1 } } a p 0x11 0
      (challenge s.mgmt.nextSess k (openTranscript s.mgmt.nextSess l x k z)) := by
  rw [doOpen, if_neg (by simp [hx, hk, hz]), if_neg (Nat.not_le.2 hroom)]
  rfl

theorem exec_prove (n : Nat) (ed ml : List Byte) (late : Bool) : exec (.prove n ed ml late) s =
    .next (if segServed s then doProve s n ed ml late else s) := rfl

theorem doProve_unknown {n : Nat} (h : findSession s n = none) (ed ml : List Byte) (late : Bool) : doProve s n ed ml late = s := by
  rw [doProve, h]

theorem doProve_opened {n : Nat} {x : Session} (h : findSession s n = some x) (hopen : x.opened = true) (ed ml : List Byte) (late : Bool) :
    doProve s n ed ml late = s := by
  rw [doProve, h]
  exact if_pos hopen

theorem doProve_closed {n : Nat} {x : Session} (h : findSession s n = some x) (hopen : x.opened = false) (ed ml : List Byte) (late : Bool) :
    doProve s n ed ml late = sendBare (if proveStatus s x ed ml late = 0 then modSession s n (fun y => { y with opened := true, frags := none })
      else endSession s n) x.addr x.port 0x92 n (leBytes 1 (proveStatus s x ed ml late)) := by
  rw [doProve, h]
  exact if_neg (by simp [hopen])

/-! ### Closing, subscribing and events (R459, R461) -/

theorem exec_sessionClose (n : Nat) : exec (.sessionClose n) s = .next (if segServed s then doClose s n else s) := rfl
theorem exec_subscribe (n : Nat) : exec (.subscribe n) s = .next (if segServed s then doSubscribe s n else s) := rfl
theorem exec_eventAck (n : Nat) (lsn : BitVec 64) : exec (.eventAck n lsn) s = .next (if segServed s then doEventAck s n lsn.toNat else s) := rfl

theorem doClose_none {n : Nat} (h : openSession s n = none) : doClose s n = s := if_neg (by simp [h])
theorem doSubscribe_none {n : Nat} (h : openSession s n = none) : doSubscribe s n = s := if_neg (by simp [h])

theorem findSession_of_open {n : Nat} {x : Session} (h : openSession s n = some x) : findSession s n = some x :=
  (Option.filter_eq_some_iff.1 h).1

theorem doClose_some {n : Nat} {x : Session} (h : openSession s n = some x) : doClose s n = endSession
    (sendFrags (modSession s n fun y => { y with tx := y.tx + 1 }) x.addr x.port (message (some x.key) 0x94 n (x.tx + 1) [])) n := by
  rw [doClose, if_pos (by rw [h]; rfl), sendIn, findSession_of_open h]
  rfl

theorem doSubscribe_some {n : Nat} {x : Session} (h : openSession s n = some x) : doSubscribe s n = modSession s n fun y =>
    { y with feed := true, feedNext := (rd s logNewAt).toNat + 1, unacked := none, resends := 0 } := if_pos (by rw [h]; rfl)

theorem doEventAck_none {n : Nat} (h : (openSession s n).bind (·.unacked) = none) (lsn : Nat) : doEventAck s n lsn = s := by
  rw [doEventAck, h]

theorem doEventAck_some {n m : Nat} {f : List Byte} (h : (openSession s n).bind (·.unacked) = some (m, f)) (lsn : Nat) :
    doEventAck s n lsn = if m ≤ lsn then feedOn s n m else s := by
  rw [doEventAck, h]

theorem exec_eventResend_unserved (h : segServed s = false) (n : Nat) : exec (.eventResend n) s = .next s := by
  change execEventResend n s = _
  rw [execEventResend, if_pos (by simp [h])]

theorem exec_eventResend_none (h : segServed s = true) {n : Nat} (hnone : (openSession s n).bind (·.unacked) = none) :
    exec (.eventResend n) s = .next s := by
  change execEventResend n s = _
  rw [execEventResend, if_neg (by simp [h])]
  cases hopen : openSession s n with
  | none => rfl
  | some x =>
    rw [hopen, Option.bind_some] at hnone
    dsimp only
    rw [hnone]

theorem exec_eventResend_some (h : segServed s = true) {n m : Nat} {x : Session} {f : List Byte} (hopen : openSession s n = some x)
    (hun : x.unacked = some (m, f)) : exec (.eventResend n) s = .next
      (if x.resends < 20 then sendFrags (modSession s n fun y => { y with resends := y.resends + 1 }) x.addr x.port [f] else feedOn s n m) := by
  change execEventResend n s = _
  rw [execEventResend, if_neg (by simp [h]), hopen]
  dsimp only
  rw [hun]

/-! ### Fragments that arrive (R457, R460) -/

variable {dg : List Byte}

theorem exec_thaunoFragment_discarded (h : segServed s = false ∨ headerOk dg = false) (a : BitVec 128) (p : BitVec 16) :
    exec (.thaunoFragment a p dg) s = .next s := by
  change execThaunoFragment a p dg s = _
  rw [execThaunoFragment, if_pos (by rcases h with h | h <;> simp [h])]

theorem exec_thaunoFragment_bare (hup : segServed s = true) (hhead : headerOk dg = true) (hsess : mfield dg 4 4 = 0) (a : BitVec 128)
    (p : BitVec 16) : exec (.thaunoFragment a p dg) s = .next (bareFragment s a p dg) := by
  change execThaunoFragment a p dg s = _
  rw [execThaunoFragment, if_neg (by simp [hup, hhead]), if_pos hsess]

theorem exec_thaunoFragment_unknown (hup : segServed s = true) (hhead : headerOk dg = true) {n : Nat} (hsess : mfield dg 4 4 = n) (hn : n ≠ 0)
    (hfind : findSession s n = none) (a : BitVec 128) (p : BitVec 16) : exec (.thaunoFragment a p dg) s = .next s := by
  change execThaunoFragment a p dg s = _
  rw [execThaunoFragment, if_neg (by simp [hup, hhead]), hsess, if_neg hn, hfind]

theorem exec_thaunoFragment_session (hup : segServed s = true) (hhead : headerOk dg = true) {n : Nat} (hsess : mfield dg 4 4 = n) (hn : n ≠ 0)
    {x : Session} (hfind : findSession s n = some x) (a : BitVec 128) (p : BitVec 16) :
    exec (.thaunoFragment a p dg) s = .next (sessionFragment s x dg) := by
  change execThaunoFragment a p dg s = _
  rw [execThaunoFragment, if_neg (by simp [hup, hhead]), hsess, if_neg hn, hfind]

/-- The fragment with its TAG set to zero. -/
def untagged (dg : List Byte) : List Byte := dg.take 16 ++ leBytes 16 0 ++ dg.drop 32
/-- The message in reassembly with the fragment. -/
def joined (x : Session) (dg : List Byte) : FragSet :=
  addFrag x.frags (mfield dg 3 1) (mfield dg 8 4) (mfield dg 13 1) (mfield dg 12 1) (dg.drop 32)

variable {x : Session}

theorem sessionFragment_badTag (hopen : x.opened = true) (htag : fragTag x.key (untagged dg) ≠ mpart dg 16 16) : sessionFragment s x dg = s := by
  rw [sessionFragment, ← untagged]
  exact if_pos (by simp [hopen, htag])

/-- A fragment whose TAG holds, or that needs none. -/
theorem sessionFragment_taken (h : x.opened = false ∨ fragTag x.key (untagged dg) = mpart dg 16 16) :
    ¬(x.opened && fragTag x.key (untagged dg) != mpart dg 16 16) = true := by
  rcases h with h | h <;> simp [h]

theorem sessionFragment_kept (h : x.opened = false ∨ fragTag x.key (untagged dg) = mpart dg 16 16) (hw : whole (joined x dg) = none) :
    sessionFragment s x dg = modSession s x.id fun y => { y with frags := some (joined x dg) } := by
  rw [sessionFragment]
  dsimp only
  rw [← untagged, ← joined, if_neg (sessionFragment_taken h), hw]

theorem sessionFragment_whole (h : x.opened = false ∨ fragTag x.key (untagged dg) = mpart dg 16 16) {d : List Byte}
    (hw : whole (joined x dg) = some d) : sessionFragment s x dg =
      (let s1 := modSession s x.id fun y => { y with frags := none }
       if x.opened then sessionMessage s1 x (joined x dg).mtype (joined x dg).ctr d else handshakeMessage s1 x (joined x dg).mtype d) := by
  rw [sessionFragment]
  dsimp only
  rw [← untagged, ← joined, if_neg (sessionFragment_taken h), hw]

theorem exec_neighborSolicitation (t a : BitVec 128) : exec (.neighborSolicitation t a) s = .next
    (if segServed s && addrBytes t == linkLocal then
      { s with dgrams := s.dgrams ++ [{ addr := a, port := 0, data := linkLocal ++ leBytes 6 Config.mac.toNat }] } else s) := rfl

theorem exec_reassemblyTimeout (n : Nat) : exec (.reassemblyTimeout n) s = .next
    (if n = 0 then { s with mgmt := { s.mgmt with frags0 := [] } } else modSession s n fun x => { x with frags := none }) := rfl

end

/-! ### The mailbox (R462, R463) -/

section
variable {s : State} (hrun : running s = true)
include hrun

theorem exec_mgmt_still {p : Packet} (h : p.op ≠ 0x60 ∨ p.dest ≠ nodeOf 4 3 ∨ arrived s p = false) : exec (.mgmt p) s = .next s := by
  change execMgmt p s = _
  rw [execMgmt, whenRunning_running hrun]
  dsimp only
  refine congrArg _ (if_neg fun hc => ?_)
  simp only [Bool.and_eq_true, decide_eq_true_eq, beq_iff_eq] at hc
  obtain ⟨⟨hop, hdest⟩, harr⟩ := hc
  rcases h with h | h | h
  · exact h hop
  · exact h hdest
  · exact absurd harr (ne_true_of_eq_false h)

/-- The packet belongs to the message that S0 is receiving from its channel. -/
def currentPacket (s : State) (p : Packet) (c : Fin 2) : Bool :=
  p.src == mbNode c && (getTag s p.src.toNat p.tag.toNat).use == some (.mailbox c) && (getTag s p.src.toNat p.tag.toNat).gen == p.gen

/-- The channel of the core that a packet comes from. -/
def channelOf (p : Packet) : Fin 2 := if nodeEp p.src = 3 then 0 else 1

theorem exec_mgmt_none {p : Packet} (hop : p.op = 0x60) (hdest : p.dest = nodeOf 4 3) (harr : arrived s p = true)
    (h : mfind s.mgmt.mbox (channelOf p) = none ∨ currentPacket s p (channelOf p) = false) : exec (.mgmt p) s = .next (answer s p stOk) := by
  change execMgmt p s = _
  rw [execMgmt, whenRunning_running hrun]
  dsimp only
  rw [if_pos (by simp [hop, hdest, harr]), ← channelOf]
  cases hm : mfind s.mgmt.mbox (channelOf p) with
  | none => rfl
  | some m =>
    have hcur := h.resolve_left (by rw [hm]; exact Option.some_ne_none m)
    rw [currentPacket] at hcur
    exact congrArg _ (if_neg (by rw [hcur]; exact Bool.false_ne_true))

theorem exec_mgmt_some {p : Packet} (hop : p.op = 0x60) (hdest : p.dest = nodeOf 4 3) (harr : arrived s p = true) {m : MbMsg}
    (hm : mfind s.mgmt.mbox (channelOf p) = some m) (hcur : currentPacket s p (channelOf p) = true) :
    exec (.mgmt p) s = .next (mbReceive (answer s p stOk) (channelOf p) m p) := by
  change execMgmt p s = _
  rw [execMgmt, whenRunning_running hrun]
  dsimp only
  rw [if_pos (by simp [hop, hdest, harr]), ← channelOf, hm]
  rw [currentPacket] at hcur
  exact congrArg _ (if_pos hcur)

/-- MB_CTL as written, with GO. -/
def mbWritten (s : State) (c : Fin 2) (v : Word) : State := plainWrite s .mbCtl (mbCtl c) (setBit v 63 true)
/-- The channel is busy with its request. -/
def mbBusy (s : State) (c : Fin 2) (v : Word) : State := setFlag (mbWritten s c v) (mbCtl c) 62 true

theorem exec_mbGo_busy (c : Fin 2) (v : Word) (h : flag (mbWritten s c v) (mbCtl c) 62 = true) : exec (.mbGo c v) s = .next (mbWritten s c v) := by
  change execMbGo c v s = _
  rw [execMbGo, whenRunning_running hrun, writeMbCtl]
  rw [mbWritten] at h ⊢
  dsimp only
  rw [if_pos (by simp [h])]

theorem exec_mbGo_unbuffered (c : Fin 2) (v : Word) (h : flag (mbWritten s c v) (mbCtl c) 62 = false) (hbuf : mbBuffer (mbBusy s c v) c = none) :
    exec (.mbGo c v) s = .next (mbFail (mbBusy s c v) c) := by
  have hgo : bit (setBit v 63 true) 63 = true := bit_setBit_same _ _ (by decide)
  change execMbGo c v s = _
  rw [execMbGo, whenRunning_running hrun, writeMbCtl]
  rw [mbBusy, mbWritten] at *
  dsimp only
  rw [if_neg (by simp [h, hgo]), hbuf]

theorem exec_mbGo (c : Fin 2) (v : Word) (h : flag (mbWritten s c v) (mbCtl c) 62 = false) {a : Nat} (hbuf : mbBuffer (mbBusy s c v) c = some a) :
    exec (.mbGo c v) s = .next
      (if fld (mbBusy s c v) (mbCtl c) 61 47 < 32 || 19232 < fld (mbBusy s c v) (mbCtl c) 61 47 then mbFail (mbBusy s c v) c
       else mbPump (setMbox (mbBusy s c v) c { addr := a, len := fld (mbBusy s c v) (mbCtl c) 61 47 }) c) := by
  have hgo : bit (setBit v 63 true) 63 = true := bit_setBit_same _ _ (by decide)
  change execMbGo c v s = _
  rw [execMbGo, whenRunning_running hrun, writeMbCtl]
  rw [mbBusy, mbWritten] at *
  dsimp only
  rw [if_neg (by simp [h, hgo]), hbuf]

end

/-! ### Facts the sessions' statement combines -/

section
variable {s : State}

theorem exec_sessions_unserved (h : segServed s = false) (n : Nat) (a : BitVec 128) (p : BitVec 16) (l : BitVec 8)
    (x k z ed ml dg : List Byte) (late : Bool) (lsn : BitVec 64) : exec (.sessionOpen a p l x k z) s = .next s ∧
      exec (.prove n ed ml late) s = .next s ∧ exec (.sessionClose n) s = .next s ∧ exec (.subscribe n) s = .next s ∧
      exec (.eventAck n lsn) s = .next s ∧ exec (.eventResend n) s = .next s ∧ exec (.thaunoFragment a p dg) s = .next s ∧
      exec (.neighborSolicitation a a) s = .next s := by
  have hnot : ¬segServed s = true := by simp [h]
  refine ⟨?_, ?_, ?_, ?_, ?_, exec_eventResend_unserved h n, exec_thaunoFragment_discarded (Or.inl h) a p, ?_⟩
  · rw [exec_sessionOpen, if_neg hnot]
  · rw [exec_prove, if_neg hnot]
  · rw [exec_sessionClose, if_neg hnot]
  · rw [exec_subscribe, if_neg hnot]
  · rw [exec_eventAck, if_neg hnot]
  · rw [exec_neighborSolicitation, if_neg (by simp [h])]

/-- A CHALLENGE takes four fragments. -/
theorem exec_sessionOpen_challenges (h : segServed s = true) {a : BitVec 128} {p : BitVec 16} {l : BitVec 8} {x k z : List Byte}
    (hroom : openCount s < 8) (hx : x.length = 32) (hk : k.length = 1184) (hz : z.length = 32) : ∃ u y fs,
      exec (.sessionOpen a p l x k z) s = .next u ∧ u.mgmt.sessions = s.mgmt.sessions ++ [y] ∧ y.id = s.mgmt.nextSess ∧
        y.level = l.toNat ∧ y.opened = false ∧ y.addr = a ∧ y.port = p ∧ u.mgmt.nextSess = s.mgmt.nextSess % (2 ^ 32 - 1) + 1 ∧
        u.csr = s.csr ∧ u.dgrams = s.dgrams ++ fs ∧ fs.length = 4 ∧ ∀ f ∈ fs, f.addr = a ∧ f.port = p := by
  rw [exec_sessionOpen, if_pos h, doOpen_challenges hroom hx hk hz, sendBare, sendFrags]
  refine ⟨_, pendingSession s.mgmt.nextSess a p l x k z, _, rfl, rfl, rfl, rfl, rfl, rfl, rfl, rfl, rfl, rfl, ?_, ?_⟩
  · rw [List.length_map, length_message _ _ _ _ (by rw [length_challenge]; decide), length_challenge]
    decide
  · intro f hf
    obtain ⟨_, _, rfl⟩ := List.mem_map.1 hf
    exact ⟨rfl, rfl⟩

theorem exec_prove_some (h : segServed s = true) {n : Nat} {x : Session} (hfind : findSession s n = some x) (ed ml : List Byte) (late : Bool) :
    (x.opened = true → exec (.prove n ed ml late) s = .next s) ∧
    (x.opened = false → proveStatus s x ed ml late ≠ 0 → exec (.prove n ed ml late) s = .next
      (sendBare (endSession s n) x.addr x.port 0x92 n (leBytes 1 (proveStatus s x ed ml late)))) ∧
    (x.opened = false → proveStatus s x ed ml late = 0 → exec (.prove n ed ml late) s = .next
      (sendBare (modSession s n (fun y => { y with opened := true, frags := none })) x.addr x.port 0x92 n (leBytes 1 0))) := by
  rw [exec_prove, if_pos h]
  refine ⟨fun hopen => ?_, fun hopen hbad => ?_, fun hopen hok => ?_⟩
  · rw [doProve_opened hfind hopen]
  · rw [doProve_closed hfind hopen, if_neg hbad]
  · rw [doProve_closed hfind hopen, if_pos hok, hok]

theorem exec_session_none (h : segServed s = true) {n : Nat} (hopen : openSession s n = none) :
    exec (.sessionClose n) s = .next s ∧ exec (.subscribe n) s = .next s ∧ exec (.eventResend n) s = .next s ∧
      ∀ lsn, exec (.eventAck n lsn) s = .next s := by
  have hun : (openSession s n).bind (·.unacked) = none := by rw [hopen, Option.bind_none]
  refine ⟨?_, ?_, exec_eventResend_none h hun, fun lsn => ?_⟩
  · rw [exec_sessionClose, if_pos h, doClose_none hopen]
  · rw [exec_subscribe, if_pos h, doSubscribe_none hopen]
  · rw [exec_eventAck, if_pos h, doEventAck_none hun]

/-- The feed of an open session: EVENT_ACK and EVENT_RESEND by the EVENT that is not acknowledged. -/
theorem exec_feed_some (h : segServed s = true) {n m : Nat} {x : Session} {f : List Byte} (hopen : openSession s n = some x)
    (hun : x.unacked = some (m, f)) :
    (∀ lsn, m ≤ lsn.toNat → exec (.eventAck n lsn) s = .next (feedOn s n m)) ∧
    (∀ lsn, lsn.toNat < m → exec (.eventAck n lsn) s = .next s) ∧
    (x.resends < 20 → exec (.eventResend n) s = .next
      (sendFrags (modSession s n (fun y => { y with resends := y.resends + 1 })) x.addr x.port [f])) ∧
    (20 ≤ x.resends → exec (.eventResend n) s = .next (feedOn s n m)) := by
  have hbind : (openSession s n).bind (·.unacked) = some (m, f) := by rw [hopen, Option.bind_some, hun]
  refine ⟨fun lsn hle => ?_, fun lsn hlt => ?_, fun hlt => ?_, fun hle => ?_⟩
  · rw [exec_eventAck, if_pos h, doEventAck_some hbind, if_pos hle]
  · rw [exec_eventAck, if_pos h, doEventAck_some hbind, if_neg (Nat.not_le.2 hlt)]
  · rw [exec_eventResend_some h hopen hun, if_pos hlt]
  · rw [exec_eventResend_some h hopen hun, if_neg (Nat.not_lt.2 hle)]

theorem exec_feed_acked (h : segServed s = true) {n : Nat} {x : Session} (hopen : openSession s n = some x) (hun : x.unacked = none) :
    exec (.eventResend n) s = .next s ∧ ∀ lsn, exec (.eventAck n lsn) s = .next s := by
  have hbind : (openSession s n).bind (·.unacked) = none := by rw [hopen, Option.bind_some, hun]
  refine ⟨exec_eventResend_none h hbind, fun lsn => ?_⟩
  rw [exec_eventAck, if_pos h, doEventAck_none hbind]

theorem currentPacket_iff (s : State) (p : Packet) (c : Fin 2) : currentPacket s p c = true ↔
    p.src = mbNode c ∧ (getTag s p.src.toNat p.tag.toNat).use = some (.mailbox c) ∧ (getTag s p.src.toNat p.tag.toNat).gen = p.gen := by
  rw [currentPacket, Bool.and_eq_true, Bool.and_eq_true, beq_iff_eq, beq_iff_eq, beq_iff_eq, and_assoc]

/-- The message of a channel with a packet's bytes. -/
def mbJoined (m : MbMsg) (p : Packet) : MbMsg := { m with got := m.got ++ p.data, bad := m.bad || p.poison != 0 }

theorem mbReceive_part (c : Fin 2) {m : MbMsg} {p : Packet} (h : (mbJoined m p).got.length < (mbJoined m p).len) :
    mbReceive s c m p = setMbox s c (mbJoined m p) := if_pos h

theorem mbReceive_bad (c : Fin 2) {m : MbMsg} {p : Packet} (h : (mbJoined m p).len ≤ (mbJoined m p).got.length) (hbad : (mbJoined m p).bad = true) :
    mbReceive s c m p = mbEnd (setMbox s c (mbJoined m p)) c stPoison 0 := (if_neg (Nat.not_lt.2 h)).trans (if_pos hbad)

theorem mbReceive_whole (c : Fin 2) {m : MbMsg} {p : Packet} (h : (mbJoined m p).len ≤ (mbJoined m p).got.length)
    (hbad : (mbJoined m p).bad = false) : mbReceive s c m p = mbMessage (setMbox s c (mbJoined m p)) c (mbJoined m p).got :=
  (if_neg (Nat.not_lt.2 h)).trans (if_neg (ne_true_of_eq_false hbad))

theorem exec_mbGo_fails (hrun : running s = true) {c : Fin 2} {v : Word} (h : flag (mbWritten s c v) (mbCtl c) 62 = false)
    (hbad : mbBuffer (mbBusy s c v) c = none ∨ fld (mbBusy s c v) (mbCtl c) 61 47 < 32 ∨ 19232 < fld (mbBusy s c v) (mbCtl c) 61 47) :
    exec (.mbGo c v) s = .next (mbFail (mbBusy s c v) c) := by
  cases hbuf : mbBuffer (mbBusy s c v) c with
  | none => exact exec_mbGo_unbuffered hrun c v h hbuf
  | some a =>
    have hlen := hbad.resolve_left (by rw [hbuf]; exact Option.some_ne_none a)
    rw [exec_mbGo hrun c v h hbuf, if_pos (by simpa using hlen)]

theorem exec_mbGo_sends (hrun : running s = true) {c : Fin 2} {v : Word} {a : Nat} (h : flag (mbWritten s c v) (mbCtl c) 62 = false)
    (hbuf : mbBuffer (mbBusy s c v) c = some a) (hmin : 32 ≤ fld (mbBusy s c v) (mbCtl c) 61 47)
    (hmax : fld (mbBusy s c v) (mbCtl c) 61 47 ≤ 19232) : exec (.mbGo c v) s = .next
      (mbPump (setMbox (mbBusy s c v) c { addr := a, len := fld (mbBusy s c v) (mbCtl c) 61 47 }) c) := by
  rw [exec_mbGo hrun c v h hbuf, if_neg (by simpa using ⟨hmin, hmax⟩)]

end

/-- Settles O58: a session command acts only while the segment is served, by the session's state and its EVENT in flight; a fragment is
taken by its header and TAG; a packet or a GO acts by the message of its mailbox channel. -/
theorem sessionsComplete : Obligations.SessionsComplete := by
  intro s n
  refine ⟨fun hun a p l x k z ed ml late dg lsn => exec_sessions_unserved hun n a p l x k z ed ml dg late lsn, fun hup => ?_, rfl,
    fun hn => ?_, rfl, fun hrun => ?_⟩
  · refine ⟨fun a p l x k z hbad => ?_, fun a p l x k z hfull hx hk hz => ?_,
      fun a p l x k z hroom hx hk hz => exec_sessionOpen_challenges hup hroom hx hk hz, fun ed ml late hfind => ?_,
      fun x ed ml late hfind => exec_prove_some hup hfind ed ml late, exec_session_none hup, fun x hopen => ?_,
      fun a p dg hhead => exec_thaunoFragment_discarded (Or.inr hhead) a p,
      fun a p dg hhead hsess => exec_thaunoFragment_bare hup hhead hsess a p, fun a p dg hhead hsess hn => ?_, fun t a ht => ?_, fun t a ht => ?_⟩
    · rw [exec_sessionOpen, if_pos hup, doOpen_malformed hbad]
    · rw [exec_sessionOpen, if_pos hup, doOpen_full hfull hx hk hz]
    · rw [exec_prove, if_pos hup, doProve_unknown hfind]
    · refine ⟨?_, ?_, exec_feed_acked hup hopen, fun m f hun => exec_feed_some hup hopen hun⟩
      · rw [exec_sessionClose, if_pos hup, doClose_some hopen]
      · rw [exec_subscribe, if_pos hup, doSubscribe_some hopen]
    · refine ⟨fun hfind => exec_thaunoFragment_unknown hup hhead hsess hn hfind a p, fun x hfind => ?_⟩
      rw [exec_thaunoFragment_session hup hhead hsess hn hfind]
      refine ⟨fun hopen htag => congrArg _ (sessionFragment_badTag hopen htag), fun htag => ⟨fun hw => ?_, fun d hw hopen => ?_, fun d hw hopen => ?_⟩⟩
      · exact congrArg _ (sessionFragment_kept htag hw)
      · exact congrArg _ ((sessionFragment_whole htag hw).trans (if_pos hopen))
      · exact congrArg _ ((sessionFragment_whole htag hw).trans (if_neg (ne_true_of_eq_false hopen)))
    · rw [exec_neighborSolicitation, if_pos (by simp [hup, ht])]
    · rw [exec_neighborSolicitation, if_neg (by simp [ht])]
  · rw [exec_reassemblyTimeout, if_neg hn]
  · refine ⟨fun p hp => exec_mgmt_still hrun hp, fun p hop hdest harr => ⟨fun hnone => ?_, fun m hm hmine => ?_⟩,
      fun c v => ⟨fun hbusy => exec_mbGo_busy hrun c v hbusy, fun hfree hbad => exec_mbGo_fails hrun hfree hbad,
        fun a hfree hbuf hmin hmax => exec_mbGo_sends hrun hfree hbuf hmin hmax⟩⟩
    · exact exec_mgmt_none hrun hop hdest harr (hnone.imp_right fun hmine => Bool.eq_false_iff.2 fun hcur => hmine ((currentPacket_iff s p _).1 hcur))
    · rw [exec_mgmt_some hrun hop hdest harr hm ((currentPacket_iff s p _).2 hmine)]
      exact ⟨fun hlt => congrArg _ (mbReceive_part _ hlt), fun hle hbad => congrArg _ (mbReceive_bad _ hle hbad),
        fun hle hbad => congrArg _ (mbReceive_whole _ hle hbad)⟩

end Sys2Proof.Machine
end
